-- ==== Sys2Proof/Word.lean ====
section
/-! DEFINITION. The words of the machine: 64-bit scalar registers and instruction words, bytes, and the
plainest arithmetic on them (00 R7: bits are numbered from 0 at the least significant end). -/

namespace Sys2Proof

/-- A scalar register, a CSR, an instruction word (64 bits). -/
abbrev Word := BitVec 64

/-- One byte of memory, of a tile or of a line. -/
abbrev Byte := BitVec 8

/-- A core identifier: die, block, cluster and core (R4). -/
abbrev CoreId := BitVec 8

/-- The floor of the base-2 logarithm of a positive number (0 of 0). -/
def ilog2 (n : Nat) : Nat := Nat.log2 n

/-- Ceiling division of natural numbers. -/
def cdiv (a b : Nat) : Nat := (a + b - 1) / b

end Sys2Proof
end

