-- ==== Sys2Proof/Config.lean ====
section
/-! DEFINITION. What an implementation fixes, and the free values: constants without a body, of which no
proof can know the value (R11). A free value is drawn by applying one of them to the counter
State.tick, or to the operands it depends on; notes/assumptions/4.md lists every use. -/

namespace Sys2Proof

/-- The two steppings of the part (R2, R374). -/
inductive Stepping where
  | a1
  | b0
  deriving DecidableEq, Repr

namespace Config

/-- A free 64-bit value for each draw (CYCLE, error-log TIME, power demand, image offsets). -/
opaque freeWord : Nat → BitVec 64

/-- A free byte for each draw and each place (the overlapped bytes of a copy, R299). -/
opaque freeByte : Nat → Nat → BitVec 8

/-- A free register content for each draw (the bits beyond a VFILL frame, R87; an EMPTY register, R84). -/
opaque freeVector : Nat → BitVec 262144

/-- The value a part delivers for an FP32 special function (function code, operand): R240 fixes only a bound
of 1 or 2 ulp on it, which Machine/Special.lean enforces. -/
opaque specialF32 : Nat → BitVec 32 → BitVec 32

/-- The corrected-error threshold of a frame (R138 names one and gives no figure). -/
opaque frameThreshold : Nat

/-- Whether a return from a machine trap goes to SUPER (true) or to USER, by the value of MSTATUS: its contents belong to
firmware (R377). -/
opaque machineReturnPriv : BitVec 64 → Bool

/-- The floor of a power requester in 1/16 W (R394): cores 0 to 255, ports, links, host. -/
opaque powerFloor : Nat → Nat

/-- The power in 1/16 W that a die may draw under a current limit in 1/16 A (R394 names no voltage). -/
opaque dieWatts : Nat → Nat

end Config
end Sys2Proof
end

