-- ==== Sys2Proof/Syntax.lean ====
section
/-! DEFINITION. The instructions and events of the machine: one constructor per row of spec/opcode_table.json.
The word instructions carry the fields of their format (R186) that their major opcode and sub-function do not
fix; the events carry what the outside world or the choice of the moment gives them. -/

namespace Sys2Proof

/-- Condition codes of R189. -/
inductive CC where
  | eq | ne | lt | ge | ltu | geu | gt | le | gtu | leu
  deriving DecidableEq, Repr

/-- The code of a condition (R189). -/
def CC.code : CC → Nat
  | .eq => 0 | .ne => 1 | .lt => 2 | .ge => 3 | .ltu => 4
  | .geu => 5 | .gt => 6 | .le => 7 | .gtu => 8 | .leu => 9

/-- The condition of a code; codes 10 to 15 are refused (R189). -/
def CC.ofCode : Nat → Option CC
  | 0 => some .eq | 1 => some .ne | 2 => some .lt | 3 => some .ge | 4 => some .ltu
  | 5 => some .geu | 6 => some .gt | 7 => some .le | 8 => some .gtu | 9 => some .leu
  | _ => none

/-- Element types of R48. -/
inductive ET where
  | i8 | u8 | i16 | u16 | i32 | u32 | i64 | u64
  | f16 | bf16 | f32 | f64
  | e4m3 | e5m2 | e3m2 | e2m3 | e2m1
  | i4 | e8m0 | wac | kc2
  deriving DecidableEq, Repr

/-- The 5-bit code of an element type (R48). -/
def ET.code : ET → Nat
  | .i8 => 0x00 | .u8 => 0x01 | .i16 => 0x02 | .u16 => 0x03 | .i32 => 0x04 | .u32 => 0x05
  | .i64 => 0x06 | .u64 => 0x07 | .f16 => 0x08 | .bf16 => 0x09 | .f32 => 0x0A | .f64 => 0x0B
  | .e4m3 => 0x0C | .e5m2 => 0x0D | .e3m2 => 0x0E | .e2m3 => 0x0F | .e2m1 => 0x10
  | .i4 => 0x11 | .e8m0 => 0x12 | .wac => 0x13 | .kc2 => 0x14

/-- The element type of a code; 0x15 to 0x1F are reserved (R48). -/
def ET.ofCode : Nat → Option ET
  | 0x00 => some .i8 | 0x01 => some .u8 | 0x02 => some .i16 | 0x03 => some .u16
  | 0x04 => some .i32 | 0x05 => some .u32 | 0x06 => some .i64 | 0x07 => some .u64
  | 0x08 => some .f16 | 0x09 => some .bf16 | 0x0A => some .f32 | 0x0B => some .f64
  | 0x0C => some .e4m3 | 0x0D => some .e5m2 | 0x0E => some .e3m2 | 0x0F => some .e2m3
  | 0x10 => some .e2m1 | 0x11 => some .i4 | 0x12 => some .e8m0 | 0x13 => some .wac
  | 0x14 => some .kc2 | _ => none

/-- The formats of the scalar floating-point forms, FN[11:8] of majors 0x28 and 0x29 (R196). -/
inductive FFmt where
  | f32 | f64 | f16 | bf16
  deriving DecidableEq, Repr

/-- FN[11:8] of a scalar format (R196). -/
def FFmt.code : FFmt → Nat
  | .f32 => 0 | .f64 => 1 | .f16 => 2 | .bf16 => 3

/-- The scalar format of FN[11:8] (R196, R218). -/
def FFmt.ofCode : Nat → Option FFmt
  | 0 => some .f32 | 1 => some .f64 | 2 => some .f16 | 3 => some .bf16 | _ => none

/-- The reduction operations, FN[3:0] of major 0x57 (R196). -/
inductive RedOp where
  | add | min | max | and | or | xor
  deriving DecidableEq, Repr

/-- FN[3:0] of a reduction (R196). -/
def RedOp.code : RedOp → Nat
  | .add => 0 | .min => 1 | .max => 2 | .and => 3 | .or => 4 | .xor => 5

/-- The reduction of FN[3:0]; 6 to 15 are refused (R241). -/
def RedOp.ofCode : Nat → Option RedOp
  | 0 => some .add | 1 => some .min | 2 => some .max | 3 => some .and | 4 => some .or
  | 5 => some .xor | _ => none

/-- Format SA, scalar register (R186); FN stands in the constructor. -/
structure SA where
  xd : BitVec 6
  xa : BitVec 6
  xb : BitVec 6
  xc : BitVec 6
  deriving DecidableEq, Repr

/-- Format SI, scalar immediate (R186); ext is EXT56[23:0] of an accepted extension word (R190). -/
structure SI where
  xd  : BitVec 6
  xa  : BitVec 6
  imm : BitVec 40
  ext : Option (BitVec 24)
  deriving DecidableEq, Repr

/-- Format SB, branch and loop (R186); LOOPI reads xa and xb together as COUNT12. -/
structure SB where
  xa  : BitVec 6
  xb  : BitVec 6
  off : BitVec 40
  deriving DecidableEq, Repr

/-- Format SM, scalar memory and synchronisation objects (R186). -/
structure SM where
  xd    : BitVec 6
  xa    : BitVec 6
  xb    : BitVec 6
  ord   : BitVec 2
  scope : BitVec 3
  size  : BitVec 3
  imm   : BitVec 30
  ext   : Option (BitVec 26)
  deriving DecidableEq, Repr

/-- Format VA, vector arithmetic (R186); vd, va, vb and vc are operand codes (R187). -/
structure VA where
  vd  : BitVec 7
  va  : BitVec 7
  vb  : BitVec 7
  vc  : BitVec 7
  msk : BitVec 3
  mz  : BitVec 1
  wa  : BitVec 1
  wb  : BitVec 1
  wc  : BitVec 1
  et  : ET
  deriving DecidableEq, Repr

/-- Format VM, vector memory (R186). -/
structure VM where
  vd   : BitVec 7
  xa   : BitVec 6
  idx  : BitVec 7
  msk  : BitVec 3
  mz   : BitVec 1
  wa   : BitVec 1
  ord  : BitVec 2
  et   : ET
  disp : BitVec 24
  ext  : Option (BitVec 32)
  deriving DecidableEq, Repr

/-- Format TT, tile and tensor cache (R186); FN is zero in every form (R266). -/
structure TT where
  t    : BitVec 8
  xa   : BitVec 6
  xb   : BitVec 6
  xc   : BitVec 6
  mode : BitVec 6
  imm  : BitVec 12
  ext  : Option (BitVec 44)
  deriving DecidableEq, Repr

/-- Format EN, engine (R186); flags is the byte [15:8]. -/
structure EN where
  xd    : BitVec 6
  xa    : BitVec 6
  xb    : BitVec 6
  xc    : BitVec 6
  opA   : BitVec 8
  opB   : BitVec 8
  flags : BitVec 8
  fn    : BitVec 8
  deriving DecidableEq, Repr

/-- Format FX, fabric opcode (R186). -/
structure FX where
  slot  : BitVec 6
  vd    : BitVec 7
  va    : BitVec 7
  vb    : BitVec 7
  xl    : BitVec 6
  msk   : BitVec 3
  flags : BitVec 4
  imm   : BitVec 16
  ext   : Option (BitVec 48)
  deriving DecidableEq, Repr

/-- Format SY, system (R186); FN stands in the constructor, or is the CSR number. -/
structure SY where
  xd  : BitVec 6
  xa  : BitVec 6
  imm : BitVec 32
  ext : Option (BitVec 32)
  deriving DecidableEq, Repr

/-- The engine whose inbox an active message enters (R180). -/
inductive Engine where
  | copy | matrix | flush
  deriving DecidableEq, Repr

/-- The host's answer to a PRI page request (R37). -/
inductive PriAnswer where
  | success | invalid | failure
  deriving DecidableEq, Repr

/-- The name of a cache line (R99): by physical address, or by tensor and tile number. The tenant of an
address-mode line is recorded when its page has TEN = 1. -/
inductive LineKey where
  | addr (tenant : Option (BitVec 6)) (line : Nat)
  | tensor (tenant : BitVec 6) (asid tid gen : BitVec 16) (n : Nat)
  deriving DecidableEq, Repr

/-- A queue of launch records: a hardware work queue (global number) or a region's own ring (R380, R171). -/
inductive QueueId where
  | hw (q : Nat)
  | ring (tenant : BitVec 6) (region : Nat)
  deriving DecidableEq, Repr

/-- A request of another node (R411): the access it asks for. -/
inductive RemoteOp where
  | load (bytes : Nat)
  | store (bytes : Nat) (value : Nat)
  | amo (op : Nat) (bytes : Nat) (value : Nat)
  | scatterAdd (et : ET) (rm : BitVec 2) (value : Nat)
  | claim (count : Nat)
  | deck (op : Nat) (value : Word)
  | claspInit (expect : Nat)
  | clasp (drop : Bool)
  deriving DecidableEq, Repr

/-- A unit of a core that ramps its issue rate (R395): 0 vector, 1 matrix, 2 fabric, 3 copy. -/
structure PowerUnit where
  core : CoreId
  unit : BitVec 2
  deriving DecidableEq, Repr

/-- One constructor per row of spec/opcode_table.json, in its order. -/
inductive Instr where
  /-- ADD (R210). -/
  | add (f : SA)
  /-- SUB (R210). -/
  | sub (f : SA)
  /-- AND (R210). -/
  | and (f : SA)
  /-- OR (R210). -/
  | or (f : SA)
  /-- XOR (R210). -/
  | xor (f : SA)
  /-- ANDN (R210). -/
  | andn (f : SA)
  /-- SHL (R210). -/
  | shl (f : SA)
  /-- SHR (R210). -/
  | shr (f : SA)
  /-- SRA (R210). -/
  | sra (f : SA)
  /-- ROTR (R210). -/
  | rotr (f : SA)
  /-- MIN (R210). -/
  | min (f : SA)
  /-- MAX (R210). -/
  | max (f : SA)
  /-- MINU (R210). -/
  | minu (f : SA)
  /-- MAXU (R210). -/
  | maxu (f : SA)
  /-- MUL (R211). -/
  | mul (f : SA)
  /-- MULH (R211). -/
  | mulh (f : SA)
  /-- MULH_U (R211). -/
  | mulhU (f : SA)
  /-- MULH_SU (R211). -/
  | mulhSu (f : SA)
  /-- DIV (R212). -/
  | div (f : SA)
  /-- DIVU (R212). -/
  | divu (f : SA)
  /-- REM (R212). -/
  | rem (f : SA)
  /-- REMU (R212). -/
  | remu (f : SA)
  /-- CMP_CC (R213). -/
  | cmpCc (cc : CC) (f : SA)
  /-- SEL (R213). -/
  | sel (f : SA)
  /-- CLZ (R214). -/
  | clz (f : SA)
  /-- CTZ (R214). -/
  | ctz (f : SA)
  /-- POPC (R214). -/
  | popc (f : SA)
  /-- BREV (R214). -/
  | brev (f : SA)
  /-- SEXT_B (R214). -/
  | sextB (f : SA)
  /-- SEXT_H (R214). -/
  | sextH (f : SA)
  /-- SEXT_W (R214). -/
  | sextW (f : SA)
  /-- ZEXT_B (R214). -/
  | zextB (f : SA)
  /-- ZEXT_H (R214). -/
  | zextH (f : SA)
  /-- ZEXT_W (R214). -/
  | zextW (f : SA)
  /-- BFX_U (R215). -/
  | bfxU (f : SA)
  /-- BFX_S (R215). -/
  | bfxS (f : SA)
  /-- BFI (R215). -/
  | bfi (f : SA)
  /-- ADDI (R216). -/
  | addi (f : SI)
  /-- ANDI (R216). -/
  | andi (f : SI)
  /-- ORI (R216). -/
  | ori (f : SI)
  /-- XORI (R216). -/
  | xori (f : SI)
  /-- SHLI (R216). -/
  | shli (f : SI)
  /-- SHRI (R216). -/
  | shri (f : SI)
  /-- SRAI (R216). -/
  | srai (f : SI)
  /-- LI (R217). -/
  | li (f : SI)
  /-- LIX (R217). -/
  | lix (f : SI)
  /-- CMPI (R217). -/
  | cmpi (cc : CC) (f : SI)
  /-- FADD (R219). -/
  | fadd (fmt : FFmt) (f : SA)
  /-- FSUB (R219). -/
  | fsub (fmt : FFmt) (f : SA)
  /-- FMUL (R219). -/
  | fmul (fmt : FFmt) (f : SA)
  /-- FFMA (R219). -/
  | ffma (fmt : FFmt) (f : SA)
  /-- FDIV (R219). -/
  | fdiv (fmt : FFmt) (f : SA)
  /-- FSQRT (R219). -/
  | fsqrt (fmt : FFmt) (f : SA)
  /-- FMIN (R219). -/
  | fmin (fmt : FFmt) (f : SA)
  /-- FMAX (R219). -/
  | fmax (fmt : FFmt) (f : SA)
  /-- FCMP_EQ (R220). -/
  | fcmpEq (fmt : FFmt) (f : SA)
  /-- FCMP_LT (R220). -/
  | fcmpLt (fmt : FFmt) (f : SA)
  /-- FCMP_LE (R220). -/
  | fcmpLe (fmt : FFmt) (f : SA)
  /-- FCMP_UN (R220). -/
  | fcmpUn (fmt : FFmt) (f : SA)
  /-- FCLASS (R220). -/
  | fclass (fmt : FFmt) (f : SA)
  /-- FMV (R220). -/
  | fmv (f : SA)
  /-- FCVT (R221). -/
  | fcvt (dst src : ET) (f : SA)
  /-- BR_CC (R222). -/
  | brCc (cc : CC) (f : SB)
  /-- JMP (R222). -/
  | jmp (f : SB)
  /-- JAL (R222). -/
  | jal (f : SB)
  /-- JR (R222). -/
  | jr (f : SB)
  /-- LOOP (R224). -/
  | loop (k : BitVec 1) (f : SB)
  /-- LOOPI (R224). -/
  | loopi (k : BitVec 1) (f : SB)
  /-- LD (R255). -/
  | ld (f : SM)
  /-- ST (R255). -/
  | st (f : SM)
  /-- AMO_ADD (R256). -/
  | amoAdd (f : SM)
  /-- AMO_AND (R256). -/
  | amoAnd (f : SM)
  /-- AMO_OR (R256). -/
  | amoOr (f : SM)
  /-- AMO_XOR (R256). -/
  | amoXor (f : SM)
  /-- AMO_MIN (R256). -/
  | amoMin (f : SM)
  /-- AMO_MAX (R256). -/
  | amoMax (f : SM)
  /-- AMO_MINU (R256). -/
  | amoMinu (f : SM)
  /-- AMO_MAXU (R256). -/
  | amoMaxu (f : SM)
  /-- AMO_SWAP (R256). -/
  | amoSwap (f : SM)
  /-- AMO_INCB (R256). -/
  | amoIncb (f : SM)
  /-- CAS (R255). -/
  | cas (f : SM)
  /-- FENCE_ACQ (R147). -/
  | fenceAcq (f : SM)
  /-- FENCE_REL (R147). -/
  | fenceRel (f : SM)
  /-- FENCE_FULL (R154). -/
  | fenceFull (f : SM)
  /-- SETSHAPE (R227). -/
  | setshape (f : SA)
  /-- SETCFG (R228). -/
  | setcfg (f : SI)
  /-- SETCFG_EW (R228). -/
  | setcfgEw (f : SI)
  /-- SETCFG_SCOPE (R228). -/
  | setcfgScope (f : SI)
  /-- SETCFG_SPACE (R228). -/
  | setcfgSpace (f : SI)
  /-- SETCFG_RM (R228). -/
  | setcfgRm (f : SI)
  /-- VQLEN (R229). -/
  | vqlen (f : SA)
  /-- SETTILE (R282). -/
  | settile (f : SA)
  /-- VADD (R235). -/
  | vadd (f : VA)
  /-- VSUB (R235). -/
  | vsub (f : VA)
  /-- VMUL (R235). -/
  | vmul (f : VA)
  /-- VMULH (R235). -/
  | vmulh (f : VA)
  /-- VDIV (R235). -/
  | vdiv (f : VA)
  /-- VMIN (R235). -/
  | vmin (f : VA)
  /-- VMAX (R235). -/
  | vmax (f : VA)
  /-- VFMA (R235). -/
  | vfma (f : VA)
  /-- VFMS (R235). -/
  | vfms (f : VA)
  /-- VFNMA (R235). -/
  | vfnma (f : VA)
  /-- VAND (R235). -/
  | vand (f : VA)
  /-- VOR (R235). -/
  | vor (f : VA)
  /-- VXOR (R235). -/
  | vxor (f : VA)
  /-- VSHL (R235). -/
  | vshl (f : VA)
  /-- VSHR (R235). -/
  | vshr (f : VA)
  /-- VSRA (R235). -/
  | vsra (f : VA)
  /-- VABS (R236). -/
  | vabs (f : VA)
  /-- VNEG (R236). -/
  | vneg (f : VA)
  /-- VNOT (R236). -/
  | vnot (f : VA)
  /-- VSQRT (R236). -/
  | vsqrt (f : VA)
  /-- VRCP (R236). -/
  | vrcp (f : VA)
  /-- VRSQ (R236). -/
  | vrsq (f : VA)
  /-- VCLZ (R236). -/
  | vclz (f : VA)
  /-- VPOPC (R236). -/
  | vpopc (f : VA)
  /-- VCMP_CC (R237). -/
  | vcmpCc (cc : CC) (f : VA)
  /-- VSEL (R238). -/
  | vsel (f : VA)
  /-- VMOV (R239). -/
  | vmov (f : VA)
  /-- VBCAST (R239). -/
  | vbcast (f : VA)
  /-- VIOTA (R239). -/
  | viota (f : VA)
  /-- VMVX (R239). -/
  | vmvx (f : VA)
  /-- VMVS (R239). -/
  | vmvs (f : VA)
  /-- VEXP2 (R240). -/
  | vexp2 (f : VA)
  /-- VLOG2 (R240). -/
  | vlog2 (f : VA)
  /-- VSIN (R240). -/
  | vsin (f : VA)
  /-- VCOS (R240). -/
  | vcos (f : VA)
  /-- VRED (R242). -/
  | vred (op : RedOp) (f : VA)
  /-- VREDX (R242). -/
  | vredx (op : RedOp) (f : VA)
  /-- VSCAN (R243). -/
  | vscan (op : RedOp) (f : VA)
  /-- VSLIDE_UP (R244). -/
  | vslideUp (f : VA)
  /-- VSLIDE_DN (R244). -/
  | vslideDn (f : VA)
  /-- VPERM (R244). -/
  | vperm (f : VA)
  /-- VPUSH (R245). -/
  | vpush (f : VA)
  /-- VTRANS (R244). -/
  | vtrans (f : VA)
  /-- VSHUF (R244). -/
  | vshuf (f : VA)
  /-- MAND (R247). -/
  | mand (f : VA)
  /-- MOR (R247). -/
  | mor (f : VA)
  /-- MXOR (R247). -/
  | mxor (f : VA)
  /-- MNOT (R247). -/
  | mnot (f : VA)
  /-- MPOPC (R247). -/
  | mpopc (f : VA)
  /-- MFIRST (R247). -/
  | mfirst (f : VA)
  /-- VCVT (R249). -/
  | vcvt (src : ET) (f : VA)
  /-- VCVT_NARROW (R249). -/
  | vcvtNarrow (src : ET) (f : VA)
  /-- VCVT_WIDEN (R249). -/
  | vcvtWiden (src : ET) (f : VA)
  /-- VCVT_F32_E2M1 (R249). -/
  | vcvtF32E2m1 (src : ET) (f : VA)
  /-- VSCALE (R250). -/
  | vscale (src : ET) (f : VA)
  /-- VADD_WAC (R251). -/
  | vaddWac (f : VA)
  /-- VCVT_WAC (R251). -/
  | vcvtWac (f : VA)
  /-- VCVT_FWAC (R251). -/
  | vcvtFwac (f : VA)
  /-- VMETA (R288). -/
  | vmeta (f : VA)
  /-- VTOPK (R252). -/
  | vtopk (f : VA)
  /-- VLD_UNIT (R260). -/
  | vldUnit (f : VM)
  /-- VLD_STRIDED (R260). -/
  | vldStrided (f : VM)
  /-- VLDX (R260). -/
  | vldx (f : VM)
  /-- VST_UNIT (R260). -/
  | vstUnit (f : VM)
  /-- VST_STRIDED (R260). -/
  | vstStrided (f : VM)
  /-- VSTX (R261). -/
  | vstx (f : VM)
  /-- VSADD (R263). -/
  | vsadd (f : VM)
  /-- VAMO (R264). -/
  | vamo (f : VM)
  /-- VSPILL (R265). -/
  | vspill (f : VM)
  /-- VFILL (R265). -/
  | vfill (f : VM)
  /-- TALLOC (R267). -/
  | talloc (f : TT)
  /-- TALLOC_FIX (R267). -/
  | tallocFix (f : TT)
  /-- TFREE (R267). -/
  | tfree (f : TT)
  /-- TSTAT (R268). -/
  | tstat (f : TT)
  /-- TSTAT_H (R268). -/
  | tstatH (f : TT)
  /-- TWAIT (R268). -/
  | twait (f : TT)
  /-- TWAIT_H (R268). -/
  | twaitH (f : TT)
  /-- TLD (R270). -/
  | tld (f : TT)
  /-- TST (R271). -/
  | tst (f : TT)
  /-- VPLN (R272). -/
  | vpln (f : TT)
  /-- TDESC (R273). -/
  | tdesc (f : TT)
  /-- TDESC_RF (R273). -/
  | tdescRf (f : TT)
  /-- TNBR (R273). -/
  | tnbr (f : TT)
  /-- THALO (R273). -/
  | thalo (f : TT)
  /-- TINV (R111). -/
  | tinv (f : TT)
  /-- TFLUSH (R112). -/
  | tflush (f : TT)
  /-- TPROBE (R275). -/
  | tprobe (f : TT)
  /-- COPY (R297). -/
  | copy (f : EN)
  /-- COPY_DEC (R304). -/
  | copyDec (f : EN)
  /-- COPY_ENC (R305). -/
  | copyEnc (f : EN)
  /-- CWAIT (R296). -/
  | cwait (f : EN)
  /-- CSTAT (R296). -/
  | cstat (f : EN)
  /-- MMA (R285). -/
  | mma (f : EN)
  /-- MMA_SP (R287). -/
  | mmaSp (f : EN)
  /-- MMA_CB (R289). -/
  | mmaCb (f : EN)
  /-- CBLD (R290). -/
  | cbld (f : EN)
  /-- MWAIT (R296). -/
  | mwait (f : EN)
  /-- MSTAT (R296). -/
  | mstat (f : EN)
  /-- POT_OPEN (R337). -/
  | potOpen (f : EN)
  /-- POT_JOIN (R338). -/
  | potJoin (f : EN)
  /-- POT_SEND (R339). -/
  | potSend (f : EN)
  /-- POT_WAIT (R337). -/
  | potWait (f : EN)
  /-- POT_CLOSE (R337). -/
  | potClose (f : EN)
  /-- POT_CLOSE_J (R340). -/
  | potCloseJ (f : EN)
  /-- POT_STAT (R340). -/
  | potStat (f : EN)
  /-- POT_STAT_J (R340). -/
  | potStatJ (f : EN)
  /-- CLAIM (R130). -/
  | claim (f : SM)
  /-- DECK_PUSH (R132). -/
  | deckPush (f : SM)
  /-- DECK_POP (R132). -/
  | deckPop (f : SM)
  /-- DECK_STEAL (R132). -/
  | deckSteal (f : SM)
  /-- CLASP_INIT (R134). -/
  | claspInit (f : SM)
  /-- CLASP_ARRIVE (R134). -/
  | claspArrive (f : SM)
  /-- CLASP_DROP (R134). -/
  | claspDrop (f : SM)
  /-- CLASP_WAIT (R276). -/
  | claspWait (f : SM)
  /-- WAITA (R136). -/
  | waita (f : SM)
  /-- FBIND (R320). -/
  | fbind (f : EN)
  /-- FUNBIND (R319). -/
  | funbind (f : EN)
  /-- FQRY (R319). -/
  | fqry (f : EN)
  /-- FOP (R321). -/
  | fop (f : FX)
  /-- NOP (R360). -/
  | nop (f : SY)
  /-- TRAP (R360). -/
  | trap (f : SY)
  /-- BKPT (R360). -/
  | bkpt (f : SY)
  /-- YIELD (R360). -/
  | yield (f : SY)
  /-- DONE (R361). -/
  | done (f : SY)
  /-- ERET (R354). -/
  | eret (f : SY)
  /-- CSRRD (R362). -/
  | csrrd (csr : BitVec 12) (f : SY)
  /-- CSRWR (R362). -/
  | csrwr (csr : BitVec 12) (f : SY)
  /-- CSRSET (R362). -/
  | csrset (csr : BitVec 12) (f : SY)
  /-- CSRCLR (R362). -/
  | csrclr (csr : BitVec 12) (f : SY)
  /-- ENQ (R363). -/
  | enq (f : SY)
  /-- DCWB (R364). -/
  | dcwb (f : SY)
  /-- ICINV (R364). -/
  | icinv (f : SY)
  /-- FETCHB (R364). -/
  | fetchb (f : SY)
  /-- KEYSEL_BIND (R365). -/
  | keyselBind (f : SY)
  /-- KEYSEL_UNBIND (R365). -/
  | keyselUnbind (f : SY)
  /-- KEYSEL_QRY (R365). -/
  | keyselQry (f : SY)
  /-- UDF (R194). -/
  | udf (bits : BitVec 56)
  /-- REPLY_RETURN (R178). -/
  | replyReturn (c : CoreId) (slot : Nat)
  /-- ACTIVE_MESSAGE_DELIVERY (R180). -/
  | activeMessageDelivery (c : CoreId) (e : Engine)
  /-- COPY_SUSPEND (R301). -/
  | copySuspend (c : CoreId) (h : BitVec 8)
  /-- COPY_COMPLETE (R302). -/
  | copyComplete (c : CoreId) (h : BitVec 8)
  /-- MATRIX_COMPLETE (R293). -/
  | matrixComplete (c : CoreId)
  /-- ENGINE_TRAP_DELIVERY (R293). -/
  | engineTrapDelivery (c : CoreId)
  /-- TFLUSH_COMPLETE (R112). -/
  | tflushComplete (c : CoreId) (h : BitVec 8)
  /-- PAGE_WALK (R29). -/
  | pageWalk (c : CoreId) (va : BitVec 56)
  /-- ATS_TRANSLATION_COMPLETION (R37). -/
  | atsTranslationCompletion (func : Nat) (page : Nat) (host : Nat) (granted write : Bool)
  /-- PRI_RESPONSE (R37). -/
  | priResponse (func : Nat) (page : Nat) (answer : PriAnswer)
  /-- HOSTPAGE_TIMEOUT (R37). -/
  | hostpageTimeout (func : Nat) (page : Nat)
  /-- ATS_INVALIDATION_REQUEST (R38). -/
  | atsInvalidationRequest (func : Nat) (page count : Nat)
  /-- TICMD_GO (R40). -/
  | ticmdGo (func : Nat) (value : Word)
  /-- TICMD_ERR_CLEAR (R39). -/
  | ticmdErrClear (func : Nat)
  /-- SHOOTDOWN_COMPLETE (R40). -/
  | shootdownComplete (func : Nat)
  /-- TWIN_WRITE (R24). -/
  | twinWrite (t : BitVec 6) (w : BitVec 4) (value : Word)
  /-- LINE_FILL (R123). -/
  | lineFill (c : CoreId) (key : LineKey)
  /-- SCATTER_ADD_PASS (R128). -/
  | scatterAddPass (word : Nat)
  /-- GENERATION_SCRUB (R111). -/
  | generationScrub
  /-- PATROL_SCRUB (R137). -/
  | patrolScrub (segment : Nat) (corrected : Bool)
  /-- MONITOR_EXPIRY (R135). -/
  | monitorExpiry (c : CoreId) (word : Nat)
  /-- WAITA_TIMEOUT (R136). -/
  | waitaTimeout (c : CoreId)
  /-- WAITA_MONFULL (R136). -/
  | waitaMonfull (c : CoreId)
  /-- CLASP_WAIT_POLL (R136). -/
  | claspWaitPoll (c : CoreId)
  /-- SNP_DATA (R117). -/
  | snpData (line : Nat)
  /-- SNP_INV (R117). -/
  | snpInv (line : Nat)
  /-- SNP_CUR (R117). -/
  | snpCur (line : Nat)
  /-- BISNP_RESPONSE (R400). -/
  | bisnpResponse (line : Nat) (data : Option Nat)
  /-- HOST_MEMORY_ACCESS (R166). -/
  | hostMemoryAccess (pa : Nat) (bytes : Nat) (data : Option Nat) (trusted : Bool)
  /-- CLUSTER_POWER_GATE (R118). -/
  | clusterPowerGate (cl : BitVec 6)
  /-- DECISION_ROUND (R387). -/
  | decisionRound (die : BitVec 2)
  /-- ROOT_DECISION_ROUND (R386). -/
  | rootDecisionRound
  /-- LAUNCH_RECORD_FETCH (R384). -/
  | launchRecordFetch (q : QueueId)
  /-- BLOCKED_HEAD_REREAD (R384). -/
  | blockedHeadReread (q : QueueId)
  /-- HOLD_BEGIN (R388). -/
  | holdBegin (task : Nat)
  /-- QUANTUM_EXPIRY (R389). -/
  | quantumExpiry (task : Nat)
  /-- POTDEFER_DEADLINE (R344). -/
  | potdeferDeadline (task : Nat)
  /-- PREEMPTION_SAVE (R366). -/
  | preemptionSave (c : CoreId)
  /-- PREEMPT_DELIVERY (R367). -/
  | preemptDelivery (c : CoreId)
  /-- PREEMPT_GRACE_EXPIRY (R367). -/
  | preemptGraceExpiry (c : CoreId)
  /-- CONTEXT_RESTORE (R370). -/
  | contextRestore (c : CoreId)
  /-- SLICE_RETIREMENT (R98). -/
  | sliceRetirement (c : CoreId) (slice : BitVec 5)
  /-- GENERATION_RECORD (R372). -/
  | generationRecord (c : CoreId)
  /-- GENCMD_WRITE (R371). -/
  | gencmdWrite
  /-- WQTAIL_DOORBELL (R380). -/
  | wqtailDoorbell (func : Nat) (q : Nat) (value : Word)
  /-- WQBASE_WRITE (R380). -/
  | wqbaseWrite (func : Nat) (q : Nat) (value : Word)
  /-- WQHEAD_ERR_CLEAR (R380). -/
  | wqheadErrClear (func : Nat) (q : Nat)
  /-- TENANT_RESET_START (R403). -/
  | tenantResetStart (t : BitVec 6)
  /-- FUNCTION_LEVEL_RESET (R403). -/
  | functionLevelReset (func : Nat)
  /-- VF_DISABLE (R403). -/
  | vfDisable (func : Nat)
  /-- TENANT_RESET_COMPLETE (R403). -/
  | tenantResetComplete (t : BitVec 6)
  /-- TRSTAT_DONE_CLEAR (R401). -/
  | trstatDoneClear (t : BitVec 6)
  /-- POWER_INTERVAL (R394). -/
  | powerInterval
  /-- UNIT_RAMP (R395). -/
  | unitRamp (c : PowerUnit)
  /-- NODEID_WRITE (R408). -/
  | nodeidWrite (value : Word)
  /-- MMIO_WRITE (R398). -/
  | mmioWrite (func : Nat) (offset : Nat) (value : Word)
  /-- MSIX_UNMASK (R399). -/
  | msixUnmask (func : Nat) (vector : BitVec 8)
  /-- JOIN_REQUEST_ARRIVAL (R337). -/
  | joinRequestArrival (k : Nat)
  /-- JOIN_RETRY_REISSUE (R328). -/
  | joinRetryReissue (c : CoreId) (j : BitVec 6)
  /-- GRANT (R333). -/
  | grant (k : Nat)
  /-- OVER (R333). -/
  | over (k : Nat)
  /-- DENIED (R333). -/
  | denied (k : Nat)
  /-- SPILLED (R333). -/
  | spilled (k : Nat)
  /-- RESUMED (R333). -/
  | resumed (k : Nat)
  /-- CLOSED (R333). -/
  | closed (k : Nat)
  /-- FORFEIT (R333). -/
  | forfeit (k : Nat)
  /-- FBCOUNT (R345). -/
  | fbcount (k : Nat)
  /-- JOIN_WITHDRAWAL (R333). -/
  | joinWithdrawal (k : Nat)
  /-- CONTRIBUTION_ARRIVAL (R330). -/
  | contributionArrival (k : Nat)
  /-- NODE_LINK_LOSS (R343). -/
  | nodeLinkLoss (node : BitVec 10)
  /-- FOP_COMPLETE (R321). -/
  | fopComplete (c : CoreId) (cycles : Nat)
  /-- FOP_STOP (R323). -/
  | fopStop (c : CoreId) (cycles : Nat)
  /-- ESCAPE_MOVE (R324). -/
  | escapeMove (c : CoreId) (region : BitVec 4)
  /-- ESCAPE_TIMEOUT (R324). -/
  | escapeTimeout (c : CoreId) (region : BitVec 4)
  /-- FABRIC_STALLED (R324). -/
  | fabricStalled (c : CoreId)
  /-- CONFIG_UE (R325). -/
  | configUe (c : CoreId) (plane : BitVec 2) (region : BitVec 4)
  /-- REGION_RELOAD_DONE (R325). -/
  | regionReloadDone (c : CoreId)
  /-- FLIT_CRC_FAIL (R410). -/
  | flitCrcFail (port : Nat)
  /-- PORT_RETRAIN (R410). -/
  | portRetrain (port : Nat)
  /-- LANE_RETIRE (R410). -/
  | laneRetire (port : Nat) (lane : BitVec 3)
  /-- PORT_RETIRE (R410). -/
  | portRetire (port : Nat)
  /-- LANE_RECALIBRATION (R410). -/
  | laneRecalibration (port : Nat) (lane : BitVec 3)
  /-- REMOTE_REQUEST_ARRIVAL (R411). -/
  | remoteRequestArrival (node : BitVec 10) (tenant : BitVec 6) (pa : Nat) (op : RemoteOp)
  /-- REMOTE_REQUEST_TIMEOUT (R411). -/
  | remoteRequestTimeout (c : CoreId)
  /-- KEY_PROVISION (R405). -/
  | keyProvision (func : Nat) (handle : BitVec 16) (key : BitVec 256) (counter : Word)
  /-- KEY_DELETE (R405). -/
  | keyDelete (func : Nat) (handle : BitVec 16)
  /-- TDI_LOCK (R406). -/
  | tdiLock (func : Nat)
  /-- TDI_START (R406). -/
  | tdiStart (func : Nat)
  /-- STOP_INTERFACE (R407). -/
  | stopInterface (func : Nat)
  /-- SPDM_SESSION_EXPIRY (R407). -/
  | spdmSessionExpiry (func : Nat)
  /-- IDE_INTEGRITY_FAILURE (R407). -/
  | ideIntegrityFailure (func : Nat)
  /-- PCIE_LINK_DOWN (R407). -/
  | pcieLinkDown
  /-- CONF_LOST_DELIVERY (R357). -/
  | confLostDelivery (c : CoreId)
  /-- MACHINE_CHECK (R412). -/
  | machineCheck
  /-- UNCONTAINED_END (R412). -/
  | uncontainedEnd (c : CoreId)
  /-- FIRMWARE_UPDATE (R415). -/
  | firmwareUpdate
  /-- DIE_QUIESCE (R415). -/
  | dieQuiesce (die : BitVec 2)
  /-- MCTP_REQUEST (R416). -/
  | mctpRequest
  /-- DEVICE_RESET (R84). -/
  | deviceReset
  /-- VF_ENABLE (R169). -/
  | vfEnable (func : Nat)
  /-- CLUSTER_POWER_UP (R118). -/
  | clusterPowerUp (cl : BitVec 6)
  /-- DIE_RETURN (R415). -/
  | dieReturn (die : BitVec 2)
  /-- LINK_TRAINING_COMPLETE (R410). -/
  | linkTrainingComplete (port : Nat)
  /-- THERMAL_LIMIT_CHANGE (R393). -/
  | thermalLimitChange (limit : BitVec 16)
  /-- SPDM_SESSION_ESTABLISHED (R407). -/
  | spdmSessionEstablished (func : Nat)
  deriving DecidableEq, Repr

end Sys2Proof
end

