-- ==== Sys2Proof/WellFormed.lean ====
section
/-! DEFINITION. Which instructions are well formed: the checks of R187, R188, R194 and of each form's own
description that decide between an instruction and the trap ILLEGAL_ENC (R195, step 3). Events are always
well formed. -/

namespace Sys2Proof

/-- Storage width of an element type in bits (R48). -/
def ET.width : ET → Nat
  | .i8 | .u8 | .e4m3 | .e5m2 | .e3m2 | .e2m3 | .e8m0 => 8
  | .i16 | .u16 | .f16 | .bf16 | .kc2 => 16
  | .i32 | .u32 | .f32 => 32
  | .i64 | .u64 | .f64 => 64
  | .e2m1 | .i4 => 4
  | .wac => 96

/-- Class INT of R234. -/
def ET.isInt (t : ET) : Bool := t.code ≤ 0x07
/-- Class FLT of R234. -/
def ET.isFlt (t : ET) : Bool := 0x08 ≤ t.code && t.code ≤ 0x0B
/-- Class NUM of R234. -/
def ET.isNum (t : ET) : Bool := t.isInt || t.isFlt
/-- Class BITS of R234: every type but WAC96. -/
def ET.isBits (t : ET) : Bool := t != .wac
/-- The types of the conversions of R248, codes 0x00 to 0x11. -/
def ET.isConv (t : ET) : Bool := t.code ≤ 0x11
/-- The narrow floating-point types of R57. -/
def ET.isNarrowFlt (t : ET) : Bool := 0x0C ≤ t.code && t.code ≤ 0x10
/-- Signed integer types (R48, R50). -/
def ET.isSigned : ET → Bool
  | .i8 | .i16 | .i32 | .i64 | .i4 => true
  | .u8 | .u16 | .u32 | .u64 | .f16 | .bf16 | .f32 | .f64 | .e4m3 | .e5m2 | .e3m2 | .e2m3 | .e2m1
  | .e8m0 | .wac | .kc2 => false

/-- What an operand field of a VA or VM form may hold (R187, R188). -/
inductive OpKind where
  /-- unused: the field and its wait bit are zero -/
  | unused
  /-- a vector code, 0 to 41 -/
  | vec
  /-- a vector code or a scalar broadcast -/
  | any
  /-- a scalar code, 64 to 127 -/
  | scalar
  /-- a vector code or a scalar register as destination -/
  | vecOrScalar
  /-- a mask register m0 to m7 as source -/
  | mask
  /-- a mask register m1 to m7 as destination -/
  | maskDst
  /-- the first register of a WAC96 group, 0 to 29 -/
  | wac
  /-- a WAC96 group, or a scalar broadcast sign-extended to 96 bits -/
  | wacOrScalar
  /-- no scale, a vector of scales or a scalar scale (R249) -/
  | scale
  /-- no offset or a scalar offset (R249) -/
  | offset
  /-- v0 to v30: the form also writes the next register (R252) -/
  | pair
  deriving DecidableEq, Repr

/-- Whether a code of a kind is accepted, with the wait bit beside it (R187, R188, R66). -/
def OpKind.ok (k : OpKind) (code : BitVec 7) (w : BitVec 1) : Bool :=
  let n := code.toNat
  match k with
  | .unused => n == 0 && w == 0
  | .vec => n ≤ 41
  | .any => n ≤ 41 || 64 ≤ n
  | .scalar => 64 ≤ n
  | .vecOrScalar => n ≤ 41 || 64 ≤ n
  | .mask => n ≤ 7
  | .maskDst => 1 ≤ n && n ≤ 7
  | .wac => n ≤ 29
  | .wacOrScalar => n ≤ 29 || 64 ≤ n
  | .scale => (n == 0 && w == 0) || (1 ≤ n && n ≤ 41) || 64 ≤ n
  | .offset => (n == 0 && w == 0) || 64 ≤ n
  | .pair => n ≤ 30

/-- The operand kinds of one VA form, the types it accepts, and whether it takes a mask and a zeroing mask. -/
def VA.ok (f : VA) (vd va vb vc : OpKind) (et : Bool) (mskOk mzOk : Bool) : Bool :=
  vd.ok f.vd 0 && va.ok f.va f.wa && vb.ok f.vb f.wb && vc.ok f.vc f.wc && et &&
  (mskOk || f.msk == 0) && (f.mz == 0 || (mzOk && f.msk != 0))

/-- The pairs of types a conversion kind of R248 accepts. -/
def convPair (kind : Nat) (src dst : ET) : Bool :=
  match kind with
  | 0 => src.isConv && dst.isConv && src.width == dst.width
  | 1 => src.isConv && dst.isConv && 2 * dst.width == src.width
  | 2 => src.isConv && dst.isConv && dst.width == 2 * src.width
  | 3 => src == .f32 && dst == .e2m1
  | _ => src.isFlt && (dst.isNarrowFlt || dst == .i8)

/-- Format SA: the fields a form uses; the others are zero (R209). -/
def SA.ok (f : SA) (d a b c : Bool) : Bool :=
  (d || f.xd == 0) && (a || f.xa == 0) && (b || f.xb == 0) && (c || f.xc == 0)

/-- The combined immediate of an SI word, sign-extended (R190, R216). -/
def SI.value (f : SI) : Word :=
  match f.ext with
  | none => f.imm.signExtend 64
  | some e => e ++ f.imm

/-- The combined immediate of an SM word (R190). -/
def SM.value (f : SM) : Word :=
  match f.ext with
  | none => f.imm.signExtend 64
  | some e => (e ++ f.imm : BitVec 56).signExtend 64

/-- The combined displacement of a VM word (R190). -/
def VM.value (f : VM) : Word :=
  match f.ext with
  | none => f.disp.signExtend 64
  | some e => (e ++ f.disp : BitVec 56).signExtend 64

/-- The combined immediate of a TT word, sign-extended (R190). -/
def TT.value (f : TT) : Word :=
  match f.ext with
  | none => f.imm.signExtend 64
  | some e => (e ++ f.imm : BitVec 56).signExtend 64

/-- The combined immediate of a TT word, zero-extended: the line count of TLD and TST (R270). -/
def TT.uvalue (f : TT) : Nat :=
  match f.ext with
  | none => f.imm.toNat
  | some e => (e ++ f.imm : BitVec 56).toNat

/-- The immediate of a FOP (R313). -/
def FX.value (f : FX) : Word :=
  match f.ext with
  | none => f.imm.signExtend 64
  | some e => e ++ f.imm

/-- The immediate of a system word, sign-extended (R359). -/
def SY.value (f : SY) : Word :=
  match f.ext with
  | none => f.imm.signExtend 64
  | some e => e ++ f.imm

/-- The immediate of a system word where the description says zero-extended (R359). -/
def SY.uvalue (f : SY) : Word :=
  match f.ext with
  | none => f.imm.setWidth 64
  | some e => e ++ f.imm

/-- Format SM: register use, accepted size codes, accepted ord codes, scope 0 to 5 (R146, R196, R276). -/
def SM.ok (f : SM) (xbUsed : Bool) (sizes : List Nat) (ords : List Nat) : Bool :=
  (xbUsed || f.xb == 0) && sizes.contains f.size.toNat && ords.contains f.ord.toNat && f.scope.toNat ≤ 5

/-- An SM form whose immediate holds its operation: no extension, the operation alone (R196). -/
def SM.opIs (f : SM) (op : Nat) : Bool := f.imm.toNat == op && f.ext.isNone

/-- A fence: every field but its scope is zero (R255). -/
def SM.fenceOk (f : SM) (ord : Nat) : Bool :=
  f.xd == 0 && f.xa == 0 && f.xb == 0 && f.size == 0 && f.imm == 0 && f.ext.isNone &&
  f.ord.toNat == ord && f.scope.toNat ≤ 5

/-- Format VM: the register field, the index field, accepted ords (R257, R188). The group of a WAC96
register ends at v31 (R66). -/
def VM.ok (f : VM) (idx : OpKind) (ords : List Nat) (et : Bool) : Bool :=
  f.vd.toNat ≤ (if f.et == .wac then 29 else 41) && idx.ok f.idx 0 && ords.contains f.ord.toNat && et &&
  (f.mz == 0 || f.msk != 0)

/-- VSPILL and VFILL: v0 to v31 (v0 to v29 for WAC96), no index, mask or extension (R265). -/
def VM.spillOk (f : VM) (ords : List Nat) : Bool :=
  f.vd.toNat ≤ (if f.et == .wac then 29 else 31) && f.idx == 0 && f.msk == 0 && f.mz == 0 &&
  f.ext.isNone && ords.contains f.ord.toNat

/-- The types VAMO accepts (R264). -/
def ET.isAmo (t : ET) : Bool := 0x04 ≤ t.code && t.code ≤ 0x07

/-- Format TT: which fields a form uses, its mode bits, and whether its immediate has a meaning (R266, R190). -/
def TT.ok (f : TT) (t xa xb xc : Bool) (mode : Bool) (imm : Bool) : Bool :=
  (t || f.t == 0) && (xa || f.xa == 0) && (xb || f.xb == 0) && (xc || f.xc == 0) && mode &&
  (imm || (f.imm == 0 && f.ext.isNone))

/-- Format EN: which fields a form uses (R283, R296, R319, R336). -/
def EN.ok (f : EN) (xd xa xb xc opA opB : Bool) (flags fn : Bool) : Bool :=
  (xd || f.xd == 0) && (xa || f.xa == 0) && (xb || f.xb == 0) && (xc || f.xc == 0) &&
  (opA || f.opA == 0) && (opB || f.opB == 0) && flags && fn

/-- COPY, COPY.DEC and COPY.ENC: SRCT, DSTT and KEEP only, and a tile field only where it names a tile (R297). -/
def EN.copyOk (f : EN) : Bool :=
  f.flags.toNat ≤ 7 && f.fn == 0 && (f.flags.getLsbD 0 || f.opA == 0) && (f.flags.getLsbD 1 || f.opB == 0)

/-- The C field of a matrix form: bit 15 zero, and a WAC96 group ends at v31 (R283). -/
def EN.mmaOk (f : EN) : Bool :=
  f.flags.toNat ≤ 0x7F && !(f.flags.getLsbD 5 && 30 ≤ f.flags.toNat % 32)

/-- Format SY: which fields a form uses (R359). -/
def SY.ok (f : SY) (xd xa imm : Bool) : Bool :=
  (xd || f.xd == 0) && (xa || f.xa == 0) && (imm || (f.imm == 0 && f.ext.isNone))

/-- The CSR numbers of R197, R198 and R377 that are assigned. -/
def csrAssigned (n : Nat) : Bool :=
  n ≤ 0x005 || (0x008 ≤ n && n ≤ 0x00C) || (0x010 ≤ n && n ≤ 0x013) || n == 0x018 || n == 0x019 ||
  (0x020 ≤ n && n ≤ 0x027) || (0x030 ≤ n && n ≤ 0x035) || n == 0x040 || n == 0x041 || n == 0x050 ||
  n == 0x051 || (0x060 ≤ n && n ≤ 0x064) || n == 0x068 || (0x100 ≤ n && n ≤ 0x105) || n == 0x110 ||
  (0x120 ≤ n && n ≤ 0x122) || n == 0x130 || (0x200 ≤ n && n ≤ 0x205)

/-- The source types VPLN packs: FLT, E4M3, E5M2, E3M2, E2M3 and the integers of 8 to 32 bits (R272). -/
def plnSource (code : Nat) : Bool := code ≤ 0x05 || (0x08 ≤ code && code ≤ 0x0F)

/-- The immediate of a loop form counts at least one instruction (R224). -/
def SB.loopOk (f : SB) : Bool := decide (0 < f.off.toInt)

/-- Whether the fields of an instruction are ones its form accepts. -/
def Instr.wellFormed : Instr → Bool
  | .add f => f.ok true true true false
  | .sub f => f.ok true true true false
  | .and f => f.ok true true true false
  | .or f => f.ok true true true false
  | .xor f => f.ok true true true false
  | .andn f => f.ok true true true false
  | .shl f => f.ok true true true false
  | .shr f => f.ok true true true false
  | .sra f => f.ok true true true false
  | .rotr f => f.ok true true true false
  | .min f => f.ok true true true false
  | .max f => f.ok true true true false
  | .minu f => f.ok true true true false
  | .maxu f => f.ok true true true false
  | .mul f => f.ok true true true false
  | .mulh f => f.ok true true true false
  | .mulhU f => f.ok true true true false
  | .mulhSu f => f.ok true true true false
  | .div f => f.ok true true true false
  | .divu f => f.ok true true true false
  | .rem f => f.ok true true true false
  | .remu f => f.ok true true true false
  | .cmpCc _ f => f.ok true true true false
  | .sel f => f.ok true true true true
  | .clz f => f.ok true true false false
  | .ctz f => f.ok true true false false
  | .popc f => f.ok true true false false
  | .brev f => f.ok true true false false
  | .sextB f => f.ok true true false false
  | .sextH f => f.ok true true false false
  | .sextW f => f.ok true true false false
  | .zextB f => f.ok true true false false
  | .zextH f => f.ok true true false false
  | .zextW f => f.ok true true false false
  | .bfxU f => f.ok true true true true
  | .bfxS f => f.ok true true true true
  | .bfi f => f.ok true true true true
  | .addi _ => true
  | .andi _ => true
  | .ori _ => true
  | .xori _ => true
  | .shli f => decide (f.value.toNat ≤ 63)
  | .shri f => decide (f.value.toNat ≤ 63)
  | .srai f => decide (f.value.toNat ≤ 63)
  | .li f => f.xa == 0
  | .lix f => decide (f.value.toNat < 2 ^ 24)
  | .cmpi _ _ => true
  | .fadd _ f => f.ok true true true false
  | .fsub _ f => f.ok true true true false
  | .fmul _ f => f.ok true true true false
  | .ffma _ f => f.ok true true true true
  | .fdiv _ f => f.ok true true true false
  | .fsqrt _ f => f.ok true true false false
  | .fmin _ f => f.ok true true true false
  | .fmax _ f => f.ok true true true false
  | .fcmpEq _ f => f.ok true true true false
  | .fcmpLt _ f => f.ok true true true false
  | .fcmpLe _ f => f.ok true true true false
  | .fcmpUn _ f => f.ok true true true false
  | .fclass _ f => f.ok true true false false
  | .fmv f => f.ok true true false false
  | .fcvt dst src f => dst.code ≤ 0x0F && src.code ≤ 0x0F && f.ok true true false false
  | .brCc _ _ => true
  | .jmp f => f.xa == 0 && f.xb == 0
  | .jal f => f.xa == 0 && f.xb == 0
  | .jr f => f.xb == 0
  | .loop _ f => f.xb == 0 && f.loopOk
  | .loopi _ f => f.loopOk
  | .ld f => f.ok false [0, 1, 2, 3, 4, 5, 6] [0, 1, 3]
  | .st f => f.ok false [0, 1, 2, 3] [0, 2, 3]
  | .amoAdd f => f.ok true [2, 3] [0, 1, 2, 3] && f.opIs 0
  | .amoAnd f => f.ok true [2, 3] [0, 1, 2, 3] && f.opIs 1
  | .amoOr f => f.ok true [2, 3] [0, 1, 2, 3] && f.opIs 2
  | .amoXor f => f.ok true [2, 3] [0, 1, 2, 3] && f.opIs 3
  | .amoMin f => f.ok true [2, 3] [0, 1, 2, 3] && f.opIs 4
  | .amoMax f => f.ok true [2, 3] [0, 1, 2, 3] && f.opIs 5
  | .amoMinu f => f.ok true [2, 3] [0, 1, 2, 3] && f.opIs 6
  | .amoMaxu f => f.ok true [2, 3] [0, 1, 2, 3] && f.opIs 7
  | .amoSwap f => f.ok true [2, 3] [0, 1, 2, 3] && f.opIs 8
  | .amoIncb f => f.ok true [2, 3] [0, 1, 2, 3] && f.opIs 9
  | .cas f => f.ok true [2, 3] [0, 1, 2, 3]
  | .fenceAcq f => f.fenceOk 1
  | .fenceRel f => f.fenceOk 2
  | .fenceFull f => f.fenceOk 3
  | .setshape f => f.ok true true true false
  | .setcfg _ => true
  | .setcfgEw _ => true
  | .setcfgScope _ => true
  | .setcfgSpace _ => true
  | .setcfgRm _ => true
  | .vqlen f => f.ok true false false false
  | .settile f => f.ok false true true true
  | .vadd f => f.ok .vec .any .any .unused f.et.isNum true true
  | .vsub f => f.ok .vec .any .any .unused f.et.isNum true true
  | .vmul f => f.ok .vec .any .any .unused f.et.isNum true true
  | .vmulh f => f.ok .vec .any .any .unused f.et.isInt true true
  | .vdiv f => f.ok .vec .any .any .unused f.et.isNum true true
  | .vmin f => f.ok .vec .any .any .unused f.et.isNum true true
  | .vmax f => f.ok .vec .any .any .unused f.et.isNum true true
  | .vfma f => f.ok .vec .any .any .any f.et.isNum true true
  | .vfms f => f.ok .vec .any .any .any f.et.isNum true true
  | .vfnma f => f.ok .vec .any .any .any f.et.isNum true true
  | .vand f => f.ok .vec .any .any .unused f.et.isInt true true
  | .vor f => f.ok .vec .any .any .unused f.et.isInt true true
  | .vxor f => f.ok .vec .any .any .unused f.et.isInt true true
  | .vshl f => f.ok .vec .any .any .unused f.et.isInt true true
  | .vshr f => f.ok .vec .any .any .unused f.et.isInt true true
  | .vsra f => f.ok .vec .any .any .unused f.et.isInt true true
  | .vabs f => f.ok .vec .any .unused .unused f.et.isNum true true
  | .vneg f => f.ok .vec .any .unused .unused f.et.isNum true true
  | .vnot f => f.ok .vec .any .unused .unused f.et.isInt true true
  | .vsqrt f => f.ok .vec .any .unused .unused f.et.isFlt true true
  | .vrcp f => f.ok .vec .any .unused .unused f.et.isFlt true true
  | .vrsq f => f.ok .vec .any .unused .unused f.et.isFlt true true
  | .vclz f => f.ok .vec .any .unused .unused f.et.isInt true true
  | .vpopc f => f.ok .vec .any .unused .unused f.et.isInt true true
  | .vcmpCc cc f => f.ok .maskDst .any .any .unused (f.et.isInt || (f.et.isFlt && (cc != .ltu && cc != .geu && cc != .gtu && cc != .leu))) true true
  | .vsel f => f.ok .vec .any .any .unused f.et.isBits true false
  | .vmov f => (if f.et == .wac then f.ok .wac .wacOrScalar .unused .unused true true true else f.ok .vec .any .unused .unused true true true)
  | .vbcast f => f.ok .vec .any .scalar .unused f.et.isBits true true
  | .viota f => f.ok .vec .unused .unused .unused f.et.isInt true true
  | .vmvx f => f.ok .scalar .any .scalar .unused f.et.isBits false false
  | .vmvs f => f.ok .vec .scalar .scalar .unused f.et.isBits false false
  | .vexp2 f => f.ok .vec .any .unused .unused (f.et == .f16 || f.et == .bf16 || f.et == .f32) true true
  | .vlog2 f => f.ok .vec .any .unused .unused (f.et == .f16 || f.et == .bf16 || f.et == .f32) true true
  | .vsin f => f.ok .vec .any .unused .unused (f.et == .f16 || f.et == .bf16 || f.et == .f32) true true
  | .vcos f => f.ok .vec .any .unused .unused (f.et == .f16 || f.et == .bf16 || f.et == .f32) true true
  | .vred op f => f.ok .vecOrScalar .any .unused .unused (f.et.isInt || (f.et.isFlt && (op == .add || op == .min || op == .max))) true false
  | .vredx op f => f.ok .vec .any .unused .unused (f.et.isInt || (f.et.isFlt && (op == .add || op == .min || op == .max))) true false
  | .vscan op f => f.ok .vec .any .unused .unused (f.et.isInt || (f.et.isFlt && (op == .add || op == .min || op == .max))) true true
  | .vslideUp f => f.ok .vec .any .scalar .unused f.et.isBits true true
  | .vslideDn f => f.ok .vec .any .scalar .unused f.et.isBits true true
  | .vperm f => f.ok .vec .any .vec .unused f.et.isBits true true
  | .vpush f => f.ok .vec .any .vec .unused f.et.isBits true true
  | .vtrans f => f.ok .vec .any .unused .unused f.et.isBits true true
  | .vshuf f => f.ok .vec .any .vec .unused f.et.isBits true true
  | .mand f => f.ok .maskDst .mask .mask .unused (f.et == .i8) true true
  | .mor f => f.ok .maskDst .mask .mask .unused (f.et == .i8) true true
  | .mxor f => f.ok .maskDst .mask .mask .unused (f.et == .i8) true true
  | .mnot f => f.ok .maskDst .mask .unused .unused (f.et == .i8) true true
  | .mpopc f => f.ok .scalar .mask .unused .unused (f.et == .i8) true false
  | .mfirst f => f.ok .scalar .mask .unused .unused (f.et == .i8) true false
  | .vcvt src f => f.ok .vec .any .scale .offset (convPair 0 src f.et) true true && f.vc == 0 && (f.vb == 0 || src.width ≤ 8)
  | .vcvtNarrow src f => f.ok .vec .any .scale .offset (convPair 1 src f.et) true true
  | .vcvtWiden src f => f.ok .vec .any .scale .offset (convPair 2 src f.et) true true
  | .vcvtF32E2m1 src f => f.ok .vec .any .scale .offset (convPair 3 src f.et) true true
  | .vscale src f => f.ok .vec .any .unused .unused (convPair 4 src f.et) true false
  | .vaddWac f => f.ok .wac .wac .wacOrScalar .unused (f.et == .wac) true true
  | .vcvtWac f => f.ok .wac .any .unused .unused f.et.isFlt true true
  | .vcvtFwac f => f.ok .vec .wac .unused .unused (f.et == .f32 || f.et == .f64) true true
  | .vmeta f => f.vd.toNat ≤ 41 && f.va.toNat ≤ 7 && f.vb == 0 && f.vc == 0 && f.msk == 0 && f.mz == 0 && f.et == .u32
  | .vtopk f => f.ok .pair .any .scalar .unused (f.et.isNum && 16 ≤ f.et.width) true false
  | .vldUnit f => f.ok .unused [0, 1, 3] true
  | .vldStrided f => f.ok .scalar [0, 1, 3] true
  | .vldx f => f.ok .vec [0, 1, 3] true
  | .vstUnit f => f.ok .unused [0, 2, 3] true
  | .vstStrided f => f.ok .scalar [0, 2, 3] true
  | .vstx f => f.ok .vec [0, 2, 3] true
  | .vsadd f => f.ok .vec [0, 2, 3] (f.et.isAmo || f.et.isFlt)
  | .vamo f => f.ok .vec [0, 1, 2, 3] f.et.isAmo && f.disp.toNat ≤ 9 && f.ext.isNone
  | .vspill f => f.spillOk [0, 2, 3]
  | .vfill f => f.spillOk [0, 1, 3]
  | .talloc f => f.ok true true false true (f.mode.toNat ≤ 1) true
  | .tallocFix f => f.ok true true true true (f.mode.toNat == 2 || f.mode.toNat == 3) true
  | .tfree f => f.ok true false false false (f.mode == 0) false
  | .tstat f => f.ok true false false true (f.mode == 0) false
  | .tstatH f => f.ok false true false true (f.mode == 1) false
  | .twait f => f.ok true false false true (f.mode == 0 || f.mode == 2) false
  | .twaitH f => f.ok false true false true (f.mode == 1) false
  | .tld f => f.ok true true true true (f.mode.toNat ≤ 1) true && (f.mode == 1 || f.t.toNat ≤ 41)
  | .tst f => f.ok true true true true (f.mode.toNat ≤ 1) true && (f.mode == 1 || f.t.toNat ≤ 41)
  | .vpln f => f.ok true false true false (f.mode.toNat ≤ 31) true && f.uvalue < 1024 && f.uvalue % 32 ≤ 23 && plnSource f.mode.toNat
  | .tdesc f => f.ok false true true true (f.mode == 0) false
  | .tdescRf f => f.ok false true false true (f.mode == 1) false
  | .tnbr f => f.ok false true true true (f.mode.toNat ≤ 31) true && f.value.toNat ≤ 15
  | .thalo f => f.ok false true true true (f.mode.toNat ≤ 31) false
  | .tinv f => f.ok false true false true (f.mode == 0) false
  | .tflush f => f.ok false true false true (f.mode == 0) false
  | .tprobe f => f.ok false true true true (f.mode == 0) false
  | .copy f => f.copyOk
  | .copyDec f => f.copyOk
  | .copyEnc f => f.copyOk
  | .cwait f => f.ok true true false false false false (f.flags.toNat ≤ 1) (f.fn == 0)
  | .cstat f => f.ok true true false false false false (f.flags == 0) (f.fn == 0)
  | .mma f => f.ok true true true false true true f.mmaOk (f.fn == 0)
  | .mmaSp f => f.ok true true true true true true f.mmaOk true
  | .mmaCb f => f.ok true true true false true true f.mmaOk (f.fn == 0)
  | .cbld f => f.ok true true false false true false (f.flags == 0) (f.fn == 0)
  | .mwait f => f.ok true true false false false false (f.flags == 0) (f.fn == 0)
  | .mstat f => f.ok true true false false false false (f.flags == 0) (f.fn == 0)
  | .potOpen f => f.ok true true true false true false (f.flags.toNat ≤ 15 && (!f.flags.getLsbD 2 || f.flags.toNat % 4 == 1)) (f.fn == 0)
  | .potJoin f => f.ok true true true true true false (f.flags == 0) (f.fn == 0)
  | .potSend f => f.ok true true false false true false (f.flags == 0) (f.fn == 0) && f.opA.toNat ≤ 31
  | .potWait f => f.ok true false false false true false (f.flags == 0) (f.fn == 0)
  | .potClose f => f.ok false false false false true false (f.flags == 0) (f.fn == 0)
  | .potCloseJ f => f.ok false true false false false false (f.flags == 1) (f.fn == 0)
  | .potStat f => f.ok true false false false true false (f.flags == 0) (f.fn == 0)
  | .potStatJ f => f.ok true true false false false false (f.flags == 1) (f.fn == 0)
  | .claim f => f.ok true [0] [0, 1, 2, 3]
  | .deckPush f => f.ok true [0] [0, 1, 2, 3] && f.opIs 0
  | .deckPop f => f.ok true [0] [0, 1, 2, 3] && f.opIs 1
  | .deckSteal f => f.ok true [0] [0, 1, 2, 3] && f.opIs 2
  | .claspInit f => f.ok true [0] [0, 1, 2, 3]
  | .claspArrive f => f.ok false [0] [0]
  | .claspDrop f => f.ok false [0] [0]
  | .claspWait f => f.ok true [0] [0]
  | .waita f => f.ok true [3] [0]
  | .fbind f => f.ok true true false false false false (f.flags.toNat ≤ 63) (f.fn == 0)
  | .funbind f => f.ok false false false false false false (f.flags.toNat ≤ 63) (f.fn == 0)
  | .fqry f => f.ok true false false false false false (f.flags.toNat ≤ 63) (f.fn == 0)
  | .fop f => f.flags == 0
  | .nop f => f.ok false false false
  | .trap f => f.ok false false true
  | .bkpt f => f.ok false false false
  | .yield f => f.ok false false false
  | .done f => f.ok false false true && decide (f.value.toNat < 2 ^ 16)
  | .eret f => f.ok false false false
  | .csrrd csr f => csrAssigned csr.toNat && f.ok true false false
  | .csrwr csr f => csrAssigned csr.toNat && f.ok true true true
  | .csrset csr f => csrAssigned csr.toNat && f.ok true true true
  | .csrclr csr f => csrAssigned csr.toNat && f.ok true true true
  | .enq f => f.ok true true true && decide (f.uvalue.toNat < 2 ^ 16)
  | .dcwb f => f.ok false true true
  | .icinv f => f.ok false true true
  | .fetchb f => f.ok false false false
  | .keyselBind f => f.ok true true true && f.value.toNat < 1024 && f.value.toNat / 64 == 0
  | .keyselUnbind f => f.ok true true true && f.value.toNat < 1024 && f.value.toNat / 64 == 4
  | .keyselQry f => f.ok true true true && f.value.toNat < 1024 && f.value.toNat / 64 == 8
  | .udf _ => true
  | .replyReturn _ _ => true
  | .activeMessageDelivery _ _ => true
  | .copySuspend _ _ => true
  | .copyComplete _ _ => true
  | .matrixComplete _ => true
  | .engineTrapDelivery _ => true
  | .tflushComplete _ _ => true
  | .pageWalk _ _ => true
  | .atsTranslationCompletion _ _ _ _ _ => true
  | .priResponse _ _ _ => true
  | .hostpageTimeout _ _ => true
  | .atsInvalidationRequest _ _ _ => true
  | .ticmdGo _ _ => true
  | .ticmdErrClear _ => true
  | .shootdownComplete _ => true
  | .twinWrite _ _ _ => true
  | .lineFill _ _ => true
  | .scatterAddPass _ => true
  | .generationScrub => true
  | .patrolScrub _ _ => true
  | .monitorExpiry _ _ => true
  | .waitaTimeout _ => true
  | .waitaMonfull _ => true
  | .claspWaitPoll _ => true
  | .snpData _ => true
  | .snpInv _ => true
  | .snpCur _ => true
  | .bisnpResponse _ _ => true
  | .hostMemoryAccess _ _ _ _ => true
  | .clusterPowerGate _ => true
  | .decisionRound _ => true
  | .rootDecisionRound => true
  | .launchRecordFetch _ => true
  | .blockedHeadReread _ => true
  | .holdBegin _ => true
  | .quantumExpiry _ => true
  | .potdeferDeadline _ => true
  | .preemptionSave _ => true
  | .preemptDelivery _ => true
  | .preemptGraceExpiry _ => true
  | .contextRestore _ => true
  | .sliceRetirement _ _ => true
  | .generationRecord _ => true
  | .gencmdWrite => true
  | .wqtailDoorbell _ _ _ => true
  | .wqbaseWrite _ _ _ => true
  | .wqheadErrClear _ _ => true
  | .tenantResetStart _ => true
  | .functionLevelReset _ => true
  | .vfDisable _ => true
  | .tenantResetComplete _ => true
  | .trstatDoneClear _ => true
  | .powerInterval => true
  | .unitRamp _ => true
  | .nodeidWrite _ => true
  | .mmioWrite _ _ _ => true
  | .msixUnmask _ _ => true
  | .joinRequestArrival _ => true
  | .joinRetryReissue _ _ => true
  | .grant _ => true
  | .over _ => true
  | .denied _ => true
  | .spilled _ => true
  | .resumed _ => true
  | .closed _ => true
  | .forfeit _ => true
  | .fbcount _ => true
  | .joinWithdrawal _ => true
  | .contributionArrival _ => true
  | .nodeLinkLoss _ => true
  | .fopComplete _ _ => true
  | .fopStop _ _ => true
  | .escapeMove _ _ => true
  | .escapeTimeout _ _ => true
  | .fabricStalled _ => true
  | .configUe _ _ _ => true
  | .regionReloadDone _ => true
  | .flitCrcFail _ => true
  | .portRetrain _ => true
  | .laneRetire _ _ => true
  | .portRetire _ => true
  | .laneRecalibration _ _ => true
  | .remoteRequestArrival _ _ _ _ => true
  | .remoteRequestTimeout _ => true
  | .keyProvision _ _ _ _ => true
  | .keyDelete _ _ => true
  | .tdiLock _ => true
  | .tdiStart _ => true
  | .stopInterface _ => true
  | .spdmSessionExpiry _ => true
  | .ideIntegrityFailure _ => true
  | .pcieLinkDown => true
  | .confLostDelivery _ => true
  | .machineCheck => true
  | .uncontainedEnd _ => true
  | .firmwareUpdate => true
  | .dieQuiesce _ => true
  | .mctpRequest => true
  | .deviceReset => true
  | .vfEnable _ => true
  | .clusterPowerUp _ => true
  | .dieReturn _ => true
  | .linkTrainingComplete _ => true
  | .thermalLimitChange _ => true
  | .spdmSessionEstablished _ => true

end Sys2Proof
end

