-- ==== Sys2Proof/Decode.lean ====
section
/-! DEFINITION. The decoder: from the 64-bit words at the program counter to an instruction, total, refusing
by name (R185 to R196), and after it the encoder, from the same encoding tables. -/

namespace Sys2Proof

/-- Why a word is no instruction; each becomes the trap of R194. extRefused is a refusal of the extension
word under R190, whose TVAL is that word. -/
inductive Reject where
  | illegalOp
  | opcodeRetired
  | illegalEnc
  | extRefused
  deriving DecidableEq, Repr

/-- The field of n bits of a word whose lowest bit is lo (R186). -/
def field (w : Word) (lo n : Nat) : BitVec n := w.extractLsb' lo n

/-- The major opcode, bits [63:56] (R185). -/
def opOf (w : Word) : Nat := (field w 56 8).toNat

/-- The major opcode of the immediate extension word (R190). -/
def extOp : Nat := 0xF0

/-- The fields of an SA word (R186). -/
def SA.ofWord (w : Word) : SA :=
  { xd := field w 50 6, xa := field w 44 6, xb := field w 38 6, xc := field w 32 6 }

/-- The fields of an SI word (R186), e the EXT56 field of its extension word. -/
def SI.ofWord (w : Word) (e : Option (BitVec 56)) : SI :=
  { xd := field w 50 6, xa := field w 44 6, imm := field w 0 40, ext := e.map (·.setWidth 24) }

/-- The fields of an SB word (R186). -/
def SB.ofWord (w : Word) : SB := { xa := field w 46 6, xb := field w 40 6, off := field w 0 40 }

/-- The fields of an SM word (R186). -/
def SM.ofWord (w : Word) (e : Option (BitVec 56)) : SM :=
  { xd := field w 50 6, xa := field w 44 6, xb := field w 38 6, ord := field w 36 2,
    scope := field w 33 3, size := field w 30 3, imm := field w 0 30, ext := e.map (·.setWidth 26) }

/-- The fields of a VA word of element type et (R186). -/
def VA.ofWord (w : Word) (et : ET) : VA :=
  { vd := field w 49 7, va := field w 42 7, vb := field w 35 7, vc := field w 28 7,
    msk := field w 25 3, mz := field w 24 1, wa := field w 23 1, wb := field w 22 1,
    wc := field w 21 1, et := et }

/-- The fields of a VM word of element type et (R186). -/
def VM.ofWord (w : Word) (et : ET) (e : Option (BitVec 56)) : VM :=
  { vd := field w 49 7, xa := field w 43 6, idx := field w 36 7, msk := field w 33 3,
    mz := field w 32 1, wa := field w 31 1, ord := field w 29 2, et := et,
    disp := field w 0 24, ext := e.map (·.setWidth 32) }

/-- The fields of a TT word (R186). -/
def TT.ofWord (w : Word) (e : Option (BitVec 56)) : TT :=
  { t := field w 48 8, xa := field w 42 6, xb := field w 36 6, xc := field w 30 6,
    mode := field w 24 6, imm := field w 0 12, ext := e.map (·.setWidth 44) }

/-- The fields of an EN word (R186). -/
def EN.ofWord (w : Word) : EN :=
  { xd := field w 50 6, xa := field w 44 6, xb := field w 38 6, xc := field w 32 6,
    opA := field w 24 8, opB := field w 16 8, flags := field w 8 8, fn := field w 0 8 }

/-- The fields of an FX word (R186). -/
def FX.ofWord (w : Word) (e : Option (BitVec 56)) : FX :=
  { slot := field w 50 6, vd := field w 43 7, va := field w 36 7, vb := field w 29 7,
    xl := field w 23 6, msk := field w 20 3, flags := field w 16 4, imm := field w 0 16,
    ext := e.map (·.setWidth 48) }

/-- The fields of an SY word (R186). -/
def SY.ofWord (w : Word) (e : Option (BitVec 56)) : SY :=
  { xd := field w 50 6, xa := field w 44 6, imm := field w 0 32, ext := e.map (·.setWidth 32) }

/-- What a major opcode and sub-function that exist select: how many bits of EXT56 the form accepts (0: it
accepts no extension word, R190), and the instruction, absent where a type or unused bit is not one the
form accepts. -/
structure Form where
  k  : Nat
  make : Option (BitVec 56) → Option Instr

/-- A form that accepts no extension word. -/
def Form.plain (i : Option Instr) : Form := { k := 0, make := fun _ => i }

/-- Entry n of a list of sub-functions numbered from 0 (R196). -/
def pick (l : List Instr) (n : Nat) : Option Form := (l[n]?).map fun i => Form.plain (some i)

/-- Majors of format SA: sub-function FN (R196), with the low 20 bits zero. A nonzero FN of a major that R196's table leaves out
counts as an absent sub-function, before a refused prefix (DESIGN CHOICE, log 37). -/
def saForm (op : Nat) (w : Word) : Option Form :=
  let f := SA.ofWord w
  let fn := (field w 20 12).toNat
  let form : Option Form :=
    match op with
    | 0x00 => pick [.add f, .sub f, .and f, .or f, .xor f, .andn f, .shl f, .shr f, .sra f, .rotr f,
        .min f, .max f, .minu f, .maxu f] fn
    | 0x01 => pick [.mul f, .mulh f, .mulhU f, .mulhSu f, .div f, .divu f, .rem f, .remu f] fn
    | 0x02 =>
      match CC.ofCode fn with
      | some cc => some (.plain (some (.cmpCc cc f)))
      | none => if fn == 0x10 then some (.plain (some (.sel f))) else none
    | 0x03 =>
      if fn < 7 then pick [.clz f, .ctz f, .popc f, .brev f, .bfxU f, .bfxS f, .bfi f] fn
      else if 0x18 ≤ fn then pick [.zextB f, .zextH f, .zextW f] (fn - 0x18)
      else if 0x10 ≤ fn then pick [.sextB f, .sextH f, .sextW f] (fn - 0x10)
      else none
    | 0x28 =>
      match FFmt.ofCode (fn / 256) with
      | some t => pick [.fadd t f, .fsub t f, .fmul t f, .ffma t f, .fdiv t f, .fsqrt t f, .fmin t f,
          .fmax t f] (fn % 256)
      | none => none
    | 0x29 =>
      match FFmt.ofCode (fn / 256) with
      | some t =>
        if fn == 0x20 then some (.plain (some (.fmv f)))
        else if fn % 256 == 0x10 then some (.plain (some (.fclass t f)))
        else pick [.fcmpEq t f, .fcmpLt t f, .fcmpLe t f, .fcmpUn t f] (fn % 256)
      | none => none
    | 0x2A =>
      if fn / 1024 == 0 then
        some (.plain (match ET.ofCode (fn / 32 % 32), ET.ofCode (fn % 32) with
          | some d, some s => some (.fcvt d s f)
          | _, _ => none))
      else none
    | 0x40 => pick [.setshape f] fn
    | 0x42 => pick [.vqlen f] fn
    | 0x43 => pick [.settile f] fn
    | _ => none
  if field w 0 20 == 0 then form else form.map fun _ => .plain none

/-- Majors of format SI (R196): every form accepts 24 extension bits. -/
def siForm (op : Nat) (w : Word) : Option Form :=
  let fn := (field w 40 4).toNat
  let go (l : SI → List Instr) : Option Form :=
    if fn < (l (SI.ofWord w none)).length then
      some { k := 24, make := fun e => (l (SI.ofWord w e))[fn]? }
    else none
  match op with
  | 0x10 => go fun f => [.addi f, .andi f, .ori f, .xori f, .shli f, .shri f, .srai f]
  | 0x11 => go fun f => [.li f, .lix f]
  | 0x12 =>
    match CC.ofCode fn with
    | some cc => some { k := 24, make := fun e => some (.cmpi cc (SI.ofWord w e)) }
    | none => none
  | 0x41 => go fun f => [.setcfg f, .setcfgEw f, .setcfgScope f, .setcfgSpace f, .setcfgRm f]
  | _ => none

/-- Majors of format SB: the sub-function is cond (R196). -/
def sbForm (op : Nat) (w : Word) : Option Form :=
  let f := SB.ofWord w
  let cond := (field w 52 4).toNat
  match op with
  | 0x20 => (CC.ofCode cond).map fun cc => Form.plain (some (.brCc cc f))
  | 0x21 => pick [.jmp f] cond
  | 0x22 => pick [.jal f] cond
  | 0x23 => pick [.jr f] cond
  | 0x24 => if cond < 2 then some (.plain (some (.loop (field w 52 1) f))) else none
  | 0x25 => if cond < 2 then some (.plain (some (.loopi (field w 52 1) f))) else none
  | _ => none

/-- Majors of format SM: some hold a sub-function in size, ord or imm30 (R196). -/
def smForm (op : Nat) (w : Word) : Option Form :=
  let f := SM.ofWord w none
  let big (mk : SM → Instr) : Option Form := some { k := 26, make := fun e => some (mk (SM.ofWord w e)) }
  match op with
  | 0x30 => if f.size.toNat ≤ 6 then big .ld else none
  | 0x31 => if f.size.toNat ≤ 3 then big .st else none
  | 0x32 =>
    if f.size == 2 || f.size == 3 then
      pick [.amoAdd f, .amoAnd f, .amoOr f, .amoXor f, .amoMin f, .amoMax f, .amoMinu f, .amoMaxu f,
        .amoSwap f, .amoIncb f] f.imm.toNat
    else none
  | 0x33 => if f.size == 2 || f.size == 3 then big .cas else none
  | 0x34 =>
    if f.ord == 0 then none else pick [.fenceAcq f, .fenceRel f, .fenceFull f] (f.ord.toNat - 1)
  | 0xA8 => big .claim
  | 0xA9 => pick [.deckPush f, .deckPop f, .deckSteal f] f.imm.toNat
  | 0xAA => big .claspInit
  | 0xAB => big .claspArrive
  | 0xAC => big .claspDrop
  | 0xAD => big .claspWait
  | 0xAE => big .waita
  | _ => none

/-- Majors of format VA: sub-function FN (R196), with the low 4 bits zero. -/
def vaForm (op : Nat) (w : Word) : Option Form :=
  let fn := (field w 4 12).toNat
  let go (l : VA → List Instr) (n : Nat) : Option Form :=
    if n < (l (VA.ofWord w .i8)).length then
      some (.plain (match ET.ofCode (field w 16 5).toNat with
        | some t => if field w 0 4 == 0 then (l (VA.ofWord w t))[n]? else none
        | none => none))
    else none
  match op with
  | 0x50 => go (fun f => [.vadd f, .vsub f, .vmul f, .vmulh f, .vdiv f, .vmin f, .vmax f]) fn
  | 0x51 => go (fun f => [.vfma f, .vfms f, .vfnma f]) fn
  | 0x52 => go (fun f => [.vabs f, .vneg f, .vnot f, .vsqrt f, .vrcp f, .vrsq f, .vclz f, .vpopc f]) fn
  | 0x53 => go (fun f => [.vand f, .vor f, .vxor f, .vshl f, .vshr f, .vsra f]) fn
  | 0x54 =>
    match CC.ofCode fn with
    | some cc => go (fun f => [.vcmpCc cc f]) 0
    | none => if fn == 0x10 then go (fun f => [.vsel f]) 0 else none
  | 0x55 => go (fun f => [.vmov f, .vbcast f, .viota f, .vmvx f, .vmvs f]) fn
  | 0x56 => go (fun f => [.vexp2 f, .vlog2 f, .vsin f, .vcos f]) fn
  | 0x57 =>
    match RedOp.ofCode (fn % 16) with
    | some r => go (fun f => [.vred r f, .vredx r f, .vscan r f]) (fn / 16)
    | none => none
  | 0x58 => go (fun f => [.vslideUp f, .vslideDn f, .vperm f, .vpush f, .vtrans f]) fn
  | 0x59 => go (fun f => [.mand f, .mor f, .mxor f, .mnot f, .mpopc f, .mfirst f]) fn
  | 0x5A =>
    if fn / 32 % 8 == 0 then
      match ET.ofCode (fn % 32) with
      | some s =>
        go (fun f => [.vcvt s f, .vcvtNarrow s f, .vcvtWiden s f, .vcvtF32E2m1 s f, .vscale s f]) (fn / 256)
      | none => if fn / 256 < 5 then some (.plain none) else none
    else none
  | 0x5B => go (fun f => [.vaddWac f, .vcvtWac f, .vcvtFwac f]) fn
  | 0x5C => go (fun f => [.vmeta f]) fn
  | 0x5D => go (fun f => [.vshuf f]) fn
  | 0xE8 => go (fun f => [.vtopk f]) fn
  | _ => none

/-- Majors of format VM; VAMO, VSPILL and VFILL accept no extension word (R190), and a VAMO operation
above 9 is absent (R196). -/
def vmForm (op : Nat) (w : Word) : Option Form :=
  let go (k : Nat) (mk : VM → Instr) : Option Form :=
    some { k := k, make := fun e => (ET.ofCode (field w 24 5).toNat).map fun t => mk (VM.ofWord w t e) }
  match op with
  | 0x70 => go 32 .vldUnit
  | 0x71 => go 32 .vldStrided
  | 0x72 => go 32 .vldx
  | 0x73 => go 32 .vstUnit
  | 0x74 => go 32 .vstStrided
  | 0x75 => go 32 .vstx
  | 0x76 => go 32 .vsadd
  | 0x77 => if (field w 0 24).toNat ≤ 9 then go 0 .vamo else none
  | 0x78 => go 0 .vspill
  | 0x79 => go 0 .vfill
  | _ => none

/-- Majors of format TT; FN is zero (R266). The forms whose immediate has a meaning accept 44 extension bits. -/
def ttForm (op : Nat) (w : Word) : Option Form :=
  let z := field w 12 12 == 0
  let go (k : Nat) (mk : TT → Instr) : Option Form :=
    some { k := k, make := fun e => if z then some (mk (TT.ofWord w e)) else none }
  match op with
  | 0x80 => if field w 25 1 == 1 then go 44 .tallocFix else go 44 .talloc
  | 0x81 => go 0 .tfree
  | 0x82 => if field w 24 1 == 1 then go 0 .tstatH else go 0 .tstat
  | 0x83 => if field w 24 1 == 1 then go 0 .twaitH else go 0 .twait
  | 0x84 => go 44 .tld
  | 0x85 => go 44 .tst
  | 0x86 => go 44 .vpln
  | 0x87 => if field w 24 1 == 1 then go 0 .tdescRf else go 0 .tdesc
  | 0x88 => go 44 .tnbr
  | 0x89 => go 0 .thalo
  | 0x8A => go 0 .tinv
  | 0x8B => go 0 .tflush
  | 0x8C => go 0 .tprobe
  | _ => none

/-- Majors of format EN (R193); POT.CLOSE and POT.STAT hold J in flags [8] (R336). -/
def enForm (op : Nat) (w : Word) : Option Form :=
  let f := EN.ofWord w
  let go (i : Instr) : Option Form := some (.plain (some i))
  match op with
  | 0x90 => go (.copy f)
  | 0x91 => go (.copyDec f)
  | 0x92 => go (.copyEnc f)
  | 0x93 => go (.cwait f)
  | 0x94 => go (.cstat f)
  | 0x98 => go (.mma f)
  | 0x99 => go (.mmaSp f)
  | 0x9A => go (.mmaCb f)
  | 0x9B => go (.cbld f)
  | 0x9C => go (.mwait f)
  | 0x9D => go (.mstat f)
  | 0xA0 => go (.potOpen f)
  | 0xA1 => go (.potJoin f)
  | 0xA2 => go (.potSend f)
  | 0xA3 => go (.potWait f)
  | 0xA4 => if field w 8 1 == 1 then go (.potCloseJ f) else go (.potClose f)
  | 0xA5 => if field w 8 1 == 1 then go (.potStatJ f) else go (.potStat f)
  | 0xB0 => go (.fbind f)
  | 0xB1 => go (.funbind f)
  | 0xB2 => go (.fqry f)
  | _ => none

/-- Majors of format SY (R196, R359): the forms with an immediate accept 32 extension bits. -/
def syForm (op : Nat) (w : Word) : Option Form :=
  let fn := field w 32 12
  let n := fn.toNat
  let go (k : Nat) (mk : SY → Instr) : Option Form :=
    some { k := k, make := fun e => some (mk (SY.ofWord w e)) }
  match op with
  | 0xE0 =>
    match n with
    | 0 => go 0 .nop
    | 1 => go 32 .trap
    | 2 => go 0 .bkpt
    | 3 => go 0 .yield
    | 4 => go 32 .done
    | 5 => go 0 .eret
    | _ => none
  | 0xE1 => go 0 (.csrrd fn)
  | 0xE2 => go 32 (.csrwr fn)
  | 0xE3 => go 32 (.csrset fn)
  | 0xE4 => go 32 (.csrclr fn)
  | 0xE5 => if n == 0 then go 32 .enq else none
  | 0xE6 =>
    match n with
    | 0 => go 32 .dcwb
    | 1 => go 32 .icinv
    | 2 => go 0 .fetchb
    | _ => none
  | 0xE7 =>
    if n == 0 then
      match (field w 8 2).toNat with
      | 0 => go 32 .keyselBind
      | 1 => go 32 .keyselUnbind
      | 2 => go 32 .keyselQry
      | _ => some { k := 32, make := fun _ => none }
    else none
  | _ => none

/-- The assigned major opcodes (R193); 0xFF is UDF, which traps ILLEGAL_OP (R194). -/
def majorAssigned (op : Nat) : Bool :=
  op ≤ 0x03 || (0x10 ≤ op && op ≤ 0x12) || (0x20 ≤ op && op ≤ 0x25) || (0x28 ≤ op && op ≤ 0x2A) ||
  (0x30 ≤ op && op ≤ 0x34) || (0x40 ≤ op && op ≤ 0x43) || (0x50 ≤ op && op ≤ 0x5D) ||
  (0x70 ≤ op && op ≤ 0x79) || (0x80 ≤ op && op ≤ 0x8C) || (0x90 ≤ op && op ≤ 0x94) ||
  (0x98 ≤ op && op ≤ 0x9D) || (0xA0 ≤ op && op ≤ 0xA5) || (0xA8 ≤ op && op ≤ 0xAE) ||
  (0xB0 ≤ op && op ≤ 0xB2) || op == 0xC0 || (0xE0 ≤ op && op ≤ 0xE8) || op == 0xF0 || op == 0xFF

/-- The form a major opcode and sub-function select; absent where the sub-function is absent from R196. -/
def formOf (w : Word) : Option Form :=
  let op := opOf w
  if op == 0x40 || op == 0x42 || op == 0x43 || op ≤ 0x03 || (0x28 ≤ op && op ≤ 0x2A) then saForm op w
  else if op ≤ 0x12 || op == 0x41 then siForm op w
  else if op ≤ 0x25 then sbForm op w
  else if op ≤ 0x34 || (0xA8 ≤ op && op ≤ 0xAE) then smForm op w
  else if op ≤ 0x5D || op == 0xE8 then vaForm op w
  else if op ≤ 0x79 then vmForm op w
  else if op ≤ 0x8C then ttForm op w
  else if op ≤ 0xB2 then enForm op w
  else if op == 0xC0 then some { k := 48, make := fun e => some (.fop (FX.ofWord w e)) }
  else syForm op w

/-- Decodes the instruction word w, with the EXT56 field of the extension word before it where there is one,
checking in the order of R195: ILLEGAL_OP, OPCODE_RETIRED, then ILLEGAL_ENC for an absent sub-function, for a
refused extension word (R190), and for every other cause. UDF decodes to itself: its meaning is the trap
ILLEGAL_OP (R359). -/
def decodeWord (st : Stepping) (e : Option (BitVec 56)) (w : Word) : Except Reject Instr :=
  let op := opOf w
  if op == 0xFF then (match e with | none => .ok (.udf (field w 0 56)) | some _ => .error .illegalOp)
  else if !majorAssigned op then .error .illegalOp
  else if op == extOp then .error .extRefused
  else if op == 0xE8 && st == .a1 then .error .opcodeRetired
  else
    match formOf w with
    | none => .error .illegalEnc
    | some form =>
      if e.any (fun (x : BitVec 56) => form.k == 0 || x.toNat >>> form.k != 0) then .error .extRefused
      else
        match form.make e with
        | none => .error .illegalEnc
        | some i => if i.wellFormed then .ok i else .error .illegalEnc

/-- Decodes the instruction whose first word is w0; w1 is the next word, read only after an extension word. -/
def decode (st : Stepping) (w0 w1 : Word) : Except Reject Instr :=
  if opOf w0 == extOp then decodeWord st (some (field w0 0 56)) w1 else decodeWord st none w0

/-- The bytes of an instruction in memory, from its lowest address: little-endian words (R185). -/
def wordOfBytes : List Byte → Nat
  | [] => 0
  | b :: rest => b.toNat + 256 * wordOfBytes rest

/-- Decodes the instruction at the head of a list of bytes, and gives the bytes after it (R185, R191). -/
def decodeBytes (st : Stepping) (l : List Byte) : Except Reject (Instr × List Byte) :=
  let w0 := BitVec.ofNat 64 (wordOfBytes (l.take 8))
  let w1 := BitVec.ofNat 64 (wordOfBytes ((l.drop 8).take 8))
  (decode st w0 w1).map fun i => (i, l.drop (if opOf w0 == extOp then 16 else 8))

/-- The bytes of a number of n bytes, least significant first. -/
def bytesOf : Nat → Nat → List Byte
  | 0, _ => []
  | n + 1, v => BitVec.ofNat 8 v :: bytesOf n (v / 256)

/-- The instruction the decoder reads from table bits: bit 0 is the lowest bit of the first word, and the
second word's bits follow from bit 64; bits above nbits are zero. The part is stepping B0 (R2). -/
def decodeTableWord (nbits w : Nat) : Option Instr :=
  match decodeBytes .b0 (bytesOf 16 (w % 2 ^ nbits)) with
  | .ok (i, _) => some i
  | .error _ => none

/-- The word of an SA form (R186). -/
def SA.word (f : SA) (op : BitVec 8) (fn : BitVec 12) : Word :=
  op ++ f.xd ++ f.xa ++ f.xb ++ f.xc ++ fn ++ 0#20

/-- The extension word that carries k bits of EXT56 (R190). -/
def extWord (e : BitVec 56) : Word := 0xF0#8 ++ e

/-- The extension word before an instruction, where there is one. -/
def extWords (e : Option (BitVec 56)) : List Word := (e.map extWord).toList

/-- The words of an SI form (R186, R190). -/
def SI.words (f : SI) (op : BitVec 8) (fn : BitVec 4) : List Word :=
  extWords (f.ext.map (·.setWidth 56)) ++ [op ++ f.xd ++ f.xa ++ fn ++ f.imm]

/-- The word of an SB form (R186). -/
def SB.word (f : SB) (op : BitVec 8) (cond : BitVec 4) : Word := op ++ cond ++ f.xa ++ f.xb ++ f.off

/-- The words of an SM form (R186, R190). -/
def SM.words (f : SM) (op : BitVec 8) : List Word :=
  extWords (f.ext.map (·.setWidth 56)) ++
    [op ++ f.xd ++ f.xa ++ f.xb ++ f.ord ++ f.scope ++ f.size ++ f.imm]

/-- The word of a VA form (R186). -/
def VA.word (f : VA) (op : BitVec 8) (fn : BitVec 12) : Word :=
  op ++ f.vd ++ f.va ++ f.vb ++ f.vc ++ f.msk ++ f.mz ++ f.wa ++ f.wb ++ f.wc ++
    BitVec.ofNat 5 f.et.code ++ fn ++ 0#4

/-- The words of a VM form (R186, R190). -/
def VM.words (f : VM) (op : BitVec 8) : List Word :=
  extWords (f.ext.map (·.setWidth 56)) ++
    [op ++ f.vd ++ f.xa ++ f.idx ++ f.msk ++ f.mz ++ f.wa ++ f.ord ++ BitVec.ofNat 5 f.et.code ++ f.disp]

/-- The words of a TT form (R186, R190). -/
def TT.words (f : TT) (op : BitVec 8) : List Word :=
  extWords (f.ext.map (·.setWidth 56)) ++
    [op ++ f.t ++ f.xa ++ f.xb ++ f.xc ++ f.mode ++ 0#12 ++ f.imm]

/-- The word of an EN form (R186). -/
def EN.word (f : EN) (op : BitVec 8) : Word :=
  op ++ f.xd ++ f.xa ++ f.xb ++ f.xc ++ f.opA ++ f.opB ++ f.flags ++ f.fn

/-- The words of an FX form (R186, R190). -/
def FX.words (f : FX) (op : BitVec 8) : List Word :=
  extWords (f.ext.map (·.setWidth 56)) ++
    [op ++ f.slot ++ f.vd ++ f.va ++ f.vb ++ f.xl ++ f.msk ++ f.flags ++ f.imm]

/-- The words of an SY form (R186, R190). -/
def SY.words (f : SY) (op : BitVec 8) (fn : BitVec 12) : List Word :=
  extWords (f.ext.map (·.setWidth 56)) ++ [op ++ f.xd ++ f.xa ++ fn ++ f.imm]

/-- The words of an instruction, in address order; an event of opcode_table.json has none. -/
def encode : Instr → List Word
  | .add f => [f.word 0x00#8 0x0#12]
  | .sub f => [f.word 0x00#8 0x1#12]
  | .and f => [f.word 0x00#8 0x2#12]
  | .or f => [f.word 0x00#8 0x3#12]
  | .xor f => [f.word 0x00#8 0x4#12]
  | .andn f => [f.word 0x00#8 0x5#12]
  | .shl f => [f.word 0x00#8 0x6#12]
  | .shr f => [f.word 0x00#8 0x7#12]
  | .sra f => [f.word 0x00#8 0x8#12]
  | .rotr f => [f.word 0x00#8 0x9#12]
  | .min f => [f.word 0x00#8 0xA#12]
  | .max f => [f.word 0x00#8 0xB#12]
  | .minu f => [f.word 0x00#8 0xC#12]
  | .maxu f => [f.word 0x00#8 0xD#12]
  | .mul f => [f.word 0x01#8 0x0#12]
  | .mulh f => [f.word 0x01#8 0x1#12]
  | .mulhU f => [f.word 0x01#8 0x2#12]
  | .mulhSu f => [f.word 0x01#8 0x3#12]
  | .div f => [f.word 0x01#8 0x4#12]
  | .divu f => [f.word 0x01#8 0x5#12]
  | .rem f => [f.word 0x01#8 0x6#12]
  | .remu f => [f.word 0x01#8 0x7#12]
  | .cmpCc cc f => [f.word 0x02#8 (BitVec.ofNat 12 cc.code)]
  | .sel f => [f.word 0x02#8 0x10#12]
  | .clz f => [f.word 0x03#8 0x0#12]
  | .ctz f => [f.word 0x03#8 0x1#12]
  | .popc f => [f.word 0x03#8 0x2#12]
  | .brev f => [f.word 0x03#8 0x3#12]
  | .sextB f => [f.word 0x03#8 0x10#12]
  | .sextH f => [f.word 0x03#8 0x11#12]
  | .sextW f => [f.word 0x03#8 0x12#12]
  | .zextB f => [f.word 0x03#8 0x18#12]
  | .zextH f => [f.word 0x03#8 0x19#12]
  | .zextW f => [f.word 0x03#8 0x1A#12]
  | .bfxU f => [f.word 0x03#8 0x4#12]
  | .bfxS f => [f.word 0x03#8 0x5#12]
  | .bfi f => [f.word 0x03#8 0x6#12]
  | .addi f => f.words 0x10#8 0x0#4
  | .andi f => f.words 0x10#8 0x1#4
  | .ori f => f.words 0x10#8 0x2#4
  | .xori f => f.words 0x10#8 0x3#4
  | .shli f => f.words 0x10#8 0x4#4
  | .shri f => f.words 0x10#8 0x5#4
  | .srai f => f.words 0x10#8 0x6#4
  | .li f => f.words 0x11#8 0x0#4
  | .lix f => f.words 0x11#8 0x1#4
  | .cmpi cc f => f.words 0x12#8 (BitVec.ofNat 4 cc.code)
  | .fadd fmt f => [f.word 0x28#8 (BitVec.ofNat 12 (fmt.code * 256 + 0))]
  | .fsub fmt f => [f.word 0x28#8 (BitVec.ofNat 12 (fmt.code * 256 + 1))]
  | .fmul fmt f => [f.word 0x28#8 (BitVec.ofNat 12 (fmt.code * 256 + 2))]
  | .ffma fmt f => [f.word 0x28#8 (BitVec.ofNat 12 (fmt.code * 256 + 3))]
  | .fdiv fmt f => [f.word 0x28#8 (BitVec.ofNat 12 (fmt.code * 256 + 4))]
  | .fsqrt fmt f => [f.word 0x28#8 (BitVec.ofNat 12 (fmt.code * 256 + 5))]
  | .fmin fmt f => [f.word 0x28#8 (BitVec.ofNat 12 (fmt.code * 256 + 6))]
  | .fmax fmt f => [f.word 0x28#8 (BitVec.ofNat 12 (fmt.code * 256 + 7))]
  | .fcmpEq fmt f => [f.word 0x29#8 (BitVec.ofNat 12 (fmt.code * 256 + 0))]
  | .fcmpLt fmt f => [f.word 0x29#8 (BitVec.ofNat 12 (fmt.code * 256 + 1))]
  | .fcmpLe fmt f => [f.word 0x29#8 (BitVec.ofNat 12 (fmt.code * 256 + 2))]
  | .fcmpUn fmt f => [f.word 0x29#8 (BitVec.ofNat 12 (fmt.code * 256 + 3))]
  | .fclass fmt f => [f.word 0x29#8 (BitVec.ofNat 12 (fmt.code * 256 + 16))]
  | .fmv f => [f.word 0x29#8 0x20#12]
  | .fcvt dst src f => [f.word 0x2A#8 (BitVec.ofNat 12 (dst.code * 32 + src.code))]
  | .brCc cc f => [f.word 0x20#8 (BitVec.ofNat 4 cc.code)]
  | .jmp f => [f.word 0x21#8 0x0#4]
  | .jal f => [f.word 0x22#8 0x0#4]
  | .jr f => [f.word 0x23#8 0x0#4]
  | .loop k f => [f.word 0x24#8 (k.setWidth 4)]
  | .loopi k f => [f.word 0x25#8 (k.setWidth 4)]
  | .ld f => f.words 0x30#8
  | .st f => f.words 0x31#8
  | .amoAdd f => f.words 0x32#8
  | .amoAnd f => f.words 0x32#8
  | .amoOr f => f.words 0x32#8
  | .amoXor f => f.words 0x32#8
  | .amoMin f => f.words 0x32#8
  | .amoMax f => f.words 0x32#8
  | .amoMinu f => f.words 0x32#8
  | .amoMaxu f => f.words 0x32#8
  | .amoSwap f => f.words 0x32#8
  | .amoIncb f => f.words 0x32#8
  | .cas f => f.words 0x33#8
  | .fenceAcq f => f.words 0x34#8
  | .fenceRel f => f.words 0x34#8
  | .fenceFull f => f.words 0x34#8
  | .setshape f => [f.word 0x40#8 0x0#12]
  | .setcfg f => f.words 0x41#8 0x0#4
  | .setcfgEw f => f.words 0x41#8 0x1#4
  | .setcfgScope f => f.words 0x41#8 0x2#4
  | .setcfgSpace f => f.words 0x41#8 0x3#4
  | .setcfgRm f => f.words 0x41#8 0x4#4
  | .vqlen f => [f.word 0x42#8 0x0#12]
  | .settile f => [f.word 0x43#8 0x0#12]
  | .vadd f => [f.word 0x50#8 0x0#12]
  | .vsub f => [f.word 0x50#8 0x1#12]
  | .vmul f => [f.word 0x50#8 0x2#12]
  | .vmulh f => [f.word 0x50#8 0x3#12]
  | .vdiv f => [f.word 0x50#8 0x4#12]
  | .vmin f => [f.word 0x50#8 0x5#12]
  | .vmax f => [f.word 0x50#8 0x6#12]
  | .vfma f => [f.word 0x51#8 0x0#12]
  | .vfms f => [f.word 0x51#8 0x1#12]
  | .vfnma f => [f.word 0x51#8 0x2#12]
  | .vand f => [f.word 0x53#8 0x0#12]
  | .vor f => [f.word 0x53#8 0x1#12]
  | .vxor f => [f.word 0x53#8 0x2#12]
  | .vshl f => [f.word 0x53#8 0x3#12]
  | .vshr f => [f.word 0x53#8 0x4#12]
  | .vsra f => [f.word 0x53#8 0x5#12]
  | .vabs f => [f.word 0x52#8 0x0#12]
  | .vneg f => [f.word 0x52#8 0x1#12]
  | .vnot f => [f.word 0x52#8 0x2#12]
  | .vsqrt f => [f.word 0x52#8 0x3#12]
  | .vrcp f => [f.word 0x52#8 0x4#12]
  | .vrsq f => [f.word 0x52#8 0x5#12]
  | .vclz f => [f.word 0x52#8 0x6#12]
  | .vpopc f => [f.word 0x52#8 0x7#12]
  | .vcmpCc cc f => [f.word 0x54#8 (BitVec.ofNat 12 cc.code)]
  | .vsel f => [f.word 0x54#8 0x10#12]
  | .vmov f => [f.word 0x55#8 0x0#12]
  | .vbcast f => [f.word 0x55#8 0x1#12]
  | .viota f => [f.word 0x55#8 0x2#12]
  | .vmvx f => [f.word 0x55#8 0x3#12]
  | .vmvs f => [f.word 0x55#8 0x4#12]
  | .vexp2 f => [f.word 0x56#8 0x0#12]
  | .vlog2 f => [f.word 0x56#8 0x1#12]
  | .vsin f => [f.word 0x56#8 0x2#12]
  | .vcos f => [f.word 0x56#8 0x3#12]
  | .vred op f => [f.word 0x57#8 (BitVec.ofNat 12 (0 * 16 + op.code))]
  | .vredx op f => [f.word 0x57#8 (BitVec.ofNat 12 (1 * 16 + op.code))]
  | .vscan op f => [f.word 0x57#8 (BitVec.ofNat 12 (2 * 16 + op.code))]
  | .vslideUp f => [f.word 0x58#8 0x0#12]
  | .vslideDn f => [f.word 0x58#8 0x1#12]
  | .vperm f => [f.word 0x58#8 0x2#12]
  | .vpush f => [f.word 0x58#8 0x3#12]
  | .vtrans f => [f.word 0x58#8 0x4#12]
  | .vshuf f => [f.word 0x5D#8 0x0#12]
  | .mand f => [f.word 0x59#8 0x0#12]
  | .mor f => [f.word 0x59#8 0x1#12]
  | .mxor f => [f.word 0x59#8 0x2#12]
  | .mnot f => [f.word 0x59#8 0x3#12]
  | .mpopc f => [f.word 0x59#8 0x4#12]
  | .mfirst f => [f.word 0x59#8 0x5#12]
  | .vcvt src f => [f.word 0x5A#8 (BitVec.ofNat 12 (0 * 256 + src.code))]
  | .vcvtNarrow src f => [f.word 0x5A#8 (BitVec.ofNat 12 (1 * 256 + src.code))]
  | .vcvtWiden src f => [f.word 0x5A#8 (BitVec.ofNat 12 (2 * 256 + src.code))]
  | .vcvtF32E2m1 src f => [f.word 0x5A#8 (BitVec.ofNat 12 (3 * 256 + src.code))]
  | .vscale src f => [f.word 0x5A#8 (BitVec.ofNat 12 (4 * 256 + src.code))]
  | .vaddWac f => [f.word 0x5B#8 0x0#12]
  | .vcvtWac f => [f.word 0x5B#8 0x1#12]
  | .vcvtFwac f => [f.word 0x5B#8 0x2#12]
  | .vmeta f => [f.word 0x5C#8 0x0#12]
  | .vtopk f => [f.word 0xE8#8 0x0#12]
  | .vldUnit f => f.words 0x70#8
  | .vldStrided f => f.words 0x71#8
  | .vldx f => f.words 0x72#8
  | .vstUnit f => f.words 0x73#8
  | .vstStrided f => f.words 0x74#8
  | .vstx f => f.words 0x75#8
  | .vsadd f => f.words 0x76#8
  | .vamo f => f.words 0x77#8
  | .vspill f => f.words 0x78#8
  | .vfill f => f.words 0x79#8
  | .talloc f => f.words 0x80#8
  | .tallocFix f => f.words 0x80#8
  | .tfree f => f.words 0x81#8
  | .tstat f => f.words 0x82#8
  | .tstatH f => f.words 0x82#8
  | .twait f => f.words 0x83#8
  | .twaitH f => f.words 0x83#8
  | .tld f => f.words 0x84#8
  | .tst f => f.words 0x85#8
  | .vpln f => f.words 0x86#8
  | .tdesc f => f.words 0x87#8
  | .tdescRf f => f.words 0x87#8
  | .tnbr f => f.words 0x88#8
  | .thalo f => f.words 0x89#8
  | .tinv f => f.words 0x8A#8
  | .tflush f => f.words 0x8B#8
  | .tprobe f => f.words 0x8C#8
  | .copy f => [f.word 0x90#8]
  | .copyDec f => [f.word 0x91#8]
  | .copyEnc f => [f.word 0x92#8]
  | .cwait f => [f.word 0x93#8]
  | .cstat f => [f.word 0x94#8]
  | .mma f => [f.word 0x98#8]
  | .mmaSp f => [f.word 0x99#8]
  | .mmaCb f => [f.word 0x9A#8]
  | .cbld f => [f.word 0x9B#8]
  | .mwait f => [f.word 0x9C#8]
  | .mstat f => [f.word 0x9D#8]
  | .potOpen f => [f.word 0xA0#8]
  | .potJoin f => [f.word 0xA1#8]
  | .potSend f => [f.word 0xA2#8]
  | .potWait f => [f.word 0xA3#8]
  | .potClose f => [f.word 0xA4#8]
  | .potCloseJ f => [f.word 0xA4#8]
  | .potStat f => [f.word 0xA5#8]
  | .potStatJ f => [f.word 0xA5#8]
  | .claim f => f.words 0xA8#8
  | .deckPush f => f.words 0xA9#8
  | .deckPop f => f.words 0xA9#8
  | .deckSteal f => f.words 0xA9#8
  | .claspInit f => f.words 0xAA#8
  | .claspArrive f => f.words 0xAB#8
  | .claspDrop f => f.words 0xAC#8
  | .claspWait f => f.words 0xAD#8
  | .waita f => f.words 0xAE#8
  | .fbind f => [f.word 0xB0#8]
  | .funbind f => [f.word 0xB1#8]
  | .fqry f => [f.word 0xB2#8]
  | .fop f => f.words 0xC0#8
  | .nop f => f.words 0xE0#8 0x0#12
  | .trap f => f.words 0xE0#8 0x1#12
  | .bkpt f => f.words 0xE0#8 0x2#12
  | .yield f => f.words 0xE0#8 0x3#12
  | .done f => f.words 0xE0#8 0x4#12
  | .eret f => f.words 0xE0#8 0x5#12
  | .csrrd csr f => f.words 0xE1#8 csr
  | .csrwr csr f => f.words 0xE2#8 csr
  | .csrset csr f => f.words 0xE3#8 csr
  | .csrclr csr f => f.words 0xE4#8 csr
  | .enq f => f.words 0xE5#8 0x0#12
  | .dcwb f => f.words 0xE6#8 0x0#12
  | .icinv f => f.words 0xE6#8 0x1#12
  | .fetchb f => f.words 0xE6#8 0x2#12
  | .keyselBind f => f.words 0xE7#8 0x0#12
  | .keyselUnbind f => f.words 0xE7#8 0x0#12
  | .keyselQry f => f.words 0xE7#8 0x0#12
  | .udf bits => [0xFF#8 ++ bits]
  | .replyReturn _ _ => []
  | .activeMessageDelivery _ _ => []
  | .copySuspend _ _ => []
  | .copyComplete _ _ => []
  | .matrixComplete _ => []
  | .engineTrapDelivery _ => []
  | .tflushComplete _ _ => []
  | .pageWalk _ _ => []
  | .atsTranslationCompletion _ _ _ _ _ => []
  | .priResponse _ _ _ => []
  | .hostpageTimeout _ _ => []
  | .atsInvalidationRequest _ _ _ => []
  | .ticmdGo _ _ => []
  | .ticmdErrClear _ => []
  | .shootdownComplete _ => []
  | .twinWrite _ _ _ => []
  | .lineFill _ _ => []
  | .scatterAddPass _ => []
  | .generationScrub => []
  | .patrolScrub _ _ => []
  | .monitorExpiry _ _ => []
  | .waitaTimeout _ => []
  | .waitaMonfull _ => []
  | .claspWaitPoll _ => []
  | .snpData _ => []
  | .snpInv _ => []
  | .snpCur _ => []
  | .bisnpResponse _ _ => []
  | .hostMemoryAccess _ _ _ _ => []
  | .clusterPowerGate _ => []
  | .decisionRound _ => []
  | .rootDecisionRound => []
  | .launchRecordFetch _ => []
  | .blockedHeadReread _ => []
  | .holdBegin _ => []
  | .quantumExpiry _ => []
  | .potdeferDeadline _ => []
  | .preemptionSave _ => []
  | .preemptDelivery _ => []
  | .preemptGraceExpiry _ => []
  | .contextRestore _ => []
  | .sliceRetirement _ _ => []
  | .generationRecord _ => []
  | .gencmdWrite => []
  | .wqtailDoorbell _ _ _ => []
  | .wqbaseWrite _ _ _ => []
  | .wqheadErrClear _ _ => []
  | .tenantResetStart _ => []
  | .functionLevelReset _ => []
  | .vfDisable _ => []
  | .tenantResetComplete _ => []
  | .trstatDoneClear _ => []
  | .powerInterval => []
  | .unitRamp _ => []
  | .nodeidWrite _ => []
  | .mmioWrite _ _ _ => []
  | .msixUnmask _ _ => []
  | .joinRequestArrival _ => []
  | .joinRetryReissue _ _ => []
  | .grant _ => []
  | .over _ => []
  | .denied _ => []
  | .spilled _ => []
  | .resumed _ => []
  | .closed _ => []
  | .forfeit _ => []
  | .fbcount _ => []
  | .joinWithdrawal _ => []
  | .contributionArrival _ => []
  | .nodeLinkLoss _ => []
  | .fopComplete _ _ => []
  | .fopStop _ _ => []
  | .escapeMove _ _ => []
  | .escapeTimeout _ _ => []
  | .fabricStalled _ => []
  | .configUe _ _ _ => []
  | .regionReloadDone _ => []
  | .flitCrcFail _ => []
  | .portRetrain _ => []
  | .laneRetire _ _ => []
  | .portRetire _ => []
  | .laneRecalibration _ _ => []
  | .remoteRequestArrival _ _ _ _ => []
  | .remoteRequestTimeout _ => []
  | .keyProvision _ _ _ _ => []
  | .keyDelete _ _ => []
  | .tdiLock _ => []
  | .tdiStart _ => []
  | .stopInterface _ => []
  | .spdmSessionExpiry _ => []
  | .ideIntegrityFailure _ => []
  | .pcieLinkDown => []
  | .confLostDelivery _ => []
  | .machineCheck => []
  | .uncontainedEnd _ => []
  | .firmwareUpdate => []
  | .dieQuiesce _ => []
  | .mctpRequest => []
  | .deviceReset => []
  | .vfEnable _ => []
  | .clusterPowerUp _ => []
  | .dieReturn _ => []
  | .linkTrainingComplete _ => []
  | .thermalLimitChange _ => []
  | .spdmSessionEstablished _ => []

/-- The instruction word of an instruction: the last of its words (TVAL of the decode traps, R200). -/
def Instr.word (i : Instr) : Word := (encode i).getLastD 0

/-- The size of an instruction in bytes: 8, or 16 with its extension word (R191). -/
def Instr.size (i : Instr) : Nat := 8 * (encode i).length

end Sys2Proof
end

