-- ==== Sys2Proof/Machine/State.lean ====
section
/-! DEFINITION. The state of the machine: 256 cores, the memory system, the accumulate network, the
scheduler, the host interface and the links, as plain data; the reasons it can stop; and the state after
reset. INVENTORY.md ('## State') names the rule of every field. -/

namespace Sys2Proof.Machine

/-- Why the machine stops. One reason only: every condition a program can meet is a trap, a status or a
next state (R12). -/
inductive Fault where
  /-- Raised by HOST_MEMORY_ACCESS when the host names an address outside the 768 GiB it is given (R21, R397:
  no such device memory exists). Safe: the model stops, the part does not do it. -/
  | noSuchMemory (pa : Nat)
  deriving DecidableEq, Repr

/-- Why the model refuses an instruction. -/
inductive Refusal where
  /-- Raised by the arm of an instruction that has no meaning yet. Safe: the model stops. -/
  | notModelled (mnemonic : String)
  deriving DecidableEq, Repr

/-- Memory as (address, byte) pairs: addresses strictly rising, no listed byte equal to what an unlisted
address reads as (zero, log 2). -/
abbrev Mem := List Host.Cell

/-- What an unlisted address of a memory reads as (log 2). -/
def Mem.blank : Byte := 0

/-- The canonical form of a memory: addresses strictly rising, no listed byte blank. -/
def Mem.wf : Mem → Bool
  | [] => true
  | [c] => c.2 != Mem.blank
  | c :: d :: rest => c.2 != Mem.blank && decide (c.1 < d.1) && Mem.wf (d :: rest)

/-- Privilege levels (R348). -/
inductive Priv where
  | user | super | machine
  deriving DecidableEq, Repr

/-- States of a vector register (R84). -/
inductive RegState where
  | full | empty | lent
  deriving DecidableEq, Repr

/-- States of a tile (R89). -/
inductive TileState where
  | empty | filling | ready | draining | poisoned
  deriving DecidableEq, Repr

/-- A tile-table entry (R89). -/
structure Tile where
  v       : Bool
  st      : TileState
  pk      : Bool
  p       : BitVec 5
  et      : BitVec 5
  pot     : Bool
  readers : BitVec 8
  tenant  : BitVec 6
  conf    : Bool
  susp    : Bool
  base    : BitVec 11
  size    : BitVec 12
  deriving DecidableEq, Repr

/-- A free tile-table entry (R89). -/
def Tile.free : Tile :=
  { v := false, st := .empty, pk := false, p := 0, et := 0, pot := false, readers := 0, tenant := 0,
    conf := false, susp := false, base := 0, size := 0 }

/-- States of a completion entry (R181). -/
inductive HandleState where
  | free | busy | done
  deriving DecidableEq, Repr

/-- A completion-table entry (R181); kind 0 copy, 1 matrix, 2 tensor flush. -/
structure Handle where
  st     : HandleState
  kind   : BitVec 3
  status : BitVec 4
  detail : BitVec 32
  deriving DecidableEq, Repr

/-- A reply on its way: the scalar registers it fills (R178, R276). -/
structure Reply where
  writes : List (BitVec 6 × Word)
  deriving DecidableEq, Repr

/-- What a control thread waits at (R179): which waiting instruction, and what its time-out events need. -/
inductive Wait where
  | none
  /-- an EMPTY scalar, a full reply queue, a register, a tile, an inbox, a completion entry or an engine -/
  | resource
  /-- WAITA on a word, with its destination and size; full: no monitor entry was free (R136) -/
  | waita (xd : BitVec 6) (size : Nat) (word : Nat) (full : Bool)
  /-- CLASP.WAIT on a word (R276); full: it polls (R136) -/
  | clasp (word : Nat) (full : Bool)
  /-- CWAIT, MWAIT or TWAIT.H on a handle -/
  | handle (h : BitVec 8)
  /-- a host translation of this function and page (R37) -/
  | ats (func page : Nat)
  /-- a node that does not answer; expired: 200 us have passed (R411) -/
  | remote (node : Nat) (expired : Bool)
  /-- a host-cached device line being invalidated (R400) -/
  | bisnp (line : Nat)
  /-- a running FOP whose result the thread needs -/
  | fabric
  deriving DecidableEq, Repr

/-- The vector unit of a core (R78 to R84): registers with their states and layout tags, the operand and
last-result files (entry k is operand code 32 + k), the masks (entry 0 is never read: m0 is all ones), and the
poisoned register bits as (operand code, first bit, length), masks under code 64 + number (R95); high: one past the highest
bit of each register written since the task's start (R369). -/
structure VecUnit where
  v      : Vector (BitVec 262144) 32
  st     : Vector RegState 32
  tag    : Vector Nat 32
  o      : Vector (BitVec 65536) 10
  m      : Vector (BitVec 65536) 8
  poison : List (Nat × Nat × Nat)
  errs   : Vector Nat 32
  high   : Vector Nat 32
  deriving DecidableEq, Repr

/-- Phases of a copy (R180, R301). -/
inductive CopyPhase where
  | queued | running | suspended
  deriving DecidableEq, Repr

/-- REPLY translated (R301): the entry, its level, the address before ATS and the final one; on a TB page the descriptor, TID,
tile number and byte of the line. -/
structure ReplyPin where
  pte   : Word
  level : Nat
  pa    : Nat
  ga    : Nat
  line  : Option (List Word × Nat × Nat × Nat)
  deriving DecidableEq, Repr

/-- A copy in flight (R297 to R306); kind 0 COPY, 1 COPY.DEC, 2 COPY.ENC. prevSrc and prevDst are the entries its
tile sides had at issue, conf the source tile's CONF; refused is the final status of a copy that does nothing but
write its reply; asid, ptroot and tdt are ASID, PTROOT and TDTROOT as they stood at its issue (R33, R101); rep is the
translation of REPLY, pinned from the first access; auth is the key and IV the security engine granted; resumed: the page of u
is pinned; fmt: the FMT of the source's first unit; old: the bytes, by address, that source and destination share, as the copy
found them (R299). -/
structure CopyOp where
  h       : BitVec 8
  kind    : BitVec 2
  src     : Word
  dst     : Word
  srcTile : Option (BitVec 8)
  dstTile : Option (BitVec 8)
  keep    : Bool
  d0      : Word
  d1      : Word
  reply   : Word
  ctr     : Word
  rm      : BitVec 2
  asid    : BitVec 16
  ptroot  : Nat
  tdt     : Word
  super   : Bool
  phase   : CopyPhase
  u       : Nat
  prevSrc : Tile
  prevDst : Tile
  conf    : Bool
  refused : Option (BitVec 4)
  rep     : Option ReplyPin
  auth    : Option (BitVec 256 × BitVec 96)
  resumed : Bool
  fmt     : Option Nat
  old     : List (Nat × Nat)
  deriving DecidableEq, Repr

/-- A matrix operation (R283 to R295); kind 0 MMA, 1 MMA.SP, 2 MMA.CB, 3 CBLD. claims: the tiles whose
reader count it still holds; fail: the tile that a check of R284 refused at issue; gs: the next K-group (R295); flags: those
raised so far. -/
structure MatOp where
  h      : BitVec 8
  kind   : BitVec 2
  ra     : Word
  rb     : Word
  rc     : Word
  ta     : BitVec 8
  tb     : BitVec 8
  tm     : BitVec 8
  c      : BitVec 5
  wac    : Bool
  zc     : Bool
  m      : Nat
  n      : Nat
  k      : Nat
  wace   : Word
  gs     : Nat
  active : Bool
  claims : List (BitVec 8)
  fail   : Option (BitVec 8)
  flags  : BitVec 7
  deriving DecidableEq, Repr

/-- A tensor flush (R112), with TDTROOT and PTROOT as they stood at its issue (R101). -/
structure FlushOp where
  h      : BitVec 8
  tenant : BitVec 6
  asid   : BitVec 16
  tid    : BitVec 16
  tdt    : Word
  root   : Nat
  super  : Bool
  active : Bool
  deriving DecidableEq, Repr

/-- An engine event not yet delivered (R293): its handle, status and kind, and what ENGSTAT receives. -/
structure EngEvent where
  h      : BitVec 8
  status : BitVec 4
  kind   : BitVec 3
  event  : Word
  deriving DecidableEq, Repr

/-- A token of the fabric: end mark and data (R308). -/
structure Token where
  c : Bool
  d : BitVec 32
  deriving DecidableEq, Repr

/-- One element of a running grid (R308): its configuration word, its four input queues, its output
registers, the tokens it passes through on its eight outgoing tracks (N0 N1 E0 E1 S0 S1 W0 W1), its register (for
MATCH the two positions and the number of matches), whether a CONST without input has fired, and what has escaped
into the overflow buffer behind each queue (R324). -/
structure GridElem where
  e    : Nat
  word : BitVec 96
  q    : List (List Token)
  a    : Option Token
  b    : Option Token
  trk  : List (Option Token)
  r0   : BitVec 32
  r1   : BitVec 32
  r2   : BitVec 32
  once : Bool
  esc  : List (Nat × Token)
  deriving DecidableEq, Repr

/-- A running or frozen FOP (R321 to R324): the operands of the instruction, RM and SPACE at its issue, the header of
its setting, its elements in rising index, the tokens delivered by stream-in ports and scalar ports, the tokens
written by stream-out ports and which have ended, the requests of ports 0 to 7 (load), 8 to 11 (store) and 12 to 15
(engine), flags, the cycles since each region fired, where each recovery token stands, the element whose stopped
request goes first, the elements whose requests have been made and wait, oldest first, the handles of its EMITs, and the
regions to be reloaded, in order. -/
structure Grid where
  slot    : BitVec 6
  vd      : BitVec 7
  va      : BitVec 7
  vb      : BitVec 7
  msk     : BitVec 3
  imm     : Word
  xl      : BitVec 6
  rm      : BitVec 2
  space   : BitVec 2
  size    : Nat
  hdr     : Word
  types   : Word
  maps    : Word
  elems   : List GridElem
  inpos   : Vector Nat 8
  sent    : Vector Bool 2
  outpos  : Vector Nat 4
  ended   : Vector Bool 4
  reqs    : Vector Nat 16
  flags   : BitVec 7
  idle    : Vector Nat 16
  rot     : Vector Nat 16
  first   : Option Nat
  wants   : List Nat
  emits   : List (BitVec 8)
  frozen  : Bool
  reload  : List (BitVec 4)
  deriving DecidableEq, Repr

/-- A binding: the image and the header words FBIND found (R319, R320). -/
structure Bound where
  img   : Nat
  hdr   : Word
  types : Word
  deriving DecidableEq, Repr

/-- A configuration plane: the image it was loaded from and its words, those that are zero left out (R319). -/
structure Plane where
  img   : Nat
  hdr   : Word
  types : Word
  maps  : Word
  words : List (Nat × BitVec 96)
  deriving DecidableEq, Repr

/-- The fabric of a core: binding table, planes (least recently used first in lru), the active plane, and the
running or frozen FOP (R319 to R323). -/
structure Fabric where
  slots  : Vector (Option Bound) 64
  planes : Vector (Option Plane) 4
  lru    : List (BitVec 2)
  active : Option (BitVec 2)
  grid   : Option Grid
  deriving DecidableEq, Repr

/-- States of a join entry (R333, R335). -/
inductive JoinState where
  | free | pending | granted | spilled | over | denied | closed
  deriving DecidableEq, Repr

/-- A join-table entry (R333, R335); retry: answered RETRY and not yet reissued (R328); serial: which opening of the tile
granted it (R347). -/
structure Join where
  st    : JoinState
  fb    : Word
  rule  : BitVec 2
  fmt   : Bool
  n     : Nat
  left  : Nat
  node  : BitVec 10
  core  : CoreId
  tile  : BitVec 8
  e     : Nat
  wace  : BitVec 16
  retry : Bool
  serial : Nat
  deriving DecidableEq, Repr

/-- A joiner of a pot: where its join entry is and of which task, the antes granted and not yet used, and
whether a SPILLED notice was sent to it (R329, R345). -/
structure Joiner where
  node    : BitVec 10
  core    : CoreId
  j       : BitVec 6
  task    : Nat
  left    : Nat
  spilled : Bool
  deriving DecidableEq, Repr

/-- An open pot of a core (R329 to R334). Its accumulators and log stand in its tile; serial tells it from other pots opened on
the tile (R347). -/
structure Pot where
  tile    : BitVec 8
  rule    : BitVec 2
  fmt     : Bool
  log     : Bool
  e       : Nat
  expect  : Nat
  granted : Nat
  arrived : Nat
  forf    : Nat
  fbcnt   : Nat
  fl      : BitVec 4
  forfany : Bool
  wace    : BitVec 16
  spilled : Bool
  joiners : List Joiner
  serial  : Nat
  deriving DecidableEq, Repr

/-- A join request held at its destination (R328, R337). -/
structure PendJoin where
  node   : BitVec 10
  core   : CoreId
  j      : BitVec 6
  task   : Nat
  tenant : BitVec 6
  tile   : BitVec 8
  n      : Nat
  deriving DecidableEq, Repr

/-- What a packet of the accumulate network carries (R328). -/
inductive Payload where
  | join (tenant : BitVec 6) (n : Nat)
  | withdraw
  | grant (n : Nat) (rule : BitVec 2) (fmt : Bool) (e : Nat) (wace : BitVec 16)
  | over
  | denied
  | retry
  | spilled
  | resumed
  | closed
  | forfeit (n : Nat)
  | fbcount (rank : BitVec 8)
  | data (rank : BitVec 8) (elems : List Nat)
  deriving DecidableEq, Repr

/-- A packet in flight: channel (0 REQ, 1 NOTE, 2 DATA), source, destination, the join entry and task it is about,
the tile of the pot and which opening of it (R347), and the registers of the sender that a contribution lends until it is
read (R328, R84). -/
structure Packet where
  ch      : BitVec 2
  srcNode : BitVec 10
  srcCore : CoreId
  j       : BitVec 6
  task    : Nat
  dstNode : BitVec 10
  dstCore : CoreId
  tile    : BitVec 8
  serial  : Nat
  load    : Payload
  lent    : List (BitVec 5)
  deriving DecidableEq, Repr

/-- A monitor entry: its core, the physical word, the tenant, FIRED (R135). A core has at most 8. -/
structure Monitor where
  core   : CoreId
  word   : Nat
  tenant : BitVec 6
  fired  : Bool
  deriving DecidableEq, Repr

/-- A cached translation (R34): level of the leaf, first virtual page, the entry and its frame. -/
structure TlbEntry where
  tenant : BitVec 6
  asid   : BitVec 16
  level  : Nat
  big    : Bool
  vpn    : Nat
  pte    : Word
  deriving DecidableEq, Repr

/-- A cached non-leaf entry (R34): the level it was read at, the virtual prefix and the next table's page. -/
structure WalkEntry where
  die    : BitVec 2
  tenant : BitVec 6
  asid   : BitVec 16
  level  : Nat
  pre    : Nat
  ppn    : Nat
  deriving DecidableEq, Repr

/-- The page recorded by the last translation fault of a vector instruction or FOP (R36). -/
structure Pin where
  pc   : Word
  page : Nat
  deriving DecidableEq, Repr

/-- What holds a byte that a load names: memory at an address of Cache.lean, a tensor line, a scratchpad. -/
inductive Store where
  | mem
  | line (key : LineKey)
  | scratch (c : CoreId)
  deriving DecidableEq, Repr

/-- A vector load that the access stream has performed ahead of older instructions (R143): its address, and the bytes it
read as (where, offset, count). -/
structure Ahead where
  pc    : Word
  bytes : List (Store × Nat × Nat)
  deriving DecidableEq, Repr

/-- Whose access a host translation serves (R37): the thread or fabric of a core, its copy under a handle, the completion
word of a shootdown, the Dealer for a tenant. -/
inductive Asker where
  | thread (c : CoreId)
  | copy (c : CoreId) (h : BitVec 8)
  | word (func : Nat)
  | dealer (t : BitVec 6)
  deriving DecidableEq, Repr

/-- A line held in an L1 data cache (R115); epoch and level of the replica it was filled from, if any. -/
structure L1Line where
  key   : LineKey
  data  : BitVec 2048
  rep   : Option (Nat × Nat)
  deriving DecidableEq, Repr

/-- A home line (R99): the bank it is at (level, index), the data entry of its set that it takes, alone or with another
half-size line (R109), its data, which bytes are dirty and which poisoned, and its runs as (offset in the line, bytes,
address): one run at a physical address for an address-mode line, the runs of R105 at virtual addresses for a tensor
line, whose write-back translates them under root. -/
structure HomeLine where
  key    : LineKey
  bank   : Nat × Nat
  slot   : Nat
  data   : BitVec 2048
  dirty  : BitVec 256
  poison : BitVec 256
  runs   : List (Nat × Nat × Nat)
  root   : Nat
  deriving DecidableEq, Repr

/-- A replica in a cluster bank (R113), with the data entry of its set that it takes (R109). -/
structure Replica where
  cluster : BitVec 6
  key     : LineKey
  slot    : Nat
  data    : BitVec 2048
  epoch   : Nat
  level   : Nat
  deriving DecidableEq, Repr

/-- A cached tensor descriptor of a cluster (R104). -/
structure DescEntry where
  cluster : BitVec 6
  tenant  : BitVec 6
  asid    : BitVec 16
  tid     : BitVec 16
  dw      : List Word
  deriving DecidableEq, Repr

/-- Stages of a member's pre-emption (R344, R366, R367): deferred for pots; PREEMPT due; PREEMPT delivered, grace time
running; past step 1, to be saved; dealt again, to be restored. -/
inductive Preempt where
  | none | deferred | due | noticed | stopping | restoring
  deriving DecidableEq, Repr

/-- The accumulate interface of a core (R328, R333); opened: the pots opened on the core so far. -/
structure Acn where
  joins : Vector Join 64
  pots  : List Pot
  pend  : List PendJoin
  opened : Nat
  deriving DecidableEq, Repr

/-- The engines of a core and their completion table (R180, R181, R293); stream: the handles of the engine commands that the
execute stream still holds because an inbox is full, oldest first. -/
structure Engines where
  handles  : Vector Handle 256
  copies   : List CopyOp
  mats     : List MatOp
  flushes  : List FlushOp
  stream   : List (BitVec 8)
  events   : List EngEvent
  codebook : BitVec 8192
  deriving DecidableEq, Repr

/-- The caches a core keeps (R34, R115, R364), its replica floors (R114), and the outstanding run-ahead loads (R143). -/
structure CoreCache where
  l1d      : List L1Line
  icache   : List (Nat × Word)
  tlb      : List TlbEntry
  pin      : Option Pin
  floors   : Vector Nat 3
  ahead    : List Ahead
  deriving DecidableEq, Repr

/-- What the Dealer gave a core: the task, the member's rank and save slot (R173), whether it has executed
DONE (R174), its pre-emption stage, the recorded code generation (R372), whether the core is in the pool, the slices to be
retired once its task is saved (R98), and the issue rates of its vector, matrix, fabric and copy units in sixteenths, 0 for one
that does not ramp (R395). -/
structure CoreTask where
  task     : Option Nat
  tenant   : BitVec 6
  rank     : Nat
  slot     : Nat
  finished : Bool
  preempt  : Preempt
  conf     : Bool
  gen      : Word
  pool     : Bool
  retire   : List (BitVec 5)
  ramp     : Vector (BitVec 4) 4
  deriving DecidableEq, Repr

/-- One core. csr holds every CSR under its own number (0x000 to 0x205, R198, R377); frame is the trap
frame LC0 LS0 LE0 LC1 LS1 LE1 VSTART (R352). -/
structure Core where
  x      : Vector Word 64
  pc     : Word
  priv   : Priv
  csr    : Vector Word 518
  frame  : Vector Word 7
  replies : List Reply
  wait   : Wait
  vec    : VecUnit
  tiles  : Vector Tile 256
  scratch : Mem
  scratchPoison : List Nat
  eng    : Engines
  fab    : Fabric
  acn    : Acn
  cache  : CoreCache
  tk     : CoreTask
  deriving DecidableEq, Repr

/-- A snoop-filter entry (R116): the host line, its home bank, whether the home copy is dirty, and the
clusters whose L1 data caches may hold it. -/
structure SnoopEntry where
  line     : Nat
  bank     : Nat × Nat
  dirty    : Bool
  presence : BitVec 64
  deriving DecidableEq, Repr

/-- An ATC entry: function, untranslated page, host page, write permission (R37). -/
structure AtcEntry where
  func  : Nat
  page  : Nat
  host  : Nat
  write : Bool
  deriving DecidableEq, Repr

/-- A shootdown in progress (R40): the function whose block it was started in, and what it covers. -/
structure Shoot where
  func    : Nat
  target  : Nat
  allAsid : Bool
  incg    : Bool
  asid    : BitVec 16
  vpn     : Nat
  pages   : Nat
  deriving DecidableEq, Repr

/-- An addend of a scatter-add: its address, type, rounding mode, value and tenant (R128, R129). -/
structure Addend where
  pa     : Nat
  et     : ET
  rm     : BitVec 2
  value  : Nat
  tenant : BitVec 6
  deriving DecidableEq, Repr

/-- A scatter-add chain waiting at a memory port: the 8-byte word and its addends, oldest first (R128). -/
structure Chain where
  word    : Nat
  addends : List Addend
  deriving DecidableEq, Repr

/-- The memory system outside the cores. homes and replicas are listed most recently used first (R110); retired: the
generations whose lines the scrubber has yet to free (R111); flushFail: the status of the first write-back fault at an
eviction since the last flush of a tensor (R110); atsSeek: the accesses that wait for a host translation, oldest first,
atsFail those of them that have failed (R37); snoops: the answers given to the host's snoops, each with the data of a
dirty line (R117); lost: bytes discarded and not yet logged, as (class of the entry, tenant, address): the addends of a poisoned
word and the write-backs that could not be translated (R110, R137). -/
structure MemSys where
  mem       : Mem
  poison    : List Nat
  host      : Mem
  remote    : Mem
  chains    : List Chain
  monitors  : List Monitor
  homes     : List HomeLine
  replicas  : List Replica
  repoch    : Vector Nat 64
  desc      : List DescEntry
  retired   : List (BitVec 6 × BitVec 16 × BitVec 16 × BitVec 16)
  flushFail : List (BitVec 6 × BitVec 16 × BitVec 16 × BitVec 4)
  gated     : List (BitVec 6)
  snoop     : List SnoopEntry
  hdm       : List Nat
  bisnp     : List Nat
  l2tlb     : List (BitVec 6 × TlbEntry)
  pwc       : List WalkEntry
  atc       : List AtcEntry
  atsWait   : List (Nat × Nat)
  priWait   : List (Nat × Nat)
  atsSeek   : List (Asker × Nat × Nat)
  atsFail   : List (Asker × Nat × Nat)
  snoops    : List (Nat × Option (BitVec 2048))
  shoots    : List Shoot
  corrected : List (Nat × Nat)
  lost      : List (Nat × BitVec 6 × Nat)
  deriving DecidableEq, Repr

/-- States of a task (R170). -/
inductive TaskState where
  | queued | blocked | ready | running | saving | saved | restoring | ended
  deriving DecidableEq, Repr

/-- A node of a tenant's RCB tree with its dwords (R171). -/
structure Node where
  id : Nat
  dw : List Word
  deriving DecidableEq, Repr

/-- A task fetched from a queue (R169, R170): its queue and index there, its launch record (R381), tenant
and region, state, dealt cores in rank order with their save slots, its first domain, the order of its READY
or SAVED time, the rounds of the root unit since then or since its dealing, which cores it holds (R388), the path of its
region as it was dealt under (R172), the age at which its quantum began (R389), the rounds since its counters were read and
whether they are to be read again (R384). -/
structure Task where
  id      : Nat
  q       : QueueId
  seq     : Nat
  launch  : List Word
  tenant  : BitVec 6
  region  : Nat
  st      : TaskState
  cores   : List CoreId
  slots   : List Nat
  domain  : Nat
  since   : Nat
  age     : Nat
  hold    : Option (List CoreId)
  dealt   : List Node
  q0      : Nat
  polled  : Nat
  due     : Bool
  deriving DecidableEq, Repr

/-- A saved context: the task's rank, the core it left, the core's contents, and where its image stands in memory, with the
places of the sections in it (R366 to R370, R345). -/
structure SavedCtx where
  task   : Nat
  rank   : Nat
  core   : CoreId
  slices : Nat
  body   : Core
  image  : Option (Nat × List Nat)
  deriving DecidableEq, Repr

/-- The Dealer (R384 to R389): tasks, the next task number, the order of READY and SAVED moments, saved contexts, paused rounds (R415), tenants
drained by an escalation (R175), dies quiesced (R415), the tenant table as the last round found it, four dwords a tenant (R379),
the dies that have run their round since the root unit's (R386), the regions whose invalid node has been logged (R171). -/
structure Dealer where
  tasks   : List Task
  next    : Nat
  clock   : Nat
  saved   : List SavedCtx
  paused  : Bool
  drained : List (BitVec 6)
  quiesced : List (BitVec 2)
  table   : Vector Word 256
  rounds  : List (BitVec 2)
  noted   : List (BitVec 6 × Nat)
  deriving DecidableEq, Repr

/-- TDISP states (R406). -/
inductive Tdi where
  | unlocked | locked | run | error
  deriving DecidableEq, Repr

/-- A provisioned key: function, handle, key, NEXT (none when exhausted) (R304, R405). -/
structure Key where
  func   : Nat
  handle : BitVec 16
  key    : BitVec 256
  next   : Option Word
  deriving DecidableEq, Repr

/-- A bound key slot: function, slot, key handle, salt (R304, R365). -/
structure KeySlot where
  func   : Nat
  slot   : BitVec 6
  handle : BitVec 16
  salt   : BitVec 32
  deriving DecidableEq, Repr

/-- The security engine (R405 to R407), for functions 1 to 64 at indices 0 to 63. -/
structure Sec where
  keys    : List Key
  slots   : List KeySlot
  tdi     : Vector Tdi 64
  session : Vector Bool 64
  deriving DecidableEq, Repr

/-- A Woboloth port (R408 to R410): fails, the failures of the flit being sent; retrains, the rounds of the root unit at which
it retrained. -/
structure Port where
  st       : BitVec 2
  lanes    : BitVec 8
  replays  : BitVec 32
  fails    : Nat
  retrains : List Nat
  deriving DecidableEq, Repr

/-- Links and linked nodes: the 24 ports, the nodes that refuse this device's requests and those that do
not answer (outside data, R411). -/
structure Links where
  ports   : Vector Port 24
  refuse  : List Nat
  silent  : List Nat
  deriving DecidableEq, Repr

/-- The root management core and the host interface: MSI-X messages sent as (function, vector), the MSI-X
vectors not masked and pending bits, enabled virtual functions, resets in progress, the thermal limit, the
reload counter and the correctable configuration errors counted (R325), management requests answered (R416) and firmware updates (R415). -/
structure Root where
  msix     : List (Nat × Nat)
  unmasked : List (Nat × Nat)
  pba      : List (Nat × Nat)
  vf       : Vector Bool 64
  resets   : List (BitVec 6)
  thermal  : Option (BitVec 16)
  reloads  : Nat
  configs  : Nat
  mctp     : Nat
  updates  : Nat
  deriving DecidableEq, Repr

/-- An entry of a table of an MSU or an interface: a core's monitor, a pending address, a join, an open pot, a pending join, a
cached host translation (R128, R135, R329, R333, R337, R37). -/
inductive TableEntry where
  | monitor (c : CoreId) (word : Nat)
  | chain (word : Nat)
  | join (c : CoreId) (j : BitVec 6)
  | pot (c : CoreId) (tile : BitVec 8)
  | held (c : CoreId) (k : Nat)
  | atc (func page : Nat)
  deriving DecidableEq, Repr

/-- Which agent moves next. Beside the rows of opcode_table.json: the drop of a cached copy at a moment the
spec leaves open (log 6), and the acts of the host, of linked nodes and of failing storage that are inputs. -/
inductive Move where
  /-- the control thread of a core takes its next step -/
  | thread (c : CoreId)
  /-- an event of opcode_table.json -/
  | event (i : Instr)
  /-- a register block performs a store of the bytes of a mask that a core sent to it (R398; log 11) -/
  | mmioStore (func offset mask : Nat) (value : Word)
  /-- the matrix engine of a core performs one K-group of its operation (R285, R295) -/
  | matrixGroup (c : CoreId)
  /-- the access stream of a core performs the vector load at an address ahead of older instructions (R143) -/
  | runAhead (c : CoreId) (pc : Word)
  /-- a load port of the FOP at an address has its read of n bytes performed ahead (R143) -/
  | portAhead (c : CoreId) (pc at_ : Word) (bytes : Nat)
  /-- an L1 line, instruction word or TLB entry of a core is evicted -/
  | dropL1 (c : CoreId) (key : LineKey)
  | dropFetch (c : CoreId) (word : Nat)
  | dropTlb (c : CoreId) (vpn : Nat)
  /-- a home line is evicted, written back when dirty; a replica is evicted -/
  | dropHome (key : LineKey)
  | dropReplica (cl : BitVec 6) (key : LineKey)
  /-- the host writes its own memory; a linked node's memory changes, or its answer to requests changes -/
  | hostStore (ha : Nat) (bytes : Nat) (value : Nat)
  | remoteStore (pa : Nat) (bytes : Nat) (value : Nat)
  | remoteAnswer (node : Nat) (refuse silent : Bool)
  /-- the host caches a device line, by a request that is trusted or not (R400, R406) -/
  | hostCaches (line : Nat) (trusted : Bool)
  /-- a flit of a port passes its CRC (R410) -/
  | flitPassed (port : Nat)
  /-- an uncorrectable error strikes a stack segment, an 8-byte word of a scratchpad or a register word -/
  | stackError (segment : Nat)
  | scratchError (c : CoreId) (word : Nat)
  | regError (c : CoreId) (code bit : Nat)
  /-- an uncorrectable error strikes the tag or the state bits of a home line, or the Dealer's entry of a task (R412) -/
  | tagError (key : LineKey)
  /-- an uncorrectable error strikes the data of a home line, one of its four segments (R412) -/
  | lineError (key : LineKey) (segment : Nat)
  /-- an uncorrectable error strikes an entry of a table of an MSU or an interface (R412) -/
  | tableError (e : TableEntry)
  | taskError (task : Nat)
  /-- a correctable error of a configuration SRAM (R325) -/
  | configCorrected
  /-- a linked node sends a packet of the accumulate network -/
  | packet (p : Packet)
  deriving DecidableEq, Repr

/-- The whole machine. cur is the core whose thread an instruction of the table acts for; agenda says which
agent moves next; tick counts the free values drawn (log 4). mmio lists every MMIO register that does not
hold its reset value, under function × 2^24 + offset (R398). -/
structure State where
  cores   : Vector Core 256
  cur     : CoreId
  agenda  : List Move
  tick    : Nat
  ms      : MemSys
  mmio    : List (Nat × Word)
  dealer  : Dealer
  net     : List Packet
  sec     : Sec
  links   : Links
  root    : Root
  step    : Stepping
  deriving DecidableEq, Repr

/-- The CSRs after reset: VCFG, VCAP, LMAP, VFX0, VFX1, WACE and RASMODE have a nonzero reset value
(R62, R66, R96, R97, R199); every other CSR resets to 0. -/
def csrReset : Vector Word 518 :=
  (Vector.replicate 518 0).set 0x000 3 |>.set 0x004 0x20_0004_0000 |>.set 0x005 0xFFFF_FFFF
    |>.set 0x00A 0xFFFF_FFFF_FFFF |>.set 0x00B 0xFFFF_FFFF |>.set 0x013 0xFFA0 |>.set 0x130 1

/-- Entry b of the codebook RAM: CB[b][j] = 0.5 + b[j], in quarters, four bits each (R69). -/
def codebookEntry (b : Nat) : Nat :=
  (List.range 8).foldl (fun acc j => acc + (2 + 4 * (b / 2 ^ j % 2)) * 16 ^ j) 0

/-- The default codebook (R69). -/
def codebookReset : BitVec 8192 :=
  BitVec.ofNat 8192 ((List.range 256).foldl (fun acc b => acc + codebookEntry b * 2 ^ (32 * b)) 0)

/-- The vector unit after reset: every register FULL (R84), contents zero (log 1). -/
def VecUnit.reset : VecUnit :=
  { v := Vector.replicate 32 0, st := Vector.replicate 32 .full, tag := Vector.replicate 32 0,
    o := Vector.replicate 10 0, m := Vector.replicate 8 0, poison := [], errs := Vector.replicate 32 0,
    high := Vector.replicate 32 0 }

/-- A free completion entry (R181). -/
def Handle.free : Handle := { st := .free, kind := 0, status := 0, detail := 0 }

/-- The engines after reset. -/
def Engines.reset : Engines :=
  { handles := Vector.replicate 256 Handle.free, copies := [], mats := [], flushes := [], stream := [], events := [],
    codebook := codebookReset }

/-- The fabric after reset: nothing bound, nothing resident (log 3). -/
def Fabric.reset : Fabric :=
  { slots := Vector.replicate 64 none, planes := Vector.replicate 4 none, lru := [0, 1, 2, 3],
    active := none, grid := none }

/-- A FREE join entry (R333). -/
def Join.free : Join :=
  { st := .free, fb := 0, rule := 0, fmt := false, n := 0, left := 0, node := 0, core := 0, tile := 0,
    e := 0, wace := 0, retry := false, serial := 0 }

/-- The accumulate interface after reset. -/
def Acn.reset : Acn := { joins := Vector.replicate 64 Join.free, pots := [], pend := [], opened := 0 }

/-- A core's caches after reset: empty (log 3); floors zero (log 1). -/
def CoreCache.reset : CoreCache :=
  { l1d := [], icache := [], tlb := [], pin := none, floors := Vector.replicate 3 0, ahead := [] }

/-- A core without a task, in the pool; it records generation 1, the reset value of GCUR (R371, R372). -/
def CoreTask.reset : CoreTask :=
  { task := none, tenant := 0, rank := 0, slot := 0, finished := false, preempt := .none, conf := false,
    gen := 1, pool := true, retire := [], ramp := Vector.replicate 4 0 }

/-- A core after reset. -/
def Core.reset : Core :=
  { x := Vector.replicate 64 0, pc := 0, priv := .user, csr := csrReset,
    frame := Vector.replicate 7 0, replies := [], wait := .none, vec := VecUnit.reset,
    tiles := Vector.replicate 256 Tile.free, scratch := [], scratchPoison := [], eng := Engines.reset,
    fab := Fabric.reset, acn := Acn.reset, cache := CoreCache.reset, tk := CoreTask.reset }

/-- The memory system after reset: nothing listed, nothing cached. -/
def MemSys.reset : MemSys :=
  { mem := [], poison := [], host := [], remote := [], chains := [], monitors := [], homes := [], replicas := [],
    repoch := Vector.replicate 64 0, desc := [], retired := [], flushFail := [], gated := [], snoop := [], hdm := [],
    bisnp := [], l2tlb := [], pwc := [], atc := [], atsWait := [], priWait := [], atsSeek := [],
    atsFail := [], snoops := [],
    shoots := [], corrected := [], lost := [] }

/-- A port after reset: down, no lane live (R408). -/
def Port.reset : Port := { st := 0, lanes := 0, replays := 0, fails := 0, retrains := [] }

/-- The machine right after reset: every field at the value the spec states, or the value the assumption
log names. -/
def State.reset : State :=
  { cores := Vector.replicate 256 Core.reset, cur := 0, agenda := [], tick := 0, ms := MemSys.reset,
    mmio := [],
    dealer := { tasks := [], next := 0, clock := 0, saved := [], paused := false, drained := [],
                quiesced := [], table := Vector.replicate 256 0, rounds := [0, 1, 2, 3], noted := [] },
    net := [],
    sec := { keys := [], slots := [], tdi := Vector.replicate 64 .unlocked,
             session := Vector.replicate 64 false },
    links := { ports := Vector.replicate 24 Port.reset, refuse := [], silent := [] },
    root := { msix := [], unmasked := [], pba := [], vf := Vector.replicate 64 false, resets := [],
              thermal := none, reloads := 0, configs := 0, mctp := 0, updates := 0 },
    step := .b0 }

end Sys2Proof.Machine
end

