-- ==== Sys2Proof/Machine/Base.lean ====
section
/-! DEFINITION. The plainest operations on the state: bit fields, cores, scalar registers and CSRs, pending
replies, and the monad in which an instruction or event of one core is written. -/

namespace Sys2Proof.Machine

/-! ### Bit fields -/

/-- The field [lo + len - 1 : lo] of a number. -/
def fld (w lo len : Nat) : Nat := w / 2 ^ lo % 2 ^ len

/-- The number with the field [lo + len - 1 : lo] replaced. -/
def putFld (w lo len v : Nat) : Nat :=
  w - fld w lo len * 2 ^ lo + v % 2 ^ len * 2 ^ lo

/-- The field [lo + len - 1 : lo] of a word. -/
def bits (w : Word) (lo len : Nat) : Nat := (w.extractLsb' lo len).toNat

/-- The word with the field [lo + len - 1 : lo] replaced. -/
def setBits (w : Word) (lo len : Nat) (v : Nat) : Word :=
  let m : Word := ((BitVec.allOnes len).setWidth 64) <<< lo
  (w &&& ~~~m) ||| ((BitVec.ofNat 64 v <<< lo) &&& m)

/-- A natural number as a word, modulo 2^64. -/
abbrev toWord (n : Nat) : Word := BitVec.ofNat 64 n

/-- One bit as a word. -/
def bitWord (b : Bool) : Word := if b then 1 else 0

/-- The value of the low n bits of a number, as a signed integer. -/
def signed (n v : Nat) : Int :=
  let u := v % 2 ^ n
  if 2 * u < 2 ^ n then (u : Int) else (u : Int) - 2 ^ n

/-- An integer modulo 2^n. -/
def wrap (n : Nat) (v : Int) : Nat := (v % (2 ^ n : Int)).toNat

/-- The address that a 56-bit address field holds, in canonical form (R17; log 7). -/
def canon56 (a : Word) : Word := (a.extractLsb' 0 56).signExtend 64

/-- The address with bits [2:0] cleared, as the address fields [55:3] hold it (R223, R350). -/
def addrField (a : Word) : Word := a &&& 0x00FF_FFFF_FFFF_FFF8

/-- TDTROOT as it is stored: reserved bits zero, a LOG2N above 16 as 16 (R101). -/
def tdtField (v : Word) : Word :=
  let w := v &&& 0xFF0F_FFFF_FFFF_F01F
  if 16 < bits w 0 5 then setBits w 0 5 16 else w

/-! ### Cores -/

/-- A core of the package. -/
def State.core (s : State) (c : CoreId) : Core := s.cores[c.toNat]

/-- The core whose thread moves. -/
def State.self (s : State) : Core := s.core s.cur

/-- One core replaced. -/
def State.setCore (s : State) (c : CoreId) (k : Core) : State :=
  { s with cores := s.cores.set c.toNat k }

/-- One core changed. -/
def State.modCore (s : State) (c : CoreId) (f : Core → Core) : State := s.setCore c (f (s.core c))

/-- The core whose thread moves, changed. -/
def State.modSelf (s : State) (f : Core → Core) : State := s.modCore s.cur f

/-- All core numbers in ascending order (R4). -/
def allCores : List CoreId := (List.range 256).map (BitVec.ofNat 8)

/-- The cluster of a core, ID[7:2] (R4). -/
def clusterOf (c : CoreId) : BitVec 6 := c.extractLsb' 2 6

/-- The die of a core, ID[7:6] (R4). -/
def dieOf (c : CoreId) : BitVec 2 := c.extractLsb' 6 2

/-- Scope s of a core includes another core (R145): codes 0 CORE to 5 SYSTEM. -/
def inScope (s : Nat) (a b : CoreId) : Bool :=
  match s with
  | 0 => a == b
  | 1 => a >>> 2 == b >>> 2
  | 2 => a >>> 4 == b >>> 4
  | 3 => a >>> 6 == b >>> 6
  | _ => true

/-- The narrowest scope of R3 that holds both cores (R145). -/
def narrowest (a b : CoreId) : Nat :=
  if a == b then 0 else if inScope 1 a b then 1 else if inScope 2 a b then 2
  else if inScope 3 a b then 3 else 4

/-! ### Scalar registers and CSRs -/

/-- A read of a scalar register: x0 gives 0 (R187). -/
def Core.rd (k : Core) (r : BitVec 6) : Word := if r = 0 then 0 else k.x[r.toNat]

/-- A write of a scalar register: x0 discards it (R187). -/
def Core.wr (k : Core) (r : BitVec 6) (v : Word) : Core :=
  if r = 0 then k else { k with x := k.x.set r.toNat v }

/-- A scalar register is EMPTY while a reply that fills it is on its way (R178). -/
def Core.empty (k : Core) (r : BitVec 6) : Bool :=
  r != 0 && k.replies.any fun p => p.writes.any fun w => w.1 == r

/-- The content of a CSR. -/
def Core.csrAt (k : Core) (n : Nat) : Word := (k.csr[n]?).getD 0

/-- The content of a CSR replaced. -/
def Core.setCsr (k : Core) (n : Nat) (v : Word) : Core := { k with csr := k.csr.setIfInBounds n v }

def Core.vcfg (k : Core) : Word := k.csrAt 0x000
def Core.vrows (k : Core) : Nat := (k.csrAt 0x001).toNat
def Core.vcols (k : Core) : Nat := (k.csrAt 0x002).toNat
def Core.vstart (k : Core) : Nat := (k.csrAt 0x003).toNat
def Core.fflags (k : Core) : Word := k.csrAt 0x008
def Core.frm (k : Core) : BitVec 2 := (k.csrAt 0x009).extractLsb' 0 2
def Core.vfx0 (k : Core) : Word := k.csrAt 0x00A
def Core.vfx1 (k : Core) : Word := k.csrAt 0x00B
def Core.wace (k : Core) : BitVec 16 := (k.csrAt 0x013).extractLsb' 0 16
def Core.tstatus (k : Core) : Word := k.csrAt 0x103
def Core.asid (k : Core) : BitVec 16 := (k.csrAt 0x120).extractLsb' 0 16
def Core.ptroot (k : Core) : Nat := bits (k.csrAt 0x121) 12 40
def Core.tdtroot (k : Core) : Word := k.csrAt 0x122

/-- VCFG.EW (R199). -/
def Core.ew (k : Core) : Nat := bits k.vcfg 0 3
/-- VCFG.SCOPE (R199). -/
def Core.scope (k : Core) : Nat := bits k.vcfg 3 3
/-- VCFG.SPACE (R199). -/
def Core.space (k : Core) : Nat := bits k.vcfg 6 2
/-- VCFG.RM (R199). -/
def Core.rm (k : Core) : BitVec 2 := k.vcfg.extractLsb' 8 2
/-- VCFG.TAILZ (R199). -/
def Core.tailz (k : Core) : Bool := k.vcfg.getLsbD 10
/-- VCFG.SATI (R199). -/
def Core.sati (k : Core) : Bool := k.vcfg.getLsbD 12
/-- VCFG.SATF (R199). -/
def Core.satf (k : Core) : Bool := k.vcfg.getLsbD 13
/-- TSTATUS.TF (R349): the trap frame is live. -/
def Core.tf (k : Core) : Bool := k.tstatus.getLsbD 8
/-- TSTATUS.FPEN (R349). -/
def Core.fpen (k : Core) : BitVec 5 := k.tstatus.extractLsb' 0 5
/-- TSTATUS.PVIS (R349). -/
def Core.pvis (k : Core) : Bool := k.tstatus.getLsbD 15

/-- A FOP runs in the fabric; a frozen one does not (R321, R323). -/
def Fabric.running (f : Fabric) : Bool := f.grid.any fun g => !g.frozen

/-- The function of the tenant whose task a core runs: function t + 1 of tenant t (R21). -/
def Core.func (k : Core) : Nat := k.tk.tenant.toNat + 1

/-! ### The monad of one core's step -/

/-- How a step of a thread ends when it does not complete in sequence. -/
inductive Stop where
  /-- the instruction traps (R352) -/
  | trap (cause : Nat) (tval : Word)
  /-- the instruction waits; it has not been performed and is examined again (R178, R180) -/
  | wait (w : Wait)
  /-- the instruction completes at a next address that is not sequential (R225) -/
  | goto (pc : Word)
  /-- the thread has ended or been stopped; nothing further happens to it -/
  | halt
  deriving DecidableEq, Repr

/-- Steps over the state; a state changed before a stop stays changed. -/
abbrev X := EStateM Stop State

/-- Trap with a cause and a value. -/
def trap {α : Type} (cause : Nat) (tval : Word) : X α := throw (.trap cause tval)

/-- Trap unless a condition holds. -/
def require (b : Bool) (cause : Nat) (tval : Word) : X Unit :=
  if b then pure () else trap cause tval

/-- Wait unless a condition holds. -/
def awaiting (b : Bool) : X Unit := if b then pure () else throw (.wait .resource)

/-- The core whose thread moves. -/
def self : X Core := do return (← get).self

/-- Change the core whose thread moves. -/
def modSelf (f : Core → Core) : X Unit := modify fun s => s.modSelf f

/-- Change the core whose thread moves, when the step traps. -/
def onTrap {α : Type} (f : Core → Core) (m : X α) : X α := fun s =>
  match m s with
  | .error (.trap c v) t => .error (.trap c v) (t.modSelf f)
  | r => r

/-- A free 64-bit value (log 4). -/
def drawWord : X Word := fun s => .ok (Config.freeWord s.tick) { s with tick := s.tick + 1 }

/-- A free register content (log 4). -/
def drawVector : X (BitVec 262144) := fun s => .ok (Config.freeVector s.tick) { s with tick := s.tick + 1 }

/-- A read of a scalar register by an instruction: an EMPTY register holds it (R178). -/
def readX (r : BitVec 6) : X Word := do
  let k ← self
  if k.empty r then throw (.wait .resource) else return k.rd r

/-- A write of a scalar register by an instruction of the control core: an EMPTY one holds it (R178). -/
def writeX (r : BitVec 6) (v : Word) : X Unit := do
  let k ← self
  if k.empty r then throw (.wait .resource) else modSelf (·.wr r v)

/-- A register must not be EMPTY (R178). -/
def freeX (r : BitVec 6) : X Unit := do
  if (← self).empty r then throw (.wait .resource) else pure ()

/-- Reserve a reply slot for the registers an instruction will fill: all 16 slots taken, or one of the
registers EMPTY, holds the instruction (R178). -/
def reserveReply (rs : List (BitVec 6)) : X Unit := do
  let k ← self
  if k.replies.length ≥ 16 || rs.any k.empty then throw (.wait .resource) else pure ()

/-- Send a reply: the registers are EMPTY until REPLY_RETURN delivers it (R178). -/
def reply (ws : List (BitVec 6 × Word)) : X Unit :=
  modSelf fun k => { k with replies := k.replies ++ [⟨ws⟩] }

/-- Or flags into FFLAGS (R55). -/
def Core.orFlags (k : Core) (f : BitVec 7) : Core := k.setCsr 0x008 (k.fflags ||| f.setWidth 64)

/-! ### Completion -/

/-- An instruction at the program counter of this size covers the loop end address e (R225). -/
def Core.covers (k : Core) (size : Nat) (e : Word) : Bool :=
  e == addrField k.pc || (size == 16 && e == addrField (k.pc + 8))

/-- The end checks of the two loops, the inner first, then the next address (R225). -/
def Core.loopEnd (k : Core) (size : Nat) : Core :=
  if k.covers size (k.csrAt 0x035) && k.csrAt 0x033 != 0 then
    if 1 < (k.csrAt 0x033).toNat then
      { k.setCsr 0x033 (k.csrAt 0x033 - 1) with pc := canon56 (k.csrAt 0x034) }
    else
      let k1 := k.setCsr 0x033 0
      if k.covers size (k.csrAt 0x032) && k.csrAt 0x030 != 0 then
        if 1 < (k.csrAt 0x030).toNat then
          { k1.setCsr 0x030 (k.csrAt 0x030 - 1) with pc := canon56 (k.csrAt 0x031) }
        else { k1.setCsr 0x030 0 with pc := k.pc + toWord size }
      else { k1 with pc := k.pc + toWord size }
  else if k.covers size (k.csrAt 0x032) && k.csrAt 0x030 != 0 then
    if 1 < (k.csrAt 0x030).toNat then
      { k.setCsr 0x030 (k.csrAt 0x030 - 1) with pc := canon56 (k.csrAt 0x031) }
    else { k.setCsr 0x030 0 with pc := k.pc + toWord size }
  else { k with pc := k.pc + toWord size }

/-- One instruction more counted (R191), and no wait. -/
def Core.counted (k : Core) : Core :=
  { k.setCsr 0x051 (k.csrAt 0x051 + 1) with wait := .none }

/-- Completion of an instruction in sequence: the end checks, then the next address (R225). -/
def Core.retire (k : Core) (size : Nat) : Core := (k.loopEnd size).counted

/-- Completion at a next address that is not sequential: no end check (R225). -/
def Core.jump (k : Core) (pc : Word) : Core := { k.counted with pc := pc }

end Sys2Proof.Machine
end

