-- ==== Sys2Proof/Machine/Flags.lean ====
section
/-! DEFINITION. The exception flags and the first-exception indices (R55, R62). -/

namespace Sys2Proof.Machine

/-- A set of flags in FFLAGS order: NX 0, UF 1, OF 2, DZ 3, NV 4, IDZ 5, OV 6 (R55). -/
abbrev Flags := BitVec 7

def flagNX : Flags := 0x01
def flagUF : Flags := 0x02
def flagOF : Flags := 0x04
def flagDZ : Flags := 0x08
def flagNV : Flags := 0x10
def flagIDZ : Flags := 0x20
def flagOV : Flags := 0x40

/-- The flags when a condition holds. -/
def flagIf (b : Bool) (f : Flags) : Flags := if b then f else 0

/-- One index field of VFX0 or VFX1 with its V bit, after element i raised the flag (R62). -/
def vfxField (w : Word) (lo v i : Nat) : Word :=
  if w.getLsbD v then setBits w lo 16 (min (bits w lo 16) i)
  else setBits (setBits w lo 16 i) v 1 1

/-- VFX0 after element i raised flags: NV, DZ and OF (R62). -/
def vfx0Record (w : Word) (f : Flags) (i : Nat) : Word :=
  let w := if f.getLsbD 4 then vfxField w 0 48 i else w
  let w := if f.getLsbD 3 then vfxField w 16 49 i else w
  if f.getLsbD 2 then vfxField w 32 50 i else w

/-- VFX1 after element i raised flags: UF and NX (R62). -/
def vfx1Record (w : Word) (f : Flags) (i : Nat) : Word :=
  let w := if f.getLsbD 1 then vfxField w 0 32 i else w
  if f.getLsbD 0 then vfxField w 16 33 i else w

/-- VFX0 with no element named. -/
def vfx0Empty : Word := 0xFFFF_FFFF_FFFF
/-- VFX1 with no element named. -/
def vfx1Empty : Word := 0xFFFF_FFFF

/-- A recording instruction begins with VSTART = 0: no element is named (R62). -/
def Core.vfxClear (k : Core) : Core := (k.setCsr 0x00A vfx0Empty).setCsr 0x00B vfx1Empty

/-- Element i of a recording instruction raised flags (R62). -/
def Core.vfxRecord (k : Core) (f : Flags) (i : Nat) : Core :=
  (k.setCsr 0x00A (vfx0Record k.vfx0 f i)).setCsr 0x00B (vfx1Record k.vfx1 f i)

/-- The flags of a set that FPEN enables to trap (R358). -/
def Core.trapping (k : Core) (f : Flags) : Bool := (f.extractLsb' 0 5 &&& k.fpen) != 0

/-- The trap value of FP_TRAP: the flags, the element and the vector bit (R358). -/
def fpTrapValue (f : Flags) (i : Nat) (vector : Bool) : Word :=
  toWord ((f.extractLsb' 0 5).toNat + i % 2 ^ 16 * 2 ^ 16 + (if vector then 2 ^ 63 else 0))

end Sys2Proof.Machine
end

