-- ==== Sys2Proof/Machine/Fp.lean ====
section
/-! DEFINITION. The floating-point formats and their arithmetic (R51 to R61, R219, R220): every result is
computed exactly, as sign, integer and power of two, and rounded once. -/

namespace Sys2Proof.Machine

/-! ### Formats -/

/-- How the top exponent of a format is used (R51, R57): as IEEE 754 has it; as E4M3 has it, one NaN and no
infinity; or for finite numbers only. -/
inductive FpKind where
  | ieee | e4m3 | finite
  deriving DecidableEq, Repr

/-- A floating-point format (R51, R57). -/
structure FpFmt where
  ebits : Nat
  fbits : Nat
  bias  : Nat
  kind  : FpKind
  deriving DecidableEq, Repr

def fp64 : FpFmt := ⟨11, 52, 1023, .ieee⟩
def fp32 : FpFmt := ⟨8, 23, 127, .ieee⟩
def fp16 : FpFmt := ⟨5, 10, 15, .ieee⟩
def bf16 : FpFmt := ⟨8, 7, 127, .ieee⟩
def fpE4M3 : FpFmt := ⟨4, 3, 7, .e4m3⟩
def fpE5M2 : FpFmt := ⟨5, 2, 15, .ieee⟩
def fpE3M2 : FpFmt := ⟨3, 2, 3, .finite⟩
def fpE2M3 : FpFmt := ⟨2, 3, 1, .finite⟩
def fpE2M1 : FpFmt := ⟨2, 1, 1, .finite⟩

/-- The floating-point format of an element type (R48). -/
def ETfmt : ET → Option FpFmt
  | .f16 => some fp16 | .bf16 => some bf16 | .f32 => some fp32 | .f64 => some fp64
  | .e4m3 => some fpE4M3 | .e5m2 => some fpE5M2 | .e3m2 => some fpE3M2 | .e2m3 => some fpE2M3
  | .e2m1 => some fpE2M1 | _ => none

/-- The format of a scalar form (R196). -/
def FFmtfmt : FFmt → FpFmt
  | .f32 => fp32 | .f64 => fp64 | .f16 => fp16 | .bf16 => bf16

/-- The storage width of an element type in bits (R48). -/
def ETwidth : ET → Nat
  | .i8 | .u8 | .e4m3 | .e5m2 | .e3m2 | .e2m3 | .e8m0 => 8
  | .i16 | .u16 | .f16 | .bf16 | .kc2 => 16
  | .i32 | .u32 | .f32 => 32
  | .i64 | .u64 | .f64 => 64
  | .e2m1 | .i4 => 4
  | .wac => 96

/-- The VCFG.EW code of an element type (R48). -/
def ETew : ET → Nat
  | .i8 | .u8 | .e4m3 | .e5m2 | .e3m2 | .e2m3 | .e8m0 => 1
  | .i16 | .u16 | .f16 | .bf16 | .kc2 => 2
  | .i32 | .u32 | .f32 => 3
  | .i64 | .u64 | .f64 => 4
  | .e2m1 | .i4 => 0
  | .wac => 5

/-- The signed integer types (R48). -/
def ETsigned : ET → Bool
  | .i8 | .i16 | .i32 | .i64 | .i4 => true
  | _ => false

/-- The integer types (R48). -/
def ETint : ET → Bool
  | .i8 | .u8 | .i16 | .u16 | .i32 | .u32 | .i64 | .u64 | .i4 => true
  | _ => false

/-- The four IEEE formats, class FLT of the vector forms (R51, R234). -/
def ETflt : ET → Bool
  | .f16 | .bf16 | .f32 | .f64 => true
  | _ => false

/-- The significant bits of an encoding. -/
def FpFmt.width (f : FpFmt) : Nat := 1 + f.ebits + f.fbits

/-- The largest biased exponent of a finite number. -/
def FpFmt.emaxField (f : FpFmt) : Nat :=
  if f.kind = .ieee then 2 ^ f.ebits - 2 else 2 ^ f.ebits - 1

/-- The significand of the largest finite number, as an integer of fbits + 1 bits. -/
def FpFmt.maxSig (f : FpFmt) : Nat :=
  if f.kind = .e4m3 then 2 ^ (f.fbits + 1) - 2 else 2 ^ (f.fbits + 1) - 1

/-- The exponent of the least significant bit at the largest exponent. -/
def FpFmt.maxQuantum (f : FpFmt) : Int := (f.emaxField : Int) - f.bias - f.fbits

/-! ### Values -/

/-- A decoded operand: a NaN and whether it signals; an infinity; or (-1)^neg × m × 2^e. -/
inductive FVal where
  | nan (sig : Bool)
  | inf (neg : Bool)
  | num (neg : Bool) (m : Nat) (e : Int)
  deriving DecidableEq, Repr

/-- The value of an encoding (R51, R57). -/
def FpFmt.decode (f : FpFmt) (b : Nat) : FVal :=
  let neg := fld b (f.ebits + f.fbits) 1 = 1
  let E := fld b f.fbits f.ebits
  let F := fld b 0 f.fbits
  if f.kind = .ieee && E = 2 ^ f.ebits - 1 then
    if F = 0 then .inf neg else .nan (F < 2 ^ (f.fbits - 1))
  else if f.kind = .e4m3 && E = 2 ^ f.ebits - 1 && F = 2 ^ f.fbits - 1 then .nan false
  else if E = 0 then .num neg F (1 - (f.bias : Int) - f.fbits)
  else .num neg (F + 2 ^ f.fbits) ((E : Int) - f.bias - f.fbits)

/-- An encoding from its fields. -/
def FpFmt.pack (f : FpFmt) (neg : Bool) (E F : Nat) : Nat :=
  (if neg then 2 ^ (f.ebits + f.fbits) else 0) + E * 2 ^ f.fbits + F

/-- The canonical NaN (R52). -/
def FpFmt.nan (f : FpFmt) : Nat :=
  match f.kind with
  | .ieee => f.pack false (2 ^ f.ebits - 1) (2 ^ (f.fbits - 1))
  | .e4m3 => f.pack false (2 ^ f.ebits - 1) (2 ^ f.fbits - 1)
  | .finite => f.pack false f.emaxField (2 ^ f.fbits - 1)

/-- The largest finite magnitude with a sign. -/
def FpFmt.max (f : FpFmt) (neg : Bool) : Nat :=
  f.pack neg f.emaxField (f.maxSig - 2 ^ f.fbits)

/-- An infinity (R51), in the formats that have one. -/
def FpFmt.inf (f : FpFmt) (neg : Bool) : Nat := f.pack neg (2 ^ f.ebits - 1) 0

def FpFmt.zero (f : FpFmt) (neg : Bool) : Nat := f.pack neg 0 0

/-! ### Rounding -/

/-- m / 2^s rounded to an integer by a mode (R53), for s of either sign, and whether that was inexact. -/
def roundShift (rm : BitVec 2) (neg : Bool) (m : Nat) (s : Int) : Nat × Bool :=
  if s ≤ 0 then (m * 2 ^ (-s).toNat, false)
  else
    let n := s.toNat
    if Nat.log2 m + 2 ≤ n && m != 0 then
      -- below a quarter of the unit: only the directed modes leave zero
      (if (rm = 2 && !neg) || (rm = 3 && neg) then 1 else 0, true)
    else
      let q := m / 2 ^ n
      let r := m % 2 ^ n
      let up := match rm with
        | 0 => 2 ^ n < 2 * r || (2 * r == 2 ^ n && q % 2 == 1)
        | 1 => false
        | 2 => !neg && r != 0
        | _ => neg && r != 0
      (if up then q + 1 else q, r != 0)

/-- The result of an overflow (R59): the mode, the sign and SATF decide. -/
def FpFmt.overflow (f : FpFmt) (rm : BitVec 2) (satf neg : Bool) : Nat :=
  if rm = 1 || (rm = 2 && neg) || (rm = 3 && !neg) then f.max neg
  else if f.kind = .ieee && 7 ≤ f.fbits then f.inf neg
  else if satf then f.max neg
  else match f.kind with
    | .ieee => f.inf neg
    | .e4m3 => f.nan
    | .finite => f.max neg

/-- (-1)^neg × m × 2^e rounded once into a format, with its flags (R53, R56, R59). -/
def FpFmt.round (f : FpFmt) (rm : BitVec 2) (satf neg : Bool) (m : Nat) (e : Int) : Nat × Flags :=
  if m = 0 then (f.zero neg, 0)
  else
    let emin : Int := 1 - f.bias
    let top : Int := Nat.log2 m + e
    let qe : Int := (if top < emin then emin else top) - f.fbits
    let r := roundShift rm neg m (qe - e)
    let carry := r.1 = 2 ^ (f.fbits + 1)
    let sig := if carry then 2 ^ f.fbits else r.1
    let qe := if carry then qe + 1 else qe
    if f.maxQuantum < qe || (qe = f.maxQuantum && f.maxSig < sig) then
      (f.overflow rm satf neg, flagOF ||| flagNX)
    else if sig < 2 ^ f.fbits then
      (f.pack neg 0 sig, flagIf r.2 flagNX ||| flagIf (r.2 && sig != 0) flagUF)
    else (f.pack neg (qe + f.bias + f.fbits).toNat (sig - 2 ^ f.fbits), flagIf r.2 flagNX)

/-- A special value delivered into a format (R60). -/
def FpFmt.special (f : FpFmt) (satf : Bool) : FVal → Nat × Flags
  | .nan sig =>
    if f.kind = .finite then (f.max false, flagNV) else (f.nan, flagIf sig flagNV)
  | .inf neg =>
    match f.kind with
    | .ieee => (f.inf neg, 0)
    | .e4m3 => (if satf then f.max neg else f.nan, flagOF)
    | .finite => (f.max neg, flagOF)
  | .num neg _ _ => (f.zero neg, 0)

/-- A value converted into a format (R58 to R60). -/
def FpFmt.convert (f : FpFmt) (rm : BitVec 2) (satf : Bool) : FVal → Nat × Flags
  | .num neg m e => f.round rm satf neg m e
  | v => f.special satf v

/-! ### Arithmetic -/

/-- A NaN operand signals. -/
def FVal.signals : FVal → Bool
  | .nan s => s
  | _ => false

def FVal.isNaN : FVal → Bool
  | .nan _ => true
  | _ => false

def FVal.isNeg : FVal → Bool
  | .num n _ _ => n
  | .inf n => n
  | .nan _ => false

def FVal.isZero : FVal → Bool
  | .num _ m _ => m == 0
  | _ => false

/-- The opposite of a value; a NaN stays as it is. -/
def FVal.negate : FVal → FVal
  | .num n m e => .num (!n) m e
  | .inf n => .inf (!n)
  | v => v

/-- The signed integer of a finite value at an exponent not above its own. -/
def scaledInt (neg : Bool) (m : Nat) (e emin : Int) : Int :=
  let v : Int := m * 2 ^ (e - emin).toNat
  if neg then -v else v

/-- The exact sum of finite values; an exact zero is -0 when both are negative, or under RDN when the signs
differ (IEEE 754, by R51). -/
def addNum (rm : BitVec 2) (na : Bool) (ma : Nat) (ea : Int) (nb : Bool) (mb : Nat) (eb : Int) : FVal :=
  if ma = 0 && mb = 0 then .num (if na == nb then na else rm == 3) 0 0
  else if ma = 0 then .num nb mb eb
  else if mb = 0 then .num na ma ea
  else
    let e := min ea eb
    let v := scaledInt na ma ea e + scaledInt nb mb eb e
    if v = 0 then .num (rm == 3) 0 0 else .num (v < 0) v.natAbs e

/-- The exact sum of two values and the flags of the operation itself (R52, R219). -/
def addVal (rm : BitVec 2) (a b : FVal) : FVal × Flags :=
  match a, b with
  | .num na ma ea, .num nb mb eb => (addNum rm na ma ea nb mb eb, 0)
  | .inf na, .inf nb => if na = nb then (.inf na, 0) else (.nan false, flagNV)
  | .inf na, .num .. => (.inf na, 0)
  | .num .., .inf nb => (.inf nb, 0)
  | _, _ => (.nan false, flagIf (a.signals || b.signals) flagNV)

/-- The exact product of two values and the flags of the operation itself. -/
def mulVal (a b : FVal) : FVal × Flags :=
  match a, b with
  | .num na ma ea, .num nb mb eb => (.num (na != nb) (ma * mb) (ea + eb), 0)
  | .inf na, .inf nb => (.inf (na != nb), 0)
  | .inf na, .num nb mb _ => if mb = 0 then (.nan false, flagNV) else (.inf (na != nb), 0)
  | .num na ma _, .inf nb => if ma = 0 then (.nan false, flagNV) else (.inf (na != nb), 0)
  | _, _ => (.nan false, flagIf (a.signals || b.signals) flagNV)

/-- The exact value of a × b + c; ∞ × 0 raises NV even when c is a quiet NaN (R219). -/
def fmaVal (rm : BitVec 2) (a b c : FVal) : FVal × Flags :=
  let p := mulVal a b
  if p.1.isNaN then (.nan false, p.2 ||| flagIf c.signals flagNV)
  else addVal rm p.1 c

/-- A value rounded into a format of R51, with flags already raised. -/
def FpFmt.deliver (f : FpFmt) (rm : BitVec 2) (r : FVal × Flags) : Nat × Flags :=
  match r.1 with
  | .nan _ => (f.nan, r.2)
  | .inf n => (f.inf n, r.2)
  | .num n m e => let q := f.round rm false n m e; (q.1, r.2 ||| q.2)

def FpFmt.add (f : FpFmt) (rm : BitVec 2) (a b : Nat) : Nat × Flags :=
  f.deliver rm (addVal rm (f.decode a) (f.decode b))

def FpFmt.sub (f : FpFmt) (rm : BitVec 2) (a b : Nat) : Nat × Flags :=
  f.deliver rm (addVal rm (f.decode a) (f.decode b).negate)

def FpFmt.mul (f : FpFmt) (rm : BitVec 2) (a b : Nat) : Nat × Flags :=
  f.deliver rm (mulVal (f.decode a) (f.decode b))

/-- a × b + c, or with the product or the addend negated, rounded once (R219, R235). -/
def FpFmt.fma (f : FpFmt) (rm : BitVec 2) (negProd negAdd : Bool) (a b c : Nat) : Nat × Flags :=
  let va := if negProd then (f.decode a).negate else f.decode a
  let vc := if negAdd then (f.decode c).negate else f.decode c
  f.deliver rm (fmaVal rm va (f.decode b) vc)

/-- A quotient of integers with at least n significant bits, its last bit sticky: (q, e) with
ma / mb = q × 2^e up to the sticky bit. -/
def stickyDiv (n ma mb : Nat) : Nat × Int :=
  let k := n + Nat.log2 mb + 2 - Nat.log2 ma
  let num := ma * 2 ^ k
  (2 * (num / mb) + (if num % mb = 0 then 0 else 1), -(k : Int) - 1)

/-- a / b rounded once (R219). -/
def FpFmt.div (f : FpFmt) (rm : BitVec 2) (a b : Nat) : Nat × Flags :=
  match f.decode a, f.decode b with
  | .num na ma ea, .num nb mb eb =>
    if mb = 0 then
      if ma = 0 then (f.nan, flagNV) else (f.inf (na != nb), flagDZ)
    else if ma = 0 then (f.zero (na != nb), 0)
    else
      let q := stickyDiv (f.fbits + 3) ma mb
      f.round rm false (na != nb) q.1 (q.2 + ea - eb)
  | .inf _, .inf _ => (f.nan, flagNV)
  | .inf na, .num nb _ _ => (f.inf (na != nb), 0)
  | .num na _ _, .inf nb => (f.zero (na != nb), 0)
  | x, y => (f.nan, flagIf (x.signals || y.signals) flagNV)

/-- The integer square root by its bits from the highest: fuel bits, r the root so far. -/
def isqrtGo (n : Nat) : Nat → Nat → Nat
  | 0, r => r
  | b + 1, r =>
    let t := r + 2 ^ b
    isqrtGo n b (if t * t ≤ n then t else r)

/-- The floor of the square root. -/
def isqrt (n : Nat) : Nat := isqrtGo n (Nat.log2 n / 2 + 1) 0

/-- A square root with its last bit sticky: (q, e) with √(m × 2^e) = q × 2^e'. -/
def stickySqrt (bitsWanted m : Nat) (e : Int) : Nat × Int :=
  let k0 := 2 * bitsWanted + 2
  let k := if (e - k0) % 2 = 0 then k0 else k0 + 1
  let n := m * 2 ^ k
  let r := isqrt n
  (2 * r + (if r * r = n then 0 else 1), (e - k) / 2 - 1)

/-- √a rounded once (R219). -/
def FpFmt.sqrt (f : FpFmt) (rm : BitVec 2) (a : Nat) : Nat × Flags :=
  match f.decode a with
  | .num neg m e =>
    if m = 0 then (f.zero neg, 0)
    else if neg then (f.nan, flagNV)
    else let q := stickySqrt (f.fbits + 3) m e; f.round rm false false q.1 q.2
  | .inf neg => if neg then (f.nan, flagNV) else (f.inf false, 0)
  | .nan s => (f.nan, flagIf s flagNV)

/-- The order of two values that are not NaN; -0 equals +0 (R220). -/
def FVal.cmp (a b : FVal) : Ordering :=
  match a, b with
  | .inf na, .inf nb => compare (!na) (!nb)
  | .inf na, _ => if na then .lt else .gt
  | _, .inf nb => if nb then .gt else .lt
  | .num na ma ea, .num nb mb eb =>
    let e := min ea eb
    compare (scaledInt na ma ea e) (scaledInt nb mb eb e)
  | _, _ => .eq

/-- The smaller of two values: true when the first is taken; -0 lies below +0 (R219). -/
def FVal.takeMin (a b : FVal) : Bool :=
  match a.cmp b with
  | .lt => true
  | .gt => false
  | .eq => a.isNeg || !b.isNeg

/-- FMIN and FMAX (R219): a quiet NaN gives the other operand, two NaNs the canonical NaN. -/
def FpFmt.minmax (f : FpFmt) (wantMax : Bool) (a b : Nat) : Nat × Flags :=
  let x := f.decode a
  let y := f.decode b
  let fl := flagIf (x.signals || y.signals) flagNV
  if x.isNaN && y.isNaN then (f.nan, fl)
  else if x.isNaN then (b, fl)
  else if y.isNaN then (a, fl)
  else
    let first := if wantMax then y.takeMin x else x.takeMin y
    (if first then a else b, fl)

/-- A comparison for the conditions equal, less and less or equal: false when either is a NaN (R220). -/
def FpFmt.compare (f : FpFmt) (a b : Nat) : Option Ordering :=
  let x := f.decode a
  let y := f.decode b
  if x.isNaN || y.isNaN then none else some (x.cmp y)

/-- The ten-bit class of R220. -/
def FpFmt.class (f : FpFmt) (a : Nat) : Nat :=
  match f.decode a with
  | .inf neg => if neg then 1 else 0x80
  | .nan sig => if sig then 0x100 else 0x200
  | .num neg m _ =>
    if m = 0 then (if neg then 0x08 else 0x10)
    else if m < 2 ^ f.fbits then (if neg then 0x04 else 0x20)
    else (if neg then 0x02 else 0x40)

/-! ### Conversions -/

/-- The bounds of an integer type (R50). -/
def intMin (t : ET) : Int := if ETsigned t then -2 ^ (ETwidth t - 1) else 0
def intMax (t : ET) : Int := if ETsigned t then 2 ^ (ETwidth t - 1) - 1 else 2 ^ ETwidth t - 1

/-- The value of an integer element. -/
def intVal (t : ET) (b : Nat) : Int :=
  if ETsigned t then signed (ETwidth t) b else (b % 2 ^ ETwidth t : Nat)

/-- A floating-point value into an integer type: the mode rounds, out of range clamps with NV, a NaN gives 0
with NV (R61). -/
def toInt (t : ET) (rm : BitVec 2) : FVal → Nat × Flags
  | .nan _ => (0, flagNV)
  | .inf neg => (wrap (ETwidth t) (if neg then intMin t else intMax t), flagNV)
  | .num neg m e =>
    let r := roundShift rm neg m (-e)
    let v : Int := if neg then -(r.1 : Int) else r.1
    if v < intMin t then (wrap (ETwidth t) (intMin t), flagNV)
    else if intMax t < v then (wrap (ETwidth t) (intMax t), flagNV)
    else (wrap (ETwidth t) v, flagIf r.2 flagNX)

/-- The value of an element of a format or an integer type. -/
def elemVal (t : ET) (b : Nat) : FVal :=
  match ETfmt t with
  | some f => f.decode b
  | none => let v := intVal t b; .num (v < 0) v.natAbs 0

/-- One conversion between the types 0x00 to 0x11 of R48, exact or rounded once (R58 to R61). A conversion of a
floating-point format into itself only makes a NaN canonical (R221). -/
def convertElem (dst src : ET) (rm : BitVec 2) (satf sati : Bool) (b : Nat) : Nat × Flags :=
  match ETfmt dst, ETfmt src with
  | some f, some g => f.convert rm satf (g.decode b)
  | some f, none => f.convert rm satf (elemVal src b)
  | none, some g => toInt dst rm (g.decode b)
  | none, none =>
    let v := intVal src b
    if sati then
      (wrap (ETwidth dst) (if v < intMin dst then intMin dst
        else if intMax dst < v then intMax dst else v), 0)
    else (wrap (ETwidth dst) v, 0)

/-- A conversion of value × 2^k (R249): into an integer it follows the floating-point rule, whatever the source
(R61). -/
def convertScaled (dst src : ET) (rm : BitVec 2) (satf : Bool) (k : Int) (b : Nat) : Nat × Flags :=
  let v := match elemVal src b with
    | .num neg m e => .num neg m (e + k)
    | v => v
  match ETfmt dst with
  | some f => f.convert rm satf v
  | none => toInt dst rm v

/-! ### WAC96 -/

/-- The bounds of a wide accumulator (R66). -/
def wacMax : Int := 2 ^ 95 - 1
def wacMin : Int := -2 ^ 95

/-- The signed weight exponent of WACE (R66). -/
def wacExp (w : BitVec 16) : Int := w.toInt

/-- A saturated sum or value of a wide accumulator: OV when it saturates (R67). -/
def wacSat (q : Int) : Int × Flags :=
  if wacMax < q then (wacMax, flagOV) else if q < wacMin then (wacMin, flagOV) else (q, 0)

/-- ToWac of a value at weight exponent w, RNE (R67). -/
def toWac (w : Int) : FVal → Int × Flags
  | .nan _ => (0, flagNV)
  | .inf neg => (if neg then wacMin else wacMax, flagOV)
  | .num neg m e =>
    let r := roundShift 0 neg m (w - e)
    let q : Int := if neg then -(r.1 : Int) else r.1
    let s := wacSat q
    if s.2 = 0 then (q, flagIf r.2 flagNX) else s

/-- FromWac of an accumulator at weight exponent w into a format, RNE; zero gives +0 (R67). -/
def fromWac (w : Int) (f : FpFmt) (q : Int) : Nat × Flags := f.round 0 false (q < 0) q.natAbs w

/-! ### Block scales -/

/-- A value × 2^(X - 127), or a NaN for the scale 0xFF (R63). -/
def scaleVal (x : Nat) : FVal → FVal
  | .num neg m e => if x = 0xFF then .nan false else .num neg m (e + x - 127)
  | v => if x = 0xFF then .nan false else v

/-- The exponent of the largest power of two of an element format (R65). -/
def scaleEmax : ET → Int
  | .e4m3 => 8 | .e5m2 => 15 | .e3m2 => 4 | .e2m3 => 2 | .e2m1 => 2 | _ => 0

/-- The exponent of the leading bit of the largest magnitude of values; infinities count as the largest
finite FP32 (R65). -/
def maxLog : List FVal → Option Int
  | [] => none
  | v :: vs =>
    let r := maxLog vs
    let one : Option Int := match v with
      | .num _ m e => if m = 0 then none else some (Nat.log2 m + e)
      | .inf _ => some 127
      | .nan _ => none
    match one, r with
    | some a, some b => some (max a b)
    | some a, none => some a
    | none, b => b

/-- The scale rule (R65). -/
def scaleRule (t : ET) (vs : List FVal) : Nat :=
  if vs.any FVal.isNaN then 0xFF
  else match maxLog vs with
    | none => 0
    | some l => (max 0 (min 254 (l - scaleEmax t + 127))).toNat

/-! ### The codebook -/

/-- The eight weights of a KC2 index, in quarters and with their signs (R68), a zero one +0 (DESIGN CHOICE, log 68); row is
CB[b] in quarters. -/
def kc2Weight (row idx j : Nat) : Bool × Nat :=
  let s := fun i => fld idx (i + 1) 1
  let sgn := if j = 7 then (s 0 + s 1 + s 2 + s 3 + s 4 + s 5 + s 6) % 2 else s j
  let mag : Int := fld row (4 * j) 4
  let v : Int := (if sgn = 1 then -mag else mag) + fld idx 0 1
  (v < 0, v.natAbs)

/-- One decoded weight as a value (R68): quarters. -/
def kc2Val (row idx j : Nat) : FVal := let w := kc2Weight row idx j; .num w.1 w.2 (-2)

end Sys2Proof.Machine
end

