-- ==== Sys2Proof/Machine/Mem.lean ====
section
/-! DEFINITION. Reading and writing memories in canonical form, little-endian (R49, R185). -/

namespace Sys2Proof.Machine

/-- One byte of a memory. -/
def Mem.get : Mem → Nat → Byte
  | [], _ => Mem.blank
  | c :: rest, a => if c.1 = a then c.2 else Mem.get rest a

/-- One byte of a memory listed at its place. -/
def Mem.insert : Mem → Nat → Byte → Mem
  | [], a, v => [(a, v)]
  | c :: rest, a, v =>
    if a < c.1 then (a, v) :: c :: rest
    else if a = c.1 then (a, v) :: rest
    else c :: Mem.insert rest a v

/-- One byte of a memory written; a blank byte is not listed. -/
def Mem.put (m : Mem) (a : Nat) (v : Byte) : Mem :=
  if v = Mem.blank then m.filter fun c => c.1 != a else m.insert a v

/-- n bytes from address a, the lowest address least significant. -/
def Mem.read (m : Mem) (a : Nat) : Nat → Nat
  | 0 => 0
  | n + 1 => (m.get a).toNat + 256 * Mem.read m (a + 1) n

/-- n bytes written from address a. -/
def Mem.write (m : Mem) (a : Nat) : Nat → Nat → Mem
  | 0, _ => m
  | n + 1, v => Mem.write (m.put a (BitVec.ofNat 8 v)) (a + 1) n (v / 256)

/-- The n bytes of a number that a byte mask selects, written from address a (bit i of the mask: byte i). -/
def Mem.writeMasked (m : Mem) (a : Nat) : Nat → Nat → Nat → Mem
  | 0, _, _ => m
  | n + 1, mask, v =>
    Mem.writeMasked (if mask % 2 = 1 then m.put a (BitVec.ofNat 8 v) else m) (a + 1) n (mask / 2) (v / 256)

end Sys2Proof.Machine
end

