-- ==== Sys2Proof/Machine/Cache.lean ====
section
/-! DEFINITION. The memory system below translation: memory ports and their scatter-add chains, home lines of
address mode, recalls, L1 data caches, replicas, monitors, acquires and releases (R99, R100, R113 to R118, R121 to
R129, R135, R137, R147). A byte outside the scratchpads has one address here: a local device address below 2^42, an
address of another node with its node field, or 2^52 plus a host address. -/

namespace Sys2Proof.Machine

/-- Where host memory begins among the addresses of this file. -/
def hostBase : Nat := 2 ^ 52

/-- The end of device memory (R21). -/
def deviceEnd : Nat := 0x0C0_0000_0000

/-! ### Ports -/

/-- The port and the address at the port of a device address (R121). -/
def portOf (pa : Nat) : Nat × Nat :=
  let g := pa / 2048
  let q := g / 48
  let x := (fld q 0 6 ^^^ fld q 6 6 ^^^ fld q 12 6 ^^^ fld q 18 5) % 48
  ((g % 48 + x) % 48, q * 2048 + pa % 2048)

/-- The address-mode line number of an address of this file. -/
def lineOf (a : Nat) : Nat := a / 256

/-- The memory an address lies in, read (R20). -/
def MemSys.rd (ms : MemSys) (a n : Nat) : Nat :=
  if hostBase ≤ a then ms.host.read (a - hostBase) n
  else if a < 2 ^ 42 then ms.mem.read a n
  else ms.remote.read a n

/-- The bytes that a mask selects written to the memory an address lies in. -/
def MemSys.wr (ms : MemSys) (a n mask v : Nat) : MemSys :=
  if hostBase ≤ a then { ms with host := ms.host.writeMasked (a - hostBase) n mask v }
  else if a < 2 ^ 42 then { ms with mem := ms.mem.writeMasked a n mask v }
  else { ms with remote := ms.remote.writeMasked a n mask v }

/-- A device agent writes [a, a + n) at its home (R400): the device lines there that the host caches are to be given up first. They
go to the lines asked for, and the step that has written them is undone (State.held). -/
def MemSys.snoopOut (ms : MemSys) (a n : Nat) : MemSys :=
  let out := ms.hdm.filter fun l => lineOf a ≤ l && l ≤ lineOf (a + n - 1)
  if out.isEmpty then ms
  else { ms with hdm := ms.hdm.filter fun l => !out.contains l, bisnp := (out ++ ms.bisnp).dedup }

/-- A mask of n bytes. -/
def fullMask (n : Nat) : Nat := 2 ^ n - 1

/-- One of the n bytes from a lies in a poisoned segment (R137). -/
def MemSys.poisoned (ms : MemSys) (a n : Nat) : Bool :=
  ms.poison.any fun g => a / 64 ≤ g && g ≤ (a + n - 1) / 64

/-- The segments that lie wholly in [a, a + n) lose their poison (R137). -/
def MemSys.cleanse (ms : MemSys) (a n : Nat) : MemSys :=
  { ms with poison := ms.poison.filter fun g => !(a ≤ g * 64 && g * 64 + 64 ≤ a + n) }

/-- The monitors of the words in [a, a + n) fire (R135). -/
def MemSys.fire (ms : MemSys) (a n : Nat) : MemSys :=
  { ms with monitors := ms.monitors.map fun m =>
      if a / 8 ≤ m.word && m.word ≤ (a + n - 1) / 8 then { m with fired := true } else m }

/-- One addend applied at its port (R128, R129): a poisoned word discards it, which is logged (R137). -/
def MemSys.addendDone (ms : MemSys) (d : Addend) : MemSys :=
  let n := ETwidth d.et / 8
  if ms.poisoned d.pa n then { ms with lost := ms.lost ++ [(12, d.tenant, d.pa)] }
  else
    let old := ms.rd d.pa n
    let new := match ETfmt d.et with
      | some f => (f.add d.rm old d.value).1
      | none => (old + d.value) % 2 ^ (8 * n)
    ((ms.wr d.pa n (fullMask n) new).fire d.pa n).snoopOut d.pa n

/-- The pass of the chains of the words in [a, a + n) (R128). -/
def MemSys.settle (ms : MemSys) (a n : Nat) : MemSys :=
  let due := fun (c : Chain) => a / 8 ≤ c.word && c.word ≤ (a + n - 1) / 8
  (ms.chains.filter due).foldl (fun m c => c.addends.foldl MemSys.addendDone m)
    { ms with chains := ms.chains.filter fun c => !due c }

/-- The pass of every chain. -/
def MemSys.settleAll (ms : MemSys) : MemSys :=
  ms.chains.foldl (fun m c => c.addends.foldl MemSys.addendDone m) { ms with chains := [] }

/-- An addend joins the chain of its word; a full chain, or a full table of its port, passes first (R128). -/
def MemSys.scatterAdd (ms : MemSys) (d : Addend) : MemSys :=
  let w := d.pa / 8
  match ms.chains.find? (·.word == w) with
  | some c =>
    if c.addends.length < 32 then
      { ms with chains := ms.chains.map fun e =>
          if e.word == w then { e with addends := e.addends ++ [d] } else e }
    else
      let m := ms.settle d.pa 1
      { m with chains := m.chains ++ [⟨w, [d]⟩] }
  | none =>
    let same := ms.chains.filter fun e => (portOf (e.word * 8)).1 == (portOf d.pa).1
    match same with
    | e :: _ =>
      let m := if same.length < 64 then ms else ms.settle (e.word * 8) 1
      { m with chains := m.chains ++ [⟨w, [d]⟩] }
    | [] => { ms with chains := ms.chains ++ [⟨w, [d]⟩] }

/-- A write at the port or the memory itself, its chains passed first. -/
def MemSys.portWrite (ms : MemSys) (a n v : Nat) : MemSys :=
  ((((ms.settle a n).wr a n (fullMask n) v).cleanse a n).fire a n).snoopOut a n

/-! ### Home lines -/

/-- The fold of the frame number (R100). -/
def homeFold (pa : Nat) : Nat :=
  (List.range 7).foldl (fun f j => f ^^^ fld (pa / 4096 % 2 ^ 40) (6 * j) 6) 0

/-- The home bank of an address-mode line: its level and index (R100). -/
def homeBank (pa hl : Nat) : Nat × Nat :=
  match hl with
  | 0 => (0, homeFold pa)
  | 1 => (1, homeFold pa % 16)
  | 2 => (2, homeFold pa % 4)
  | _ => (3, 0)

/-- A bank is the bank of a gated cluster (R118). -/
def MemSys.isGated (ms : MemSys) (bank : Nat × Nat) : Bool :=
  bank.1 == 0 && ms.gated.any fun c => c.toNat == bank.2

/-- n bytes of a line from an offset. -/
def lineRead (d : BitVec 2048) (off n : Nat) : Nat := fld d.toNat (8 * off) (8 * n)

/-- n bytes of a line replaced. -/
def lineWrite (d : BitVec 2048) (off n v : Nat) : BitVec 2048 :=
  BitVec.ofNat 2048 (putFld d.toNat (8 * off) (8 * n) v)

/-- A byte mask of n bytes at an offset of a line. -/
def lineMask (off n : Nat) : BitVec 256 := BitVec.ofNat 256 (fullMask n * 2 ^ off)

/-- The home line of a key. -/
def MemSys.home (ms : MemSys) (key : LineKey) : Option HomeLine := ms.homes.find? fun h => h.key == key

/-- The address-mode home line that holds an address, whatever its tenant tag. -/
def MemSys.heldAt (ms : MemSys) (a : Nat) : Option HomeLine :=
  ms.homes.find? fun h => match h.key with
    | .addr _ l => l == lineOf a
    | _ => false

/-- The address-mode home line that a request at an address hits (R99): one in a tenant's name only a line with no tenant
tag or its own; an outside agent's any line that holds the address (R166). -/
def MemSys.homeAt (ms : MemSys) (a : Nat) (t : Option (BitVec 6)) : Option HomeLine :=
  ms.homes.find? fun h => match h.key with
    | .addr tag l => l == lineOf a && (tag.isNone || t.isNone || tag == t)
    | _ => false

/-- A home line replaced or added, the most recently used of all. -/
def MemSys.putHome (ms : MemSys) (h : HomeLine) : MemSys :=
  { ms with homes := h :: ms.homes.filter fun g => g.key != h.key }

/-- A home line dropped; a host line leaves the snoop filter unless an L1 data cache may hold it, and is no longer dirty
there (R116). -/
def MemSys.dropHome (ms : MemSys) (key : LineKey) : MemSys :=
  { ms with
    homes := ms.homes.filter fun g => g.key != key
    snoop := match key with
      | .addr _ l => (ms.snoop.filter fun e => e.line != l || e.presence != 0).map fun e =>
          if e.line == l then { e with dirty := false } else e
      | _ => ms.snoop }

/-! ### Bank organisation (R109) -/

/-- The words of w bits of a line, count of them. -/
def lineWords (d : BitVec 2048) (w count : Nat) : List Nat := (List.range count).map fun j => fld d.toNat (w * j) w

/-- A line of words of w bits is a base and, for each word, a signed delta of b bits from the base or from 0 (R109): some
word lies lowest among those that are no delta from 0. -/
def deltaLine (d : BitVec 2048) (w b : Nat) : Bool :=
  let far := (lineWords d w (2048 / w)).filter fun x => 2 ^ b ≤ (x + 2 ^ (b - 1)) % 2 ^ w
  far.isEmpty || far.any fun x => far.all fun y => (y + 2 ^ w - x) % 2 ^ w < 2 ^ b

/-- A line compresses to 128 bytes or fewer: by Z, B8D2 or B4D1 (R109). -/
def halfSize (d : BitVec 2048) : Bool := d == 0 || deltaLine d 64 16 || deltaLine d 32 8

/-- The sets of a bank of a level: 16, 32, 64 or 128 MiB in sets of 16 data entries (R3, R109). -/
def bankSets : Nat → Nat
  | 0 => 4096
  | 1 => 8192
  | 2 => 16384
  | _ => 32768

/-- Data entries of a set; its 32 tags are two for each entry, as many as half-size lines fit (R109). -/
def setEntries : Nat := 16

/-- The set of a bank that a line belongs to: by its line number or tile number (DESIGN CHOICE, log 67). -/
def lineSet (key : LineKey) (bank : Nat × Nat) : Nat :=
  (match key with
    | .addr _ l => l
    | .tensor _ _ _ _ n => n) % bankSets bank.1

/-- The lines of a set of a bank, home lines and replicas, as (data entry, half-size). -/
def MemSys.inSet (ms : MemSys) (bank : Nat × Nat) (set : Nat) : List (Nat × Bool) :=
  ((ms.homes.filter fun h => h.bank == bank && lineSet h.key bank == set).map fun h => (h.slot, halfSize h.data)) ++
    ((ms.replicas.filter fun r => bank == (0, r.cluster.toNat) && lineSet r.key bank == set).map fun r =>
      (r.slot, halfSize r.data))

/-- A data entry that takes a line of a set: beside another half-size line where the line is half-size, else a free one
(R109). -/
def MemSys.freeSlot (ms : MemSys) (bank : Nat × Nat) (set : Nat) (half : Bool) : Option Nat :=
  let ls := ms.inSet bank set
  let beside := if half then (List.range setEntries).find? fun e => match ls.filter (·.1 == e) with
      | [l] => l.2
      | _ => false
    else none
  beside.or ((List.range setEntries).find? fun e => !(ls.any (·.1 == e)))

/-- A home line shares its data entry with another line. -/
def MemSys.paired (ms : MemSys) (h : HomeLine) : Bool :=
  1 < ((ms.inSet h.bank (lineSet h.key h.bank)).filter (·.1 == h.slot)).length

/-- New bytes make a paired line incompressible: it must first move to a free entry (R109). -/
def MemSys.mustMove (ms : MemSys) (h : HomeLine) (data : BitVec 2048) : Bool :=
  halfSize h.data && !halfSize data && ms.paired h

/-- The line belongs to a retired generation or a reset tenant (R111, R119). -/
def MemSys.isRetired (ms : MemSys) (key : LineKey) : Bool :=
  match key with
  | .tensor t a i g _ => ms.retired.contains (t, a, i, g)
  | .addr _ _ => false

/-- What a fill can take the place of. -/
inductive Victim where
  | home (key : LineKey)
  | replica (cl : BitVec 6) (key : LineKey)
  deriving DecidableEq, Repr

/-- The victim of a fill in a full set (R110), other than one line: a retired line, the least recently used replica, clean
line, dirty line; no dirty line for a prefetch. -/
def MemSys.victim (ms : MemSys) (bank : Nat × Nat) (set : Nat) (spare : LineKey) (prefetch : Bool) : Option Victim :=
  let hs := (ms.homes.filter fun h => h.bank == bank && lineSet h.key bank == set && h.key != spare).reverse
  let rs := (ms.replicas.filter fun r => bank == (0, r.cluster.toNat) && lineSet r.key bank == set && r.key != spare).reverse
  let home := fun (p : HomeLine → Bool) => (hs.find? p).map fun h => Victim.home h.key
  let rep := fun (p : Replica → Bool) => (rs.find? p).map fun r => Victim.replica r.cluster r.key
  (home fun h => ms.isRetired h.key).or ((rep fun r => ms.isRetired r.key).or ((rep fun _ => true).or
    ((home fun h => h.dirty == 0).or (if prefetch then none else home fun _ => true))))

/-! ### Write-backs and recalls -/

/-- The 64-byte segments of memory that a run of n bytes at offset off of a line, lying at address a, covers with dirty bytes
alone. -/
def HomeLine.wholeSegments (h : HomeLine) (off n a : Nat) : List Nat :=
  ((List.range 5).map fun j => a / 64 * 64 + 64 * j).filter fun lo =>
    a ≤ lo && lo + 64 ≤ a + n && fld h.dirty.toNat (off + (lo - a)) 64 == fullMask 64

/-- The bytes of a run written to memory under the line's dirty mask (R123); a segment written whole loses its
poison (R137). -/
def MemSys.writeRun (ms : MemSys) (h : HomeLine) (off n a : Nat) : MemSys :=
  let mask := fld h.dirty.toNat off n
  if mask = 0 then ms
  else
    let m := (ms.settle a n).wr a n mask (lineRead h.data off n)
    let m := (h.wholeSegments off n a).foldl (fun m lo => m.cleanse lo 64) m
    (List.range ((n + 7) / 8)).foldl (fun m j =>
      if fld mask (8 * j) 8 = 0 then m else m.fire (a + 8 * j) 8) m

/-- A line that has been written back, its runs at their addresses: clean, and without poison in the segments written whole
(R137). -/
def HomeLine.cleaned (h : HomeLine) (at_ : List ((Nat × Nat × Nat) × Nat)) : HomeLine :=
  let whole := at_.foldl (fun (m : BitVec 256) p =>
    (h.wholeSegments p.1.1 p.1.2.1 p.2).foldl (fun m lo => m ||| lineMask (p.1.1 + (lo - p.2)) 64) m) 0
  { h with dirty := 0, poison := h.poison &&& ~~~whole }

/-- The dirty mark of a host line removed. -/
def MemSys.markClean (ms : MemSys) (line : Nat) : MemSys :=
  { ms with snoop := ms.snoop.map fun e => if e.line == line then { e with dirty := false } else e }

/-- An address-mode home line written back and clean. -/
def MemSys.writeBack (ms : MemSys) (h : HomeLine) : MemSys :=
  let ms := (h.runs.foldl (fun m r => m.writeRun h r.1 r.2.1 r.2.2) ms).putHome
    (h.cleaned (h.runs.map fun r => (r, r.2.2)))
  match h.key with
  | .addr _ l => ms.markClean l
  | _ => ms

/-- Before an operation at the memory of [a, a + n), address-mode lines there are written back and dropped
(R126). -/
def MemSys.recall (ms : MemSys) (a n : Nat) : MemSys :=
  let here := ms.homes.filter fun h => match h.key with
    | .addr _ l => lineOf a ≤ l && l ≤ lineOf (a + n - 1)
    | _ => false
  (here.foldl (fun m h => (m.writeBack h).dropHome h.key) ms).settle a n

/-- A read at the home of an address by hardware (R156), in a tenant's name or an outside agent's: the value, and whether a
byte of it is poisoned. A line there under a tag that the request does not match is recalled (R99). -/
def MemSys.homeRead (ms : MemSys) (a n : Nat) (t : Option (BitVec 6) := none) : MemSys × Nat × Bool :=
  match ms.homeAt a t with
  | some h =>
    let off := a % 256
    (ms.putHome h, lineRead h.data off n, fld h.poison.toNat off n != 0)
  | none =>
    let m := ms.recall a n
    (m, m.rd a n, m.poisoned a n)

/-- Bytes of a resident home line written (R99): the line is dirty, and a 64-byte segment written whole loses its poison. -/
def MemSys.storeBytes (ms : MemSys) (h : HomeLine) (off n v : Nat) : MemSys :=
  let wholly := (List.range 4).foldl (fun (m : BitVec 256) j =>
    if off ≤ 64 * j && 64 * j + 64 ≤ off + n then m ||| lineMask (64 * j) 64 else m) 0
  ms.putHome { h with data := lineWrite h.data off n v, dirty := h.dirty ||| lineMask off n, poison := h.poison &&& ~~~wholly }

/-- Bytes of a resident address-mode line written at an address: the word's monitors fire (R135). -/
def MemSys.storeLine (ms : MemSys) (h : HomeLine) (off n v a : Nat) : MemSys :=
  ((ms.storeBytes h off n v).fire a n).snoopOut a n

/-- An operation at the MSU of a word: its line recalled, its chains passed, then old read and new written
(R125, R126). -/
def MemSys.msuRead (ms : MemSys) (a n : Nat) : MemSys × Nat × Bool :=
  let m := ms.recall a n
  (m, m.rd a n, m.poisoned a n)

def MemSys.msuWrite (ms : MemSys) (a n v : Nat) : MemSys := (ms.recall a n).portWrite a n v

/-! ### L1 data caches -/

/-- The L1 line of a key; a line filled from a replica serves only while the replica would (R114, R115). -/
def Core.l1Line (k : Core) (key : LineKey) : Option L1Line :=
  k.cache.l1d.find? fun l => l.key == key && match l.rep with
    | none => true
    | some (epoch, level) => (k.cache.floors[level]?).getD 0 ≤ epoch

/-- Two keys name one line of addresses under different tenant tags: one page has TEN = 1 and another TEN = 0 (R99). -/
def aliased : LineKey → LineKey → Bool
  | .addr t l, .addr u m => l == m && t != u
  | _, _ => false

/-- The L1 copies of a line under another tag dropped, so that a core's reads and stores of one byte meet one copy (R141,
R152). -/
def Core.l1DropAlias (k : Core) (key : LineKey) : Core :=
  { k with cache := { k.cache with l1d := k.cache.l1d.filter fun l => !aliased l.key key } }

/-- Sets and ways of the L1 data cache: 1,024 lines (R115). -/
def l1Sets : Nat := 128
def l1Ways : Nat := 8

/-- The set of the L1 data cache that a line belongs to: by its line number or tile number (DESIGN CHOICE, log 67). -/
def l1Set (key : LineKey) : Nat :=
  (match key with
    | .addr _ l => l
    | .tensor _ _ _ _ n => n) % l1Sets

/-- A line brought into the L1 data cache, in the place of a copy under another tag; of a full set the line filled longest ago gives way (R115; DESIGN CHOICE,
log 67). -/
def Core.l1Fill (k : Core) (l : L1Line) : Core :=
  let rest := k.cache.l1d.filter fun m => m.key != l.key && !aliased m.key l.key
  let others := rest.filter fun m => l1Set m.key != l1Set l.key
  { k with cache := { k.cache with
      l1d := (l :: rest.filter fun m => l1Set m.key == l1Set l.key).take l1Ways ++ others } }

/-- A store that hits updates the L1 line (R115). -/
def Core.l1Store (k : Core) (key : LineKey) (off n v : Nat) : Core :=
  { k with cache := { k.cache with
      l1d := k.cache.l1d.map fun l =>
        if l.key == key then { l with data := lineWrite l.data off n v } else l } }

/-- The L1 copies of the address-mode lines of [a, a + n) dropped (R141). -/
def Core.l1DropAddr (k : Core) (a n : Nat) : Core :=
  { k with cache := { k.cache with
      l1d := k.cache.l1d.filter fun l => match l.key with
        | .addr _ i => !(lineOf a ≤ i && i ≤ lineOf (a + n - 1))
        | _ => true } }

/-- The L1 copy of a key that was filled from a replica, dropped with the replica (R115). -/
def Core.l1DropReplica (k : Core) (key : LineKey) : Core :=
  { k with cache := { k.cache with l1d := k.cache.l1d.filter fun l => !(l.key == key && l.rep.isSome) } }

/-- The L1 lines of a tensor dropped. -/
def Core.l1DropTensor (k : Core) (t : BitVec 6) (a i : BitVec 16) : Core :=
  { k with cache := { k.cache with
      l1d := k.cache.l1d.filter fun l => match l.key with
        | .tensor t' a' i' _ _ => !(t' == t && a' == a && i' == i)
        | _ => true } }

/-- Every L1 line of a core dropped. -/
def Core.l1Clear (k : Core) : Core := { k with cache := { k.cache with l1d := [] } }

/-- A core changed for every core of a cluster. -/
def State.modCluster (s : State) (cl : BitVec 6) (f : Core → Core) : State :=
  [0, 1, 2, 3].foldl (fun s i => s.modCore (BitVec.ofNat 8 (cl.toNat * 4 + i)) f) s

/-- A core changed for every core of the package. -/
def State.modAll (s : State) (f : Core → Core) : State :=
  allCores.foldl (fun s c => s.modCore c f) s

/-! ### Acquires and releases -/

/-- FLOOR[ℓ] := REPOCH for every level the scope covers: BLOCK 0, DIE 1, PACKAGE 2 (R114). -/
def Core.raiseFloors (k : Core) (scope epoch : Nat) : Core :=
  let f := k.cache.floors
  let f := f.set 0 epoch
  let f := if 3 ≤ scope then f.set 1 epoch else f
  let f := if 4 ≤ scope then f.set 2 epoch else f
  { k with cache := { k.cache with floors := f } }

/-- An acquire of a core at a scope (R114, R115, R147). -/
def State.acquire (s : State) (c : CoreId) (scope : Nat) : State :=
  if scope = 0 then s
  else
    let s := s.modCore c Core.l1Clear
    if scope = 1 then s
    else
      let cl := clusterOf c
      let e := s.ms.repoch[cl.toNat]
      if e < 0xFFFF then
        { s with ms := { s.ms with repoch := s.ms.repoch.set cl.toNat (e + 1) } }.modCore c
          fun k => k.raiseFloors scope (e + 1)
      else
        { s with ms := { s.ms with repoch := s.ms.repoch.set cl.toNat 0,
                                   replicas := s.ms.replicas.filter fun r => r.cluster != cl } }.modCluster cl
          fun k => { k with cache := { k.cache with
            floors := Vector.replicate 3 0, l1d := k.cache.l1d.filter fun l => l.rep.isNone } }

/-! ### The snoop filter (R116) -/

/-- Sets and ways of the snoop filter: 524,288 entries (R116). -/
def snoopSets : Nat := 32768
def snoopWays : Nat := 16

/-- Every L1 copy of a host line that the filter's presence vector names dropped (R116, R117). -/
def State.dropPresent (s : State) (e : SnoopEntry) : State :=
  (List.range 64).foldl (fun (s : State) c =>
    if e.presence.getLsbD c then s.modCluster (BitVec.ofNat 6 c) fun k => k.l1DropAddr (e.line * 256) 256 else s) s

/-- A host line recalled (R116): dirty data written back, the home and every L1 copy dropped, the entry freed. -/
def State.recallHost (s : State) (e : SnoopEntry) : State :=
  let s := { s with ms := s.ms.recall (e.line * 256) 256 }.dropPresent e
  { s with ms := { s.ms with snoop := s.ms.snoop.filter fun f => f.line != e.line } }

/-- An entry for a host line about to be filled; a full set of the filter first recalls the line it allocated longest ago
(R116; the set and the choice of line: DESIGN CHOICE, log 67). -/
def State.snoopAlloc (s : State) (line : Nat) (bank : Nat × Nat) : State :=
  if s.ms.snoop.any fun e => e.line == line then
    { s with ms := { s.ms with snoop := s.ms.snoop.map fun e => if e.line == line then { e with bank := bank } else e } }
  else
    let same := s.ms.snoop.filter fun e => e.line % snoopSets == line % snoopSets
    let s := if same.length < snoopWays then s
      else match same with
        | e :: _ => s.recallHost e
        | [] => s
    { s with ms := { s.ms with snoop := s.ms.snoop ++ [⟨line, bank, false, 0⟩] } }

/-! ### Releases -/

/-- A release of a core: every older scatter-add is performed; every other write of this model has been
performed in its own step (R156; log 8), but for contributions to pots, which the instruction waits for. -/
def State.release (s : State) : State := { s with ms := s.ms.settleAll }

/-- The acquire and release parts of an ordering kind at a scope (R146): 0 plain, 1 acquire, 2 release, 3 both. -/
def State.orderBefore (s : State) (ord : Nat) : State := if 2 ≤ ord then s.release else s

def State.orderAfter (s : State) (ord scope : Nat) : State :=
  if ord = 1 || ord = 3 then s.acquire s.cur scope else s

end Sys2Proof.Machine
end

