-- ==== Sys2Proof/Machine/Regs.lean ====
section
/-! DEFINITION. The memory-mapped registers as plain storage, and what hardware reads from them: node number,
tenant windows, pair tables, routes, MSI-X messages and the error log (R20 to R23, R379, R398, R399, R408 to R414). -/

namespace Sys2Proof.Machine

/-! ### Storage -/

/-- The reset value of a register of function f at an offset (R371, R393, R401): GCUR 1, PWRLIM, DIEILIM, the
weights of TCTL; every other register 0. -/
def regReset (f off : Nat) : Word :=
  if f ≠ 0 then 0
  else if off = 0x4_0000 then 1
  else if off = 0x6_0000 then 35200
  else if off = 0x6_0008 || off = 0x6_0010 || off = 0x6_0018 || off = 0x6_0020 then 10240
  else if 0x7_0000 ≤ off && off < 0x7_0800 && off % 32 = 0 then 0x0000_0101_0000_0000
  else 0

/-- The stored value of a register. -/
def State.reg (s : State) (f off : Nat) : Word :=
  match s.mmio.find? (·.1 == f * 2 ^ 24 + off) with
  | some e => e.2
  | none => regReset f off

/-- A register stored; one at its reset value is not listed. -/
def State.setReg (s : State) (f off : Nat) (v : Word) : State :=
  let rest := s.mmio.filter (·.1 != f * 2 ^ 24 + off)
  { s with mmio := if v = regReset f off then rest else (f * 2 ^ 24 + off, v) :: rest }

/-- This device's node (R408). -/
def State.node (s : State) : Nat := bits (s.reg 0 0xA_0000) 0 10

/-- The generation counter GCUR (R371). -/
def State.gcur (s : State) : Word := s.reg 0 0x4_0000

/-- Entry w of tenant t's windows (R22). -/
def State.twin (s : State) (t w : Nat) : Word := s.reg 0 (0x2_0000 + 0x100 * t + 8 * w)

/-- Dword d of tenant t's entry in the tenant table, as it stands in the registers (R379). -/
def State.tableReg (s : State) (t d : Nat) : Word := s.reg 0 (0x5_0000 + 32 * t + 8 * d)

/-- The local queues of tenant t that have registers (R380): QCOUNT as it stands in the registers (log 44). -/
def State.queues (s : State) (t : Nat) : Nat := bits (s.tableReg t 1) 32 15

/-- Dword d of tenant t's entry as the Dealer has it: changes take effect at the next decision round (R379). -/
def State.tenantEntry (s : State) (t d : Nat) : Word := (s.dealer.table[4 * t + d]?).getD 0

/-- A decision round begins: the tenant table is read (R379). -/
def State.readTable (s : State) : State :=
  { s with dealer := { s.dealer with table := Vector.ofFn fun i => s.tableReg (i.val / 4) (i.val % 4) } }

/-- TCTL of tenant t (R401). -/
def State.tctl (s : State) (t : Nat) : Word := s.reg 0 (0x7_0000 + 32 * t)

/-- A reset of the tenant is in progress (R403). -/
def State.inReset (s : State) (t : BitVec 6) : Bool := s.root.resets.contains t

/-- A register of function f's supervisor start block (R351). -/
def State.startBlock (s : State) (f i : Nat) : Word := s.reg f (0x3_0000 + 8 * i)

/-! ### The physical map -/

/-- A physical address in local form when its node field is 0 or this device's node (R20). -/
def State.localize (s : State) (pa : Nat) : Nat :=
  if pa / 2 ^ 42 = s.node then pa % 2 ^ 42 else pa

/-- A local address in device memory (R21). -/
def inDevice (pa : Nat) : Bool := pa < deviceEnd

/-- A local address in the host window (R21). -/
def inHostWindow (pa : Nat) : Bool := 2 ^ 41 ≤ pa && pa < 2 ^ 42

/-- The function and offset of a local address in an MMIO block (R21). -/
def mmioOf (pa : Nat) : Option (Nat × Nat) :=
  if 0x100_0000_0000 ≤ pa && pa < 0x100_4100_0000 then
    some ((pa - 0x100_0000_0000) / 2 ^ 24, (pa - 0x100_0000_0000) % 2 ^ 24)
  else none

/-- One window entry admits a physical address, given as it stands and in local form (R23): KIND 2 compares the node
field as it stands. -/
def twinMatch (w : Word) (pa loc : Nat) : Bool :=
  let unit := fld pa 21 21
  w.getLsbD 63 && bits w 0 24 ≤ unit && unit ≤ bits w 24 24 &&
    match bits w 58 2 with
    | 0 => inDevice loc
    | 1 => inHostWindow loc
    | 2 => pa / 2 ^ 42 == bits w 48 10
    | _ => false

/-- A physical address lies in a window of tenant t, or in its own MMIO block (R23). -/
def State.inWindow (s : State) (t : BitVec 6) (pa : Nat) : Bool :=
  ((List.range 16).any fun w => twinMatch (s.twin t.toNat w) pa (s.localize pa)) ||
    match mmioOf (s.localize pa) with
    | some (f, _) => f == t.toNat + 1
    | none => false

/-- Every byte of [pa, pa + n) lies in a window; window units are 2 MiB, and n is at most 4 KiB (R29). -/
def State.inWindows (s : State) (t : BitVec 6) (pa n : Nat) : Bool :=
  s.inWindow t pa && s.inWindow t (pa + (n - 1))

/-- A physical address in local device memory inside the tenant's windows, as tables need (R31). -/
def State.inTables (s : State) (t : BitVec 6) (pa n : Nat) : Bool :=
  inDevice (s.localize pa) && inDevice (s.localize (pa + (n - 1))) && s.inWindows t pa n

/-! ### Links -/

/-- A node can be reached: its route holds a port that is up (R409). -/
def State.reachable (s : State) (n : Nat) : Bool :=
  (List.range 24).any fun p =>
    (s.reg 0 (0xA_1000 + 8 * n)).getLsbD p && ((s.links.ports[p]?).map (·.st) == some 2)

/-- The local tenant in whose name a request of a remote tenant is performed (R411). -/
def State.pairOf (s : State) (node tenant : Nat) : Option (BitVec 6) :=
  ((List.range 64).find? fun u => (List.range 16).any fun e =>
    let w := s.reg 0 (0x7_2000 + 0x80 * u + 8 * e)
    w.getLsbD 63 && bits w 6 10 == node && bits w 0 6 == tenant).map (BitVec.ofNat 6)

end Sys2Proof.Machine
end

