-- ==== Sys2Proof/Machine/Translate.lean ====
section
/-! DEFINITION. Translation: the TLBs, the page-table walk, windows, permissions, host pages, and the syndrome of a
fault (R25 to R38, R44 to R47). -/

namespace Sys2Proof.Machine

/-! ### Contexts and faults -/

/-- For whom an access is translated: tenant, ASID, PTROOT page and TDTROOT, whether it has USER privilege, the core whose
TLBs serve it, and who waits for a host translation of it (R37). -/
structure Ctx where
  tenant : BitVec 6
  asid   : BitVec 16
  root   : Nat
  tdt    : Word
  user   : Bool
  core   : CoreId
  who    : Asker
  deriving DecidableEq, Repr

/-- What is asked of a translation: access kind (0 read, 1 write, 2 fetch, 3 atomic), bytes, whether an MSU or a
WAITA performs it (R124), whether host addresses are refused too (R127), whether register blocks are refused (R21), and
whether the walk bypasses the TLBs (R36). -/
structure Ask where
  kind   : Nat
  n      : Nat
  msu    : Bool := false
  noHost : Bool := false
  noMmio : Bool := false
  rewalk : Bool := false
  deriving DecidableEq, Repr

/-- A translated access: the entry, its level, the address before ATS in local form, the final address in the form
of Cache.lean, and the virtual address. -/
structure Hit where
  pte   : Word
  level : Nat
  pa    : Nat
  ga    : Nat
  va    : Word
  deriving DecidableEq, Repr

def causePage : Nat := 5
def causeAccess : Nat := 6
def causeMemUE : Nat := 0x0B
def causePeer : Nat := 0x11

/-- The translation syndrome (R46). -/
def syndrome (reason level kind addr : Nat) : Word :=
  toWord (reason * 2 ^ 61 + level * 2 ^ 58 + kind * 2 ^ 56 + addr % 2 ^ 56)

/-- The trap value of MEM_UE from memory (R430). -/
def memUE (walk : Bool) (level kind addr : Nat) : Word :=
  toWord (2 ^ 63 + (if walk then 2 ^ 62 else 0) + level * 2 ^ 58 + kind * 2 ^ 56 + addr % 2 ^ 56)

/-- The context of a thread of a core. -/
def State.ctxOf (s : State) (c : CoreId) : Ctx :=
  let k := s.core c
  { tenant := k.tk.tenant, asid := k.asid, root := k.ptroot, tdt := k.tdtroot, user := k.priv == .user, core := c, who := .thread c }

/-! ### Entries -/

def pteV (e : Word) : Bool := e.getLsbD 0
def pteW (e : Word) : Bool := e.getLsbD 1
def pteX (e : Word) : Bool := e.getLsbD 2
def pteUsr (e : Word) : Bool := e.getLsbD 3
def pteA (e : Word) : Bool := e.getLsbD 4
def pteD (e : Word) : Bool := e.getLsbD 5
def pteG (e : Word) : Bool := e.getLsbD 6
def pteLeaf (e : Word) : Bool := e.getLsbD 7
def pteNc (e : Word) : Bool := e.getLsbD 8
def pteHost (e : Word) : Bool := e.getLsbD 9
def pteHl (e : Word) : Nat := bits e 10 2
def ptePpn (e : Word) : Nat := bits e 12 40
def pteFmt (e : Word) : Nat := bits e 52 4
def pteBlk (e : Word) : Nat := bits e 56 3
def pteTb (e : Word) : Bool := e.getLsbD 59
def pteTen (e : Word) : Bool := e.getLsbD 60

/-- The 4 KiB pages that a leaf of a level covers (R28): 16 for a member of a 64 KiB page. -/
def leafPages (e : Word) (level : Nat) : Nat :=
  match level with
  | 0 => if pteLeaf e then 1 else 16
  | 1 => 512
  | _ => 262144

/-- A leaf is well formed (R27). -/
def State.leafOk (s : State) (e : Word) (level : Nat) : Bool :=
  let pa := s.localize (ptePpn e * 4096)
  level ≤ 2 && ptePpn e % leafPages e level == 0 &&
    !(pteTb e && (pteFmt e != 0 || pteHost e || pteNc e)) && !(pteTen e && pteHost e) &&
    (pteHost e == inHostWindow pa)

/-- The physical address of a virtual address under a leaf (R28, R29). -/
def leafRaw (e : Word) (level : Nat) (va : Word) : Nat := ptePpn e * 4096 + va.toNat % (leafPages e level * 4096)

/-- The same in local form. -/
def State.leafAddr (s : State) (e : Word) (level : Nat) (va : Word) : Nat := s.localize (leafRaw e level va)

/-- Index of a level in its table (R28). -/
def walkIndex (va : Word) (level : Nat) : Nat :=
  if level = 4 then bits va 48 8 else bits va (12 + 9 * level) 9

/-! ### Caches of translations -/

/-- A cached entry covers an access (R29, R34): tenant, ASID or G, page, and D for a write (R32). -/
def TlbEntry.serves (e : TlbEntry) (c : Ctx) (va : Word) (kind : Nat) : Bool :=
  e.tenant == c.tenant && (pteG e.pte || e.asid == c.asid) &&
    e.vpn ≤ bits va 12 44 && bits va 12 44 < e.vpn + leafPages e.pte e.level &&
    (kind == 0 || kind == 2 || pteD e.pte)

/-- Capacities of the translation caches (R34). -/
def l1TlbSize : Nat := 384
def l2TlbSize : Nat := 8192
def pwcSize : Nat := 256

/-- An entry placed in the L1 TLB of its core; a full one gives up the entry placed longest ago, as the other two
translation caches do (R34; DESIGN CHOICE, log 67). -/
def State.l1Install (s : State) (c : CoreId) (e : TlbEntry) : State :=
  s.modCore c fun k => { k with cache := { k.cache with
    tlb := (e :: k.cache.tlb.filter fun o =>
      !(o.tenant == e.tenant && o.asid == e.asid && o.vpn == e.vpn && o.level == e.level)).take l1TlbSize } }

/-- An entry placed in the L2 TLB of its cluster. -/
def State.l2Install (s : State) (cl : BitVec 6) (e : TlbEntry) : State :=
  let same := fun (o : BitVec 6 × TlbEntry) => o.1 == cl && o.2.tenant == e.tenant && o.2.asid == e.asid &&
    o.2.vpn == e.vpn && o.2.level == e.level
  let mine := s.ms.l2tlb.filter fun o => o.1 == cl && !same o
  let others := s.ms.l2tlb.filter fun o => o.1 != cl
  { s with ms := { s.ms with l2tlb := others ++ ((cl, e) :: mine).take l2TlbSize } }

/-- Non-leaf entries placed in the page-walk cache of their die. -/
def State.pwcInstall (s : State) (die : BitVec 2) (es : List WalkEntry) : State :=
  let mine := s.ms.pwc.filter fun o => o.die == die && !es.any fun e =>
    e.tenant == o.tenant && e.asid == o.asid && e.level == o.level && e.pre == o.pre
  let others := s.ms.pwc.filter fun o => o.die != die
  { s with ms := { s.ms with pwc := others ++ (es ++ mine).take pwcSize } }

/-- The entry of the L1 TLB, else of the L2 TLB, that serves an access; an L2 hit fills the L1. -/
def tlbLookup (c : Ctx) (va : Word) (kind : Nat) : X (Option TlbEntry) := do
  let s ← get
  match (s.core c.core).cache.tlb.find? (·.serves c va kind) with
  | some e => return some e
  | none =>
    match s.ms.l2tlb.find? fun o => o.1 == clusterOf c.core && o.2.serves c va kind with
    | some e => set (s.l1Install c.core e.2); return some e.2
    | none => return none

/-! ### The walk -/

/-- What a walk found: the leaf, its level, the address of the entry, and the non-leaf entries on its way. -/
structure Leaf where
  pte   : Word
  level : Nat
  at_   : Nat
  path  : List WalkEntry
  deriving DecidableEq, Repr

/-- The levels of a walk from a table, one after the other (R29, R31, R46). -/
def walkLevels (c : Ctx) (va : Word) (kind : Nat) : List Nat → Nat → List WalkEntry → X Leaf
  | [], tbl, path => return ⟨0, 0, tbl, path⟩
  | lvl :: rest, tbl, path => do
    let s ← get
    let raw := tbl + 8 * walkIndex va lvl
    let a := s.localize raw
    require (s.inTables c.tenant raw 8) causeAccess (syndrome 4 lvl kind va.toNat)
    let (ms, v, bad) := s.ms.homeRead a 8 (some c.tenant)
    modify fun s => { s with ms := ms }
    require (!bad) causeMemUE (memUE true lvl kind va.toNat)
    let e := toWord v
    require (bits e 61 3 == 0) causeAccess (syndrome 2 lvl kind va.toNat)
    require (pteV e) causePage (syndrome 0 lvl kind va.toNat)
    if pteLeaf e || lvl == 0 then return ⟨e, lvl, a, path⟩
    else
      let w : WalkEntry := ⟨dieOf c.core, c.tenant, c.asid, lvl, va.toNat / 2 ^ (12 + 9 * lvl) % 2 ^ (44 - 9 * lvl),
        ptePpn e⟩
      walkLevels c va kind rest (ptePpn e * 4096) (if 2 ≤ lvl then w :: path else path)

/-- The walk of an address, from the page-walk cache where it holds a prefix (R29, R34). -/
def walk (c : Ctx) (va : Word) (kind : Nat) : X Leaf := do
  let s ← get
  let hit := fun lvl => s.ms.pwc.find? fun e => e.die == dieOf c.core && e.tenant == c.tenant &&
    e.asid == c.asid && e.level == lvl && e.pre == va.toNat / 2 ^ (12 + 9 * lvl) % 2 ^ (44 - 9 * lvl)
  match hit 2, hit 3, hit 4 with
  | some e, _, _ => walkLevels c va kind [1, 0] (e.ppn * 4096) []
  | none, some e, _ => walkLevels c va kind [2, 1, 0] (e.ppn * 4096) []
  | none, none, some e => walkLevels c va kind [3, 2, 1, 0] (e.ppn * 4096) []
  | none, none, none => walkLevels c va kind [4, 3, 2, 1, 0] (c.root * 4096) []

/-- A and D set in the entry by a compare-and-swap at its MSU (R32), an access of the issuing agent, whose L1 copy of the
line goes (R141, R145); one step holds the walk and the swap, so the comparison does not fail. -/
def setAD (c : Ctx) (l : Leaf) (kind : Nat) : X Word := do
  let e := l.pte ||| 0x10 ||| (if kind == 1 || kind == 3 then 0x20 else 0)
  if e = l.pte then return e
  else
    modify fun s => { s with ms := s.ms.msuWrite l.at_ 8 e.toNat }.modCore c.core fun k => k.l1DropAddr l.at_ 8
    return e

/-- The cached form of a leaf. -/
def tlbOf (c : Ctx) (va : Word) (e : Word) (level : Nat) : TlbEntry :=
  let p := leafPages e level
  { tenant := c.tenant, asid := c.asid, level := level, big := level == 0 && !pteLeaf e,
    vpn := bits va 12 44 / p * p, pte := e }

/-! ### Host pages -/

/-- A waiting access leaves the list of those that wait for a host translation, or have failed. -/
def MemSys.askDone (ms : MemSys) (p : Asker × Nat × Nat → Bool) : MemSys :=
  { ms with atsSeek := ms.atsSeek.filter fun a => !p a, atsFail := ms.atsFail.filter fun a => !p a }

/-- A waiting access is one of a core's thread or copies. -/
def Asker.ofCore (a : Asker) (c : CoreId) : Bool := match a with
  | .thread d => d == c
  | .copy d _ => d == c
  | _ => false

/-- The waiting accesses that a condition selects fail (R37). -/
def MemSys.failSeekers (ms : MemSys) (p : Asker × Nat × Nat → Bool) : MemSys :=
  { ms with
    atsFail := (ms.atsSeek.filter fun a => p a && !ms.atsFail.contains a) ++ ms.atsFail
    atsSeek := ms.atsSeek.filter fun a => !p a }

/-- What a step that only waits keeps: the requests it has sent to the host and to the scrubber. -/
def MemSys.keepAsks (ms new : MemSys) : MemSys :=
  { ms with atsWait := new.atsWait, priWait := new.priWait, atsSeek := new.atsSeek, atsFail := new.atsFail,
            bisnp := new.bisnp, retired := new.retired }

/-- A host page translated again by ATS (R37): from the ATC; else the request is sent and the access waits; an access
that has failed ends with HOSTPAGE. A write that hits an entry without write permission makes a page request without an
ATS request of its own (DESIGN CHOICE, log 50). -/
def atsTranslate (c : Ctx) (level : Nat) (va : Word) (pa kind : Nat) : X Nat := do
  let s ← get
  let f := c.tenant.toNat + 1
  let page := pa % 2 ^ 41 / 4096
  let write := kind == 1 || kind == 3
  let me := (c.who, f, page)
  let asked := s.ms.atsWait.contains (f, page) || s.ms.priWait.contains (f, page)
  let seek := if s.ms.atsSeek.contains me then s.ms.atsSeek else s.ms.atsSeek ++ [me]
  if s.ms.atsFail.contains me then
    set { s with ms := s.ms.askDone (· == me) }
    trap causePage (syndrome 3 level kind va.toNat)
  else match s.ms.atc.find? fun e => e.func == f && e.page == page with
  | some e =>
    if !write || e.write then
      set { s with ms := s.ms.askDone (· == me) }
      return hostBase + e.host * 4096 + pa % 4096
    else
      set { s with ms := { s.ms with
        atsSeek := seek, priWait := if asked then s.ms.priWait else s.ms.priWait ++ [(f, page)] } }
      throw (.wait (.ats f page))
  | none =>
    set { s with ms := { s.ms with
      atsSeek := seek, atsWait := if asked then s.ms.atsWait else s.ms.atsWait ++ [(f, page)] } }
    throw (.wait (.ats f page))

/-! ### Translate -/

/-- Permission (R30): USER and USR, fetch at SUPER from a USR page, W, X. -/
def permitted (c : Ctx) (e : Word) (kind : Nat) : Bool :=
  (!c.user || pteUsr e) && !(kind == 2 && !c.user && pteUsr e) &&
    !((kind == 1 || kind == 3) && !pteW e) && !(kind == 2 && !pteX e)

/-- The window check of a leaf address, given as it stands, with the refusals of MMIO and of host objects (R23, R21, R124,
R127) and the refusal of a confidential page on another node (R411). -/
def State.leafWindow (s : State) (c : Ctx) (e : Word) (raw : Nat) (q : Ask) : Bool :=
  let pa := s.localize raw
  s.inWindows c.tenant raw q.n && !((q.msu || q.noMmio) && (mmioOf pa).isSome) && !(q.noHost && inHostWindow pa) &&
    !(pteTen e && 2 ^ 42 ≤ pa)

/-- What FORMAT refuses at any access (R30, R73, R124): a fetch from a HOST, TB, formatted or MMIO page, a write to
a formatted page, an MSU operation on a TB or formatted page. -/
def formatOk (e : Word) (pa : Nat) (q : Ask) : Bool :=
  !(q.kind == 2 && (pteHost e || pteTb e || pteFmt e != 0 || (mmioOf pa).isSome)) &&
    !((q.kind == 1 || q.kind == 3) && pteFmt e != 0) &&
    !(q.msu && (pteTb e || pteFmt e != 0))

/-- Translate (R29) in the order of R47; formatted reads add their own condition on the entry and the address. FORMAT is
met at the access, after A and D are set and the entry is cached (R27, R32). -/
def translate (c : Ctx) (va : Word) (q : Ask) (fmtOk : Word → Nat → Bool) : X Hit := do
  let cached ← if q.rewalk then pure none else tlbLookup c va q.kind
  match cached with
  | some t =>
    let s ← get
    let pa := s.leafAddr t.pte t.level va
    let lv := if leafPages t.pte t.level == 16 then 0 else t.level
    require (s.leafWindow c t.pte (leafRaw t.pte t.level va) q) causeAccess (syndrome 4 lv q.kind va.toNat)
    require (permitted c t.pte q.kind) causePage (syndrome 1 lv q.kind va.toNat)
    let ga ← if pteHost t.pte then atsTranslate c lv va pa q.kind else pure pa
    require (formatOk t.pte pa q && fmtOk t.pte pa) causeAccess (syndrome 6 lv q.kind va.toNat)
    return ⟨t.pte, lv, pa, ga, va⟩
  | none =>
    let l ← walk c va q.kind
    let s ← get
    require (s.leafOk l.pte l.level) causeAccess (syndrome 2 l.level q.kind va.toNat)
    let pa := s.leafAddr l.pte l.level va
    require (s.leafWindow c l.pte (leafRaw l.pte l.level va) q) causeAccess (syndrome 4 l.level q.kind va.toNat)
    require (permitted c l.pte q.kind) causePage (syndrome 1 l.level q.kind va.toNat)
    let ga ← if pteHost l.pte then atsTranslate c l.level va pa q.kind else pure pa
    let e ← setAD c l q.kind
    let t := tlbOf c va e l.level
    modify fun s => ((s.l1Install c.core t).l2Install (clusterOf c.core) t).pwcInstall (dieOf c.core) l.path
    require (formatOk l.pte pa q && fmtOk l.pte pa) causeAccess (syndrome 6 l.level q.kind va.toNat)
    return ⟨e, l.level, pa, ga, va⟩

/-- A GLOBAL address is canonical (R17). -/
def canonical (a : Word) : Bool := canon56 a == a

/-- Resolve of GLOBAL (R18): the canonical check, then Translate. -/
def resolveGlobal (c : Ctx) (a : Word) (q : Ask) (fmtOk : Word → Nat → Bool) : X Hit := do
  require (canonical a) causeAccess (syndrome 5 7 q.kind a.toNat)
  translate c a q fmtOk

/-- No condition of a formatted page. -/
def anyFormat : Word → Nat → Bool := fun _ _ => true

end Sys2Proof.Machine
end

