-- ==== Sys2Proof/Machine/Tensor.lean ====
section
/-! DEFINITION. The tensor-tagged cache: descriptors, the element, tile and line formulas, home placement, tensor
lines, replicas and generations (R101 to R114). -/

namespace Sys2Proof.Machine

/-! ### Descriptors -/

/-- A descriptor with its dwords read (R102). -/
structure Desc where
  dw : List Word
  deriving DecidableEq, Repr

def Desc.at_ (d : Desc) (i : Nat) : Word := (d.dw[i]?).getD 0
def Desc.valid (d : Desc) : Bool := (d.at_ 0).getLsbD 63
def Desc.rank (d : Desc) : Nat := bits (d.at_ 0) 60 3
def Desc.et (d : Desc) : Option ET := ET.ofCode (bits (d.at_ 0) 55 5)
def Desc.ro (d : Desc) : Bool := (d.at_ 0).getLsbD 54
def Desc.repl (d : Desc) : Bool := (d.at_ 0).getLsbD 53
def Desc.hl (d : Desc) : Nat := bits (d.at_ 0) 51 2
def Desc.plev (d : Desc) : Nat := bits (d.at_ 0) 48 2
def Desc.pbase (d : Desc) : Nat := bits (d.at_ 0) 40 8
def Desc.pdim0 (d : Desc) : Nat := bits (d.at_ 0) 37 3
def Desc.pdim1 (d : Desc) : Nat := bits (d.at_ 0) 34 3
def Desc.p0log (d : Desc) : Nat := bits (d.at_ 0) 30 4
def Desc.gen (d : Desc) : BitVec 16 := (d.at_ 0).extractLsb' 0 16
def Desc.base (d : Desc) : Nat := bits (d.at_ 1) 0 56
def Desc.dim (d : Desc) (i : Nat) : Nat := bits (d.at_ (2 + i / 2)) (32 * (i % 2)) 32
def Desc.stride (d : Desc) (i : Nat) : Nat := if i = 0 then 1 else bits (d.at_ (4 + i)) 0 36
def Desc.tile (d : Desc) (i : Nat) : Nat := if i = 4 then bits (d.at_ 10) 0 16 else bits (d.at_ 9) (16 * i) 16
def Desc.halo (d : Desc) (i : Nat) : Nat := bits (d.at_ 10) (16 + 4 * i) 4
/-- The width of an element in bits. -/
def Desc.w (d : Desc) : Nat := match d.et with
  | some t => ETwidth t
  | none => 8
/-- The cores of the partition, N (R103). -/
def Desc.parts (d : Desc) : Nat := 4 ^ (d.plev + 1)
/-- The bytes of the tensor, SPAN (R103). -/
def Desc.span (d : Desc) : Nat := cdiv (d.stride (d.rank - 1) * d.dim (d.rank - 1) * d.w) 8
/-- The elements of the tensor (R18). -/
def Desc.count (d : Desc) : Nat := d.dim 0 * d.dim 1 * d.dim 2 * d.dim 3 * d.dim 4
/-- Tiles along a dimension, G (R105). -/
def Desc.grid (d : Desc) (i : Nat) : Nat := cdiv (d.dim i) (d.tile i)
/-- Elements of a tile. -/
def Desc.tileSize (d : Desc) : Nat := d.tile 0 * d.tile 1 * d.tile 2 * d.tile 3 * d.tile 4
/-- Bytes of a tile. -/
def Desc.tileBytes (d : Desc) : Nat := d.tileSize * d.w / 8

/-- Every reserved field of a descriptor is zero (R102). -/
def Desc.reservedOk (d : Desc) : Bool :=
  bits (d.at_ 0) 50 1 == 0 && bits (d.at_ 0) 16 14 == 0 && bits (d.at_ 1) 56 8 == 0 && bits (d.at_ 4) 32 32 == 0 &&
    [5, 6, 7, 8].all (fun i => bits (d.at_ i) 36 28 == 0) && bits (d.at_ 10) 36 28 == 0 &&
    [11, 12, 13, 14, 15].all (fun i => d.at_ i == 0)

/-- A descriptor is well formed for a TID under a tensor window (R103). -/
def Desc.ok (d : Desc) (tid tbwin : Nat) : Bool :=
  let r := d.rank
  let w := d.w
  d.valid && 1 ≤ r && r ≤ 5 && (match d.et with | some t => t != .wac | none => false) &&
    [0, 1, 2, 3, 4].all (fun i =>
      if i < r then 1 ≤ d.dim i && 1 ≤ d.tile i
      else d.dim i == 1 && d.tile i == 1 && d.halo i == 0 && (i == 0 || d.stride i == 0)) &&
    [1, 2, 3, 4].all (fun i => r ≤ i ||
      (d.stride (i - 1) != 0 && d.stride i % d.stride (i - 1) == 0 &&
        d.stride (i - 1) * d.dim (i - 1) ≤ d.stride i && d.stride i * w % 256 == 0)) &&
    (w != 4 || d.dim 0 % 2 == 0) && [256, 512, 1024, 2048].contains (d.tile 0 * w) &&
    d.tileSize * w ≤ 2048 && d.base % 256 == 0 && d.base / 2 ^ 48 == tbwin && d.base / 2 ^ 32 % 2 ^ 16 == tid &&
    d.base % 2 ^ 32 + d.span ≤ 2 ^ 32 && d.pbase % d.parts == 0 &&
    (d.pdim0 < r || d.pdim0 == 7) && (d.pdim1 < r || d.pdim1 == 7) && (d.pdim0 != d.pdim1 || d.pdim0 == 7) &&
    2 ^ d.p0log ≤ d.parts && (d.pdim0 != 7 || (d.pdim1 == 7 && d.p0log == 0)) && d.reservedOk

/-- The address of descriptor TID of the table that TDTROOT names (R101, R102). -/
def descAddr (root : Word) (tid : Nat) : Nat := bits root 12 40 * 4096 + 128 * tid

/-- TID names an entry of the table (R101). -/
def tidOk (root : Word) (tid : Nat) : Bool := tid < 2 ^ bits root 0 5

/-- Cached descriptors per cluster (R104). -/
def descCacheSize : Nat := 512

/-- Descriptor TID as the core's cluster holds it, fetched on a miss (R101, R104); a full cluster gives up the one it
fetched longest ago (DESIGN CHOICE, log 67). A copy or flush issued under an older TDTROOT reads the older table, past the
cluster's descriptors (R33, R101). -/
def descFetch (c : Ctx) (tid kind addr : Nat) : X Desc := do
  let s ← get
  let root := c.tdt
  let cl := clusterOf c.core
  let live := (s.core c.core).tdtroot == root
  require (tidOk root tid) causeAccess (syndrome 7 7 kind addr)
  match s.ms.desc.find? fun e => live && e.cluster == cl && e.tenant == c.tenant && e.asid == c.asid && e.tid.toNat == tid with
  | some e => return ⟨e.dw⟩
  | none =>
    let a := s.localize (descAddr root tid)
    require (s.inTables c.tenant (descAddr root tid) 128) causeAccess (syndrome 4 7 kind addr)
    let (ms, v, bad) := s.ms.homeRead a 128 (some c.tenant)
    modify fun s => { s with ms := ms }
    require (!bad) causeMemUE (memUE false 7 kind addr)
    let dw := (List.range 16).map fun i => toWord (fld v (64 * i) 64)
    modify fun s =>
      let mine := s.ms.desc.filter (·.cluster == cl)
      let others := s.ms.desc.filter (·.cluster != cl)
      if !live then s
      else { s with ms := { s.ms with desc :=
          others ++ (⟨cl, c.tenant, c.asid, BitVec.ofNat 16 tid, dw⟩ :: mine).take descCacheSize } }
    return ⟨dw⟩

/-- A well-formed descriptor, or a fault at the element (R103). -/
def descWell (c : Ctx) (tid kind addr : Nat) : X Desc := do
  let d ← descFetch c tid kind addr
  require (d.ok tid (bits c.tdt 56 8)) causeAccess (syndrome 7 7 kind addr)
  return d

/-- Every cached copy of a descriptor removed (R104). -/
def MemSys.descDrop (ms : MemSys) (t : BitVec 6) (asid tid : BitVec 16) : MemSys :=
  { ms with desc := ms.desc.filter fun e => !(e.tenant == t && e.asid == asid && e.tid == tid) }

/-! ### Formulas -/

/-- The coordinates of linear element offset e (R105). -/
def Desc.coords (d : Desc) (e : Nat) : List Nat :=
  let q1 := e / d.dim 0
  let q2 := q1 / d.dim 1
  let q3 := q2 / d.dim 2
  [e % d.dim 0, q1 % d.dim 1, q2 % d.dim 2, q3 % d.dim 3, q3 / d.dim 3]

/-- A coordinate of a list. -/
def co (i : List Nat) (k : Nat) : Nat := (i[k]?).getD 0

/-- The tile coordinates of an element (R105). -/
def Desc.tileOf (d : Desc) (i : List Nat) : List Nat := (List.range 5).map fun k => co i k / d.tile k

/-- The tile number (R105). -/
def Desc.tileNumber (d : Desc) (t : List Nat) : Nat :=
  co t 0 + d.grid 0 * (co t 1 + d.grid 1 * (co t 2 + d.grid 2 * (co t 3 + d.grid 3 * co t 4)))

/-- The tile coordinates of a tile number. -/
def Desc.tileCoords (d : Desc) (n : Nat) : List Nat :=
  let q1 := n / d.grid 0
  let q2 := q1 / d.grid 1
  let q3 := q2 / d.grid 2
  [n % d.grid 0, q1 % d.grid 1, q2 % d.grid 2, q3 % d.grid 3, q3 / d.grid 3]

/-- The position of an element in its tile, p (R105). -/
def Desc.position (d : Desc) (i : List Nat) : Nat :=
  let m := fun k => co i k % d.tile k
  m 0 + d.tile 0 * (m 1 + d.tile 1 * (m 2 + d.tile 2 * (m 3 + d.tile 3 * m 4)))

/-- The storage index of an element, u (R105). -/
def Desc.storage (d : Desc) (i : List Nat) : Nat :=
  (List.range 5).foldl (fun u k => u + co i k * d.stride k) 0

/-- The virtual address of an element (R105). -/
def Desc.address (d : Desc) (i : List Nat) : Nat := d.base + d.storage i * d.w / 8

/-- The runs of a tile: offset in the line, bytes, virtual address; rows beyond the tensor have none (R105). -/
def Desc.runs (d : Desc) (t : List Nat) : List (Nat × Nat × Nat) :=
  let rows := d.tile 1 * d.tile 2 * d.tile 3 * d.tile 4
  let i0 := co t 0 * d.tile 0
  let k := min (d.tile 0) (d.dim 0 - i0)
  (List.range rows).filterMap fun r =>
    let j := [0, r % d.tile 1, r / d.tile 1 % d.tile 2, r / (d.tile 1 * d.tile 2) % d.tile 3,
      r / (d.tile 1 * d.tile 2 * d.tile 3)]
    let i := (List.range 5).map fun q => co t q * d.tile q + co j q
    if (List.range 5).all (fun q => co i q < d.dim q) && k != 0 then
      some (r * d.tile 0 * d.w / 8, k * d.w / 8, d.address i)
    else none

/-- The home bank of a tile (R108). -/
def Desc.home (d : Desc) (t : List Nat) : Nat × Nat :=
  let p0 := 2 ^ d.p0log
  let p1 := d.parts / p0
  let k0 := if d.pdim0 = 7 then 0 else co t d.pdim0 * p0 / d.grid d.pdim0 * p1
  let k1 := if d.pdim1 = 7 then 0 else co t d.pdim1 * p1 / d.grid d.pdim1
  let owner := d.pbase + k0 + k1
  match d.hl with
  | 0 => (0, owner / 4)
  | 1 => (1, owner / 16)
  | 2 => (2, owner / 64)
  | _ => (3, 0)

/-- A core reaches a bank within a scope of R3: the narrowest scope whose subtree holds both, as a floor index
(BLOCK 0, DIE 1, PACKAGE 2), or none when the bank is the core's own cluster bank (R113). -/
def replicaLevel (c : CoreId) (bank : Nat × Nat) : Option Nat :=
  match bank.1 with
  | 0 => if c.toNat / 4 = bank.2 then none
         else if c.toNat / 16 = bank.2 / 4 then some 0 else if c.toNat / 64 = bank.2 / 16 then some 1 else some 2
  | 1 => if c.toNat / 16 = bank.2 then some 0 else if c.toNat / 64 = bank.2 / 4 then some 1 else some 2
  | 2 => if c.toNat / 64 = bank.2 then some 1 else some 2
  | _ => some 2

/-- The tensor-mode key of a tile (R99). -/
def Desc.key (d : Desc) (c : Ctx) (tid n : Nat) : LineKey :=
  .tensor c.tenant c.asid (BitVec.ofNat 16 tid) d.gen n

/-- Storage coordinates of a byte offset of the tensor (R106). -/
def Desc.unstore (d : Desc) (u : Nat) : List Nat :=
  (List.range 5).map fun k =>
    if k + 1 = d.rank then u / d.stride k
    else if k < d.rank then u % d.stride (k + 1) / d.stride k else 0

/-- Tile number and line byte of byte `off` of the tensor; none in padding or beyond (R106). -/
def Desc.byteOf (d : Desc) (off : Nat) : Option (Nat × Nat) :=
  if off < d.span then
    let u := off * 8 / d.w
    let i := d.unstore u
    if (List.range 5).all fun k => k ≥ d.rank || co i k < d.dim k then
      some (d.tileNumber (d.tileOf i), d.position i * d.w / 8 + (off - u * d.w / 8))
    else none
  else none

/-! ### Lines -/

/-- A step of hardware that leaves no translation cached. -/
def quiet {α : Type} (m : X α) : X α := fun s =>
  let back := fun (t : State) => { t with cores := s.cores, ms := { t.ms with l2tlb := s.ms.l2tlb, pwc := s.ms.pwc } }
  match m s with
  | .ok a t => .ok a (back t)
  | .error e t => .error e (back t)

/-- A trap of the fill of a line reports the kind of the access, and its address where one is given (R46; log 10). -/
def retag {α : Type} (kind : Nat) (addr : Option Nat) (m : X α) : X α := fun s =>
  match m s with
  | .error (.trap c v) t =>
    let v := setBits v 56 2 kind
    .error (.trap c (match addr with
      | some a => setBits v 0 56 a
      | none => v)) t
  | r => r

/-- The physical address of a run of a tensor line: a page with TB = 0 is a FORMAT fault (R106). -/
def runAddr (c : Ctx) (va n kind : Nat) : X Nat := do
  let h ← translate c (toWord va) { kind := kind, n := n } fun e _ => pteTb e
  return h.pa

/-- The context under which a tensor line is written back: its tenant and ASID, the tables it was filled under. -/
def HomeLine.ctx (h : HomeLine) : Ctx :=
  match h.key with
  | .tensor t a _ _ _ => { tenant := t, asid := a, root := h.root, tdt := 0, user := false, core := 0, who := .thread 0 }
  | .addr _ _ => { tenant := 0, asid := 0, root := 0, tdt := 0, user := false, core := 0, who := .thread 0 }

/-- The completion status of a translation fault (R201): PAGE, ACCESS or MEM_UE. -/
def faultStatus : Stop → Nat
  | .trap 5 _ => 1
  | .trap 0x0B _ => 3
  | _ => 2

/-- The tensor line's dirty runs written back (R110, R112): on a translation fault its bytes are discarded, the
event is to be logged, and the status is the fault's. -/
def writeBackTensor (h : HomeLine) : X Nat := fun s =>
  let due := h.runs.filter fun r => fld h.dirty.toNat r.1 r.2.1 != 0
  match quiet (due.mapM fun r => runAddr h.ctx r.2.2 r.2.1 1) s with
  | .ok pas t =>
    let at_ := due.zip pas
    let ms := at_.foldl (fun ms p => (ms.writeRun h p.1.1 p.1.2.1 p.2).snoopOut p.2 p.1.2.1) t.ms
    .ok 0 { t with ms := ms.putHome (h.cleaned at_) }
  | .error e t =>
    let va := match due with
      | r :: _ => r.2.2
      | [] => 0
    let ms := t.ms.putHome { h with dirty := 0 }
    .ok (faultStatus e) { t with ms := { ms with lost := ms.lost ++ [(11, h.ctx.tenant, va)] } }

/-- A write-back at an eviction has failed: the next flush of the tensor returns the first such status (R110, R112). -/
def MemSys.noteFail (ms : MemSys) (t : BitVec 6) (a i : BitVec 16) (st : Nat) : MemSys :=
  if st = 0 || ms.flushFail.any (fun e => e.1 == t && e.2.1 == a && e.2.2.1 == i) then ms
  else { ms with flushFail := ms.flushFail ++ [(t, a, i, BitVec.ofNat 4 st)] }

/-- A home line evicted: written back when dirty, its bytes discarded when retired (R110, R111). -/
def evictHome (key : LineKey) : X Unit := do
  let s ← get
  match s.ms.home key with
  | none => return
  | some h =>
    if h.dirty = 0 || s.ms.isRetired key then set { s with ms := s.ms.dropHome key }
    else match key with
      | .addr _ _ => set { s with ms := (s.ms.writeBack h).dropHome key }
      | .tensor t a i _ _ =>
        let st ← writeBackTensor h
        modify fun s => { s with ms := (s.ms.dropHome key).noteFail t a i st }

/-! ### Room in a set (R109, R110) -/

/-- A replica removed; the home line stays (R110). -/
def MemSys.dropReplica (ms : MemSys) (cl : BitVec 6) (key : LineKey) : MemSys :=
  { ms with replicas := ms.replicas.filter fun r => !(r.cluster == cl && r.key == key) }

/-- Room made in a set for a line that is half-size or not as half tells, victim by victim in the order of R110; false
where a prefetch finds no victim it may take. -/
def makeRoom (bank : Nat × Nat) (set : Nat) (own : LineKey) (half : MemSys → Bool) (prefetch : Bool) : Nat → X Bool
  | 0 => return false
  | fuel + 1 => do
    let ms := (← get).ms
    if (ms.freeSlot bank set (half ms)).isSome then return true
    else match ms.victim bank set own prefetch with
      | none => return false
      | some (.home key) => do
        evictHome key
        makeRoom bank set own half prefetch fuel
      | some (.replica cl key) => do
        modify fun s => { s with ms := s.ms.dropReplica cl key }
        makeRoom bank set own half prefetch fuel

/-- Victims that a fill may need: every line of a set. -/
def roomFuel : Nat := 33

/-- A resident line about to take new bytes: a paired line that becomes incompressible first moves to a free entry of its
set (R109). -/
def settleEntry (h : HomeLine) (data : BitVec 2048) : X HomeLine := do
  if (← get).ms.mustMove h data then
    let set := lineSet h.key h.bank
    let _ ← makeRoom h.bank set h.key (fun _ => false) false roomFuel
    return { h with slot := ((← get).ms.freeSlot h.bank set false).getD h.slot }
  else return h

/-- A write by an outside agent or by hardware: at the home when a line is resident, at the port otherwise (R166); n bytes within
one line. -/
def homeStore (a n v : Nat) (t : Option (BitVec 6)) : X Unit := do
  match (← get).ms.homeAt a t with
  | some h =>
    let line ← settleEntry h (lineWrite h.data (a % 256) n v)
    modify fun s => { s with ms := s.ms.storeLine line (a % 256) n v a }
  | none => modify fun s => { s with ms := (s.ms.recall a n).portWrite a n v }

/-- The same as a change of the state: of its memory system alone. -/
def State.homeStore (s : State) (a n v : Nat) (t : Option (BitVec 6) := none) : State :=
  { s with ms := match Machine.homeStore a n v t s with
      | .ok _ u => u.ms
      | .error _ u => u.ms }

/-- The address-mode line of a key, filled at its home when absent (R116, R123): its one run is poisoned whole when a
segment of it is. The line under another tag is recalled first: a line has one home (R99). -/
def fillLine (key : LineKey) (a : Nat) (bank : Nat × Nat) : X HomeLine := do
  match (← get).ms.home key with
  | some h =>
    modify fun s => { s with ms := s.ms.putHome h }
    return h
  | none =>
    let base := a / 256 * 256
    modify fun s => { s with ms := s.ms.recall base 256 }
    if hostBase ≤ a then modify fun s => s.snoopAlloc (lineOf a) bank
    let data := fun (ms : MemSys) => BitVec.ofNat 2048 (ms.rd base 256)
    let set := lineSet key bank
    let _ ← makeRoom bank set key (fun ms => halfSize (data ms)) false roomFuel
    let ms := (← get).ms
    let h : HomeLine :=
      { key := key, bank := bank, slot := (ms.freeSlot bank set (halfSize (data ms))).getD 0, data := data ms, dirty := 0
        poison := if ms.poisoned base 256 then lineMask 0 256 else 0, runs := [(0, 256, base)], root := 0 }
    modify fun s => { s with ms := s.ms.putHome h }
    return h

/-- The bytes of a tensor line's runs in memory, and which of them are poisoned, run by run (R105, R123). -/
def MemSys.gather (ms : MemSys) (runs : List ((Nat × Nat × Nat) × Nat)) : BitVec 2048 × BitVec 256 :=
  runs.foldl (fun acc p =>
    (lineWrite acc.1 p.1.1 p.1.2.1 (ms.rd p.2 p.1.2.1),
      if ms.poisoned p.2 p.1.2.1 then acc.2 ||| lineMask p.1.1 p.1.2.1 else acc.2)) (0, 0)

/-- The tensor line of tile n, filled at its home when absent (R105, R110, R123); a fault is reported with the kind of the
access and, where one is given, its address; a prefetch without room is dropped; first: the page of an address to be
walked first (R36). -/
def tensorFill (c : Ctx) (d : Desc) (tid n kind : Nat) (addr : Option Nat) (prefetch : Bool := false)
    (first : Option Nat := none) : X HomeLine := do
  let key := d.key c tid n
  match (← get).ms.home key with
  | some h =>
    modify fun s => { s with ms := s.ms.putHome h }
    return h
  | none =>
    let bank := d.home (d.tileCoords n)
    let runs := d.runs (d.tileCoords n)
    let pas ← retag kind addr (do
      match first with
      | some p => do let _ ← translate c (toWord (p * 4096)) { kind := 0, n := 1, rewalk := true } anyFormat
      | none => pure ()
      runs.mapM fun r => runAddr c r.2.2 r.2.1 0)
    let at_ := runs.zip pas
    modify fun s => { s with ms := at_.foldl (fun ms p => ms.settle p.2 p.1.2.1) s.ms }
    let set := lineSet key bank
    let room ← makeRoom bank set key (fun ms => halfSize (ms.gather at_).1) prefetch roomFuel
    if !room then throw .halt
    let ms := (← get).ms
    let (data, poison) := ms.gather at_
    let h : HomeLine :=
      { key := key, bank := bank, slot := (ms.freeSlot bank set (halfSize data)).getD 0, data := data, dirty := 0
        poison := poison, runs := runs, root := c.root }
    modify fun s => { s with ms := s.ms.putHome h }
    return h

/-- A byte of a tensor line lies in one of its runs; others read zero and discard stores (R105). -/
def HomeLine.inRun (h : HomeLine) (off : Nat) : Bool :=
  h.runs.any fun r => r.1 ≤ off && off < r.1 + r.2.1

/-- A replica of the core's cluster that the core may read (R113, R114). -/
def State.replica (s : State) (c : CoreId) (key : LineKey) : Option Replica :=
  s.ms.replicas.find? fun r => r.cluster == clusterOf c && r.key == key &&
    ((s.core c).cache.floors[r.level]?).getD 0 ≤ r.epoch

/-- A read of n bytes of a tensor line by a core (R114, R115, R157): its L1, a replica of its cluster, or the home;
the value and whether it is poisoned. -/
def tensorRead (c : Ctx) (d : Desc) (tid n off len kind : Nat) (addr : Option Nat) (prefetch : Bool := false) :
    X (Nat × Bool) := do
  let s ← get
  let key := d.key c tid n
  match (s.core c.core).l1Line key with
  | some l => return (lineRead l.data off len, false)
  | none =>
    match s.replica c.core key with
    | some r =>
      modify fun s =>
        { s with ms := { s.ms with replicas := r :: (s.ms.dropReplica r.cluster r.key).replicas } }.modCore c.core
          fun k => k.l1Fill ⟨key, r.data, some (r.epoch, r.level)⟩
      return (lineRead r.data off len, false)
    | none =>
      let h ← tensorFill c d tid n kind addr prefetch
      let bad := fld h.poison.toNat off len != 0
      modify fun s =>
        if s.ms.isGated h.bank then { s with ms := s.ms.dropHome key }
        else if h.poison = 0 then s.modCore c.core fun k => k.l1Fill ⟨key, h.data, none⟩ else s
      return (lineRead h.data off len, bad)

/-- A store of n bytes to a tensor line by a core (R99, R105, R113, R115): at the home; the core's own cluster loses
its replica and the L1 lines filled from it; the core's L1 line is updated. -/
def tensorWrite (c : Ctx) (d : Desc) (tid n off len v kind : Nat) (addr : Option Nat) : X Unit := do
  let key := d.key c tid n
  let h ← tensorFill c d tid n kind addr
  if !h.inRun off then return
  let h ← settleEntry h (lineWrite h.data off len v)
  modify fun s =>
    let ms := (s.ms.storeBytes h off len v).dropReplica (clusterOf c.core) key
    ({ s with ms := ms }.modCluster (clusterOf c.core) fun k => k.l1DropReplica key).modCore c.core
      fun k => k.l1Store key off len v
  if (← get).ms.isGated h.bank then evictHome key

/-! ### Generations -/

/-- Lines of a tensor with a generation. -/
def MemSys.hasGen (ms : MemSys) (t : BitVec 6) (a i g : BitVec 16) : Bool :=
  ms.homes.any (fun h => match h.key with
    | .tensor t' a' i' g' _ => t' == t && a' == a && i' == i && g' == g
    | _ => false)

/-- The generation bump of TINV and TFLUSH at the MSU of dword 0 (R111): it waits for the scrubber while lines of the
new generation remain; cached copies of the descriptor are removed, lines of other generations are retired, and the
issuer's L1 copies of the descriptor's line (R141) and of the tensor's lines (R163) go. -/
def genBump (c : Ctx) (tid : Nat) (tdt : Word) : X (BitVec 16) := do
  let s ← get
  let a := s.localize (descAddr tdt tid)
  let (ms, v, bad) := s.ms.msuRead a 8
  require (!bad) causeMemUE (memUE false 7 1 0)
  let g : BitVec 16 := BitVec.ofNat 16 (v % 2 ^ 16 + 1)
  let i : BitVec 16 := BitVec.ofNat 16 tid
  if s.ms.hasGen c.tenant c.asid i g then
    set { s with ms := { s.ms with retired := ((c.tenant, c.asid, i, g) :: s.ms.retired).dedup } }
    throw (.wait .resource)
  else
    let ms := ms.portWrite a 8 (putFld v 0 16 g.toNat)
    let old := ms.homes.filterMap fun h => match h.key with
      | .tensor t' a' i' g' _ =>
        if t' == c.tenant && a' == c.asid && i' == i && g' != g then some (t', a', i', g') else none
      | _ => none
    let ms := ms.descDrop c.tenant c.asid i
    set ({ s with ms := { ms with
      retired := (old ++ ms.retired.filter (· != (c.tenant, c.asid, i, g))).dedup
      replicas := ms.replicas.filter fun r => match r.key with
        | .tensor t' a' i' g' _ => !(t' == c.tenant && a' == c.asid && i' == i && g' != g)
        | _ => true } }.modCore c.core fun k => (k.l1DropAddr a 8).l1DropTensor c.tenant c.asid i)
    return g

/-- The scrubber frees the lines of retired generations (R111, R119). -/
def MemSys.scrub (ms : MemSys) : MemSys :=
  { ms with homes := ms.homes.filter (fun h => !ms.isRetired h.key), retired := [] }

end Sys2Proof.Machine
end

