-- ==== Sys2Proof/Machine/Log.lean ====
section
/-! DEFINITION. What hardware tells the host and the tenants of: MSI-X messages and the error logs (R399, R413, R414). -/

namespace Sys2Proof.Machine

/-! ### MSI-X and the error log -/

/-- A vector raised (R399): a masked one sets its PBA bit, and the message is sent at the unmasking. -/
def State.raise (s : State) (f v : Nat) : State :=
  if !s.root.unmasked.contains (f, v) then
    { s with root := { s.root with
        pba := if s.root.pba.contains (f, v) then s.root.pba else (f, v) :: s.root.pba } }
  else { s with root := { s.root with msix := s.root.msix ++ [(f, v)] } }

/-- One entry of function f's error log (R413, R414), CORE and UNIT their low eight bits: dropped when the ring is full, or when its place lies
outside the function's windows (log 9). -/
def State.logIn (s : State) (f cls sev core unit : Nat) (addr detail : Word) : State :=
  let base := s.reg f 0x8_0000
  if !base.getLsbD 63 then s
  else
    let logn := max 4 (min 16 (bits base 0 5))
    let tail := bits (s.reg f 0x8_0008) 0 32
    let head := bits (s.reg f 0x8_0010) 0 32
    let raw := bits base 5 47 * 32 + 32 * (tail % 2 ^ logn)
    let pa := s.localize raw
    let inside := inDevice pa && (f == 0 || s.inWindows (BitVec.ofNat 6 (f - 1)) raw 32)
    if (tail + 2 ^ 32 - head) % 2 ^ 32 = 2 ^ logn || !inside then
      s.setReg f 0x8_0018 (toWord ((bits (s.reg f 0x8_0018) 0 32 + 1) % 2 ^ 32))
    else
      let d0 := cls * 2 ^ 56 + sev * 2 ^ 54 + core % 2 ^ 8 * 2 ^ 40 + unit % 2 ^ 8 * 2 ^ 32 + tail
      let time := (Config.freeWord s.tick).toNat
      let v := d0 + addr.toNat * 2 ^ 64 + detail.toNat * 2 ^ 128 + time * 2 ^ 192
      let s := { (s.homeStore pa 32 v) with tick := s.tick + 1 }
      let s := s.setReg f 0x8_0008 (toWord ((tail + 1) % 2 ^ 32))
      if base.getLsbD 62 then s.raise f 0 else s

/-- An event logged: the physical function's log receives every event, function f's its own (R413). -/
def State.elog (s : State) (f cls sev core unit : Nat) (addr detail : Word) : State :=
  let s := if f = 0 then s else s.logIn f cls sev core unit addr detail
  s.logIn 0 cls sev core unit addr detail

/-- An event of one core logged to its tenant. -/
def State.elogCore (s : State) (c : CoreId) (cls sev unit : Nat) (addr detail : Word) : State :=
  s.elog (s.core c).func cls sev c.toNat unit addr detail

end Sys2Proof.Machine
end

