-- ==== Sys2Proof/Machine/Access.lean ====
section
/-! DEFINITION. One access of a thread: the four spaces resolved to a place, tile states, and the read, write and
MSU operation of a place (R17 to R19, R73, R88 to R93, R105, R106, R124 to R127, R141, R165, R400, R411). -/

namespace Sys2Proof.Machine

/-! ### Tiles -/

def causeTileState : Nat := 9
def causeTilePoison : Nat := 0x0A

/-- The state code of a tile (R89). -/
def TileState.code : TileState → Nat
  | .empty => 0 | .filling => 1 | .ready => 2 | .draining => 3 | .poisoned => 4

/-- The tile-table entry as TSTAT returns it (R89). -/
def Tile.word (t : Tile) : Word :=
  toWord ((if t.v then 2 ^ 63 else 0) + t.st.code * 2 ^ 60 + (if t.pk then 2 ^ 59 else 0) + t.p.toNat * 2 ^ 54 +
    t.et.toNat * 2 ^ 49 + (if t.pot then 2 ^ 48 else 0) + t.readers.toNat * 2 ^ 40 + t.tenant.toNat * 2 ^ 34 +
    (if t.conf then 2 ^ 33 else 0) + (if t.susp then 2 ^ 32 else 0) + t.base.toNat * 2 ^ 12 + t.size.toNat)

/-- A tile of a core. -/
def Core.tile (k : Core) (t : Nat) : Tile := (k.tiles[t]?).getD Tile.free

/-- A tile of a core changed. -/
def Core.setTile (k : Core) (t : Nat) (e : Tile) : Core := { k with tiles := k.tiles.setIfInBounds t e }

def Core.modTile (k : Core) (t : Nat) (f : Tile → Tile) : Core := k.setTile t (f (k.tile t))

/-- First byte and bytes of a tile. -/
def Tile.start (t : Tile) : Nat := t.base.toNat * 4096
def Tile.bytes (t : Tile) : Nat := t.size.toNat * 4096

/-- The allocated tile of a tenant that covers bytes of the scratchpad (R88). -/
def Core.tileAt (k : Core) (tenant : BitVec 6) (off n : Nat) : Option Nat :=
  (List.range 256).find? fun i =>
    let t := k.tile i
    t.v && t.tenant == tenant && t.start ≤ off && off + n ≤ t.start + t.bytes

/-- The trap value of TILE_STATE and TILE_POISON (R92). -/
def tileValue (t : Nat) (e : Tile) (off : Nat) : Word :=
  toWord (t * 2 ^ 56 + e.st.code * 2 ^ 53 + (if e.susp then 2 ^ 51 else 0) + (if e.pot then 2 ^ 50 else 0) + off)

/-- The trap value when no tile of the tenant covers the bytes (R92). -/
def noTileValue (off : Nat) : Word := toWord (2 ^ 52 + off)

/-- A local load or store, or a named read, of a tile found (R91). -/
def tileLocal (t : Nat) (e : Tile) (store : Bool) (off : Nat) : X Unit :=
  match e.st with
  | .empty | .draining => trap causeTileState (tileValue t e off)
  | .filling => if e.susp || e.pot then trap causeTileState (tileValue t e off) else throw (.wait .resource)
  | .ready => if store && e.readers != 0 then throw (.wait .resource) else pure ()
  | .poisoned => trap causeTilePoison (tileValue t e off)

/-- A tile that an instruction names must be allocated with the issuer's tenant (R266). -/
def namedTile (t : Nat) : X Tile := do
  let k ← self
  let e := k.tile t
  if e.v && e.tenant == k.tk.tenant then return e
  else trap causeTileState (noTileValue 0)

/-- n bytes of a scratchpad. -/
def Core.scratchRead (k : Core) (off n : Nat) : Nat := k.scratch.read off n

def Core.scratchWrite (k : Core) (off n v : Nat) : Core :=
  { k with scratch := k.scratch.write off n v
           scratchPoison := k.scratchPoison.filter fun g => !(off ≤ g * 8 && g * 8 + 8 ≤ off + n) }

/-- One of the bytes lies in a poisoned 64-bit word of the scratchpad, the word that its SECDED covers (R95, R137). -/
def Core.scratchBad (k : Core) (off n : Nat) : Bool :=
  k.scratchPoison.any fun g => off / 8 ≤ g && g ≤ (off + n - 1) / 8

/-! ### Places -/

/-- Where one access lands. -/
inductive Spot where
  /-- a translated page that is not a tensor's -/
  | plain (h : Hit)
  /-- a tensor-mode line: descriptor, TID, tile number, byte of the line, the address of the syndrome -/
  | tensor (d : Desc) (tid n off addr : Nat)
  /-- a scratchpad byte -/
  | scratch (c : CoreId) (off tile : Nat)
  deriving DecidableEq, Repr

/-- The bytes of an access to a TB page as bytes of one tensor line (R106); n bytes, naturally aligned. -/
def tbMap (c : Ctx) (va : Nat) (n kind : Nat) : X Spot := do
  require (va / 2 ^ 48 % 256 == bits c.tdt 56 8) causeAccess (syndrome 7 7 kind va)
  let tid := va / 2 ^ 32 % 2 ^ 16
  let d ← descWell c tid kind va
  let lo := va % 2 ^ 32
  let base := d.base % 2 ^ 32
  (List.range n).forM fun j =>
    require (base ≤ lo + j && (d.byteOf (lo + j - base)).isSome) causeAccess (syndrome 7 7 kind (va + j))
  require (!(d.ro && (kind == 1 || kind == 3))) causePage (syndrome 1 7 kind va)
  match d.byteOf (lo - base) with
  | some (t, off) => return .tensor d tid t off va
  | none => trap causeAccess (syndrome 7 7 kind va)

/-- A GLOBAL access resolved (R18, R29, R106). -/
def resolveG (c : Ctx) (a : Word) (q : Ask) (fmtOk : Word → Nat → Bool) : X Spot := do
  let h ← resolveGlobal c a q fmtOk
  if pteTb h.pte then tbMap c (bits a 0 56) q.n q.kind else return .plain h

/-- A SCRATCH access resolved, with the tile's state (R18, R88, R91). -/
def resolveS (c : Ctx) (a n kind : Nat) : X Spot := do
  require (a + n ≤ 2 ^ 23) causeAccess (syndrome 7 7 kind a)
  let k := (← get).core c.core
  match k.tileAt c.tenant a n with
  | none => trap causeTileState (noTileValue a)
  | some t =>
    tileLocal t (k.tile t) (kind != 0) a
    return .scratch c.core a t

/-- A PEER access resolved (R18, R91, R165): every refusal is a PEER fault. -/
def resolveP (c : Ctx) (a n kind : Nat) : X Spot := do
  let off := a % 2 ^ 23
  require (a < 2 ^ 31 && off + n ≤ 2 ^ 23) causePeer (syndrome 7 7 kind a)
  let who : CoreId := BitVec.ofNat 8 (a / 2 ^ 23)
  let k := (← get).core who
  let window := syndrome 4 7 kind a
  require (k.tk.task.isSome && k.tk.tenant == c.tenant) causePeer window
  match k.tileAt c.tenant off n with
  | none => trap causePeer window
  | some t =>
    let e := k.tile t
    require (e.st == .ready) causePeer window
    if kind != 0 && e.readers != 0 then throw (.wait .resource)
    return .scratch who off t

/-- A TENSOR access resolved (R18, R103, R105, R258): element e of the tensor, whose width must be w; the nibble of a
4-bit element beside it. -/
def resolveT (c : Ctx) (tid : Nat) (e : Int) (w kind : Nat) : X (Spot × Nat) := do
  let addr := wrap 56 e
  require (0 ≤ e && e < 2 ^ 48) causeAccess (syndrome 7 7 kind addr)
  let d ← descWell c tid kind addr
  require (e < d.count) causeAccess (syndrome 7 7 kind addr)
  require (!(d.ro && kind != 0)) causePage (syndrome 1 7 kind addr)
  require (d.w == w) causeAccess (syndrome 6 7 kind addr)
  let i := d.coords e.toNat
  let p := d.position i
  return (.tensor d tid (d.tileNumber (d.tileOf i)) (p * w / 8) addr, if w = 4 then p % 2 else 0)

/-! ### MMIO -/

/-- The least generation recorded by any core or saved context (R371, R372). -/
def State.genSafe (s : State) : Word :=
  let m := (List.range 256).foldl (fun m i =>
    Nat.min m (s.core (BitVec.ofNat 8 i)).tk.gen.toNat) s.gcur.toNat
  toWord (s.dealer.saved.foldl (fun m x => Nat.min m x.body.tk.gen.toNat) m)

/-- A port of the links as LSTAT reads (R408). -/
def Port.word (p : Port) : Word :=
  toWord (p.st.toNat * 2 ^ 62 + p.lanes.toNat * 2 ^ 54 + p.replays.toNat)

/-- The identity register (R374). -/
def State.identity (s : State) : Word :=
  match s.step with
  | .a1 => 0x0000_01A1_0009_0100
  | .b0 => 0x0000_01B0_0009_0100

/-- A read of 8 bytes of function f's MMIO block at an 8-byte offset (R398): groups of the physical function read
zero elsewhere; write-only bits read zero. -/
def State.mmioRead (s : State) (f off : Nat) : Word :=
  if off < 8 then s.identity
  else if 0x1_0000 ≤ off && off < 0x1_0028 then
    if off = 0x1_0010 then
      let v := setBits (s.reg f off) 63 1 0
      if f = 0 then v else setBits v 32 7 f
    else s.reg f off
  else if 0x2_0000 ≤ off && off < 0x2_4000 then
    if f = 0 && off % 0x100 < 0x80 then s.reg 0 off else 0
  else if 0x3_0000 ≤ off && off < 0x3_0040 then s.reg f off
  else if off = 0x4_0000 then s.gcur
  else if off = 0x4_0008 then s.genSafe
  else if off = 0x4_0010 then s.reg f off
  else if off = 0x4_0018 then s.reg 0 off
  else if 0x5_0000 ≤ off && off < 0x5_0800 then
    if f = 0 then s.reg 0 off else 0
  else if 0x6_0000 ≤ off && off < 0x6_0030 then
    if f = 0 then s.reg 0 off else 0
  else if 0x7_0000 ≤ off && off < 0x7_0800 then
    if f = 0 then
      if off % 32 = 0 then
        setBits (setBits (s.reg 0 off) 63 1 0) 62 1
          (if s.inReset (BitVec.ofNat 6 ((off - 0x7_0000) / 32)) then 1 else 0)
      else 0
    else if off = 0x7_0000 then
      setBits (setBits (s.tctl (f - 1)) 63 1 0) 62 1 (if s.inReset (BitVec.ofNat 6 (f - 1)) then 1 else 0)
    else if off = 0x7_0008 then
      setBits (s.reg f off) 62 1 (if s.inReset (BitVec.ofNat 6 (f - 1)) then 1 else 0)
    else 0
  else if 0x7_2000 ≤ off && off < 0x7_4000 then
    if f = 0 then s.reg 0 off else 0
  else if 0x8_0000 ≤ off && off < 0x8_0020 then s.reg f off
  else if 0x9_0000 ≤ off && off < 0x9_1000 then
    if off % 16 = 8 then
      setBits (s.reg f off) 32 1 (if s.root.unmasked.contains (f, (off - 0x9_0000) / 16) then 0 else 1)
    else s.reg f off
  else if 0x9_1000 ≤ off && off < 0x9_1020 then
    toWord ((List.range 64).foldl (fun v i =>
      if s.root.pba.contains (f, (off - 0x9_1000) / 8 * 64 + i) then v + 2 ^ i else v) 0)
  else if f = 0 && off = 0xA_0000 then s.reg 0 off
  else if f = 0 && 0xA_0800 ≤ off && off < 0xA_08C0 then
    match s.links.ports[(off - 0xA_0800) / 8]? with
    | some p => p.word
    | none => 0
  else if f = 0 && 0xA_1000 ≤ off && off < 0xA_3000 then s.reg 0 off
  else if f ≠ 0 && 0x10_0000 ≤ off && off < 0x10_0000 + 32 * s.queues (f - 1) then s.reg f off
  else 0

/-- n bytes of the registers from an offset (log 11). -/
def State.mmioBytes (s : State) (f off n : Nat) : Nat :=
  (List.range n).foldr (fun j v => 256 * v + fld (s.mmioRead f ((off + j) / 8 * 8)).toNat (8 * ((off + j) % 8)) 8) 0

/-- A store that a core has sent to a register block. -/
def Move.isMmio : Move → Bool
  | .mmioStore .. => true
  | _ => false

/-- A store to registers of the bits that a mask selects in n bytes is sent to its block, which performs it as the next
moves, register by register (R398; log 11). -/
def State.mmioSend (s : State) (f off n bm v : Nat) : State :=
  let first := off / 8
  let at_ := fun (x j : Nat) => fld (x % 2 ^ (8 * n) * 2 ^ (8 * (off % 8))) (64 * j) 64
  let stores := (List.range ((off + n - 1) / 8 + 1 - first)).map fun j =>
    Move.mmioStore f ((first + j) * 8) (at_ bm j) (toWord (at_ v j))
  { s with agenda := s.agenda.takeWhile (·.isMmio) ++ stores ++ s.agenda.dropWhile (·.isMmio) }

/-! ### Outside places -/

/-- A write, or an operation at the MSU, of a device line that the host caches waits for its response (R400). -/
def bisnpCheck (ga n : Nat) : X Unit := do
  let s ← get
  match s.ms.hdm.find? fun l => lineOf ga ≤ l && l ≤ lineOf (ga + n - 1) with
  | none => return
  | some l =>
    set { s with ms := { s.ms with bisnp := if s.ms.bisnp.contains l then s.ms.bisnp else l :: s.ms.bisnp } }
    throw (.wait (.bisnp l))

/-- The thread waits for an answer of a node (R411). -/
def Wait.ofNode (node : Nat) : Wait → Bool
  | .remote n _ => n == node
  | _ => false

/-- The answer of another node to an access (R411): unreachable or refused is WINDOW, but for a request already made when the
node became unreachable, which stays without an answer; one that does not answer is waited for, and after 200 us the access
fails: that of an engine or of hardware has then been waited for (log 59), a copy's by ending it. True when it is performed. -/
def remoteCheck (c : Ctx) (h : Hit) (kind : Nat) : X Bool := do
  let s ← get
  let node := h.ga / 2 ^ 42
  let made := c.who == .thread s.cur && s.self.wait.ofNode node
  require (if s.reachable node then !s.links.refuse.contains node else made) causeAccess (syndrome 4 h.level kind h.va.toNat)
  if s.links.silent.contains node || !s.reachable node then
    match c.who with
    | .copy _ _ => throw (.wait (.remote node true))
    | .thread _ => pure ()
    | _ => return false
    if c.who != .thread s.cur then return false
    else if s.self.wait == .remote node true then
      modSelf fun k => { k with wait := .none }
      return false
    else throw (.wait (.remote node false))
  else return true

/-! ### Reads and writes of a place -/

/-- The key of an address-mode line (R99): tagged with the tenant when the page has TEN = 1. -/
def Hit.key (h : Hit) (c : Ctx) : LineKey :=
  .addr (if pteTen h.pte then some c.tenant else none) (lineOf h.ga)

/-- The home bank of a hit (R100). -/
def Hit.bank (h : Hit) : Nat × Nat := homeBank h.pa (pteHl h.pte)

/-- The clusters whose L1 may hold a host line are noted in the snoop filter (R116). -/
def MemSys.present (ms : MemSys) (line : Nat) (c : CoreId) : MemSys :=
  { ms with snoop := ms.snoop.map fun e =>
      if e.line == line then { e with presence := e.presence ||| ((1 : BitVec 64) <<< (clusterOf c).toNat) } else e }

/-- The dirty mark of a host line in the snoop filter (R116). -/
def MemSys.markDirty (ms : MemSys) (line : Nat) : MemSys :=
  { ms with snoop := ms.snoop.map fun e => if e.line == line then { e with dirty := true } else e }

/-- A line that a read or a store of a core uses is not cached: its page is NC, or its bank belongs to a gated cluster
(R99, R118). -/
def MemSys.bypass (ms : MemSys) (h : Hit) : Bool := pteNc h.pte || ms.isGated h.bank

/-- A read of n bytes of a translated place: the value, and whether a byte is poisoned (R99, R115, R118, R137). A read that
is not cached leaves the reader no older L1 copy (R152). A register block is reached through a page with NC = 0 as through one
with NC = 1 (DESIGN CHOICE, log 11); the Dealer reads at the home, as no core's L1 is its own. -/
def plainRead (c : Ctx) (h : Hit) (n kind : Nat) : X (Nat × Bool) := do
  let s ← get
  match mmioOf h.pa with
  | some (f, off) => return (s.mmioBytes f off n, false)
  | none =>
    if 2 ^ 42 ≤ h.ga && h.ga < hostBase then
      if ← remoteCheck c h kind then return ((← get).ms.rd h.ga n, (← get).ms.poisoned h.ga n) else return (0, true)
    else if s.ms.bypass h then
      let ms := s.ms.recall h.ga n
      set ({ s with ms := ms }.modCore c.core fun k => k.l1DropAddr h.ga n)
      return (ms.rd h.ga n, ms.poisoned h.ga n)
    else
      let key := h.key c
      let off := h.ga % 256
      let l1 := match c.who with
        | .dealer _ => none
        | _ => (s.core c.core).l1Line key
      match l1 with
      | some l => return (lineRead l.data off n, false)
      | none =>
        let line ← fillLine key h.ga h.bank
        modify fun s => match c.who with
        | .dealer _ => s
        | _ =>
          let s := if hostBase ≤ h.ga then { s with ms := s.ms.present (lineOf h.ga) c.core } else s
          if line.poison = 0 then s.modCore c.core fun k => k.l1Fill ⟨key, line.data, none⟩ else s
        return (lineRead line.data off n, fld line.poison.toNat off n != 0)

/-- A write of the bits that a mask selects in n bytes of a translated place (R99, R115); to a register block whatever NC is
(DESIGN CHOICE, log 11). -/
def plainWrite (c : Ctx) (h : Hit) (n bm v : Nat) : X Unit := do
  let s ← get
  match mmioOf h.pa with
  | some (f, off) =>
    set (s.mmioSend f off n bm v)
  | none =>
    let merge := fun (old : Nat) => (old &&& ((2 ^ (8 * n) - 1) ^^^ bm)) ||| (v &&& bm)
    if 2 ^ 42 ≤ h.ga && h.ga < hostBase then
      if ← remoteCheck c h 1 then
        modify fun s => { s with ms := s.ms.portWrite h.ga n (merge (s.ms.rd h.ga n)) }
      else modify fun s => s.elogCore c.core 14 1 0 h.va 0
    else
      bisnpCheck h.ga n
      let s ← get
      if s.ms.bypass h then
        let ms := s.ms.recall h.ga n
        set ({ s with ms := ms.portWrite h.ga n (merge (ms.rd h.ga n)) }.modCore c.core fun k => k.l1DropAddr h.ga n)
      else
        let key := h.key c
        let off := h.ga % 256
        let line ← fillLine key h.ga h.bank
        let w := merge (lineRead line.data off n)
        let line ← settleEntry line (lineWrite line.data off n w)
        modify fun s =>
          let ms := s.ms.storeLine line off n w h.ga
          let ms := if hostBase ≤ h.ga then ms.markDirty (lineOf h.ga) else ms
          { s with ms := ms }.modCore c.core fun k => (k.l1DropAlias key).l1Store key off n w

/-- A read of n bytes of a place for an access at an address; poison traps (R91, R137, R430). -/
def spotRead (c : Ctx) (p : Spot) (n kind addr : Nat) : X Nat := do
  match p with
  | .plain h =>
    let (v, bad) ← plainRead c h n kind
    require (!bad) causeMemUE (memUE false 7 kind addr)
    return v
  | .tensor d tid t off a =>
    let (v, bad) ← tensorRead c d tid t off n kind (some a)
    require (!bad) causeMemUE (memUE false 7 kind addr)
    return v
  | .scratch who off t =>
    let k := (← get).core who
    if k.scratchBad off n then
      modify fun s => s.modCore who fun k => k.modTile t fun e => { e with st := .poisoned }
      trap causeTilePoison (tileValue t (k.tile t) off)
    else return k.scratchRead off n

/-- What holds the bytes of a place, and where in it they begin. -/
def Spot.held (p : Spot) (c : Ctx) : Store × Nat :=
  match p with
  | .plain h => (.mem, h.ga)
  | .tensor d tid t off _ => (.line (d.key c tid t), off)
  | .scratch who off _ => (.scratch who, off)

/-- The outstanding run-ahead loads whose bytes a store of n bytes overlaps are squashed; DRPL counts them (R143, R144). -/
def Core.squash (k : Core) (w : Store × Nat) (n : Nat) : Core :=
  let hit := fun (a : Ahead) => a.bytes.any fun b => b.1 == w.1 && b.2.1 < w.2 + n && w.2 < b.2.1 + b.2.2
  let m := (k.cache.ahead.filter hit).length
  if m = 0 then k
  else { k.setCsr 0x041 (toWord (((k.csrAt 0x041).toNat + m) % 2 ^ 32)) with
    cache := { k.cache with ahead := k.cache.ahead.filter fun a => !hit a } }

/-- A store of a thread meets the core's run-ahead loads (R143). -/
def squashAhead (c : Ctx) (w : Store × Nat) (n : Nat) : X Unit := do
  match c.who with
  | .thread who => modify fun s => s.modCore who fun k => k.squash w n
  | _ => pure ()

/-- A write of the bits that a mask selects in n bytes of a place. -/
def spotWrite (c : Ctx) (p : Spot) (n bm v : Nat) : X Unit := do
  squashAhead c (p.held c) n
  match p with
  | .plain h => plainWrite c h n bm v
  | .tensor d tid t off a =>
    let line ← tensorFill c d tid t 1 (some a)
    let old := lineRead line.data off n
    tensorWrite c d tid t off n ((old &&& ((2 ^ (8 * n) - 1) ^^^ bm)) ||| (v &&& bm)) 1 (some a)
  | .scratch who off _ =>
    modify fun s => s.modCore who fun k =>
      k.scratchWrite off n ((k.scratchRead off n &&& ((2 ^ (8 * n) - 1) ^^^ bm)) ||| (v &&& bm))

/-- All bits of n bytes. -/
def allBits (n : Nat) : Nat := 2 ^ (8 * n) - 1

/-! ### Operations at the MSU -/

/-- An operation at the MSU of a translated location of n bytes (R124 to R127, R141): f gives from the old content the
new one, or none where nothing is written; the old content. An atomic to a host page is performed at the home of its line (R127), or at the host where the line is not
cached. A poisoned location changes nothing and traps MEM_UE. Every
operation fires the monitors of its words, except the reads of CLASP.WAIT (R135; fires = false). -/
def msuOp (c : Ctx) (h : Hit) (n : Nat) (f : Nat → Option Nat) (fires : Bool := true) : X Nat := do
  let touch := fun (ms : MemSys) => if fires then ms.fire h.ga n else ms
  if fires then squashAhead c (.mem, h.ga) n
  if 2 ^ 42 ≤ h.ga && h.ga < hostBase then
    if ← remoteCheck c h 3 then
      let s ← get
      let old := s.ms.rd h.ga n
      require (!s.ms.poisoned h.ga n) causeMemUE (memUE false 7 3 h.va.toNat)
      match f old with
      | some v => set { s with ms := s.ms.portWrite h.ga n v }
      | none => set { s with ms := touch s.ms }
      return old
    else trap causeMemUE (memUE false 7 3 h.va.toNat)
  else
    bisnpCheck h.ga n
    let s ← get
    if hostBase ≤ h.ga && !s.ms.bypass h then
      let line ← fillLine (h.key c) h.ga h.bank
      let off := h.ga % 256
      let old := lineRead line.data off n
      modify fun s => s.modCore c.core fun k => k.l1DropAddr h.ga n
      require (fld line.poison.toNat off n == 0) causeMemUE (memUE false 7 3 h.va.toNat)
      match f old with
      | some v =>
        let line ← settleEntry line (lineWrite line.data off n v)
        modify fun s => { s with ms := (s.ms.storeLine line off n v h.ga).markDirty (lineOf h.ga) }
      | none => modify fun s => { s with ms := touch s.ms }
      return old
    else
      let (ms, old, bad) := s.ms.msuRead h.ga n
      set ({ s with ms := ms }.modCore c.core fun k => k.l1DropAddr h.ga n)
      require (!bad) causeMemUE (memUE false 7 3 h.va.toNat)
      match f old with
      | some v => modify fun s => { s with ms := s.ms.portWrite h.ga n v }
      | none => modify fun s => { s with ms := touch s.ms }
      return old

/-! ### Raw and scaled pages -/

/-- The elements per scale, and the element size in half bytes, of a page format (R70). -/
def fmtHalves (fmt : Nat) : Nat := match fmt with
  | 3 => 1
  | 7 => 4
  | 8 => 4
  | _ => 2

/-- A read of raw bytes from a page (R72, R73): not the trailer, no reserved format or geometry. -/
def rawReadOk (n : Nat) (e : Word) (pa : Nat) : Bool :=
  match pteFmt e with
  | 0 => true
  | 8 => true
  | 7 => pteBlk e == 0 && pa % 4096 + n ≤ 3968
  | f => f ≤ 6 && pteBlk e ≤ 1 && pa % 4096 + n ≤ 3968

end Sys2Proof.Machine
end

