-- ==== Sys2Proof/Machine/Acn.lean ====
section
/-! DEFINITION. The accumulate network: packets, joins, pots and their adders, spilled pots (R328 to R345). -/

namespace Sys2Proof.Machine

/-! ### Members -/

/-- The saved context of a task's member that left a core. -/
def State.ctxAt (s : State) (task : Nat) (c : CoreId) : Option SavedCtx :=
  s.dealer.saved.find? fun x => x.task == task && x.core == c

/-- The core record of a task's member: its saved context while it has one, else the core itself (R345). -/
def State.member (s : State) (task : Nat) (c : CoreId) : Option Core :=
  match s.ctxAt task c with
  | some x => some x.body
  | none => if (s.core c).tk.task = some task then some (s.core c) else none

/-- A member's core record changed, on its core or in its saved context. -/
def State.modMember (s : State) (task : Nat) (c : CoreId) (f : Core → Core) : State :=
  if (s.ctxAt task c).isSome then
    { s with dealer := { s.dealer with saved := s.dealer.saved.map fun x =>
      if x.task == task && x.core == c then { x with body := f x.body } else x } }
  else if (s.core c).tk.task = some task then s.modCore c f
  else s

/-- A node field names this device (R20). -/
def State.isLocal (s : State) (n : BitVec 10) : Bool := n == 0 || n.toNat == s.node

/-- A packet sent; one for another device leaves over the links (R343). -/
def State.send (s : State) (p : Packet) : State :=
  if s.isLocal p.dstNode then { s with net := s.net ++ [p] } else s

/-- Two node fields name one device: 0 and this device's own number are the same (R20). -/
def State.sameNode (s : State) (a b : BitVec 10) : Bool := a == b || (s.isLocal a && s.isLocal b)

/-- The packet at an index, when it is the oldest of its channel between its two interfaces (R328). -/
def State.dueOn (s : State) (k : Nat) : Option Packet :=
  match s.net[k]? with
  | none => none
  | some p =>
    if (s.net.take k).any fun q => q.ch == p.ch && s.sameNode q.srcNode p.srcNode && q.srcCore == p.srcCore &&
        s.sameNode q.dstNode p.dstNode && q.dstCore == p.dstCore then none
    else some p

/-- The packet at an index taken off the network. -/
def State.takePacket (s : State) (k : Nat) : State := { s with net := s.net.eraseIdx k }

/-! ### Joins -/

def Core.join (k : Core) (j : BitVec 6) : Join := k.acn.joins[j.toNat]

def Core.setJoin (k : Core) (j : BitVec 6) (e : Join) : Core :=
  { k with acn := { k.acn with joins := k.acn.joins.set j.toNat e } }

/-- The state code of a join (R335). -/
def JoinState.code : JoinState → Nat
  | .free => 0 | .pending => 1 | .granted => 2 | .spilled => 3 | .over => 4 | .denied => 5 | .closed => 6

/-- The join word (R335). -/
def Join.word (e : Join) : Word :=
  toWord (e.st.code * 2 ^ 61 + (if e.fb != 0 then 2 ^ 60 else 0) + e.rule.toNat * 2 ^ 58 + e.n * 2 ^ 49 +
    e.left * 2 ^ 40 + e.node.toNat * 2 ^ 30 + e.core.toNat * 2 ^ 22 + e.tile.toNat * 2 ^ 14)

/-- A packet from a member's join to its pot. -/
def Join.packet (e : Join) (ch : BitVec 2) (c : CoreId) (j : BitVec 6) (task : Nat) (load : Payload) : Packet :=
  { ch := ch, srcNode := 0, srcCore := c, j := j, task := task, dstNode := e.node, dstCore := e.core,
    tile := e.tile, serial := e.serial, load := load, lent := [] }

/-- A notice from a pot on a tile to a joiner. -/
def Joiner.notice (x : Joiner) (c : CoreId) (p : Pot) (load : Payload) : Packet :=
  { ch := 1, srcNode := 0, srcCore := c, j := x.j, task := x.task, dstNode := x.node, dstCore := x.core,
    tile := p.tile, serial := p.serial, load := load, lent := [] }

/-- POT.CLOSE.J on an entry of a member (R333): a withdrawal, or FORFEIT of the antes left; the entry is FREE. -/
def State.closeJoin (s : State) (task : Nat) (c : CoreId) (j : BitVec 6) : State :=
  match s.member task c with
  | none => s
  | some k =>
    let e := k.join j
    let s := match e.st with
      | .pending => s.send (e.packet 0 c j task .withdraw)
      | .granted | .spilled => if e.left = 0 then s else s.send (e.packet 1 c j task (.forfeit e.left))
      | _ => s
    s.modMember task c fun k => k.setJoin j Join.free

/-- Every join of a member closed (R333). -/
def State.closeJoins (s : State) (task : Nat) (c : CoreId) : State :=
  (List.range 64).foldl (fun s j => s.closeJoin task c (BitVec.ofNat 6 j)) s

/-! ### Pots -/

/-- Bytes of an accumulator while the pot fills (R329). -/
def Pot.fillBytes (p : Pot) : Nat := if p.rule = 1 then 16 else 4

/-- Bytes of a result element (R329). -/
def Pot.outBytes (p : Pot) : Nat := if p.rule = 1 && !p.fmt then 12 else 4

/-- Bytes the tile must hold (R329). -/
def potBytes (rule : BitVec 2) (log : Bool) (e : Nat) : Nat :=
  e * (if rule = 1 then 16 else 4) + (if log then 1024 else 0) + 2048

/-- The pot has completed (R333). -/
def Pot.complete (p : Pot) : Bool := p.arrived + p.forf == p.expect

/-- The pot word (R334); OVF is known at the conversion. -/
def Pot.word (p : Pot) (ovf : Bool) : Word :=
  toWord (2 ^ 63 + (if p.complete then 2 ^ 62 else 0) + (if p.fbcnt != 0 then 2 ^ 61 else 0) +
    (if p.forfany then 2 ^ 60 else 0) + (if ovf then 2 ^ 59 else 0) + p.fl.toNat * 2 ^ 52 + p.rule.toNat * 2 ^ 50 +
    (if p.fmt then 2 ^ 49 else 0) + (if p.log then 2 ^ 48 else 0) + p.expect * 2 ^ 36 + p.granted * 2 ^ 27 +
    p.arrived * 2 ^ 18 + p.fbcnt * 2 ^ 9 + p.forf)

/-- The pot of a core on a tile. -/
def Core.pot (k : Core) (tile : BitVec 8) : Option Pot := k.acn.pots.find? (·.tile == tile)

def Core.putPot (k : Core) (p : Pot) : Core :=
  { k with acn := { k.acn with pots := k.acn.pots.map fun q => if q.tile == p.tile then p else q } }

def Core.dropPot (k : Core) (tile : BitVec 8) : Core :=
  { k with acn := { k.acn with pots := k.acn.pots.filter (·.tile != tile) } }

/-- One element added by a rule (R330): the new accumulator and the flags recorded. -/
def potAdd (rule : BitVec 2) (acc x : Nat) : Nat × Flags :=
  match rule with
  | 0 => fp32.add 0 acc x
  | 1 => (wrap 128 (signed 128 acc + signed 96 x), 0)
  | 2 => ((acc + x) % 2 ^ 32, 0)
  | _ => fp32.minmax true acc x

/-- The initial value of an accumulator (R330). -/
def potInitial (rule : BitVec 2) : Nat := if rule = 3 then 0xFF80_0000 else 0

/-- The elements of a number, n of w bits, lowest first. -/
def elemsOf (w v : Nat) : Nat → List Nat
  | 0 => []
  | n + 1 => v % 2 ^ w :: elemsOf w (v / 2 ^ w) n

/-- A number from elements of w bits, lowest first. -/
def ofElems (w : Nat) : List Nat → Nat
  | [] => 0
  | v :: vs => v % 2 ^ w + 2 ^ w * ofElems w vs

/-- The four flag bits a pot records: NV, OF, UF, NX (R334). -/
def potFlags (f : Flags) : BitVec 4 :=
  (if f.getLsbD 4 then 8 else 0) ||| (if f.getLsbD 2 then 4 else 0) ||| (if f.getLsbD 1 then 2 else 0) |||
    (if f.getLsbD 0 then 1 else 0)

/-- A joiner's record is of the join entry that a packet is about. -/
def Joiner.sentBy (x : Joiner) (q : Packet) : Bool :=
  x.node == q.srcNode && x.core == q.srcCore && x.j == q.j && x.task == q.task

/-- Two records of joiners are of one join entry. -/
def Joiner.same (x y : Joiner) : Bool := x.node == y.node && x.core == y.core && x.j == y.j && x.task == y.task

/-- n antes taken from the first record of a joiner that holds them. -/
def takeAntes (x : Joiner) (n : Nat) : List Joiner → List Joiner
  | [] => []
  | y :: ys => if y.same x && n ≤ y.left then { y with left := y.left - n } :: ys else y :: takeAntes x n ys

/-- The next arrival of a pot logged and counted; late: absorbed into a spilled image (R332, R333, R345). -/
def Core.logArrival (k : Core) (p : Pot) (x : Joiner) (rank : BitVec 8) (fb late : Bool) : Core :=
  let word := 2 ^ 31 + (if fb then 2 ^ 30 else 0) + (if late then 2 ^ 29 else 0) + rank.toNat * 2 ^ 18 +
    x.node.toNat * 2 ^ 8 + x.core.toNat
  let k := if p.log then
      k.scratchWrite ((k.tile p.tile.toNat).start + p.e * p.fillBytes + 4 * p.arrived) 4 word
    else k
  k.putPot { p with
    arrived := p.arrived + 1
    fbcnt := if fb then p.fbcnt + 1 else p.fbcnt
    joiners := takeAntes x 1 p.joiners }

/-- A whole contribution added by the pot's rule, logged and counted (R330). -/
def Core.contribute (k : Core) (p : Pot) (x : Joiner) (rank : BitVec 8) (elems : List Nat) : Core :=
  let w := 8 * p.fillBytes
  let a := (k.tile p.tile.toNat).start
  let old := elemsOf w (k.scratchRead a (p.e * p.fillBytes)) p.e
  let sums := (old.zip elems).map fun q => potAdd p.rule q.1 q.2
  let fl := sums.foldl (fun f q => f ||| potFlags q.2) p.fl
  let k := k.scratchWrite a (p.e * p.fillBytes) (ofElems w (sums.map (·.1)))
  k.logArrival { p with fl := fl } x rank false p.spilled

/-- Where the pot that a packet is for stands, the opening of the tile that granted the join (R347): on the core, or spilled in
a saved context; with the joiner's record. -/
def State.potOf (s : State) (q : Packet) : Option (Option Nat × Pot × Joiner) :=
  let look : Core → Option (Pot × Joiner) := fun k => match k.pot q.tile with
    | none => none
    | some p => if p.serial != q.serial then none
        else (p.joiners.find? fun (x : Joiner) => x.sentBy q && 0 < x.left).map fun (x : Joiner) => (p, x)
  match look (s.core q.dstCore) with
  | some (p, x) => some (none, p, x)
  | none => s.dealer.saved.findSome? fun (z : SavedCtx) =>
      if z.core == q.dstCore then (look z.body).map fun r => (some z.task, r.1, r.2) else none

/-- The record that holds a pot, changed. -/
def State.modPotHolder (s : State) (q : Packet) (task : Option Nat) (f : Core → Core) : State :=
  match task with
  | none => s.modCore q.dstCore f
  | some t => s.modMember t q.dstCore f

/-- Antes of a joiner returned to a pot (R333). -/
def Core.forfeit (k : Core) (p : Pot) (x : Joiner) (n : Nat) : Core :=
  if n = 0 then k
  else k.putPot { p with
    forf := p.forf + n
    forfany := true
    joiners := takeAntes x n p.joiners }

/-- A pot closed: its tile EMPTY, CLOSED to every joiner (R337). -/
def State.closePot (s : State) (task : Nat) (c : CoreId) (tile : BitVec 8) : State :=
  match (s.member task c).bind fun k => k.pot tile with
  | none => s
  | some p =>
    let s := s.modMember task c fun k =>
      (k.dropPot tile).modTile tile.toNat fun e => { e with st := .empty, pot := false }
    p.joiners.foldl (fun s x => s.send (x.notice c p .closed)) s

/-- Every pot of a member closed (R337). -/
def State.closePots (s : State) (task : Nat) (c : CoreId) : State :=
  match s.member task c with
  | none => s
  | some k => k.acn.pots.foldl (fun s p => s.closePot task c p.tile) s

/-- The answer of an open pot to a join for n antes (R333, R337): the tenant must be the owner's. -/
def State.answerJoin (s : State) (c : CoreId) (p : Pot) (x : PendJoin) : State :=
  let k := s.core c
  let y : Joiner := { node := x.node, core := x.core, j := x.j, task := x.task, left := x.n, spilled := false }
  let sameTenant := if s.isLocal x.node then x.tenant == k.tk.tenant
    else match s.pairOf x.node.toNat x.tenant.toNat with
      | some u => u == k.tk.tenant && !s.inReset u
      | none => false
  if !sameTenant then s.send (y.notice c p .denied)
  else if p.expect < p.granted + x.n then s.send (y.notice c p .over)
  else
    let s := s.modCore c fun k => k.putPot { p with granted := p.granted + x.n, joiners := p.joiners ++ [y] }
    s.send (y.notice c p (.grant x.n p.rule p.fmt p.e p.wace))

/-- The pending joins that name a tile answered in arrival order (R337). -/
def State.answerPending (s : State) (c : CoreId) (tile : BitVec 8) : State :=
  let due := (s.core c).acn.pend.filter (·.tile == tile)
  let s := s.modCore c fun k => { k with acn := { k.acn with pend := k.acn.pend.filter (·.tile != tile) } }
  due.foldl (fun s x => match (s.core c).pot tile with
    | some p => s.answerJoin c p x
    | none => s) s

/-- The open pots of a core spilled, those that have not completed, and every joiner with unspent antes told (R344, R345). -/
def State.spillPots (s : State) (c : CoreId) : State :=
  (s.core c).acn.pots.foldl (fun (s : State) p =>
    if p.complete || p.spilled then s
    else
      let told := p.joiners.filter fun x => 0 < x.left
      let p' := { p with spilled := true, joiners := p.joiners.map fun x => if 0 < x.left then { x with spilled := true } else x }
      told.foldl (fun (s : State) x => s.send (x.notice c p .spilled)) (s.modCore c fun k => k.putPot p')) s

/-- A contribution that the thread of a core has sent, one of its writes (R161), has not been performed at its pot. -/
def State.sending (s : State) (c : CoreId) : Bool := s.net.any fun p =>
  s.isLocal p.srcNode && p.srcCore == c && (s.core c).tk.task == some p.task && match p.load with
    | .data .. => true
    | _ => false

/-- A release completes only when every contribution of the thread has been performed (R156). -/
def waitSends : X Unit := do
  let s ← get
  awaiting (!s.sending s.cur)

/-- A vector register returns from LENT to FULL (R84). -/
def VecUnit.giveBack (u : VecUnit) (r : Nat) : VecUnit :=
  { u with st := match u.st[r]? with
      | some .lent => u.st.setIfInBounds r .full
      | _ => u.st }

/-- The registers lent to a packet return (R84), but for one that another packet on its way still reads. -/
def State.returnLent (s : State) (q : Packet) : State :=
  let due := q.lent.filter fun r => !(s.net.any fun (p : Packet) =>
    p.task == q.task && p.srcCore == q.srcCore && s.isLocal p.srcNode && p.lent.contains r)
  s.modMember q.task q.srcCore fun k => { k with vec := due.foldl (fun u r => u.giveBack r.toNat) k.vec }

end Sys2Proof.Machine
end

