-- ==== Sys2Proof/Machine/Handles.lean ====
section
/-! DEFINITION. Completion handles, engine events, and how a copy ends (R181, R293, R301 to R303, R357). -/

namespace Sys2Proof.Machine

/-! ### Completion codes (R201) -/

def stOK : BitVec 4 := 0
def stPAGE : BitVec 4 := 1
def stACCESS : BitVec 4 := 2
def stMEMUE : BitVec 4 := 3
def stMETA : BitVec 4 := 4
def stTAGFAIL : BitVec 4 := 5
def stREPLAY : BitVec 4 := 6
def stTDILOST : BitVec 4 := 7
def stABORTED : BitVec 4 := 8
def stSHAPE : BitVec 4 := 9
def stTILE : BitVec 4 := 10

/-! ### The completion table -/

/-- The state code of a completion entry (R181). -/
def HandleState.code : HandleState → Nat
  | .free => 0 | .busy => 1 | .done => 2

/-- A completion entry as CSTAT and MSTAT return it (R181). -/
def Handle.word (h : Handle) : Word :=
  toWord (h.st.code * 2 ^ 62 + h.kind.toNat * 2 ^ 59 + h.status.toNat * 2 ^ 55 + h.detail.toNat)

/-- What a wait or a status read returns for an invalid handle: STATUS ABORTED (R181). -/
def abortedWord : Word := toWord (stABORTED.toNat * 2 ^ 55)

def Core.handle (k : Core) (h : BitVec 8) : Handle := k.eng.handles[h.toNat]

def Core.setHandle (k : Core) (h : BitVec 8) (e : Handle) : Core :=
  { k with eng := { k.eng with handles := k.eng.handles.set h.toNat e } }

/-- An entry DONE with a status and a detail (R181). -/
def Core.completeHandle (k : Core) (h : BitVec 8) (status : BitVec 4) (detail : Nat) : Core :=
  k.setHandle h { (k.handle h) with st := .done, status := status, detail := BitVec.ofNat 32 detail }

/-! ### The execute stream and the inboxes (R180) -/

/-- Messages that an engine's inbox holds, by the KIND of its handles: 32, 4, 16 (R180). -/
def inboxSize (kind : Nat) : Nat := match kind with
  | 0 => 32
  | 1 => 4
  | _ => 16

/-- The handles of the commands issued to an engine and not yet taken up by it, oldest first. -/
def Engines.issued (e : Engines) (kind : Nat) : List (BitVec 8) := match kind with
  | 0 => (e.copies.filter (·.phase == .queued)).map (·.h)
  | 1 => (e.mats.filter (!·.active)).map (·.h)
  | _ => (e.flushes.filter (!·.active)).map (·.h)

/-- The messages in an inbox: the commands issued that the execute stream no longer holds (R180). -/
def Engines.inbox (e : Engines) (kind : Nat) : List (BitVec 8) := (e.issued kind).filter fun h => !e.stream.contains h

/-- The execute stream delivers its oldest commands, while their inboxes have room (R180). -/
def Engines.feed (e : Engines) : Nat → Engines
  | 0 => e
  | n + 1 => match e.stream with
    | [] => e
    | h :: rest =>
      if (e.inbox (e.handles[h.toNat]).kind.toNat).length < inboxSize (e.handles[h.toNat]).kind.toNat then
        Engines.feed { e with stream := rest } n
      else e

/-- The inboxes filled from the execute stream. -/
def Core.feed (k : Core) : Core := { k with eng := k.eng.feed k.eng.stream.length }

/-- An engine command enters the execute stream (R180): a full inbox holds it there, and those behind it. -/
def Core.enterStream (k : Core) (h : BitVec 8) : Core :=
  { k with eng := { k.eng with stream := k.eng.stream ++ [h] } }.feed

/-- An engine command leaves the execute stream with its operation. -/
def Core.leaveStream (k : Core) (h : BitVec 8) : Core :=
  { k with eng := { k.eng with stream := k.eng.stream.filter (· != h) } }.feed

/-- The lowest FREE completion entry (R180). -/
def Core.freeHandle (k : Core) : Option (BitVec 8) :=
  ((List.range 256).find? fun i => (k.handle (BitVec.ofNat 8 i)).st == .free).map (BitVec.ofNat 8)

/-- Every entry is DONE (R180). -/
def Core.handlesAllDone (k : Core) : Bool :=
  (List.range 256).all fun i => (k.handle (BitVec.ofNat 8 i)).st == .done

/-- An ENGINE event becomes due (R293). -/
def Core.postEngine (k : Core) (h : BitVec 8) (status : BitVec 4) (kind : BitVec 3) (event : Word) : Core :=
  { k with eng := { k.eng with events := k.eng.events ++ [⟨h, status, kind, event⟩] } }

/-! ### How a copy ends -/

/-- The context a copy's accesses are translated in: that of its issue (R298). -/
def CopyOp.ctx (o : CopyOp) (tenant : BitVec 6) (c : CoreId) : Ctx :=
  { tenant := tenant, asid := o.asid, root := o.ptroot, tdt := o.tdt, user := !o.super, core := c, who := .copy c o.h }

/-- The scope of a copy's reply word (R298). -/
def CopyOp.scope (o : CopyOp) : Nat := bits o.d0 59 3

/-- The image of a completion entry that a reply word holds (R303). -/
def replyImage (status : BitVec 4) (detail : Nat) : Nat := 2 ^ 63 + status.toNat * 2 ^ 55 + detail % 2 ^ 32

/-- A copy writes a reply word (R298, R303). -/
def CopyOp.replies (o : CopyOp) : Bool := o.reply != 0 && bits o.reply 0 3 == 0

/-- REPLY translated, as the copy's first access, to a place that is no register block (R21; DESIGN CHOICE, log 33); pinned from
then on (R301). -/
def copyPin (o : CopyOp) (x : Ctx) : X CopyOp := do
  if !o.replies || o.rep.isSome then return o
  else
    let va := canon56 o.reply
    let h ← resolveGlobal x va { kind := 1, n := 8, noMmio := true, rewalk := o.resumed } anyFormat
    if pteTb h.pte then
      match ← tbMap x (bits va 0 56) 8 1 with
      | .tensor d tid n off _ => return { o with rep := some ⟨h.pte, h.level, h.pa, h.ga, some (d.dw, tid, n, off)⟩ }
      | _ => return o
    else return { o with rep := some ⟨h.pte, h.level, h.pa, h.ga, none⟩ }

/-- The place of a pinned reply word. -/
def ReplyPin.spot (r : ReplyPin) (va : Word) : Spot :=
  match r.line with
  | some (dw, tid, n, off) => .tensor ⟨dw⟩ tid n off (bits va 0 56)
  | none => .plain ⟨r.pte, r.level, r.pa, r.ga, va⟩

/-- The reply word written, after every other write of the copy, with release semantics (R303). -/
def copyReply (o : CopyOp) (x : Ctx) (status : BitVec 4) (detail : Nat) : X Unit := do
  match o.rep with
  | none => return
  | some r =>
    modify fun s => s.release
    spotWrite x (r.spot (canon56 o.reply)) 8 (allBits 8) (replyImage status detail)

/-- A tile side freed of what a copy holds on it (R90): filled, poisoned, drained, or as before the copy; a source in which the
copy met an uncorrectable error is POISONED already. -/
def Core.copyTiles (k : Core) (o : CopyOp) (status : BitVec 4) : Core :=
  let k := match o.dstTile with
    | none => k
    | some t =>
      if status = stOK then k.modTile t.toNat fun e => { e with st := .ready, susp := false }
      else if status = stMEMUE || status = stTAGFAIL then
        k.modTile t.toNat fun e => { e with st := .poisoned, susp := false }
      else k.setTile t.toNat o.prevDst
  match o.srcTile with
  | none => k
  | some t =>
    if o.keep then k.modTile t.toNat fun e => { e with readers := e.readers - 1 }
    else if status = stOK then k.modTile t.toNat fun e => { e with st := .empty, susp := false }
    else if (k.tile t.toNat).st = .poisoned then k.modTile t.toNat fun e => { e with susp := false }
    else k.setTile t.toNat o.prevSrc

/-- A copy with a kept source tile stops reading it. -/
def Core.copyUnread (k : Core) (o : CopyOp) : Core :=
  match o.srcTile with
  | some t => if o.keep then k.modTile t.toNat fun e => { e with readers := e.readers - 1 } else k
  | none => k

/-- A copy leaves its engine with its handle DONE. -/
def Core.dropCopy (k : Core) (o : CopyOp) (status : BitVec 4) (detail : Nat) : Core :=
  ({ k with eng := { k.eng with copies := k.eng.copies.filter (·.h != o.h) } }.leaveStream o.h).completeHandle o.h status
    detail

/-- The reply word of a copy that ends, its address translated where it has not been (R301, R303): a write that waits makes the
end wait; one that cannot be translated or performed is left out, one to a node that is gone or does not answer is logged (R411). -/
def endReply (o : CopyOp) (x : Ctx) (status : BitVec 4) (detail : Nat) : X Unit := fun s =>
  match (do let o ← copyPin o x; copyReply o x status detail : X Unit) s with
  | .error (.wait (.remote _ true)) _ => .ok () (s.elogCore x.core 14 1 0 (canon56 o.reply) 0)
  | .error (.wait w) t => .error (.wait w) t
  | .error _ _ => .ok () s
  | r => r

/-- A copy of a core ends with a final status: reply word, tile sides, handle (R302, R303). -/
def finishCopy (c : CoreId) (o : CopyOp) (status : BitVec 4) (detail : Nat) (sides : Bool) : X Unit := do
  let x := o.ctx ((← get).core c).tk.tenant c
  endReply o x status detail
  modify fun s => s.modCore c fun k => (if sides then k.copyTiles o status else k.copyUnread o).dropCopy o status detail

/-- Every copy of a core ends ABORTED, at its task's end (R175, R302). -/
def abortCopies (c : CoreId) : X Unit := do
  ((← get).core c).eng.copies.forM fun o => finishCopy c o stABORTED o.u false

/-- A running copy of some core holds the pinned translation of its reply word (R301) where a condition on its tenant, the
copy and the pin holds: the reply is written first (R38, R41). -/
def State.replyHeld (s : State) (p : BitVec 6 → CopyOp → ReplyPin → Bool) : Bool :=
  allCores.any fun c =>
    let k := s.core c
    k.eng.copies.any fun o => o.phase == .running && o.rep.any (p k.tk.tenant o)

/-- The pinned reply translations of the copies that meet a condition are given up, and made again when the copy goes on (R24;
of suspended copies R38 and R41 too; DEDUCED, log 62). -/
def Core.unpinReplies (k : Core) (p : CopyOp → ReplyPin → Bool) : Core :=
  if k.eng.copies.any fun o => o.rep.any (p o) then
    { k with eng := { k.eng with copies := k.eng.copies.map fun o => if o.rep.any (p o) then { o with rep := none } else o } }
  else k

/-- The same on every core and in every saved context; the condition also sees the tenant. -/
def State.unpinReplies (s : State) (p : BitVec 6 → CopyOp → ReplyPin → Bool) : State :=
  let s := s.modAll fun k => k.unpinReplies (p k.tk.tenant)
  { s with dealer := { s.dealer with saved := s.dealer.saved.map fun x =>
      { x with body := x.body.unpinReplies (p x.body.tk.tenant) } } }

/-- The registers of C of a matrix operation. -/
def MatOp.cRegs (o : MatOp) : List Nat := (List.range (if o.wac then 3 else 1)).map (o.c.toNat + ·)

/-- The registers that a matrix operation owns return to FULL (R84). -/
def MatOp.freeC (o : MatOp) (k : Core) : Core :=
  if o.fail.isSome || o.kind = 3 then k
  else { k with vec := { k.vec with st := o.cRegs.foldl (fun v r => v.setIfInBounds r .full) k.vec.st } }

/-- Every engine operation of a core abandoned: handles ABORTED, claims and events gone, C registers FULL (R84, R175, R307). -/
def Core.abandon (k : Core) : Core :=
  let k := (List.range 256).foldl (fun k i =>
    if (k.handle (BitVec.ofNat 8 i)).st = .busy then k.completeHandle (BitVec.ofNat 8 i) stABORTED 0 else k) k
  let k := k.eng.mats.foldl (fun k o => o.freeC k) k
  { k with eng := { k.eng with mats := [], flushes := [], stream := [], events := [] } }

end Sys2Proof.Machine
end

