-- ==== Sys2Proof/Machine/Tasks.lean ====
section
/-! DEFINITION. Tasks: launch records, region control blocks, the completion word and the signals, the abnormal end
and its fault-domain policy, the start of a member (R170 to R176, R351, R381 to R383). -/

namespace Sys2Proof.Machine

/-! ### Launch records (R381) -/

def Task.dw (t : Task) (i : Nat) : Word := (t.launch[i]?).getD 0
def Task.gang (t : Task) : Nat := bits (t.dw 0) 56 8 + 1
def Task.entry (t : Task) : Word := canon56 (addrField (t.dw 0))
def Task.msix (t : Task) : Bool := (t.dw 0).getLsbD 2
def Task.aff (t : Task) : Nat := bits (t.dw 0) 0 2
def Task.ndep (t : Task) : Nat := bits (t.dw 1) 56 3
def Task.args (t : Task) : Word := toWord (bits (t.dw 1) 0 56)
def Task.codegen (t : Task) : Word := t.dw 2
def Task.gmap (t : Task) : Word := t.dw 3 &&& 0x00FF_FFFF_FFFF_FF00
def Task.msixv (t : Task) : Nat := bits (t.dw 3) 0 8
def Task.compl (t : Task) : Word := addrField (t.dw 4)
def Task.nsig (t : Task) : Nat := bits (t.dw 4) 0 3
def Task.bind (t : Task) : Word := t.dw 5 &&& 0x00FF_FFFF_FFFF_FF00
def Task.depbase (t : Task) : Word := addrField (t.dw 6)
/-- The virtual address of wait counter k. -/
def Task.waitAt (t : Task) (k : Nat) : Word := canon56 (t.depbase + toWord (8 * bits (t.dw 7) (32 + 8 * k) 8))
/-- The virtual address of signal counter k. -/
def Task.signalAt (t : Task) (k : Nat) : Word := canon56 (t.depbase + toWord (8 * bits (t.dw 7) (8 * k) 8))
/-- The function of the task's tenant. -/
def Task.func (t : Task) : Nat := t.tenant.toNat + 1

/-- The saved contexts of a task. -/
def State.savedOf (s : State) (id : Nat) : List SavedCtx := s.dealer.saved.filter (·.task == id)

/-- The task of a number. -/
def State.task (s : State) (id : Nat) : Option Task := s.dealer.tasks.find? (·.id == id)

def State.putTask (s : State) (t : Task) : State :=
  { s with dealer := { s.dealer with tasks := s.dealer.tasks.map fun u => if u.id == t.id then t else u } }

/-! ### Region control blocks (R171) -/

def Node.at_ (n : Node) (i : Nat) : Word := (n.dw[i]?).getD 0
def Node.valid (n : Node) : Bool := (n.at_ 0).getLsbD 63
def Node.lock (n : Node) : Bool := (n.at_ 0).getLsbD 62
def Node.prio (n : Node) : Nat := bits (n.at_ 0) 58 4
def Node.escalate (n : Node) : Bool := (n.at_ 0).getLsbD 57
def Node.depth (n : Node) : Nat := bits (n.at_ 0) 54 3
def Node.parent (n : Node) : Nat := bits (n.at_ 0) 32 16
def Node.maxcores (n : Node) : Nat := min 256 (bits (n.at_ 1) 55 9)
def Node.spquota (n : Node) : Nat := bits (n.at_ 1) 43 12
def Node.potslots (n : Node) : Nat := bits (n.at_ 1) 36 7
def Node.pwrshare (n : Node) : Nat := bits (n.at_ 1) 20 8
def Node.drrw (n : Node) : Nat := bits (n.at_ 1) 12 8
def Node.potdefer (n : Node) : Nat := bits (n.at_ 2) 32 32
def Node.quantum (n : Node) : Nat := max 1000 (bits (n.at_ 2) 0 32)
def Node.tenant (n : Node) : Nat := bits (n.at_ 3) 58 6
def Node.holdlim (n : Node) : Nat := bits (n.at_ 3) 0 32
def Node.qbase (n : Node) : Nat := bits (n.at_ 4) 6 46 * 64
def Node.qlog (n : Node) : Nat := bits (n.at_ 4) 0 5
def Node.qtail (n : Node) : Nat := bits (n.at_ 5) 32 32
def Node.qhead (n : Node) : Nat := bits (n.at_ 5) 0 32
def Node.savebase (n : Node) : Nat := bits (n.at_ 6) 12 40 * 4096
def Node.slotlog (n : Node) : Nat := bits (n.at_ 6) 0 5
def Node.stklog (n : Node) : Nat := bits (n.at_ 7) 56 5
def Node.stkbase (n : Node) : Nat := bits (n.at_ 7) 0 56
def Node.deficit (n : Node) : Int := signed 32 (bits (n.at_ 8) 32 32)

/-- Every reserved field is zero. -/
def Node.reservedOk (n : Node) : Bool :=
  bits (n.at_ 0) 48 6 == 0 && bits (n.at_ 0) 12 20 == 0 && bits (n.at_ 1) 0 12 == 0 && bits (n.at_ 3) 32 26 == 0 &&
    bits (n.at_ 4) 52 12 == 0 && bits (n.at_ 4) 5 1 == 0 && bits (n.at_ 6) 52 12 == 0 && bits (n.at_ 6) 5 7 == 0 &&
    bits (n.at_ 7) 61 3 == 0 && bits (n.at_ 8) 9 23 == 0 && [9, 10, 11, 12, 13, 14, 15].all fun i => n.at_ i == 0

/-- The RCOUNT of a tenant (R379). -/
def State.rcount (s : State) (t : Nat) : Nat := bits (s.tenantEntry t 2) 0 17

/-- The physical address of node r of a tenant, as the tenant table gives it (R171, R379). -/
def State.nodeRaw (s : State) (t r : Nat) : Nat := bits (s.tenantEntry t 0) 7 45 * 128 + 128 * r

/-- The same in local form. -/
def State.nodeAddr (s : State) (t r : Nat) : Nat := s.localize (s.nodeRaw t r)

/-- What hardware reads at the home of an address; nothing is left changed. -/
def State.peek (s : State) (pa n : Nat) : Nat × Bool := let r := s.ms.homeRead pa n; (r.2.1, r.2.2)

/-- The node at place r of a tenant's array as hardware reads it; none outside the tenant's windows, or poisoned. -/
def State.nodeAt (s : State) (t r : Nat) : Option Node :=
  if s.inTables (BitVec.ofNat 6 t) (s.nodeRaw t r) 128 then
    let (v, bad) := s.peek (s.nodeAddr t r) 128
    if bad then none else some ⟨r, (List.range 16).map fun i => toWord (fld v (64 * i) 64)⟩
  else none

/-- Node r of a tenant; none beyond RCOUNT. -/
def State.node? (s : State) (t r : Nat) : Option Node := if r < s.rcount t then s.nodeAt t r else none

/-- The nodes from r to the root; cut short where a node is missing or the fuel ends. -/
def State.pathGo (s : State) (t : Nat) : Nat → Nat → List Node
  | 0, _ => []
  | fuel + 1, r => match s.node? t r with
    | none => []
    | some n => if r = 0 then [n] else n :: s.pathGo t fuel n.parent

/-- The path of region r: depth 7 at most (R171). -/
def State.path (s : State) (t r : Nat) : List Node := s.pathGo t 8 r

/-- One node is valid but for its depth (R171); a root whose DEPTH is not 0 or whose PARENT is not 0xFFFF, the values that the
table gives it, is invalid (DESIGN CHOICE, log 71). -/
def Node.ok (n : Node) (t : Nat) : Bool :=
  n.valid && n.reservedOk && n.tenant == t && 1 ≤ n.qlog && n.qlog ≤ 16 && n.slotlog ≤ 16 && 12 ≤ n.stklog &&
    n.stklog ≤ 24 && (n.id != 0 || (n.depth == 0 && n.parent == 0xFFFF))

/-- The depths of a path fall by one to the root. -/
def depthsOk : List Node → Bool
  | [] => false
  | [n] => n.id == 0
  | n :: m :: rest => n.depth == m.depth + 1 && depthsOk (m :: rest)

/-- The first node of a path is not invalid itself (R171); ENQ asks for no more (R363). -/
def nodeOk (t : Nat) (p : List Node) : Bool :=
  match p with
  | [] => false
  | [n] => n.ok t && n.id == 0
  | n :: m :: rest => n.ok t && n.depth == m.depth + 1 && ((m :: rest).getLast?.any (·.id == 0))

/-- No node of the path is invalid (R171). -/
def pathOk (t : Nat) (p : List Node) : Bool := p.all (·.ok t) && depthsOk p

/-- Eff of a field: the first node of the path that overrides it, or the root (R171). -/
def eff {α : Type} [Inhabited α] (p : List Node) (bit : Nat) (f : Node → α) : α :=
  match p.find? fun n => n.id == 0 || (n.at_ 0).getLsbD bit with
  | some n => f n
  | none => default

/-- EffPrio: never above the root's own priority (R171). -/
def effPrio (p : List Node) : Nat :=
  let root := match p.getLast? with
    | some n => n.prio
    | none => 0
  min (eff p 0 Node.prio) root

/-- A budget that every node of the path enforces (R171): the least of their effective values. -/
def leastEff (p : List Node) (bit : Nat) (f : Node → Nat) : Option Nat :=
  ((List.range p.length).map fun i => eff (p.drop i) bit f).min?

/-- The cores that a task holds while it is dealt: those of a running, saving or restoring task. -/
def Task.holds (t : Task) : Bool :=
  match t.st with
  | .running | .saving | .restoring => true
  | _ => false

/-- The path whose values bind a task: as it was dealt under while it holds cores (R172), else as it stands. -/
def State.pathOf (s : State) (t : Task) : List Node := if t.holds then t.dealt else s.path t.tenant.toNat t.region

/-! ### Counters and completion words -/

/-- The context in which the Dealer translates a tenant's addresses (R381). -/
def State.dealerCtx (s : State) (t : BitVec 6) : Ctx :=
  let f := t.toNat + 1
  { tenant := t, asid := (s.startBlock f 2).extractLsb' 0 16, root := bits (s.startBlock f 3) 12 40,
    tdt := tdtField (s.startBlock f 4), user := false, core := 0, who := .dealer t }

/-- One MSU operation of the Dealer on a word (R383, R384), checked as a read (0) or an atomic (3): the old value, or none where
the address faults; a host page or a line the host caches is waited for. -/
def dealerMsu (t : BitVec 6) (kind : Nat) (va : Word) (f : Nat → Option Nat) : X (Option Nat) := fun s =>
  let c := s.dealerCtx t
  match quiet (do
      let h ← resolveGlobal c va { kind := kind, n := 8, msu := true, rewalk := true } anyFormat
      require (!(pteTb h.pte)) causeAccess 0
      msuOp c h 8 f) s with
  | .ok v u => .ok (some v) u
  | .error (.wait w) u => .error (.wait w) u
  | .error _ u => .ok none u

/-- Bytes that the Dealer reads or writes at a virtual address of a tenant, 8 at a time: none where one faults, at a trailer or a
reserved format too (R76), or at a register block, which no plain load or store reaches here (R21). -/
def dealerLoad (t : BitVec 6) (va : Word) (n : Nat) : X (Option (List Nat)) := fun s =>
  let c := s.dealerCtx t
  match quiet ((List.range n).mapM fun i => do
      let a := canon56 (va + toWord (8 * i))
      let p ← resolveG c a { kind := 0, n := 8, noMmio := true, rewalk := true } (rawReadOk 8)
      spotRead c p 8 0 (bits a 0 56)) s with
  | .ok v u => .ok (some v) u
  | .error (.wait w) u => .error (.wait w) u
  | .error _ u => .ok none u

def dealerStore (t : BitVec 6) (va : Word) (vs : List Nat) : X Bool := fun s =>
  let c := s.dealerCtx t
  match quiet (do
      let ps ← (List.range vs.length).mapM fun i =>
        resolveG c (canon56 (va + toWord (8 * i))) { kind := 1, n := 8, noMmio := true, rewalk := true } anyFormat
      (ps.zip vs).forM fun p => spotWrite c p.1 8 (allBits 8) p.2) s with
  | .ok _ u => .ok true u
  | .error (.wait w) u => .error (.wait w) u
  | .error _ u => .ok false u

/-- A step that waits for the host leaves nothing changed but the request it sent. -/
def atomically {α : Type} (m : X α) : X α := fun s =>
  match m s with
  | .error (.wait w) t => .error (.wait w) { s with ms := s.ms.keepAsks t.ms }
  | r => r

/-- The completion word (R383). -/
def completionWord (hw : Bool) (status seq : Nat) : Nat :=
  2 ^ 63 + (if hw then 2 ^ 48 else 0) + status % 2 ^ 16 * 2 ^ 32 + seq % 2 ^ 32

/-- Every BLOCKED head of a tenant is to be read again (R384). -/
def State.rereadDue (s : State) (t : BitVec 6) : State :=
  { s with dealer := { s.dealer with tasks := s.dealer.tasks.map fun u =>
      if u.tenant == t && u.st == .blocked then { u with due := true } else u } }

/-- Signal counter k decremented when it is not zero; an underflow or a fault is logged (R383); one that reaches zero has the
tenant's BLOCKED heads read again (R384). -/
def signal (t : Task) (k : Nat) : X Unit := do
  let a := t.signalAt k
  match ← dealerMsu t.tenant 3 a fun v => if v = 0 then none else some (v - 1) with
  | none => modify fun s => s.elog t.func 17 1 0xFF 0 a 0
  | some 0 => modify fun s => s.elog t.func 9 1 0xFF 0 a 0
  | some 1 => modify fun s => s.rereadDue t.tenant
  | some _ => return

/-- The completion word, the signal counters and the MSI-X message of a task's end (R383). -/
def complete (t : Task) (hw : Bool) (status : Nat) (signals : Bool) : X Unit := do
  if t.compl != 0 then
    match ← dealerMsu t.tenant 3 (canon56 t.compl) fun _ => some (completionWord hw status t.seq) with
    | none => modify fun s => s.elog t.func 17 1 0xFF 0 t.compl 0
    | some _ => pure ()
  if signals then (List.range t.nsig).forM (signal t)
  if t.msix then modify fun s => s.raise t.func t.msixv

/-! ### The end of a task -/

/-- Status codes of the hardware (R383). -/
def endDOUBLE : Nat := 1
def endSTRANDED : Nat := 2
def endUNLOADED : Nat := 3
def endCORRUPT : Nat := 4
def endBADREC : Nat := 5
def endUNCONTAINED : Nat := 6
def endMAPFAULT : Nat := 7

/-- A core whose task has ended or been saved: its tiles are freed, its registers FULL (R84, R307), its engines idle, and it
returns to the Dealer (R174, R366). -/
def Core.released (k : Core) : Core :=
  { k with
    wait := .none
    replies := []
    vec := { k.vec with st := Vector.replicate 32 .full }
    tiles := Vector.replicate 256 Tile.free
    eng := Engines.reset
    fab := { k.fab with grid := none }
    acn := { k.acn with joins := Vector.replicate 64 Join.free, pots := [] }
    cache := { k.cache with ahead := [] }
    tk := { k.tk with task := none, rank := 0, slot := 0, finished := false, preempt := .none, conf := false } }

/-- The monitors of a core freed (R135). -/
def MemSys.dropMonitors (ms : MemSys) (c : CoreId) : MemSys :=
  { ms with monitors := ms.monitors.filter (·.core != c) }

/-- What a member leaves behind in the memory system as it leaves its core: no monitor, and no access that waits for the host
(R37, R135). -/
def MemSys.leaveCore (ms : MemSys) (c : CoreId) : MemSys := (ms.dropMonitors c).askDone fun a => a.1.ofCore c

/-- The Dealer keeps a node's RUNCORES (R171, R386): cores dealt are added, cores freed taken off. -/
def State.addRunCores (s : State) (t : BitVec 6) (r : Nat) (d : Int) : State :=
  match s.node? t.toNat r with
  | none => s
  | some n =>
    let v := wrap 9 (bits (n.at_ 8) 0 9 + d)
    { s with ms := s.ms.msuWrite (s.nodeAddr t.toNat r + 64) 8 (setBits (n.at_ 8) 0 9 v).toNat }

/-- The cores of a task freed together (R174). -/
def State.freeCores (s : State) (t : Task) : State :=
  let s := t.cores.foldl (fun s c =>
    if (s.core c).tk.task = some t.id then
      { s with ms := s.ms.leaveCore c }.modCore c Core.released
    else s) s
  if t.cores.isEmpty then s else s.addRunCores t.tenant t.region (-(t.cores.length : Int))

/-- A running member stopped (R175): its copies ended ABORTED, its other operations abandoned, its joins and pots closed. -/
def stopMember (t : Task) (c : CoreId) : X Unit := do
  if ((← get).core c).tk.task = some t.id then
    abortCopies c
    modify fun s => ((s.modCore c Core.abandon).closePots t.id c).closeJoins t.id c

/-- A saved member discarded: its copies end ABORTED with their reply words (R175, R302), its joins and spilled pots are closed
(R345). -/
def dropContext (t : Task) (x : SavedCtx) : X Unit := do
  x.body.eng.copies.forM fun o => endReply o (o.ctx t.tenant x.core) stABORTED o.u
  modify fun s => (s.closePots t.id x.core).closeJoins t.id x.core

/-- The saved contexts of a task discarded. -/
def dropSaved (t : Task) : X Unit := do
  ((← get).savedOf t.id).forM (dropContext t)
  modify fun s => { s with dealer := { s.dealer with saved := s.dealer.saved.filter (·.task != t.id) } }

/-- A task leaves its cores and is ENDED (R170). -/
def State.retireTask (s : State) (t : Task) : State :=
  let s := if t.holds then s.freeCores t else s
  s.putTask { t with st := .ended, cores := [], slots := [], hold := none, dealt := [] }

/-- The fault-domain policy from a task's node upwards, along the path that binds it (R175): past the root the tenant is drained
and its error interrupt raised. -/
def State.escalate (s : State) (t : Task) (path : List Node) : State :=
  let rec go : List Node → Bool
    | [] => true
    | n :: rest => if eff (n :: rest) 1 Node.escalate then go rest else false
  if path.isEmpty || !go path then s
  else
    let s := { s with dealer := { s.dealer with drained := (t.tenant :: s.dealer.drained).dedup } }
    s.raise t.func 0

/-- The abnormal end of a task (R170, R175): every member stopped, the completion word with the failure status, no
signals, the fault-domain policy. -/
def abnormalEnd (id : Nat) (hw : Bool) (status : Nat) : X Unit := do
  match (← get).task id with
  | none => return
  | some t =>
    if t.st = .ended then return
    let path := (← get).pathOf t
    t.cores.forM (stopMember t)
    dropSaved t
    complete t hw status false
    modify fun s => (s.retireTask t).escalate t path

/-! ### The start of a member -/

/-- The CSRs a member starts with (R176, R351): the defined start state, the supervisor start block; the machine
CSRs, VCAP, LMAP and the shape of the core itself stay. -/
def State.startCsrs (s : State) (k : Core) (t : Task) (rank : Nat) (scope : Nat) : Vector Word 518 :=
  let f := t.func
  let keep := fun (v : Vector Word 518) (n : Nat) => v.setIfInBounds n (k.csrAt n)
  let v := [0x004, 0x005, 0x200, 0x201, 0x202, 0x203, 0x204, 0x205].foldl keep (Vector.replicate 518 0)
  let v := (((v.setIfInBounds 0x000 (toWord (3 + scope * 8))).setIfInBounds 0x00A vfx0Empty).setIfInBounds
    0x00B vfx1Empty).setIfInBounds 0x013 0xFFA0
  let v := ((v.setIfInBounds 0x060 (toWord rank)).setIfInBounds 0x061 (toWord t.gang)).setIfInBounds
    0x062 (toWord t.region)
  let v := (v.setIfInBounds 0x063 0).setIfInBounds 0x064 t.codegen
  let v := (v.setIfInBounds 0x104 (addrField (s.startBlock f 0))).setIfInBounds 0x105 (s.startBlock f 1)
  let v := (v.setIfInBounds 0x120 (s.startBlock f 2 &&& 0xFFFF)).setIfInBounds
    0x121 (s.startBlock f 3 &&& 0x000F_FFFF_FFFF_F000)
  let v := (v.setIfInBounds 0x122 (tdtField (s.startBlock f 4))).setIfInBounds 0x110 (s.startBlock f 5 &&& 1)
  (v.setIfInBounds 0x103 (s.startBlock f 6 &&& 0x801F)).setIfInBounds 0x130 (s.startBlock f 7 &&& 3)

/-- The gang scope: the scope code of the affinity level (R145). -/
def Task.gangScope (t : Task) : Nat := t.aff + 1

/-- A member of a task in its start state on a core (R176); the 56-bit values of x2, x3 and x7 stand in their registers
zero-extended (DESIGN CHOICE, log 72). -/
def State.started (s : State) (k : Core) (t : Task) (rank slot : Nat) (scope : Nat) (stack : Nat)
    (fab : Fabric) : Core :=
  { k with
    x := (((((((Vector.replicate 64 0).set 2 (toWord stack)).set 3 t.args).set 4 (toWord rank)).set 5
      (toWord t.gang)).set 6 (toWord t.region)).set 7 (if t.gang = 1 then 0 else t.gmap))
    pc := t.entry
    priv := .user
    csr := s.startCsrs k t rank scope
    frame := Vector.replicate 7 0
    replies := []
    wait := .none
    vec := { VecUnit.reset with errs := k.vec.errs }
    tiles := Vector.replicate 256 Tile.free
    eng := Engines.reset
    fab := fab
    acn := { k.acn with joins := Vector.replicate 64 Join.free, pots := [] }
    cache := { k.cache with pin := none, ahead := [] }
    tk := { k.tk with task := some t.id, tenant := t.tenant, rank := rank, slot := slot, finished := false,
                      preempt := .none, conf := false, gen := s.gcur } }

end Sys2Proof.Machine
end

