-- ==== Sys2Proof/Machine/Ops.lean ====
section
/-! DEFINITION. How a step of a thread ends: completion, waiting, taking an exception and returning from one
(R225, R352 to R357), and how an event of another agent acts. -/

namespace Sys2Proof.Machine

def causeIllegalOp : Nat := 1
def causeIllegalEnc : Nat := 2
def causePriv : Nat := 3
def causeMisalign : Nat := 4
def causeRegEmpty : Nat := 7
def causeShape : Nat := 8
def causeFpTrap : Nat := 0x0C
def causeIdivZero : Nat := 0x0D
def causeEngine : Nat := 0x0E
def causeFabric : Nat := 0x0F
def causeAcnTarget : Nat := 0x10
def causeSyscall : Nat := 0x12
def causeBreak : Nat := 0x13
def causePreempt : Nat := 0x14
def causeConfLost : Nat := 0x15
def causeRetired : Nat := 0x16

/-! ### Exceptions -/

/-- The code of a privilege level in PPRIV; 2 and 3 are written as 0 (R349). -/
def Priv.code : Priv → Nat
  | .user => 0 | .super => 1 | .machine => 0

/-- The privilege that PPRIV names (R349). -/
def Priv.ofCode : Nat → Priv
  | 1 => .super | _ => .user

/-- The registers a trap saves in the frame (R352). -/
def Core.frameNow (k : Core) : Vector Word 7 :=
  (((((((Vector.replicate 7 0).set 0 (k.csrAt 0x030)).set 1 (k.csrAt 0x031)).set 2 (k.csrAt 0x032)).set 3
    (k.csrAt 0x033)).set 4 (k.csrAt 0x034)).set 5 (k.csrAt 0x035)).set 6 (k.csrAt 0x003)

/-- TCAUSE of a trap (R350). -/
def causeWord (async : Bool) (cause : Nat) : Word := toWord ((if async then 2 ^ 63 else 0) + cause)

/-- TSTATUS at a trap entry: PPRIV the privilege left, TF 1 (R352). -/
def trapStatus (w : Word) (p : Priv) : Word := setBits (setBits w 11 2 p.code) 8 1 1

/-- Taking an exception while TF = 0 (R352). -/
def Core.enterTrap (k : Core) (async : Bool) (cause : Nat) (tval epc : Word) : Core :=
  let st := trapStatus k.tstatus k.priv
  let f := k.frameNow
  let k := ((((k.setCsr 0x103 st).setCsr 0x100 (causeWord async cause)).setCsr 0x101 tval).setCsr 0x102
    (addrField epc))
  let k := ((k.setCsr 0x030 0).setCsr 0x033 0).setCsr 0x003 0
  { k with frame := f, priv := .super, pc := canon56 (k.csrAt 0x104), wait := .none }

/-- The return from an exception at SUPER (R354): the frame when it is live, the privilege, TF 0, the PC. -/
def Core.returnTrap (k : Core) : Core :=
  let f := k.frame
  let k1 := if k.tf then
      ((((((k.setCsr 0x030 f[0]).setCsr 0x031 f[1]).setCsr 0x032 f[2]).setCsr 0x033 f[3]).setCsr 0x034
        f[4]).setCsr 0x035 f[5]).setCsr 0x003 f[6]
    else k
  { k1.setCsr 0x103 (setBits k.tstatus 8 1 0) with
    priv := Priv.ofCode (bits k.tstatus 11 2)
    pc := canon56 (k.csrAt 0x102) }

/-- Every suspended copy of a core resumes (R301, R354). -/
def Core.resumeCopies (k : Core) : Core :=
  k.eng.copies.foldl (fun k o =>
    if o.phase = .suspended then
      let unsuspend := fun (k : Core) (t : Option (BitVec 8)) => match t with
        | some t => k.modTile t.toNat fun e => { e with susp := false }
        | none => k
      let k := unsuspend (unsuspend k o.dstTile) (if o.keep then none else o.srcTile)
      let k := k.setHandle o.h { (k.handle o.h) with status := 0, detail := 0 }
      { k with eng := { k.eng with copies := k.eng.copies.map fun p =>
          if p.h == o.h then { p with phase := .running, resumed := true } else p } }
    else k) k

/-- A double trap: logged, and the task ends with DOUBLE (R355, R414; log 12). -/
def doubleTrap (cause : Nat) (tval epc : Word) : X Unit := do
  let s ← get
  set (s.elogCore s.cur 10 2 cause (addrField epc) tval)
  match s.self.tk.task with
  | some t => abnormalEnd t true endDOUBLE
  | none => return

/-- A trap of the thread of the core that moves (R352, R355). -/
def takeTrap (async : Bool) (cause : Nat) (tval epc : Word) : X Unit := do
  if (← self).tf then doubleTrap cause tval epc
  else modSelf fun k => k.enterTrap async cause tval epc

/-- A step that only waits leaves the wait in the core. -/
def State.settleX (m : X Unit) (s : State) : State :=
  match atomically m s with
  | .ok _ t => t
  | .error (.wait w) t => t.modSelf fun k => { k with wait := w }
  | .error _ t => t

/-- The resume address of a trap (R353). -/
def resumeAt (cause : Nat) (pc : Word) (size : Nat) : Word :=
  if cause = causeSyscall || cause = causeBreak then pc + toWord size else pc

/-! ### How an instruction ends -/

/-- An instruction of the given size run by the thread of the core that moves. -/
def State.run (size : Nat) (m : X Unit) (s : State) : State :=
  match m s with
  | .ok _ t => t.modSelf (·.retire size)
  | .error (.goto pc) t => t.modSelf (·.jump pc)
  | .error (.wait w) t => t.modSelf fun k => { k with wait := w }
  | .error .halt t => t
  | .error (.trap c v) t => State.settleX (takeTrap false c v (resumeAt c s.self.pc size)) t

/-- The outcome of an instruction. -/
def finish (size : Nat) (m : X Unit) (s : State) : Host.Outcome State Fault Refusal := .next (s.run size m)

/-- An event of another agent: one whose moment has not come leaves the state as it is. -/
def event (m : X Unit) (s : State) : Host.Outcome State Fault Refusal :=
  match atomically m s with
  | .ok _ t => .next t
  | .error (.wait _) t => .next t
  | .error _ _ => .next s

/-- An event of a core, run as the core that moves (R6). -/
def eventOn (c : CoreId) (m : X Unit) (s : State) : Host.Outcome State Fault Refusal :=
  match event m { s with cur := c } with
  | .next t => .next { t with cur := s.cur }
  | r => r

/-- The event has not come: nothing happens. -/
def notNow {α : Type} : X α := throw .halt

/-- A condition of an event. -/
def whenever (b : Bool) : X Unit := if b then pure () else notNow

/-- Trap PRIV at USER privilege (R197). -/
def needSuper (w : Word) : X Unit := do
  if (← self).priv = .user then trap causePriv w else pure ()

end Sys2Proof.Machine
end

