-- ==== Sys2Proof/Machine/Operands.lean ====
section
/-! DEFINITION. The operand forms of the vector instructions: operand codes, register states, masks, poisoned
words, the issue checks, and how element-wise and whole-register forms write their results (R78 to R85, R95, R187,
R188, R230 to R233, R62, R358). -/

namespace Sys2Proof.Machine

/-! ### Registers as arrays of bits -/

/-- The content of an operand code 0 to 41 (R187). -/
def VecUnit.bitsOf (u : VecUnit) (code : Nat) : Nat :=
  if code < 32 then ((u.v[code]?).getD 0).toNat else ((u.o[code - 32]?).getD 0).toNat

/-- The content of an operand code replaced. -/
def VecUnit.setBits (u : VecUnit) (code v : Nat) : VecUnit :=
  if code < 32 then { u with v := u.v.setIfInBounds code (BitVec.ofNat 262144 v) }
  else { u with o := u.o.setIfInBounds (code - 32) (BitVec.ofNat 65536 v) }

/-- Bits of a register up to hi written (R369). -/
def VecUnit.wrote (u : VecUnit) (code hi : Nat) : VecUnit :=
  { u with high := u.high.setIfInBounds code (max ((u.high[code]?).getD 0) hi) }

/-- The content of a mask; m0 reads as all ones (R83). -/
def VecUnit.maskBits (u : VecUnit) (m : Nat) : Nat :=
  if m = 0 then 2 ^ 65536 - 1 else ((u.m[m]?).getD 0).toNat

/-- Bit i of a mask; m0 reads as all ones (R83). -/
def VecUnit.maskBit (u : VecUnit) (m i : Nat) : Bool :=
  m == 0 || ((u.m[m]?).getD 0).getLsbD i

/-- The state of the register a code names; the operand files are always FULL (R82, R84). -/
def VecUnit.state (u : VecUnit) (code : Nat) : RegState := (u.st[code]?).getD .full

/-- Elements of width w written, as (index, value) pairs. -/
def putElems (w v : Nat) (res : List (Nat × Nat)) : Nat := res.foldl (fun v r => putFld v (w * r.1) w r.2) v

/-! ### Sources -/

/-- A source operand with its value at issue: an array of bits, or a scalar broadcast (R187). -/
inductive Opnd where
  | array (code : Nat) (v : Nat)
  | bcast (v : Word)
  deriving DecidableEq, Repr

/-- Element i of an operand at width w (R78, R187). -/
def Opnd.elem (o : Opnd) (w i : Nat) : Nat :=
  match o with
  | .array _ v => fld v (w * i) w
  | .bcast v => v.toNat % 2 ^ w

/-- A vector operand code read as a source. -/
def readOpnd (code : BitVec 7) : X Opnd := do
  if code.getLsbD 6 then return .bcast (← readX (code.setWidth 6))
  else return .array code.toNat ((← self).vec.bitsOf code.toNat)

/-- A WAC96 operand: the three limbs, or a scalar sign-extended (R66, R187). -/
inductive Opnd96 where
  | group (code : Nat) (l0 l1 l2 : Nat)
  | bcast (v : Word)
  deriving DecidableEq, Repr

/-- Element i of a WAC96 operand, as a signed integer (R66). -/
def Opnd96.elem (o : Opnd96) (i : Nat) : Int :=
  match o with
  | .group _ a b c => signed 96 (fld a (32 * i) 32 + fld b (32 * i) 32 * 2 ^ 32 + fld c (32 * i) 32 * 2 ^ 64)
  | .bcast v => v.toInt

def readOpnd96 (code : BitVec 7) : X Opnd96 := do
  if code.getLsbD 6 then return .bcast (← readX (code.setWidth 6))
  else
    let u := (← self).vec
    let c := code.toNat
    return .group c (u.bitsOf c) (u.bitsOf (c + 1)) (u.bitsOf (c + 2))

/-! ### Poisoned words (R95) -/

/-- Elements that share the 64-bit word of element i of width w among slices under a column count (R95). -/
def wordMatesAt (slices cols w i : Nat) : List Nat :=
  let r := i / cols
  let c := i % cols
  let per := max 1 (64 / w)
  let q0 := c / slices / per * per
  ((List.range per).map fun j => (q0 + j) * slices + c % slices).filterMap fun c' =>
    if c' < cols then some (r * cols + c') else none

/-- Live slices, L (R97). -/
def Core.slices (k : Core) : Nat := max 1 (bits (k.csrAt 0x004) 32 8)

/-- The same under the current shape. -/
def Core.wordMates (k : Core) (w i : Nat) : List Nat := wordMatesAt k.slices (max 1 k.vcols) w i

/-- Element i of width w of a code lies in a poisoned word; masks stand under code 64 + number. -/
def Core.badElem (k : Core) (code w i : Nat) : Bool :=
  k.vec.poison.any fun p => p.1 == code &&
    (k.wordMates w i).any fun j => w * j < p.2.1 + p.2.2 && p.2.1 < w * j + w

/-- The poisoned source words that element i reads, as (operand code, element index); the sources as (operand code as
named, poison code, width, index of the element read). -/
def Core.badSources (k : Core) (srcs : List (Nat × Nat × Nat × (Nat → Nat))) (i : Nat) : List (Nat × Nat) :=
  if k.vec.poison.isEmpty then []
  else (srcs.filter fun s => k.badElem s.2.1 s.2.2.1 (s.2.2.2 i)).map fun s => (s.1, s.2.2.2 i)

/-- The trap value of MEM_UE from a register word (R95). -/
def regUE (code i : Nat) : Word := toWord (code + i % 2 ^ 16 * 2 ^ 16)

/-- The sources of a list of operand codes, all read at the element's own index. -/
def plainSources (codes : List (BitVec 7)) (w : Nat) : List (Nat × Nat × Nat × (Nat → Nat)) :=
  codes.filterMap fun c => if c.getLsbD 6 then none else some (c.toNat, c.toNat, w, id)

/-- A WAC96 group as a source: its three limbs. -/
def groupSources (code : BitVec 7) : List (Nat × Nat × Nat × (Nat → Nat)) :=
  if code.getLsbD 6 then [] else (List.range 3).map fun j => (code.toNat, code.toNat + j, 32, id)

/-- The mask of an instruction as a source; m0 has no words. -/
def maskSource (m : BitVec 3) : List (Nat × Nat × Nat × (Nat → Nat)) :=
  if m = 0 then [] else [(m.toNat, 64 + m.toNat, 1, id)]

/-- The poison left after a write of elements (R95): a word whose elements are all replaced, by the written indices or those
from tail upwards, loses it; a word that keeps an element stays poisoned whole. mates: the elements of an element's word. -/
def clearPoison (ps : List (Nat × Nat × Nat)) (code w : Nat) (mates : Nat → List Nat) (written : Nat → Bool)
    (tail : Option Nat) : List (Nat × Nat × Nat) :=
  let gone := fun (e : Nat) => written e || (match tail with
    | some n => n ≤ e
    | none => false)
  let mine := ps.filter fun p => p.1 == code
  let hit := mine.flatMap fun p => (List.range (cdiv (p.2.1 + p.2.2) w - p.2.1 / w)).map (p.2.1 / w + ·)
  let keep := (hit.filter fun e => !((mates e).all gone)).flatMap fun e => (mates e).map fun m => (code, w * m, w)
  ps.filter (fun p => p.1 != code) ++ keep.dedup

/-! ### Destinations -/

/-- A destination: its first code, and what is written there. -/
inductive Dst where
  /-- a register, elements of width w from index off -/
  | vec (code w off : Nat)
  /-- a mask register -/
  | mask (m : Nat)
  /-- a WAC96 group -/
  | wac (code : Nat)
  deriving DecidableEq, Repr

/-- Elements written to one register among slices under a layout tag; tail: the number of elements from which R80 clears when
TAILZ = 1. -/
def VecUnit.writeReg (u : VecUnit) (slices code w tag : Nat) (res : List (Nat × Nat)) (tail : Option Nat) : VecUnit :=
  let v := putElems w (u.bitsOf code) res
  let v := match tail with
    | some n => v % 2 ^ (n * w)
    | none => v
  let hi := match tail with
    | some _ => slices * 8192
    | none => res.foldl (fun a r => max a (w * (r.1 + 1))) 0
  let u := (u.setBits code v).wrote code hi
  { u with
    tag := if code < 32 then u.tag.setIfInBounds code tag else u.tag
    poison := if u.poison.isEmpty then [] else clearPoison u.poison code w (wordMatesAt slices (max 1 tag) w)
      (fun e => res.any (·.1 == e)) tail }

/-- Bits written to one mask (R83, R237). -/
def VecUnit.writeMask (u : VecUnit) (slices cols m : Nat) (res : List (Nat × Nat)) (tail : Option Nat) : VecUnit :=
  let v := putElems 1 ((u.m[m]?).getD 0).toNat res
  let v := match tail with
    | some n => v % 2 ^ n
    | none => v
  { u with
    m := u.m.setIfInBounds m (BitVec.ofNat 65536 v)
    poison := if u.poison.isEmpty then [] else clearPoison u.poison (64 + m) 1 (wordMatesAt slices (max 1 cols) 1)
      (fun e => res.any (·.1 == e)) tail }

/-- Results written to a destination under the layout tag VCOLS (R80, R81). -/
def Core.vwrite (k : Core) (d : Dst) (res : List (Nat × Nat)) (tail : Option Nat) : Core :=
  match d with
  | .vec code w off => { k with vec := k.vec.writeReg k.slices code w k.vcols (res.map fun r => (r.1 + off, r.2)) tail }
  | .mask m => { k with vec := k.vec.writeMask k.slices k.vcols m res tail }
  | .wac code =>
    let limb := fun (u : VecUnit) (j : Nat) =>
      u.writeReg k.slices (code + j) 32 k.vcols (res.map fun r => (r.1, fld r.2 (32 * j) 32)) tail
    { k with vec := limb (limb (limb k.vec 0) 1) 2 }

/-! ### Issue checks (R230) -/

/-- What the issue checks of a vector instruction look at: its word, the EW code of its governing width (none: that
of VCFG), its ET field, the vector sources as (operand code, register, wait bit), and the vector destinations. -/
structure Issue where
  word : Word
  ew   : Option Nat
  et   : Nat
  srcs : List (Nat × Nat × Bool)
  dsts : List Nat
  deriving DecidableEq, Repr

/-- The width in bits of an EW code, 96 for WAC96 (R199). -/
def ewWidth : Nat → Nat
  | 0 => 4 | 1 => 8 | 2 => 16 | 3 => 32 | 4 => 64 | _ => 96

/-- The width by which the shape is judged: 32 for WAC96 (R79). -/
def shapeWidth (ew : Nat) : Nat := if ew = 5 then 32 else ewWidth ew

/-- VCAP.BITS (R97). -/
def Core.capBits (k : Core) : Nat := bits (k.csrAt 0x004) 0 32

/-- MaxCols (R79). -/
def Core.maxCols (k : Core) (w : Nat) : Nat := bits (k.csrAt 0x004) 32 8 * 8192 / w

/-- A source of a VA operand field: its code and wait bit, when it names a vector. -/
def srcOf (code : BitVec 7) (w : BitVec 1) : List (Nat × Nat × Bool) :=
  if code.getLsbD 6 then [] else [(code.toNat, code.toNat, w == 1)]

/-- The three registers of a WAC96 source group, named by the first (R66). -/
def srcOf96 (code : BitVec 7) (w : BitVec 1) : List (Nat × Nat × Bool) :=
  if code.getLsbD 6 then [] else (List.range 3).map fun j => (code.toNat, code.toNat + j, w == 1)

/-- The three registers of a WAC96 destination group (R66). -/
def dstOf96 (code : BitVec 7) : List Nat := (List.range 3).map (code.toNat + ·)

/-- A vector destination field. -/
def dstOf (code : BitVec 7) : List Nat := if code.getLsbD 6 then [] else [code.toNat]

/-- The states of the sources and destinations (R85): EMPTY sources with wait bit 0 trap, the others wait. -/
def checkStates (q : Issue) : X Unit := do
  let u := (← self).vec
  match q.srcs.find? fun s => u.state s.2.1 == .empty && !s.2.2 with
  | some s => trap causeRegEmpty (toWord s.1)
  | none =>
    awaiting (!(q.srcs.any fun s => u.state s.2.1 == .empty) && !(q.dsts.any fun d => u.state d != .full))

/-- The shape of the current VROWS and VCOLS fits the registers (R230, check 3). -/
def Core.shapeOk (k : Core) : Bool :=
  let w := shapeWidth k.ew
  k.vrows ≤ 64 && k.vcols ≤ k.maxCols w && k.vrows * k.vcols * w ≤ k.capBits

/-- The issue checks of R230 in order; the number of elements, zero when the instruction does nothing. extra: a further
limit on that number, judged with the shape. -/
def vIssue (q : Issue) (extra : Nat → X Unit := fun _ => pure ()) : X Nat := do
  let k ← self
  require (k.ew ≤ 5 && k.scope ≤ 5) causeIllegalEnc q.word
  require (q.ew == none || q.ew == some k.ew) causeShape (toWord (2 ^ 63 + 0x100 * k.ew + q.et))
  let n := k.vrows * k.vcols
  if n = 0 then return 0
  else
    require k.shapeOk causeShape (toWord n)
    require (n ≤ 1024 || !((q.srcs.any fun s => 32 ≤ s.1) || q.dsts.any fun d => 32 ≤ d)) causeShape (toWord n)
    extra n
    checkStates q
    return n

/-- The issue checks of an ordinary VA form: governing width that of ET, its three sources as given. -/
def vaIssue (word : Word) (f : VA) (srcs : List (Nat × Nat × Bool)) (dsts : List Nat) : Issue :=
  { word := word, ew := some (ETew f.et), et := f.et.code, srcs := srcs, dsts := dsts }

/-! ### Element-wise forms (R231, R232) -/

/-- What one element gives: a result with the flags it raises, or a trap with its value and flags. -/
inductive ElemOut where
  | val (v : Nat) (f : Flags)
  | trap (cause : Nat) (tval : Word) (f : Flags)
  deriving DecidableEq, Repr

/-- What a loop over elements has done: results newest first, flags, VFX0 and VFX1. -/
structure Loop where
  res   : List (Nat × Nat)
  flags : Flags
  vfx0  : Word
  vfx1  : Word
  deriving DecidableEq, Repr

/-- The elements from i on, fuel of them, until one traps (R231, R232). -/
def elemLoop (k : Core) (active : Nat → Bool) (mz : Bool) (op : Nat → ElemOut) :
    Nat → Nat → Loop → Loop × Option (Nat × Nat × Word × Flags)
  | 0, _, l => (l, none)
  | fuel + 1, i, l =>
    if active i then
      match op i with
      | .trap c v f => (l, some (i, c, v, f))
      | .val v f =>
        if k.trapping f then (l, some (i, causeFpTrap, fpTrapValue f i true, 0))
        else elemLoop k active mz op fuel (i + 1)
          ⟨(i, v) :: l.res, l.flags ||| f, vfx0Record l.vfx0 f i, vfx1Record l.vfx1 f i⟩
    else elemLoop k active mz op fuel (i + 1) (if mz then { l with res := (i, 0) :: l.res } else l)

/-- Element i is active for a mask field (R13); VSTART is the loop's own start. -/
def Core.activeBit (k : Core) (msk : BitVec 3) (i : Nat) : Bool := k.vec.maskBit msk.toNat i

/-- An element-wise form over n elements from VSTART (R231): recording or not, its destination, whether R80 applies
to the tail, the sources whose poison it meets, and its operation. -/
def vElements (record : Bool) (n : Nat) (active : Nat → Bool) (mz : Bool) (d : Dst) (tail : Bool)
    (srcs : List (Nat × Nat × Nat × (Nat → Nat))) (op : Nat → ElemOut) : X Unit := do
  let k ← self
  let vs := k.vstart
  let op' := fun i => match k.badSources srcs i with
    | c :: _ => ElemOut.trap causeMemUE (regUE c.1 c.2) 0
    | [] => op i
  let start : Loop := if record && vs == 0 then ⟨[], 0, vfx0Empty, vfx1Empty⟩ else ⟨[], 0, k.vfx0, k.vfx1⟩
  let (l, stop) := elemLoop k active mz op' (n - vs) vs start
  let l := if record then l else { l with vfx0 := k.vfx0, vfx1 := k.vfx1 }
  let done := fun (k : Core) => ((k.orFlags l.flags).setCsr 0x00A l.vfx0).setCsr 0x00B l.vfx1
  match stop with
  | none =>
    modSelf fun k => ((done k).vwrite d l.res (if tail && k.tailz then some n else none)).setCsr 0x003 0
  | some (i, c, v, f) =>
    modSelf fun k => (((done k).vwrite d l.res none).orFlags f).setCsr 0x003 (toWord i)
    trap c v

/-! ### Whole-register forms (R233) -/

/-- The start of a whole-register form: issue checks, then VSTART must be zero (R233). -/
def vWhole (q : Issue) : X Nat := do
  let n ← vIssue q
  let k ← self
  require (n == 0 || k.vstart == 0) causeShape (toWord (2 ^ 62 + k.vstart))
  return n

/-- No poisoned word among the elements that a whole-register form reads for its indices i below n: the trap names the
lowest of them (R233, R95). -/
def wholePoison (n : Nat) (bad : Core → Nat → List (Nat × Nat)) : X Unit := do
  let k ← self
  if k.vec.poison.isEmpty then return
  else
    match (List.range n).flatMap (bad k) with
    | [] => return
    | c :: rest =>
      let l := rest.foldl (fun (a b : Nat × Nat) => if b.2 < a.2 then b else a) c
      trap causeMemUE (regUE l.1 l.2)

/-- The lowest element of a whole-register form that raises an enabled flag traps before anything is written (R233, R358). -/
def wholeTrap (fl : List (Nat × Flags)) : X Unit := do
  let k ← self
  match fl.find? fun f => k.trapping f.2 with
  | some f => trap causeFpTrap (fpTrapValue f.2 f.1 true)
  | none => return

/-- FFLAGS takes the flags of a whole-register form and, for a recording form, VFX is reset and records them (R233, R62). -/
def wholeRaise (record : Bool) (fl : List (Nat × Flags)) : X Unit :=
  modSelf fun k =>
    let k := if record then k.vfxClear else k
    fl.foldl (fun k f => let k := k.orFlags f.2; if record then k.vfxRecord f.2 f.1 else k) k

/-- The flags of a whole-register form, as (index, flags) in rising order: an enabled flag traps before anything is
written; otherwise they are raised. -/
def wholeFlags (record : Bool) (fl : List (Nat × Flags)) : X Unit := do
  wholeTrap fl
  wholeRaise record fl

/-- The conditions of a form whose element i has both sources and flags of its own: of a poisoned source and an enabled flag the
lower element traps, at one element the poison (R232, R233, R356). onPoison: how the trap of a poisoned source is taken. -/
def wholeCheck (n : Nat) (bad : Core → Nat → List (Nat × Nat)) (fl : List (Nat × Flags)) (onPoison : X Unit → X Unit) :
    X Unit := do
  let k ← self
  onPoison (wholePoison (match fl.find? fun f => k.trapping f.2 with
    | some f => f.1 + 1
    | none => n) bad)
  wholeTrap fl

/-- The results of a form that writes by R80: values at their indices, zero at the others below n when mz = 1. -/
def writeR80 (n : Nat) (mz : Bool) (d : Dst) (res : List (Nat × Nat)) : X Unit := do
  let zeros := if mz then (List.range n).filterMap fun i =>
    if res.any (·.1 == i) then none else some (i, 0) else []
  modSelf fun k => k.vwrite d (zeros ++ res) (if k.tailz then some n else none)

/-- A value returned to a scalar register: sign-extended for a signed type of class INT, else zero-extended (R234, R239). -/
def extendElem (t : ET) (v : Nat) : Word :=
  if t.isInt && ETsigned t then BitVec.ofInt 64 (signed (ETwidth t) v) else toWord (v % 2 ^ ETwidth t)

end Sys2Proof.Machine
end

