-- ==== Sys2Proof/Machine/ScalarInt.lean ====
section
/-! DEFINITION. The integer instructions of the control core (R209 to R217). -/

namespace Sys2Proof.Machine

/-- The outcome of an instruction. -/
abbrev Out := Host.Outcome State Fault Refusal

/-! ### Forms -/

/-- The size of an instruction that may have an extension word (R191). -/
def extSize {n : Nat} (e : Option (BitVec n)) : Nat := if e.isSome then 16 else 8

/-- xd := op xa xb (R210). -/
def sa2 (f : SA) (op : Word → Word → Word) : X Unit := do
  let a ← readX f.xa
  let b ← readX f.xb
  writeX f.xd (op a b)

/-- xd := op xa xb xc (R213, R215). -/
def sa3 (f : SA) (op : Word → Word → Word → Word) : X Unit := do
  let a ← readX f.xa
  let b ← readX f.xb
  let c ← readX f.xc
  writeX f.xd (op a b c)

/-- xd := op xa (R214). -/
def sa1 (f : SA) (op : Word → Word) : X Unit := do
  let a ← readX f.xa
  writeX f.xd (op a)

/-- xd := op xa imm (R216, R217). -/
def si1 (f : SI) (op : Word → Word → Word) : X Unit := do
  let a ← readX f.xa
  writeX f.xd (op a f.value)

/-! ### Operations -/

/-- The amount of a shift (R210). -/
def shamt (b : Word) : Nat := bits b 0 6

def sminW (a b : Word) : Word := if a.toInt ≤ b.toInt then a else b
def smaxW (a b : Word) : Word := if a.toInt ≤ b.toInt then b else a
def uminW (a b : Word) : Word := if a.toNat ≤ b.toNat then a else b
def umaxW (a b : Word) : Word := if a.toNat ≤ b.toNat then b else a

/-- Bits [127:64] of a product (R211). -/
def highHalf (v : Int) : Word := BitVec.ofInt 64 (v / 2 ^ 64)

/-- Signed division truncated towards zero, with the edges of R212. -/
def sdivW (a b : Word) : Word := if b = 0 then BitVec.allOnes 64 else BitVec.ofInt 64 (a.toInt.tdiv b.toInt)
def sremW (a b : Word) : Word := if b = 0 then a else BitVec.ofInt 64 (a.toInt.tmod b.toInt)
def udivW (a b : Word) : Word := if b = 0 then BitVec.allOnes 64 else toWord (a.toNat / b.toNat)
def uremW (a b : Word) : Word := if b = 0 then a else toWord (a.toNat % b.toNat)

/-- A condition of R189. -/
def ccHolds (cc : CC) (a b : Word) : Bool :=
  match cc with
  | .eq => a == b
  | .ne => a != b
  | .lt => decide (a.toInt < b.toInt)
  | .ge => decide (b.toInt ≤ a.toInt)
  | .ltu => decide (a.toNat < b.toNat)
  | .geu => decide (b.toNat ≤ a.toNat)
  | .gt => decide (b.toInt < a.toInt)
  | .le => decide (a.toInt ≤ b.toInt)
  | .gtu => decide (b.toNat < a.toNat)
  | .leu => decide (a.toNat ≤ b.toNat)

/-- Bits that are set in the low n bits of a number. -/
def popCount : Nat → Nat → Nat
  | 0, _ => 0
  | n + 1, v => v % 2 + popCount n (v / 2)

/-- Leading zero bits of an n-bit number (R214). -/
def leadingZeros (n v : Nat) : Nat := if v = 0 then n else n - 1 - Nat.log2 v

/-- Trailing zero bits of a number, n when it is zero (R214). -/
def trailingZeros : Nat → Nat → Nat
  | 0, _ => 0
  | n + 1, v => if v % 2 = 1 then 0 else 1 + trailingZeros n (v / 2)

/-- The low n bits of a number in reverse order (R214). -/
def reverseBits : Nat → Nat → Nat
  | 0, _ => 0
  | n + 1, v => v % 2 * 2 ^ n + reverseBits n (v / 2)

/-- The low n bits of a word, sign-extended. -/
def sextW (n : Nat) (a : Word) : Word := (a.setWidth n).signExtend 64

/-- The low n bits of a word, zero-extended. -/
def zextW (n : Nat) (a : Word) : Word := (a.setWidth n).setWidth 64

/-- The width of a bit field of offset off and width wid, truncated at bit 63; none where it is empty (R215). -/
def bitField (off wid : Word) : Option (Nat × Nat) :=
  if wid = 0 || 64 ≤ off.toNat then none else some (off.toNat, min wid.toNat (64 - off.toNat))

/-- BFX.U and BFX.S (R215). -/
def bfx (sgn : Bool) (a off wid : Word) : Word :=
  match bitField off wid with
  | none => 0
  | some (o, w) =>
    let v := a.toNat / 2 ^ o % 2 ^ w
    if sgn then BitVec.ofInt 64 (signed w v) else toWord v

/-- BFI (R215). -/
def bfInsert (d a off wid : Word) : Word :=
  match bitField off wid with
  | none => d
  | some (o, w) => setBits d o w a.toNat

/-- A division: IDZ, and the trap that IDZT enables (R212). -/
def saDiv (word : Word) (f : SA) (op : Word → Word → Word) : X Unit := do
  let a ← readX f.xa
  let b ← readX f.xb
  freeX f.xd
  if b = 0 then
    modSelf (·.orFlags flagIDZ)
    require (!((← self).csrAt 0x110).getLsbD 0) causeIdivZero word
  writeX f.xd (op a b)

/-! ### Instructions -/

/-- ADD (R210). -/
def execAdd (f : SA) (s : State) : Out := finish 8 (sa2 f fun a b => a + b) s
/-- SUB (R210). -/
def execSub (f : SA) (s : State) : Out := finish 8 (sa2 f fun a b => a - b) s
/-- AND (R210). -/
def execAnd (f : SA) (s : State) : Out := finish 8 (sa2 f fun a b => a &&& b) s
/-- OR (R210). -/
def execOr (f : SA) (s : State) : Out := finish 8 (sa2 f fun a b => a ||| b) s
/-- XOR (R210). -/
def execXor (f : SA) (s : State) : Out := finish 8 (sa2 f fun a b => a ^^^ b) s
/-- ANDN (R210). -/
def execAndn (f : SA) (s : State) : Out := finish 8 (sa2 f fun a b => a &&& ~~~b) s
/-- SHL (R210). -/
def execShl (f : SA) (s : State) : Out := finish 8 (sa2 f fun a b => a <<< shamt b) s
/-- SHR (R210). -/
def execShr (f : SA) (s : State) : Out := finish 8 (sa2 f fun a b => a >>> shamt b) s
/-- SRA (R210). -/
def execSra (f : SA) (s : State) : Out := finish 8 (sa2 f fun a b => a.sshiftRight (shamt b)) s
/-- ROTR (R210). -/
def execRotr (f : SA) (s : State) : Out := finish 8 (sa2 f fun a b => a.rotateRight (shamt b)) s
/-- MIN (R210). -/
def execMin (f : SA) (s : State) : Out := finish 8 (sa2 f fun a b => sminW a b) s
/-- MAX (R210). -/
def execMax (f : SA) (s : State) : Out := finish 8 (sa2 f fun a b => smaxW a b) s
/-- MINU (R210). -/
def execMinu (f : SA) (s : State) : Out := finish 8 (sa2 f fun a b => uminW a b) s
/-- MAXU (R210). -/
def execMaxu (f : SA) (s : State) : Out := finish 8 (sa2 f fun a b => umaxW a b) s
/-- Mul (R211). -/
def execMul (f : SA) (s : State) : Out := finish 8 (sa2 f fun a b => a * b) s
/-- Mulh (R211). -/
def execMulh (f : SA) (s : State) : Out := finish 8 (sa2 f fun a b => highHalf (a.toInt * b.toInt)) s
/-- MulhU (R211). -/
def execMulhU (f : SA) (s : State) : Out := finish 8 (sa2 f fun a b => highHalf ((a.toNat * b.toNat : Nat) : Int)) s
/-- MulhSu (R211). -/
def execMulhSu (f : SA) (s : State) : Out := finish 8 (sa2 f fun a b => highHalf (a.toInt * b.toNat)) s
/-- Div (R212). -/
def execDiv (f : SA) (s : State) : Out := finish 8 (saDiv (Instr.word (.div f)) f sdivW) s
/-- Divu (R212). -/
def execDivu (f : SA) (s : State) : Out := finish 8 (saDiv (Instr.word (.divu f)) f udivW) s
/-- Rem (R212). -/
def execRem (f : SA) (s : State) : Out := finish 8 (saDiv (Instr.word (.rem f)) f sremW) s
/-- Remu (R212). -/
def execRemu (f : SA) (s : State) : Out := finish 8 (saDiv (Instr.word (.remu f)) f uremW) s
/-- CMP.cc (R213). -/
def execCmpCc (cc : CC) (f : SA) (s : State) : Out := finish 8 (sa2 f fun a b => bitWord (ccHolds cc a b)) s
/-- SEL (R213). -/
def execSel (f : SA) (s : State) : Out := finish 8 (sa3 f fun a b c => if c = 0 then b else a) s
/-- Clz (R214). -/
def execClz (f : SA) (s : State) : Out := finish 8 (sa1 f fun a => toWord (leadingZeros 64 a.toNat)) s
/-- Ctz (R214). -/
def execCtz (f : SA) (s : State) : Out := finish 8 (sa1 f fun a => toWord (trailingZeros 64 a.toNat)) s
/-- Popc (R214). -/
def execPopc (f : SA) (s : State) : Out := finish 8 (sa1 f fun a => toWord (popCount 64 a.toNat)) s
/-- Brev (R214). -/
def execBrev (f : SA) (s : State) : Out := finish 8 (sa1 f fun a => toWord (reverseBits 64 a.toNat)) s
/-- SextB (R214). -/
def execSextB (f : SA) (s : State) : Out := finish 8 (sa1 f fun a => sextW 8 a) s
/-- SextH (R214). -/
def execSextH (f : SA) (s : State) : Out := finish 8 (sa1 f fun a => sextW 16 a) s
/-- SextW (R214). -/
def execSextW (f : SA) (s : State) : Out := finish 8 (sa1 f fun a => sextW 32 a) s
/-- ZextB (R214). -/
def execZextB (f : SA) (s : State) : Out := finish 8 (sa1 f fun a => zextW 8 a) s
/-- ZextH (R214). -/
def execZextH (f : SA) (s : State) : Out := finish 8 (sa1 f fun a => zextW 16 a) s
/-- ZextW (R214). -/
def execZextW (f : SA) (s : State) : Out := finish 8 (sa1 f fun a => zextW 32 a) s
/-- BFX.U (R215). -/
def execBfxU (f : SA) (s : State) : Out := finish 8 (sa3 f (bfx false)) s
/-- BFX.S (R215). -/
def execBfxS (f : SA) (s : State) : Out := finish 8 (sa3 f (bfx true)) s
/-- BFI: also reads xd (R215). -/
def execBfi (f : SA) (s : State) : Out := finish 8 (do
  let d ← readX f.xd
  sa3 f (bfInsert d)) s
/-- ADDI (R216). -/
def execAddi (f : SI) (s : State) : Out := finish (extSize f.ext) (si1 f fun a b => a + b) s
/-- ANDI (R216). -/
def execAndi (f : SI) (s : State) : Out := finish (extSize f.ext) (si1 f fun a b => a &&& b) s
/-- ORI (R216). -/
def execOri (f : SI) (s : State) : Out := finish (extSize f.ext) (si1 f fun a b => a ||| b) s
/-- XORI (R216). -/
def execXori (f : SI) (s : State) : Out := finish (extSize f.ext) (si1 f fun a b => a ^^^ b) s
/-- SHLI (R216). -/
def execShli (f : SI) (s : State) : Out := finish (extSize f.ext) (si1 f fun a b => a <<< shamt b) s
/-- SHRI (R216). -/
def execShri (f : SI) (s : State) : Out := finish (extSize f.ext) (si1 f fun a b => a >>> shamt b) s
/-- SRAI (R216). -/
def execSrai (f : SI) (s : State) : Out := finish (extSize f.ext) (si1 f fun a b => a.sshiftRight (shamt b)) s
/-- LI (R217). -/
def execLi (f : SI) (s : State) : Out := finish (extSize f.ext) (writeX f.xd f.value) s
/-- LIX (R217). -/
def execLix (f : SI) (s : State) : Out :=
  finish (extSize f.ext) (si1 f fun a b => (b.setWidth 24 ++ a.setWidth 40 : BitVec 64)) s
/-- CMPI (R217). -/
def execCmpi (cc : CC) (f : SI) (s : State) : Out :=
  finish (extSize f.ext) (si1 f fun a b => bitWord (ccHolds cc a b)) s

end Sys2Proof.Machine
end

