-- ==== Sys2Proof/Machine/MemScalar.lean ====
section
/-! DEFINITION. The scalar memory instructions: loads, stores, atomics, compare-and-swap and fences (R124 to R127,
R146, R147, R154, R254 to R256). -/

namespace Sys2Proof.Machine

/-! ### Forms -/

/-- The bytes of a size code of LD (R255). -/
def sizeBytes (size : BitVec 3) : Nat := match size.toNat with
  | 0 | 4 => 1 | 1 | 5 => 2 | 2 | 6 => 4 | _ => 8

/-- The value of a scalar load: zero-extended, or sign-extended for BS, HS and WS (R255). -/
def loadValue (size : BitVec 3) (v : Nat) : Word :=
  if 4 ≤ size.toNat then BitVec.ofInt 64 (signed (8 * sizeBytes size) v) else toWord v

/-- A scalar access is aligned to its size, or traps MISALIGN with the address (R254). -/
def aligned (a : Word) (n : Nat) : X Unit := require (a.toNat % n == 0) causeMisalign a

/-- The context of the thread that moves. -/
def selfCtx : X Ctx := do
  let s ← get
  return s.ctxOf s.cur

/-- The release part of an ordering kind, before the access (R146, R156). -/
def ordBefore (ord : Nat) : X Unit := do
  if 2 ≤ ord then waitSends
  modify fun s => s.orderBefore ord

/-- The acquire part of an ordering kind, after the access (R146). -/
def ordAfter (ord scope : Nat) : X Unit := modify fun s => s.orderAfter ord scope

/-- The accesses of a vector instruction with the acquire part of its ordering kind, which the elements performed before a
trap or a wait have too (R146). -/
def ordAround (ord scope : Nat) (m : X Unit) : X Unit := fun s =>
  match m s with
  | .ok _ t => .ok () (t.orderAfter ord scope)
  | .error e t => .error e (t.orderAfter ord scope)

/-- LD (R255). -/
def execLd (f : SM) (s : State) : Out := finish (extSize f.ext) (do
  let a := (← readX f.xa) + f.value
  reserveReply [f.xd]
  let n := sizeBytes f.size
  aligned a n
  let c ← selfCtx
  let p ← resolveG c a { kind := 0, n := n } (rawReadOk n)
  ordBefore f.ord.toNat
  let v ← spotRead c p n 0 (bits a 0 56)
  ordAfter f.ord.toNat f.scope.toNat
  reply [(f.xd, loadValue f.size v)]) s

/-- ST (R255): xs stands in xd. -/
def execSt (f : SM) (s : State) : Out := finish (extSize f.ext) (do
  let a := (← readX f.xa) + f.value
  let v ← readX f.xd
  let n := sizeBytes f.size
  aligned a n
  let c ← selfCtx
  let p ← resolveG c a { kind := 1, n := n } anyFormat
  ordBefore f.ord.toNat
  spotWrite c p n (allBits n) (v.toNat % 2 ^ (8 * n))
  ordAfter f.ord.toNat f.scope.toNat) s

/-- The translation of a location at an MSU: refused in an MMIO block, on a TB page and on a formatted page (R124). -/
def msuHit (c : Ctx) (a : Word) (n : Nat) (noHost : Bool) : X Hit :=
  resolveGlobal c a { kind := 3, n := n, msu := true, noHost := noHost } anyFormat

/-- The new value of an atomic of width w, none where it writes nothing (R256). -/
def amoNew (op w m v : Nat) : Option Nat :=
  match op with
  | 0 => some ((m + v) % 2 ^ w)
  | 1 => some (m &&& v)
  | 2 => some (m ||| v)
  | 3 => some (m ^^^ v)
  | 4 => some (if signed w m ≤ signed w v then m else v)
  | 5 => some (if signed w m ≤ signed w v then v else m)
  | 6 => some (if m ≤ v then m else v)
  | 7 => some (if m ≤ v then v else m)
  | 8 => some v
  | _ => if m < v then some (m + 1) else none

/-- An atomic at xa + disp whose new value is f of the old one; xd := the old value, zero-extended (R255, R256). -/
def atomic (f : SM) (new : Nat → Nat → Option Nat) : X Unit := do
  let a := (← readX f.xa) + f.value
  let n := sizeBytes f.size
  reserveReply [f.xd]
  aligned a n
  let c ← selfCtx
  let h ← msuHit c a n false
  ordBefore f.ord.toNat
  let old ← msuOp c h n (new (8 * n))
  ordAfter f.ord.toNat f.scope.toNat
  reply [(f.xd, toWord old)]

/-- AMO.op: the address is xa, the immediate holding the operation (R255, R256). -/
def amo (f : SM) (op : Nat) : X Unit := do
  let v ← readX f.xb
  atomic { f with imm := 0, ext := none } fun w m => amoNew op w m (v.toNat % 2 ^ w)

/-- AMO.ADD (R256). -/
def execAmoAdd (f : SM) (s : State) : Out := finish 8 (amo f 0) s
/-- AMO.AND (R256). -/
def execAmoAnd (f : SM) (s : State) : Out := finish 8 (amo f 1) s
/-- AMO.OR (R256). -/
def execAmoOr (f : SM) (s : State) : Out := finish 8 (amo f 2) s
/-- AMO.XOR (R256). -/
def execAmoXor (f : SM) (s : State) : Out := finish 8 (amo f 3) s
/-- AMO.MIN (R256). -/
def execAmoMin (f : SM) (s : State) : Out := finish 8 (amo f 4) s
/-- AMO.MAX (R256). -/
def execAmoMax (f : SM) (s : State) : Out := finish 8 (amo f 5) s
/-- AMO.MINU (R256). -/
def execAmoMinu (f : SM) (s : State) : Out := finish 8 (amo f 6) s
/-- AMO.MAXU (R256). -/
def execAmoMaxu (f : SM) (s : State) : Out := finish 8 (amo f 7) s
/-- AMO.SWAP (R256). -/
def execAmoSwap (f : SM) (s : State) : Out := finish 8 (amo f 8) s
/-- AMO.INCB (R256). -/
def execAmoIncb (f : SM) (s : State) : Out := finish 8 (amo f 9) s

/-- CAS (R255): compared with xd, exchanged with xb. -/
def execCas (f : SM) (s : State) : Out := finish (extSize f.ext) (do
  let d ← readX f.xd
  let b ← readX f.xb
  atomic f fun w m => if m = d.toNat % 2 ^ w then some (b.toNat % 2 ^ w) else none) s

/-- FENCE.ACQ (R147). -/
def execFenceAcq (f : SM) (s : State) : Out := finish 8 (ordAfter 1 f.scope.toNat) s
/-- FENCE.REL (R147). -/
def execFenceRel (_f : SM) (s : State) : Out := finish 8 (ordBefore 2) s
/-- FENCE.FULL (R154). -/
def execFenceFull (f : SM) (s : State) : Out := finish 8 (do
  ordBefore 3
  ordAfter 3 f.scope.toNat) s

end Sys2Proof.Machine
end

