-- ==== Sys2Proof/Machine/VecArith.lean ====
section
/-! DEFINITION. The element-wise vector instructions: arithmetic, logic, compare, select, moves (R234 to R239). -/

namespace Sys2Proof.Machine

/-! ### Forms -/

/-- The bits of an element as an instruction writes them: E3M2 and E2M3 use [5:0], zero above (R49). -/
def elemBits (t : ET) (v : Nat) : Nat :=
  if t = .e3m2 || t = .e2m3 then v % 64 else v % 2 ^ ETwidth t

/-- The operation of one element that never traps. -/
def plainOp (r : Nat × Flags) : ElemOut := .val r.1 r.2

/-- The source fields a form uses, the first arity of three, with their wait bits. -/
def vaSources (f : VA) (arity : Nat) : List (BitVec 7 × BitVec 1) := [(f.va, f.wa), (f.vb, f.wb), (f.vc, f.wc)].take arity

/-- An element-wise form of up to three sources read at the width of ET: vd := op a b c (R231, R235, R236). A form
whose ET is in FLT records (R62). -/
def vForm (word : Word) (f : VA) (arity : Nat) (op : Core → Nat → Nat → Nat → ElemOut) : X Unit := do
  let w := ETwidth f.et
  let a ← readOpnd f.va
  let b ← if 2 ≤ arity then readOpnd f.vb else pure (.bcast 0)
  let c ← if 3 ≤ arity then readOpnd f.vc else pure (.bcast 0)
  let srcs := vaSources f arity
  let n ← vIssue (vaIssue word f (srcs.flatMap fun q => srcOf q.1 q.2) (dstOf f.vd))
  if n = 0 then return
  let k ← self
  vElements (ETflt f.et) n (k.activeBit f.msk) (f.mz == 1) (.vec f.vd.toNat w 0) true
    (plainSources (srcs.map (·.1)) w ++ maskSource f.msk)
    fun i => op k (a.elem w i) (b.elem w i) (c.elem w i)

/-- The operation of NUM: integers wrap modulo 2^w, floating-point results round by VCFG.RM (R234). -/
def numOp (t : ET) (iop : Int → Int → Int → Int) (fop : FpFmt → BitVec 2 → Nat → Nat → Nat → Nat × Flags)
    (k : Core) (a b c : Nat) : ElemOut :=
  match ETfmt t with
  | some F => plainOp (fop F k.rm a b c)
  | none => .val (wrap (ETwidth t) (iop (intVal t a) (intVal t b) (intVal t c))) 0

/-- The operation of INT on the bits of its elements. -/
def bitOp (t : ET) (op : Nat → Nat → Nat → Nat) (_ : Core) (a b c : Nat) : ElemOut :=
  .val (op (ETwidth t) a b % 2 ^ ETwidth t + 0 * c) 0

/-! ### Operations -/

/-- Integer division of one element (R235, R212): truncated towards zero; by zero, all ones with IDZ or the trap. -/
def divElem (word : Word) (t : ET) (k : Core) (a b : Nat) : ElemOut :=
  if b = 0 then
    if (k.csrAt 0x110).getLsbD 0 then .trap causeIdivZero word flagIDZ
    else .val (2 ^ ETwidth t - 1) flagIDZ
  else .val (wrap (ETwidth t) ((intVal t a).tdiv (intVal t b))) 0

/-- FLT: the sign cleared or inverted; a NaN gives the canonical NaN, no flag (R236). -/
def signElem (F : FpFmt) (neg : Bool) (a : Nat) : Nat × Flags :=
  if (F.decode a).isNaN then (F.nan, 0)
  else
    let mag := a % 2 ^ (F.ebits + F.fbits)
    (if neg && !(F.decode a).isNeg then mag + 2 ^ (F.ebits + F.fbits) else mag, 0)

/-- The encoding of 1. -/
def FpFmt.one (F : FpFmt) : Nat := F.pack false F.bias 0

/-- 1 / √a rounded once (R236). -/
def FpFmt.rsqrt (F : FpFmt) (rm : BitVec 2) (a : Nat) : Nat × Flags :=
  match F.decode a with
  | .num neg m e =>
    if m = 0 then (F.inf neg, flagDZ)
    else if neg then (F.nan, flagNV)
    else
      let m := if e % 2 = 0 then m else 2 * m
      let e := if e % 2 = 0 then e else e - 1
      let k := F.fbits + 4 + Nat.log2 m
      let r := isqrt (2 ^ (2 * k) / m)
      F.round rm false false (2 * r + (if r * r * m = 2 ^ (2 * k) then 0 else 1)) (-(k : Int) - 1 - e / 2)
  | .inf neg => if neg then (F.nan, flagNV) else (F.zero false, 0)
  | .nan s => (F.nan, flagIf s flagNV)

/-- The truth of a condition on two elements (R237). -/
def cmpElem (t : ET) (cc : CC) (a b : Nat) : Nat × Flags :=
  match ETfmt t with
  | some F =>
    let x := F.decode a
    let y := F.decode b
    let o := F.compare a b
    let quiet := x.isNaN || y.isNaN
    let r : Bool := match cc with
      | .eq => o == some .eq
      | .ne => o != some .eq
      | .lt | .ltu => o == some .lt
      | .ge | .geu => o == some .gt || o == some .eq
      | .gt | .gtu => o == some .gt
      | .le | .leu => o == some .lt || o == some .eq
    let loud := match cc with
      | .eq | .ne => x.signals || y.signals
      | _ => quiet
    (if r then 1 else 0, flagIf loud flagNV)
  | none =>
    let w := ETwidth t
    let r := ccHolds cc (BitVec.ofInt 64 (signed w a)) (BitVec.ofInt 64 (signed w b))
    let u := ccHolds cc (toWord (a % 2 ^ w)) (toWord (b % 2 ^ w))
    let unsigned := match cc with
      | .ltu | .geu | .gtu | .leu => true
      | _ => false
    (if (if unsigned then u else r) then 1 else 0, 0)

/-! ### Meanings -/

/-- VADD (R235). -/
def execVadd (f : VA) (s : State) : Out := finish 8 (vForm (Instr.word (.vadd f)) f 2 <|
  numOp f.et (fun a b _ => a + b) fun F rm a b _ => F.add rm a b) s
/-- VSUB (R235). -/
def execVsub (f : VA) (s : State) : Out := finish 8 (vForm (Instr.word (.vsub f)) f 2 <|
  numOp f.et (fun a b _ => a - b) fun F rm a b _ => F.sub rm a b) s
/-- VMUL (R235). -/
def execVmul (f : VA) (s : State) : Out := finish 8 (vForm (Instr.word (.vmul f)) f 2 <|
  numOp f.et (fun a b _ => a * b) fun F rm a b _ => F.mul rm a b) s
/-- VMULH (R235). -/
def execVmulh (f : VA) (s : State) : Out := finish 8 (vForm (Instr.word (.vmulh f)) f 2 <|
  numOp f.et (fun a b _ => a * b / 2 ^ ETwidth f.et) fun _ _ a _ _ => (a, 0)) s
/-- VDIV (R235, R232). -/
def execVdiv (f : VA) (s : State) : Out := finish 8 (vForm (Instr.word (.vdiv f)) f 2 <|
  fun k a b c => if ETint f.et then divElem (Instr.word (.vdiv f)) f.et k a b
    else numOp f.et (fun a _ _ => a) (fun F rm a b _ => F.div rm a b) k a b c) s
/-- VMIN (R235). -/
def execVmin (f : VA) (s : State) : Out := finish 8 (vForm (Instr.word (.vmin f)) f 2 <|
  numOp f.et (fun a b _ => min a b) fun F _ a b _ => F.minmax false a b) s
/-- VMAX (R235). -/
def execVmax (f : VA) (s : State) : Out := finish 8 (vForm (Instr.word (.vmax f)) f 2 <|
  numOp f.et (fun a b _ => max a b) fun F _ a b _ => F.minmax true a b) s
/-- VFMA (R235). -/
def execVfma (f : VA) (s : State) : Out := finish 8 (vForm (Instr.word (.vfma f)) f 3 <|
  numOp f.et (fun a b c => a * b + c) fun F rm a b c => F.fma rm false false a b c) s
/-- VFMS (R235). -/
def execVfms (f : VA) (s : State) : Out := finish 8 (vForm (Instr.word (.vfms f)) f 3 <|
  numOp f.et (fun a b c => a * b - c) fun F rm a b c => F.fma rm false true a b c) s
/-- VFNMA (R235). -/
def execVfnma (f : VA) (s : State) : Out := finish 8 (vForm (Instr.word (.vfnma f)) f 3 <|
  numOp f.et (fun a b c => c - a * b) fun F rm a b c => F.fma rm true false a b c) s
/-- VAND (R235). -/
def execVand (f : VA) (s : State) : Out := finish 8 (vForm (Instr.word (.vand f)) f 2 <|
  bitOp f.et fun _ a b => a &&& b) s
/-- VOR (R235). -/
def execVor (f : VA) (s : State) : Out := finish 8 (vForm (Instr.word (.vor f)) f 2 <|
  bitOp f.et fun _ a b => a ||| b) s
/-- VXOR (R235). -/
def execVxor (f : VA) (s : State) : Out := finish 8 (vForm (Instr.word (.vxor f)) f 2 <|
  bitOp f.et fun _ a b => a ^^^ b) s
/-- VSHL (R235). -/
def execVshl (f : VA) (s : State) : Out := finish 8 (vForm (Instr.word (.vshl f)) f 2 <|
  bitOp f.et fun w a b => a * 2 ^ (b % w)) s
/-- VSHR (R235). -/
def execVshr (f : VA) (s : State) : Out := finish 8 (vForm (Instr.word (.vshr f)) f 2 <|
  bitOp f.et fun w a b => a / 2 ^ (b % w)) s
/-- VSRA (R235). -/
def execVsra (f : VA) (s : State) : Out := finish 8 (vForm (Instr.word (.vsra f)) f 2 <|
  bitOp f.et fun w a b => wrap w (signed w a / 2 ^ (b % w))) s
/-- VABS (R236). -/
def execVabs (f : VA) (s : State) : Out := finish 8 (vForm (Instr.word (.vabs f)) f 1 <|
  numOp f.et (fun a _ _ => |a|) fun F _ a _ _ => signElem F false a) s
/-- VNEG (R236). -/
def execVneg (f : VA) (s : State) : Out := finish 8 (vForm (Instr.word (.vneg f)) f 1 <|
  numOp f.et (fun a _ _ => -a) fun F _ a _ _ => signElem F true a) s
/-- VNOT (R236). -/
def execVnot (f : VA) (s : State) : Out := finish 8 (vForm (Instr.word (.vnot f)) f 1 <|
  bitOp f.et fun w a _ => 2 ^ w - 1 - a) s
/-- VSQRT (R236). -/
def execVsqrt (f : VA) (s : State) : Out := finish 8 (vForm (Instr.word (.vsqrt f)) f 1 <|
  numOp f.et (fun a _ _ => a) fun F rm a _ _ => F.sqrt rm a) s
/-- VRCP (R236). -/
def execVrcp (f : VA) (s : State) : Out := finish 8 (vForm (Instr.word (.vrcp f)) f 1 <|
  numOp f.et (fun a _ _ => a) fun F rm a _ _ => F.div rm F.one a) s
/-- VRSQ (R236). -/
def execVrsq (f : VA) (s : State) : Out := finish 8 (vForm (Instr.word (.vrsq f)) f 1 <|
  numOp f.et (fun a _ _ => a) fun F rm a _ _ => F.rsqrt rm a) s
/-- VCLZ (R236). -/
def execVclz (f : VA) (s : State) : Out := finish 8 (vForm (Instr.word (.vclz f)) f 1 <|
  bitOp f.et fun w a _ => leadingZeros w a) s
/-- VPOPC (R236). -/
def execVpopc (f : VA) (s : State) : Out := finish 8 (vForm (Instr.word (.vpopc f)) f 1 <|
  bitOp f.et fun w a _ => popCount w a) s

/-- VCMP (R237): the condition's truth into a mask. -/
def execVcmpCc (cc : CC) (f : VA) (s : State) : Out := finish 8 (do
  let w := ETwidth f.et
  let a ← readOpnd f.va
  let b ← readOpnd f.vb
  let n ← vIssue (vaIssue (Instr.word (.vcmpCc cc f)) f (srcOf f.va f.wa ++ srcOf f.vb f.wb) [])
  if n = 0 then return
  let k ← self
  vElements (ETflt f.et) n (k.activeBit f.msk) (f.mz == 1) (.mask f.vd.toNat) true
    (plainSources [f.va, f.vb] w ++ maskSource f.msk)
    fun i => plainOp (cmpElem f.et cc (a.elem w i) (b.elem w i))) s

/-- VSEL (R238): the mask selects, every element is written. -/
def execVsel (f : VA) (s : State) : Out := finish 8 (do
  let w := ETwidth f.et
  let a ← readOpnd f.va
  let b ← readOpnd f.vb
  let n ← vIssue (vaIssue (Instr.word (.vsel f)) f (srcOf f.va f.wa ++ srcOf f.vb f.wb) (dstOf f.vd))
  if n = 0 then return
  let k ← self
  vElements false n (fun _ => true) false (.vec f.vd.toNat w 0) true
    (plainSources [f.va, f.vb] w ++ maskSource f.msk)
    fun i => .val (elemBits f.et (if k.activeBit f.msk i then a.elem w i else b.elem w i)) 0) s

/-- VMOV (R239): a copy, of the three registers of a group for WAC96. -/
def execVmov (f : VA) (s : State) : Out := finish 8 (if f.et = .wac then do
    let a ← readOpnd96 f.va
    let n ← vIssue (vaIssue (Instr.word (.vmov f)) f (srcOf96 f.va f.wa) (dstOf96 f.vd))
    if n = 0 then return
    let k ← self
    vElements false n (k.activeBit f.msk) (f.mz == 1) (.wac f.vd.toNat) true
      (groupSources f.va ++ maskSource f.msk) fun i => .val (wrap 96 (a.elem i)) 0
  else do
    let w := ETwidth f.et
    let a ← readOpnd f.va
    let n ← vIssue (vaIssue (Instr.word (.vmov f)) f (srcOf f.va f.wa) (dstOf f.vd))
    if n = 0 then return
    let k ← self
    vElements false n (k.activeBit f.msk) (f.mz == 1) (.vec f.vd.toNat w 0) true
      (plainSources [f.va] w ++ maskSource f.msk) fun i => .val (elemBits f.et (a.elem w i)) 0) s

/-- The scalar register of a code 64 to 127 (R187). -/
def scalarOf (code : BitVec 7) : BitVec 6 := code.setWidth 6

/-- VBCAST (R239): row k of the source in every row. -/
def execVbcast (f : VA) (s : State) : Out := finish 8 (do
  let w := ETwidth f.et
  let a ← readOpnd f.va
  let r ← readX (scalarOf f.vb)
  let n ← vIssue (vaIssue (Instr.word (.vbcast f)) f (srcOf f.va f.wa) (dstOf f.vd))
  if n = 0 then return
  let k ← self
  let at_ := fun i => r.toNat * k.vcols + i % k.vcols
  let srcs := if r.toNat < k.vrows then
      (plainSources [f.va] w).map fun q => (q.1, q.2.1, q.2.2.1, at_)
    else []
  vElements false n (k.activeBit f.msk) (f.mz == 1) (.vec f.vd.toNat w 0) true (srcs ++ maskSource f.msk)
    fun i => .val (if r.toNat < k.vrows then elemBits f.et (a.elem w (at_ i)) else 0) 0) s

/-- VIOTA (R239): every element takes its index. -/
def execViota (f : VA) (s : State) : Out := finish 8 (do
  let n ← vIssue (vaIssue (Instr.word (.viota f)) f [] (dstOf f.vd))
  if n = 0 then return
  let k ← self
  vElements false n (k.activeBit f.msk) (f.mz == 1) (.vec f.vd.toNat (ETwidth f.et) 0) true (maskSource f.msk)
    fun i => .val (i % 2 ^ ETwidth f.et) 0) s

/-- VMVX (R239): element k into a scalar register, through a reply. -/
def execVmvx (f : VA) (s : State) : Out := finish 8 (do
  let w := ETwidth f.et
  let a ← readOpnd f.va
  let i ← readX (scalarOf f.vb)
  reserveReply [scalarOf f.vd]
  let n ← vIssue (vaIssue (Instr.word (.vmvx f)) f (srcOf f.va f.wa) [])
  if n = 0 then return
  if i.toNat < n then
    match (← self).badSources (plainSources [f.va] w) i.toNat with
    | c :: _ => trap causeMemUE (regUE c.1 c.2)
    | [] => reply [(scalarOf f.vd, extendElem f.et (elemBits f.et (a.elem w i.toNat)))]
  else reply [(scalarOf f.vd, 0)]) s

/-- VMVS (R239): a scalar into element k; nothing else of the register changes. -/
def execVmvs (f : VA) (s : State) : Out := finish 8 (do
  let v ← readX (scalarOf f.va)
  let i ← readX (scalarOf f.vb)
  let n ← vIssue (vaIssue (Instr.word (.vmvs f)) f [] (dstOf f.vd))
  if i.toNat < n then
    modSelf fun k => k.vwrite (.vec f.vd.toNat (ETwidth f.et) 0) [(i.toNat, elemBits f.et v.toNat)] none) s

end Sys2Proof.Machine
end

