-- ==== Sys2Proof/Machine/VecCross.lean ====
section
/-! DEFINITION. Reductions, scans, cross-lane forms, mask operations and VTOPK (R241 to R247, R252). -/

namespace Sys2Proof.Machine

/-! ### Reductions (R241 to R243) -/

/-- The identity of an operation (R241). -/
def redIdentity (op : RedOp) (t : ET) : Nat :=
  match op, ETfmt t with
  | .add, _ => 0
  | .min, some F => F.inf false
  | .max, some F => F.inf true
  | .min, none => wrap (ETwidth t) (intMax t)
  | .max, none => wrap (ETwidth t) (intMin t)
  | .and, _ => 2 ^ ETwidth t - 1
  | .or, _ | .xor, _ => 0

/-- The combination of two values: RNE in FLT (R241). -/
def redOp (op : RedOp) (t : ET) (a b : Nat) : Nat × Flags :=
  match op, ETfmt t with
  | .add, some F => F.add 0 a b
  | .min, some F => F.minmax false a b
  | .max, some F => F.minmax true a b
  | .add, none => (wrap (ETwidth t) (intVal t a + intVal t b), 0)
  | .min, none => (if intVal t a ≤ intVal t b then a else b, 0)
  | .max, none => (if intVal t a ≤ intVal t b then b else a, 0)
  | .and, _ => (a &&& b, 0)
  | .or, _ => (a ||| b, 0)
  | .xor, _ => (a ^^^ b, 0)

/-- One level of the tree: neighbours combined. -/
def treeLevel (op : Nat → Nat → Nat × Flags) : List Nat → List Nat × Flags
  | a :: b :: rest =>
    let r := op a b
    let t := treeLevel op rest
    (r.1 :: t.1, r.2 ||| t.2)
  | xs => (xs, 0)

/-- The levels of the tree, with fuel for each. -/
def treeGo (op : Nat → Nat → Nat × Flags) : Nat → List Nat → Nat × Flags
  | 0, xs => (xs.headD 0, 0)
  | fuel + 1, xs =>
    let l := treeLevel op xs
    let r := treeGo op fuel l.1
    (r.1, l.2 ||| r.2)

/-- Tree of R242: the values padded with the identity to a power of two, then combined level by level. -/
def redTree (op : Nat → Nat → Nat × Flags) (identity : Nat) (xs : List Nat) : Nat × Flags :=
  let levels := if xs.length ≤ 1 then 0 else Nat.log2 (xs.length - 1) + 1
  treeGo op levels (xs ++ List.replicate (2 ^ levels - xs.length) identity)

/-- One round of a scan at distance d: y[j] is x[j - d] op x[j] (R243), with the flags each position raised. -/
def scanRound (op : Nat → Nat → Nat × Flags) (d : Nat) (x : List (Nat × Flags)) : List (Nat × Flags) :=
  x.take d ++ (x.zip (x.drop d)).map fun p =>
    let r := op p.1.1 p.2.1
    (r.1, p.2.2 ||| r.2)

/-- ScanRow of R243, with fuel for the doublings. -/
def scanGo (op : Nat → Nat → Nat × Flags) (n : Nat) : Nat → Nat → List (Nat × Flags) → List (Nat × Flags)
  | 0, _, x => x
  | fuel + 1, d, x => if d < n then scanGo op n fuel (2 * d) (scanRound op d x) else x

/-- The elements of a row as a reduction reads them: inactive ones enter as the identity. -/
def redRow (op : RedOp) (t : ET) (a : Opnd) (active : Nat → Bool) (first len : Nat) : List Nat :=
  (List.range len).map fun c =>
    if active (first + c) then a.elem (ETwidth t) (first + c) else redIdentity op t

/-- The poisoned words that the active elements of a source, and its mask, hold. -/
def maskedPoison (active : Nat → Bool) (srcs : List (Nat × Nat × Nat × (Nat → Nat))) (k : Core) (i : Nat) :
    List (Nat × Nat) := if active i then k.badSources srcs i else []

/-- A result of a reduction: a NaN is the canonical NaN (R52). -/
def canonElem (t : ET) (v : Nat) : Nat :=
  match ETfmt t with
  | some F => if (F.decode v).isNaN then F.nan else v
  | none => v

/-- VRED (R242). -/
def execVred (op : RedOp) (f : VA) (s : State) : Out := finish 8 (do
  let w := ETwidth f.et
  let scalar := f.vd.getLsbD 6
  let a ← readOpnd f.va
  if scalar then reserveReply [scalarOf f.vd]
  let n ← vWhole (vaIssue (Instr.word (.vred op f)) f (srcOf f.va f.wa) (dstOf f.vd))
  if n = 0 then return
  let active := (← self).activeBit f.msk
  wholePoison n (maskedPoison active (plainSources [f.va] w ++ maskSource f.msk))
  let r := redTree (redOp op f.et) (redIdentity op f.et) (redRow op f.et a active 0 n)
  wholeFlags (ETflt f.et) [(0, r.2)]
  let v := canonElem f.et r.1
  if scalar then reply [(scalarOf f.vd, extendElem f.et v)]
  else modSelf fun k => k.vwrite (.vec f.vd.toNat w 0) [(0, v)] none) s

/-- VREDX (R242): one result for each row. -/
def execVredx (op : RedOp) (f : VA) (s : State) : Out := finish 8 (do
  let w := ETwidth f.et
  let a ← readOpnd f.va
  let n ← vWhole (vaIssue (Instr.word (.vredx op f)) f (srcOf f.va f.wa) (dstOf f.vd))
  if n = 0 then return
  let k ← self
  let active := k.activeBit f.msk
  wholePoison n (maskedPoison active (plainSources [f.va] w ++ maskSource f.msk))
  let rs := (List.range k.vrows).map fun r =>
    (r, redTree (redOp op f.et) (redIdentity op f.et) (redRow op f.et a active (r * k.vcols) k.vcols))
  wholeFlags (ETflt f.et) (rs.map fun r => (r.1, r.2.2))
  modSelf fun k => k.vwrite (.vec f.vd.toNat w 0) (rs.map fun r => (r.1, canonElem f.et r.2.1)) none) s

/-- VSCAN (R243): every combination raises its flags, and an active result alone traps on one (R232, R233; DEDUCED, log 30). -/
def execVscan (op : RedOp) (f : VA) (s : State) : Out := finish 8 (do
  let w := ETwidth f.et
  let a ← readOpnd f.va
  let n ← vWhole (vaIssue (Instr.word (.vscan op f)) f (srcOf f.va f.wa) (dstOf f.vd))
  if n = 0 then return
  let k ← self
  let active := k.activeBit f.msk
  let rows := (List.range k.vrows).flatMap fun r =>
    scanGo (redOp op f.et) k.vcols 17 1
      ((redRow op f.et a active (r * k.vcols) k.vcols).map fun v => (v, (0 : Flags)))
  let rs := (List.range n).zip rows
  wholeCheck n (maskedPoison active (plainSources [f.va] w ++ maskSource f.msk))
    ((rs.filter fun r => active r.1).map fun r => (r.1, r.2.2)) id
  wholeRaise (ETflt f.et) (rs.map fun r => (r.1, r.2.2))
  writeR80 n (f.mz == 1) (.vec f.vd.toNat w 0)
    ((rs.filter fun r => active r.1).map fun r => (r.1, canonElem f.et r.2.1))) s

/-! ### Cross-lane forms (R244, R245) -/

/-- A form whose element i of vd is element src i of va, or 0 where there is none; other: the index operand, read at
i (R244). -/
def crossLane (word : Word) (f : VA) (srcs : List (Nat × Nat × Bool)) (a : Opnd)
    (other : List (Nat × Nat × Nat × (Nat → Nat))) (src : Core → Nat → Nat → Option Nat) : X Unit := do
  let w := ETwidth f.et
  let n ← vWhole (vaIssue word f srcs (dstOf f.vd))
  if n = 0 then return
  let k ← self
  let active := k.activeBit f.msk
  wholePoison n fun k i => maskedPoison active (other ++ maskSource f.msk) k i ++
    match src k n i with
    | some j => if active i then k.badSources ((plainSources [f.va] w).map fun q => (q.1, q.2.1, w, fun _ => j)) i
      else []
    | none => []
  writeR80 n (f.mz == 1) (.vec f.vd.toNat w 0) (((List.range n).filter active).map fun i =>
    (i, match src k n i with
      | some j => elemBits f.et (a.elem w j)
      | none => 0))

/-- VSLIDE.UP (R244). -/
def execVslideUp (f : VA) (s : State) : Out := finish 8 (do
  let a ← readOpnd f.va
  let d ← readX (scalarOf f.vb)
  crossLane (Instr.word (.vslideUp f)) f (srcOf f.va f.wa) a [] fun _ _ i =>
    if d.toNat ≤ i then some (i - d.toNat) else none) s

/-- VSLIDE.DN (R244). -/
def execVslideDn (f : VA) (s : State) : Out := finish 8 (do
  let a ← readOpnd f.va
  let d ← readX (scalarOf f.vb)
  crossLane (Instr.word (.vslideDn f)) f (srcOf f.va f.wa) a [] fun _ n i =>
    if i + d.toNat < n then some (i + d.toNat) else none) s

/-- VPERM (R244). -/
def execVperm (f : VA) (s : State) : Out := finish 8 (do
  let a ← readOpnd f.va
  let b ← readOpnd f.vb
  crossLane (Instr.word (.vperm f)) f (srcOf f.va f.wa ++ srcOf f.vb f.wb) a
    (plainSources [f.vb] (ETwidth f.et)) fun _ n i =>
    let j := b.elem (ETwidth f.et) i
    if j < n then some j else none) s

/-- VSHUF (R244). -/
def execVshuf (f : VA) (s : State) : Out := finish 8 (do
  let a ← readOpnd f.va
  let b ← readOpnd f.vb
  crossLane (Instr.word (.vshuf f)) f (srcOf f.va f.wa ++ srcOf f.vb f.wb) a
    (plainSources [f.vb] (ETwidth f.et)) fun _ n i => some (b.elem (ETwidth f.et) i % n)) s

/-- VTRANS (R244): the mask selects source elements; the layout tag becomes VROWS. -/
def execVtrans (f : VA) (s : State) : Out := finish 8 (do
  let w := ETwidth f.et
  let a ← readOpnd f.va
  let n ← vWhole (vaIssue (Instr.word (.vtrans f)) f (srcOf f.va f.wa) (dstOf f.vd))
  if n = 0 then return
  let k ← self
  let active := k.activeBit f.msk
  wholePoison n (maskedPoison active (plainSources [f.va] w ++ maskSource f.msk))
  writeR80 n (f.mz == 1) (.vec f.vd.toNat w 0) (((List.range n).filter active).map fun i =>
    (i % k.vcols * k.vrows + i / k.vcols, elemBits f.et (a.elem w i)))
  modSelf fun k => { k with vec := { k.vec with
    tag := if f.vd.toNat < 32 then k.vec.tag.setIfInBounds f.vd.toNat k.vrows else k.vec.tag } }) s

/-- VPUSH over the source elements in rising order: the results, newest first, and the bits of ISTAT (R245). -/
def pushGo (n : Nat) (val idx : Nat → Nat) : List Nat → List (Nat × Nat) → Nat → List (Nat × Nat) × Nat
  | [], res, st => (res, st)
  | i :: rest, res, st =>
    let j := idx i
    if j < n then pushGo n val idx rest ((j, val i) :: res) (st ||| (if res.any (·.1 == j) then 1 else 0))
    else pushGo n val idx rest res (st ||| 2)

/-- VPUSH (R245). -/
def execVpush (f : VA) (s : State) : Out := finish 8 (do
  let w := ETwidth f.et
  let a ← readOpnd f.va
  let b ← readOpnd f.vb
  let n ← vWhole (vaIssue (Instr.word (.vpush f)) f (srcOf f.va f.wa ++ srcOf f.vb f.wb) (dstOf f.vd))
  if n = 0 then return
  let k ← self
  let active := k.activeBit f.msk
  wholePoison n (maskedPoison active (plainSources [f.va, f.vb] w ++ maskSource f.msk))
  let r := pushGo n (fun i => elemBits f.et (a.elem w i)) (fun i => b.elem w i) ((List.range n).filter active) [] 0
  writeR80 n false (.vec f.vd.toNat w 0) r.1.reverse
  modSelf fun k => k.setCsr 0x00C (k.csrAt 0x00C ||| toWord r.2)) s

/-! ### Mask operations (R247) -/

/-- The issue of a mask form: its governing width is that of VCFG.EW (R247). -/
def maskIssue (word : Word) : Issue := { word := word, ew := none, et := 0, srcs := [], dsts := [] }

/-- A mask form over the bits of its sources. -/
def maskForm (word : Word) (f : VA) (two : Bool) (op : Bool → Bool → Bool) : X Unit := do
  let n ← vIssue (maskIssue word)
  if n = 0 then return
  let k ← self
  let srcs := maskSource (f.va.setWidth 3) ++ (if two then maskSource (f.vb.setWidth 3) else []) ++ maskSource f.msk
  vElements false n (k.activeBit f.msk) (f.mz == 1) (.mask f.vd.toNat) true srcs fun i =>
    .val (if op (k.vec.maskBit f.va.toNat i) (k.vec.maskBit f.vb.toNat i) then 1 else 0) 0

/-- MAND (R247). -/
def execMand (f : VA) (s : State) : Out := finish 8 (maskForm (Instr.word (.mand f)) f true fun a b => a && b) s
/-- MOR (R247). -/
def execMor (f : VA) (s : State) : Out := finish 8 (maskForm (Instr.word (.mor f)) f true fun a b => a || b) s
/-- MXOR (R247). -/
def execMxor (f : VA) (s : State) : Out := finish 8 (maskForm (Instr.word (.mxor f)) f true fun a b => a != b) s
/-- MNOT (R247). -/
def execMnot (f : VA) (s : State) : Out := finish 8 (maskForm (Instr.word (.mnot f)) f false fun a _ => !a) s

/-- A form that returns a count or an index of mask bits through a reply; it ignores VSTART (R247). -/
def maskCount (word : Word) (f : VA) (res : List Nat → Word) : X Unit := do
  reserveReply [scalarOf f.vd]
  let n ← vIssue (maskIssue word)
  if n = 0 then return
  let k ← self
  let active := k.activeBit f.msk
  wholePoison n (maskedPoison active (maskSource (f.va.setWidth 3) ++ maskSource f.msk))
  reply [(scalarOf f.vd, res ((List.range n).filter fun i => active i && k.vec.maskBit f.va.toNat i))]

/-- MPOPC (R247). -/
def execMpopc (f : VA) (s : State) : Out :=
  finish 8 (maskCount (Instr.word (.mpopc f)) f fun l => toWord l.length) s
/-- MFIRST (R247). -/
def execMfirst (f : VA) (s : State) : Out := finish 8 (maskCount (Instr.word (.mfirst f)) f fun l => match l with
  | [] => BitVec.allOnes 64
  | i :: _ => toWord i) s

/-! ### VTOPK (R252) -/

/-- Element i of value a stands before element j of value b: larger first, NaNs last, lower index first. -/
def topBefore (t : ET) (i a j b : Nat) : Bool :=
  match ETfmt t with
  | some F =>
    let x := F.decode a
    let y := F.decode b
    if x.isNaN && y.isNaN then i < j
    else if x.isNaN then false
    else if y.isNaN then true
    else match x.cmp y with
      | .gt => true
      | .lt => false
      | .eq => i < j
  | none => intVal t b < intVal t a || (intVal t a == intVal t b && i < j)

/-- An element put into a list ordered by R252. -/
def topInsert (t : ET) (i a : Nat) : List (Nat × Nat) → List (Nat × Nat)
  | [] => [(i, a)]
  | p :: rest => if topBefore t i a p.1 p.2 then (i, a) :: p :: rest else p :: topInsert t i a rest

/-- VTOPK (R252). -/
def execVtopk (f : VA) (s : State) : Out := finish 8 (do
  let w := ETwidth f.et
  let a ← readOpnd f.va
  let b ← readX (scalarOf f.vb)
  let n ← vWhole (vaIssue (Instr.word (.vtopk f)) f (srcOf f.va f.wa) [f.vd.toNat, f.vd.toNat + 1])
  if n = 0 then return
  let active := (← self).activeBit f.msk
  wholePoison n (maskedPoison active (plainSources [f.va] w ++ maskSource f.msk))
  let order := ((List.range n).filter active).foldl (fun l i => topInsert f.et i (a.elem w i) l) []
  let top := order.take b.toNat
  let at_ := List.range top.length
  modSelf fun k => (k.vwrite (.vec f.vd.toNat w 0) (at_.zip (top.map (·.2))) none).vwrite
    (.vec (f.vd.toNat + 1) w 0) (at_.zip (top.map fun p => p.1 % 2 ^ w)) none) s

end Sys2Proof.Machine
end

