-- ==== Sys2Proof/Machine/VecCvt.lean ====
section
/-! DEFINITION. Conversions, block scales, the wide accumulator forms and VMETA (R248 to R251, R288). -/

namespace Sys2Proof.Machine

/-! ### Conversions (R248, R249) -/

/-- The block size of a conversion: 64 when either type is E2M1, else 32 (R249). -/
def blockSize (a b : ET) : Nat := if a = .e2m1 || b = .e2m1 then 64 else 32

/-- A narrow floating-point type (R57). -/
def ETnarrow : ET → Bool
  | .e4m3 | .e5m2 | .e3m2 | .e2m3 | .e2m1 => true
  | _ => false

/-- A conversion between these types records (R62). -/
def cvtRecords (a b : ET) : Bool := ETflt a || ETflt b || ETnarrow a || ETnarrow b

/-- A conversion with the scale X: divide or multiply by 2^(X - 127), an I8 element being an MXINT8 element n / 64
(R249, R64). -/
def scaleConvert (dst src : ET) (divide : Bool) (rm : BitVec 2) (satf : Bool) (x b : Nat) : Nat × Flags :=
  let e : Int := (x : Int) - 127
  let e := (if divide then -e else e) - (if src = .i8 then 6 else 0) + (if dst = .i8 then 6 else 0)
  let v := if x = 0xFF then .nan false else match elemVal src b with
    | .num neg m q => .num neg m (q + e)
    | v => v
  match ETfmt dst with
  | some F => F.convert rm satf v
  | none => toInt dst rm v

/-- The capacity in elements of width w of the register a code names (R249, R82). -/
def Core.capacity (k : Core) (code w : Nat) : Nat := if code < 32 then k.capBits / w else 1024

/-- A conversion: gov the type of the governing width, divide how the scale enters, wide whether an offset applies to
the source (WIDEN) or to the destination (R249). -/
def conversion (word : Word) (src : ET) (f : VA) (gov : ET) (divide wide : Bool) : X Unit := do
  let ws := ETwidth src
  let wd := ETwidth f.et
  let a ← readOpnd f.va
  let scaled := f.vb != 0
  let sc ← if scaled then readOpnd f.vb else pure (.bcast 0)
  let offset := f.vc.getLsbD 6
  let j ← if offset then readX (scalarOf f.vc) else pure 0
  let k0 := j.toNat
  let limit := fun (n : Nat) => do
    let reg := if wide then f.va else f.vd
    if offset && !reg.getLsbD 6 then
      require (k0 + n ≤ (← self).capacity reg.toNat (if wide then ws else wd)) causeShape (toWord (k0 + n))
  let srcs := srcOf f.va f.wa ++ (if scaled then srcOf f.vb f.wb else [])
  let n ← vIssue { word := word, ew := some (ETew gov), et := f.et.code, srcs := srcs, dsts := dstOf f.vd } limit
  if n = 0 then return
  let k ← self
  let block := blockSize src f.et
  let so := if wide then k0 else 0
  let poison := ((plainSources [f.va] ws).map fun q => (q.1, q.2.1, q.2.2.1, (· + so))) ++
    (if scaled then (plainSources [f.vb] 8).map fun q => (q.1, q.2.1, q.2.2.1, (· / block)) else [])
  vElements (cvtRecords src f.et) n (k.activeBit f.msk) (f.mz == 1)
    (.vec f.vd.toNat wd (if wide then 0 else k0)) (wide || !offset) (poison ++ maskSource f.msk) fun i =>
    plainOp (if scaled then scaleConvert f.et src divide k.rm k.satf (sc.elem 8 (i / block)) (a.elem ws (i + so))
      else convertElem f.et src k.rm k.satf k.sati (a.elem ws (i + so)))

/-- VCVT (R249): both types of one width; a scale divides. -/
def execVcvt (src : ET) (f : VA) (s : State) : Out :=
  finish 8 (conversion (Instr.word (.vcvt src f)) src f f.et true false) s
/-- VCVT.NARROW (R249). -/
def execVcvtNarrow (src : ET) (f : VA) (s : State) : Out :=
  finish 8 (conversion (Instr.word (.vcvtNarrow src f)) src f src true false) s
/-- VCVT.WIDEN (R249). -/
def execVcvtWiden (src : ET) (f : VA) (s : State) : Out :=
  finish 8 (conversion (Instr.word (.vcvtWiden src f)) src f f.et false true) s
/-- VCVT.F32.E2M1 (R249). -/
def execVcvtF32E2m1 (src : ET) (f : VA) (s : State) : Out :=
  finish 8 (conversion (Instr.word (.vcvtF32E2m1 src f)) src f src true false) s

/-! ### Block scales (R250) -/

/-- VSCALE (R250). -/
def execVscale (src : ET) (f : VA) (s : State) : Out := finish 8 (do
  let w := ETwidth src
  let a ← readOpnd f.va
  let n ← vWhole { word := Instr.word (.vscale src f), ew := some (ETew src), et := f.et.code,
                   srcs := srcOf f.va f.wa, dsts := dstOf f.vd }
  if n = 0 then return
  let k ← self
  let active := k.activeBit f.msk
  wholePoison n (maskedPoison active (plainSources [f.va] w ++ maskSource f.msk))
  let block := blockSize src f.et
  let val := fun i => if active i then elemVal src (a.elem w i) else .num false 0 0
  modSelf fun k => k.vwrite (.vec f.vd.toNat 8 0) ((List.range (cdiv n block)).map fun b =>
    (b, scaleRule f.et ((List.range (min block (n - block * b))).map fun i => val (block * b + i)))) none) s

/-! ### The wide accumulator (R251) -/

/-- A form with an FP64 operand holds at most VCAP.BITS / 64 elements (R251). -/
def wacLimit (t : ET) (n : Nat) : X Unit := do
  if t = .f64 then require (n ≤ (← self).capBits / 64) causeShape (toWord n)

/-- The issue of a wide accumulator form: governing width 96 (R251). -/
def wacIssue (word : Word) (f : VA) (srcs : List (Nat × Nat × Bool)) (dsts : List Nat) : Issue :=
  { word := word, ew := some 5, et := f.et.code, srcs := srcs, dsts := dsts }

/-- VADD.WAC (R251). -/
def execVaddWac (f : VA) (s : State) : Out := finish 8 (do
  let a ← readOpnd96 f.va
  let b ← readOpnd96 f.vb
  let n ← vIssue (wacIssue (Instr.word (.vaddWac f)) f (srcOf96 f.va f.wa ++ srcOf96 f.vb f.wb) (dstOf96 f.vd))
  if n = 0 then return
  let k ← self
  vElements true n (k.activeBit f.msk) (f.mz == 1) (.wac f.vd.toNat) true
    (groupSources f.va ++ groupSources f.vb ++ maskSource f.msk) fun i =>
    let r := wacSat (a.elem i + b.elem i)
    .val (wrap 96 r.1) r.2) s

/-- VCVT.S.WAC (R251). -/
def execVcvtWac (f : VA) (s : State) : Out := finish 8 (do
  let w := ETwidth f.et
  let a ← readOpnd f.va
  let n ← vIssue (wacIssue (Instr.word (.vcvtWac f)) f (srcOf f.va f.wa) (dstOf96 f.vd)) (wacLimit f.et)
  if n = 0 then return
  let k ← self
  vElements true n (k.activeBit f.msk) (f.mz == 1) (.wac f.vd.toNat) true
    (plainSources [f.va] w ++ maskSource f.msk) fun i =>
    let v := elemVal f.et (a.elem w i)
    let r := toWac (wacExp k.wace) v
    .val (wrap 96 r.1) r.2) s

/-- VCVT.WAC.D (R251). -/
def execVcvtFwac (f : VA) (s : State) : Out := finish 8 (do
  let w := ETwidth f.et
  let a ← readOpnd96 f.va
  let n ← vIssue (wacIssue (Instr.word (.vcvtFwac f)) f (srcOf96 f.va f.wa) (dstOf f.vd)) (wacLimit f.et)
  if n = 0 then return
  let k ← self
  vElements true n (k.activeBit f.msk) (f.mz == 1) (.vec f.vd.toNat w 0) true
    (groupSources f.va ++ maskSource f.msk) fun i =>
    match ETfmt f.et with
    | some F => plainOp (fromWac (wacExp k.wace) F (a.elem i))
    | none => .val 0 0) s

/-! ### Sparsity metadata (R288) -/

/-- The code of a quad: its two set bits, the higher index in [3:2]; 0 for any other quad (R288). -/
def quadCode (q : Nat → Bool) : Nat :=
  match (List.range 4).filter q with
  | [l, h] => 4 * h + l
  | _ => 0

/-- One metadata word: eight quads (R288). -/
def metaWord (bit : Nat → Bool) : Nat :=
  (List.range 8).foldl (fun acc q => acc + quadCode (fun j => bit (4 * q + j)) * 16 ^ q) 0

/-- VMETA (R288). -/
def execVmeta (f : VA) (s : State) : Out := finish 8 (do
  let n ← vWhole { word := Instr.word (.vmeta f), ew := some 3, et := f.et.code, srcs := [], dsts := dstOf f.vd }
  if n = 0 then return
  let k ← self
  wholePoison n (maskedPoison (fun _ => true) (maskSource (f.va.setWidth 3)))
  let words := cdiv k.vcols 32
  modSelf fun k => k.vwrite (.vec f.vd.toNat 32 0) ((List.range (k.vrows * words)).map fun e =>
    let r := e / words
    let h := e % words
    (e, metaWord fun p => decide (32 * h + p < k.vcols) &&
      k.vec.maskBit f.va.toNat (r * k.vcols + 32 * h + p))) none) s

end Sys2Proof.Machine
end

