-- ==== Sys2Proof/Machine/MemVector.lean ====
section
/-! DEFINITION. The vector memory instructions: loads, stores, gathers, scatters, scatter-add, vector atomics, spill and
fill (R16 to R19, R35, R36, R73 to R77, R87, R142, R257 to R265). -/

namespace Sys2Proof.Machine

/-! ### Places of elements -/

/-- How an access lays its elements out (R258): space, width of ET, bytes of an element, half for 4-bit positions,
access kind, base, whether an MSU performs it, and the condition on a formatted page. -/
structure VMem where
  space : Nat
  w     : Nat
  size  : Nat
  half  : Bool
  kind  : Nat
  base  : Word
  msu   : Bool
  noHost : Bool
  fmtOk : Word → Nat → Bool
  noMmio : Bool := false

/-- Where an element lies: its parts, lowest first, with their bytes; the nibble of a 4-bit element; the address that
a fault names. -/
structure Place where
  parts : List (Spot × Nat)
  nib   : Nat
  addr  : Nat

/-- The least alignment of an element (R260). -/
def VMem.align (m : VMem) : Nat := if m.half then 1 else if m.w = 96 then 4 else min m.size 8

/-- The place of an element at a displacement and nibble; rewalk: the page whose walk is repeated, in TENSOR space before the
line of the element is filled (R18, R36, R260; a WAC96 element in GLOBAL is three limbs, log 15). -/
def VMem.place (m : VMem) (c : Ctx) (d : Int) (nib : Nat) (rewalk : Option Nat) : X Place := do
  if m.space = 3 then
    let e : Int := bits m.base 0 48 + d
    let (p, nb) ← resolveT c (bits m.base 48 16) e m.w m.kind
    match p, rewalk with
    | .tensor d tid n _ addr, some q => do let _ ← tensorFill c d tid n m.kind (some addr) false (some q)
    | _, _ => pure ()
    return ⟨[(p, m.size)], nb, wrap 56 e⟩
  else
    let a : Word := BitVec.ofInt 64 (m.base.toNat + d)
    require (a.toNat % m.align == 0) causeMisalign a
    match m.space with
    | 0 =>
      let n := if m.w = 96 then 4 else m.size
      let ps ← (List.range (m.size / n)).mapM fun j => do
        let b := a + toWord (n * j)
        let q : Ask := { kind := m.kind, n := n, msu := m.msu, noHost := m.noHost, noMmio := m.noMmio
                         rewalk := rewalk == some (bits b 12 44) }
        let p ← resolveG c b q m.fmtOk
        return (p, n)
      return ⟨ps, nib, bits a 0 56⟩
    | 1 =>
      let p ← resolveS c a.toNat m.size m.kind
      return ⟨[(p, m.size)], nib, bits a 0 56⟩
    | _ =>
      let p ← resolveP c a.toNat m.size m.kind
      return ⟨[(p, m.size)], nib, bits a 0 56⟩

/-- A value read from a place: its parts from the lowest, or its nibble. -/
def Place.read (p : Place) (c : Ctx) (half : Bool) (kind : Nat) : X Nat := do
  let r ← p.parts.foldlM (fun (acc : Nat × Nat) q => do
    let v ← spotRead c q.1 q.2 kind p.addr
    return (acc.1 + v * 2 ^ acc.2, acc.2 + 8 * q.2)) (0, 0)
  return if half then fld r.1 (4 * p.nib) 4 else r.1

/-- A value written to a place, its nibble alone where the element has 4 bits (R49). -/
def Place.write (p : Place) (c : Ctx) (half : Bool) (v : Nat) : X Unit := do
  let _ ← p.parts.foldlM (fun (o : Nat) q => do
    if half then spotWrite c q.1 q.2 (15 * 16 ^ p.nib) (v % 16 * 16 ^ p.nib)
    else spotWrite c q.1 q.2 (allBits q.2) (fld v o (8 * q.2))
    return o + 8 * q.2) 0

/-! ### Displacements (R259) -/

/-- How a form makes displacements: unit; a stride; an index operand of a width. -/
inductive VForm where
  | unit
  | strided (x : Int)
  | indexed (o : Opnd) (w : Nat)

/-- The displacement and nibble of the element at position g of a shape of cols columns; s bytes an element. -/
def VForm.disp (v : VForm) (disp : Int) (s cols g : Nat) (half : Bool) : Int × Nat :=
  let pos := match v with
    | .unit => g
    | .strided _ => g % cols
    | .indexed o w => o.elem w g
  let extra : Int := match v with
    | .strided x => (g / cols : Nat) * x
    | _ => 0
  if half then (disp + extra + (pos / 2 : Nat), pos % 2) else (disp + extra + (pos * s : Nat), 0)

/-- The index sources of a form. -/
def VForm.sources : VForm → List (Nat × Nat × Nat × (Nat → Nat))
  | .indexed (.array c _) w => [(c, c, w, id)]
  | _ => []

/-! ### The loop over elements (R260) -/

/-- What an element gives: a value with flags, nothing, or a fault recorded in the mask (R262). -/
inductive MemOut where
  | value (v : Nat) (f : Flags)
  | done
  | faulted
  deriving DecidableEq, Repr

/-- What a memory loop has done so far; results newest first. -/
structure MLoop where
  res    : List (Nat × Nat)
  flags  : Flags
  vfx0   : Word
  vfx1   : Word
  faults : List Nat
  deriving DecidableEq, Repr

/-- The elements from i on, fuel of them, until one stops (R35). -/
def memLoop (active : Nat → Bool) (zero : Bool) (body : Nat → X MemOut) :
    Nat → Nat → MLoop → State → MLoop × Option (Nat × Stop) × State
  | 0, _, l, s => (l, none, s)
  | fuel + 1, i, l, s =>
    if active i then
      match body i s with
      | .error e t => (l, some (i, e), t)
      | .ok (.value v f) t => memLoop active zero body fuel (i + 1)
          { l with res := (i, v) :: l.res, flags := l.flags ||| f, vfx0 := vfx0Record l.vfx0 f i
                   vfx1 := vfx1Record l.vfx1 f i } t
      | .ok .done t => memLoop active zero body fuel (i + 1) l t
      | .ok .faulted t => memLoop active zero body fuel (i + 1) { l with faults := i :: l.faults } t
    else memLoop active zero body fuel (i + 1) (if zero then { l with res := (i, 0) :: l.res } else l) s

/-- The results of the elements below stop, written (R35, R260, R262): the destination, the flags, the fault mask. -/
def memCommit (dst : Option Dst) (record peer : Bool) (vs stop : Nat) (final : Option Nat) (l : MLoop) (k : Core) :
    Core :=
  let k := k.orFlags l.flags
  let k := if record then (k.setCsr 0x00A l.vfx0).setCsr 0x00B l.vfx1 else k
  let tail := match final with
    | some n => if k.tailz then some n else none
    | none => none
  let k := match dst with
    | some d => k.vwrite d (l.res.filter fun r => r.1 < stop) tail
    | none => k
  if peer then k.vwrite (.mask 7) ((List.range (stop - vs)).map fun j =>
      (vs + j, if l.faults.contains (vs + j) then 1 else 0)) tail
  else k

/-- What a form asks of the loop: its destination, whether it zeroes inactive elements, records flags, keeps a fault
mask, may be started again from its beginning when it waits, and the group in which a fault is reported (R75). -/
structure MForm where
  dst    : Option Dst
  zero   : Bool
  record : Bool
  peer   : Bool
  restart : Bool
  group  : Nat

/-- The page that a stop records, where it is a translation fault (R36). -/
def Stop.page (e : Stop) (page : Word → Option Nat) : Option Nat :=
  match e with
  | .trap c v => if c == causePage || c == causeAccess then page v else none
  | _ => none

/-- The page that an instruction which stops records, in the place of its own older one (R36). -/
def Core.repage (k : Core) (page : Option Nat) : Core :=
  { k with cache := { k.cache with pin := match page with
    | some p => some ⟨k.pc, p⟩
    | none => if k.cache.pin.any (·.pc == k.pc) then none else k.cache.pin } }

/-- A vector memory form over n elements from VSTART (R35, R36, R260): page gives the page to record for an element and a
trap value. -/
def memElements (m : MForm) (n : Nat) (active : Nat → Bool) (page : State → Nat → Word → Option Nat)
    (body : Nat → X MemOut) : X Unit := fun s =>
  let k := s.self
  let vs := k.vstart
  let start : MLoop := if m.record && vs == 0 then ⟨[], 0, vfx0Empty, vfx1Empty, []⟩ else ⟨[], 0, k.vfx0, k.vfx1, []⟩
  match memLoop active m.zero body (n - vs) vs start s with
  | (l, none, t) =>
    .ok () (t.modSelf fun k => ((memCommit m.dst m.record m.peer vs n (some n) l k).setCsr 0x003 0).repage none)
  | (l, some (i, e), t) =>
    match e with
    | .wait w =>
      if m.restart then
        .error (.wait w) { s with ms := s.ms.keepAsks t.ms }
      else
        .error (.wait w) (t.modSelf fun k =>
          (memCommit m.dst m.record m.peer vs i none l k).setCsr 0x003 (toWord i))
    | e =>
      let fp := match e with
        | .trap c _ => c == causeFpTrap
        | _ => false
      let stop := if fp then i else i / m.group * m.group
      .error e (t.modSelf fun k =>
        ((memCommit m.dst m.record m.peer vs stop none l k).setCsr 0x003 (toWord stop)).repage (e.page fun v => page t i v))

/-- The page whose walk a resumed instruction repeats at element i (R36). -/
def Core.repin (k : Core) (i : Nat) : Option Nat :=
  match k.cache.pin with
  | some p => if p.pc = k.pc && i = k.vstart then some p.page else none
  | none => none

/-- A poisoned register word among the sources of element i traps (R95). -/
def cleanSources (srcs : List (Nat × Nat × Nat × (Nat → Nat))) (i : Nat) : X Unit := do
  match (← self).badSources srcs i with
  | c :: _ => trap causeMemUE (regUE c.1 c.2)
  | [] => return

/-! ### Formatted pages (R70 to R75) -/

/-- The native ET of a page format (R70). -/
def fmtNative : Nat → Option ET
  | 1 => some .e4m3 | 2 => some .e5m2 | 3 => some .e2m1 | 4 => some .e3m2 | 5 => some .e2m3
  | 6 => some .i8 | 7 => some .kc2 | 8 => some .bf16 | _ => none

/-- The bytes of a stored element (R70), 1 for the half byte of FMT 3. -/
def fmtSize : Nat → Nat
  | 7 | 8 => 2
  | _ => 1

/-- The unit byte of the scale of an element at a page offset and nibble (R71, R72). -/
def scaleByte (fmt blk off nib : Nat) : Nat :=
  0xF80 + (if blk = 1 then
      (if fmt = 3 then (2 * off + nib) % 248 / 2 else off % 124)
    else match fmt with
      | 3 => (2 * off + nib) / 64
      | 7 => off / 2 / 32
      | _ => off / 32)

/-- The value of a stored element before its scale; weight j of an index of FMT 7 (R64, R68, R74). -/
def fmtVal (k : Core) (fmt raw j : Nat) : FVal :=
  match fmt with
  | 6 => match elemVal .i8 raw with
    | .num neg m _ => .num neg m (-6)
    | v => v
  | 7 => kc2Val (fld k.eng.codebook.toNat (32 * fld raw 8 8) 32) raw j
  | f => match fmtNative f with
    | some t => elemVal t raw
    | none => .num false 0 0

/-- The value of an element of a formatted page with its scale: a second read (R74, R77). Poison in the scale is
reported at the element's address. -/
def scaledVal (c : Ctx) (h : Hit) (fmt raw j nib kind addr : Nat) : X FVal := do
  let v := fmtVal ((← get).core c.core) fmt raw j
  if fmt = 8 then return v
  else
    let o := scaleByte fmt (pteBlk h.pte) (h.pa % 4096) nib
    let x ← spotRead c (.plain { h with pa := h.pa / 4096 * 4096 + o, ga := h.ga / 4096 * 4096 + o }) 1 kind addr
    return scaleVal x v

/-- The condition of a load of a type on a page whose elements it does not decode (R73, R74). -/
def rawLoadOk (t : ET) (n : Nat) (e : Word) (pa : Nat) : Bool :=
  (pteFmt e == 0 || fmtNative (pteFmt e) == some t) && rawReadOk n e pa

/-- The FMT of the page of a load's anchor (R258); none where the anchor does not translate. A host page that ATS has
not granted is waited for. -/
def anchorFmt (c : Ctx) (a : Word) : X (Option Nat) := fun s =>
  match atomically (resolveGlobal c a { kind := 0, n := 1 } anyFormat) s with
  | .ok h _ => .ok (some (pteFmt h.pte)) s
  | .error (.wait w) t => .error (.wait w) t
  | .error _ _ => .ok none s

/-! ### Loads and stores -/

/-- The vector issue of a VM form: ET's width governs (R257). -/
def vmIssue (word : Word) (f : VM) (srcs : List (Nat × Nat × Bool)) (dsts : List Nat) : Issue :=
  { word := word, ew := some (ETew f.et), et := f.et.code, srcs := srcs, dsts := dsts }

/-- The register of a VM form as a destination. -/
def vmDst (f : VM) : Dst := if f.et = .wac then .wac f.vd.toNat else .vec f.vd.toNat (ETwidth f.et) 0

def vmDsts (f : VM) : List Nat := if f.et = .wac then dstOf96 f.vd else dstOf f.vd

/-- The register of a VM form as a source, with the wait bit of the form. -/
def vmSrcs (f : VM) : List (Nat × Nat × Bool) := if f.et = .wac then srcOf96 f.vd f.wa else srcOf f.vd f.wa

/-- The index operand as a source (R257): wa governs it. -/
def idxSrc (f : VM) : List (Nat × Nat × Bool) := srcOf f.idx f.wa

/-- The displacement form of a unit, strided or indexed access (R259). -/
def unitForm : X VForm := return .unit
def stridedForm (f : VM) : X VForm := return .strided (← readX (scalarOf f.idx)).toInt
def indexedForm (f : VM) : X VForm :=
  return .indexed (← readOpnd f.idx) (if f.et = .wac then 32 else ETwidth f.et)

/-- Bytes of an element outside a decode load (R258). -/
def etBytes (t : ET) : Nat := if t = .wac then 12 else max 1 (ETwidth t / 8)

/-- The page that a translation fault of an element records (R36): in GLOBAL that of the address in its syndrome, in TENSOR
space that of the element's virtual address. -/
def VMem.page (m : VMem) (d : Int) (s : State) (tval : Word) : Option Nat :=
  match m.space with
  | 0 => some (bits tval 12 44)
  | 3 =>
    let k := s.self
    let e : Int := bits m.base 0 48 + d
    (s.ms.desc.find? fun q => q.cluster == clusterOf s.cur && q.tenant == k.tk.tenant && q.asid == k.asid &&
      q.tid.toNat == bits m.base 48 16).map fun q =>
        let dsc : Desc := ⟨q.dw⟩
        dsc.address (dsc.coords e.toNat) / 4096
  | _ => none

/-- The format of the pages that a load decodes, 0 for none (R258). -/
def loadFmt (c : Ctx) (f : VM) (space : Nat) (a : Word) : X Nat := do
  match ← (if ETflt f.et && space == 0 then anchorFmt c a else pure none) with
  | some q => return if 1 ≤ q && q ≤ 8 then q else 0
  | none => return 0

/-- How the elements of a load lie (R258): s is that of the format of its pages. -/
def VMem.ofLoad (f : VM) (space fmt : Nat) (xa : Word) : VMem :=
  let size := if fmt != 0 then fmtSize fmt else etBytes f.et
  { space := space, w := ETwidth f.et, size := size, half := if fmt != 0 then fmt == 3 else ETwidth f.et == 4
    kind := 0, base := xa, msu := false, noHost := false
    fmtOk := fun e pa => if ETflt f.et then pteFmt e == fmt && rawReadOk size e pa
      else rawLoadOk f.et (if f.et = .wac then 4 else size) e pa }

/-- Elements of a load that share a stored position: eight weights of an index of FMT 7 (R74, R75). -/
def loadPer (fmt : Nat) : Nat := if fmt = 7 then 8 else 1

/-- The displacement of element i of a load; on pages of FMT 7 the row and the column of a stride are those of the stored
position floor(i / 8) (R75, R259; DESIGN CHOICE, log 68). -/
def VMem.loadAt (m : VMem) (f : VM) (v : VForm) (cols per i : Nat) : Int × Nat :=
  v.disp f.value.toInt (if m.space = 3 then 1 else m.size) cols (i / per) (m.half && m.space != 3)

/-- The thread has executed what ran ahead at this address (R143). -/
def Core.aheadDone (k : Core) : Core := { k with cache := { k.cache with ahead := k.cache.ahead.filter (·.pc != k.pc) } }

/-- A load, unit, strided or gather (R258 to R260, R262). -/
def vload (word : Word) (f : VM) (form : X VForm) (idx : List (Nat × Nat × Bool)) (gather : Bool) : X Unit := do
  let xa ← readX f.xa
  let v ← form
  let n ← vIssue (vmIssue word f idx (vmDsts f))
  if n = 0 then return
  let c ← selfCtx
  let k ← self
  let fmt ← loadFmt c f k.space (xa + f.value)
  let decode := fmt != 0
  let m := VMem.ofLoad f k.space fmt xa
  let half := m.half
  let per := loadPer fmt
  let at_ := m.loadAt f v k.vcols per
  let peer := gather && k.space == 2
  ordBefore f.ord.toNat
  let srcs := (v.sources.map fun q => (q.1, q.2.1, q.2.2.1, (· / per))) ++ maskSource f.msk
  ordAround f.ord.toNat k.scope <| memElements
    { dst := some (vmDst f), zero := f.mz == 1, record := decode, peer := peer, restart := true, group := per }
    n (k.activeBit f.msk) (fun s i => m.page (at_ i).1 s) (fun i => do
      cleanSources srcs i
      let d := at_ i
      let body : X MemOut := do
        let p ← m.place c d.1 d.2 (k.repin i)
        let raw ← p.read c half 0
        if decode then
          match p.parts with
          | [(.plain h, _)] =>
            let x ← scaledVal c h fmt raw (i % 8) p.nib 0 p.addr
            match ETfmt f.et with
            | some F =>
              let r := F.convert k.rm k.satf x
              require (!k.trapping r.2) causeFpTrap (fpTrapValue r.2 i true)
              return .value r.1 r.2
            | none => return .done
          | _ => return .done
        else return .value (elemBits f.et raw) 0
      if peer then
        tryCatch body fun e => match e with
          | .trap 0x11 _ => return .faulted
          | e => throw e
      else body)
  modSelf Core.aheadDone

/-- VLD, unit (R259, R260). -/
def execVldUnit (f : VM) (s : State) : Out := finish (extSize f.ext) (vload (Instr.word (.vldUnit f)) f unitForm [] false) s
/-- VLD, strided (R259, R260). -/
def execVldStrided (f : VM) (s : State) : Out :=
  finish (extSize f.ext) (vload (Instr.word (.vldStrided f)) f (stridedForm f) [] false) s
/-- VLDX (R259, R260, R262). -/
def execVldx (f : VM) (s : State) : Out :=
  finish (extSize f.ext) (vload (Instr.word (.vldx f)) f (indexedForm f) (idxSrc f) true) s

/-- The element of the register of a VM form. -/
def vmElem (f : VM) (u : VecUnit) (i : Nat) : Nat :=
  if f.et = .wac then
    (List.range 3).foldr (fun j acc => fld (u.bitsOf (f.vd.toNat + j)) (32 * i) 32 + 2 ^ 32 * acc) 0
  else elemBits f.et (fld (u.bitsOf f.vd.toNat) (ETwidth f.et * i) (ETwidth f.et))

/-- The register of a VM form as a source of words. -/
def vmSources (f : VM) : List (Nat × Nat × Nat × (Nat → Nat)) :=
  if f.et = .wac then groupSources f.vd else plainSources [f.vd] (ETwidth f.et)

/-- A higher active element names the place of element i. -/
def overwritten (n : Nat) (active : Nat → Bool) (place : Nat → Int × Nat) (i : Nat) : Bool :=
  (List.range n).any fun j => i < j && active j && place j == place i

/-- A store, unit, strided or scatter (R259 to R262). Of a scatter's elements that name one address the highest alone is
written (R142). -/
def vstore (word : Word) (f : VM) (form : X VForm) (idx : List (Nat × Nat × Bool)) (scatter : Bool) : X Unit := do
  let xa ← readX f.xa
  let v ← form
  let n ← vIssue (vmIssue word f (vmSrcs f ++ idx) [])
  if n = 0 then return
  let c ← selfCtx
  let k ← self
  let space := k.space
  let half := ETwidth f.et == 4
  let m : VMem := { space := space, w := ETwidth f.et, size := etBytes f.et, half := half, kind := 1, base := xa,
                    msu := false, noHost := false, fmtOk := anyFormat }
  let s := if space = 3 then 1 else etBytes f.et
  let at_ := fun i => v.disp f.value.toInt s k.vcols i (half && space != 3)
  let named := fun i => if space = 3 then at_ i else ((wrap 64 (at_ i).1 : Int), (at_ i).2)
  let peer := scatter && space == 2
  ordBefore f.ord.toNat
  ordAround f.ord.toNat k.scope <| memElements
    { dst := none, zero := false, record := false, peer := peer, restart := false, group := 1 }
    n (k.activeBit f.msk) (fun s i => m.page (at_ i).1 s) (fun i => do
      cleanSources (v.sources ++ maskSource f.msk) i
      let d := at_ i
      let body : X MemOut := do
        let p ← m.place c d.1 d.2 (k.repin i)
        cleanSources (vmSources f) i
        if !(scatter && overwritten n (k.activeBit f.msk) named i) then p.write c half (vmElem f k.vec i)
        return .done
      if peer then
        tryCatch body fun e => match e with
          | .trap 0x11 _ => return .faulted
          | e => throw e
      else body)

/-- VST, unit (R259, R260). -/
def execVstUnit (f : VM) (s : State) : Out := finish (extSize f.ext) (vstore (Instr.word (.vstUnit f)) f unitForm [] false) s
/-- VST, strided (R259, R260). -/
def execVstStrided (f : VM) (s : State) : Out :=
  finish (extSize f.ext) (vstore (Instr.word (.vstStrided f)) f (stridedForm f) [] false) s
/-- VSTX (R261, R262). -/
def execVstx (f : VM) (s : State) : Out :=
  finish (extSize f.ext) (vstore (Instr.word (.vstx f)) f (indexedForm f) (idxSrc f) true) s

/-! ### Scatter-add and vector atomics (R263, R264) -/

/-- An addend sent to the port of its word (R128, R129): home lines of the word are recalled; a poisoned word discards
it and logs. -/
def sendAddend (c : Ctx) (h : Hit) (t : ET) (rm : BitVec 2) (v : Nat) : X Unit := do
  let n := ETwidth t / 8
  let d : Addend := { pa := h.ga, et := t, rm := rm, value := v, tenant := c.tenant }
  if 2 ^ 42 ≤ h.ga then
    if ← remoteCheck c h 3 then modify fun s => { s with ms := s.ms.addendDone d }
    else modify fun s => s.elogCore c.core 14 1 0 h.va 0
  else
    bisnpCheck h.ga n
    squashAhead c (.mem, h.ga) n
    modify fun s =>
      let ms := if (s.ms.heldAt h.ga).isSome then s.ms.recall h.ga n else s.ms
      let s := { s with ms := ms }
      let s := if ms.poisoned h.ga n then s.elogCore c.core 12 1 0 (toWord h.pa) 0
        else { s with ms := ms.scatterAdd d }
      s.modCore c.core fun k => k.l1DropAddr h.ga n

/-- The sum of an addition of R129. -/
def sumOf (t : ET) (rm : BitVec 2) (a b : Nat) : Nat :=
  match ETfmt t with
  | some F => (F.add rm a b).1
  | none => (a + b) % 2 ^ ETwidth t

/-- VSADD and VAMO over their elements: perform gives, for an element's place and its operand, what it writes back. -/
def vatomic (word : Word) (f : VM) (disp : Int) (dst : Option Dst) (zero noHost : Bool)
    (perform : Ctx → Core → Place → Nat → X MemOut) : X Unit := do
  let xa ← readX f.xa
  let o ← readOpnd f.idx
  let w := ETwidth f.et
  let v : VForm := .indexed o w
  require ((← self).space ≤ 1) causeIllegalEnc word
  let n ← vIssue (vmIssue word f (vmSrcs f ++ idxSrc f) (match dst with
    | some _ => vmDsts f
    | none => []))
  if n = 0 then return
  let c ← selfCtx
  let k ← self
  let m : VMem := { space := k.space, w := w, size := etBytes f.et, half := false, kind := 3, base := xa, msu := true,
                    noHost := noHost, fmtOk := anyFormat }
  let at_ := fun i => v.disp disp (etBytes f.et) k.vcols i false
  ordBefore f.ord.toNat
  ordAround f.ord.toNat k.scope <| memElements
    { dst := dst, zero := zero, record := false, peer := false, restart := false, group := 1 }
    n (k.activeBit f.msk) (fun s i => m.page (at_ i).1 s) (fun i => do
      cleanSources (v.sources ++ maskSource f.msk) i
      let d := at_ i
      let p ← m.place c d.1 d.2 (k.repin i)
      cleanSources (vmSources f) i
      perform c k p (vmElem f k.vec i))

/-- VSADD (R263). -/
def execVsadd (f : VM) (s : State) : Out := finish (extSize f.ext)
  (vatomic (Instr.word (.vsadd f)) f f.value.toInt none false true fun c k p v =>
    match p.parts with
    | [(.plain h, _)] => do
      sendAddend c h f.et k.rm v
      return .done
    | _ => do
      let old ← p.read c false 3
      p.write c false (sumOf f.et k.rm old v)
      return .done) s

/-- VAMO (R264): the operation stands in disp24. -/
def execVamo (f : VM) (s : State) : Out := finish 8
  (let w := ETwidth f.et
  let new := fun m v => amoNew f.disp.toNat w m v
  vatomic (Instr.word (.vamo f)) f 0 (some (vmDst f)) (f.mz == 1) false fun c _ p v =>
    match p.parts with
    | [(.plain h, n)] => do
      let old ← msuOp c h n fun m => new m v
      return .value old 0
    | _ => do
      let old ← p.read c false 3
      match new old v with
      | some x => p.write c false x
      | none => pure ()
      return .value old 0) s

/-! ### Spill and fill (R87, R265) -/

/-- A segment of memory spoiled. -/
def MemSys.taint (ms : MemSys) (a : Nat) : MemSys :=
  { ms with poison := if ms.poison.contains (a / 64) then ms.poison else a / 64 :: ms.poison }

/-- A place's bytes become poisoned data, after they are written: the spill of a poisoned register word (R95). A line that
holds them is written back and dropped, and their segment in memory is spoiled with them (log 18). -/
def Place.poison (p : Place) (c : Ctx) : X Unit := p.parts.forM fun q => do
  match q.1 with
  | .plain h =>
    if (mmioOf h.pa).isSome then return
    else if 2 ^ 42 ≤ h.ga && h.ga < hostBase then modify fun s => { s with ms := s.ms.taint h.ga }
    else modify fun s => { s with ms := (s.ms.recall h.ga q.2).taint h.ga }.modCore c.core fun k => k.l1DropAddr h.ga q.2
  | .tensor d tid n off _ =>
    let key := d.key c tid n
    evictHome key
    let run := (d.runs (d.tileCoords n)).find? fun r => r.1 ≤ off && off < r.1 + r.2.1
    modify fun s => s.modCore c.core fun k => { k with cache := { k.cache with l1d := k.cache.l1d.filter (·.key != key) } }
    match run with
    | none => return
    | some r => modify fun s => match quiet (runAddr c r.2.2 r.2.1 1) s with
      | .ok a t => { t with ms := t.ms.taint (a + (off - r.1)) }
      | .error _ _ => s
  | .scratch who off _ =>
    modify fun s => s.modCore who fun k => { k with
      scratchPoison := if k.scratchPoison.contains (off / 8) then k.scratchPoison else off / 8 :: k.scratchPoison }

/-- How the words of a spill frame lie: 8 bytes each; in TENSOR space the elements of the width of ET that make them up
(R87, R258, R265; log 69). -/
def frameMem (space w : Nat) (xa : Word) (kind : Nat) (fmtOk : Word → Nat → Bool) : VMem :=
  let n := if space = 3 then w else 64
  { space := space, w := n, size := max 1 (n / 8), half := n == 4, kind := kind, base := xa, msu := false, noHost := false,
    fmtOk := fmtOk }

/-- The displacements of the parts of word j of a frame at xa + disp, lowest first. A WAC96 frame has none in TENSOR space: no
tensor has elements of 96 bits, and its first access faults FORMAT (R258). -/
def VMem.frameParts (m : VMem) (disp : Int) (j : Nat) : List Int :=
  if 64 < m.w then [disp + (j : Int)]
  else if m.space = 3 then (List.range (64 / m.w)).map fun q => disp + ((64 / m.w * j + q : Nat) : Int)
  else [disp + ((8 * j : Nat) : Int)]

/-- The places of word j of a frame, whose address is 8-byte aligned (R265): in TENSOR space the offset of its first element is a
multiple of the elements in 8 bytes (log 69). -/
def VMem.framePlaces (m : VMem) (c : Ctx) (disp : Int) (j : Nat) (rewalk : Option Nat) : X (List Place) := do
  require (m.space != 3 || 64 < m.w || (bits m.base 0 48 + disp) % (64 / m.w : Nat) == 0) causeMisalign
    (m.base + BitVec.ofInt 64 disp)
  (m.frameParts disp j).mapM fun d => m.place c d 0 rewalk

/-- A word read from its places, or written to them. -/
def VMem.frameGet (m : VMem) (c : Ctx) (ps : List Place) : X Nat := do
  let vs ← ps.mapM fun p => p.read c m.half 0
  return ofElems m.w vs

def VMem.framePut (m : VMem) (c : Ctx) (ps : List Place) (v : Nat) : X Unit :=
  (ps.zip (elemsOf m.w v ps.length)).forM fun p => p.1.write c m.half p.2

/-- The header of a spill frame (R87). -/
def frameHeader (cols rows ew : Nat) : Nat := cols * 2 ^ 23 + rows * 2 ^ 16 + ew

/-- The data bits of a frame (R87): the register's, or the limbs of each element in turn. -/
def frameData (u : VecUnit) (code ew n : Nat) : Nat :=
  if ew = 5 then
    (List.range n).foldr (fun i acc =>
      (List.range 3).foldr (fun j a => fld (u.bitsOf (code + j)) (32 * i) 32 + 2 ^ 32 * a) acc) 0
  else u.bitsOf code % 2 ^ (n * ewWidth ew)

/-- The register bits behind data bit b of a frame, as (code, bit). -/
def frameBit (code ew b : Nat) : Nat × Nat :=
  if ew = 5 then (code + b / 32 % 3, b / 96 * 32 + b % 32) else (code, b)

/-- Word j of a frame comes from a poisoned register word, whole under the current layout (R95). -/
def Core.frameBad (k : Core) (code ew n j : Nat) : Bool :=
  !k.vec.poison.isEmpty && 1 ≤ j && (List.range 64).any fun b =>
    let g := 64 * (j - 1) + b
    g < n * ewWidth ew &&
      let r := frameBit code ew g
      let w := shapeWidth ew
      k.badElem r.1 w (r.2 / w)

/-- The words of a frame from word j on, count of them, until one stops; VSTART names the first not performed. -/
def frameLoop (body : Nat → X Unit) : Nat → Nat → State → Option (Nat × Stop) × State
  | 0, _, s => (none, s)
  | fuel + 1, j, s =>
    match body j s with
    | .ok _ t => frameLoop body fuel (j + 1) t
    | .error e t => (some (j, e), t)

/-- The words of a spill frame: word 0 first, then the words from VSTART (R265). -/
def frameWords (page : State → Nat → Word → Option Nat) (words : Nat) (body : Nat → X Unit) : X Unit := fun s =>
  let k := s.self
  let j := max 1 k.vstart
  match frameLoop body (words - j) j s with
  | (none, t) => .ok () (t.modSelf fun k => (k.setCsr 0x003 0).repage none)
  | (some (i, e), t) => .error e (t.modSelf fun k => (k.setCsr 0x003 (toWord i)).repage (e.page (page t i)))

/-- The header's own access: a fault there names word 0, a wait leaves VSTART (R265). -/
def headerStep {α : Type} (page : State → Nat → Word → Option Nat) (m : X α) : X α := fun s =>
  match m s with
  | .error (.wait w) t => .error (.wait w) t
  | .error e t => .error e (t.modSelf fun k => (k.setCsr 0x003 0).repage (e.page (page t 0)))
  | r => r

/-- VSPILL (R265). -/
def execVspill (f : VM) (s : State) : Out := finish 8 (do
  let xa ← readX f.xa
  let n ← vIssue (vmIssue (Instr.word (.vspill f)) f (vmSrcs f) [])
  if n = 0 then return
  let c ← selfCtx
  let k ← self
  let m := frameMem k.space (ETwidth f.et) xa 1 anyFormat
  let data := frameData k.vec f.vd.toNat k.ew n
  let page := fun s j => m.page ((m.frameParts f.value.toInt j).headD 0) s
  ordBefore f.ord.toNat
  let put : Nat → Nat → X Unit := fun j v => do
    let ps ← m.framePlaces c f.value.toInt j (k.repin j)
    m.framePut c ps v
    if k.frameBad f.vd.toNat k.ew n j then ps.forM fun p => p.poison c
  ordAround f.ord.toNat k.scope do
    headerStep page (put 0 (frameHeader k.vcols k.vrows k.ew))
    frameWords page (1 + cdiv (n * ewWidth k.ew) 64) fun j => put j (fld data (64 * (j - 1)) 64)) s

/-- The header of a frame is one that this register accepts (R265). -/
def Core.headerOk (k : Core) (code h : Nat) : Bool :=
  let ew := fld h 0 3
  let rows := fld h 16 7
  let cols := fld h 23 17
  h / 2 ^ 40 == 0 && fld h 3 13 == 0 && ew ≤ 5 && rows ≤ 64 && cols ≤ k.maxCols (shapeWidth ew) &&
    rows * cols * shapeWidth ew ≤ k.capBits && !(ew == 5 && 29 < code)

/-- Data word j of a frame written into the registers (R87, R265). -/
def Core.fillWord (k : Core) (code ew total j v : Nat) : Core :=
  let put := fun (u : VecUnit) (b len v : Nat) =>
    let r := frameBit code ew b
    (u.setBits r.1 (putFld (u.bitsOf r.1) r.2 len v)).wrote r.1 (r.2 + len)
  let b := 64 * (j - 1)
  let len := min 64 (total - b)
  if ew = 5 then
    { k with vec := put (if 32 < len then put k.vec (b + 32) (len - 32) (v / 2 ^ 32) else k.vec) b (min 32 len) v }
  else { k with vec := put k.vec b len v }

/-- A register restored by VFILL: its tag, no poison, and every bit beyond the frame undefined: a free value. -/
def Core.fillDone (k : Core) (code used cols : Nat) (free : BitVec 262144) : Core :=
  let v := k.vec.bitsOf code % 2 ^ used + free.toNat / 2 ^ used * 2 ^ used
  let u := (k.vec.setBits code v).wrote code (k.slices * 8192)
  { k with vec := { u with tag := u.tag.setIfInBounds code cols, poison := u.poison.filter (·.1 != code) } }

/-- VFILL (R265). -/
def execVfill (f : VM) (s : State) : Out := finish 8 (do
  let xa ← readX f.xa
  let n ← vIssue (vmIssue (Instr.word (.vfill f)) f [] (vmDsts f))
  if n = 0 then return
  let c ← selfCtx
  let k ← self
  let m := frameMem k.space (ETwidth f.et) xa 0 (rawReadOk 8)
  let page := fun s j => m.page ((m.frameParts f.value.toInt j).headD 0) s
  let get8 : Nat → X Nat := fun j => do m.frameGet c (← m.framePlaces c f.value.toInt j (k.repin j))
  ordBefore f.ord.toNat
  ordAround f.ord.toNat k.scope do
  let h ← headerStep page (get8 0)
  require (k.headerOk f.vd.toNat h) causeShape (toWord h)
  let ew := fld h 0 3
  let cols := fld h 23 17
  let regs := if ew = 5 then [f.vd.toNat, f.vd.toNat + 1, f.vd.toNat + 2] else [f.vd.toNat]
  awaiting (!(regs.any fun r => k.vec.state r != .full))
  let n := fld h 16 7 * cols
  let total := n * ewWidth ew
  frameWords page (1 + cdiv total 64) fun j => do
    let v ← get8 j
    modSelf fun k => k.fillWord f.vd.toNat ew total j v
  regs.forM fun r => do
    let free ← drawVector
    modSelf fun k => k.fillDone r (n * shapeWidth ew) cols free
  modSelf Core.aheadDone) s

end Sys2Proof.Machine
end

