-- ==== Sys2Proof/Machine/Tile.lean ====
section
/-! DEFINITION. Tile and tensor-line instructions: TALLOC, TFREE, TSTAT, TWAIT, TLD, TST, VPLN, and plane packing
(R89 to R94, R266 to R272, R280). -/

namespace Sys2Proof.Machine

/-! ### Tile states (R90) -/

/-- A tile named by an instruction waits, or traps TILE_STATE (R92). -/
def tileTrap {α : Type} (t : Nat) (e : Tile) : X α := trap causeTileState (tileValue t e 0)

/-- The tile accepts a fill, or the instruction waits or traps (R90). -/
def fillAccepts (t : Nat) (e : Tile) : X Unit :=
  match e.st with
  | .empty => pure ()
  | .ready | .poisoned => awaiting (e.readers == 0)
  | .filling | .draining => if e.susp then tileTrap t e else throw (.wait .resource)

/-- A fill takes a tile at its issue (R90): f sets what the fill sets. -/
def fillStart (t : Nat) (f : Tile → Tile) : X Unit := do
  let e := (← self).tile t
  fillAccepts t e
  modSelf fun k => k.setTile t { f e with st := .filling, susp := false }

/-- A named read of a tile (R91). -/
def namedRead (t : Nat) (e : Tile) : X Unit := tileLocal t e false 0

/-- A reader takes a tile (R90): at 255 readers it waits. -/
def readerStart (t : Nat) : X Unit := do
  let e ← namedTile t
  namedRead t e
  awaiting (e.readers.toNat < 255)
  modSelf fun k => k.modTile t fun e => { e with readers := e.readers + 1 }

/-- A reader leaves a tile (R90). -/
def Core.readerEnd (k : Core) (t : Nat) : Core := k.modTile t fun e => { e with readers := e.readers - 1 }

/-- A unit of the scratchpad is covered by a tile (R88). -/
def Core.unitTaken (k : Core) (u : Nat) : Bool :=
  k.tiles.toList.any fun e => e.v && e.base.toNat ≤ u && u < e.base.toNat + e.size.toNat

/-- The lowest unit from u on that starts a run of size free units; run counts the free units before u. -/
def findRun (taken : Nat → Bool) (size : Nat) : Nat → Nat → Nat → Option Nat
  | 0, _, _ => none
  | fuel + 1, u, run =>
    if taken u then findRun taken size fuel (u + 1) 0
    else if run + 1 = size then some (u + 1 - size)
    else findRun taken size fuel (u + 1) (run + 1)

/-- The SPQUOTA that binds a core's task: the least of those in effect along the path it was dealt under (R171, R172). -/
def State.quota (s : State) (k : Core) : Nat :=
  match k.tk.task.bind s.task with
  | none => 2048
  | some t => (leastEff (s.pathOf t) 3 Node.spquota).getD 2048

/-- Units that the allocated tiles of a core hold. -/
def Core.unitsHeld (k : Core) : Nat := k.tiles.toList.foldl (fun n e => if e.v then n + e.size.toNat else n) 0

/-- TALLOC (R267): zero fills the contents, fixed places the base. -/
def tallocForm (f : TT) (fixed : Bool) : X Unit := do
  let size := ((← readX f.xa) + f.value).toNat
  let b ← if fixed then readX f.xb else pure 0
  reserveReply [f.xc]
  require (1 ≤ size && size ≤ 2048) causeShape (toWord size)
  let t := f.t.toNat
  let s ← get
  let k := s.self
  if (k.tile t).v then tileTrap t (k.tile t)
  let base := if fixed then
      (let b := bits b 0 11
       if b + size ≤ 2048 && (List.range size).all (fun j => !k.unitTaken (b + j)) then some b else none)
    else findRun k.unitTaken size 2048 0 0
  match base with
  | some b =>
    if k.unitsHeld + size ≤ s.quota k then
      let zero := f.mode.getLsbD 0
      let e : Tile := { Tile.free with v := true, st := if zero then .ready else .empty, tenant := k.tk.tenant
                                       base := BitVec.ofNat 11 b, size := BitVec.ofNat 12 size }
      modSelf fun k =>
        let k := k.setTile t e
        if zero then
          { k with
            scratch := k.scratch.filter fun c => !(b * 4096 ≤ c.1 && c.1 < (b + size) * 4096)
            scratchPoison := k.scratchPoison.filter fun g => !(b * 512 ≤ g && g < (b + size) * 512) }
        else k
      reply [(f.xc, toWord b)]
    else reply [(f.xc, BitVec.allOnes 64)]
  | none => reply [(f.xc, BitVec.allOnes 64)]

/-- TALLOC (R267). -/
def execTalloc (f : TT) (s : State) : Out := finish (extSize f.ext) (tallocForm f false) s
/-- TALLOC.FIX (R267). -/
def execTallocFix (f : TT) (s : State) : Out := finish (extSize f.ext) (tallocForm f true) s

/-- The suspended copy of a tile ends ABORTED (R90, R301). -/
def endSuspended (t : Nat) : X Unit := do
  let s ← get
  let hit := fun (o : CopyOp) => o.phase = .suspended &&
    (o.dstTile == some (BitVec.ofNat 8 t) || (o.srcTile == some (BitVec.ofNat 8 t) && !o.keep))
  match s.self.eng.copies.find? hit with
  | some o => finishCopy s.cur o stABORTED o.u false
  | none => return

/-- TFREE (R267, R90). -/
def execTfree (f : TT) (s : State) : Out := finish 8 (do
  let t := f.t.toNat
  let e := (← self).tile t
  if !e.v then return
  match e.st with
  | .empty => pure ()
  | .ready | .poisoned => awaiting (e.readers == 0)
  | .filling =>
    if e.pot then tileTrap t e
    awaiting e.susp
    endSuspended t
  | .draining =>
    awaiting e.susp
    endSuspended t
  modSelf fun k => k.setTile t Tile.free) s

/-- TSTAT (R268). -/
def execTstat (f : TT) (s : State) : Out := finish 8 (do
  reserveReply [f.xc]
  reply [(f.xc, ((← self).tile f.t.toNat).word)]) s

/-- The entry that a wait or status form names, when it is of a kind and not FREE (R181). -/
def Core.validHandle (k : Core) (x : Word) (kind : BitVec 3) : Option Handle :=
  if x.toNat < 256 then
    let e := k.handle (BitVec.ofNat 8 x.toNat)
    if e.st == .free || e.kind != kind then none else some e
  else none

/-- A status read: the entry, or ABORTED (R181). -/
def statusOf (xd xa : BitVec 6) (kind : BitVec 3) : X Unit := do
  let x ← readX xa
  reserveReply [xd]
  match (← self).validHandle x kind with
  | some e => reply [(xd, e.word)]
  | none => reply [(xd, abortedWord)]

/-- A wait for DONE: the entry, which is freed, or ABORTED at once (R181). -/
def waitOn (xd xa : BitVec 6) (kind : BitVec 3) : X Unit := do
  let x ← readX xa
  reserveReply [xd]
  match (← self).validHandle x kind with
  | some e =>
    if e.st = .done then
      modSelf fun k => k.setHandle (BitVec.ofNat 8 x.toNat) Handle.free
      reply [(xd, e.word)]
    else throw (.wait (.handle (BitVec.ofNat 8 x.toNat)))
  | none => reply [(xd, abortedWord)]

/-- TSTAT.H (R268). -/
def execTstatH (f : TT) (s : State) : Out := finish 8 (statusOf f.xc f.xa 2) s

/-- TWAIT (R268). -/
def execTwait (f : TT) (s : State) : Out := finish 8 (do
  reserveReply [f.xc]
  let e ← namedTile f.t.toNat
  awaiting (!((e.st == .filling || e.st == .draining) && !e.susp))
  awaiting (!(f.mode.getLsbD 1 && e.readers != 0))
  reply [(f.xc, e.word)]) s

/-- TWAIT.H (R268). -/
def execTwaitH (f : TT) (s : State) : Out := finish 8 (waitOn f.xc f.xa 2) s

/-! ### Tensor lines (R269 to R271) -/

/-- The tile coordinates of a tensor form (R269). -/
def tileCoordsOf (xb xc : Word) : List Nat := [bits xb 0 16, bits xb 16 16, bits xb 32 16, bits xb 48 16, bits xc 0 16]

/-- The coordinates lie in the tile grid (R269). -/
def Desc.inGrid (d : Desc) (t : List Nat) : Bool := (List.range 5).all fun k => co t k < d.grid k

/-- The tiles of a tensor. -/
def Desc.tiles (d : Desc) : Nat := d.grid 0 * d.grid 1 * d.grid 2 * d.grid 3 * d.grid 4

/-- The descriptor and tile number of a tensor form (R269): a coordinate beyond the grid faults RANGE. -/
def tileNamed (c : Ctx) (tid : Nat) (t : List Nat) (kind : Nat) : X (Desc × Nat) := do
  let d ← descWell c tid kind 0
  let n := d.tileNumber t
  require (d.inGrid t) causeAccess (syndrome 7 7 kind n)
  return (d, n)

/-- The lines of TLD and TST from line k on, fuel of them, until one stops. -/
def lineLoop (body : Nat → X Unit) : Nat → Nat → State → Option (Nat × Stop) × State
  | 0, _, s => (none, s)
  | fuel + 1, k, s =>
    match body k s with
    | .ok _ t => lineLoop body fuel (k + 1) t
    | .error e t => (some (k, e), t)

/-- The lines of TLD and TST from VSTART (R270): on a fault at line k, VSTART := k × P and ended tells the tile; a step
that waits is performed again whole. -/
def lineForm (count per : Nat) (body : Nat → X Unit) (ended : Option Stop → Core → Core) : X Unit := fun s =>
  let k0 := s.self.vstart / per
  match lineLoop body (count - k0) k0 s with
  | (none, t) => .ok () (t.modSelf fun k => ended none (k.setCsr 0x003 0))
  | (some (_, .wait w), _) => .error (.wait w) s
  | (some (k1, e), t) => .error e (t.modSelf fun k => ended (some e) (k.setCsr 0x003 (toWord (k1 * per))))

/-- What TLD and TST share: the tensor, the first tile number, and the checks of their register or tile (R270). -/
structure LineArgs where
  c     : Ctx
  d     : Desc
  tid   : Nat
  n     : Nat
  count : Nat
  per   : Nat
  bytes : Nat

/-- The tensor, coordinates and count of TLD and TST; none when the count is zero. -/
def lineArgs (f : TT) (kind : Nat) : X (Option LineArgs) := do
  let xa ← readX f.xa
  let xb ← readX f.xb
  let xc ← readX f.xc
  let count := f.uvalue
  if count = 0 then return none
  else
    let c ← selfCtx
    let tid := bits xa 48 16
    let (d, n) ← tileNamed c tid (tileCoordsOf xb xc) kind
    return some ⟨c, d, tid, n, count, d.tileSize, d.tileBytes⟩

/-- The register of TLD and TST: its width is that of VCFG.EW, and the lines fit (R270). -/
def lineRegister (f : TT) (a : LineArgs) : X Unit := do
  let k ← self
  require (k.ew ≤ 4 && ewWidth k.ew == a.d.w && a.count * a.per ≤ k.capacity f.t.toNat a.d.w) causeShape (toWord a.count)

/-- Line k lies in the tensor (R270). -/
def lineInside (a : LineArgs) (kind k : Nat) : X Unit :=
  require (a.n + k < a.d.tiles) causeAccess (syndrome 7 7 kind (a.n + k))

/-- The bytes of a tensor line as its elements: bits [7:6] of an E3M2 or E2M3 byte are ignored by a load and written as zero
(R49). -/
def Desc.cleanLine (d : Desc) (n v : Nat) : Nat :=
  if d.et = some .e3m2 || d.et = some .e2m3 then ofElems 8 ((elemsOf 8 v n).map fun b => b % 64) else v

/-- TLD (R270). A tile too small traps SHAPE with TVAL = K as a register does, and MEM_UE of a line reports its tile number as
ADDR (DESIGN CHOICE, log 73). -/
def execTld (f : TT) (s : State) : Out := finish (extSize f.ext) (atomically do
  match ← lineArgs f 0 with
  | none => return
  | some a =>
    let t := f.t.toNat
    let line := fun (k : Nat) => do
      lineInside a 0 k
      let (v, bad) ← tensorRead a.c a.d a.tid (a.n + k) 0 a.bytes 0 none
      require (!bad) causeMemUE (memUE false 7 0 (a.n + k))
      return a.d.cleanLine a.bytes v
    if f.mode.getLsbD 0 then
      let e ← namedTile t
      require (a.count * a.bytes ≤ e.bytes) causeShape (toWord a.count)
      if (← self).vstart = 0 then
        fillStart t fun e => { e with pk := false, p := 0, conf := false, pot := false
                                      et := BitVec.ofNat 5 (bits (a.d.at_ 0) 55 5) }
      else
        if e.st = .filling && e.susp && !e.pot then modSelf fun k => k.setTile t { e with susp := false }
        else tileTrap t e
      lineForm a.count a.per (fun k => do
          let v ← line k
          modSelf fun c => c.scratchWrite (e.start + k * a.bytes) a.bytes v)
        fun stop k => k.modTile t fun e => match stop with
          | none => { e with st := .ready }
          | some (.trap c _) => if c = causeMemUE then { e with st := .poisoned } else { e with susp := true }
          | some _ => e
    else
      lineRegister f a
      checkStates { word := 0, ew := none, et := 0, srcs := [], dsts := [t] }
      lineForm a.count a.per (fun k => do
          let v ← line k
          modSelf fun c => c.vwrite (.vec t a.d.w (k * a.per))
            ((List.range a.per).map fun p => (p, fld v (a.d.w * p) a.d.w)) none)
        fun _ k => k) s

/-- One line written to its home (R271): the address checks, then its bytes as get gives them (R356), then its runs; positions
beyond the tensor are discarded. A PROTECT fault reports the tile number as ADDR (DESIGN CHOICE, log 73). -/
def lineStore (a : LineArgs) (k : Nat) (get : X Nat) : X Unit := do
  let n := a.n + k
  lineInside a 1 k
  require (!a.d.ro) causePage (syndrome 1 7 1 n)
  let _ ← tensorFill a.c a.d a.tid n 1 none
  let v := a.d.cleanLine a.bytes (← get)
  (a.d.runs (a.d.tileCoords n)).forM fun r => do
    squashAhead a.c (.line (a.d.key a.c a.tid n), r.1) r.2.1
    tensorWrite a.c a.d a.tid n r.1 r.2.1 (fld v (8 * r.1) (8 * r.2.1)) 1 none

/-- Bytes of a tile that an instruction names; an uncorrectable error poisons the tile (R91). -/
def namedBytes (t : Nat) (off n : Nat) : X Nat := do
  let k ← self
  let e := k.tile t
  if k.scratchBad (e.start + off) n then
    modSelf fun k => k.modTile t fun e => { e with st := .poisoned }
    trap causeTilePoison (tileValue t e 0)
  else return k.scratchRead (e.start + off) n

/-- TST (R271). -/
def execTst (f : TT) (s : State) : Out := finish (extSize f.ext) (atomically do
  match ← lineArgs f 1 with
  | none => return
  | some a =>
    let t := f.t.toNat
    if f.mode.getLsbD 0 then
      let e ← namedTile t
      require (a.count * a.bytes ≤ e.bytes) causeShape (toWord a.count)
      namedRead t e
      awaiting (e.readers.toNat < 255)
      lineForm a.count a.per (fun k => do lineStore a k (namedBytes t (k * a.bytes) a.bytes)) fun _ k => k
    else
      lineRegister f a
      checkStates { word := 0, ew := none, et := 0, srcs := [(t, t, true)], dsts := [] }
      let w := a.d.w
      lineForm a.count a.per (fun k => do
          let me ← self
          lineStore a k (do
            match (List.range a.per).flatMap fun p => me.badSources [(t, t, w, id)] (k * a.per + p) with
            | c :: _ => trap causeMemUE (regUE c.1 c.2)
            | [] => return fld (me.vec.bitsOf t) (w * (k * a.per)) (w * a.per)))
        fun _ k => k) s

/-! ### Plane packing (R94, R280) -/

/-- The exponent of the leading bit of the largest finite nonzero magnitude. -/
def finiteLog : List FVal → Option Int
  | [] => none
  | .num _ m e :: vs => match finiteLog vs with
    | none => if m = 0 then none else some (Nat.log2 m + e)
    | some r => if m = 0 then some r else some (max (Nat.log2 m + e : Int) r)
  | _ :: vs => finiteLog vs

/-- The aligned magnitude of one value at a group exponent, and whether it was inexact (R280). -/
def packOne (planes : Nat) (gexp : Int) : FVal → Nat × Bool
  | .num _ m e => roundShift 0 false m (gexp - e)
  | .inf _ => (2 ^ planes - 1, false)
  | .nan _ => (0, false)

/-- Pack (R280): the group exponent and, for each position, magnitude, sign and whether it was inexact; top is the
exponent of the source type's largest finite value. -/
def packGroup (planes : Nat) (top : Int) (xs : List FVal) : Int × List (Nat × Bool × Bool) :=
  let inf := xs.any fun v => match v with
    | .inf _ => true
    | _ => false
  let e := match finiteLog xs with
    | some e => some e
    | none => if inf then some top else none
  match e with
  | none => (0, xs.map fun _ => (0, false, false))
  | some e =>
    let g := e - (planes - 1 : Nat)
    let q := xs.map (packOne planes g)
    let g := if q.all fun q => q.1 < 2 ^ planes then g else g + 1
    (g, xs.map fun x => let q := packOne planes g x; (q.1, x.isNeg && !x.isZero, q.2))

/-- A group record as a number of 4 × (planes + 2) bytes (R94). -/
def groupRecord (planes : Nat) (g : Int × List (Nat × Bool × Bool)) : Nat :=
  let plane := fun (f : Nat × Bool × Bool → Bool) =>
    g.2.foldr (fun q acc => (if f q then 1 else 0) + 2 * acc) 0
  wrap 16 g.1 + plane (fun q => q.2.1) * 2 ^ 32 +
    (List.range planes).foldl (fun acc p => acc + plane (fun q => q.1.testBit p) * 2 ^ (32 * (p + 2))) 0

/-- The exponent of the largest finite value of a source type (R280). -/
def topExponent (t : ET) : Int := match ETfmt t with
  | some F => (F.emaxField : Int) - F.bias
  | none => 0

/-- The bytes of a group record (R94). -/
def recordBytes (planes : Nat) : Nat := 4 * (planes + 2)

/-- VPLN (R272): a poisoned source word leaves the tile POISONED (R90). -/
def execVpln (f : TT) (s : State) : Out := finish (extSize f.ext) (do
  let word := Instr.word (.vpln f)
  let t := f.t.toNat
  let xb ← readX f.xb
  let planes := f.uvalue % 32 + 1
  let vn := fld f.uvalue 5 5
  let k ← self
  require (k.ew ≤ 4) causeIllegalEnc word
  match ET.ofCode f.mode.toNat with
  | none => trap causeIllegalEnc word
  | some src =>
    let n ← vWhole { word := word, ew := some (ETew src), et := src.code, srcs := [(vn, vn, true)], dsts := [] }
    if n = 0 then return
    let w := ETwidth src
    let e ← namedTile t
    let groups := cdiv k.vcols 32
    let need := (xb.toNat + k.vrows * groups) * recordBytes planes
    require (need ≤ e.bytes) causeShape (toWord need)
    if xb != 0 && !(e.pk && e.p.toNat == planes && e.et.toNat == src.code) then tileTrap t e
    fillAccepts t e
    let taken := fun (e : Tile) => { e with pk := true, p := BitVec.ofNat 5 planes, et := BitVec.ofNat 5 src.code
                                            conf := false, pot := false }
    let u := k.vec.bitsOf vn
    let value := fun r c => if c < k.vcols then elemVal src (fld u (w * (r * k.vcols + c)) w) else .num false 0 0
    let packed := (List.range (k.vrows * groups)).map fun rg =>
      packGroup planes (topExponent src) ((List.range 32).map fun j => value (rg / groups) (32 * (rg % groups) + j))
    let flags := (List.range n).map fun i =>
      let c := i % k.vcols
      let inexact := match packed[i / k.vcols * groups + c / 32]? with
        | some g => ((g.2[c % 32]?).getD (0, false, false)).2.2
        | none => false
      let bad := match value (i / k.vcols) c with
        | .num .. => false
        | _ => true
      (i, flagIf inexact flagNX ||| flagIf bad flagNV)
    wholeCheck n (fun k i => k.badSources [(vn, vn, w, id)] i) flags
      (onTrap fun k => k.modTile t fun e => { taken e with st := .poisoned, susp := false })
    fillStart t taken
    wholeRaise true flags
    let b := recordBytes planes
    modSelf fun k =>
      let k := ((List.range packed.length).zip packed).foldl (fun k g =>
        k.scratchWrite (e.start + (xb.toNat + g.1) * b) b (groupRecord planes g.2)) k
      k.modTile t fun e => { e with st := .ready }) s

end Sys2Proof.Machine
end

