-- ==== Sys2Proof/Machine/TensorForms.lean ====
section
/-! DEFINITION. The tensor-cache instructions: TDESC, TNBR, THALO, TINV, TFLUSH and TPROBE, the completion of a flush,
and the generation scrubber (R104, R110 to R114, R273 to R275). -/

namespace Sys2Proof.Machine

/-! ### Handles -/

/-- A step that leaves nothing changed when it traps. -/
def wholly {α : Type} (m : X α) : X α := fun s =>
  match m s with
  | .error (.trap c v) _ => .error (.trap c v) s
  | r => r

/-- An engine instruction allocates the lowest FREE completion entry (R180): it waits while one is BUSY, and traps
ENGINE when all are DONE. -/
def allocHandle (kind : BitVec 3) : X (BitVec 8) := do
  let k ← self
  match k.freeHandle with
  | some h =>
    modSelf fun k => k.setHandle h { st := .busy, kind := kind, status := 0, detail := 0 }
    return h
  | none => if k.handlesAllDone then trap causeEngine (toWord (2 ^ 63)) else throw (.wait .resource)

/-! ### Descriptors (R104, R273) -/

/-- The place of descriptor TID in the table of the core that moves, or RANGE (R101). -/
def descPlace (tid : Nat) : X (Option Nat) := do
  let s ← get
  let root := s.self.tdtroot
  return if tidOk root tid then some (s.localize (descAddr root tid)) else none

/-- Every cached copy of an entry removed (R104). -/
def dropDesc (c : Ctx) (tid : Nat) : X Unit :=
  modify fun s => { s with ms := s.ms.descDrop c.tenant c.asid (BitVec.ofNat 16 tid) }

/-- TDESC (R273): its reads are not those of a plain load, so that a register block is refused (R21); its write is a release, which
waits for the thread's contributions to pots (R156, R161). -/
def execTdesc (f : TT) (s : State) : Out := finish 8 (do
  let tid := bits (← readX f.xa) 48 16
  let xb ← readX f.xb
  reserveReply [f.xc]
  require (xb.toNat % 128 == 0) causeMisalign xb
  let c ← selfCtx
  let dw ← (List.range 16).mapM fun i => do
    let a := xb + toWord (8 * i)
    let p ← resolveG c a { kind := 0, n := 8, noMmio := true } (rawReadOk 8)
    spotRead c p 8 0 (bits a 0 56)
  match ← descPlace tid with
  | none => reply [(f.xc, 2)]
  | some a =>
    let s ← get
    require (s.inTables c.tenant (descAddr s.self.tdtroot tid) 128) causeAccess (syndrome 4 7 1 0)
    let (ms, v, bad) := s.ms.homeRead a 8 (some c.tenant)
    set { s with ms := ms }
    require (!bad) causeMemUE (memUE false 7 1 0)
    let dw := dw.map toWord
    let dw := setBits ((dw[0]?).getD 0) 0 16 (v % 2 ^ 16) :: dw.drop 1
    if (Desc.mk dw).ok tid (bits (← self).tdtroot 56 8) then
      bisnpCheck a 128
      waitSends
      modify fun s =>
        (s.release.homeStore a 128 (dw.foldr (fun (w : Word) (acc : Nat) => w.toNat + 2 ^ 64 * acc) 0) (some c.tenant)).modSelf
          fun k => k.l1DropAddr a 128
      dropDesc c tid
      reply [(f.xc, 0)]
    else reply [(f.xc, 1)]) s

/-- TDESC.RF (R273). -/
def execTdescRf (f : TT) (s : State) : Out := finish 8 (do
  let tid := bits (← readX f.xa) 48 16
  reserveReply [f.xc]
  let c ← selfCtx
  match ← descPlace tid with
  | none => reply [(f.xc, 2)]
  | some _ =>
    dropDesc c tid
    reply [(f.xc, 0)]) s

/-! ### Neighbours and halos (R273, R274) -/

/-- The coordinates along one dimension within r of t, below g; t alone when the dimension is not taken. -/
def spread (taken : Bool) (t r g : Nat) : List Nat :=
  if taken then (List.range (2 * r + 1)).filterMap fun j =>
    if r ≤ t + j && t + j - r < g then some (t + j - r) else none
  else if t < g then [t] else []

/-- The tiles around a tile in increasing tile number, at most limit of them: dimension 4 outermost. -/
def tilesAround (d : Desc) (t : List Nat) (dims : BitVec 6) (r : Nat → Nat) (limit : Nat) : List (List Nat) :=
  (List.range 5).foldl (fun inner k =>
    ((spread (dims.getLsbD k) (co t k) (r k) (d.grid k)).flatMap fun v => inner.map fun i => i ++ [v]).take limit) [[]]

/-- A step whose failure leaves nothing changed and is no failure. -/
def attempt {α : Type} (m : X α) : X (Option α) := fun s =>
  match m s with
  | .ok a t => .ok (some a) t
  | .error _ _ => .ok none s

/-- TNBR (R273, R274): prefetches that never trap. -/
def execTnbr (f : TT) (s : State) : Out := finish (extSize f.ext) (do
  let tid := bits (← readX f.xa) 48 16
  let xb ← readX f.xb
  let xc ← readX f.xc
  let c ← selfCtx
  match ← attempt (descWell c tid 0 0) with
  | none => return
  | some d =>
    (tilesAround d (tileCoordsOf xb xc) f.mode (fun _ => f.value.toNat) 256).forM fun t => do
      let _ ← attempt (tensorRead c d tid (d.tileNumber t) 0 1 0 none true)) s

/-- The replica of a line in a core's cluster removed, with the L1 lines filled from it (R113, R115). -/
def removeReplica (c : Ctx) (key : LineKey) : X Unit := modify fun s =>
  { s with ms := s.ms.dropReplica (clusterOf c.core) key }.modCluster (clusterOf c.core) fun k => k.l1DropReplica key

/-- A replica of a home line in the cluster of a core, created or refreshed (R113, R274): a new one is dropped for want of a
victim (R110). The L1 lines filled from an older one go, and the core's own copy, so that younger loads see it. -/
def putReplica (c : Ctx) (key : LineKey) (data : BitVec 2048) (level : Nat) : X Unit := do
  let cl := clusterOf c.core
  let bank := (0, cl.toNat)
  let fresh := !((← get).ms.replicas.any fun q => q.cluster == cl && q.key == key)
  removeReplica c key
  if ← makeRoom bank (lineSet key bank) key (fun _ => halfSize data) fresh roomFuel then
    modify fun s =>
      let r : Replica := { cluster := cl, key := key, slot := (s.ms.freeSlot bank (lineSet key bank) (halfSize data)).getD 0
                           data := data, epoch := s.ms.repoch[cl.toNat], level := level }
      { s with ms := { s.ms with replicas := r :: s.ms.replicas } }.modCore c.core fun k => { k with cache := { k.cache with
        l1d := k.cache.l1d.filter (·.key != key) } }

/-- One halo tile: its replica refreshed or created, or removed when its home fill fails. A bank of a gated cluster keeps no line
(R118). -/
def haloTile (c : Ctx) (d : Desc) (tid : Nat) (t : List Nat) : X Unit := do
  let n := d.tileNumber t
  let key := d.key c tid n
  match d.repl, replicaLevel c.core (d.home t) with
  | true, some level =>
    let fresh := !((← get).ms.replicas.any fun q => q.cluster == clusterOf c.core && q.key == key)
    match ← attempt (tensorFill c d tid n 0 none fresh) with
    | some h =>
      if h.poison = 0 then putReplica c key h.data level else removeReplica c key
      if (← get).ms.isGated h.bank then evictHome key
    | none => removeReplica c key
  | _, _ => pure ()

/-- The tiles within HALO of a tile in the dimensions named, but that tile (R273). -/
def haloTiles (d : Desc) (t : List Nat) (dims : BitVec 6) : List (List Nat) :=
  (tilesAround d t dims d.halo (15 * 31 ^ 5)).filter (· != t)

/-- The halo tiles that hold a replica of the current generation which the core may read. -/
def State.haloHeld (s : State) (c : Ctx) (d : Desc) (tid : Nat) (ts : List (List Nat)) : Nat :=
  (ts.filter fun t => (s.replica c.core (d.key c tid (d.tileNumber t))).isSome).length

/-- THALO (R273, R274): the replicas are counted when every one has been refreshed. -/
def execThalo (f : TT) (s : State) : Out := finish 8 (do
  let tid := bits (← readX f.xa) 48 16
  let xb ← readX f.xb
  let xc ← readX f.xc
  reserveReply [f.xc]
  let c ← selfCtx
  let t := tileCoordsOf xb xc
  let (d, _) ← tileNamed c tid t 0
  (haloTiles d t f.mode).forM fun u => haloTile c d tid u
  reply [(f.xc, toWord ((← get).haloHeld c d tid (haloTiles d t f.mode)))]) s

/-! ### Generations (R111, R112) -/

/-- TINV (R111). -/
def execTinv (f : TT) (s : State) : Out := finish 8 (do
  let tid := bits (← readX f.xa) 48 16
  reserveReply [f.xc]
  let c ← selfCtx
  let _ ← descWell c tid 1 0
  let s ← get
  bisnpCheck (s.localize (descAddr s.self.tdtroot tid)) 8
  let g ← genBump c tid s.self.tdtroot
  reply [(f.xc, g.setWidth 64)]) s

/-- TFLUSH (R112): a handle of KIND 2, whose index the reply carries (R266); a full inbox holds it in the execute stream (R180). -/
def execTflush (f : TT) (s : State) : Out := finish 8 (do
  let tid := bits (← readX f.xa) 48 16
  reserveReply [f.xc]
  let c ← selfCtx
  let _ ← descWell c tid 1 0
  let h ← allocHandle 2
  modSelf fun k =>
    let o : FlushOp := { h := h, tenant := c.tenant, asid := c.asid, tid := BitVec.ofNat 16 tid, tdt := k.tdtroot
                         root := k.ptroot, super := !c.user, active := false }
    ({ k with eng := { k.eng with flushes := k.eng.flushes ++ [o] } }).enterStream h
  reply [(f.xc, h.setWidth 64)]) s

/-- The dirty lines of one generation written back; the first fault's status (R112). -/
def flushLines (t : BitVec 6) (a i g : BitVec 16) : X Nat := do
  let s ← get
  let mine := s.ms.homes.filter fun h => h.dirty != 0 && match h.key with
    | .tensor t' a' i' g' _ => t' == t && a' == a && i' == i && g' == g
    | _ => false
  mine.foldlM (fun st h => do
    let r ← writeBackTensor h
    return if st = 0 then r else st) 0

/-- TFLUSH_COMPLETE (R112): the lines written back, the generation bumped, the handle DONE. A write-back that failed at
an eviction since the last flush counts (R110). -/
def execTflushComplete (c : CoreId) (h : BitVec 8) (s : State) : Out := eventOn c (do
  match (← self).eng.flushes.find? fun o => o.h == h && o.active with
  | none => notNow
  | some o =>
    let s ← get
    let x : Ctx := { tenant := o.tenant, asid := o.asid, root := o.root, tdt := o.tdt, user := !o.super, core := c, who := .thread c }
    let a := s.localize (descAddr o.tdt o.tid.toNat)
    let gen : BitVec 16 := BitVec.ofNat 16 (s.peek a 8).1
    let st ← flushLines o.tenant o.asid o.tid gen
    let s ← get
    let st := match s.ms.flushFail.find? fun e => e.1 == o.tenant && e.2.1 == o.asid && e.2.2.1 == o.tid with
      | some e => e.2.2.2.toNat
      | none => st
    set { s with ms := { s.ms with
      flushFail := s.ms.flushFail.filter fun e => !(e.1 == o.tenant && e.2.1 == o.asid && e.2.2.1 == o.tid) } }
    let status ← (do
      let _ ← genBump x o.tid.toNat o.tdt
      return BitVec.ofNat 4 st : X (BitVec 4)) |> fun m => tryCatch m fun e => match e with
        | .trap _ _ => return stMEMUE
        | e => throw e
    modSelf fun k =>
      ({ k with eng := { k.eng with flushes := k.eng.flushes.filter (·.h != h) } }).completeHandle h status 0) s

/-- GENERATION_SCRUB (R111): the lines of retired generations are freed. -/
def execGenerationScrub (s : State) : Out := event (modify fun s => { s with ms := s.ms.scrub }) s

/-! ### TPROBE (R275) -/

/-- The probe word of a tile whose descriptor is usable. -/
def State.probeWord (s : State) (c : Ctx) (d : Desc) (tid n : Nat) : Word :=
  let key := d.key c tid n
  let home := s.ms.home key
  let bit := fun (b : Bool) (i : Nat) => if b then 2 ^ i else 0
  toWord (d.gen.toNat * 2 ^ 16 + bit (home.any (·.dirty != 0)) 3 + bit ((s.core c.core).l1Line key).isSome 2 +
    bit (s.replica c.core key).isSome 1 + bit home.isSome 0)

/-- TPROBE (R274, R275). -/
def execTprobe (f : TT) (s : State) : Out := finish 8 (do
  let tid := bits (← readX f.xa) 48 16
  let xb ← readX f.xb
  let xc ← readX f.xc
  reserveReply [f.xc]
  let c ← selfCtx
  match ← attempt (tileNamed c tid (tileCoordsOf xb xc) 0) with
  | none => reply [(f.xc, toWord (2 ^ 63))]
  | some (d, n) => reply [(f.xc, (← get).probeWord c d tid n)]) s

end Sys2Proof.Machine
end

