-- ==== Sys2Proof/Machine/Matrix.lean ====
section
/-! DEFINITION. The matrix engine: group arithmetic, the multiply forms, CBLD, the waits on its handles, delivery of
messages and of engine events, and the return of replies (R178 to R181, R279 to R296, R357). -/

namespace Sys2Proof.Machine

/-! ### Group records (R94, R289) -/

/-- A group of 32 values: the exponent and the signed magnitudes. -/
structure Group where
  exp : Int
  q   : List Int
  deriving DecidableEq, Repr

/-- Bytes of the records of a tile as the engine reads them: codebook records are 68 bytes. -/
def codebookBytes : Nat := 68

/-- The group of a record of p planes (R94). -/
def groupOf (p rec : Nat) : Group :=
  { exp := signed 16 (fld rec 0 16)
    q := (List.range 32).map fun k =>
      let m := (List.range p).foldr (fun j acc => fld rec (32 * (j + 2) + k) 1 + 2 * acc) 0
      if rec.testBit (32 + k) then -(m : Int) else m }

/-- K-group g of a codebook record; none where its scale is NaN (R289): magnitudes in quarters. -/
def codebookGroup (book rec g : Nat) : Option Group :=
  let x := fld rec 512 8
  if x = 0xFF then none
  else some { exp := (x : Int) - 129
              q := (List.range 32).map fun k =>
                let idx := fld rec (16 * (4 * (g % 8) + k / 8)) 16
                let w := kc2Weight (fld book (32 * fld idx 8 8) 32) idx (k % 8)
                if w.1 then -(w.2 : Int) else w.2 }

/-- The sum of products of two groups (R281). -/
def dot (a b : List Int) : Int := (a.zip b).foldl (fun s p => s + p.1 * p.2) 0

/-- An integer times a power of two as a value; zero is +0 (R281). -/
def groupVal (s e : Int) : FVal := .num (s < 0) s.natAbs e

/-- The sum of two scaled integers. -/
def addScaled (s1 e1 s2 e2 : Int) : Int × Int :=
  let e := min e1 e2
  (s1 * 2 ^ (e1 - e).toNat + s2 * 2 ^ (e2 - e).toNat, e)

/-! ### Accumulation (R281) -/

/-- Acc into an FP32 element, held as its bits. -/
def accF32 (c : Nat) (s e : Int) : Nat × Flags := fp32.deliver 0 (addVal 0 (fp32.decode c) (groupVal s e))

/-- Acc into a WAC96 element. -/
def accWac (wace c s e : Int) : Int × Flags :=
  let r := roundShift 0 (s < 0) s.natAbs (wace - e)
  let t : Int := if s < 0 then -(r.1 : Int) else r.1
  let v := wacSat (c + t)
  (v.1, v.2 ||| flagIf r.2 flagNX)

/-- Acc into an element of C, held as an integer: the bits of an FP32, or the value of a WAC96. -/
def MatOp.acc (o : MatOp) (c s e : Int) : Int × Flags :=
  if o.wac then accWac (wacExp (o.wace.setWidth 16)) c s e
  else let r := accF32 c.toNat s e; (r.1, r.2)

/-! ### Sources -/

/-- K-groups, compressed K-groups for MMA.SP, and codebook blocks of an operation (R284). -/
def MatOp.groups (o : MatOp) : Nat := cdiv o.k 32
def MatOp.aGroups (o : MatOp) : Nat := if o.kind = 1 then cdiv o.k 64 else cdiv o.k 32
def MatOp.blocks (o : MatOp) : Nat := cdiv o.k 256

/-- A record of a tile: its first scratchpad byte and its bytes. -/
def Tile.recordAt (e : Tile) (idx : Nat) : Nat × Nat :=
  let b := if e.et.toNat = 0x14 then codebookBytes else recordBytes e.p.toNat
  (e.start + idx * b, b)

/-- The B groups that group g of an operation reads: two for MMA.SP. -/
def MatOp.bGroups (o : MatOp) (g : Nat) : List Nat :=
  if o.kind = 1 then [2 * g, 2 * g + 1].filter (· < o.groups) else [g]

/-- The record index in B of column n and group g. -/
def MatOp.bIndex (o : MatOp) (n g : Nat) : Nat :=
  if o.kind = 2 then o.rb.toNat + n * o.blocks + g / 8 else o.rb.toNat + n * o.groups + g

/-- The tile of a poisoned record among those that group g reads (R293). -/
def MatOp.badTile (o : MatOp) (k : Core) (g : Nat) : Option (BitVec 8) :=
  let bad := fun (t : BitVec 8) (i : Nat) => let r := (k.tile t.toNat).recordAt i; k.scratchBad r.1 r.2
  if (List.range o.m).any fun m => bad o.ta (o.ra.toNat + m * o.aGroups + g) then some o.ta
  else if (List.range o.n).any fun n => (o.bGroups g).any fun b => bad o.tb (o.bIndex n b) then some o.tb
  else none

/-- A group of the B tile; none for a codebook block with a NaN scale. -/
def MatOp.bGroup (o : MatOp) (k : Core) (n g : Nat) : Option Group :=
  let e := k.tile o.tb.toNat
  let r := e.recordAt (o.bIndex n g)
  let rec_ := k.scratchRead r.1 r.2
  if o.kind = 2 then codebookGroup k.eng.codebook.toNat rec_ g else some (groupOf e.p.toNat rec_)

/-- Metadata word of an index (R286). -/
def MatOp.meta (o : MatOp) (k : Core) (i : Nat) : Nat := k.scratchRead ((k.tile o.tm.toNat).start + 4 * (o.rc.toNat + i)) 4

/-- The code of quad q in row m (R286): low and high index. -/
def MatOp.code (o : MatOp) (k : Core) (m q : Nat) : Nat × Nat :=
  let c := fld (o.meta k (m * o.groups + q / 8)) (4 * (q % 8)) 4
  (c % 4, c / 4)

/-- The lowest metadata word with an illegal code (R287). -/
def MatOp.illegalMeta (o : MatOp) (k : Core) : Option Nat :=
  (List.range (o.m * o.groups)).find? fun i =>
    (List.range 8).any fun j =>
      let c := fld (o.meta k i) (4 * j) 4
      4 * (8 * (i % o.groups) + j) < o.k && !(c % 4 < c / 4)

/-- The products of MMA.SP with the half h of the 64 positions of a compressed group (R286, R287). -/
def MatOp.sparse (o : MatOp) (k : Core) (m g : Nat) (a : Group) (h : Nat) (b : Group) : Int × Int :=
  ((List.range 32).foldl (fun (s : Int) j =>
    let q := 16 * g + j / 2
    let c := o.code k m q
    let kk := 4 * q + (if j % 2 = 0 then c.1 else c.2)
    if kk < o.k && kk / 32 = 2 * g + h then s + (a.q[j]?).getD 0 * (b.q[kk % 32]?).getD 0 else s) 0,
   a.exp + b.exp)

/-- What one output adds in one group: an exact scaled integer (R281, R287); none for a NaN scale. -/
def MatOp.term (o : MatOp) (k : Core) (m g : Nat) (a : Group) (bs : List (Option Group)) : Option (Int × Int) :=
  match bs with
  | [some b] => some (if o.kind = 1 then o.sparse k m g a 0 b else (dot a.q b.q, a.exp + b.exp))
  | [some b0, some b1] =>
    let x := o.sparse k m g a 0 b0
    let y := o.sparse k m g a 1 b1
    some (addScaled x.1 x.2 y.1 y.2)
  | _ => none

/-- One group added to every output (R285): the elements in row-major order, and the flags. -/
def MatOp.group (o : MatOp) (k : Core) (g : Nat) (c : List Int) : List Int × Flags :=
  let cols := (List.range o.n).map fun n => (o.bGroups g).map (o.bGroup k n)
  let nan := flagIf (cols.any (·.any Option.isNone)) flagNV
  let e := k.tile o.ta.toNat
  let row := fun (m : Nat) =>
    let r := e.recordAt (o.ra.toNat + m * o.aGroups + g)
    groupOf e.p.toNat (k.scratchRead r.1 r.2)
  let terms := (List.range o.m).flatMap fun m =>
    let a := row m
    cols.map (o.term k m g a)
  let out := (c.zip terms).map fun x => match x.2 with
    | some t => o.acc x.1 t.1 t.2
    | none => (x.1, 0)
  (out.map (·.1), out.foldl (fun f x => f ||| x.2) nan)

/-- The groups from g on, fuel of them, until one reads a poisoned record: C, the flags, and the group and tile. -/
def MatOp.groupsFrom (o : MatOp) (k : Core) : Nat → Nat → List Int → Flags → List Int × Flags × Option (Nat × BitVec 8)
  | 0, _, c, f => (c, f, none)
  | fuel + 1, g, c, f =>
    match o.badTile k g with
    | some t => (c, f, some (g, t))
    | none => let r := o.group k g c; o.groupsFrom k fuel (g + 1) r.1 (f ||| r.2)

/-! ### Completion (R285, R291 to R294) -/

/-- The elements of C before group gs: zero at the start with ZC (R285, R295). -/
def MatOp.start (o : MatOp) (k : Core) : List Int :=
  (List.range (o.m * o.n)).map fun i =>
    let limb := fun j => fld (k.vec.bitsOf (o.c.toNat + j)) (32 * i) 32
    if o.zc && o.gs == 0 then 0
    else if o.wac then signed 96 (limb 0 + limb 1 * 2 ^ 32 + limb 2 * 2 ^ 64)
    else (limb 0 : Int)

/-- C written; its layout tag is TSN (R285). -/
def MatOp.store (o : MatOp) (k : Core) (c : List Int) : Core :=
  let res := (List.range c.length).zip (c.map (wrap 96))
  let k := k.vwrite (if o.wac then .wac o.c.toNat else .vec o.c.toNat 32 0) res none
  { k with vec := { k.vec with tag := o.cRegs.foldl (fun t r => t.setIfInBounds r o.n) k.vec.tag } }

/-- How an operation ends: its status, detail (none: a value that is not stated), flags, and the core with its results. -/
structure MatEnd where
  status : BitVec 4
  detail : Option Nat
  flags  : Flags
  core   : Core

/-- The index of the last complete group before group g (R293): before any, none is stated (log 32). -/
def lastGroup (g : Nat) : Option Nat := if g = 0 then none else some (g - 1)

/-- What the selector's pre-scan refuses (R287, R293): a poisoned word of metadata, or an illegal code. -/
def MatOp.prescan (o : MatOp) (k : Core) : Option (BitVec 4 × Option Nat) :=
  if o.kind = 1 then
    let at_ := (k.tile o.tm.toNat).start + 4 * o.rc.toNat
    if k.scratchBad at_ (4 * o.m * o.groups) then some (stMEMUE, lastGroup o.gs)
    else (o.illegalMeta k).map fun i => (stMETA, some i)
  else none

/-- A multiply performed (R285, R287, R289). -/
def MatOp.multiply (o : MatOp) (k : Core) : MatEnd :=
  match o.prescan k with
  | some (st, d) =>
    { status := st, detail := d, flags := 0
      core := if st = stMEMUE then k.modTile o.tm.toNat fun e => { e with st := .poisoned } else k }
  | none =>
    let r := o.groupsFrom k (o.aGroups - o.gs) o.gs (o.start k) 0
    let k := o.store k r.1
    match r.2.2 with
    | none => { status := stOK, detail := some 0, flags := r.2.1, core := k }
    | some (g, t) => { status := stMEMUE, detail := lastGroup g, flags := r.2.1
                       core := k.modTile t.toNat fun e => { e with st := .poisoned } }

/-- A codebook value in quarters, when CBLD accepts it (R69, R290). -/
def quarters (b : Nat) : Option Nat :=
  match fpE4M3.decode b with
  | .num neg m e =>
    let r := roundShift 1 false m (-(e + 2))
    if m = 0 then some 0 else if neg || r.2 || 6 < r.1 then none else some r.1
  | _ => none

/-- CBLD performed (R290): 2,048 values checked, then the table replaced. -/
def MatOp.loadBook (o : MatOp) (k : Core) : MatEnd :=
  let a := (k.tile o.ta.toNat).start + o.ra.toNat
  if k.scratchBad a 2048 then
    { status := stMEMUE, detail := some 0, flags := 0, core := k.modTile o.ta.toNat fun e => { e with st := .poisoned } }
  else
    let vs := (elemsOf 8 (k.scratchRead a 2048) 2048).map quarters
    match (List.range 2048).zip vs |>.find? fun v => v.2.isNone with
    | some v => { status := stACCESS, detail := some v.1, flags := 0, core := k }
    | none => { status := stOK, detail := some 0, flags := 0
                core := { k with eng := { k.eng with
                  codebook := BitVec.ofNat 8192 (ofElems 4 (vs.map fun v => v.getD 0)) } } }

/-- An operation performed: one that a check refused ends TILE, one that carries a zero grant does nothing (R282,
R284). -/
def MatOp.perform (o : MatOp) (k : Core) : MatEnd :=
  match o.fail with
  | some t => { status := stTILE, detail := some t.toNat, flags := 0, core := k }
  | none =>
    if o.kind = 3 then o.loadBook k
    else if o.m = 0 || o.n = 0 || o.k = 0 then { status := stOK, detail := some 0, flags := 0, core := k }
    else o.multiply k

/-- A matrix operation ends: its claims released, flags, handle, and an ENGINE event for a status that is not OK (R291
to R293). -/
def Core.endMatrix (o : MatOp) (r : MatEnd) (detail : Nat) : Core :=
  let k := o.claims.foldl (fun (k : Core) t => k.readerEnd t.toNat) (r.core.orFlags (o.flags ||| r.flags))
  let k := o.freeC k
  let k := ({ k with eng := { k.eng with mats := k.eng.mats.filter (·.h != o.h) } }).completeHandle o.h r.status detail
  if r.status = stOK then k else k.postEngine o.h r.status 1 (toWord detail)

/-- MATRIX_COMPLETE (R285 to R293): the operation that the engine performs. -/
def execMatrixComplete (c : CoreId) (s : State) : Out := eventOn c (do
  match (← self).eng.mats.find? (·.active) with
  | none => notNow
  | some o =>
    let r := o.perform (← self)
    let d ← match r.detail with
      | some d => pure d
      | none => pure ((← drawWord).toNat % 2 ^ 32)
    modSelf fun _ => Core.endMatrix o r d) s

/-- The matrix engine of a core performs one K-group of its operation and records the next (R285, R295): between groups it can
be pre-empted. A group that would end the operation is left to its completion. -/
def Core.matrixGroup (k : Core) : Core :=
  match k.eng.mats.find? (·.active) with
  | none => k
  | some o =>
    if o.fail.isSome || o.kind = 3 || o.m = 0 || o.n = 0 || o.aGroups ≤ o.gs || (o.prescan k).isSome ||
        (o.badTile k o.gs).isSome then k
    else
      let r := o.group k o.gs (o.start k)
      let o' := { o with gs := o.gs + 1, flags := o.flags ||| r.2 }
      let k := o.store k r.1
      { k with eng := { k.eng with mats := k.eng.mats.map fun (p : MatOp) => if p.h == o.h then o' else p } }

/-! ### Issue (R180, R283, R284, R291) -/

/-- The records that fit a tile. -/
def Tile.records (e : Tile) (b : Nat) : Nat := e.bytes / b

/-- A tile of group records with room for n of them (R284). -/
def Tile.holds (e : Tile) (n : Nat) : Bool := e.pk && e.et.toNat != 0x14 && n ≤ e.records (recordBytes e.p.toNat)

/-- The tile that the checks of R284 refuse first; a CBLD whose offset is no multiple of 8 is refused so too (DESIGN CHOICE,
log 32). -/
def MatOp.refused (o : MatOp) (k : Core) : Option (BitVec 8) :=
  let a := k.tile o.ta.toNat
  let b := k.tile o.tb.toNat
  let md := k.tile o.tm.toNat
  if o.kind = 3 then
    if a.pk || o.ra.toNat % 8 != 0 || a.bytes < o.ra.toNat + 2048 then some o.ta else none
  else if !a.holds (o.ra.toNat + o.m * o.aGroups) then some o.ta
  else if o.kind = 2 then
    if b.pk && b.p == 3 && b.et.toNat == 0x14 && o.rb.toNat + o.n * o.blocks ≤ b.records codebookBytes then none
    else some o.tb
  else if !b.holds (o.rb.toNat + o.n * o.groups) then some o.tb
  else if o.kind = 1 && (md.pk || md.bytes < 4 * (o.rc.toNat + o.m * o.groups)) then some o.tm
  else none

/-- The tiles that an operation names. -/
def MatOp.tiles (o : MatOp) : List (BitVec 8) :=
  match o.kind with
  | 1 => [o.ta, o.tb, o.tm]
  | 3 => [o.ta]
  | _ => [o.ta, o.tb]

/-- A poisoned word of C that an operation without ZC would read traps at its issue (R95). -/
def MatOp.cleanC (o : MatOp) : X Unit := do
  if o.kind = 3 || o.zc then return
  let k ← self
  if k.vec.poison.isEmpty then return
  match (List.range (o.m * o.n)).find? fun i => o.cRegs.any fun r => k.badElem r 32 i with
  | some i => trap causeMemUE (regUE o.c.toNat i)
  | none => return

/-- The issue of a matrix operation: tile states, C, the handle, the claims, which a trap gives up; a full inbox holds it in the execute stream (R180,
R284, R291). -/
def matrixIssue (xd : BitVec 6) (o : MatOp) : X Unit := atomically do
  freeX xd
  o.tiles.forM fun t => do namedRead t.toNat (← namedTile t.toNat)
  let k ← self
  let regs := if o.kind = 3 then [] else o.cRegs
  awaiting (regs.all fun r => k.vec.state r == .full)
  o.cleanC
  let fail := o.refused k
  let h ← wholly do
    if fail.isNone then o.tiles.forM fun t => readerStart t.toNat
    allocHandle 1
  let op := { o with h := h, fail := fail, claims := if fail.isNone then o.tiles else [] }
  modSelf fun k =>
    let k := if fail.isNone then
        { k with vec := { k.vec with st := regs.foldl (fun v r => v.setIfInBounds r .empty) k.vec.st } }
      else k
    ({ k with eng := { k.eng with mats := k.eng.mats ++ [op] } }).enterStream h
  writeX xd (h.setWidth 64)

/-- A multiply as its fields give it (R283); TSM, TSN and TSK as they stand at its issue (R282). -/
def mmaForm (f : EN) (kind : BitVec 2) : X Unit := do
  let ra ← readX f.xa
  let rb ← readX f.xb
  let rc ← if kind = 1 then readX f.xc else pure 0
  let k ← self
  matrixIssue f.xd
    { h := 0, kind := kind, ra := ra, rb := rb, rc := rc, ta := f.opA, tb := f.opB, tm := f.fn
      c := f.flags.extractLsb' 0 5, wac := f.flags.getLsbD 5, zc := f.flags.getLsbD 6
      m := (k.csrAt 0x010).toNat, n := (k.csrAt 0x011).toNat, k := (k.csrAt 0x012).toNat
      wace := 0, gs := 0, active := false, claims := [], fail := none, flags := 0 }

/-- MMA (R283, R285). -/
def execMma (f : EN) (s : State) : Out := finish 8 (mmaForm f 0) s
/-- MMA.SP (R283, R287). -/
def execMmaSp (f : EN) (s : State) : Out := finish 8 (mmaForm f 1) s
/-- MMA.CB (R283, R289). -/
def execMmaCb (f : EN) (s : State) : Out := finish 8 (mmaForm f 2) s

/-- CBLD (R290). -/
def execCbld (f : EN) (s : State) : Out := finish 8 (do
  let ra ← readX f.xa
  matrixIssue f.xd
    { h := 0, kind := 3, ra := ra, rb := 0, rc := 0, ta := f.opA, tb := 0, tm := 0, c := 0, wac := false, zc := false
      m := 0, n := 0, k := 0, wace := 0, gs := 0, active := false, claims := [], fail := none, flags := 0 }) s

/-! ### Waiting on handles (R181, R296, R357) -/

/-- An ENGINE event of a handle is held (R357). -/
def Core.heldEvent (k : Core) (h : Word) : Bool := k.tf && k.eng.events.any fun e => e.h.setWidth 64 == h

/-- The wait of CWAIT and MWAIT: while an ENGINE event of the handle is held, the entry as it stands (R357). -/
def waitHandle (xd xa : BitVec 6) (kind : BitVec 3) : X Unit := do
  let x ← readX xa
  reserveReply [xd]
  let k ← self
  match k.validHandle x kind, k.heldEvent x with
  | some e, true => reply [(xd, e.word)]
  | _, _ => waitOn xd xa kind

/-- MWAIT (R296). -/
def execMwait (f : EN) (s : State) : Out := finish 8 (waitHandle f.xd f.xa 1) s
/-- MSTAT (R296). -/
def execMstat (f : EN) (s : State) : Out := finish 8 (statusOf f.xd f.xa 1) s

/-! ### Messages, engine events, replies -/

/-- The KIND of an engine's handles (R181). -/
def engineKind : Engine → Nat
  | .copy => 0 | .matrix => 1 | .flush => 2

/-- ACTIVE_MESSAGE_DELIVERY (R180): the oldest message of an engine's inbox is taken up. The matrix engine performs one
operation at a time and reads WACE then (R281). -/
def execActiveMessageDelivery (c : CoreId) (e : Engine) (s : State) : Out := eventOn c (do
  let k ← self
  whenever (e != .matrix || !(k.eng.mats.any (·.active)))
  match k.eng.inbox (engineKind e) with
  | [] => notNow
  | h :: _ => modSelf fun k => Core.feed { k with eng := match e with
      | .copy => { k.eng with copies := k.eng.copies.map fun o => if o.h == h then { o with phase := .running } else o }
      | .matrix => { k.eng with mats := k.eng.mats.map fun o =>
          if o.h == h then { o with active := true, wace := k.csrAt 0x013 } else o }
      | .flush => { k.eng with flushes := k.eng.flushes.map fun o => if o.h == h then { o with active := true } else o } }) s

/-- A boundary at which an event may be taken (R357): a task runs, its thread has not been stopped, no trap
frame is live, no FOP blocks the thread. -/
def Core.boundary (k : Core) : Bool :=
  k.tk.task.isSome && !k.tk.finished && k.tk.preempt != .stopping && k.tk.preempt != .restoring && !k.tf &&
    k.priv != .machine && !k.fab.running

/-- An asynchronous event taken (R352, R357): an access that waited for the host is made anew after it (R37). -/
def takeAsync (cause : Nat) (tval : Word) : X Unit := do
  let k ← self
  modify fun s => { s with ms := s.ms.askDone fun a => a.1 == .thread s.cur }
  takeTrap true cause tval k.pc

/-- ENGINE_TRAP_DELIVERY (R293, R294): the oldest event, after CONF_LOST (R357). -/
def execEngineTrapDelivery (c : CoreId) (s : State) : Out := eventOn c (do
  let k ← self
  whenever (k.boundary && !k.tk.conf)
  match k.eng.events with
  | [] => notNow
  | e :: rest =>
    modSelf fun k => { k.setCsr 0x040 e.event with eng := { k.eng with events := rest } }
    takeAsync causeEngine (toWord (e.h.toNat + e.status.toNat * 2 ^ 8 + e.kind.toNat * 2 ^ 12))) s

/-- REPLY_RETURN (R178): a reply writes its registers and frees its slot. -/
def execReplyReturn (c : CoreId) (slot : Nat) (s : State) : Out := eventOn c (do
  match (← self).replies[slot]? with
  | none => notNow
  | some r => modSelf fun k =>
      r.writes.foldl (fun k w => k.wr w.1 w.2) { k with replies := k.replies.eraseIdx slot }) s

end Sys2Proof.Machine
end

