-- ==== Sys2Proof/Machine/Crypto.lean ====
section
/-! DEFINITION. AES-256-GCM as the security engine applies it (R304, R305): FIPS 197 and NIST SP 800-38D, with no
additional authenticated data. Keys, blocks and initialisation vectors are byte strings whose first byte is the most
significant of the number. -/

namespace Sys2Proof.Machine

/-! ### AES -/

/-- Multiplication by x in the field of AES. -/
def xtime (a : Nat) : Nat := if a < 128 then 2 * a else (2 * a) ^^^ 0x11B

/-- The product of two bytes in the field of AES: n bits of b. -/
def gmul (a b : Nat) : Nat → Nat
  | 0 => 0
  | n + 1 => (if b % 2 = 1 then a else 0) ^^^ gmul (xtime a) (b / 2) n

/-- The inverse of a byte, a^254; zero for zero. -/
def ginv (a : Nat) : Nat :=
  let sq := fun x => gmul x x 8
  let a2 := sq a
  let a3 := gmul a2 a 8
  let a6 := sq a3
  let a12 := sq a6
  let a14 := gmul a12 a2 8
  let a15 := gmul a12 a3 8
  let a240 := sq (sq (sq (sq a15)))
  gmul a240 a14 8

/-- The substitution of one byte. -/
def subByte (a : Nat) : Nat :=
  let b := ginv a
  let rot := fun n => (b * 2 ^ n ||| b / 2 ^ (8 - n)) % 256
  b ^^^ rot 1 ^^^ rot 2 ^^^ rot 3 ^^^ rot 4 ^^^ 0x63

/-- The substitution as a table. -/
def subTable : Array Nat := ((List.range 256).map subByte).toArray

/-- The substitution of one byte, from the table. -/
def sub8 (a : Nat) : Nat := (subTable[a]?).getD 0

/-- The bytes of a number, n of them, the most significant first. -/
def bytesBE (n v : Nat) : List Nat := (List.range n).map fun i => v / 256 ^ (n - 1 - i) % 256

/-- A number from its bytes, the most significant first. -/
def ofBytesBE (bs : List Nat) : Nat := bs.foldl (fun v b => 256 * v + b % 256) 0

/-- The byte at an index. -/
def byteAt (bs : List Nat) (i : Nat) : Nat := (bs[i]?).getD 0

/-- Two byte strings added. -/
def xorBytes (a b : List Nat) : List Nat := (a.zip b).map fun p => p.1 ^^^ p.2

/-- The key schedule: four bytes a word, newest first; i words made so far of n more. -/
def keyWords : Nat → Nat → List (List Nat) → List (List Nat)
  | 0, _, ws => ws
  | n + 1, i, ws =>
    let prev := (ws[0]?).getD []
    let back := (ws[7]?).getD []
    let t := if i % 8 = 0 then
        xorBytes ((prev.drop 1 ++ prev.take 1).map sub8) [(Nat.repeat xtime (i / 8 - 1) 1), 0, 0, 0]
      else if i % 8 = 4 then prev.map sub8
      else prev
    keyWords n (i + 1) (xorBytes back t :: ws)

/-- The 15 round keys of a key. -/
def roundKeys (key : Nat) : List (List Nat) :=
  let k := bytesBE 32 key
  let ws := (keyWords 52 8 ((List.range 8).map fun i => (k.drop (4 * i)).take 4).reverse).reverse
  (List.range 15).map fun r => ((ws.drop (4 * r)).take 4).flatten

/-- Rows shifted; byte 4c + r is row r of column c. -/
def shiftRows (s : List Nat) : List Nat :=
  (List.range 16).map fun i => byteAt s ((i + 4 * (i % 4)) % 16)

/-- Columns mixed. -/
def mixColumns (s : List Nat) : List Nat :=
  (List.range 16).map fun i =>
    let c := i / 4 * 4
    let at_ := fun j => byteAt s (c + (i + j) % 4)
    xtime (at_ 0) ^^^ (xtime (at_ 1) ^^^ at_ 1) ^^^ at_ 2 ^^^ at_ 3

/-- The rounds with the keys that remain. -/
def aesRounds : List (List Nat) → List Nat → List Nat
  | [], s => s
  | [k], s => xorBytes (shiftRows (s.map sub8)) k
  | k :: ks, s => aesRounds ks (xorBytes (mixColumns (shiftRows (s.map sub8))) k)

/-- One block encrypted under a key schedule. -/
def aesBlock (ks : List (List Nat)) (b : Nat) : Nat :=
  match ks with
  | [] => 0
  | k :: rest => ofBytesBE (aesRounds rest (xorBytes (bytesBE 16 b) k))

/-! ### GCM -/

/-- The product of two blocks in the field of GCM: n bits of x from its most significant remain; v is y times the
power reached. -/
def ghashMul (x : Nat) : Nat → Nat → Nat → Nat
  | 0, _, z => z
  | n + 1, v, z =>
    ghashMul x n (if v % 2 = 1 then v / 2 ^^^ (0xE1 * 2 ^ 120) else v / 2) (if x.testBit n then z ^^^ v else z)

/-- A byte string cut into blocks, the last filled with zeros; fuel blocks at most. -/
def blocksOf : Nat → List Nat → List Nat
  | 0, _ => []
  | n + 1, bs =>
    if bs.isEmpty then []
    else
      let b := bs.take 16
      ofBytesBE b * 256 ^ (16 - b.length) :: blocksOf n (bs.drop 16)

/-- The hash of ciphertext of L bytes. -/
def ghash (h : Nat) (cipher : List Nat) : Nat :=
  (blocksOf (cipher.length / 16 + 1) cipher ++ [8 * cipher.length]).foldl (fun y b => ghashMul (y ^^^ b) 128 h 0) 0

/-- Counter block i of an initialisation vector: block 1 makes the tag. -/
def counterBlock (iv i : Nat) : Nat := iv * 2 ^ 32 + i % 2 ^ 32

/-- A byte string encrypted or decrypted in counter mode. -/
def gcmStream (ks : List (List Nat)) (iv : Nat) (data : List Nat) : List Nat :=
  let n := cdiv data.length 16
  xorBytes data ((List.range n).flatMap fun i => bytesBE 16 (aesBlock ks (counterBlock iv (i + 2))))

/-- The tag of ciphertext. -/
def gcmTag (ks : List (List Nat)) (iv : Nat) (cipher : List Nat) : List Nat :=
  bytesBE 16 (ghash (aesBlock ks 0) cipher ^^^ aesBlock ks (counterBlock iv 1))

/-- COPY.ENC's stream: the ciphertext, then the tag (R305). -/
def gcmEncrypt (key iv : Nat) (plain : List Nat) : List Nat :=
  let ks := roundKeys key
  let c := gcmStream ks iv plain
  c ++ gcmTag ks iv c

/-- COPY.DEC's plaintext, or none when the tag does not match (R304). -/
def gcmDecrypt (key iv : Nat) (cipher tag : List Nat) : Option (List Nat) :=
  let ks := roundKeys key
  if gcmTag ks iv cipher = tag then some (gcmStream ks iv cipher) else none

/-- The initialisation vector of a slot's salt and a counter (R304). -/
def copyIv (salt : BitVec 32) (ctr : Word) : BitVec 96 := salt ++ ctr

end Sys2Proof.Machine
end

