-- ==== Sys2Proof/Machine/Fetch.lean ====
section
/-! DEFINITION. Fetching and decoding the instruction at the program counter (R44, R185, R191, R194, R195, R203,
R356, R364). -/

namespace Sys2Proof.Machine

/-- The 8-byte word at a virtual address as the control core fetches it, and whether it is poisoned: from the words
it holds, else read where instruction fetch reads, at the home. -/
def fetchWord (va : Word) : X (Word × Bool) := do
  let s ← get
  let h ← resolveGlobal (s.ctxOf s.cur) va { kind := 2, n := 8 } anyFormat
  let s ← get
  match s.self.cache.icache.find? (·.1 == h.ga / 8) with
  | some e => return (e.2, false)
  | none =>
    if 2 ^ 42 ≤ h.ga then
      if ← remoteCheck (s.ctxOf s.cur) h 2 then return (toWord ((← get).ms.rd h.ga 8), (← get).ms.poisoned h.ga 8) else return (0, true)
    else
      let (ms, v, bad) := s.ms.homeRead h.ga 8 (some s.self.tk.tenant)
      let s := { s with ms := ms }
      set (if bad then s else s.modSelf fun k => { k with cache := { k.cache with
        icache := (h.ga / 8, toWord v) :: k.cache.icache } })
      return (toWord v, bad)

/-- The instruction at the program counter, its extension word before it (R191); fetch faults first, then MEM_UE,
then the decode checks (R195, R356). -/
def fetchInstr : X Instr := do
  let pc := (← self).pc
  let (w0, bad0) ← fetchWord pc
  let (w1, bad1) ← if opOf w0 = extOp then fetchWord (pc + 8) else pure (0, false)
  require (!bad0) causeMemUE (memUE false 7 2 (bits pc 0 56))
  require (!bad1) causeMemUE (memUE false 7 2 (bits (pc + 8) 0 56))
  let word := if opOf w0 = extOp then w1 else w0
  match decode (← get).step w0 w1 with
  | .ok i => return i
  | .error .illegalOp => trap causeIllegalOp word
  | .error .opcodeRetired => trap causeRetired word
  | .error .illegalEnc => trap causeIllegalEnc word
  | .error .extRefused => trap causeIllegalEnc w0

/-- The outcome of a fetch: the instruction and the state after it, or the state in which the thread waits or has
taken the trap of the fetch. -/
def State.fetch (s : State) : Except State (Instr × State) :=
  match fetchInstr s with
  | .ok i t => .ok (i, t)
  | .error (.trap c v) t => .error (State.settleX (takeTrap false c v s.self.pc) t)
  | .error (.wait w) t => .error (t.modSelf fun k => { k with wait := w })
  | .error _ t => .error t

end Sys2Proof.Machine
end

