-- ==== Sys2Proof/Machine/System.lean ====
section
/-! DEFINITION. The system instructions: NOP, TRAP, BKPT, ERET, the CSR forms, ENQ, the instruction-cache forms,
KEYSEL and UDF (R197 to R199, R322, R349 to R354, R360 to R365, R372, R377). YIELD and DONE stand with the Dealer. -/

namespace Sys2Proof.Machine

/-! ### CSRs -/

/-- The frame copy that a CSR number names while TF = 1 at SUPER (R353): LC0 to LE1, VSTART. -/
def frameIndex (n : Nat) : Option Nat :=
  if 0x030 ≤ n && n ≤ 0x035 then some (n - 0x030) else if n = 0x003 then some 6 else none

/-- The privilege a CSR number needs (R197): 0 USER, 1 SUPER, 2 MACHINE. -/
def csrLevel (n : Nat) : Nat := if n < 0x100 then 0 else if n < 0x200 then 1 else 2

/-- The level of a thread's privilege. -/
def Priv.level : Priv → Nat
  | .user => 0 | .super => 1 | .machine => 2

/-- A CSR is written at a privilege (R198): the reports never, some only above USER. FSP4 is written in its FROZEN
bit alone (R322). -/
def csrWritable (n : Nat) (p : Priv) : Bool :=
  if n = 0x004 || n = 0x005 || n = 0x018 || n = 0x019 || n = 0x050 || (0x060 ≤ n && n ≤ 0x064) || n = 0x068 ||
      (0x020 ≤ n && n ≤ 0x027 && n != 0x024) then false
  else if n = 0x001 || n = 0x002 || (0x010 ≤ n && n ≤ 0x012) || n = 0x024 || n = 0x040 || n = 0x051 then
    p != .user
  else true

/-- What a write of v leaves in a CSR that held old: reserved bits are discarded (R10), APEND and the other
read-only bits are kept; FROZEN can only be cleared (R322). -/
def csrStore (n : Nat) (old v : Word) : Word :=
  match n with
  | 0x000 => v &&& 0x37FF
  | 0x008 => v &&& 0x7F
  | 0x009 => v &&& 3
  | 0x00A => v &&& 0x7_FFFF_FFFF_FFFF
  | 0x00B => v &&& 0x3_FFFF_FFFF
  | 0x00C => v &&& 3
  | 0x013 => v &&& 0xFFFF
  | 0x024 => if v.getLsbD 63 then old else setBits old 63 1 0
  | 0x031 | 0x032 | 0x034 | 0x035 => addrField v
  | 0x041 => v &&& 0xFFFF_FFFF
  | 0x100 => v &&& 0x8000_0000_0000_00FF
  | 0x102 | 0x104 => addrField v
  | 0x103 =>
    let w := (v &&& 0x991F) ||| (old &&& 0x200)
    if bits w 11 2 < 2 then w else setBits w 11 2 0
  | 0x110 => v &&& 1
  | 0x120 => v &&& 0xFFFF
  | 0x121 => v &&& 0x000F_FFFF_FFFF_F000
  | 0x122 => tdtField v
  | 0x130 => v &&& 3
  | _ => v

/-- The frozen FOP of a core discarded (R322). -/
def Core.thaw (k : Core) : Core :=
  match k.fab.grid with
  | some g => if g.frozen then
      { k.setCsr 0x024 (setBits (k.csrAt 0x024) 63 1 0) with fab := { k.fab with grid := none } }
    else k
  | none => k.setCsr 0x024 (setBits (k.csrAt 0x024) 63 1 0)

/-- The value of a CSR as an instruction reads it. -/
def csrRead (n : Nat) : X Word := do
  let s ← get
  let k := s.self
  match frameIndex n with
  | some i => if k.tf && k.priv = .super then return (k.frame[i]?).getD 0 else return k.csrAt n
  | none =>
    if n = 0x050 then drawWord
    else if n = 0x063 then return s.cur.setWidth 64
    else return k.csrAt n

/-- A CSR written by an instruction. -/
def csrWrite (n : Nat) (v : Word) : X Unit := do
  let s ← get
  let k := s.self
  let w := csrStore n (k.csrAt n) v
  match frameIndex n with
  | some i =>
    if k.tf && k.priv = .super then modSelf fun k => { k with frame := k.frame.setIfInBounds i w }
    else modSelf (·.setCsr n w)
  | none =>
    modSelf (·.setCsr n w)
    if n = 0x024 && !w.getLsbD 63 then modSelf Core.thaw
    if n = 0x122 then
      modify fun s => { s with ms := { s.ms with desc := s.ms.desc.filter fun e =>
        !(e.cluster == clusterOf s.cur && e.tenant == k.tk.tenant && e.asid == k.asid) } }

/-- A CSR form (R197, R362): after gives the CSR from its old value and v; none leaves it. FFLAGS waits for the
matrix operations of the thread (R292). -/
def csrForm (word : Word) (csr : BitVec 12) (f : SY) (after : Option (Word → Word → Word)) : X Unit := do
  let n := csr.toNat
  let k ← self
  require (csrLevel n ≤ k.priv.level) causePriv word
  let v := (← readX f.xa) + f.value
  freeX f.xd
  awaiting (n != 0x008 || k.eng.mats.isEmpty)
  let old ← csrRead n
  match after with
  | some g => if csrWritable n k.priv then csrWrite n (g old v) else pure ()
  | none => pure ()
  writeX f.xd old

/-- CSRRD (R362). -/
def execCsrrd (csr : BitVec 12) (f : SY) (s : State) : Out :=
  finish (extSize f.ext) (csrForm (Instr.word (.csrrd csr f)) csr f none) s
/-- CSRWR (R362). -/
def execCsrwr (csr : BitVec 12) (f : SY) (s : State) : Out :=
  finish (extSize f.ext) (csrForm (Instr.word (.csrwr csr f)) csr f (some fun _ v => v)) s
/-- CSRSET (R362). -/
def execCsrset (csr : BitVec 12) (f : SY) (s : State) : Out :=
  finish (extSize f.ext) (csrForm (Instr.word (.csrset csr f)) csr f (some fun old v => old ||| v)) s
/-- CSRCLR (R362). -/
def execCsrclr (csr : BitVec 12) (f : SY) (s : State) : Out :=
  finish (extSize f.ext) (csrForm (Instr.word (.csrclr csr f)) csr f (some fun old v => old &&& ~~~v)) s

/-! ### Simple forms -/

/-- NOP (R360). -/
def execNop (_f : SY) (s : State) : Out := finish 8 (pure ()) s

/-- TRAP (R360). -/
def execTrap (f : SY) (s : State) : Out := finish (extSize f.ext) (trap causeSyscall f.value) s

/-- BKPT (R360). -/
def execBkpt (f : SY) (s : State) : Out := finish 8 (trap causeBreak (Instr.word (.bkpt f))) s

/-- UDF traps ILLEGAL_OP (R194, R359). -/
def execUdf (bits : BitVec 56) (s : State) : Out := finish 8 (trap causeIllegalOp (Instr.word (.udf bits))) s

/-- The return from a machine trap (R354, R377): the machine CSRs belong to firmware; the level it names is a free
value among USER and SUPER (log 4). -/
def Core.machineReturn (k : Core) : Core :=
  { k with
    pc := canon56 (addrField (k.csrAt 0x201))
    priv := if Config.machineReturnPriv (k.csrAt 0x200) then .super else .user }

/-- ERET (R354): its next address is not sequential. -/
def execEret (f : SY) (s : State) : Out := finish 8 (do
  let k ← self
  match k.priv with
  | .user => trap causePriv (Instr.word (.eret f))
  | .super =>
    modSelf fun k => k.returnTrap.resumeCopies
    throw (.goto (← self).pc)
  | .machine =>
    modSelf Core.machineReturn
    throw (.goto (← self).pc)) s

/-! ### Instruction fetch -/

/-- DCWB completes when the older stores of the range are performed at their homes: every store of this model has
been (R364; log 8). -/
def execDcwb (f : SY) (s : State) : Out := finish (extSize f.ext) (do
  let _ ← readX f.xa) s

/-- The physical address of a virtual page for ICINV; none where it does not translate. -/
def State.pageOf (s : State) (va : Word) : Option Nat :=
  match quiet (resolveGlobal (s.ctxOf s.cur) va { kind := 0, n := 1 } anyFormat) s with
  | .ok h _ => some h.ga
  | .error _ _ => none

/-- The words [a, a + n) lose their place in the instruction cache of the core that moves. -/
def State.icDrop (s : State) (a n : Nat) : State :=
  s.modSelf fun k => { k with cache := { k.cache with
    icache := k.cache.icache.filter fun e => !(a / 8 ≤ e.1 && e.1 ≤ (a + n - 1) / 8) } }

/-- ICINV page by page: fuel pages from va on, up to end, each skipped where it does not translate. -/
def State.icInvalidate : Nat → Nat → Nat → State → State
  | 0, _, _, s => s
  | fuel + 1, va, stop, s =>
    if stop ≤ va || s.self.cache.icache.isEmpty then s
    else
      let next := min stop ((va / 4096 + 1) * 4096)
      let s := match s.pageOf (toWord va) with
        | some pa => s.icDrop pa (next - va)
        | none => s
      State.icInvalidate fuel next stop s

/-- ICINV (R364). -/
def execIcinv (f : SY) (s : State) : Out := finish (extSize f.ext) (do
  let a := (← readX f.xa).toNat
  let len := f.uvalue.toNat
  modify fun s => s.icInvalidate (len / 4096 + 2) a (a + len)) s

/-- FETCHB: the next instruction is fetched anew, and the core records the current code generation (R364, R372). -/
def execFetchb (_f : SY) (s : State) : Out := finish 8 (modify fun s =>
  s.modSelf fun k => { k with tk := { k.tk with gen := s.gcur } }) s

/-! ### ENQ -/

/-- The node's queue after one record more (R363): the record at QTAIL, QTAIL + 1, by one MSU operation on dword 5.
A record whose place lies outside the tenant's windows is written nowhere (log 14). The issuer's own L1 copies of what is
written are dropped (R141, R151). -/
def State.post (s : State) (t : BitVec 6) (n : Node) (record : Nat) : State :=
  let raw := n.qbase + 64 * (n.qtail % 2 ^ n.qlog)
  let pa := s.localize raw
  let s := if s.inTables t raw 64 then s.homeStore pa 64 record (some t) else s
  let v := setBits (n.at_ 5) 32 32 (n.qtail + 1)
  let a := s.nodeAddr t.toNat n.id + 40
  { s with ms := s.ms.msuWrite a 8 v.toNat }.modSelf fun k => (k.l1DropAddr pa 64).l1DropAddr a 8

/-- ENQ (R363). -/
def execEnq (f : SY) (s : State) : Out := finish (extSize f.ext) (do
  let a ← readX f.xa
  reserveReply [f.xd]
  require (bits a 0 6 == 0) causeMisalign a
  let c := (← get).ctxOf s.cur
  let dws ← (List.range 8).mapM fun i => do
    let va := a + toWord (8 * i)
    let p ← resolveG c va { kind := 0, n := 8 } (rawReadOk 8)
    spotRead c p 8 0 (bits va 0 56)
  let region := f.uvalue.toNat % 2 ^ 16
  waitSends
  modify State.release
  let s ← get
  let t := s.self.tk.tenant
  let v : Word ← match s.node? t.toNat region with
    | none => pure 2
    | some n =>
      if !nodeOk t.toNat (s.path t.toNat region) then pure 2
      else if (n.qtail + 2 ^ 32 - n.qhead) % 2 ^ 32 = 2 ^ n.qlog then pure 1
      else
        set (s.post t n (ofElems 64 dws))
        pure 0
  modify fun s => s.rereadDue t
  reply [(f.xd, v)]) s

/-! ### KEYSEL -/

/-- The TDI of function f is in RUN (R406). -/
def State.inRun (s : State) (f : Nat) : Bool := (s.sec.tdi[f - 1]?) == some .run

/-- The slot of a function. -/
def State.keySlot (s : State) (f : Nat) (slot : BitVec 6) : Option KeySlot :=
  s.sec.slots.find? fun e => e.func == f && e.slot == slot

/-- A key provisioned to a function. -/
def State.keyOf (s : State) (f : Nat) (handle : BitVec 16) : Option Key :=
  s.sec.keys.find? fun e => e.func == f && e.handle == handle

/-- A form of KEYSEL, at SUPER only, through a reply slot (R365). -/
def keysel (word : Word) (f : SY) (op : Nat → BitVec 6 → Word → State → Word × State) : X Unit := do
  needSuper word
  let a ← readX f.xa
  reserveReply [f.xd]
  let s ← get
  let (v, t) := op s.self.func (f.uvalue.extractLsb' 0 6) a s
  set t
  reply [(f.xd, v)]

/-- keysel.bind (R365): refused in the order BAD, NOTRUN, NOKEY. -/
def keyBind (f : Nat) (slot : BitVec 6) (a : Word) (s : State) : Word × State :=
  if bits a 16 16 != 0 then (3, s)
  else if !s.inRun f then (2, s)
  else if (s.keyOf f (a.extractLsb' 0 16)).isNone then (1, s)
  else
    let rest := s.sec.slots.filter fun e => !(e.func == f && e.slot == slot)
    (0, { s with sec := { s.sec with slots := ⟨f, slot, a.extractLsb' 0 16, a.extractLsb' 32 32⟩ :: rest } })

/-- keysel.unbind (R365). -/
def keyUnbind (f : Nat) (slot : BitVec 6) (_a : Word) (s : State) : Word × State :=
  if !s.inRun f then (2, s)
  else (0, { s with sec := { s.sec with slots := s.sec.slots.filter fun e => !(e.func == f && e.slot == slot) } })

/-- keysel.qry (R365): NEXT, or all ones for an empty slot; an exhausted NEXT reads as all ones too. -/
def keyQuery (f : Nat) (slot : BitVec 6) (_a : Word) (s : State) : Word × State :=
  match (s.keySlot f slot).bind fun e => s.keyOf f e.handle with
  | some k => (k.next.getD (BitVec.allOnes 64), s)
  | none => (BitVec.allOnes 64, s)

/-- KEYSEL.BIND (R365). -/
def execKeyselBind (f : SY) (s : State) : Out :=
  finish (extSize f.ext) (keysel (Instr.word (.keyselBind f)) f keyBind) s
/-- KEYSEL.UNBIND (R365). -/
def execKeyselUnbind (f : SY) (s : State) : Out :=
  finish (extSize f.ext) (keysel (Instr.word (.keyselUnbind f)) f keyUnbind) s
/-- KEYSEL.QRY (R365). -/
def execKeyselQry (f : SY) (s : State) : Out :=
  finish (extSize f.ext) (keysel (Instr.word (.keyselQry f)) f keyQuery) s

end Sys2Proof.Machine
end

