-- ==== Sys2Proof/Machine/Copy.lean ====
section
/-! DEFINITION. The copy engine: COPY, COPY.DEC, COPY.ENC, their units, suspension, completion and the waits on their
handles (R158, R296 to R306). -/

namespace Sys2Proof.Machine

/-! ### Descriptors (R298) -/

def CopyOp.mode (o : CopyOp) : Nat := bits o.d0 62 2
def CopyOp.byColumns (o : CopyOp) : Bool := o.d0.getLsbD 58
def CopyOp.planes (o : CopyOp) : Nat := bits o.d0 53 5 + 1
def CopyOp.etCode (o : CopyOp) : Nat := bits o.d0 48 5
def CopyOp.slot (o : CopyOp) : BitVec 6 := o.d0.extractLsb' 40 6
def CopyOp.rows (o : CopyOp) : Nat := bits o.d0 24 16
def CopyOp.rowLen (o : CopyOp) : Nat := bits o.d0 0 24
def CopyOp.dpitch (o : CopyOp) : Int := signed 32 (bits o.d1 32 32)
def CopyOp.spitch (o : CopyOp) : Int := signed 32 (bits o.d1 0 32)

/-- Bytes of a delivered element of DECODE. -/
def CopyOp.elemBytes (o : CopyOp) : Nat := match ET.ofCode o.etCode with
  | some t => max 1 (ETwidth t / 8)
  | none => 1

/-- Positions along K, and groups of 32 of them, of a PACK copy. -/
def CopyOp.depth (o : CopyOp) : Nat := if o.byColumns then o.rows else o.rowLen
def CopyOp.packGroups (o : CopyOp) : Nat := cdiv o.depth 32

/-- Progress units: destination bytes, or records (R300). -/
def CopyOp.total (o : CopyOp) : Nat :=
  if o.mode = 2 then
    if o.fmt = some 7 then o.rows * cdiv o.rowLen 256
    else (if o.byColumns then o.rowLen else o.rows) * o.packGroups
  else if o.mode = 1 then o.rows * o.rowLen * o.elemBytes
  else o.rows * o.rowLen

/-- The source types of a PACK copy from a RAW page (R298). -/
def packType : ET → Bool
  | .i8 | .u8 | .i16 | .u16 | .i32 | .u32 | .f16 | .bf16 | .f32 | .f64 | .e4m3 | .e5m2 | .e3m2 | .e2m3 => true
  | _ => false

/-- A copy that completes SHAPE at once (R298); d2 is the whole third dword. The records of a PACK copy are counted when the format
of its source is known. -/
def CopyOp.misshaped (o : CopyOp) (d2 : Word) : Bool :=
  let badType := match ET.ofCode o.etCode with
    | some t => o.mode == 1 && !ETflt t
    | none => o.mode == 1 || (o.mode == 0 && o.dstTile.isSome)
  o.mode == 3 || 5 < o.scope || bits o.d0 46 2 != 0 || bits d2 56 8 != 0 || (o.kind == 0 && o.ctr != 0) || badType ||
    24 < o.planes || o.rows == 0 || o.rowLen == 0 || bits o.reply 0 3 != 0 ||
    (o.mode == 1 && o.srcTile.isSome) || (o.mode == 2 && (o.srcTile.isSome || o.dstTile.isNone)) ||
    (o.kind == 1 && !(o.mode == 0 && o.rows == 1 && o.srcTile.isNone && o.dstTile.isSome)) ||
    (o.kind == 2 && !(o.mode == 0 && o.rows == 1 && o.srcTile.isSome && o.dstTile.isNone)) ||
    ((o.mode != 2 || o.fmt.isSome) && 2 ^ 32 ≤ o.total)

/-- Bytes of a record of a PACK copy. -/
def CopyOp.packBytes (o : CopyOp) : Nat := if o.fmt = some 7 then codebookBytes else recordBytes o.planes

/-- Rows of len bytes at a pitch lie in a tile; a tile of another tenant is judged by its state. -/
def Core.rowsFit (k : Core) (t : BitVec 8) (off : Nat) (pitch : Int) (len rows : Nat) : Bool :=
  let e := k.tile t.toNat
  let last : Int := off + (rows - 1 : Nat) * pitch
  !(e.v && e.tenant == k.tk.tenant) || (0 ≤ last && last + len ≤ e.bytes && off + len ≤ e.bytes)

/-- A copy that completes TILE at once (R298); the room for a PACK copy's records is judged when the format of its source is
known. -/
def CopyOp.noRoom (o : CopyOp) (k : Core) : Bool :=
  (o.srcTile.isSome && o.srcTile == o.dstTile) ||
  (match o.dstTile with
    | some t =>
      if o.mode = 2 then o.fmt.isSome && !k.rowsFit t (o.dst.toNat * o.packBytes) 0 (o.total * o.packBytes) 1
      else !k.rowsFit t o.dst.toNat o.dpitch (if o.mode = 1 then o.rowLen * o.elemBytes else o.rowLen) o.rows
    | none => false) ||
  (match o.srcTile with
    | some t => !k.rowsFit t o.src.toNat o.spitch o.rowLen o.rows
    | none => false)

/-! ### Issue (R180, R297, R299) -/

/-- A drain takes a tile (R90, R299): EMPTY and DRAINING trap, and so does FILLING with SUSP = 1. -/
def drainStart (t : Nat) : X Unit := do
  let e ← namedTile t
  match e.st with
  | .ready =>
    awaiting (e.readers == 0)
    modSelf fun k => k.setTile t { e with st := .draining, susp := false }
  | .poisoned => trap causeTilePoison (tileValue t e 0)
  | .filling => if e.susp then tileTrap t e else throw (.wait .resource)
  | .draining | .empty => tileTrap t e

/-- The FMT of the page at an address, as far as it translates; nothing is left changed. -/
def peekFmt (x : Ctx) (a : Word) : X (Option Nat) := fun s =>
  match resolveGlobal x a { kind := 0, n := 1 } anyFormat s with
  | .ok h _ => .ok (some (pteFmt h.pte)) s
  | .error _ _ => .ok none s

/-- The tile sides of a copy claimed (R299): the destination filled, the source read or drained. -/
def copyClaim (o : CopyOp) : X CopyOp := do
  let before := fun (t : Option (BitVec 8)) (k : Core) => match t with
    | some t => k.tile t.toNat
    | none => Tile.free
  let k ← self
  match o.dstTile with
  | some t =>
    let _ ← namedTile t.toNat
    fillStart t.toNat fun e => { e with
      pk := o.mode == 2, p := if o.mode = 2 then BitVec.ofNat 5 o.planes else 0, et := BitVec.ofNat 5 o.etCode
      conf := o.kind == 1, pot := false }
  | none => pure ()
  match o.srcTile with
  | some t => if o.keep then readerStart t.toNat else drainStart t.toNat
  | none => pure ()
  return { o with prevDst := before o.dstTile k, prevSrc := before o.srcTile k, conf := (before o.srcTile k).conf }

/-- A copy started (R180, R297 to R299): a full inbox holds it in the execute stream; a copy refused for its shape or its tiles
completes so, and claims nothing, as one does that traps; d2 is its third dword, spare says that bytes reserved beside the descriptor are not
zero (R315). -/
def copyStart (x : Ctx) (o : CopyOp) (d2 : Word) (spare : Bool) : X (BitVec 8) := do
  let k ← self
  let fmt ← if o.mode = 2 then peekFmt x o.src else pure none
  let refused := if spare || { o with fmt := fmt }.misshaped d2 then some stSHAPE
    else if { o with fmt := fmt }.noRoom k then some stTILE else none
  let (o, h) ← wholly do
    let o ← match refused with
      | some r => pure { o with refused := some r, srcTile := none, dstTile := none }
      | none => copyClaim o
    return (o, ← allocHandle 0)
  modSelf fun k => { k with eng := { k.eng with copies := k.eng.copies ++ [{ o with h := h }] } }.enterStream h
  return h

/-- A copy as its descriptor d0 to d3 gives it (R298). -/
def copyOf (x : Ctx) (kind : BitVec 2) (src dst : Word) (d : Nat → Word) (rm : BitVec 2) : CopyOp :=
  { h := 0, kind := kind, src := src, dst := dst, srcTile := none, dstTile := none, keep := false, d0 := d 0, d1 := d 1
    reply := toWord (bits (d 2) 0 56), ctr := d 3, rm := rm, asid := x.asid, ptroot := x.root, tdt := x.tdt, super := !x.user
    phase := .queued, u := 0, prevSrc := Tile.free, prevDst := Tile.free, conf := false, refused := none
    rep := none, auth := none, resumed := false, fmt := none, old := [] }

/-- n dwords of GLOBAL memory that an operation reads as its descriptor; no register block (R21). -/
def readDwords (x : Ctx) (at_ : Word) (n : Nat) (rewalk : Option Nat) : X (Nat → Word) := do
  let ds ← (List.range n).mapM fun i => do
    let a := at_ + toWord (8 * i)
    let p ← resolveG x a { kind := 0, n := 8, noMmio := true, rewalk := rewalk == some (bits a 12 44) } (rawReadOk 8)
    spotRead x p 8 0 (bits a 0 56)
  return fun i => toWord ((ds[i]?).getD 0)

/-- The issue of COPY, COPY.DEC and COPY.ENC. -/
def copyForm (f : EN) (kind : BitVec 2) : X Unit := atomically do
  let src ← readX f.xa
  let dst ← readX f.xb
  let at_ ← readX f.xc
  freeX f.xd
  require (at_.toNat % 32 == 0) causeMisalign at_
  let x ← selfCtx
  let d ← readDwords x at_ 4 none
  let o := { copyOf x kind src dst d (← self).rm with
    srcTile := if f.flags.getLsbD 0 then some f.opA else none
    dstTile := if f.flags.getLsbD 1 then some f.opB else none
    keep := f.flags.getLsbD 2 }
  let h ← copyStart x o (d 2) false
  writeX f.xd (h.setWidth 64)

/-- COPY (R297). -/
def execCopy (f : EN) (s : State) : Out := finish 8 (copyForm f 0) s
/-- COPY.DEC (R304). -/
def execCopyDec (f : EN) (s : State) : Out := finish 8 (copyForm f 1) s
/-- COPY.ENC (R305). -/
def execCopyEnc (f : EN) (s : State) : Out := finish 8 (copyForm f 2) s

/-! ### Bytes in GLOBAL -/

/-- [a, a + n) cut at multiples of q: (offset, length) pairs; fuel pieces at most. -/
def cutAt (q a n : Nat) : Nat → Nat → List (Nat × Nat)
  | 0, _ => []
  | fuel + 1, o =>
    if n ≤ o then []
    else
      let len := min (n - o) (q - (a + o) % q)
      (o, len) :: cutAt q a n fuel (o + len)

/-- A hit moved on by some bytes of its page. -/
def Hit.plus (h : Hit) (o : Nat) : Hit := { h with pa := h.pa + o, ga := h.ga + o, va := h.va + toWord o }

/-- A value read at an address, with the bytes that the copy has already overwritten as it found them (R299). -/
def patchOld (old : List (Nat × Nat)) (ga n v : Nat) : Nat :=
  if old.isEmpty then v
  else (List.range n).foldl (fun v j => match old.find? (·.1 == ga + j) with
    | some e => putFld v (8 * j) 8 e.2
    | none => v) v

/-- What a copy asks of a translation: no register block (R21; DESIGN CHOICE, log 33). -/
def copyAsk (kind n : Nat) (rewalk : Bool) : Ask := { kind := kind, n := n, noMmio := true, rewalk := rewalk }

/-- n bytes read by a copy, page by page and line by line, a TB page byte by byte (R106). -/
def copyRead (x : Ctx) (old : List (Nat × Nat)) (va : Word) (n : Nat) (fmtOk : Word → Nat → Bool) (rewalk : Bool) :
    X Nat := do
  let pages := cutAt 4096 va.toNat n (n + 1) 0
  pages.foldlM (fun (acc : Nat) p => do
    let a := va + toWord p.1
    let h ← resolveGlobal x a (copyAsk 0 p.2 rewalk) fmtOk
    let one := fun (spot : Spot) (o len : Nat) (acc : Nat) => do
      let v ← spotRead x spot len 0 (bits (a + toWord o) 0 56)
      return acc + patchOld old (h.ga + o) len v * 2 ^ (8 * (p.1 + o))
    if pteTb h.pte then
      (List.range p.2).foldlM (fun (acc : Nat) j => do one (← tbMap x (bits (a + toWord j) 0 56) 1 0) j 1 acc) acc
    else (cutAt 256 h.pa p.2 (p.2 + 1) 0).foldlM (fun (acc : Nat) q => one (.plain (h.plus q.1)) q.1 q.2 acc) acc) 0

/-- The bytes [off, off + n) of a value in which each byte that is also a source byte of its copy is free (R299). -/
def spoiled (runs : List (Nat × Nat)) (ga n v : Nat) : X Nat := do
  let hit := fun (j : Nat) => runs.any fun r => r.1 ≤ ga + j && ga + j < r.1 + r.2
  if (List.range n).any hit then
    let s ← get
    set { s with tick := s.tick + 1 }
    return (List.range n).foldl (fun v j => if hit j then putFld v (8 * j) 8 (Config.freeByte s.tick j).toNat else v) v
  else return v

/-- n bytes written by a copy; a plain copy out of a CONF tile needs a page with TEN = 1 (R299). -/
def copyWrite (x : Ctx) (conf : Bool) (runs : List (Nat × Nat)) (va : Word) (n v : Nat) (rewalk : Bool) : X Unit := do
  (cutAt 4096 va.toNat n (n + 1) 0).forM fun p => do
    let a := va + toWord p.1
    let h ← resolveGlobal x a (copyAsk 1 p.2 rewalk) anyFormat
    require (!conf || pteTen h.pte) causeAccess (syndrome 4 h.level 1 (bits a 0 56))
    if pteTb h.pte then
      (List.range p.2).forM fun j => do
        let spot ← tbMap x (bits (a + toWord j) 0 56) 1 1
        spotWrite x spot 1 (allBits 1) (← spoiled runs (h.ga + j) 1 (fld v (8 * (p.1 + j)) 8))
    else (cutAt 256 h.pa p.2 (p.2 + 1) 0).forM fun q => do
      let w ← spoiled runs (h.ga + q.1) q.2 (fld v (8 * (p.1 + q.1)) (8 * q.2))
      spotWrite x (.plain (h.plus q.1)) q.2 (allBits q.2) w

/-- n bytes of a source tile; an uncorrectable error poisons the tile and ends the copy with MEM_UE (R90, R302). -/
def copyTileRead (c : CoreId) (t : BitVec 8) (off n : Nat) : X Nat := do
  let k := (← get).core c
  let a := (k.tile t.toNat).start + off
  if k.scratchBad a n then
    modify fun s => s.modCore c fun k => k.modTile t.toNat fun e => { e with st := .poisoned }
    trap causeMemUE 0
  else return k.scratchRead a n

/-- n bytes of a destination tile. -/
def copyTileWrite (c : CoreId) (t : BitVec 8) (off n v : Nat) : X Unit :=
  modify fun s => s.modCore c fun k => k.scratchWrite ((k.tile t.toNat).start + off) n v

/-! ### The data stream of DECODE and PACK (R298) -/

/-- The data bytes of a unit, and the elements a byte holds. -/
def streamUnit (fmt : Nat) : Nat := if 1 ≤ fmt && fmt ≤ 7 then 3968 else 4096
def streamHalves (fmt : Nat) : Nat := if fmt = 3 then 2 else 1

/-- Address and nibble of element q of a data stream that starts at a byte; s bytes an element. -/
def streamAt (start : Word) (fmt s : Nat) (q : Int) : Word × Nat :=
  let m := streamHalves fmt
  let per : Int := streamUnit fmt * m
  let pos : Int := start.toNat % 4096 * m + q * s
  let within := (pos % per).toNat
  (BitVec.ofInt 64 ((start.toNat / 4096 * 4096 : Nat) + pos / per * 4096) + toWord (within / m), within % m)

/-- A stored element of a scaled page: its page, raw bits, nibble and address. -/
def streamRaw (x : Ctx) (old : List (Nat × Nat)) (start : Word) (fmt : Nat) (q : Int) (rewalk : Bool) : X (Hit × Nat × Nat × Nat) := do
  let s := fmtSize fmt
  let (va, nib) := streamAt start fmt s q
  let h ← resolveGlobal x va (copyAsk 0 s rewalk) fun e pa => pteFmt e == fmt && rawReadOk s e pa
  let raw := patchOld old h.ga s (← spotRead x (.plain h) s 0 (bits va 0 56))
  return (h, if fmt = 3 then fld raw (4 * nib) 4 else raw, nib, bits va 0 56)

/-- The value of source element q: a stored element with its scale; an element of a KC2 page is a weight; an element of
a RAW page has the type t (R74, R75, R280). -/
def streamVal (x : Ctx) (old : List (Nat × Nat)) (start : Word) (fmt : Nat) (t : ET) (q : Int) (rewalk : Bool) : X FVal := do
  if 1 ≤ fmt && fmt ≤ 7 then
    let i := if fmt = 7 then q / 8 else q
    let (h, raw, nib, addr) ← streamRaw x old start fmt i rewalk
    scaledVal x h fmt raw (q % 8).toNat nib 0 addr
  else
    let ty := if fmt = 8 then .bf16 else t
    let n := etBytes ty
    let (va, _) := streamAt start fmt n q
    return elemVal ty (← copyRead x old va n (fun e _ => pteFmt e == fmt) rewalk)

/-- The FMT of a DECODE or PACK copy, judged at the translation of its first source unit: DECODE needs a formatted
page, and the first unit lies in the data area (R298). -/
def copyFormat (x : Ctx) (o : CopyOp) : X CopyOp := do
  if o.mode = 0 || o.fmt.isSome then return o
  else
    let h ← resolveGlobal x o.src (copyAsk 0 1 o.resumed) anyFormat
    let fmt := pteFmt h.pte
    require (fmt ≤ 8 && !(o.mode == 1 && fmt == 0) && !(1 ≤ fmt && fmt ≤ 7 && 0xF80 ≤ o.src.toNat % 4096)) causeAccess
      (syndrome 6 h.level 0 (bits o.src 0 56))
    return { o with fmt := some fmt }

/-- What a PACK copy from its page requires (R298): a type accepted, or the KC2 conditions. -/
def CopyOp.packable (o : CopyOp) : Bool :=
  match o.fmt with
  | some 0 => match ET.ofCode o.etCode with
    | some t => packType t
    | none => false
  | some 7 => !o.byColumns && o.planes == 3 && o.rowLen % 256 == 0 && bits o.src 0 6 == 0 &&
      (o.rows == 1 || o.spitch % 256 == 0)
  | _ => true

/-- The source type of a PACK copy: the native type of its page, or the ET field (R298). -/
def CopyOp.packET (o : CopyOp) : ET :=
  match o.fmt.bind fmtNative, ET.ofCode o.etCode with
  | some t, _ => t
  | none, some t => t
  | none, none => .i8

/-! ### Units (R300) -/

/-- Where destination unit u of BYTES or DECODE lies: its offset from the destination. -/
def CopyOp.dstOff (o : CopyOp) (u : Nat) : Int :=
  let w := if o.mode = 1 then o.rowLen * o.elemBytes else o.rowLen
  (u / w : Nat) * o.dpitch + (u % w : Nat)

/-- Where the source of unit u of BYTES lies. -/
def CopyOp.srcOff (o : CopyOp) (u : Nat) : Int := (u / o.rowLen : Nat) * o.spitch + (u % o.rowLen : Nat)

/-- How many units from u on are moved together: within a row or an element, one segment of the destination and one
page of the source. -/
def CopyOp.chunk (o : CopyOp) (u : Nat) : Nat :=
  let d := (o.dst + BitVec.ofInt 64 (o.dstOff u)).toNat
  let s := (o.src + BitVec.ofInt 64 (o.srcOff u)).toNat
  let row := if o.mode = 1 then o.elemBytes - u % o.elemBytes else o.rowLen - u % o.rowLen
  let n := min row (64 - d % 64)
  if o.mode = 0 && o.srcTile.isNone then min n (4096 - s % 4096) else n

/-- The n bytes that units u on receive. -/
def copyFetch (x : Ctx) (o : CopyOp) (u n : Nat) (rewalk : Bool) : X Nat := do
  if o.mode = 0 then
    match o.srcTile with
    | some t => copyTileRead x.core t ((o.src.toNat : Int) + o.srcOff u).toNat n
    | none => copyRead x o.old (o.src + BitVec.ofInt 64 (o.srcOff u)) n (fun e _ => pteFmt e == 0) rewalk
  else
    let e := u / o.elemBytes
    let q : Int := (e / o.rowLen : Nat) * o.spitch + (e % o.rowLen : Nat)
    match ET.ofCode o.etCode with
    | none => return 0
    | some t =>
      let v ← streamVal x o.old o.src (o.fmt.getD 0) t q rewalk
      match ETfmt t with
      | some F => return fld (F.convert o.rm false v).1 (8 * (u % o.elemBytes)) (8 * n)
      | none => return 0

/-- n bytes stored at units u on. -/
def copyStore (x : Ctx) (o : CopyOp) (runs : List (Nat × Nat)) (u n v : Nat) (rewalk : Bool) : X Unit :=
  match o.dstTile with
  | some t => copyTileWrite x.core t ((o.dst.toNat : Int) + o.dstOff u).toNat n v
  | none => copyWrite x (o.conf && o.kind == 0) runs (o.dst + BitVec.ofInt 64 (o.dstOff u)) n v rewalk

/-- The record that unit u of a PACK copy receives (R280, R289). -/
def copyRecord (x : Ctx) (o : CopyOp) (u : Nat) (rewalk : Bool) : X Nat := do
  let fmt := o.fmt.getD 0
  if fmt = 7 then
    let blocks := cdiv o.rowLen 256
    let q0 : Int := ((u / blocks : Nat) * o.spitch + (256 * (u % blocks) : Nat)) / 8
    let idx ← (List.range 32).mapM fun (j : Nat) => do
      let (h, raw, _, _) ← streamRaw x o.old o.src 7 (q0 + (j : Int)) rewalk
      return (h, raw)
    match idx with
    | [] => return 0
    | (h, _) :: _ =>
      let off := scaleByte 7 (pteBlk h.pte) (h.pa % 4096) 0
      let page := { h with pa := h.pa / 4096 * 4096 + off, ga := h.ga / 4096 * 4096 + off }
      let scale ← spotRead x (.plain page) 1 0 (bits h.va 0 56)
      return ofElems 16 (idx.map (·.2)) + scale * 2 ^ 512
  else
    let g := u % o.packGroups
    let a := u / o.packGroups
    let vs ← (List.range 32).mapM fun j => do
      let i := 32 * g + j
      if i < o.depth then
        let q : Int := if o.byColumns then i * o.spitch + a else a * o.spitch + i
        streamVal x o.old o.src fmt o.packET q rewalk
      else return .num false 0 0
    return groupRecord o.planes (packGroup o.planes (topExponent o.packET) vs)

/-- The units from u on, fuel of them, until one stops: units are moved in chunks, or one by one where a chunk fails. -/
def unitLoop (total : Nat) (body : Bool → Nat → X Nat) : Nat → Nat → State → Nat × Option Stop × State
  | 0, u, s => (u, none, s)
  | fuel + 1, u, s =>
    if total ≤ u then (u, none, s)
    else match body false u s with
      | .ok n t => unitLoop total body fuel (u + max 1 n) t
      | .error _ _ => match body true u s with
        | .ok n t => unitLoop total body fuel (u + max 1 n) t
        | .error e t => (u, some e, t)

/-- n bytes from an address cut at pages. -/
def pagesOf (a : Word) (n : Nat) : List (Word × Nat) := (cutAt 4096 a.toNat n (n + 1) 0).map fun p => (a + toWord p.1, p.2)

/-- Pieces of GLOBAL memory, as far as they translate: (virtual address, address, bytes) of each. -/
def placed (x : Ctx) (kind : Nat) (s : State) (ps : List (Word × Nat)) : List (Word × Nat × Nat) :=
  ps.filterMap fun p => match resolveGlobal x p.1 (copyAsk kind p.2 false) anyFormat s with
    | .ok h _ => some (p.1, h.ga, p.2)
    | .error _ _ => none

/-- The destination bytes of a BYTES or DECODE copy in GLOBAL, as far as they translate. -/
def CopyOp.destRuns (o : CopyOp) (x : Ctx) (s : State) : List (Word × Nat × Nat) :=
  let w := if o.mode = 1 then o.rowLen * o.elemBytes else o.rowLen
  placed x 1 s ((List.range o.rows).flatMap fun (r : Nat) => pagesOf (o.dst + BitVec.ofInt 64 (r * o.dpitch)) w)

/-- The source bytes of a copy between two places in GLOBAL, as far as they translate. -/
def CopyOp.sourceRuns (o : CopyOp) (x : Ctx) (s : State) : List (Word × Nat × Nat) :=
  if o.srcTile.isSome || o.dstTile.isSome then []
  else
    let rowBytes := fun (r : Nat) => pagesOf (o.src + BitVec.ofInt 64 (r * o.spitch)) o.rowLen
    let fmt := o.fmt.getD 0
    let size := if fmt = 8 || fmt = 7 then 2 else 1
    let elems := fun (r : Nat) => (List.range o.rowLen).map fun (i : Nat) =>
      let q : Int := r * o.spitch + (i : Int)
      ((streamAt o.src fmt size (if fmt = 7 then q / 8 else q)).1, size)
    let spots := (List.range o.rows).flatMap fun r => if o.mode = 0 then rowBytes r else elems r
    placed x 0 s spots

/-- The copy with the bytes that its source and destination share, as it finds them (R299): those that it found before stay. -/
def CopyOp.keepOld (o : CopyOp) (x : Ctx) (s : State) : CopyOp :=
  let ds := o.destRuns x s
  let shared := (o.sourceRuns x s).flatMap fun p => (List.range p.2.2).filterMap fun j =>
    if ds.any (fun d => d.2.1 ≤ p.2.1 + j && p.2.1 + j < d.2.1 + d.2.2) && !(o.old.any (·.1 == p.2.1 + j)) then
      match copyRead x [] (p.1 + toWord j) 1 anyFormat false s with
      | .ok v _ => some (p.2.1 + j, v)
      | .error _ _ => none
    else none
  { o with old := o.old ++ shared }

/-! ### Confidential copies (R304, R305) -/

/-- The security engine's answer to a copy's request: the key and IV, with the counter consumed, or a refusal. -/
def State.sealClaim (s : State) (f : Nat) (slot : BitVec 6) (ctr : Word) :
    Except (BitVec 4) ((BitVec 256 × BitVec 96) × State) :=
  match s.inRun f, (s.keySlot f slot).bind fun (e : KeySlot) => (s.keyOf f e.handle).map fun (k : Key) => (e, k) with
  | true, some (e, k) =>
      match k.next with
      | none => .error stREPLAY
      | some (n : Word) =>
        if ctr.toNat < n.toNat then .error stREPLAY
        else
          let k' := { k with next := if ctr = BitVec.allOnes 64 then none else some (ctr + 1) }
          .ok ((k.key, copyIv e.salt ctr), { s with sec := { s.sec with
            keys := s.sec.keys.map fun q => if q.func == f && q.handle == e.handle then k' else q } })
  | _, _ => .error stTDILOST

/-! ### A copy performed -/

/-- How far a copy comes: it ends, a translation fault suspends it, or an access waits. -/
inductive CopyEnd where
  | done (status : BitVec 4) (detail : Nat)
  | fault (status : BitVec 4) (syn : Word)
  | waits (w : Wait)
  deriving DecidableEq, Repr

/-- What a stop at unit u means to a copy (R301, R302): a node that is gone or does not answer ends it (R411). -/
def copyStop (u : Nat) : Stop → CopyEnd
  | .wait (.remote _ true) => .done stACCESS u
  | .trap 5 v => .fault stPAGE v
  | .trap 6 v => .fault stACCESS v
  | .trap 0x0B _ => .done stMEMUE u
  | .wait w => .waits w
  | .trap _ v => .fault stACCESS v
  | .goto _ | .halt => .done stABORTED u

/-- The result of a unit loop as the end of the copy. -/
def CopyOp.ended (o : CopyOp) (r : Nat × Option Stop × State) : CopyEnd × CopyOp × State :=
  match r with
  | (u, none, s) => (.done stOK u, { o with u := u }, s)
  | (u, some e, s) => (copyStop u e, { o with u := u }, s)

/-- The units of BYTES and DECODE. -/
def copyUnits (x : Ctx) (o : CopyOp) (s : State) : CopyEnd × CopyOp × State :=
  let o := o.keepOld x s
  let runs := (o.sourceRuns x s).map (·.2)
  o.ended (unitLoop o.total (fun fine u => do
    let n := if fine then 1 else o.chunk u
    let re := o.resumed && u == o.u
    copyStore x o runs u n (← copyFetch x o u n re) re
    return n) o.total o.u s)

/-- The units of PACK: the tile takes the type of the page (R298). -/
def copyPack (x : Ctx) (o : CopyOp) (s : State) : CopyEnd × CopyOp × State :=
  match o.dstTile with
  | none => (.done stABORTED 0, o, s)
  | some t =>
    let b := o.packBytes
    let s := s.modCore x.core fun k => k.modTile t.toNat fun e => { e with et := BitVec.ofNat 5 o.packET.code }
    o.ended (unitLoop o.total (fun _ u => do
      copyTileWrite x.core t ((o.dst.toNat + u) * b) b (← copyRecord x o u (o.resumed && u == o.u))
      return 1) o.total o.u s)

/-- The ciphertext and tag of a COPY.DEC read from where buf ends, fuel pieces at most. -/
def cipherLoop (x : Ctx) (o : CopyOp) : Nat → List Nat → State → List Nat × Option Stop × State
  | 0, buf, s => (buf, none, s)
  | fuel + 1, buf, s =>
    let left := o.rowLen + 16 - buf.length
    if left = 0 then (buf, none, s)
    else
      let a := o.src + toWord buf.length
      let get : Nat → X Nat := fun n =>
        copyRead x [] a n (fun e _ => pteFmt e == 0) (o.resumed && (buf.length == o.u || o.rowLen == o.u))
      let n := min left (64 - a.toNat % 64)
      match get n s with
      | .ok v t => cipherLoop x o fuel (buf ++ elemsOf 8 v n) t
      | .error _ _ => match get 1 s with
        | .ok v t => cipherLoop x o fuel (buf ++ [v]) t
        | .error e t => (buf, some e, t)

/-- COPY.DEC once its counter is granted (R304): the ciphertext and the tag, then the plaintext or zeros. What has been
decrypted before a suspension stands in the tile, whose FILLING keeps it invisible (R91); with the key and the IV it gives the
hash state back. -/
def copyDecrypt (x : Ctx) (o : CopyOp) (key iv : Nat) (s : State) : CopyEnd × CopyOp × State :=
  match o.dstTile with
  | none => (.done stABORTED 0, o, s)
  | some tile =>
    let l := o.rowLen
    let a := ((s.core x.core).tile tile.toNat).start + o.dst.toNat
    let put := fun (bs : List Nat) (t : State) => t.modCore x.core fun k => k.scratchWrite a bs.length (ofElems 8 bs)
    let known := (gcmEncrypt key iv (elemsOf 8 ((s.core x.core).scratchRead a o.u) o.u)).take o.u
    match cipherLoop x o (l + 16) known s with
    | (buf, some e, t) =>
      let c := buf.take l
      match copyStop c.length e with
      | .fault st v => (.fault st v, { o with u := c.length }, put (gcmStream (roundKeys key) iv c) t)
      | stop => (stop, { o with u := c.length }, t)
    | (buf, none, t) => match gcmDecrypt key iv (buf.take l) (buf.drop l) with
      | some p => (.done stOK l, { o with u := l }, put p t)
      | none => (.done stTAGFAIL l, { o with u := l }, put (List.replicate l 0) t)

/-- COPY.ENC once its counter is granted (R305): the ciphertext, then the tag; a source byte with an uncorrectable error ends it
there, the units below it written (R300, R302). -/
def copyEncrypt (x : Ctx) (o : CopyOp) (key iv : Nat) (s : State) : CopyEnd × CopyOp × State :=
  let l := o.rowLen
  match o.srcTile with
  | none => (.done stABORTED 0, o, s)
  | some t =>
    let k := s.core x.core
    let a := (k.tile t.toNat).start + o.src.toNat
    let out := ofElems 8 (gcmEncrypt key iv (elemsOf 8 (k.scratchRead a l) l))
    let bad := (List.range l).find? fun j => k.scratchBad (a + j) 1
    let stop := bad.getD (l + 16)
    let r := o.ended (unitLoop stop (fun fine u => do
      let d := o.dst + toWord u
      let n := if fine then 1 else min (stop - u) (64 - d.toNat % 64)
      copyWrite x false [] d n (fld out (8 * u) (8 * n)) (o.resumed && u == o.u)
      return n) stop o.u s)
    match bad, r with
    | some j, (.done 0 _, o, s) =>
      (.done stMEMUE j, o, s.modCore x.core fun k => k.modTile t.toNat fun e => { e with st := .poisoned })
    | _, r => r

/-- A confidential copy: the counter is checked before any byte is read (R304). -/
def copyCrypt (x : Ctx) (o : CopyOp) (s : State) : CopyEnd × CopyOp × State :=
  let go := fun (o : CopyOp) (a : BitVec 256 × BitVec 96) (s : State) =>
    if o.kind = 1 then copyDecrypt x o a.1.toNat a.2.toNat s else copyEncrypt x o a.1.toNat a.2.toNat s
  match o.auth with
  | some a => go o a s
  | none => match s.sealClaim (x.tenant.toNat + 1) o.slot o.ctr with
    | .error st => (.done st 0, o, s)
    | .ok (a, t) => go { o with auth := some a } a t

/-- A copy performed from its checkpoint: the reply's translation, the format with what it decides, the units (R298, R300 to
R304). -/
def copyRun (x : Ctx) (o : CopyOp) (s : State) : CopyEnd × CopyOp × State :=
  match copyPin o x s with
  | .error e t => (copyStop o.u e, o, t)
  | .ok o t =>
    match o.refused with
    | some r => (.done r o.u, o, t)
    | none =>
      if o.kind != 0 then copyCrypt x o t
      else match copyFormat x o t with
        | .error e t => (copyStop o.u e, o, t)
        | .ok o t =>
          if o.mode = 2 then
            if !o.packable || 2 ^ 32 ≤ o.total then (.done stSHAPE 0, o, t)
            else if o.noRoom (t.core x.core) then (.done stTILE 0, o, t)
            else copyPack x o t
          else copyUnits x o t

/-- The running copy of a handle. -/
def Core.runningCopy (k : Core) (h : BitVec 8) : Option CopyOp := k.eng.copies.find? fun o => o.h == h && o.phase == .running

/-- COPY_COMPLETE (R302, R303): a copy that ends with a final status. -/
def execCopyComplete (c : CoreId) (h : BitVec 8) (s : State) : Out := eventOn c (do
  let k ← self
  match k.runningCopy h with
  | none => notNow
  | some o =>
    match copyRun (o.ctx k.tk.tenant c) o (← get) with
    | (.done st d, o, t) =>
      set t
      finishCopy c o st d true
    | (.waits w, _, t) =>
      set t
      throw (.wait w)
    | (.fault _ _, _, _) => notNow) s

/-- The tile sides of a suspended copy (R90, R301). -/
def Core.suspendSides (k : Core) (o : CopyOp) : Core :=
  let mark := fun (t : Option (BitVec 8)) (k : Core) => match t with
    | some t => k.modTile t.toNat fun e => { e with susp := true }
    | none => k
  mark o.dstTile (if o.keep then k else mark o.srcTile k)

/-- COPY_SUSPEND (R301): a translation fault at unit u. -/
def execCopySuspend (c : CoreId) (h : BitVec 8) (s : State) : Out := eventOn c (do
  let k ← self
  match k.runningCopy h with
  | none => notNow
  | some o =>
    match copyRun (o.ctx k.tk.tenant c) o (← get) with
    | (.fault st syn, o, t) =>
      set t
      let o := { o with phase := .suspended, resumed := false }
      modSelf fun k =>
        let k := k.suspendSides o
        let k := { k with eng := { k.eng with copies := k.eng.copies.map fun (p : CopyOp) => if p.h == h then o else p } }
        (k.setHandle h { (k.handle h) with status := st, detail := BitVec.ofNat 32 o.u }).postEngine h st 0 syn
    | (.waits w, _, t) =>
      set t
      throw (.wait w)
    | (.done _ _, _, _) => notNow) s

/-! ### CWAIT and CSTAT (R296, R301) -/

/-- A suspended copy ended with its recorded status; its tile sides stay suspended (R301). -/
def endCopy (h : BitVec 8) : X Unit := do
  let s ← get
  match s.self.eng.copies.find? fun o => o.h == h && o.phase == .suspended with
  | some o => finishCopy s.cur o (s.self.handle h).status o.u false
  | none => return

/-- CWAIT and CWAIT.END (R296). -/
def execCwait (f : EN) (s : State) : Out := finish 8 (do
  let x ← readX f.xa
  reserveReply [f.xd]
  if f.flags.getLsbD 0 && x.toNat < 256 then endCopy (BitVec.ofNat 8 x.toNat)
  waitHandle f.xd f.xa 0) s

/-- CSTAT (R296). -/
def execCstat (f : EN) (s : State) : Out := finish 8 (statusOf f.xd f.xa 0) s

end Sys2Proof.Machine
end

