-- ==== Sys2Proof/Machine/AcnInstr.lean ====
section
/-! DEFINITION. The instructions and events of the accumulate network (R161, R328 to R347). -/

namespace Sys2Proof.Machine

/-! ### POT.OPEN, POT.WAIT, POT.CLOSE (R331, R337) -/

/-- The element type that a pot's tile records. -/
def potET (rule : BitVec 2) : ET := match rule with
  | 1 => .wac
  | 2 => .i32
  | _ => .f32

/-- The POTSLOTS that binds a core's task: the least of those in effect along the path it was dealt under (R171, R172). -/
def State.potSlots (s : State) (k : Core) : Nat :=
  match k.tk.task.bind s.task with
  | none => 64
  | some t => (leastEff (s.pathOf t) 4 Node.potslots).getD 64

/-- Elements that a contribution may hold (R342). -/
def Core.maxElems (k : Core) : Nat := k.capBits / 32

/-- The contents of a tile at POT.OPEN (R329, R330): initial values, an empty log, an empty grant list. -/
def Core.potInit (k : Core) (p : Pot) : Core :=
  let a := (k.tile p.tile.toNat).start
  let k := k.scratchWrite a (potBytes p.rule p.log p.e) 0
  let w := p.fillBytes
  if p.rule = 3 then k.scratchWrite a (w * p.e) (ofElems (8 * w) (List.replicate p.e (potInitial p.rule))) else k

/-- POT.OPEN (R337). -/
def execPotOpen (f : EN) (s : State) : Out := finish 8 (do
  let expect ← readX f.xa
  let e ← readX f.xb
  reserveReply [f.xd]
  let rule : BitVec 2 := f.flags.extractLsb' 0 2
  let log := f.flags.getLsbD 3
  require (1 ≤ expect.toNat && expect.toNat ≤ 256) causeShape expect
  require (1 ≤ e.toNat && e.toNat ≤ (← self).maxElems) causeShape e
  let t := f.opA.toNat
  let tile ← namedTile t
  fillAccepts t tile
  let need := potBytes rule log e.toNat
  require (need ≤ tile.bytes) causeShape (toWord need)
  let s ← get
  if min 64 (s.potSlots s.self) ≤ s.self.acn.pots.length then reply [(f.xd, 1)]
  else
    fillStart t fun x => { x with pk := false, p := 0, et := BitVec.ofNat 5 (potET rule).code, conf := false, pot := true }
    modSelf fun k =>
      let p : Pot := { tile := f.opA, rule := rule, fmt := f.flags.getLsbD 2, log := log, e := e.toNat
                       expect := expect.toNat, granted := 0, arrived := 0, forf := 0, fbcnt := 0, fl := 0
                       forfany := false, wace := k.wace, spilled := false, joiners := [], serial := k.acn.opened + 1 }
      ({ k with acn := { k.acn with pots := k.acn.pots ++ [p], opened := k.acn.opened + 1 } }).potInit p
    modify fun s => s.answerPending s.cur f.opA
    reply [(f.xd, 0)]) s

/-- The flags that a pot recorded, in FFLAGS order (R334). -/
def Pot.flags (p : Pot) : Flags :=
  flagIf (p.fl.getLsbD 3) flagNV ||| flagIf (p.fl.getLsbD 2) flagOF ||| flagIf (p.fl.getLsbD 1) flagUF |||
    flagIf (p.fl.getLsbD 0) flagNX

/-- A result element of a completed pot (R331): the accumulator's value, the flags, and whether it saturated. -/
def Pot.result (p : Pot) (acc : Nat) : Nat × Flags :=
  if p.rule = 1 then
    let q := signed 128 acc
    if p.fmt then fromWac (wacExp p.wace) fp32 q
    else let r := wacSat q; (wrap 96 r.1, r.2)
  else (acc, 0)

/-- A completed pot converted (R329, R331): the data rewritten, zeros after them and in the grant list, the tile READY,
the pot gone; the flags and whether OVF is set. -/
def Core.potFinish (k : Core) (p : Pot) : Core × Bool :=
  let t := p.tile.toNat
  let a := (k.tile t).start
  let fill := p.e * p.fillBytes
  let rs := (elemsOf (8 * p.fillBytes) (k.scratchRead a fill) p.e).map p.result
  let fl := rs.foldl (fun f r => f ||| r.2) 0
  let k := k.scratchWrite a fill (ofElems (8 * p.outBytes) (rs.map (·.1)))
  let k := k.scratchWrite (a + fill + (if p.log then 1024 else 0)) 2048 0
  let k := (k.modTile t fun e => { e with st := .ready, pot := false }).dropPot p.tile
  (k.orFlags (p.flags ||| fl), fl.getLsbD 6)

/-- The scope of POT.WAIT's acquire: the gang scope, widened to the joiners (R161). -/
def State.potScope (s : State) (p : Pot) : Nat :=
  let gang := match s.self.tk.task.bind s.task with
    | some t => t.gangScope
    | none => 0
  p.joiners.foldl (fun w x => max w (if s.isLocal x.node then narrowest s.cur x.core else 5)) gang

/-- POT.WAIT (R337). -/
def execPotWait (f : EN) (s : State) : Out := finish 8 (do
  reserveReply [f.xd]
  let t := f.opA.toNat
  let e ← namedTile t
  let s ← get
  match e.st == .filling && e.pot, s.self.pot f.opA with
  | true, some p =>
    awaiting p.complete
    let (k, ovf) := s.self.potFinish p
    modSelf fun _ => k
    let scope := s.potScope p
    modify fun s => s.orderAfter 1 scope
    reply [(f.xd, p.word ovf)]
  | _, _ => tileTrap t e) s

/-- POT.CLOSE (R337). -/
def execPotClose (f : EN) (s : State) : Out := finish 8 (do
  let t := f.opA.toNat
  let e ← namedTile t
  if e.st == .filling && e.pot then
    modify fun s => match s.self.tk.task with
      | some id => s.closePot id s.cur f.opA
      | none => s
  else tileTrap t e) s

/-! ### POT.JOIN, POT.SEND (R338, R339) -/

/-- A node that a join of tenant t can reach: this device, or one that a window holding some address names and a route reaches
(R23, R338). -/
def State.joinable (s : State) (t : BitVec 6) (node : BitVec 10) : Bool :=
  s.isLocal node ||
    ((List.range 16).any (fun w =>
      let e := s.twin t.toNat w
      e.getLsbD 63 && bits e 58 2 == 2 && bits e 48 10 == node.toNat && bits e 0 24 ≤ bits e 24 24 && bits e 0 24 < 2 ^ 21) && s.reachable node.toNat)

/-- The lowest FREE join entry. -/
def Core.freeJoin (k : Core) : Option (BitVec 6) :=
  ((List.range 64).map (BitVec.ofNat 6)).find? fun j => (k.join j).st == .free

/-- POT.JOIN (R338). -/
def execPotJoin (f : EN) (s : State) : Out := finish 8 (do
  let a ← readX f.xa
  let n ← readX f.xb
  let fb ← readX f.xc
  reserveReply [f.xd]
  require (1 ≤ n.toNat && n.toNat ≤ 256) causeShape n
  require (bits fb 0 4 == 0) causeMisalign fb
  let s ← get
  let k := s.self
  match k.freeJoin with
  | none => reply [(f.xd, BitVec.allOnes 64)]
  | some j =>
    let node : BitVec 10 := a.extractLsb' 8 10
    let ok := a.toNat < 2 ^ 18 && s.joinable k.tk.tenant node
    let e : Join := { st := if ok then .pending else .denied, fb := fb, rule := 0, fmt := false, n := n.toNat, left := 0
                      node := node, core := a.setWidth 8, tile := f.opA, e := 0, wace := 0, retry := false, serial := 0 }
    modSelf fun k => k.setJoin j e
    if ok then modify fun s => s.send (e.packet 0 s.cur j (k.tk.task.getD 0) (.join k.tk.tenant n.toNat))
    reply [(f.xd, j.setWidth 64)]) s

/-- The TVAL of ACN_TARGET (R339). -/
def acnValue (e : Join) (j : BitVec 6) (spilled : Bool) : Word :=
  toWord (e.core.toNat + e.tile.toNat * 2 ^ 8 + e.node.toNat * 2 ^ 16 + j.toNat * 2 ^ 32 + (if spilled then 2 ^ 40 else 0))

/-- The registers of a contribution by a rule (R330). -/
def sendRegs (rule : BitVec 2) (r : Nat) : List Nat := if rule = 1 then [r, r + 1, r + 2] else [r]

/-- The elements of a contribution (R330): 32-bit elements, or the q values of a group. -/
def Core.sendElems (k : Core) (rule : BitVec 2) (r n : Nat) : List Nat :=
  (List.range n).map fun i =>
    (sendRegs rule r).foldr (fun c acc => fld (k.vec.bitsOf c) (32 * i) 32 + 2 ^ 32 * acc) 0

/-- The source of POT.SEND is FULL or LENT, and holds no poisoned word among its elements (R339, R95). -/
def sendSource (rule : BitVec 2) (r n : Nat) : X Unit := do
  let k ← self
  let regs := sendRegs rule r
  awaiting (regs.all fun c => k.vec.state c != .empty)
  if k.vec.poison.isEmpty then return
  match (List.range n).find? fun i => regs.any fun c => k.badElem c 32 i with
  | some i => trap causeMemUE (regUE r i)
  | none => return

/-- One fallback addition (R339): an MSU operation on the location of element i. -/
def fallbackAdd (x : Ctx) (e : Join) (elems : List Nat) (i : Nat) : X Unit := do
  let n := if e.rule = 1 then 16 else 4
  let pinned := ((← self).repin i).isSome
  let h ← resolveGlobal x (e.fb + toWord (n * i)) { kind := 3, n := n, msu := true, rewalk := pinned } anyFormat
  let _ ← msuOp x h n fun old => some (potAdd e.rule old ((elems[i]?).getD 0)).1
  return

/-- The fallback of POT.SEND from VSTART (R339): a stop at element i leaves VSTART := i, its page recorded (R36). -/
def fallback (e : Join) (elems : List Nat) : X Unit := fun s =>
  let k := s.self
  let x := s.ctxOf s.cur
  let n := if e.rule = 1 then 16 else 4
  let unpin := fun (k : Core) (pin : Option Pin) => { k with cache := { k.cache with pin := pin } }
  match frameLoop (fallbackAdd x e elems) (e.e - k.vstart) k.vstart s with
  | (none, t) => .ok () (t.modSelf fun k => unpin (k.setCsr 0x003 0) none)
  | (some (i, stop), t) =>
    .error stop (t.modSelf fun k => unpin (k.setCsr 0x003 (toWord i))
      ((stop.page fun _ => some (bits (e.fb + toWord (n * i)) 12 44)).map fun p => ⟨k.pc, p⟩))

/-- A packet of the member on the core that moves, to its pot. -/
def State.sendFrom (s : State) (e : Join) (j : BitVec 6) (ch : BitVec 2) (load : Payload) (lent : List (BitVec 5)) : State :=
  s.send { e.packet ch s.cur j (s.self.tk.task.getD 0) load with lent := lent }

/-- One ante of a join spent. -/
def Core.spend (k : Core) (j : BitVec 6) : Core :=
  let e := k.join j
  k.setJoin j { e with left := e.left - 1 }

/-- The GANGRANK of a core (R176). -/
def Core.rank (k : Core) : BitVec 8 := (k.csrAt 0x060).extractLsb' 0 8

/-- The fallback path of POT.SEND, from its start or resumed (R339, R346). -/
def sendFallback (f : EN) (j : BitVec 6) (e : Join) : X Unit := do
  let k ← self
  fallback e (k.sendElems e.rule f.opA.toNat e.e)
  modify fun s => (s.sendFrom e j 1 (.fbcount k.rank) []).modSelf fun k => k.spend j
  reply [(f.xd, 2)]

/-- POT.SEND (R339). -/
def execPotSend (f : EN) (s : State) : Out := finish 8 (do
  let a ← readX f.xa
  reserveReply [f.xd]
  let j : BitVec 6 := a.setWidth 6
  let k ← self
  let e := k.join j
  let r := f.opA.toNat
  if 64 ≤ a.toNat then reply [(f.xd, 4)]
  else if k.vstart != 0 then
    sendSource e.rule r e.e
    sendFallback f j e
  else match e.st with
    | .free | .over | .denied => reply [(f.xd, 4)]
    | .pending => reply [(f.xd, 1)]
    | .closed => trap causeAcnTarget (acnValue e j false)
    | .granted | .spilled =>
      if e.left = 0 then reply [(f.xd, 3)]
      else
        require (!(e.rule == 1 && 29 < r) && e.e ≤ k.maxElems && !(e.rule == 1 && k.wace != e.wace)) causeShape
          (toWord (0x2000_0000_0000_0000 + j.toNat))
        sendSource e.rule r e.e
        waitSends
        modify State.release
        if e.st == .granted then
          let lent := if (← get).isLocal e.node then (sendRegs e.rule r).map (BitVec.ofNat 5) else []
          modify fun s => (s.sendFrom e j 2 (.data k.rank (k.sendElems e.rule r e.e)) lent).modSelf fun k =>
            { k.spend j with vec := { k.vec with
              st := lent.foldl (fun v r => v.setIfInBounds r.toNat .lent) k.vec.st } }
          reply [(f.xd, 0)]
        else
          require (e.fb != 0) causeAcnTarget (acnValue e j true)
          sendFallback f j e) s

/-- POT.CLOSE.J (R340). -/
def execPotCloseJ (f : EN) (s : State) : Out := finish 8 (do
  let a ← readX f.xa
  if 64 ≤ a.toNat then return
  modify fun s => match s.self.tk.task with
    | some id => s.closeJoin id s.cur (a.setWidth 6)
    | none => s.modSelf fun k => k.setJoin (a.setWidth 6) Join.free) s

/-- POT.STAT (R340). -/
def execPotStat (f : EN) (s : State) : Out := finish 8 (do
  reserveReply [f.xd]
  match (← self).pot f.opA with
  | some p => reply [(f.xd, p.word false)]
  | none => reply [(f.xd, 0)]) s

/-- POT.STAT.J (R340): for an index above 63 no result is stated; a free value (log 4). -/
def execPotStatJ (f : EN) (s : State) : Out := finish 8 (do
  let a ← readX f.xa
  reserveReply [f.xd]
  if 64 ≤ a.toNat then reply [(f.xd, ← drawWord)]
  else reply [(f.xd, ((← self).join (a.setWidth 6)).word)]) s

/-! ### Packets (R328, R330, R333, R337, R345) -/

/-- The packet at an index, taken off the network when it is due and its payload is one that the event handles. -/
def takeDue (k : Nat) (handles : Payload → Bool) : X Packet := do
  let s ← get
  match s.dueOn k with
  | none => notNow
  | some p =>
    whenever (handles p.load && s.isLocal p.dstNode)
    set (s.takePacket k)
    return p

/-- The join entry that a notice is about: of the member it names, and still for that pot; the pot's own opening once granted. -/
def State.noticeJoin (s : State) (p : Packet) : Option Join :=
  match s.member p.task p.dstCore with
  | none => none
  | some k =>
    let e := k.join p.j
    let same := e.core == p.srcCore && e.tile == p.tile && s.sameNode e.node p.srcNode &&
      (e.st == .pending || e.serial == p.serial)
    if same && e.st != .free then some e else none

/-- The join entry of a notice replaced. -/
def State.putJoin (s : State) (p : Packet) (e : Join) : State := s.modMember p.task p.dstCore fun k => k.setJoin p.j e

/-- JOIN_REQUEST_ARRIVAL (R328, R337, R338): answered by an open pot, else held, as it is for a spilled pot; beyond 256 pending,
RETRY. -/
def execJoinRequestArrival (k : Nat) (s : State) : Out := event (do
  let p ← takeDue k fun l => match l with
    | .join .. => true
    | _ => false
  match p.load with
  | .join tenant n =>
    let s ← get
    let x : PendJoin := { node := p.srcNode, core := p.srcCore, j := p.j, task := p.task, tenant := tenant, tile := p.tile, n := n }
    let c := s.core p.dstCore
    match (c.pot p.tile).filter fun q => !q.spilled with
    | some pot => set (s.answerJoin p.dstCore pot x)
    | none =>
      if c.acn.pend.length < 256 then
        set (s.modCore p.dstCore fun k => { k with acn := { k.acn with pend := k.acn.pend ++ [x] } })
      else if s.isLocal p.srcNode then
        set (s.modMember p.task p.srcCore fun k =>
          let e := k.join p.j
          if e.st == .pending then k.setJoin p.j { e with retry := true } else k)
      else return
  | _ => notNow) s

/-- A join told to retry. -/
def Core.retrying (k : Core) (j : BitVec 6) : Bool := (k.join j).st == .pending && (k.join j).retry

/-- The member whose join j at a core's interface was told to retry: of the core's task, else of a context saved from the core,
with its record. -/
def State.retryOf (s : State) (c : CoreId) (j : BitVec 6) : Option (Nat × Core) :=
  match (s.core c).tk.task with
  | some t => if (s.core c).retrying j then some (t, s.core c) else savedOne
  | none => savedOne
where
  savedOne : Option (Nat × Core) :=
    (s.dealer.saved.find? fun x => x.core == c && x.body.retrying j).map fun x => (x.task, x.body)

/-- JOIN_RETRY_REISSUE (R328): 1,024 cycles after RETRY the request goes out again, also for a saved context. -/
def execJoinRetryReissue (c : CoreId) (j : BitVec 6) (s : State) : Out := event (do
  match (← get).retryOf c j with
  | none => notNow
  | some (t, k) =>
    let e := k.join j
    modify fun s => s.modMember t c fun k => k.setJoin j { e with retry := false }
    modify fun s => s.send (e.packet 0 c j t (.join k.tk.tenant e.n))) s

/-- GRANT (R333): an entry no longer PENDING answers with FORFEIT. -/
def execGrant (k : Nat) (s : State) : Out := event (do
  let p ← takeDue k fun l => match l with
    | .grant .. => true
    | _ => false
  match p.load with
  | .grant n rule fmt e wace =>
    let back : Packet := { ch := 1, srcNode := 0, srcCore := p.dstCore, j := p.j, task := p.task, dstNode := p.srcNode
                           dstCore := p.srcCore, tile := p.tile, serial := p.serial, load := .forfeit n
                           lent := [] }
    modify fun s => match s.noticeJoin p with
      | some x =>
        if x.st == .pending && x.n == n then
          s.putJoin p { x with st := .granted, left := n, rule := rule, fmt := fmt, e := e, wace := wace, retry := false,
                                serial := p.serial }
        else s.send back
      | none => s.send back
  | _ => notNow) s

/-- A join that CLOSED or the loss of its node ends (R333). -/
def JoinState.live : JoinState → Bool
  | .pending | .granted | .spilled => true
  | _ => false

/-- A notice that moves a join entry: from the states it applies to, to the next. -/
def joinNotice (k : Nat) (handles : Payload → Bool) (applies : JoinState → Bool) (next : JoinState) : X Unit := do
  let p ← takeDue k handles
  modify fun s => match s.noticeJoin p with
    | some e => if applies e.st then s.putJoin p { e with st := next } else s
    | none => s

/-- OVER (R333). -/
def execOver (k : Nat) (s : State) : Out := event (joinNotice k (· == .over) (· == .pending) .over) s
/-- DENIED (R333). -/
def execDenied (k : Nat) (s : State) : Out := event (joinNotice k (· == .denied) (· == .pending) .denied) s
/-- SPILLED (R333). -/
def execSpilled (k : Nat) (s : State) : Out := event (joinNotice k (· == .spilled) (· == .granted) .spilled) s
/-- RESUMED (R333). -/
def execResumed (k : Nat) (s : State) : Out := event (joinNotice k (· == .resumed) (· == .spilled) .granted) s
/-- CLOSED (R333). -/
def execClosed (k : Nat) (s : State) : Out := event (joinNotice k (· == .closed) JoinState.live .closed) s

/-- FORFEIT (R333). -/
def execForfeit (k : Nat) (s : State) : Out := event (do
  let p ← takeDue k fun l => match l with
    | .forfeit _ => true
    | _ => false
  match p.load with
  | .forfeit n => modify fun s => match s.potOf p with
      | some (h, pot, x) => s.modPotHolder p h fun k => k.forfeit pot x n
      | none => s
  | _ => notNow) s

/-- FBCOUNT (R345, R346): an arrival that took the fallback path. -/
def execFbcount (k : Nat) (s : State) : Out := event (do
  let p ← takeDue k fun l => match l with
    | .fbcount _ => true
    | _ => false
  match p.load with
  | .fbcount rank => modify fun s => match s.potOf p with
      | some (h, pot, x) => s.modPotHolder p h fun k => k.logArrival pot x rank true false
      | none => s
  | _ => notNow) s

/-- JOIN_WITHDRAWAL (R333): a request still held is dropped. -/
def execJoinWithdrawal (k : Nat) (s : State) : Out := event (do
  let p ← takeDue k (· == .withdraw)
  modify fun s => s.modCore p.dstCore fun k => { k with acn := { k.acn with
    pend := k.acn.pend.filter fun x => !(x.node == p.srcNode && x.core == p.srcCore && x.j == p.j && x.task == p.task) } }) s

/-- CONTRIBUTION_ARRIVAL (R330, R345): added by the pot's rule, on the core or in the spilled image; discarded where no
pot takes it. -/
def execContributionArrival (k : Nat) (s : State) : Out := event (do
  let p ← takeDue k fun l => match l with
    | .data .. => true
    | _ => false
  modify fun s => s.returnLent p
  match p.load with
  | .data rank elems => modify fun s => match s.potOf p with
      | some (h, pot, x) => s.modPotHolder p h fun k => k.contribute pot x rank elems
      | none => s
  | _ => notNow) s

/-- Antes of a joiner that packets on their way spend or return. -/
def Joiner.inFlight (x : Joiner) (c : CoreId) (p : Pot) (net : List Packet) : Nat :=
  (net.filter fun q => q.dstCore == c && q.tile == p.tile && q.serial == p.serial && x.sentBy q).foldl (fun n q =>
    match q.load with
    | .data .. => n + 1
    | .fbcount _ => n + 1
    | .forfeit m => n + m
    | _ => n) 0

/-- A core's joins and pots after the loss of a node (R343): what of its joiners has not been spent is forfeited. -/
def Core.loseNode (k : Core) (c : CoreId) (net : List Packet) (node : BitVec 10) : Core :=
  let k := { k with acn := { k.acn with joins := k.acn.joins.map fun (e : Join) =>
    if e.node == node && e.st.live then { e with st := .closed } else e } }
  k.acn.pots.foldl (fun (k : Core) (p : Pot) =>
    (p.joiners.filter fun (x : Joiner) => x.node == node).foldl (fun k x => match k.pot p.tile with
      | some q => k.forfeit q x (x.left - x.inFlight c p net)
      | none => k) k) k

/-- NODE_LINK_LOSS (R343): for the joins and pots of every core and every saved context. -/
def execNodeLinkLoss (node : BitVec 10) (s : State) : Out := event (do
  whenever (!(← get).isLocal node)
  modify fun s =>
    let net := s.net
    let s := allCores.foldl (fun (s : State) c =>
      if (s.core c).acn.pots.isEmpty && !((s.core c).acn.joins.toList.any fun e => e.node == node && e.st.live) then s
      else s.modCore c fun k => k.loseNode c net node) s
    { s with dealer := { s.dealer with saved := s.dealer.saved.map fun x =>
        { x with body := x.body.loseNode x.core net node } } }) s

end Sys2Proof.Machine
end

