-- ==== Sys2Proof/Machine/Control.lean ====
section
/-! DEFINITION. Branches, jumps and hardware loops (R222 to R226), and the configuration of the vector unit and of
the matrix engine (R227 to R229, R282). -/

namespace Sys2Proof.Machine

/-! ### Branches -/

/-- The target of a branch: the address of the branch plus 8 × off40 (R222). -/
def branchTarget (pc : Word) (off : BitVec 40) : Word := pc + (off.signExtend 64 <<< 3)

/-- BR.cc (R222). -/
def execBrCc (cc : CC) (f : SB) (s : State) : Out := finish 8 (do
  let a ← readX f.xa
  let b ← readX f.xb
  if ccHolds cc a b then throw (.goto (branchTarget (← self).pc f.off)) else pure ()) s

/-- JMP (R222). -/
def execJmp (f : SB) (s : State) : Out := finish 8 (do
  throw (.goto (branchTarget (← self).pc f.off))) s

/-- JAL (R222): x1 := PC + 8. -/
def execJal (f : SB) (s : State) : Out := finish 8 (do
  let pc := (← self).pc
  writeX 1 (pc + 8)
  throw (.goto (branchTarget pc f.off))) s

/-- JR (R222). -/
def execJr (f : SB) (s : State) : Out := finish 8 (do
  let t := branchTarget (← readX f.xa) f.off
  require (bits t 0 3 == 0) causeMisalign t
  throw (.goto t)) s

/-! ### Hardware loops -/

/-- Loop k entered with count n (R224): LSk, LEk and LCk. -/
def Core.enterLoop (k : Core) (l : BitVec 1) (n ls le : Word) : Core :=
  let b := 0x030 + 3 * l.toNat
  ((k.setCsr b n).setCsr (b + 1) (addrField ls)).setCsr (b + 2) (addrField le)

/-- The word at an address names a prefix, as the control core finds it and without a change of the machine; an address that
faults, and a poisoned word, hold none (DESIGN CHOICE, log 22). A word that must be waited for is. -/
def isExtAt (a : Word) : X Bool := fun s =>
  match fetchWord a s with
  | .ok (w, bad) _ => .ok (!bad && opOf w == extOp) s
  | .error (.wait w) t => .error (.wait w) t
  | .error _ _ => .ok false s

/-- LOOP and LOOPI with count n (R224). They make no end check (R225). -/
def enterLoop (l : BitVec 1) (off : BitVec 40) (n : Word) : X Unit := do
  let pc := (← self).pc
  let le := branchTarget pc off
  let ext ← if n = 0 then isExtAt le else pure false
  modSelf (·.enterLoop l n (pc + 8) le)
  throw (.goto (if n = 0 then le + (if ext then 16 else 8) else pc + 8))

/-- LOOP (R224). -/
def execLoop (k : BitVec 1) (f : SB) (s : State) : Out := finish 8 (do
  enterLoop k f.off (← readX f.xa)) s

/-- LOOPI (R224): COUNT12 is xa and xb together. -/
def execLoopi (k : BitVec 1) (f : SB) (s : State) : Out := finish 8 (do
  enterLoop k f.off ((f.xa ++ f.xb : BitVec 12).setWidth 64)) s

/-! ### Configuration -/

/-- The shape granted to a request (R79): rows and columns, MaxCols given. -/
def grantShape (maxCols reqRows reqCols : Nat) : Nat × Nat :=
  if reqRows = 0 || reqCols = 0 then (0, 0)
  else
    let cols := min reqCols maxCols
    (min (min reqRows 64) (maxCols / cols), cols)

/-- VROWS and VCOLS written. -/
def Core.setShape (k : Core) (rows cols : Nat) : Core :=
  (k.setCsr 0x001 (toWord rows)).setCsr 0x002 (toWord cols)

/-- SETSHAPE (R227). -/
def execSetshape (f : SA) (s : State) : Out := finish 8 (do
  let a ← readX f.xa
  let b ← readX f.xb
  freeX f.xd
  let k ← self
  require (k.ew ≤ 5) causeIllegalEnc (Instr.word (.setshape f))
  let g := grantShape (k.maxCols (shapeWidth k.ew)) a.toNat b.toNat
  modSelf fun k => (k.setShape g.1 g.2).setCsr 0x003 0
  writeX f.xd (toWord (g.1 * g.2))) s

/-- The writable bits of VCFG (R199). -/
def vcfgMask : Word := 0x37FF

/-- A field of VCFG written with the low bits of xa + imm, and its old value read (R228). -/
def setConfig (f : SI) (lo len : Nat) : X Unit := do
  let v := (← readX f.xa) + f.value
  freeX f.xd
  let old := (← self).vcfg
  modSelf fun k => k.setCsr 0x000 (setBits old lo len v.toNat &&& vcfgMask)
  writeX f.xd old

/-- SETCFG (R228). -/
def execSetcfg (f : SI) (s : State) : Out := finish (extSize f.ext) (setConfig f 0 64) s
/-- SETCFG.EW (R228). -/
def execSetcfgEw (f : SI) (s : State) : Out := finish (extSize f.ext) (setConfig f 0 3) s
/-- SETCFG.SCOPE (R228). -/
def execSetcfgScope (f : SI) (s : State) : Out := finish (extSize f.ext) (setConfig f 3 3) s
/-- SETCFG.SPACE (R228). -/
def execSetcfgSpace (f : SI) (s : State) : Out := finish (extSize f.ext) (setConfig f 6 2) s
/-- SETCFG.RM (R228). -/
def execSetcfgRm (f : SI) (s : State) : Out := finish (extSize f.ext) (setConfig f 8 2) s

/-- The bytes of a spill frame (R87). -/
def frameBytes (rows cols w : Nat) : Nat := 8 + 8 * cdiv (rows * cols * w) 64

/-- VQLEN (R229). -/
def execVqlen (f : SA) (s : State) : Out := finish 8 (do
  let k ← self
  require (k.ew ≤ 5) causeIllegalEnc (Instr.word (.vqlen f))
  writeX f.xd (toWord (frameBytes k.vrows k.vcols (ewWidth k.ew)))) s

/-- The grant of a request for M, N and K (R282). -/
def grantTile (cap m n k : Nat) : Nat × Nat × Nat :=
  let m := min m 64
  let n := min n 128
  let k := min k 4096
  if m = 0 || n = 0 || k = 0 then (0, 0, 0) else (min m (cap / 32 / n), n, k)

/-- SETTILE (R282): the grants go to TSM, TSN and TSK, and back to xa, xb and xc. -/
def execSettile (f : SA) (s : State) : Out := finish 8 (do
  let a ← readX f.xa
  let b ← readX f.xb
  let c ← readX f.xc
  let g := grantTile (← self).capBits a.toNat b.toNat c.toNat
  modSelf fun k => ((k.setCsr 0x010 (toWord g.1)).setCsr 0x011 (toWord g.2.1)).setCsr 0x012 (toWord g.2.2)
  modSelf fun k => ((k.wr f.xa (toWord g.1)).wr f.xb (toWord g.2.1)).wr f.xc (toWord g.2.2)) s

end Sys2Proof.Machine
end

