-- ==== Sys2Proof/Machine/Setting.lean ====
section
/-! DEFINITION. Settings of the fabric: the element word, the image and its checks, planes and bindings, FBIND, FUNBIND
and FQRY (R310, R311, R316, R317, R319, R320). -/

namespace Sys2Proof.Machine

/-! ### Element words (R310, R311) -/

def wordOpc (w : BitVec 96) : Nat := (w.extractLsb' 0 8).toNat
def wordEn (w : BitVec 96) : Nat := (w.extractLsb' 8 4).toNat
def wordSel (w : BitVec 96) (j : Nat) : Nat := (w.extractLsb' (12 + 5 * j) 5).toNat
def wordTrack (w : BitVec 96) (t : Nat) : Nat := (w.extractLsb' (32 + 4 * t) 4).toNat
def wordK (w : BitVec 96) : Nat := (w.extractLsb' 64 32).toNat

/-- The enables an opcode admits; none for a reserved opcode (R311). -/
def opcodeEnables (opc : Nat) : Option (List Nat) :=
  if opc = 0 then some [0]
  else if opc ≤ 0x09 || (0x10 ≤ opc && opc ≤ 0x12) then some [3]
  else if opc = 0x13 || opc = 0x20 then some [7]
  else if opc = 0x14 || opc = 0x15 then some [1]
  else if 0x18 ≤ opc && opc ≤ 0x1D then some [3]
  else if 0x21 ≤ opc && opc ≤ 0x24 then some [3]
  else if 0x25 ≤ opc && opc ≤ 0x28 then some [1]
  else if opc = 0x29 then some [0, 1]
  else if opc = 0x2A || opc = 0x30 || opc = 0x32 then some [1]
  else if opc = 0x31 then some [3]
  else if opc = 0x33 then some ((List.range 16).drop 1)
  else if (0x40 ≤ opc && opc ≤ 0x49) || (0x50 ≤ opc && opc ≤ 0x53) || opc = 0x56 || opc = 0x57 then some [3]
  else none

/-- The opcodes with an element register (R311). -/
def statefulOpc (opc : Nat) : Bool := opc == 0x22 || opc == 0x25 || opc == 0x26 || opc == 0x27

/-- A word of a used region holds only defined codes (R310, R311, R317). -/
def elemWordOk (w : BitVec 96) : Bool :=
  let opc := wordOpc w
  let en := wordEn w
  (match opcodeEnables opc with
    | some l => l.contains en
    | none => false) &&
  ((List.range 4).all fun j =>
    if en.testBit j then wordSel w j ≤ 9 || wordSel w j == 16 else wordSel w j == 0) &&
  ((List.range 8).all fun t => wordTrack w t ≤ 2 || (4 ≤ wordTrack w t && wordTrack w t ≤ 11)) &&
  !((opc == 0x21 || opc == 0x22) && wordK w % 4 == 3) && !((opc == 0x30 || opc == 0x31) && fld (wordK w) 6 2 == 3)

/-- The region of an element (R308). -/
def regionOf (e : Nat) : Nat := e / 1024 * 4 + e % 64 / 16

/-- The elements of a region in increasing index (R308). -/
def regionElems (g : Nat) : List Nat :=
  (List.range 256).map fun i => (16 * (g / 4) + i / 16) * 64 + 16 * (g % 4) + i % 16

/-! ### Header fields (R316) -/

def hdrClass (h : Word) : Bool := h.getLsbD 23
def hdrNin (h : Word) : Nat := bits h 21 2
def hdrNout (h : Word) : Nat := bits h 19 2
def hdrUses (h : Word) (g : Nat) : Bool := h.getLsbD g
/-- The type code of input i, of output o. -/
def typeIn (t : Word) (i : Nat) : Nat := bits t (8 * i) 5
def typeOut (t : Word) (o : Nat) : Nat := bits t (16 + 8 * o) 5
/-- What stream-in port s, stream-out port o maps: 0 unused, else 1 + the stream. -/
def mapIn (m : Word) (s : Nat) : Nat := bits m (2 * s) 2
def mapOut (m : Word) (o : Nat) : Nat := bits m (16 + 2 * o) 2

/-- The types of streams (R317). -/
def streamType (code : Nat) : Option ET := match ET.ofCode code with
  | some .i8 => some .i8 | some .u8 => some .u8 | some .i16 => some .i16 | some .u16 => some .u16
  | some .i32 => some .i32 | some .u32 => some .u32 | some .f16 => some .f16 | some .bf16 => some .bf16
  | some .f32 => some .f32 | _ => none

/-! ### Images (R316, R317) -/

def imageBytes : Nat := 49408

/-- Dword i of an image; the word of element e; the signature of region g. -/
def imgDword (img i : Nat) : Word := toWord (fld img (64 * i) 64)
def imgElem (img e : Nat) : BitVec 96 := BitVec.ofNat 96 (fld img (8 * (128 + 12 * e)) 96)
def imgSig (img g : Nat) : Nat := fld img (8 * (49280 + 8 * g)) 64

/-- The header is well formed, with the declared types of one width (R317). -/
def headerOk (img : Nat) : Bool :=
  let h := imgDword img 0
  let t := imgDword img 1
  let m := imgDword img 2
  let nin := hdrNin h
  let nout := hdrNout h
  let declared := typeIn t 0 :: typeOut t 0 :: ((if nin = 2 then [typeIn t 1] else []) ++
    (if nout = 2 then [typeOut t 1] else []))
  let w := fun (c : Nat) => (streamType c).map ETwidth
  bits h 32 32 == 0x53455446 && bits h 24 8 == 1 && bits h 16 3 == 0 && (nin == 1 || nin == 2) &&
    (nout == 1 || nout == 2) && bits t 29 35 == 0 && bits t 21 3 == 0 && bits t 13 3 == 0 && bits t 5 3 == 0 &&
    bits m 24 40 == 0 && ((List.range 13).all fun i => imgDword img (3 + i) == 0) &&
    (declared.all fun c => (w c).isSome && w c == w (typeIn t 0)) &&
    ((List.range 8).all fun s => mapIn m s ≤ nin) && ((List.range 8).any fun s => mapIn m s == 1) &&
    ((List.range 4).all fun o => mapOut m o ≤ nout) &&
    ((List.range nout).all fun k => ((List.range 4).filter fun o => mapOut m o == k + 1).length == 1)

/-- Every word of the image is as R317 requires. -/
def wordsOk (img : Nat) : Bool :=
  let h := imgDword img 0
  (List.range 4096).all fun e =>
    let w := imgElem img e
    if hdrUses h (regionOf e) then elemWordOk w && (hdrClass h || !statefulOpc (wordOpc w)) else w == 0

/-- One bit into the CRC-64 of R317. -/
def crcBit (c : BitVec 64) (b : Bool) : BitVec 64 :=
  if c.getLsbD 63 != b then (c <<< 1) ^^^ 0x42F0E1EBA9EA3693 else c <<< 1

/-- One byte into the CRC-64, its most significant bit first (R317). -/
def crcByte (c : BitVec 64) (v : Nat) : BitVec 64 :=
  (List.range 8).foldl (fun c i => crcBit c (v.testBit (7 - i))) c

/-- The bytes of a number, lowest first, into the CRC-64. -/
def crcBytes (c : BitVec 64) (n v : Nat) : BitVec 64 := (elemsOf 8 v n).foldl crcByte c

/-- The CRC-64 of a header's 128 bytes and the words of a region (R317). -/
def signatureOf (hdr : Nat) (words : List Nat) : Nat := (words.foldl (fun c w => crcBytes c 12 w) (crcBytes 0 128 hdr)).toNat

/-- The signature of a region of an image (R317). -/
def signature (img g : Nat) : Nat := signatureOf (fld img 0 1024) ((regionElems g).map fun e => (imgElem img e).toNat)

/-- Every used region's signature matches (R317). -/
def signaturesOk (img : Nat) : Bool :=
  (List.range 16).all fun g => !hdrUses (imgDword img 0) g || signature img g == imgSig img g

/-- The plane an image fills. -/
def planeOf (at_ : Nat) (img : Nat) : Plane :=
  { img := at_, hdr := imgDword img 0, types := imgDword img 1, maps := imgDword img 2
    words := (List.range 4096).filterMap fun e => if imgElem img e = 0 then none else some (e, imgElem img e) }

/-- The address of an image as a plane and a binding name it (R319). -/
def imageName (a : Word) : Nat := bits a 8 48 * 256

/-- An image read and checked (R320): its status, and the plane it fills when the status is 0. Translation faults, a
poisoned table among them, are thrown. -/
def readImage (x : Ctx) (at_ : Nat) : X (Nat × Option Plane) := fun s =>
  match copyRead x [] (canon56 (toWord at_)) imageBytes (fun e _ => pteFmt e == 0) false s with
  | .ok img t =>
    if !(headerOk img && wordsOk img) then .ok (3, none) t
    else if !signaturesOk img then .ok (2, none) t
    else .ok (0, some (planeOf at_ img)) t
  | .error (.trap c v) t =>
    if c = causeMemUE && !v.getLsbD 62 then .ok (1, none) t else .error (.trap c v) t
  | .error e t => .error e t

/-! ### Planes (R319, R320) -/

def Fabric.plane (f : Fabric) (p : BitVec 2) : Option Plane := f.planes[p.toNat]

/-- The plane that holds a FOP is pinned: the active one while a FOP runs or is frozen (R319). -/
def Fabric.pinned (f : Fabric) (p : BitVec 2) : Bool := f.grid.isSome && f.active == some p

/-- The least recently used plane that is not pinned; a shadow plane is not the active one (R320). -/
def Fabric.victim (f : Fabric) (shadow : Bool) : BitVec 2 :=
  ((f.lru.find? fun p => !f.pinned p && !(shadow && f.active == some p)).getD 0)

/-- A plane becomes the most recently used one. -/
def Fabric.touch (f : Fabric) (p : BitVec 2) : Fabric := { f with lru := f.lru.filter (· != p) ++ [p] }

/-- A plane filled, or left invalid; any other plane named by the same address is invalidated (R320). -/
def Fabric.fillPlane (f : Fabric) (p : BitVec 2) (at_ : Nat) (v : Option Plane) : Fabric :=
  let cleared := (List.range 4).foldl (fun (ps : Vector (Option Plane) 4) i =>
    match ps[i]? with
    | some (some q) => if q.img = at_ then ps.setIfInBounds i none else ps
    | _ => ps) f.planes
  { f with planes := cleared.set p.toNat v }.touch p

/-- The plane an image is resident in. -/
def Fabric.resident (f : Fabric) (at_ : Nat) : Option (BitVec 2) :=
  ((List.range 4).find? fun i => match f.planes[i]? with
    | some (some q) => q.img == at_
    | _ => false).map (BitVec.ofNat 2)

def modFab (f : Fabric → Fabric) : X Unit := modSelf fun k => { k with fab := f k.fab }

/-- The slot entry of a plane (R319). -/
def Plane.bound (p : Plane) : Bound := ⟨p.img, p.hdr, p.types⟩

/-- The slot bound to an image read (R320): the status; the slot takes a good image only. -/
def bindSlot (slot : BitVec 6) (at_ : Nat) (r : Nat × Option Plane) : X Unit :=
  modFab fun f =>
    let f := f.fillPlane (f.victim true) at_ r.2
    match r.2 with
    | some p => { f with slots := f.slots.set slot.toNat (some p.bound) }
    | none => f

/-! ### FBIND, FUNBIND, FQRY -/

/-- The slot of a form. -/
def EN.slot (f : EN) : BitVec 6 := f.flags.extractLsb' 0 6

/-- The frozen FOP of a slot discarded (R323). -/
def Core.thawSlot (k : Core) (slot : BitVec 6) : Core :=
  if k.fab.grid.any fun g => g.frozen && g.slot == slot then k.thaw else k

/-- FBIND (R320). -/
def execFbind (f : EN) (s : State) : Out := finish 8 (do
  let a ← readX f.xa
  reserveReply [f.xd]
  require (bits a 0 8 == 0) causeMisalign a
  let x ← selfCtx
  require (canonical a) causeAccess (syndrome 5 7 0 a.toNat)
  let r ← readImage x (imageName a)
  modSelf fun k => k.thawSlot (EN.slot f)
  bindSlot (EN.slot f) (imageName a) r
  reply [(f.xd, toWord r.1)]) s

/-- FUNBIND (R319). -/
def execFunbind (f : EN) (s : State) : Out := finish 8 (do
  modSelf fun k => k.thawSlot (EN.slot f)
  modFab fun b => { b with slots := b.slots.set (EN.slot f).toNat none }) s

/-- The binding word (R319). -/
def Fabric.word (f : Fabric) (slot : BitVec 6) : Word :=
  match f.slots[slot.toNat] with
  | none => 0
  | some b =>
    let r := f.resident b.img
    toWord (b.img / 256 * 256 + 2 ^ 7 + (if r.isSome then 2 ^ 6 else 0) + (if hdrClass b.hdr then 2 ^ 5 else 0) +
      (r.getD 0).toNat * 2 ^ 3 + (if f.grid.any fun g => g.frozen && g.slot == slot then 4 else 0) +
      (hdrNout b.hdr - 1))

/-- FQRY (R319). -/
def execFqry (f : EN) (s : State) : Out := finish 8 (do
  reserveReply [f.xd]
  reply [(f.xd, (← self).fab.word (EN.slot f))]) s

end Sys2Proof.Machine
end

