-- ==== Sys2Proof/Machine/Fabric.lean ====
section
/-! DEFINITION. The fabric: tracks, element firings, ports, the escape lane, FOP, its completion and its stops, and the
protection of configurations (R308 to R315, R321 to R327). -/

namespace Sys2Proof.Machine

/-! ### Where tokens come from and go to (R309, R310, R313) -/

/-- What drives a track: an output register, a track passed through, a stream-in port, a scalar port. -/
inductive Src where
  | a (e : Nat)
  | b (e : Nat)
  | pass (e t : Nat)
  | port (s : Nat)
  | scalar (p : Nat)
  deriving DecidableEq, Repr

/-- What consumes a track: an input queue, a track passed through, a stream-out port. -/
inductive Sink where
  | queue (e j : Nat)
  | pass (e t : Nat)
  | out (o : Nat)
  deriving DecidableEq, Repr

def Grid.el (g : Grid) (e : Nat) : Option GridElem := g.elems.find? (·.e == e)

def Grid.modEl (g : Grid) (e : Nat) (f : GridElem → GridElem) : Grid :=
  { g with elems := g.elems.map fun x => if x.e == e then f x else x }

/-- What drives outgoing track t of element e (R310). -/
def Grid.driver (g : Grid) (e t : Nat) : Option Src :=
  match g.el e with
  | none => none
  | some x => match wordTrack x.word t with
    | 0 => none
    | 1 => some (.a e)
    | 2 => some (.b e)
    | _ => some (.pass e t)

/-- What drives incoming track j (N0 N1 E0 E1 S0 S1 W0 W1) of element e: the outgoing track of the neighbour on that
side, or a port at the grid's edge (R309, R313). -/
def Grid.incoming (g : Grid) (e j : Nat) : Option Src :=
  let r := e / 64
  let c := e % 64
  match j / 2 with
  | 0 => if 0 < r then g.driver (e - 64) (j + 4) else if j = 0 && c % 32 = 0 then some (.scalar (c / 32)) else none
  | 1 => if c < 63 then g.driver (e + 1) (j + 4) else none
  | 2 => if r < 63 then g.driver (e + 64) (j - 4) else none
  | _ => if 0 < c then g.driver (e - 1) (j - 4) else if j = 6 && r % 8 = 0 then some (.port (r / 8)) else none

/-- Each consumer with what drives it. -/
def Grid.edges (g : Grid) : List (Src × Sink) :=
  let queues := fun (x : GridElem) => (List.range 4).filterMap fun j =>
    if (wordEn x.word).testBit j then
      let sel := wordSel x.word j
      let src := if sel < 8 then g.incoming x.e sel else if sel = 8 then some (.a x.e) else if sel = 9 then some (.b x.e)
        else none
      src.map fun s => (s, Sink.queue x.e j)
    else none
  let tracks := fun (x : GridElem) => (List.range 8).filterMap fun t =>
    let code := wordTrack x.word t
    if 4 ≤ code then (g.incoming x.e (code - 4)).map fun s => (s, Sink.pass x.e t) else none
  let outs := (List.range 4).filterMap fun o =>
    if mapOut g.maps o = 0 then none else (g.driver (1024 * o + 63) 2).map fun s => (s, Sink.out o)
  (g.elems.flatMap fun x => queues x ++ tracks x) ++ outs

/-- Each driver with all its consumers (R309). -/
def Grid.wires (g : Grid) : List (Src × List Sink) :=
  let es := g.edges
  ((es.map (·.1)).dedup).map fun s => (s, (es.filter (·.1 == s)).map (·.2))

/-! ### Queues -/

def GridElem.queue (x : GridElem) (j : Nat) : List Token := (x.q[j]?).getD []

def GridElem.setQueue (x : GridElem) (j : Nat) (q : List Token) : GridElem := { x with q := x.q.set j q }

/-- A token enters queue j. -/
def GridElem.push (x : GridElem) (j : Nat) (t : Token) : GridElem := x.setQueue j (x.queue j ++ [t])

/-- The head of queue j consumed; a token that escaped behind the queue moves up into it (R324). -/
def GridElem.pop (x : GridElem) (j : Nat) : GridElem :=
  let rest := (x.queue j).drop 1
  match x.esc.find? (·.1 == j) with
  | none => x.setQueue j rest
  | some (_, t) => { x.setQueue j (rest ++ [t]) with esc := x.esc.eraseP (·.1 == j) }

/-- Queue j has room: fewer than 4 tokens, and none escaped behind it (R308, R324). -/
def GridElem.room (x : GridElem) (j : Nat) : Bool := (x.queue j).length < 4 && !(x.esc.any (·.1 == j))

/-- A consumer has room (R309); a stream-out port always has. -/
def Grid.hasRoom (g : Grid) : Sink → Bool
  | .queue e j => match g.el e with
    | some x => x.room j
    | none => false
  | .pass e t => match g.el e with
    | some x => ((x.trk[t]?).getD none).isNone
    | none => false
  | .out _ => true

/-! ### Streams (R321) -/

/-- One item of an input stream: its token, the flags its reading raises, and the trap of a poisoned word on the way
to it. -/
structure Item where
  tok   : Token
  flags : Flags
  bad   : Option Word
  deriving DecidableEq, Repr

/-- A stored element extended into a token (R321). -/
def tokenIn (t : ET) (raw : Nat) : Nat × Flags :=
  match t with
  | .f16 | .bf16 => fp32.convert 0 false (elemVal t raw)
  | _ => (if ETsigned t then wrap 32 (signed (ETwidth t) raw) else raw, 0)

/-- A token as an output element (R321). -/
def tokenOut (t : ET) (rm : BitVec 2) (d : Nat) : Nat × Flags :=
  match t with
  | .f16 => fp16.convert rm false (fp32.decode d)
  | .bf16 => bf16.convert rm false (fp32.decode d)
  | _ => (d % 2 ^ ETwidth t, 0)

def Grid.inType (g : Grid) (i : Nat) : ET := (streamType (typeIn g.types i)).getD .i32
def Grid.outType (g : Grid) (o : Nat) : ET := (streamType (typeOut g.types o)).getD .i32

/-- Items of a list of elements of a register, with the end token (R313): from is the first index whose mask word the
delivery of an item looks at. -/
def streamItems (k : Core) (t : ET) (code : Nat) (msk : BitVec 3) (els : List Nat) (total : Nat) : Array Item :=
  let w := ETwidth t
  let v := k.vec.bitsOf code
  let maskBad := fun (i : Nat) => k.badSources (maskSource msk) i
  let r := els.foldl (fun (acc : Array Item × Nat) i =>
    let bad := if k.vec.poison.isEmpty then []
      else ((List.range (i + 1 - acc.2)).flatMap fun j => maskBad (acc.2 + j)) ++ k.badSources [(code, code, w, id)] i
    let tk := tokenIn t (fld v (w * i) w)
    (acc.1.push ⟨⟨false, BitVec.ofNat 32 tk.1⟩, tk.2, bad.head?.map fun b => regUE b.1 b.2⟩, i + 1)) (#[], 0)
  let bad := if k.vec.poison.isEmpty then [] else (List.range (total - r.2)).flatMap fun j => maskBad (r.2 + j)
  r.1.push ⟨⟨true, BitVec.ofNat 32 els.length⟩, 0, bad.head?.map fun b => regUE b.1 b.2⟩

/-- The length of input 1 (R321); a resumed FOP whose program has changed it reads no more than a register holds. -/
def Grid.length1 (g : Grid) (k : Core) : Nat :=
  min (if g.xl = 0 then k.vrows * k.vcols else (k.rd g.xl).toNat) (k.capBits / ETwidth (g.inType 1))

/-- The two input streams, read from the registers as they are (R321, R323). -/
def Grid.inputs (g : Grid) (k : Core) : Array Item × Array Item :=
  let n := min (k.vrows * k.vcols) (k.capBits / ETwidth (g.inType 0))
  let act := (List.range n).filter fun i => k.activeBit g.msk i
  (streamItems k (g.inType 0) g.va.toNat g.msk act n,
   if hdrNin g.hdr = 2 then streamItems k (g.inType 1) g.vb.toNat 0 (List.range (g.length1 k)) 0 else #[])

/-- The item that stream-in port s offers. -/
def Grid.offer (g : Grid) (ins : Array Item × Array Item) (s : Nat) : Option Item :=
  let i := (g.inpos[s]?).getD 0
  match mapIn g.maps s with
  | 1 => ins.1[i]?
  | 2 => ins.2[i]?
  | _ => none

/-- The token a driver offers. -/
def Grid.peek (g : Grid) (ins : Array Item × Array Item) : Src → Option Token
  | .a e => (g.el e).bind (·.a)
  | .b e => (g.el e).bind (·.b)
  | .pass e t => (g.el e).bind fun x => (x.trk[t]?).getD none
  | .port s => (g.offer ins s).map (·.tok)
  | .scalar p => if (g.sent[p]?).getD true then none else some ⟨false, g.imm.extractLsb' (32 * p) 32⟩

/-- The driver gives its token up. -/
def Grid.take (g : Grid) (ins : Array Item × Array Item) : Src → Grid
  | .a e => g.modEl e fun x => { x with a := none }
  | .b e => g.modEl e fun x => { x with b := none }
  | .pass e t => g.modEl e fun x => { x with trk := x.trk.set t none }
  | .port s => { g with
      inpos := g.inpos.setIfInBounds s ((g.inpos[s]?).getD 0 + 1)
      flags := g.flags ||| (match g.offer ins s with
        | some i => i.flags
        | none => 0) }
  | .scalar p => { g with sent := g.sent.setIfInBounds p true }

/-! ### Stream-out ports -/

/-- Elements a destination holds (R321). -/
def Core.outCap (k : Core) (code w : Nat) : Nat := if code < 32 then k.capBits / w else 1024

/-- Stream-out port o takes a token (R313, R321): written at its place, counted; an end token ends the output, and
what follows it is discarded. -/
def outPort (g : Grid) (k : Core) (o : Nat) (t : Token) : Grid × Core :=
  if (g.ended[o]?).getD true then (g, k)
  else if t.c then ({ g with ended := g.ended.setIfInBounds o true }, k)
  else
    let n := (g.outpos[o]?).getD 0
    let i := mapOut g.maps o - 1
    let ty := g.outType i
    let w := ETwidth ty
    let code := g.vd.toNat + i
    let r := tokenOut ty g.rm t.d.toNat
    let g := { g with outpos := g.outpos.setIfInBounds o (n + 1) }
    if n < k.outCap code w then
      ({ g with flags := g.flags ||| r.2 }, 
        { k with vec := (k.vec.setBits code (putFld (k.vec.bitsOf code) (w * n) w r.1)).wrote code (w * (n + 1)) })
    else (g, k)

/-- A consumer takes a token. -/
def giveSink (g : Grid) (k : Core) (t : Token) : Sink → Grid × Core
  | .queue e j => (g.modEl e fun x => x.push j t, k)
  | .pass e j => (g.modEl e fun x => { x with trk := x.trk.set j (some t) }, k)
  | .out o => outPort g k o t

/-! ### Firing (R311, R312) -/

/-- The head of queue j: K for a queue that selects it. -/
def GridElem.head (x : GridElem) (j : Nat) : Option Token :=
  if wordSel x.word j = 16 then some ⟨false, BitVec.ofNat 32 (wordK x.word)⟩ else (x.queue j).head?

/-- One token consumed from each of some queues. -/
def GridElem.consume (x : GridElem) (js : List Nat) : GridElem :=
  js.foldl (fun (x : GridElem) j => if wordSel x.word j = 16 then x else x.pop j) x

/-- The enabled queues. -/
def GridElem.queues (x : GridElem) : List Nat := (List.range 4).filter fun j => (wordEn x.word).testBit j

/-- The condition code of a compare opcode. -/
def compareCode (opc : Nat) : CC := (CC.ofCode (opc % 16)).getD .eq

/-- The result of an opcode that consumes its inputs and writes A (R311). -/
def aluOp (opc k : Nat) (rm : BitVec 2) (a b d : BitVec 32) : BitVec 32 × Flags :=
  let fp := fun (r : Nat × Flags) => (BitVec.ofNat 32 r.1, r.2)
  match opc with
  | 0x01 => (a + b, 0)
  | 0x02 => (a - b, 0)
  | 0x03 => (a * b, 0)
  | 0x04 => (a &&& b, 0)
  | 0x05 => (a ||| b, 0)
  | 0x06 => (a ^^^ b, 0)
  | 0x07 => (a <<< (b.toNat % 32), 0)
  | 0x08 => (a >>> (b.toNat % 32), 0)
  | 0x09 => (a.sshiftRight (b.toNat % 32), 0)
  | 0x10 => fp (fp32.add rm a.toNat b.toNat)
  | 0x11 => fp (fp32.sub rm a.toNat b.toNat)
  | 0x12 => fp (fp32.mul rm a.toNat b.toNat)
  | 0x13 => fp (fp32.fma rm false false a.toNat b.toNat d.toNat)
  | 0x14 => fp (convertElem .f32 .i32 rm false false a.toNat)
  | 0x15 => fp (convertElem .i32 .f32 rm false false a.toNat)
  | 0x18 => (if b.toInt < a.toInt then b else a, 0)
  | 0x19 => (if a.toInt < b.toInt then b else a, 0)
  | 0x1A => (if b.toNat < a.toNat then b else a, 0)
  | 0x1B => (if a.toNat < b.toNat then b else a, 0)
  | 0x1C => fp (fp32.minmax false a.toNat b.toNat)
  | 0x1D => fp (fp32.minmax true a.toNat b.toNat)
  | 0x20 => (if d = 0 then b else a, 0)
  | 0x29 => (BitVec.ofNat 32 k, 0)
  | 0x2A => (a, 0)
  | 0x33 => (0, 0)
  | o => fp (cmpElem (if o < 0x50 then .i32 else .f32) (compareCode o) a.toNat b.toNat)

/-- A key of MERGE and MATCH as an integer: signed, unsigned, or FP32 with NaN above every number (R312). -/
def matchKey (mode : Nat) (v : BitVec 32) : Int :=
  match mode with
  | 0 => v.toInt
  | 1 => v.toNat
  | _ => match fp32.decode v.toNat with
    | .nan _ => 2 ^ 32
    | _ => if v.getLsbD 31 then -((v.toNat % 2 ^ 31 : Nat) : Int) else v.toNat

/-- What a firing does: the element after it and the flags; a request at a port is made apart. -/
inductive Fired where
  | no
  | yes (x : GridElem) (f : Flags)
  deriving DecidableEq, Repr

/-- The outputs of a firing are free. -/
def GridElem.freeOuts (x : GridElem) (a b : Bool) : Bool := (!a || x.a.isNone) && (!b || x.b.isNone)

/-- MERGE on its two heads (R312). -/
def GridElem.merge (x : GridElem) (a b : Token) : Fired :=
  if !x.freeOuts true true then .no
  else if a.c && b.c then
    .yes { x.consume [0, 1] with a := some ⟨true, a.d + b.d⟩, b := some ⟨true, 0⟩ } 0
  else
    let mode := wordK x.word % 4
    let one := a.c || (!b.c && matchKey mode b.d < matchKey mode a.d)
    if one then .yes { x.consume [1] with a := some ⟨false, b.d⟩, b := some ⟨false, 1⟩ } 0
    else .yes { x.consume [0] with a := some ⟨false, a.d⟩, b := some ⟨false, 0⟩ } 0

/-- MATCH on its two heads (R312): the positions in r0 and r1, the matches in r2. -/
def GridElem.matching (x : GridElem) (a b : Token) : Fired :=
  let mode := wordK x.word % 4
  let ka := matchKey mode a.d
  let kb := matchKey mode b.d
  if a.c && b.c then
    if !x.freeOuts true true then .no
    else .yes { x.consume [0, 1] with a := some ⟨true, x.r2⟩, b := some ⟨true, x.r2⟩, r0 := 0, r1 := 0, r2 := 0 } 0
  else if !a.c && !b.c && ka = kb then
    if !x.freeOuts true true then .no
    else .yes { x.consume [0, 1] with
      a := some ⟨false, x.r0⟩, b := some ⟨false, x.r1⟩, r0 := x.r0 + 1, r1 := x.r1 + 1, r2 := x.r2 + 1 } 0
  else if !a.c && (b.c || ka < kb) then .yes { x.consume [0] with r0 := x.r0 + 1 } 0
  else .yes { x.consume [1] with r1 := x.r1 + 1 } 0

/-- The value an element register starts at (R311). -/
def startReg (w : BitVec 96) : BitVec 32 :=
  if wordOpc w = 0x26 || wordOpc w = 0x27 then BitVec.ofNat 32 (wordK w) else 0

/-- COUNT, ACC and FACC on their head (R311, R312). -/
def GridElem.accumulate (x : GridElem) (rm : BitVec 2) (a : Token) : Fired :=
  if a.c then
    if !x.freeOuts true true then .no
    else .yes { x.consume [0] with a := some ⟨false, x.r0⟩, b := some a, r0 := startReg x.word } 0
  else
    let r : BitVec 32 × Flags := match wordOpc x.word with
      | 0x25 => (x.r0 + 1, 0)
      | 0x26 => (x.r0 + a.d, 0)
      | _ => let q := fp32.add rm x.r0.toNat a.d.toNat; (BitVec.ofNat 32 q.1, q.2)
    .yes { x.consume [0] with r0 := r.1 } r.2

/-- The end rule (R312): one token from each queue, the end token to A, and for STEER and DUP to B. -/
def GridElem.ending (x : GridElem) (d : BitVec 32) : Fired :=
  let both := wordOpc x.word == 0x23 || wordOpc x.word == 0x28
  if !x.freeOuts true both then .no
  else .yes { x.consume x.queues with a := some ⟨true, d⟩, b := if both then some ⟨true, d⟩ else x.b } 0

/-- A firing with results for A and B. -/
def GridElem.emit (x : GridElem) (a b : Option (BitVec 32)) (f : Flags) : Fired :=
  if !x.freeOuts a.isSome b.isSome then .no
  else .yes { x.consume x.queues with
    a := match a with
      | some v => some ⟨false, v⟩
      | none => x.a
    b := match b with
      | some v => some ⟨false, v⟩
      | none => x.b } f

/-- What an element does now (R312): nothing, a firing, or a request at a port with a and b. -/
inductive Ready where
  | fire (f : Fired)
  | request (a b : BitVec 32)
  deriving DecidableEq, Repr

/-- An element examined (R311, R312). -/
def GridElem.ready (x : GridElem) (rm : BitVec 2) : Ready :=
  let opc := wordOpc x.word
  let hs := x.queues.map x.head
  if opc = 0 then .fire .no
  else if x.queues.isEmpty then
    if x.once then .fire .no
    else match x.emit (some (BitVec.ofNat 32 (wordK x.word))) none 0 with
      | .yes y f => .fire (.yes { y with once := true } f)
      | .no => .fire .no
  else if hs.any (·.isNone) then .fire .no
  else
    let tok := fun (j : Nat) => ((if x.queues.contains j then x.head j else none).getD ⟨false, 0⟩)
    let a := tok 0
    let b := tok 1
    if opc = 0x21 then .fire (x.merge a b)
    else if opc = 0x22 then .fire (x.matching a b)
    else if opc = 0x25 || opc = 0x26 || opc = 0x27 then .fire (x.accumulate rm a)
    else if hs.any fun t => match t with
      | some t => t.c
      | none => false
    then .fire (x.ending (tok ((x.queues.head?).getD 0)).d)
    else if opc = 0x30 || opc = 0x31 || opc = 0x32 then if x.a.isSome then .fire .no else .request a.d b.d
    else match opc with
      | 0x23 => .fire (if b.d != 0 then x.emit (some a.d) none 0 else x.emit none (some a.d) 0)
      | 0x24 => .fire (x.emit (if b.d != 0 then some a.d else none) none 0)
      | 0x28 => .fire (x.emit (some a.d) (some a.d) 0)
      | _ =>
        let r := aluOp opc (wordK x.word) rm a.d b.d (tok 2).d
        .fire (x.emit (some r.1) none r.2)

/-! ### Load, store and engine ports (R314, R315) -/

/-- The port of an element: loads 0 to 7, stores 8 to 11, engines 12 to 15 (R313, R322). -/
def portIndex (w : BitVec 96) : Nat :=
  match wordOpc w with
  | 0x30 => wordK w % 8
  | 0x31 => 8 + wordK w % 4
  | _ => 12 + wordK w % 4

/-- The bytes of an LDW or STW (R314). -/
def portBytes (w : BitVec 96) : Nat := 2 ^ fld (wordK w) 6 2

/-- The address of an LDW or STW (R314). -/
def Grid.address (g : Grid) (w : BitVec 96) (a : BitVec 32) : Word :=
  g.imm + BitVec.ofInt 64 (a.toInt * 2 ^ fld (wordK w) 4 2)

/-- A load from a formatted page (R76): the FP32 decode of the element at the address, at the even position of its
byte for FMT 3, or the index of FMT 7. -/
def loadDecoded (x : Ctx) (rm : BitVec 2) (h : Hit) (addr : Nat) : X (Nat × Flags) := do
  let fmt := pteFmt h.pte
  let n := fmtSize fmt
  let d := h.pa % n
  let h := { h with pa := h.pa - d, ga := h.ga - d }
  let raw ← spotRead x (.plain h) n 0 addr
  if fmt = 7 then return (raw, 0)
  else
    let v ← scaledVal x h fmt (if fmt = 3 then raw % 16 else raw) 0 0 0 addr
    return fp32.convert rm false v

/-- An access of a load or store port as a memory form of n bytes, which reaches no register block (R314, R21). -/
def portMem (space : Nat) (a : Word) (n kind : Nat) : VMem :=
  { space := space, w := 8 * n, size := n, half := false, kind := kind, base := a, msu := false
    noHost := false, noMmio := true, fmtOk := fun e pa => pteFmt e == 0 || (pteFmt e ≤ 8 && rawReadOk n e pa) }

/-- A load port's request: the token, and the flags of a decode. -/
def portLoad (g : Grid) (x : Ctx) (w : BitVec 96) (a : Word) (rewalk : Option Nat) : X (BitVec 32 × Flags) := do
  let n := portBytes w
  let p ← (portMem g.space.toNat a n 0).place x 0 0 rewalk
  match p.parts with
  | [(.plain h, _)] =>
    if pteFmt h.pte = 0 then
      let v ← p.read x false 0
      return (if (wordK w).testBit 8 then BitVec.ofInt 32 (signed (8 * n) v) else BitVec.ofNat 32 v, 0)
    else
      let r ← loadDecoded x g.rm h p.addr
      return (BitVec.ofNat 32 r.1, r.2)
  | _ =>
    let v ← p.read x false 0
    return (if (wordK w).testBit 8 then BitVec.ofInt 32 (signed (8 * n) v) else BitVec.ofNat 32 v, 0)

/-- A store port's request. -/
def portStore (g : Grid) (x : Ctx) (w : BitVec 96) (a : Word) (b : BitVec 32) (rewalk : Option Nat) : X Unit := do
  let n := portBytes w
  let p ← (portMem g.space.toNat a n 1).place x 0 0 rewalk
  p.write x false (b.toNat % 2 ^ (8 * n))

/-- The address of the record of an EMIT, I + 64 a, a signed (R315; log 43). -/
def Grid.record (g : Grid) (a : BitVec 32) : Word := g.imm + a.signExtend 64 * 64

/-- An engine port's request (R315): with every completion entry DONE it stops ENGINE; else the copy of its record is started,
and A receives its handle. -/
def portEmit (g : Grid) (x : Ctx) (a : BitVec 32) (rewalk : Option Nat) : X (BitVec 32) := do
  let at_ := g.record a
  require (!(← self).handlesAllDone) causeEngine (toWord (2 ^ 63))
  require (at_.toNat % 8 == 0) causeMisalign at_
  let d ← readDwords x at_ 8 rewalk
  let h ← copyStart x (copyOf x 0 (d 4) (d 5) d g.rm) (d 2) (d 6 != 0 || d 7 != 0)
  return h.setWidth 32

/-- The request an element makes: the token for A, and flags. -/
def portRequest (g : Grid) (x : Ctx) (w : BitVec 96) (a b : BitVec 32) (rewalk : Option Nat) : X (BitVec 32 × Flags) := do
  match wordOpc w with
  | 0x30 => portLoad g x w (g.address w a) rewalk
  | 0x31 =>
    portStore g x w (g.address w a) b rewalk
    return (0, 0)
  | _ => return (← portEmit g x a rewalk, 0)

/-! ### A cycle -/

/-- A port stop (R323): cause, value, the port (255: none) and the element whose request it is. -/
structure PortStop where
  cause : Nat
  tval  : Word
  port  : Nat
  e     : Option Nat
  deriving DecidableEq, Repr

/-- A cycle so far: the grid, the machine, the ports and regions in use, whether anything moved, why a request waits,
and the stop that ended it. -/
structure Cycle where
  g     : Grid
  s     : State
  ports : List Nat
  fired : List Nat
  busy  : Bool
  wait  : Option Wait
  stop  : Option PortStop

/-- An element of a region that is being reloaded is frozen (R325). -/
def Grid.frozenEl (g : Grid) (e : Nat) : Bool := g.reload.any fun r => regionOf e == r.toNat

def Src.element : Src → Option Nat
  | .a e | .b e | .pass e _ => some e
  | _ => none

/-- The element whose output register a driver is (R308). -/
def Src.output : Src → Option Nat
  | .a e | .b e => some e
  | _ => none

def Sink.element : Sink → Option Nat
  | .queue e _ | .pass e _ => some e
  | .out _ => none

/-- A wire that begins or ends in a region that is being reloaded carries nothing (R325). -/
def Grid.frozenWire (g : Grid) (w : Src × List Sink) : Bool :=
  (w.1.element.any g.frozenEl) || w.2.any fun k => k.element.any g.frozenEl

/-- One driver's token taken by all its consumers, or by none (R309); g0: the grid at the start of the cycle. -/
def moveWire (g0 : Grid) (ins : Array Item × Array Item) (y : Cycle) (w : Src × List Sink) : Cycle :=
  if y.stop.isSome || !(w.2.all g0.hasRoom) || g0.frozenWire w then y
  else match g0.peek ins w.1 with
    | none => y
    | some t =>
      let bad := match w.1 with
        | .port s => (g0.offer ins s).bind (·.bad)
        | _ => none
      match bad with
      | some v => { y with stop := some ⟨causeMemUE, v, 255, none⟩ }
      | none =>
        let r := w.2.foldl (fun (acc : Grid × Core) k => giveSink acc.1 acc.2 t k) (y.g.take ins w.1, y.s.self)
        { y with g := r.1, s := y.s.setCore y.s.cur r.2, busy := true }

/-- An older request stands before that of element e at port p: loads and stores enter one queue in the order made (R314, R160),
and an engine port takes its records in order (R315). -/
def Grid.queuedBehind (g : Grid) (e p : Nat) : Bool :=
  (g.wants.find? fun d => (g.el d).any fun x =>
    let q := portIndex x.word
    if p < 12 then q < 12 else q == p).any (· != e)

/-- A request that has been made and waits keeps its place. -/
def Grid.queued (g : Grid) (e : Nat) : Grid := { g with wants := if g.wants.contains e then g.wants else g.wants ++ [e] }

/-- The handles of the EMITs of a FOP, with that of a request just performed. -/
def Grid.noteEmit (g : Grid) (w : BitVec 96) (h : BitVec 32) : List (BitVec 8) :=
  if wordOpc w = 0x32 then h.setWidth 8 :: g.emits else g.emits

/-- One element's turn (R312, R314): a port takes one request a cycle; an EMIT does not fire while no completion entry is FREE and
some is BUSY (R315). -/
def fireElem (rewalk : Option Nat) (y : Cycle) (e : Nat) : Cycle :=
  if y.stop.isSome || y.g.frozenEl e then y
  else match y.g.el e with
    | none => y
    | some x =>
      match x.ready y.g.rm with
      | .fire .no => y
      | .fire (.yes x' f) =>
        { y with g := { y.g.modEl e (fun _ => x') with flags := y.g.flags ||| f }, busy := true
                 fired := regionOf e :: y.fired }
      | .request a b =>
        let p := portIndex x.word
        if y.ports.contains p then y
        else if wordOpc x.word = 0x32 && y.s.self.freeHandle.isNone && !y.s.self.handlesAllDone then
          { y with wait := some .resource }
        else if y.g.queuedBehind e p then
          if y.g.wants.contains e then y else { y with g := y.g.queued e, ports := p :: y.ports }
        else
          let pin := if y.g.first = some e then rewalk else none
          match atomically (portRequest y.g (y.s.ctxOf y.s.cur) x.word a b pin) y.s with
          | .ok r t =>
            let x' := { x.consume x.queues with a := some ⟨false, r.1⟩ }
            { y with s := t, ports := p :: y.ports, busy := true, fired := regionOf e :: y.fired
                     g := { y.g.modEl e (fun _ => x') with
                       flags := y.g.flags ||| r.2
                       wants := y.g.wants.filter (· != e)
                       emits := y.g.noteEmit x.word r.1
                       reqs := y.g.reqs.setIfInBounds p ((y.g.reqs[p]?).getD 0 + 1) } }
          | .error (.wait w) t => { y with s := t, ports := p :: y.ports, wait := some w, g := y.g.queued e }
          | .error (.trap c v) _ => { y with stop := some ⟨c, v, p, some e⟩ }
          | .error _ _ => y

/-! ### The escape lane (R324) -/

/-- Tokens in the overflow buffer of a region. -/
def Grid.overflow (g : Grid) (r : Nat) : Nat :=
  g.elems.foldl (fun n x => if regionOf x.e = r then n + x.esc.length else n) 0

/-- A token in an output register that a consumer queue has no room for: its driver and consumers, of a region in
increasing element index from the recovery token on. -/
def Grid.blocked (g : Grid) (wires : List (Src × List Sink)) (ins : Array Item × Array Item) (r : Nat) :
    List (Src × List Sink) :=
  let here := wires.filter fun w => match w.1.output with
    | some e => regionOf e == r && (g.peek ins w.1).isSome && w.2.any fun k => match k with
      | .queue .. => !g.hasRoom k
      | _ => false
    | none => false
  let rot := (g.rot[r]?).getD 0
  let from_ := fun (w : Src × List Sink) => match w.1.output with
    | some e => (e + 4096 - rot) % 4096
    | none => 0
  here.foldr (fun w acc =>
    acc.takeWhile (fun v => from_ v < from_ w) ++ w :: acc.dropWhile (fun v => from_ v < from_ w)) []

/-- Full queues of a region among the consumers of a blocked token. -/
def Grid.needs (g : Grid) (w : Src × List Sink) (r : Nat) : Nat :=
  (w.2.filter fun k => match k with
    | .queue e _ => !g.hasRoom k && regionOf e == r
    | _ => false).length

/-- The overflow buffer of a region that a blocked token would enter has no room for it (R324). -/
def Grid.bufferFull (g : Grid) (w : Src × List Sink) : Bool :=
  (List.range 16).any fun r => g.needs w r != 0 && 256 < g.overflow r + g.needs w r

/-- A blocked token may move: none of its ends is frozen (R325), its consumers that are tracks or ports have room, and the
overflow buffers of the others' regions too. -/
def Grid.canEscape (g : Grid) (w : Src × List Sink) : Bool :=
  !g.frozenWire w && (w.2.all fun k => match k with
    | .queue .. => true
    | _ => g.hasRoom k) && !g.bufferFull w

/-- A region is stalled (R324). -/
def Grid.stalled (g : Grid) (wires : List (Src × List Sink)) (ins : Array Item × Array Item) (r : Nat) : Bool :=
  16 ≤ (g.idle[r]?).getD 0 && !(g.blocked wires ins r).isEmpty

/-- The recovery token of a region moves one blocked token: into the overflow buffer behind each full queue, and into
every other consumer (R324). -/
def Grid.escapeMove (g : Grid) (k : Core) (wires : List (Src × List Sink)) (ins : Array Item × Array Item) (r : Nat) :
    Option (Grid × Core) :=
  match (g.blocked wires ins r).find? g.canEscape with
  | none => none
  | some w => match g.peek ins w.1 with
    | none => none
    | some t =>
      let q := w.2.foldl (fun (acc : Grid × Core) (q : Sink) =>
        match q, acc.1.hasRoom q with
        | .queue e j, false => (acc.1.modEl e fun (x : GridElem) => { x with esc := x.esc ++ [(j, t)] }, acc.2)
        | _, _ => giveSink acc.1 acc.2 t q) (g.take ins w.1, k)
      some ({ q.1 with rot := q.1.rot.setIfInBounds r ((w.1.output.getD 0) + 1) }, q.2)

/-! ### Running -/

/-- The elements in the order in which they are examined. -/
def Grid.order (g : Grid) : List Nat := (g.elems.filter fun x => wordOpc x.word != 0).map (·.e)

/-- One cycle: tokens move, elements fire, stalled regions let a token escape; of a resumed FOP the stopped request first, before
anything else (R323). -/
def gridCycle (wires : List (Src × List Sink)) (ins : Array Item × Array Item) (rewalk : Option Nat) (g : Grid)
    (s : State) : Cycle :=
  let y : Cycle := { g := g, s := s, ports := [], fired := [], busy := false, wait := none, stop := none }
  let y := match g.first with
    | some e => fireElem rewalk y e
    | none => g.order.foldl (fireElem rewalk) (wires.foldl (moveWire g ins) y)
  if y.stop.isSome then y
  else
    let waiting := match g.first with
      | some e => y.wait.isSome || y.g.frozenEl e
      | none => false
    let idle := (List.range 16).foldl (fun (v : Vector Nat 16) r =>
      v.setIfInBounds r (if y.fired.contains r then 0 else min 65536 ((v[r]?).getD 0 + 1))) y.g.idle
    let settling := (List.range 16).any fun r => (idle[r]?).getD 0 < 16
    let y := { y with g := { y.g with idle := idle, first := if waiting then g.first else none }
                      busy := y.busy || settling }
    (List.range 16).foldl (fun (y : Cycle) r =>
      if y.g.stalled wires ins r then
        match y.g.escapeMove y.s.self wires ins r with
        | some q => { y with g := q.1, s := y.s.setCore y.s.cur q.2, busy := true }
        | none => y
      else y) y

/-- No request that has been made is still to be performed. -/
def Grid.performed (g : Grid) : Bool := g.wants.isEmpty && g.first.isNone

/-- Every EMIT issued has delivered its copy: none stands in the execute stream (R180, R321). -/
def Grid.delivered (g : Grid) (k : Core) : Bool := g.emits.all fun h => !k.eng.stream.contains h

/-- Every mapped stream-out port has its end token, every request made has been performed, and every copy delivered (R321). -/
def Grid.finished (g : Grid) (k : Core) : Bool :=
  ((List.range 4).all fun o => mapOut g.maps o == 0 || (g.ended[o]?).getD true) && g.performed && g.delivered k

/-- The grid holds no token and every stream-in port has delivered its end token (R324). -/
def Grid.dry (g : Grid) (ins : Array Item × Array Item) : Bool :=
  (g.elems.all fun x => x.a.isNone && x.b.isNone && x.esc.isEmpty && (x.q.all (·.isEmpty)) && x.trk.all (·.isNone)) &&
    (List.range 8).all fun s => mapIn g.maps s == 0 || (g.offer ins s).isNone

/-- How a run of the grid ends: output ended; a port stop; an empty grid; a region with no room to escape; nothing moves
until what a request waits for; nothing moves at all; more cycles to come. -/
inductive RunEnd where
  | done
  | stop (p : PortStop)
  | stalled
  | escape (r : Nat)
  | waits (w : Wait)
  | hung
  | more
  deriving DecidableEq, Repr

/-- A region is stalled and the target buffer of a blocked token is full (R324). -/
def Grid.jammed (g : Grid) (wires : List (Src × List Sink)) (ins : Array Item × Array Item) (r : Nat) : Bool :=
  g.stalled wires ins r && (g.blocked wires ins r).any g.bufferFull

/-- What a quiet grid has come to (R324). -/
def Grid.quiet (g : Grid) (wires : List (Src × List Sink)) (ins : Array Item × Array Item) (w : Option Wait) : RunEnd :=
  match w with
  | some w => .waits w
  | none =>
    if !g.reload.isEmpty then .hung
    else if g.dry ins then .stalled
    else match (List.range 16).find? fun r => g.jammed wires ins r with
      | some r => .escape r
      | none => .hung

/-- Cycles of the grid, fuel of them at most. -/
def runGrid (wires : List (Src × List Sink)) (ins : Array Item × Array Item) (rewalk : Option Nat) :
    Nat → Grid → State → RunEnd × Grid × State
  | 0, g, s => (if g.finished s.self then .done else .more, g, s)
  | fuel + 1, g, s =>
    if g.finished s.self then (.done, g, s)
    else
      let y := gridCycle wires ins rewalk g s
      match y.stop with
      | some p => (.stop p, y.g, y.s)
      | none =>
        if y.busy then runGrid wires ins rewalk fuel y.g y.s
        else (y.g.quiet wires ins (if y.g.delivered y.s.self then y.wait else y.wait.or (some .resource)), y.g, y.s)

/-- The running FOP of the core that moves, run for some cycles. -/
def State.runFop (s : State) (g : Grid) (cycles : Nat) : RunEnd × Grid × State :=
  let k := s.self
  let rewalk := match k.cache.pin with
    | some p => if p.pc = k.pc then some p.page else none
    | none => none
  runGrid g.wires (g.inputs k) rewalk cycles g s

/-! ### Reports (R322) -/

/-- Tokens that a stream-out port has written: those within its destination's capacity (R321, R322). -/
def Core.written (k : Core) (g : Grid) (o : Nat) : Nat :=
  let i := mapOut g.maps o - 1
  min ((g.outpos[o]?).getD 0) (k.outCap (g.vd.toNat + i) (ETwidth (g.outType i)))

/-- The positions of a FOP in FSP0 to FSP7; the fields that a stop alone records keep theirs (R322, R323, R417). -/
def Core.positions (k : Core) (g : Grid) : Core :=
  let inp := fun (i : Nat) => (g.inpos[i]?).getD 0 % 2 ^ 32
  let k := (List.range 4).foldl (fun (k : Core) i =>
    k.setCsr (0x020 + i) (toWord (k.written g i % 2 ^ 32 * 2 ^ 32 + inp i))) k
  (List.range 4).foldl (fun (k : Core) i => k.setCsr (0x024 + i) (setBits (k.csrAt (0x024 + i)) 0 32 (inp (4 + i)))) k

/-- What a stop records beside the positions: FROZEN, FPORT, FREQ, SLOT (R323). -/
def Core.report (k : Core) (g : Grid) (port : Nat) (frozen : Bool) : Core :=
  let k := k.positions g
  let high := fun (k : Core) (n v : Nat) => k.setCsr n (setBits (k.csrAt n) 32 32 v)
  high (high (high k 0x024 ((if frozen then 2 ^ 31 else 0) + port * 2 ^ 16)) 0x025 ((g.reqs[port]?).getD 0 % 2 ^ 32)) 0x026
    g.slot.toNat

/-- The stream-out port of output i. -/
def Grid.outOf (g : Grid) (i : Nat) : Nat := ((List.range 4).find? fun o => mapOut g.maps o == i + 1).getD 0

/-- Tokens produced for output i. -/
def Grid.produced (g : Grid) (i : Nat) : Nat := (g.outpos[g.outOf i]?).getD 0

/-- The words of the destinations that a FOP has replaced whole lose their poison (R95). -/
def Core.outPoison (k : Core) (g : Grid) (final : Bool) : Core :=
  (List.range (hdrNout g.hdr)).foldl (fun (k : Core) i =>
    let code := g.vd.toNat + i
    let w := ETwidth (g.outType i)
    let n := min (g.produced i) (k.outCap code w)
    { k with vec := { k.vec with
      poison := clearPoison k.vec.poison code w (wordMatesAt k.slices (max 1 (k.outCap code w)) w) (· < n)
        (if final && k.tailz then some n else none) } }) k

/-! ### Completion (R321) -/

/-- The effects of a FOP that has completed. -/
def Core.fopDone (k : Core) (g : Grid) : Core :=
  let c0 := g.produced 0
  let cap := k.outCap g.vd.toNat (ETwidth (g.outType 0))
  let k := k.outPoison g true
  let k := if k.tailz then
      (List.range (hdrNout g.hdr)).foldl (fun (k : Core) i =>
        let code := g.vd.toNat + i
        let w := ETwidth (g.outType i)
        let n := min (g.produced i) (k.outCap code w)
        { k with vec := (k.vec.setBits code (k.vec.bitsOf code % 2 ^ (n * w))).wrote code (k.slices * 8192) }) k
    else k
  let cols := min c0 cap
  let k := (k.setCsr 0x018 (toWord (c0 % 2 ^ 32))).setCsr 0x019
    (toWord (if hdrNout g.hdr = 2 then g.produced 1 % 2 ^ 32 else 0))
  let k := (k.setCsr 0x002 (toWord cols)).setCsr 0x001 (if c0 = 0 then 0 else 1)
  let k := ((k.orFlags g.flags).positions g).repage none
  { k.aheadDone with
    vec := { k.vec with tag := (List.range (hdrNout g.hdr)).foldl (fun t i => t.setIfInBounds (g.vd.toNat + i) cols) k.vec.tag }
    fab := { k.fab with grid := none } }

/-- FOP_COMPLETE (R321): the FOP ends its outputs within some cycles, and the instruction is complete. -/
def execFopComplete (c : CoreId) (cycles : Nat) (s : State) : Out := eventOn c (do
  let s ← get
  match s.self.fab.grid with
  | none => notNow
  | some g =>
    whenever (!g.frozen && g.reload.isEmpty)
    match s.runFop g cycles with
    | (.done, g, t) =>
      set t
      modSelf fun k => (k.fopDone g).retire g.size
    | _ => notNow) s

/-! ### Stops (R323) -/

/-- The fabric freezes: positions recorded, flags so far ORed. -/
def Core.freezeFop (k : Core) (g : Grid) (port : Nat) (first : Option Nat) : Core :=
  let k := ((k.outPoison g false).orFlags g.flags).report g port true
  { k with wait := .none, fab := { k.fab with grid := some { g with frozen := true, flags := 0, first := first } } }

/-- A FABRIC trap leaves no frozen state (R323); its value (R322). -/
def Core.dropFop (k : Core) (g : Grid) : Core :=
  let k := (((k.outPoison g false).orFlags g.flags).report g 255 false).repage none
  { k with wait := .none, fab := { k.fab with grid := none } }

def fabricValue (reason region : Nat) (slot : BitVec 6) : Word :=
  toWord (reason * 2 ^ 60 + region * 2 ^ 12 + slot.toNat)

/-- A FABRIC trap of the running FOP. -/
def fabricTrap (g : Grid) (reason region : Nat) : X Unit := do
  let pc := (← self).pc
  modSelf fun k => k.dropFop g
  takeTrap false causeFabric (fabricValue reason region g.slot) pc

/-- The page that the stopped request of a port records (R36): in TENSOR space that of its element's virtual address. -/
def Grid.stopPage (g : Grid) (p : PortStop) (s : State) : Option Nat :=
  match p.e.bind g.el with
  | none => none
  | some x => match x.ready g.rm with
    | .request a _ =>
      let m := if wordOpc x.word = 0x32 then portMem 0 (g.record a) 8 0
        else portMem g.space.toNat (g.address x.word a) (portBytes x.word) (if wordOpc x.word = 0x31 then 1 else 0)
      (Stop.trap p.cause p.tval).page (m.page 0 s)
    | .fire _ => none

/-- The port stop of a FOP: the fabric freezes and the trap is taken with EPC at the FOP; the page of a translation
fault is recorded (R36). -/
def portStop (g : Grid) (p : PortStop) : X Unit := do
  let s ← get
  modSelf fun k => (k.freezeFop g p.port p.e).repage (g.stopPage p s)
  takeTrap false p.cause p.tval s.self.pc

/-- A pre-emption of the member asks its FOP to stop (R323, R366). -/
def Core.preempting (k : Core) : Bool := k.tk.preempt == .due || k.tk.preempt == .stopping

/-- FOP_STOP (R323): a port stops within some cycles, or a pre-emption freezes the fabric after them; a pre-emption
takes no trap here. A stopped request of a resumed FOP is examined before a new stop, and a reload ends first (R327). -/
def execFopStop (c : CoreId) (cycles : Nat) (s : State) : Out := eventOn c (do
  let s ← get
  match s.self.fab.grid with
  | none => notNow
  | some g =>
    whenever (!g.frozen && g.reload.isEmpty)
    match s.runFop g (if g.first.isSome then max 1 cycles else cycles) with
    | (.stop p, g, t) =>
      set t
      portStop g p
    | (.done, _, _) => notNow
    | (_, g, t) =>
      whenever s.self.preempting
      set t
      modSelf fun k => k.freezeFop g 255 g.first) s

/-! ### FOP (R321) -/

/-- The registers of a FOP: used sources and destinations. -/
def FXsources (f : FX) (hdr : Word) : List (BitVec 7) := if hdrNin hdr = 2 then [f.va, f.vb] else [f.va]
def FXdests (f : FX) (hdr : Word) : List Nat := if hdrNout hdr = 2 then [f.vd.toNat, f.vd.toNat + 1] else [f.vd.toNat]

/-- Check 3 of R321. -/
def FXok (f : FX) (hdr : Word) : Bool :=
  f.vd.toNat < 42 && f.va.toNat < 42 && f.vb.toNat < 42 && !(hdrNin hdr == 1 && (f.vb != 0 || f.xl != 0)) &&
    !(hdrNout hdr == 2 && 30 < f.vd.toNat) &&
    (FXdests f hdr).all fun d => (FXsources f hdr).all fun v => v.toNat != d

/-- The fields of the instruction that a starting or resuming FOP takes. -/
def Grid.operands (g : Grid) (f : FX) : Grid :=
  { g with vd := f.vd, va := f.va, vb := f.vb, msk := f.msk, imm := f.value, xl := f.xl, size := extSize f.ext
           frozen := false }

/-- An element that holds no token, its register at its start value (R311). -/
def freshElem (e : Nat) (w : BitVec 96) : GridElem :=
  { e := e, word := w, q := List.replicate 4 [], a := none, b := none, trk := List.replicate 8 none
    r0 := startReg w, r1 := 0, r2 := 0, once := false, esc := [] }

/-- The grid at the start of a FOP: every element register at its start value (R311). -/
def gridOf (k : Core) (p : Plane) (slot : BitVec 6) : Grid :=
  { slot := slot, vd := 0, va := 0, vb := 0, msk := 0, imm := 0, xl := 0, rm := k.rm
    space := BitVec.ofNat 2 k.space, size := 8, hdr := p.hdr, types := p.types, maps := p.maps
    elems := p.words.map fun w => freshElem w.1 w.2
    inpos := Vector.replicate 8 0, sent := Vector.replicate 2 false, outpos := Vector.replicate 4 0
    ended := Vector.replicate 4 false, reqs := Vector.replicate 16 0, flags := 0, idle := Vector.replicate 16 0
    rot := Vector.replicate 16 0, first := none, wants := [], emits := [], frozen := false, reload := [] }

/-- The width of a bound setting's streams (R317). -/
def Bound.width (b : Bound) : Nat := ETwidth ((streamType (typeIn b.types 0)).getD .i32)

/-- Check 4 of R321. -/
def fopWidth (b : Bound) : X Unit := do
  let k ← self
  require (b.width == ewWidth k.ew) causeShape (toWord (2 ^ 63 + 0x100 * k.ew + typeIn b.types 0))

/-- Checks 5 and 6 of R321; an operand or last-result file is refused as a destination too (R82). -/
def fopChecks (f : FX) (b : Bound) : X Unit := do
  let k ← self
  let n := k.vrows * k.vcols
  require k.shapeOk causeShape (toWord n)
  require (k.vstart == 0) causeShape (toWord (2 ^ 62 + k.vstart))
  let srcs := FXsources f b.hdr
  require (n ≤ 1024 || !((srcs.map (·.toNat) ++ FXdests f b.hdr).any fun v => 32 ≤ v)) causeShape (toWord n)
  if hdrNin b.hdr = 2 then
    let l ← if f.xl = 0 then pure n else (do return (← readX f.xl).toNat)
    require (l ≤ k.capBits / b.width) causeShape (toWord l)
  awaiting ((srcs.all fun v => k.vec.state v.toNat != .empty) && (FXdests f b.hdr).all fun d => k.vec.state d == .full)

/-- Check 7 of R321: the setting resident in a plane, which becomes the active one. -/
def fopPlane (slot : BitVec 6) (b : Bound) : X Plane := do
  let k ← self
  match (k.fab.resident b.img).bind fun q => (k.fab.plane q).map fun v => (q, v) with
  | some (q, v) =>
    modFab fun f => { f.touch q with active := some q }
    return v
  | none =>
    let r ← readImage (← selfCtx) b.img
    let q := (← self).fab.victim false
    modFab fun f => f.fillPlane q b.img r.2
    match r.2 with
    | some v =>
      modFab fun f => { f with active := some q }
      return v
    | none => trap causeFabric (fabricValue 3 0 slot)

/-- FOP (R321, R323): it starts, or resumes the frozen FOP of its slot; the thread then waits until FOP_COMPLETE
completes the instruction. Under a shape of zero elements it performs nothing (R79). A binding decides what an operand code of 42
or above breaks, so that check stands where R321 puts it, after UNBOUND, and not with the decode checks of R195 (DESIGN CHOICE,
log 37). -/
def execFop (f : FX) (s : State) : Out := finish (extSize f.ext) (do
  let k ← self
  if k.fab.running then throw (.wait .fabric)
  require (k.ew ≤ 4 && k.scope ≤ 5) causeIllegalEnc (Instr.word (.fop f))
  match k.fab.slots[f.slot.toNat] with
  | none => trap causeFabric (fabricValue 0 0 f.slot)
  | some b =>
    require (FXok f b.hdr) causeIllegalEnc (Instr.word (.fop f))
    match k.fab.grid.filter fun g => g.frozen && g.slot == f.slot with
    | some g =>
      modSelf fun k => { k.setCsr 0x024 (setBits (k.csrAt 0x024) 63 1 0) with
        fab := { k.fab with grid := some (g.operands f) } }
    | none =>
      fopWidth b
      if k.vrows * k.vcols = 0 then return
      fopChecks f b
      modSelf Core.thaw
      let p ← fopPlane f.slot b
      modSelf fun k => { k with fab := { k.fab with grid := some ((gridOf k p f.slot).operands f) } }
    throw (.wait .fabric)) s

/-! ### Progress (R324) -/

/-- The running FOP of a core, for an event of its grid. -/
def runningGrid : X Grid := do
  match (← self).fab.grid with
  | some g => if g.frozen then notNow else return g
  | none => notNow

/-- ESCAPE_MOVE (R324). -/
def execEscapeMove (c : CoreId) (region : BitVec 4) (s : State) : Out := eventOn c (do
  let g ← runningGrid
  let k ← self
  let wires := g.wires
  let ins := g.inputs k
  whenever (g.stalled wires ins region.toNat)
  match g.escapeMove k wires ins region.toNat with
  | none => notNow
  | some q => modSelf fun _ => { q.2 with fab := { q.2.fab with grid := some q.1 } }) s

/-- ESCAPE_TIMEOUT (R324): 65,536 cycles pass in which no element fires; the target buffer of a stalled region is
full. -/
def execEscapeTimeout (c : CoreId) (region : BitVec 4) (s : State) : Out := eventOn c (do
  let g ← runningGrid
  let s ← get
  let r := s.runFop g 65536
  let quiet := match r.1 with
    | .escape _ | .waits _ | .hung => true
    | _ => false
  whenever (quiet && r.2.1.jammed g.wires (r.2.1.inputs r.2.2.self) region.toNat)
  set r.2.2
  fabricTrap r.2.1 4 region.toNat) s

/-- FABRIC_STALLED (R324). -/
def execFabricStalled (c : CoreId) (s : State) : Out := eventOn c (do
  let g ← runningGrid
  let s ← get
  whenever (!g.finished s.self && g.performed && g.delivered s.self && g.dry (g.inputs s.self))
  fabricTrap g 5 0) s

/-! ### Configuration protection (R325, R326) -/

/-- The fault token to the root, which enters it in the tenant's log (R326): core, region, reason, image. -/
def faultToken (c : CoreId) (region reason : Nat) (img : Nat) : X Unit :=
  modify fun s => s.elogCore c 6 1 region (toWord img) (toWord reason)

/-- CONFIG_UE (R325, R326): an uncorrectable error in a plane, with its fault token. A plane that no FOP uses is invalidated; a
region of the running FOP is reloaded, after those under way, or the FOP traps, by RASMODE.FAB. -/
def execConfigUe (c : CoreId) (plane : BitVec 2) (region : BitVec 4) (s : State) : Out := eventOn c (do
  let k ← self
  match k.fab.plane plane with
  | none => notNow
  | some p =>
    if !(k.fab.running && k.fab.active == some plane) then
      modFab fun f => { f with planes := f.planes.set plane.toNat none }
      faultToken c region.toNat 1 p.img
    else
      let g ← runningGrid
      faultToken c region.toNat 1 p.img
      if (k.csrAt 0x130).getLsbD 1 then fabricTrap g 1 region.toNat
      else modFab fun f => { f with grid := some { g with
        reload := if g.reload.contains region then g.reload else g.reload ++ [region] } }) s

/-- What the reload of a region reads of its image (R325): the header, the region's words, 16 elements a row, and its
signature. -/
def reloadParts (x : Ctx) (at_ region : Nat) : X (Nat × List (Nat × Nat) × Nat) := do
  let part := fun (o n : Nat) => copyRead x [] (canon56 (toWord (at_ + o))) n (fun e _ => pteFmt e == 0) false
  let hdr ← part 0 128
  let rows ← (List.range 16).mapM fun i => do
    let e0 := (16 * (region / 4) + i) * 64 + 16 * (region % 4)
    let v ← part (128 + 12 * e0) 192
    return (List.range 16).map fun j => (e0 + j, fld v (96 * j) 96)
  let sig ← part (49280 + 8 * region) 8
  return (hdr, rows.flatten, sig)

/-- The words of a region read again from the bound image, with the header that its signature covers: none when a byte is
poisoned, or the signature of a used region does not match. -/
def reloadWords (x : Ctx) (at_ region : Nat) : X (Option (List (Nat × BitVec 96))) := fun s =>
  match reloadParts x at_ region s with
  | .ok (hdr, ws, sig) t =>
    if !hdrUses (imgDword hdr 0) region || signatureOf hdr (ws.map (·.2)) = sig then
      .ok (some (ws.map fun w => (w.1, BitVec.ofNat 96 w.2))) t
    else .ok none t
  | .error (.wait w) t => .error (.wait w) t
  | .error _ t => .ok none t

/-- A word in its place among words in rising index. -/
def insertWord (w : Nat × BitVec 96) : List (Nat × BitVec 96) → List (Nat × BitVec 96)
  | [] => [w]
  | v :: vs => if w.1 < v.1 then w :: v :: vs else v :: insertWord w vs

/-- The words of a region of a plane replaced; zero words are left out (R319). -/
def Plane.reload (p : Plane) (region : Nat) (ws : List (Nat × BitVec 96)) : Plane :=
  { p with words := (ws.filter fun w => w.2 != 0).foldr insertWord (p.words.filter fun w => regionOf w.1 != region) }

/-- An element in its place among elements in rising index. -/
def insertElem (x : GridElem) : List GridElem → List GridElem
  | [] => [x]
  | y :: ys => if x.e < y.e then x :: y :: ys else y :: insertElem x ys

/-- The words of a region of a running grid replaced: its tokens stay, and an element whose word was zero begins empty (R325). -/
def Grid.reloaded (g : Grid) (region : Nat) (ws : List (Nat × BitVec 96)) : Grid :=
  let word := fun (e : Nat) => ((ws.find? (·.1 == e)).map (·.2)).getD 0
  let new := ws.filter fun w => w.2 != 0 && (g.el w.1).isNone
  let old := g.elems.map fun x => if regionOf x.e = region then { x with word := word x.e } else x
  { g with elems := new.foldr (fun w xs => insertElem (freshElem w.1 w.2) xs) old }

/-- REGION_RELOAD_DONE (R325): the region's words committed at once, or RELOADFAIL. -/
def execRegionReloadDone (c : CoreId) (s : State) : Out := eventOn c (do
  let g ← runningGrid
  match g.reload with
  | [] => notNow
  | r :: more =>
    let k ← self
    match k.fab.active.bind fun a => (k.fab.plane a).map fun p => (a, p) with
    | none => notNow
    | some (a, p) =>
      match ← reloadWords (← selfCtx) p.img r.toNat with
      | some ws =>
        modFab fun f => { f with
          planes := f.planes.set a.toNat (some (p.reload r.toNat ws))
          grid := some { g.reloaded r.toNat ws with reload := more } }
        modify fun s => { s with root := { s.root with reloads := s.root.reloads + 1 } }
        modify fun s => s.elogCore c 5 0 r.toNat (toWord p.img) 0
      | none =>
        modFab fun f => { f with planes := f.planes.set a.toNat none }
        faultToken c r.toNat 2 p.img
        fabricTrap { g with reload := [] } 2 r.toNat) s

end Sys2Proof.Machine
end

