-- ==== Sys2Proof/Machine/Sched.lean ====
section
/-! DEFINITION. What the Dealer decides from: queues and their heads, refusal, candidates, placement, budgets, holds,
and the start of a pre-emption (R171 to R175, R344, R366, R367, R379 to R390). -/

namespace Sys2Proof.Machine

/-! ### Queues (R379, R380) -/

/-- The Dealer serves a tenant (R379, R401, R175): it exists, its entry is enabled, it is not drained by an escalation, nor in
reset. -/
def State.served (s : State) (t : Nat) : Bool :=
  (s.root.vf[t]?).getD false && (s.tenantEntry t 0).getLsbD 63 && !s.dealer.drained.contains (BitVec.ofNat 6 t) && !s.inReset (BitVec.ofNat 6 t)

def State.qfirst (s : State) (t : Nat) : Nat := bits (s.tenantEntry t 1) 0 15
def State.qcount (s : State) (t : Nat) : Nat := bits (s.tenantEntry t 1) 32 15

/-- The tenant a global queue is served for: the lowest enabled one whose partition holds it (R379). -/
def State.queueOwner (s : State) (q : Nat) : Option Nat :=
  if 16384 ≤ q then none
  else (List.range 64).find? fun t =>
    (s.tenantEntry t 0).getLsbD 63 && s.qfirst t ≤ q && q < s.qfirst t + s.qcount t

/-- The offset of register i of local queue q (R380). -/
def wqOff (q i : Nat) : Nat := 0x10_0000 + 32 * q + 8 * i

/-- A queue's place: tenant, region, ring, QLOG, head, tail (R380, R171). -/
structure Ring where
  tenant : BitVec 6
  region : Nat
  base   : Nat
  qlog   : Nat
  head   : Nat
  tail   : Nat

/-- A queue that is served, its region's path without LOCK (R172), with what hardware reads of it; the ring of a region beyond RCOUNT too, whose records are refused
(R382). -/
def State.ring? (s : State) : QueueId → Option Ring
  | .hw q => match s.queueOwner q with
    | none => none
    | some t =>
      let f := t + 1
      let l := q - s.qfirst t
      let b := s.reg f (wqOff l 0)
      let qlog := bits b 0 5
      if s.served t && b.getLsbD 63 && 1 ≤ qlog && qlog ≤ 16 then
        some ⟨BitVec.ofNat 6 t, bits (s.reg f (wqOff l 1)) 0 16, bits b 6 46 * 64, qlog, bits (s.reg f (wqOff l 3)) 0 32,
          bits (s.reg f (wqOff l 2)) 0 32⟩
      else none
  | .ring t r => match s.nodeAt t.toNat r with
    | none => none
    | some n =>
      let path := s.path t.toNat r
      let usable := if r < s.rcount t.toNat then pathOk t.toNat path && !(path.any (·.lock)) else n.ok t.toNat
      if s.served t.toNat && usable && !n.lock then
        some ⟨t, r, n.qbase, n.qlog, n.qhead, n.qtail⟩
      else none

/-- The head of a task's queue moves past its record (R384); not in a queue enabled anew meanwhile. -/
def State.advanceHead (s : State) (t : Task) : State :=
  match t.q with
  | .hw q =>
    let off := wqOff (q - s.qfirst t.tenant.toNat) 3
    let w := setBits (s.reg t.func off) 62 1 0
    s.setReg t.func off (if bits w 0 32 = t.seq then setBits w 0 32 (t.seq + 1) else w)
  | .ring u r => match s.nodeAt u.toNat r with
    | none => s
    | some n =>
      let v := (setBits (n.at_ 5) 0 32 (n.qhead + 1)).toNat
      { s with ms := s.ms.msuWrite (s.nodeAddr u.toNat r + 40) 8 v }

/-- BLK of a hardware queue (R380). -/
def State.setBlk (s : State) (t : Task) (b : Bool) : State :=
  match t.q with
  | .hw q =>
    let off := wqOff (q - s.qfirst t.tenant.toNat) 3
    s.setReg t.func off (setBits (s.reg t.func off) 62 1 (if b then 1 else 0))
  | .ring .. => s

/-- A task that is the head of its queue: fetched and not yet dealt. -/
def Task.isHead (t : Task) : Bool := match t.st with
  | .queued | .blocked | .ready => true
  | _ => false

/-- A queue already has its head record in the Dealer (R384). -/
def State.hasHead (s : State) (q : QueueId) : Bool := s.dealer.tasks.any fun t => t.q == q && t.isHead

/-- A record that starts no task (R382, R385): consumed, its completion word written, its message sent. -/
def consume (t : Task) (status : Nat) : X Unit := do
  modify fun s => s.advanceHead t
  complete t true status false
  modify fun s => s.putTask { t with st := .ended, hold := none }

/-! ### Refusal (R382) -/

/-- Cores of a domain of an affinity level (R381). -/
def domainSize (aff : Nat) : Nat := 4 ^ (aff + 1)

def domainOf (aff : Nat) (c : CoreId) : Nat := c.toNat / domainSize aff

def domainCores (aff d : Nat) : List CoreId := (List.range (domainSize aff)).map fun i => BitVec.ofNat 8 (d * domainSize aff + i)

def domains (aff : Nat) : List Nat := List.range (256 / domainSize aff)

/-- A record that is malformed (R382). -/
def Task.malformed (t : Task) (rcount : Nat) : Bool :=
  bits (t.dw 1) 59 5 != 0 || bits (t.dw 3) 56 8 != 0 || bits (t.dw 4) 56 8 != 0 || bits (t.dw 5) 56 8 != 0 ||
    bits (t.dw 5) 0 8 != 0 || bits (t.dw 6) 56 8 != 0 || bits (t.dw 6) 0 3 != 0 || 4 < t.ndep || 4 < t.nsig ||
    domainSize t.aff < t.gang || rcount ≤ t.region

/-- A core withdrawn permanently (R98). -/
def Core.withdrawn (k : Core) : Bool := k.slices < 16

/-- The gang of a task that has not been dealt can never be placed (R385). -/
def State.unplaceable (s : State) (t : Task) : Bool :=
  (domains t.aff).all fun d => ((domainCores t.aff d).filter fun c => !(s.core c).withdrawn).length < t.gang

/-- A member holds an open pot, or a join that keeps it on its core (R345). -/
def Core.anchored (k : Core) : Bool :=
  !k.acn.pots.isEmpty || k.acn.joins.toList.any fun e => e.st == .pending || e.st == .granted || e.st == .spilled

/-- A SAVED task resumes only on the cores it left (R174, R345). -/
def State.anchored (s : State) (t : Task) : Bool := 2 ≤ t.gang || (s.savedOf t.id).any (·.body.anchored)

/-- A SAVED task whose cores can no longer qualify (R174): withdrawn, or left with fewer slices. -/
def State.stranded (s : State) (t : Task) : Bool :=
  let ctx := s.savedOf t.id
  let lost := fun (c : CoreId) (n : Nat) => (s.core c).withdrawn || (s.core c).slices < n
  if s.anchored t then ctx.any fun x => lost x.core x.slices
  else ctx.any fun x => (domainCores t.aff t.domain).all fun c => lost c x.slices

/-- Every head record and SAVED gang examined again after a core was withdrawn or lost slices (R385, R174). -/
def strandCheck : X Unit := do
  for t in (← get).dealer.tasks do
    let s ← get
    match s.task t.id with
    | none => pure ()
    | some t =>
      if t.isHead && s.unplaceable t then consume t endSTRANDED
      else if t.st = .saved && s.stranded t then atomically (abnormalEnd t.id true endSTRANDED)
      else pure ()

/-! ### Candidates and rank (R386, R387) -/

/-- A candidate of a round: a SAVED task or a READY head, with the path of its region. -/
structure Cand where
  t    : Task
  path : List Node
  deriving DecidableEq, Repr

def Cand.prio (c : Cand) : Nat := effPrio c.path

/-- A task as a candidate: its path holds no invalid node and no LOCK (R386). -/
def State.candidate (s : State) (t : Task) : Option Cand :=
  let p := s.path t.tenant.toNat t.region
  if (t.st = .ready || t.st = .saved) && s.served t.tenant.toNat && pathOk t.tenant.toNat p && !(p.any (·.lock)) then
    some ⟨t, p⟩
  else none

/-- The order of the queues of one region (R387): its own ring, then hardware queues by number. -/
def queueRank : QueueId → Nat
  | .ring .. => 0
  | .hw q => q + 1

/-- a comes before b (R387). -/
def Cand.before (a b : Cand) : Bool :=
  let def_ := fun (c : Cand) => match c.path with
    | [] => (0 : Int)
    | n :: _ => n.deficit
  if a.prio != b.prio then b.prio < a.prio
  else if def_ a != def_ b then def_ b < def_ a
  else if a.t.tenant != b.t.tenant then a.t.tenant.toNat < b.t.tenant.toNat
  else if a.t.region != b.t.region then a.t.region < b.t.region
  else if (a.t.st == .saved) != (b.t.st == .saved) then a.t.st == .saved
  else if a.t.st = .saved then a.t.since < b.t.since
  else queueRank a.t.q < queueRank b.t.q

/-- A list sorted by a comparison. -/
def insertBy {α : Type} (before : α → α → Bool) (x : α) : List α → List α
  | [] => [x]
  | y :: ys => if before x y then x :: y :: ys else y :: insertBy before x ys

def sortBy {α : Type} (before : α → α → Bool) (l : List α) : List α := l.foldr (insertBy before) []

/-- The candidates in order of rank. -/
def State.candidates (s : State) : List Cand := sortBy Cand.before (s.dealer.tasks.filterMap s.candidate)

/-! ### Placement (R387, R388) -/

/-- A slice of the core waits to be retired (R98). -/
def Core.retiring (k : Core) : Bool := !k.tk.retire.isEmpty && (k.csrAt 0x130).getLsbD 0

/-- A core is free and in the pool (R386); one with a slice still to be retired is withdrawn first (R391). -/
def Core.isFree (k : Core) : Bool := k.tk.task.isNone && k.tk.pool && !k.retiring

def State.freeIn (s : State) (cores : List CoreId) : List CoreId := cores.filter fun c => (s.core c).isFree

/-- Place (R387) among cores S, with the slices a saved context needs (R98). -/
def State.place (s : State) (t : Task) (S : List CoreId) : Option (List CoreId) :=
  let own := t.st == .saved && s.anchored t
  if own then
    let cs := (sortBy (fun (a b : SavedCtx) => a.rank < b.rank) (s.savedOf t.id)).map (·.core)
    if (cs.all S.contains) && !s.stranded t then some cs else none
  else
    let need := ((s.savedOf t.id).map (·.slices)).foldl max 0
    let S := S.filter fun c => need ≤ (s.core c).slices
    let ds := (domains t.aff).filter fun d => t.st != .saved || d == t.domain
    let ok := ds.filterMap fun d =>
      let cs := (domainCores t.aff d).filter S.contains
      if t.gang ≤ cs.length then some (cs.length, d, cs) else none
    match sortBy (fun (a b : Nat × Nat × List CoreId) => a.1 < b.1 || (a.1 == b.1 && a.2.1 < b.2.1)) ok with
    | [] => none
    | (_, _, cs) :: _ => some (cs.take t.gang)

/-- The cores of a set that a candidate may be dealt on: held cores only for their holder or a higher priority
(R388). -/
def State.allowed (s : State) (c : Cand) (S : List CoreId) : List CoreId :=
  let holds := s.dealer.tasks.filterMap fun u => match u.hold with
    | some cs => if u.id != c.t.id && c.prio ≤ effPrio (s.pathOf u) then some cs else none
    | none => none
  S.filter fun x => !holds.any fun cs => cs.contains x

/-- Cores held by the tasks of the subtree of node n of a tenant, by the paths they were dealt under (R386, R172). -/
def State.subtreeCores (s : State) (t : BitVec 6) (n : Nat) : Nat :=
  s.dealer.tasks.foldl (fun a u =>
    if u.tenant == t && u.holds && (u.dealt.any fun (m : Node) => m.id == n) then a + u.cores.length else a) 0

/-- The budgets at every node of a path (R171, R386). -/
def State.budget (s : State) (t : BitVec 6) (n : Nat) : List Node → Bool
  | [] => true
  | m :: rest => s.subtreeCores t m.id + n ≤ eff (m :: rest) 2 Node.maxcores && s.budget t n rest

/-- Save slots free in a region: those of its live members are taken (R173). -/
def State.freeSlots (s : State) (t : Task) (slotlog n : Nat) : Option (List Nat) :=
  let used := s.dealer.tasks.flatMap fun u =>
    if u.tenant == t.tenant && u.region == t.region && u.st != .ended then u.slots else []
  let free := ((List.range (min (2 ^ slotlog) (used.length + n))).filter fun i => !used.contains i).take n
  if free.length = n then some free else none

/-- A task waits whose EffPrio is not lower, and would use one of the task's cores or holds one of them (R389). -/
def State.wanted (s : State) (t : Task) : Bool :=
  let p := effPrio (s.pathOf t)
  let free := s.freeIn allCores
  s.candidates.any fun c => p ≤ c.prio && (p != 15 || c.prio == 15) &&
    ((match c.t.hold with
      | some cs => cs.any t.cores.contains
      | none => false) ||
     match s.place c.t (s.allowed c (allCores.filter fun x => free.contains x || t.cores.contains x)) with
      | some d => d.any t.cores.contains
      | none => false)

/-! ### Beginning a pre-emption (R344, R366, R367) -/

/-- A pot that defers a pre-emption: not complete, not spilled (R344). -/
def Core.openPot (k : Core) : Bool := k.acn.pots.any fun p => !p.complete && !p.spilled

/-- A member asked to stop: PREEMPT first where supervisor code wants it (R367). -/
def Core.askStop (k : Core) : Core :=
  let stage : Preempt := if k.pvis && !k.tf && !k.tk.finished then .due else .stopping
  { k with tk := { k.tk with preempt := stage } }

/-- Every member of a running task changed. -/
def State.modMembers (s : State) (t : Task) (f : Core → Core) : State :=
  t.cores.foldl (fun s c => if (s.core c).tk.task = some t.id then s.modCore c f else s) s

/-- A member of the task holds an open pot (R344). -/
def State.potsOpen (s : State) (t : Task) : Bool := t.cores.any fun c => (s.core c).tk.task == some t.id && (s.core c).openPot

/-- No pre-emption of the task is under way. -/
def State.undisturbed (s : State) (t : Task) : Bool :=
  t.st == .running && t.cores.all fun c => (s.core c).tk.preempt == .none

/-- The deferral of a task ends: the pots still open are spilled, and the members asked to stop (R344, R345). -/
def State.endDeferral (s : State) (t : Task) : State :=
  (t.cores.foldl (fun (s : State) c => if (s.core c).tk.task = some t.id then s.spillPots c else s) s).modMembers t Core.askStop

/-- The pre-emption of a gang decided (R366): deferred while a member holds an open pot, unless POTDEFER is 0 (R344). -/
def State.preempt (s : State) (t : Task) : State :=
  if !s.undisturbed t then s
  else if s.potsOpen t && eff (s.pathOf t) 9 Node.potdefer != 0 then
    s.modMembers t fun k => { k with tk := { k.tk with preempt := .deferred } }
  else s.endDeferral t

end Sys2Proof.Machine
end

