-- ==== Sys2Proof/Machine/Dealer.lean ====
section
/-! DEFINITION. The Dealer: fetching launch records, dependence counters, decision rounds, dealing, holds and quanta
(R170 to R176, R319, R351, R372, R373, R381 to R390). -/

namespace Sys2Proof.Machine

/-! ### Fetch and dependences (R380 to R384) -/

/-- A record's 64 bytes read at its ring place (R380), at the home of its line: none where the place is outside the tenant's windows or a host
page is refused; a host-window address is translated by ATS. -/
def readRecord (r : Ring) : X (Option (Nat × Bool)) := do
  let s ← get
  let raw := r.base + 64 * (r.head % 2 ^ r.qlog)
  let pa := s.localize raw
  if !s.inWindows r.tenant raw 64 then return none
  else if inDevice pa then
    let v := s.peek pa 64
    return some v
  else if inHostWindow pa then
    let c := s.dealerCtx r.tenant
    match ← (fun s => match atsTranslate c 7 0 pa 0 s with
        | .ok ga t => .ok (some ga) t
        | .error (.wait w) t => .error (.wait w) t
        | .error _ t => .ok none t : X (Option Nat)) with
    | some ga =>
      let (ms, v, bad) := (← get).ms.homeRead ga 64
      modify fun s => { s with ms := ms }
      return some (v, bad)
    | none => return none
  else if 2 ^ 42 ≤ pa && s.reachable (pa / 2 ^ 42) && !s.links.refuse.contains (pa / 2 ^ 42) &&
      !s.links.silent.contains (pa / 2 ^ 42) then return some (s.ms.rd pa 64, false)
  else return none

/-- The wait counters of a head record read (R384): none where one faults (MAPFAULT), else whether all are zero. -/
def readCounters (t : Task) : X (Option Bool) := do
  (List.range t.ndep).foldlM (fun (acc : Option Bool) k => do
    match acc with
    | none => return none
    | some b =>
      match ← dealerMsu t.tenant 0 (t.waitAt k) fun _ => none with
      | none => return none
      | some v => return some (b && v == 0)) (some true)

/-- A head record whose counters have been read becomes READY or BLOCKED (R170, R384). -/
def judgeHead (t : Task) : X Unit := do
  match ← readCounters t with
  | none => consume t endMAPFAULT
  | some true => modify fun s =>
      let s := { s with dealer := { s.dealer with clock := s.dealer.clock + 1 } }
      (s.setBlk t false).putTask { t with st := .ready, since := s.dealer.clock, age := 0, polled := 0, due := false }
  | some false => modify fun s => (s.setBlk t true).putTask { t with st := .blocked, polled := 0, due := false }

/-- LAUNCH_RECORD_FETCH (R384): the head record of a queue, refused (R382, R373, R385) or examined. -/
def execLaunchRecordFetch (q : QueueId) (s : State) : Out := event (do
  let s ← get
  whenever (!s.dealer.paused && !s.hasHead q)
  match s.ring? q with
  | none => notNow
  | some r =>
    whenever (r.head != r.tail)
    match ← readRecord r with
    | none => notNow
    | some (v, bad) =>
      let s ← get
      let t : Task :=
        { id := s.dealer.next, q := q, seq := r.head, launch := elemsOf 64 v 8 |>.map toWord, tenant := r.tenant
          region := r.region, st := .queued, cores := [], slots := [], domain := 0, since := 0, age := 0, hold := none
          dealt := [], q0 := 0, polled := 0, due := false }
      set { s with dealer := { s.dealer with next := s.dealer.next + 1, tasks := s.dealer.tasks ++ [t] } }
      if bad || t.malformed (s.rcount r.tenant.toNat) then consume t endBADREC
      else if t.codegen.toNat < (s.reg t.func 0x4_0010).toNat then consume t endUNLOADED
      else if s.unplaceable t then consume t endSTRANDED
      else judgeHead t) s

/-- BLOCKED_HEAD_REREAD (R384): a signal has reached zero, ENQ has been executed, or 16 us have passed. -/
def execBlockedHeadReread (q : QueueId) (s : State) : Out := event (do
  match (← get).dealer.tasks.find? fun t => t.q == q && t.st == .blocked with
  | none => notNow
  | some t =>
    whenever (t.due || 16 ≤ t.polled)
    judgeHead t) s

/-! ### Dealing (R173, R176) -/

/-- The images of a binding set, read as FBIND would read them (R319): slot, plane; a slot whose image fails stays
unbound. -/
def readBindings (t : Task) (c : CoreId) : X (Option (List (Nat × Plane))) := do
  if t.bind = 0 then return some []
  else
    match ← dealerLoad t.tenant (canon56 t.bind) 64 with
    | none => return none
    | some addrs =>
      let x := { (← get).dealerCtx t.tenant with core := c }
      let r ← ((List.range 64).zip addrs).filterMapM fun (p : Nat × Nat) => do
        if p.2 = 0 || p.2 % 256 != 0 || !canonical (toWord p.2) then return (none : Option (Nat × Plane))
        else
          (fun s => match quiet (readImage x (imageName (toWord p.2))) s with
            | .ok (0, some v) u => .ok (some (p.1, v)) u
            | .error (.wait w) u => .error (.wait w) u
            | .ok _ u => .ok none u
            | .error _ u => .ok none u : X (Option (Nat × Plane)))
      return some r

/-- The fabric of a member at its start: no plane of another task, the binding set bound slot by slot (R319). -/
def startFabric (binds : List (Nat × Plane)) : Fabric :=
  binds.foldl (fun (f : Fabric) b =>
    let f := f.fillPlane (f.victim true) b.2.img (some b.2)
    { f with slots := f.slots.setIfInBounds b.1 (some b.2.bound) }) Fabric.reset

/-- The bytes of a gang map as dwords (R173). -/
def gangMap (cores : List CoreId) : List Nat :=
  let byte := fun (i : Nat) => match cores[i]? with
    | some c => c.toNat
    | none => 0xFF
  (List.range 32).map fun i => ofElems 8 ((List.range 8).map fun j => byte (8 * i + j))

/-- The deficit of a region changed, within -2^31 and 2^31 - 1 (R387). -/
def State.setDeficit (s : State) (t : BitVec 6) (r : Nat) (f : Int → Int) : State :=
  match s.node? t.toNat r with
  | none => s
  | some n =>
    let d := max (-2 ^ 31) (min (2 ^ 31 - 1) (f n.deficit))
    if d = n.deficit then s
    else { s with ms := s.ms.msuWrite (s.nodeAddr t.toNat r + 64) 8 (setBits (n.at_ 8) 32 32 (wrap 32 d)).toNat }

/-- The cluster of a dealt core is powered (R118). -/
def State.powerUp (s : State) (c : CoreId) : State :=
  if s.ms.gated.contains (clusterOf c) then { s with ms := { s.ms with gated := s.ms.gated.filter (· != clusterOf c) } } else s

/-- A member of a new gang placed on its core in its start state (R176, R351): its start is an acquire at SYSTEM scope
(R164), and the descriptors cached under its ASID are read again (R101). -/
def State.startMember (s : State) (t : Task) (c : CoreId) (rank slot : Nat) (stack : Nat) (fab : Fabric) : State :=
  let s := (s.powerUp c).acquire c 5
  let s := s.modCore c fun k => s.started k t rank slot t.gangScope stack fab
  let a := (s.core c).asid
  { s with ms := { s.ms with desc := s.ms.desc.filter fun e =>
      !(e.cluster == clusterOf c && e.tenant == t.tenant && e.asid == a) } }

/-- A READY task dealt on its cores (R173): false when no save slot is free; MAPFAULT consumes the record. -/
def dealNew (c : Cand) (cores : List CoreId) : X Bool := do
  let t := c.t
  let s ← get
  let n := match c.path with
    | [] => 0
    | n :: _ => n.slotlog
  match s.freeSlots t n t.gang with
  | none => return false
  | some slots =>
    let mapped ← if t.gang = 1 then pure true else dealerStore t.tenant (canon56 t.gmap) (gangMap cores)
    if !mapped then
      consume t endMAPFAULT
      return false
    match ← readBindings t (cores.headD 0) with
    | none =>
      consume t endMAPFAULT
      return false
    | some binds =>
      let t := { t with st := .running, cores := cores, slots := slots, domain := domainOf t.aff (cores.headD 0), age := 0
                        hold := none, dealt := c.path, q0 := 0 }
      modify fun s =>
        let s := (s.advanceHead t).release.putTask t
        let base := eff c.path 11 Node.stkbase
        let log := eff c.path 11 Node.stklog
        let s := ((List.range t.gang).zip (cores.zip slots)).foldl (fun (s : State) m =>
          s.startMember t m.2.1 m.1 m.2.2 ((base + (m.2.2 + 1) * 2 ^ log) % 2 ^ 64) (startFabric binds)) s
        (s.addRunCores t.tenant t.region t.gang).setDeficit t.tenant t.region (· - 64 * t.gang)
      return true

/-- A SAVED task dealt again: its members are to be restored (R370). -/
def State.dealSaved (s : State) (t : Task) (cores : List CoreId) : State :=
  let t := { t with st := .restoring, cores := cores, age := 0, hold := none, q0 := 0
                    dealt := s.path t.tenant.toNat t.region }
  let s := s.putTask t
  let s := ((List.range t.gang).zip (cores.zip t.slots)).foldl (fun (s : State) m =>
    (s.powerUp m.2.1).modCore m.2.1 fun k => { k with tk := { k.tk with
      task := some t.id, tenant := t.tenant, rank := m.1, slot := m.2.2, finished := false, preempt := .restoring } }) s
  (s.addRunCores t.tenant t.region t.gang).setDeficit t.tenant t.region (· - 64 * t.gang)

/-! ### Rounds (R386, R387) -/

/-- A unit's cores, and whether it deals an affinity level: the root unit for package affinity, a die's for the others. -/
structure DealUnit where
  cores : List CoreId
  root  : Bool

def DealUnit.deals (u : DealUnit) (c : Cand) : Bool := (c.t.aff == 3) == u.root

/-- Band 15 (R389): a candidate that free cores beside those promised to better ones cannot place is promised those that are being
left, and pre-empts what it still lacks: victims by lowest EffPrio, then longest run, then lowest core, as few as the
placement allows. The cores promised then. -/
def State.trump (s : State) (c : Cand) (promised : List CoreId) : State × List CoreId :=
  let prio := fun (t : Task) => effPrio (s.pathOf t)
  let lowest := fun (t : Task) => t.cores.foldl (fun m (x : CoreId) => min m x.toNat) 256
  let vs := sortBy (fun (a b : Task) => prio a < prio b || (prio a == prio b && (b.age < a.age ||
      (a.age == b.age && lowest a < lowest b))))
    (s.dealer.tasks.filter fun t => s.undisturbed t && prio t < 15 && 1000 ≤ t.age)
  let free := s.freeIn allCores
  let leaving := s.dealer.tasks.filter fun t => t.st == .saving || (t.st == .running && !s.undisturbed t)
  let spot := fun (ts : List Task) => s.place c.t (s.allowed c (allCores.filter fun x =>
    !promised.contains x && (free.contains x || ts.any fun t => t.cores.contains x)))
  match spot [] with
  | some d => (s, d ++ promised)
  | none => match (List.range (vs.length + 1)).find? fun i => (spot (leaving ++ vs.take i)).isSome with
    | none => (s, promised)
    | some n =>
      let chosen := (vs.take n).reverse.foldl (fun (ts : List Task) t =>
        let rest := ts.filter (·.id != t.id)
        if (spot (leaving ++ rest)).isSome then rest else ts) (vs.take n)
      (chosen.foldl (fun s t => s.preempt t) s, (spot (leaving ++ chosen)).getD [] ++ promised)

/-- Every candidate of band 15 that its budgets let through looks for room, the best first, over the whole package (R389). -/
def State.trumpAll (s : State) : State :=
  ((s.candidates.filter fun c => c.prio = 15 && s.budget c.t.tenant c.t.gang c.path).foldl
    (fun (acc : State × List CoreId) c => acc.1.trump c acc.2) (s, [])).1

/-- The regions in which work waits: of tasks READY or SAVED, and of rings that hold records. -/
def State.waitingRegions (s : State) : List (BitVec 6 × Nat) :=
  let tasks := (s.dealer.tasks.filter fun t => t.st == .ready || t.st == .saved).map fun t => (t.tenant, t.region)
  let rings := ((List.range 64).filter fun t => s.served t).flatMap fun t =>
    ((List.range (s.rcount t)).filter fun r => (s.node? t r).any fun n => n.qhead != n.qtail).map fun r => (BitVec.ofNat 6 t, r)
  (tasks ++ rings).dedup

/-- An invalid node, or a descendant of one, in whose region work waits is logged once (R171); none is judged while a node of its
path has LOCK (R172). -/
def State.noteInvalid (s : State) : State :=
  let bad := s.waitingRegions.filter fun w => s.served w.1.toNat && !((s.path w.1.toNat w.2).any (·.lock)) &&
    !pathOk w.1.toNat (s.path w.1.toNat w.2)
  let s := (bad.filter fun w => !s.dealer.noted.contains w).foldl (fun (s : State) w =>
    s.elog (w.1.toNat + 1) 7 1 0xFF 0 (toWord (s.nodeAddr w.1.toNat w.2)) (toWord w.2)) s
  { s with dealer := { s.dealer with noted := bad } }

/-- One candidate examined in a round; the regions left waiting are collected. -/
def dealOne (u : DealUnit) (waiting : List (BitVec 6 × Nat)) (c : Cand) : X (List (BitVec 6 × Nat)) := do
  let s ← get
  let place := s.place c.t (s.allowed c (s.freeIn u.cores))
  let dealt ← match place with
    | none => pure false
    | some d =>
      if !s.budget c.t.tenant c.t.gang c.path then pure false
      else if c.t.st = .saved then
        set (s.dealSaved c.t d)
        pure true
      else (fun s => match atomically (dealNew c d) s with
        | .error _ t => .ok false t
        | r => r : X Bool)
  if dealt then return waiting
  else
    return if waiting.contains (c.t.tenant, c.t.region) then waiting else (c.t.tenant, c.t.region) :: waiting

/-- The regions of a tenant that the Dealer may write to: valid and not locked. -/
def State.quietRegions (s : State) (t : Nat) : List Nat :=
  (List.range (s.rcount t)).filter fun r => match s.node? t r with
    | some n => n.ok t && !n.lock && n.deficit != 0
    | none => false

/-- A round of one unit (R387). -/
def round (u : DealUnit) : X Unit := do
  modify fun s => s.readTable.noteInvalid
  let cands := (← get).candidates
  let mine := cands.filter u.deals
  let waiting ← mine.foldlM (dealOne u) []
  modify fun s => waiting.foldl (fun (s : State) w =>
    s.setDeficit w.1 w.2 (· + max (eff (s.path w.1.toNat w.2) 7 Node.drrw) 1)) s
  modify fun s => ((List.range 64).filter fun t => s.served t).foldl (fun (s : State) t =>
    (s.quietRegions t).foldl (fun (s : State) r =>
      if cands.any fun c => c.t.tenant.toNat == t && c.t.region == r then s
      else s.setDeficit (BitVec.ofNat 6 t) r fun _ => 0) s) s
  modify State.trumpAll

/-- DECISION_ROUND (R386, R387): the dealer unit of a die, once after each round of the root unit. -/
def execDecisionRound (die : BitVec 2) (s : State) : Out := event (do
  let s ← get
  whenever (!s.dealer.paused && !s.dealer.rounds.contains die)
  set { s with dealer := { s.dealer with rounds := die :: s.dealer.rounds } }
  round ⟨allCores.filter fun c => dieOf c == die, false⟩) s

/-- ROOT_DECISION_ROUND (R386): package affinity, ahead of the rounds of the dies, and DSEQ advances; a round is a microsecond of
every wait. -/
def execRootDecisionRound (s : State) : Out := event (do
  let s ← get
  whenever (!s.dealer.paused && [0, 1, 2, 3].all s.dealer.rounds.contains)
  set { s with dealer := { s.dealer with rounds := [] } }
  round ⟨allCores, true⟩
  modify fun s =>
    let s := s.setReg 0 0x4_0018 (s.reg 0 0x4_0018 + 1)
    { s with dealer := { s.dealer with tasks := s.dealer.tasks.map fun t =>
      { t with age := t.age + 1, polled := t.polled + 1 } } }) s

/-! ### Holds and quanta (R388, R389) -/

/-- The domain a holding task is given (R388). -/
def State.holdDomain (s : State) (c : Cand) : Option (List CoreId) :=
  let busy := s.dealer.tasks.flatMap fun t => t.hold.getD []
  if c.t.st = .saved then
    let own := (s.savedOf c.t.id).map (·.core)
    if own.any busy.contains then none else some own
  else
    let score := fun (d : Nat) => ((domainCores c.t.aff d).filter fun x =>
      let k := s.core x
      k.isFree || match k.tk.task.bind s.task with
        | some t => effPrio (s.pathOf t) ≤ c.prio
        | none => false).length
    let ds := (domains c.t.aff).filter fun d => !(domainCores c.t.aff d).any busy.contains
    match sortBy (fun (a b : Nat) => score b < score a || (score a == score b && a < b)) ds with
    | [] => none
    | d :: _ => some (domainCores c.t.aff d)

/-- HOLD_BEGIN (R388): a gang that has waited longer than HOLDLIM, the oldest first. -/
def execHoldBegin (task : Nat) (s : State) : Out := event (do
  let s ← get
  match (s.task task).bind s.candidate with
  | none => notNow
  | some c =>
    let ripe := fun (d : Cand) => 2 ≤ d.t.gang && d.t.hold.isNone && eff d.path 10 Node.holdlim < d.t.age &&
      (s.holdDomain d).isSome
    whenever (ripe c && !(s.candidates.any fun d => ripe d && d.t.since < c.t.since))
    match s.holdDomain c with
    | none => notNow
    | some cs => set (s.putTask { c.t with hold := some cs })) s

/-- QUANTUM_EXPIRY (R389): the gang is pre-empted when a candidate wants its cores; else a new quantum begins. -/
def execQuantumExpiry (task : Nat) (s : State) : Out := event (do
  let s ← get
  match s.task task with
  | none => notNow
  | some t =>
    whenever (s.undisturbed t && eff (s.pathOf t) 8 Node.quantum ≤ t.age - t.q0)
    if s.wanted t then set (s.preempt t) else set (s.putTask { t with q0 := t.age })) s

/-- POTDEFER_DEADLINE (R344): the deferral ends at its deadline, or when no member holds an open pot; pots still open are
spilled, and every joiner with unspent antes is told (R345). -/
def execPotdeferDeadline (task : Nat) (s : State) : Out := event (do
  let s ← get
  match s.task task with
  | none => notNow
  | some t =>
    whenever (t.st == .running && t.cores.any fun c => (s.core c).tk.preempt == .deferred)
    set (s.endDeferral t)) s

/-- GENERATION_RECORD (R372): a core without a task records the current generation. -/
def execGenerationRecord (c : CoreId) (s : State) : Out := event (do
  whenever ((← get).core c).tk.task.isNone
  modify fun s => s.modCore c fun k => { k with tk := { k.tk with gen := s.gcur } }) s

end Sys2Proof.Machine
end

