-- ==== Sys2Proof/Machine/Shootdown.lean ====
section
/-! DEFINITION. The events of translation: page walks, the host's answers to ATS and PRI requests, ATS invalidations,
shootdowns and writes of tenant windows (R22, R24, R29, R37 to R43). -/

namespace Sys2Proof.Machine

/-! ### Walks and host pages -/

/-- PAGE_WALK (R29, R43): a read of an address by a core's task is translated by a walk, which fills the TLBs; a walk that
faults leaves nothing cached. -/
def execPageWalk (c : CoreId) (va : BitVec 56) (s : State) : Out := event (do
  let s ← get
  whenever (s.core c).tk.task.isSome
  let _ ← resolveGlobal (s.ctxOf c) (va.signExtend 64) { kind := 0, n := 1, rewalk := true } anyFormat) s

/-- The ATC entries that one tenant may hold whatever the others do, those all tenants share, and the page requests a
function may have outstanding (R37). -/
def atcOwn : Nat := 256
def atcShared : Nat := 16384
def priLimit : Nat := 512

/-- A translation cached in the ATC (R37): a function beyond its own entries takes shared ones, and where none is free its
oldest entry gives way. -/
def MemSys.atcInstall (ms : MemSys) (e : AtcEntry) : MemSys :=
  let rest := ms.atc.filter fun o => !(o.func == e.func && o.page == e.page)
  let mine := rest.filter (·.func == e.func)
  let shared := (List.range 65).foldl (fun n f => n + ((rest.filter (·.func == f)).length - atcOwn)) 0
  if mine.length < atcOwn || shared < atcShared then { ms with atc := e :: rest }
  else match mine.getLast? with
    | some old => { ms with atc := e :: rest.filter (· != old) }
    | none => { ms with atc := e :: rest }

/-- ATS_TRANSLATION_COMPLETION (R37): a granting one is cached; one that denies makes a page request. -/
def execAtsTranslationCompletion (func page host : Nat) (granted write : Bool) (s : State) : Out := event (do
  let s ← get
  whenever (s.ms.atsWait.contains (func, page))
  let ms := { s.ms with atsWait := s.ms.atsWait.filter (· != (func, page)) }
  if granted then
    set { s with ms := ms.atcInstall ⟨func, page, host, write⟩ }
  else
    set { s with ms := { ms with priWait := if ms.priWait.contains (func, page) then ms.priWait else ms.priWait ++ [(func, page)] } }) s

/-- The page requests of a function that have been sent: the oldest 512 (R37). -/
def MemSys.priSent (ms : MemSys) (func : Nat) : List (Nat × Nat) := (ms.priWait.filter (·.1 == func)).take priLimit

/-- PRI_RESPONSE (R37): Success repeats the ATS request; the others fail the accesses that wait for the page. -/
def execPriResponse (func page : Nat) (answer : PriAnswer) (s : State) : Out := event (do
  let s ← get
  whenever ((s.ms.priSent func).contains (func, page))
  let ms := { s.ms with priWait := s.ms.priWait.filter (· != (func, page)) }
  match answer with
  | .success => set { s with ms := { ms with atsWait := ms.atsWait ++ [(func, page)] } }
  | .invalid | .failure =>
    set { s with ms := ms.failSeekers fun a => a.2 == (func, page) }) s

/-- HOSTPAGE_TIMEOUT (R37): 10 ms without a granting completion since the first request of the access that has waited longest,
which fails; the requests stay outstanding. -/
def execHostpageTimeout (func page : Nat) (s : State) : Out := event (do
  let s ← get
  match s.ms.atsSeek.find? fun a => a.2 == (func, page) with
  | none => notNow
  | some a => set { s with ms := s.ms.failSeekers (· == a) }) s

/-- ATS_INVALIDATION_REQUEST (R38): the entries of the pages are removed, when every access through them has been performed, the
reply word of a running copy too; that of a suspended copy is translated again (log 62). -/
def execAtsInvalidationRequest (func page count : Nat) (s : State) : Out := event (do
  let within := fun (p : Nat) => decide (page ≤ p) && decide (p < page + count)
  let through := fun (t : BitVec 6) (_ : CopyOp) (r : ReplyPin) =>
    t.toNat + 1 == func && pteHost r.pte && within (r.pa % 2 ^ 41 / 4096)
  whenever (!(← get).replyHeld through)
  modify fun s => { s with ms := { s.ms with
    atc := s.ms.atc.filter fun e => !(e.func == func && within e.page) } }.unpinReplies through) s

/-! ### Shootdowns (R39 to R41) -/

/-- A register of the shootdown block. -/
def tiva : Nat := 0x1_0000
def tilen : Nat := 0x1_0008
def ticmd : Nat := 0x1_0010
def ticpl : Nat := 0x1_0018
def tiseq : Nat := 0x1_0020

/-- The RW fields of TICMD (R39). -/
def ticmdFields : Word := 0x1800_007F_0000_FFFF

/-- A write of TICMD (R39, R40): ERR cleared by a 1; the command fields stored; GO starts a command, or sets ERR while
BUSY. -/
def State.writeTicmd (s : State) (f : Nat) (v : Word) : State :=
  let old := s.reg f ticmd
  let old := if v.getLsbD 61 then setBits old 61 1 0 else old
  let w := (old &&& ~~~ticmdFields) ||| (v &&& ticmdFields)
  if !v.getLsbD 63 then s.setReg f ticmd w
  else if w.getLsbD 62 then s.setReg f ticmd (setBits w 61 1 1)
  else
    let d : Shoot :=
      { func := f
        target := if f = 0 then bits w 32 7 else f
        allAsid := w.getLsbD 60
        incg := w.getLsbD 59
        asid := w.extractLsb' 0 16
        vpn := bits (s.reg f tiva) 12 44
        pages := bits (s.reg f tilen) 0 32 }
    let s := s.setReg f ticmd (setBits w 62 1 1)
    { s with ms := { s.ms with shoots := s.ms.shoots ++ [d] } }

/-- TICMD_GO (R40): a write of TICMD with GO = 1. -/
def execTicmdGo (func : Nat) (value : Word) (s : State) : Out := event (do
  whenever (func ≤ 64)
  modify fun s => s.writeTicmd func (value ||| 0x8000_0000_0000_0000)) s

/-- TICMD_ERR_CLEAR (R39): a 1 written to ERR. -/
def execTicmdErrClear (func : Nat) (s : State) : Out := event (do
  modify fun s => s.setReg func ticmd (setBits (s.reg func ticmd) 61 1 0)) s

/-- Pages [vpn, vpn + n) overlap the range of a shootdown (R40). -/
def Shoot.overlaps (d : Shoot) (vpn n : Nat) : Bool := d.pages == 0 || (d.vpn < vpn + n && vpn < d.vpn + d.pages)

/-- A TLB entry is covered (R40): G entries only with INCG, whatever their ASID. -/
def Shoot.covers (d : Shoot) (e : TlbEntry) : Bool :=
  e.tenant.toNat + 1 == d.target && (if pteG e.pte then d.incg else d.allAsid || e.asid == d.asid) &&
    d.overlaps e.vpn (leafPages e.pte e.level)

/-- A page-walk cache entry is covered. -/
def Shoot.coversWalk (d : Shoot) (e : WalkEntry) : Bool :=
  e.tenant.toNat + 1 == d.target && (d.allAsid || e.asid == d.asid) &&
    d.overlaps (e.pre * 2 ^ (9 * e.level)) (2 ^ (9 * e.level))

/-- The pinned translation of a reply word as a TLB entry. -/
def ReplyPin.entry (r : ReplyPin) (t : BitVec 6) (o : CopyOp) : TlbEntry :=
  tlbOf (o.ctx t 0) (canon56 o.reply) r.pte r.level

/-- The cached translations that two predicates select removed from the whole package, and the pinned translations of reply
words with them (R24, R41; log 62). -/
def State.dropTranslations (s : State) (t : TlbEntry → Bool) (w : WalkEntry → Bool) : State :=
  let s := s.modAll fun k =>
    if k.cache.tlb.any t then { k with cache := { k.cache with tlb := k.cache.tlb.filter fun e => !t e } } else k
  { s with ms := { s.ms with l2tlb := s.ms.l2tlb.filter fun e => !t e.2, pwc := s.ms.pwc.filter fun e => !w e } }.unpinReplies
    fun tenant o r => t (r.entry tenant o)

/-- A completion word of hardware stored at a physical address inside a function's windows (R40): device memory, the
memory of another node, or a host page through the ATC; false where it is not written, as for the physical function, which has
no PASID, in the host window, and for a FUNC above 64, which names no function (DESIGN CHOICE, log 49). -/
def completionStore (func pa v : Nat) : X Bool := do
  let s ← get
  let a := s.localize pa
  let t := BitVec.ofNat 6 (func - 1)
  if 64 < func || !(func == 0 || s.inWindows t pa 8) then return false
  else if inDevice a then
    bisnpCheck a 8
    modify fun s => s.release.homeStore a 8 v
    return true
  else if 2 ^ 42 ≤ a then
    if s.reachable (a / 2 ^ 42) && !s.links.refuse.contains (a / 2 ^ 42) && !s.links.silent.contains (a / 2 ^ 42) then
      modify fun s => { s.release with ms := s.release.ms.portWrite a 8 v }
      return true
    else return false
  else if inHostWindow a && func != 0 then
    match ← (fun s => match atsTranslate { s.dealerCtx t with who := .word func } 7 0 a 1 s with
        | .ok ga t => .ok (some ga) t
        | .error (.wait w) t => .error (.wait w) t
        | .error _ t => .ok none t : X (Option Nat)) with
    | some ga =>
      modify fun s => s.release.homeStore ga 8 v
      return true
    | none => return false
  else return false

/-- SHOOTDOWN_COMPLETE (R40, R41): when no running copy holds a covered entry for its reply word (log 62), the accesses translated
through the entries are performed and the entries removed, SEQ counts, the completion word is written where TICPL points then
(DESIGN CHOICE, log 49), and BUSY clears. -/
def execShootdownComplete (func : Nat) (s : State) : Out := event (do
  let s ← get
  match s.ms.shoots.find? (·.func == func) with
  | none => notNow
  | some d =>
    whenever (!s.replyHeld fun t o r => d.covers (r.entry t o))
    let s := s.release.dropTranslations d.covers d.coversWalk
    let seq := (bits (s.reg func tiseq) 0 32 + 1) % 2 ^ 32
    set ({ s with ms := { s.ms with shoots := s.ms.shoots.filter (·.func != func) } }.setReg func tiseq (toWord seq))
    let ok ← completionStore d.target (bits (s.reg func ticpl) 3 49 * 8) seq
    modify fun s =>
      let w := setBits (s.reg func ticmd) 62 1 0
      s.setReg func ticmd (if ok then w else setBits w 61 1 1)) s

/-! ### Tenant windows (R22, R24) -/

/-- A window entry written: the accesses translated under the old windows are performed, and every cached translation of the
tenant is invalidated with it. -/
def State.writeTwin (s : State) (t w : Nat) (v : Word) : State :=
  let s := s.release.setReg 0 (0x2_0000 + 0x100 * t + 8 * w) (v &&& 0x8FFF_FFFF_FFFF_FFFF)
  s.dropTranslations (fun e => e.tenant.toNat == t) (fun e => e.tenant.toNat == t)

end Sys2Proof.Machine
end

