-- ==== Sys2Proof/Machine/MemEvents.lean ====
section
/-! DEFINITION. The events of the memory system: line fills, scatter-add passes, the patrol scrubber, host snoops,
back-invalidation, host accesses to device memory and power gating of clusters (R116 to R118, R123, R128, R137, R138, R166,
R400, R406). -/

namespace Sys2Proof.Machine

/-! ### Fills (R123) -/

/-- The page of a cached translation holds an address of Cache.lean, through the ATC for a host page: its address before
ATS, in local form. -/
def State.pageHolds (s : State) (c : CoreId) (e : TlbEntry) (a : Nat) : Option Nat :=
  let base := s.localize (ptePpn e.pte * 4096)
  let len := leafPages e.pte e.level * 4096
  if pteHost e.pte then
    match s.ms.atc.find? fun x => x.func == (s.core c).func && hostBase + x.host * 4096 ≤ a && a < hostBase + (x.host + 1) * 4096 with
    | some x =>
      let pa := 2 ^ 41 + x.page * 4096 + a % 4096
      if base ≤ pa && pa < base + len then some pa else none
    | none => none
  else if base ≤ a && a < base + len then some a
  else none

/-- LINE_FILL (R123): a line that a core may read by a translation it holds is brought to its home. -/
def execLineFill (c : CoreId) (key : LineKey) (s : State) : Out := event (do
  let s ← get
  let k := s.core c
  whenever k.tk.task.isSome
  match key with
  | .addr tag line =>
    let a := line * 256
    let found := k.cache.tlb.findSome? fun e =>
      if e.tenant == k.tk.tenant && !pteNc e.pte && !pteTb e.pte && (if pteTen e.pte then some e.tenant else none) == tag then
        (s.pageHolds c e a).bind fun pa =>
          let raw := ptePpn e.pte * 4096 / 2 ^ 42 * 2 ^ 42 + pa % 2 ^ 42
          if (inDevice pa || inHostWindow pa) && s.inWindows k.tk.tenant raw 256 then some (homeBank pa (pteHl e.pte)) else none
      else none
    match found with
    | none => notNow
    | some bank =>
      whenever (!s.ms.isGated bank)
      let _ ← fillLine key a bank
  | .tensor t asid tid gen n =>
    let x := s.ctxOf c
    whenever (t == x.tenant && asid == x.asid)
    let d ← descWell x tid.toNat 0 0
    let tiles := d.grid 0 * d.grid 1 * d.grid 2 * d.grid 3 * d.grid 4
    whenever (d.gen == gen && n < tiles && !(← get).ms.isGated (d.home (d.tileCoords n)))
    let _ ← tensorFill x d tid.toNat n 0 none) s

/-- SCATTER_ADD_PASS (R128): the chain of a word is added. -/
def execScatterAddPass (word : Nat) (s : State) : Out := event (do
  whenever ((← get).ms.chains.any (·.word == word))
  modify fun s => { s with ms := s.ms.settle (word * 8) 8 }) s

/-! ### Errors of the stacks (R137, R138) -/

/-- The function in whose name an event at a device address is logged: that of the lowest tenant with a KIND 0 window over
it, else the physical function. -/
def State.ownerOf (s : State) (pa : Nat) : Nat :=
  match (List.range 64).find? fun t => (List.range 16).any fun w =>
      twinMatch (s.twin t w) pa pa && bits (s.twin t w) 58 2 == 0 with
  | some t => t + 1
  | none => 0

/-- A segment found uncorrectable: poisoned, and its frame logged. -/
def State.poisonSegment (s : State) (g : Nat) : State :=
  let s := { s with ms := { s.ms with poison := if s.ms.poison.contains g then s.ms.poison else g :: s.ms.poison } }
  s.elog (s.ownerOf (g * 64)) 2 1 0xFF (portOf (g * 64)).1 (toWord (g * 64)) 0

/-- A corrected error counted in its frame; the frame is logged when its count passes the threshold (R138). -/
def State.countCorrected (s : State) (g : Nat) : State :=
  let frame := g / 64
  let n := 1 + match s.ms.corrected.find? (·.1 == frame) with
    | some e => e.2
    | none => 0
  let s := { s with ms := { s.ms with corrected := (frame, n) :: s.ms.corrected.filter (·.1 != frame) } }
  if n = Config.frameThreshold + 1 then
    s.elog (s.ownerOf (g * 64)) 1 0 0xFF (portOf (g * 64)).1 (toWord (frame * 4096)) (toWord n)
  else s

/-- PATROL_SCRUB (R137): a segment read by the scrubber has an error, which is corrected in place or not correctable. -/
def execPatrolScrub (segment : Nat) (corrected : Bool) (s : State) : Out := event (do
  whenever (inDevice (segment * 64))
  modify fun s => if corrected then s.countCorrected segment else s.poisonSegment segment) s

/-! ### Snoops of host lines (R117) -/

/-- The home line of a host line that the filter tracks. -/
def MemSys.snooped (ms : MemSys) (line : Nat) : Option HomeLine :=
  if ms.snoop.any fun e => e.line == line then ms.homeAt (line * 256) none else none

/-- The answer to a snoop: the home's data where it finds the line dirty (R117). -/
def State.answerSnoop (s : State) (line : Nat) : State :=
  let data := (s.ms.snooped line).bind fun h => if h.dirty = 0 then none else some h.data
  { s with ms := { s.ms with snoops := s.ms.snoops ++ [(line, data)] } }

/-- SNP_DATA (R117): the host takes the dirty data; the home keeps the line clean. -/
def execSnpData (line : Nat) (s : State) : Out := event (modify fun s =>
  let s := s.answerSnoop line
  match s.ms.snooped line with
  | some h => if h.dirty = 0 then s else { s with ms := s.ms.writeBack h }
  | none => s) s

/-- SNP_INV (R117): the host takes the dirty data; the home and the L1 copies in the presence vector drop the line, whose entry
is freed. -/
def execSnpInv (line : Nat) (s : State) : Out := event (modify fun s =>
  let s := s.answerSnoop line
  match s.ms.snoop.find? fun e => e.line == line with
  | some e => s.recallHost e
  | none => s) s

/-- SNP_CUR (R117): the host reads the current data; the caches stay as they are. -/
def execSnpCur (line : Nat) (s : State) : Out := event (modify fun s => s.answerSnoop line) s

/-! ### The host's cache of device lines (R400) -/

/-- Entries of the directory of device lines that the host caches (R400). -/
def hdmEntries : Nat := 262144

/-- BISNP_RESPONSE (R400): the host gives up the line, with its dirty data where it has any. -/
def execBisnpResponse (line : Nat) (data : Option Nat) (s : State) : Out := event (do
  let s ← get
  whenever (s.ms.bisnp.contains line)
  let ms := { s.ms with bisnp := s.ms.bisnp.filter (· != line), hdm := s.ms.hdm.filter (· != line) }
  let s := { s with ms := ms }
  set (match data with
    | some v => if inDevice (line * 256) then s.homeStore (line * 256) 256 v else s
    | none => s)) s

/-- The function in RUN whose KIND 0 window holds a device address (R406). -/
def State.confidentialAt (s : State) (pa : Nat) : Option Nat :=
  ((List.range 64).find? fun t => ((s.sec.tdi[t]?).map (· == .run)).getD false &&
    (List.range 16).any fun w => twinMatch (s.twin t w) pa pa && bits (s.twin t w) 58 2 == 0).map (· + 1)

/-- The host caches a device line, one in a window of a function in RUN only when its request is trusted, else the request is
logged (R406); a full directory first back-invalidates its oldest line. -/
def State.hostCaches (s : State) (line : Nat) (trusted : Bool) : State :=
  if !inDevice (line * 256) || s.ms.hdm.contains line then s
  else match if trusted then none else s.confidentialAt (line * 256) with
  | some f => s.elog f 15 1 0xFF 0 (toWord (line * 256)) 0
  | none =>
  if s.ms.hdm.length < hdmEntries then { s with ms := { s.ms with hdm := s.ms.hdm ++ [line] } }
  else match s.ms.hdm.head? with
    | some v => { s with ms := { s.ms with bisnp := if s.ms.bisnp.contains v then s.ms.bisnp else v :: s.ms.bisnp } }
    | none => s

/-! ### The host's own accesses (R166, R397, R406) -/

/-- Bytes written at their homes, line by line; fuel lines at most. -/
def State.writeLines (s : State) : Nat → Nat → Nat → Nat → State
  | 0, _, _, _ => s
  | fuel + 1, a, n, v =>
    if n = 0 then s
    else
      let k := min n (256 - a % 256)
      (s.homeStore a k v).writeLines fuel (a + k) (n - k) (v / 2 ^ (8 * k))

/-- HOST_MEMORY_ACCESS (R166): a host read, or write of data, of device memory, performed at the homes, its own cached lines
staying with it; in a window of a function in RUN only when it is trusted (R406). An address beyond device memory is the one fault of the model. -/
def execHostMemoryAccess (pa bytes : Nat) (data : Option Nat) (trusted : Bool) (s : State) : Out :=
  if deviceEnd < pa + bytes then .fault (.noSuchMemory pa)
  else match (s.confidentialAt pa).or (s.confidentialAt (pa + (bytes - 1))) with
    | some f =>
      if trusted then event (hostAccess) s
      else .next (s.elog f 15 1 0xFF 0 (toWord pa) 0)
    | none => event (hostAccess) s
where
  hostAccess : X Unit := modify fun s =>
    let s := { s with ms := s.ms.settle pa (max 1 bytes) }
    match data with
    | some v =>
      let t := s.writeLines (bytes / 256 + 2) pa bytes v
      { t with ms := { t.ms with hdm := s.ms.hdm, bisnp := s.ms.bisnp } }
    | none => s

/-! ### Power gating (R118) -/

/-- Every line and replica of a cluster's bank, and the L1 data caches of its cores, emptied; dirty lines are written
back. -/
def emptyBank (bank : Nat × Nat) : X Unit := do
  for h in (← get).ms.homes do
    if h.bank == bank then evictHome h.key

/-- CLUSTER_POWER_GATE (R118): not while a core of the cluster runs or saves a task. The host lines homed in the bank are recalled
with their filter entries, so that the filter never points at it. -/
def execClusterPowerGate (cl : BitVec 6) (s : State) : Out := event (do
  let s ← get
  whenever (!s.ms.gated.contains cl &&
    [0, 1, 2, 3].all fun i => (s.core (BitVec.ofNat 8 (cl.toNat * 4 + i))).tk.task.isNone)
  for e in s.ms.snoop do
    if e.bank == (0, cl.toNat) then modify fun s => s.recallHost e
  emptyBank (0, cl.toNat)
  modify fun s =>
    let s := s.modCluster cl Core.l1Clear
    { s with ms := { s.ms with
        replicas := s.ms.replicas.filter fun r => r.cluster != cl
        snoop := s.ms.snoop.map fun e => { e with presence := e.presence &&& ~~~((1 : BitVec 64) <<< cl.toNat) }
        gated := cl :: s.ms.gated } }) s

/-- CLUSTER_POWER_UP (R118): the bank is a home again, empty. -/
def execClusterPowerUp (cl : BitVec 6) (s : State) : Out := event (do
  modify fun s => { s with ms := { s.ms with gated := s.ms.gated.filter (· != cl) } }) s

end Sys2Proof.Machine
end

