-- ==== Sys2Proof/Machine/Keys.lean ====
section
/-! DEFINITION. The security engine: sessions, keys, the TDI of each function, and what leaving RUN does (R306, R357, R405 to
R407). -/

namespace Sys2Proof.Machine

/-! ### Keys (R405) -/

/-- The secured session of a function is established. -/
def State.inSession (s : State) (f : Nat) : Bool := 1 ≤ f && (s.sec.session[f - 1]?).getD false

def State.setSession (s : State) (f : Nat) (b : Bool) : State :=
  if f = 0 then s else { s with sec := { s.sec with session := s.sec.session.setIfInBounds (f - 1) b } }

/-- The TDI of a function; the physical function has none (R397). -/
def State.tdi (s : State) (f : Nat) : Option Tdi := if f = 0 then none else s.sec.tdi[f - 1]?

def State.setTdi (s : State) (f : Nat) (d : Tdi) : State :=
  if f = 0 then s else { s with sec := { s.sec with tdi := s.sec.tdi.setIfInBounds (f - 1) d } }

/-- KEY_PROVISION (R405): refused when the handle is in use or the store is full. -/
def execKeyProvision (func : Nat) (handle : BitVec 16) (key : BitVec 256) (counter : Word) (s : State) : Out := event (do
  let s ← get
  whenever (s.inSession func && !(s.sec.keys.any fun e => e.func == func && e.handle == handle) &&
    (s.sec.keys.filter (·.func == func)).length < 256 && s.sec.keys.length < 4096)
  let e : Key := { func := func, handle := handle, key := key, next := some counter }
  set { s with sec := { s.sec with keys := s.sec.keys ++ [e] } }) s

/-- KEY_DELETE (R405): slots bound to the key hold none afterwards. -/
def execKeyDelete (func : Nat) (handle : BitVec 16) (s : State) : Out := event (do
  let s ← get
  whenever (s.inSession func)
  set { s with sec := { s.sec with
    keys := s.sec.keys.filter fun e => !(e.func == func && e.handle == handle)
    slots := s.sec.slots.filter fun e => !(e.func == func && e.handle == handle) } }) s

/-- SPDM_SESSION_ESTABLISHED (R407). -/
def execSpdmSessionEstablished (func : Nat) (s : State) : Out := event (modify fun s => s.setSession func true) s

/-! ### Leaving RUN (R306, R407) -/

/-- Bytes of a scratchpad set to zero; the words that lie wholly in them lose their poison. -/
def Core.scratchZero (k : Core) (a n : Nat) : Core :=
  { k with scratch := k.scratch.filter fun c => !(a ≤ c.1 && c.1 < a + n)
           scratchPoison := k.scratchPoison.filter fun g => !(a ≤ g * 8 && g * 8 + 8 ≤ a + n) }

/-- A tile zeroized and POISONED. -/
def Core.poisonTile (k : Core) (t : Nat) (e : Tile) : Core :=
  (k.scratchZero e.start e.bytes).setTile t { e with st := .poisoned, susp := false }

/-- The bytes of its destination tile that a copy fills. -/
def CopyOp.filled (o : CopyOp) : List (Nat × Nat) :=
  if o.mode = 2 then [(o.dst.toNat * o.packBytes, o.total * o.packBytes)]
  else
    let w := o.total / max 1 o.rows
    (List.range o.rows).map fun r => (((o.dst.toNat : Int) + o.dstOff (r * w)).toNat, w)

/-- A copy stops with TDI_LOST (R90, R306): a tile that it fills has the filled bytes zeroized and is POISONED; no unit is
performed any more, and the reply word is all that is left to do (R303). -/
def Core.loseCopy (k : Core) (o : CopyOp) : Core :=
  let filling := o.dstTile.map fun t => (t.toNat, k.tile t.toNat)
  let k := k.copyTiles o stTDILOST
  let k := match filling with
    | some (t, e) =>
      (o.filled.foldl (fun (k : Core) (r : Nat × Nat) => k.scratchZero (e.start + r.1) r.2) k).setTile t { e with st := .poisoned, susp := false }
    | none => k
  let lost : CopyOp := { o with
    refused := some stTDILOST, srcTile := none, dstTile := none, u := if o.kind = 1 then 0 else o.u
    phase := if o.phase = .suspended then .running else o.phase }
  let k := { k with eng := { k.eng with copies := k.eng.copies.map fun (p : CopyOp) => if p.h == o.h then lost else p } }
  if o.phase = .suspended then k.setHandle o.h { (k.handle o.h) with status := 0 } else k

/-- Every tile of a tenant with CONF = 1 zeroized and POISONED. -/
def Core.loseTiles (k : Core) (tenant : BitVec 6) : Core :=
  (List.range 256).foldl (fun k t =>
    let e := k.tile t
    if e.v && e.tenant == tenant && e.conf then k.poisonTile t e else k) k

/-- What leaving RUN does to a core record of the tenant: its copies stop, its CONF tiles are lost, CONF_LOST is due. -/
def Core.leaveRun (k : Core) (tenant : BitVec 6) : Core :=
  let k := (k.eng.copies.foldl Core.loseCopy k).loseTiles tenant
  { k with tk := { k.tk with conf := true } }

/-- The keys of a function zeroized, its slots unbound. -/
def State.zeroizeKeys (s : State) (f : Nat) : State :=
  { s with sec := { s.sec with keys := s.sec.keys.filter (·.func != f), slots := s.sec.slots.filter (·.func != f) } }

/-- A change of every core record of a tenant: of its members on cores, and of its saved contexts. -/
def State.eachMember (s : State) (tenant : BitVec 6) (f : Core → Core) : State :=
  let s := allCores.foldl (fun (s : State) c =>
    let k := s.core c
    if k.tk.task.isSome && k.tk.tenant == tenant && k.tk.preempt != .restoring then s.setCore c (f k) else s) s
  { s with dealer := { s.dealer with saved := s.dealer.saved.map fun (x : SavedCtx) =>
    if x.body.tk.tenant == tenant then { x with body := f x.body } else x } }

/-- The TDI of a function leaves RUN (R407); its session has ended with it. -/
def State.leaveRun (s : State) (f : Nat) : State :=
  if s.tdi f != some .run then s
  else
    let tenant := BitVec.ofNat 6 (f - 1)
    let s := (s.zeroizeKeys f).eachMember tenant (·.leaveRun tenant)
    ((s.setTdi f .error).setSession f false).elog f 15 3 0xFF 0 0 0

/-- Every copy of a function stops (R306). -/
def State.stopCopies (s : State) (f : Nat) : State :=
  if f = 0 then s else s.eachMember (BitVec.ofNat 6 (f - 1)) fun k => k.eng.copies.foldl Core.loseCopy k

/-- TDI_LOCK (R406). -/
def execTdiLock (func : Nat) (s : State) : Out := event (do
  whenever ((← get).tdi func == some .unlocked)
  modify fun s => s.setTdi func .locked) s

/-- TDI_START (R406, R407): with a session. -/
def execTdiStart (func : Nat) (s : State) : Out := event (do
  let s ← get
  whenever (s.tdi func == some .locked && s.inSession func)
  set (s.setTdi func .run)) s

/-- STOP_INTERFACE (R406, R407): RUN is left for ERROR; from the other states the TDI is unlocked. -/
def execStopInterface (func : Nat) (s : State) : Out := event (do
  modify fun s =>
    if s.tdi func = some .run then s.leaveRun func
    else s.setTdi func .unlocked) s

/-- SPDM_SESSION_EXPIRY (R306, R407): the session ends, and with it every copy of the function, whatever its TDI's state. -/
def execSpdmSessionExpiry (func : Nat) (s : State) : Out := event (do
  modify fun s => (if s.tdi func = some .run then s.leaveRun func else s.stopCopies func).setSession func false) s

/-- IDE_INTEGRITY_FAILURE (R407). -/
def execIdeIntegrityFailure (func : Nat) (s : State) : Out := event (modify fun s => s.leaveRun func) s

/-- PCIE_LINK_DOWN (R407): every function in RUN leaves it. -/
def execPcieLinkDown (s : State) : Out := event (do
  modify fun s => (List.range 64).foldl (fun s i => s.leaveRun (i + 1)) s) s

/-- CONF_LOST_DELIVERY (R357, R407): the first of the events due at a boundary. -/
def execConfLostDelivery (c : CoreId) (s : State) : Out := eventOn c (do
  let k ← self
  whenever (k.boundary && k.tk.conf)
  modSelf fun k => { k with tk := { k.tk with conf := false } }
  takeAsync causeConfLost (toWord k.func)) s

end Sys2Proof.Machine
end

