-- ==== Sys2Proof/Machine/Codec.lean ====
section
/-! DEFINITION. Records of a context as bits in its image, and back (R369; the order of the fields is a DESIGN CHOICE, log 46). -/

namespace Sys2Proof.Machine

/-! ### Bits -/

/-- Fields of a record as (bits, value), lowest first. -/
abbrev Fields := List (Nat × Nat)

/-- The number that fields make. -/
def Fields.val : Fields → Nat
  | [] => 0
  | f :: fs => f.2 % 2 ^ f.1 + 2 ^ f.1 * Fields.val fs

def Fields.width (fs : Fields) : Nat := fs.foldl (fun n f => n + f.1) 0

def fBool (b : Bool) : Nat × Nat := (1, b.toNat)
def fBits {w : Nat} (b : BitVec w) : Nat × Nat := (w, b.toNat)

/-- A value that may be absent: whether it is there, then w bits. -/
def fOption (w : Nat) (v : Option Nat) : Fields := [(1, v.isSome.toNat), (w, v.getD 0)]

/-- What reads fields off a number, lowest first. -/
abbrev Taker := StateM Nat

def takeNat (w : Nat) : Taker Nat := fun v => (v % 2 ^ w, v / 2 ^ w)
def takeBits (w : Nat) : Taker (BitVec w) := do return BitVec.ofNat w (← takeNat w)
def takeBool : Taker Bool := do return (← takeNat 1) == 1

def takeOption (w : Nat) : Taker (Option Nat) := do
  let there ← takeBool
  let v ← takeNat w
  return if there then some v else none

/-- n values, one after another. -/
def takeList {α : Type} (f : Taker α) : Nat → Taker (List α)
  | 0 => return []
  | n + 1 => do
    let v ← f
    return v :: (← takeList f n)

/-- A number of values before the values themselves. -/
def takeMany {α : Type} (w : Nat) (f : Taker α) : Taker (List α) := do takeList f (← takeNat w)

/-- n values as a vector. -/
def takeVector (w n : Nat) : Taker (Vector Nat n) := do
  let l ← takeList (takeNat w) n
  return Vector.ofFn fun i => (l[i.val]?).getD 0

/-! ### Tiles and completion entries (R89, R181) -/

def TileState.ofCode : Nat → TileState
  | 1 => .filling | 2 => .ready | 3 => .draining | 4 => .poisoned | _ => .empty

/-- A tile-table entry from its word, of a tenant; its units lie in the scratchpad. -/
def Tile.ofWord (tenant : BitVec 6) (w : Word) : Tile :=
  { v := w.getLsbD 63, st := TileState.ofCode (bits w 60 3), pk := w.getLsbD 59, p := w.extractLsb' 54 5, et := w.extractLsb' 49 5
    pot := w.getLsbD 48, readers := w.extractLsb' 40 8, tenant := tenant, conf := w.getLsbD 33, susp := w.getLsbD 32
    base := w.extractLsb' 12 11, size := BitVec.ofNat 12 (min (bits w 0 12) (2048 - bits w 12 11)) }

def Handle.ofWord (w : Word) : Handle :=
  { st := match bits w 62 2 with
      | 1 => .busy
      | 2 => .done
      | _ => .free
    kind := w.extractLsb' 59 3, status := w.extractLsb' 55 4, detail := w.setWidth 32 }

/-! ### Copies (R297 to R306) -/

def CopyPhase.code : CopyPhase → Nat
  | .queued => 0 | .running => 1 | .suspended => 2

def CopyPhase.ofCode : Nat → CopyPhase
  | 0 => .queued | 1 => .running | _ => .suspended

/-- A copy in 120 bytes: a confidential one has one tile side, and its key and IV. -/
def CopyOp.fields (o : CopyOp) : Fields :=
  [fBits o.h, fBits o.kind] ++ fOption 8 (o.srcTile.map (·.toNat)) ++ fOption 8 (o.dstTile.map (·.toNat)) ++
    [fBool o.keep, fBits o.rm, fBool o.super, (2, o.phase.code), fBool o.conf, fBool o.resumed] ++
    fOption 4 (o.refused.map (·.toNat)) ++ fOption 4 o.fmt ++
    [fBits o.asid, fBits o.src, fBits o.dst, fBits o.d0, fBits o.d1, (56, o.reply.toNat), fBits o.ctr, fBits o.tdt, (56, o.ptroot),
      (48, o.u), (64, (if o.kind = 2 then o.prevSrc else o.prevDst).word.toNat)] ++
    if o.kind = 0 then [(64, o.prevSrc.word.toNat)]
    else fOption 288 (o.auth.map fun a => a.1.toNat + 2 ^ 256 * (a.2.toNat / 2 ^ 64))

/-- A copy of a tenant from its fields; rep and old, which are no part of an image, are as given. -/
def CopyOp.ofFields (tenant : BitVec 6) : Taker CopyOp := do
  let h ← takeBits 8
  let kind ← takeBits 2
  let srcTile ← takeOption 8
  let dstTile ← takeOption 8
  let keep ← takeBool
  let rm ← takeBits 2
  let super ← takeBool
  let phase ← takeNat 2
  let conf ← takeBool
  let resumed ← takeBool
  let refused ← takeOption 4
  let fmt ← takeOption 4
  let asid ← takeBits 16
  let src ← takeBits 64
  let dst ← takeBits 64
  let d0 ← takeBits 64
  let d1 ← takeBits 64
  let reply ← takeNat 56
  let ctr ← takeBits 64
  let tdt ← takeBits 64
  let ptroot ← takeNat 56
  let u ← takeNat 48
  let side := Tile.ofWord tenant (← takeBits 64)
  let other ← if kind = 0 then takeBits 64 else pure (0 : Word)
  let auth ← if kind = 0 then pure none else takeOption 288
  return {
    h := h, kind := kind, src := src, dst := dst, srcTile := srcTile.map (BitVec.ofNat 8), dstTile := dstTile.map (BitVec.ofNat 8)
    keep := keep, d0 := d0, d1 := d1, reply := toWord reply, ctr := ctr, rm := rm, asid := asid, ptroot := ptroot, tdt := tdt
    super := super, phase := CopyPhase.ofCode phase, u := u, conf := conf, resumed := resumed
    prevSrc := if kind = 0 then Tile.ofWord tenant other else if kind = 2 then side else Tile.free
    prevDst := if kind = 2 then Tile.free else side
    refused := refused.map (BitVec.ofNat 4), fmt := fmt, rep := none, old := []
    auth := auth.map fun a => (BitVec.ofNat 256 a, BitVec.ofNat 32 (a / 2 ^ 256) ++ ctr) }

/-! ### The matrix engine, tensor flushes, held events (R112, R293, R295) -/

def MatOp.fields (o : MatOp) : Fields :=
  [fBits o.h, fBits o.kind, fBits o.ra, fBits o.rb, fBits o.rc, fBits o.ta, fBits o.tb, fBits o.tm, fBits o.c, fBool o.wac,
    fBool o.zc, (16, o.m), (16, o.n), (16, o.k), fBits o.wace, (16, o.gs), fBool o.active, fBits o.flags] ++
    fOption 8 (o.fail.map (·.toNat)) ++ (2, o.claims.length) :: o.claims.map fBits

def MatOp.ofFields : Taker MatOp := do
  let h ← takeBits 8
  let kind ← takeBits 2
  let ra ← takeBits 64
  let rb ← takeBits 64
  let rc ← takeBits 64
  let ta ← takeBits 8
  let tb ← takeBits 8
  let tm ← takeBits 8
  let c ← takeBits 5
  let wac ← takeBool
  let zc ← takeBool
  let m ← takeNat 16
  let n ← takeNat 16
  let k ← takeNat 16
  let wace ← takeBits 64
  let gs ← takeNat 16
  let active ← takeBool
  let flags ← takeBits 7
  let fail ← takeOption 8
  let claims ← takeMany 2 (takeBits 8)
  return { h := h, kind := kind, ra := ra, rb := rb, rc := rc, ta := ta, tb := tb, tm := tm, c := c, wac := wac, zc := zc, m := m
           n := n, k := k, wace := wace, gs := gs, active := active, flags := flags, fail := fail.map (BitVec.ofNat 8)
           claims := claims }

def FlushOp.fields (o : FlushOp) : Fields :=
  [fBits o.h, fBits o.asid, fBits o.tid, fBits o.tdt, (56, o.root), fBool o.super, fBool o.active]

def FlushOp.ofFields (tenant : BitVec 6) : Taker FlushOp := do
  let h ← takeBits 8
  let asid ← takeBits 16
  let tid ← takeBits 16
  let tdt ← takeBits 64
  let root ← takeNat 56
  let super ← takeBool
  let active ← takeBool
  return { h := h, tenant := tenant, asid := asid, tid := tid, tdt := tdt, root := root, super := super, active := active }

def EngEvent.fields (e : EngEvent) : Fields := [fBits e.h, fBits e.status, fBits e.kind, fBits e.event]

def EngEvent.ofFields : Taker EngEvent := do
  let h ← takeBits 8
  let status ← takeBits 4
  let kind ← takeBits 3
  return ⟨h, status, kind, ← takeBits 64⟩

/-! ### The fabric (R319, R323) -/

/-- A binding in 8 bytes: its image, and of the header what is asked of a slot whose setting is not resident. -/
def Bound.fields (b : Bound) : Fields := [(1, 1), (7, bits b.hdr 19 5), (48, b.img / 256), (8, bits b.types 0 5)]

/-- A slot from its 8 bytes; a binding that the image has kept stays as it is. -/
def Bound.load (old : Option Bound) (w : Nat) : Option Bound :=
  if w % 2 = 0 then none
  else match old.filter fun b => b.fields.val == w with
    | some b => some b
    | none => some ⟨fld w 8 48 * 256, toWord (fld w 1 5 * 2 ^ 19), toWord (fld w 56 5)⟩

def Token.fields (t : Token) : Fields := [fBool t.c, fBits t.d]

def Token.ofFields : Taker Token := do
  let c ← takeBool
  return ⟨c, ← takeBits 32⟩

/-- A register of one token. -/
def tokenFields (t : Option Token) : Fields := match t with
  | some t => (1, 1) :: t.fields
  | none => [(1, 0)]

def takeToken : Taker (Option Token) := do
  if ← takeBool then return some (← Token.ofFields) else return none

def GridElem.fields (x : GridElem) : Fields :=
  [(12, x.e), fBits x.word] ++ (x.q.flatMap fun q => (3, q.length) :: q.flatMap Token.fields) ++ tokenFields x.a ++ tokenFields x.b ++
    x.trk.flatMap tokenFields ++ [fBits x.r0, fBits x.r1, fBits x.r2, fBool x.once, (9, x.esc.length)] ++
    x.esc.flatMap fun e => (2, e.1) :: e.2.fields

def GridElem.ofFields : Taker GridElem := do
  let e ← takeNat 12
  let word ← takeBits 96
  let q ← takeList (takeMany 3 Token.ofFields) 4
  let a ← takeToken
  let b ← takeToken
  let trk ← takeList takeToken 8
  let r0 ← takeBits 32
  let r1 ← takeBits 32
  let r2 ← takeBits 32
  let once ← takeBool
  let esc ← takeMany 9 (do
    let j ← takeNat 2
    return (j, ← Token.ofFields))
  return { e := e, word := word, q := q, a := a, b := b, trk := trk, r0 := r0, r1 := r1, r2 := r2, once := once, esc := esc }

/-- A frozen FOP without its elements. -/
def Grid.fields (g : Grid) : Fields :=
  [fBits g.slot, fBits g.vd, fBits g.va, fBits g.vb, fBits g.msk, fBits g.imm, fBits g.xl, fBits g.rm, fBits g.space, (8, g.size),
    fBits g.hdr, fBits g.types, fBits g.maps] ++ g.inpos.toList.map (32, ·) ++ g.sent.toList.map fBool ++
    g.outpos.toList.map (32, ·) ++ g.ended.toList.map fBool ++ g.reqs.toList.map (32, ·) ++ [fBits g.flags] ++
    g.idle.toList.map (32, ·) ++ g.rot.toList.map (32, ·) ++ fOption 12 g.first ++ (13, g.wants.length) :: g.wants.map (12, ·) ++
    (9, g.emits.length) :: g.emits.map fBits ++ (5, g.reload.length) :: g.reload.map fBits ++ [(13, g.elems.length)]

/-- A frozen FOP and how many elements follow it. -/
def Grid.ofFields : Taker (Grid × Nat) := do
  let slot ← takeBits 6
  let vd ← takeBits 7
  let va ← takeBits 7
  let vb ← takeBits 7
  let msk ← takeBits 3
  let imm ← takeBits 64
  let xl ← takeBits 6
  let rm ← takeBits 2
  let space ← takeBits 2
  let size ← takeNat 8
  let hdr ← takeBits 64
  let types ← takeBits 64
  let maps ← takeBits 64
  let inpos ← takeVector 32 8
  let sent ← takeVector 1 2
  let outpos ← takeVector 32 4
  let ended ← takeVector 1 4
  let reqs ← takeVector 32 16
  let flags ← takeBits 7
  let idle ← takeVector 32 16
  let rot ← takeVector 32 16
  let first ← takeOption 12
  let wants ← takeMany 13 (takeNat 12)
  let emits ← takeMany 9 (takeBits 8)
  let reload ← takeMany 5 (takeBits 4)
  let n ← takeNat 13
  return ({ slot := slot, vd := vd, va := va, vb := vb, msk := msk, imm := imm, xl := xl, rm := rm, space := space, size := size
            hdr := hdr, types := types, maps := maps, elems := [], inpos := inpos, sent := sent.map (· == 1), outpos := outpos
            ended := ended.map (· == 1), reqs := reqs, flags := flags, idle := idle, rot := rot, first := first, wants := wants
            emits := emits, frozen := true, reload := reload }, n)

/-! ### Pots, joiners, joins (R329 to R335) -/

/-- An open pot in 16 bytes; its accumulators, log and joiners stand in its tile. -/
def Pot.fields (p : Pot) : Fields :=
  [fBits p.tile, fBits p.rule, fBool p.fmt, fBool p.log, (14, p.e), (9, p.expect), (9, p.granted), (9, p.arrived), (9, p.forf),
    (9, p.fbcnt), fBits p.fl, fBool p.forfany, fBits p.wace, fBool p.spilled]

/-- A pot from its fields, with the joiners and the opening of the tile that the interface knows of. -/
def Pot.ofFields (known : List Pot) : Taker Pot := do
  let tile ← takeBits 8
  let rule ← takeBits 2
  let fmt ← takeBool
  let log ← takeBool
  let e ← takeNat 14
  let expect ← takeNat 9
  let granted ← takeNat 9
  let arrived ← takeNat 9
  let forf ← takeNat 9
  let fbcnt ← takeNat 9
  let fl ← takeBits 4
  let forfany ← takeBool
  let wace ← takeBits 16
  let spilled ← takeBool
  let old := known.find? (·.tile == tile)
  return { tile := tile, rule := rule, fmt := fmt, log := log, e := e, expect := expect, granted := granted, arrived := arrived
           forf := forf, fbcnt := fbcnt, fl := fl, forfany := forfany, wace := wace, spilled := spilled
           joiners := (old.map (·.joiners)).getD [], serial := (old.map (·.serial)).getD 0 }

/-- A joiner record of a grant list, 8 bytes (R329). -/
def Joiner.fields (x : Joiner) : Fields :=
  [(1, 1), fBits x.node, fBits x.core, fBits x.j, (9, x.left), fBool x.spilled, (29, x.task)]

/-- The joiners that the interface knows of, as a grant list gives them; one that the list does not give has no antes left. -/
def Joiner.load (words : List Nat) (y : Joiner) : Joiner :=
  match words.find? fun w => w % 2 == 1 && fld w 1 24 == ({ y with left := 0 } : Joiner).fields.val / 2 % 2 ^ 24 && fld w 35 29 == y.task % 2 ^ 29 with
  | some w => { y with left := fld w 25 9, spilled := w.testBit 34 }
  | none => { y with left := 0, spilled := false }

/-- A join entry in 32 bytes. -/
def Join.fields (e : Join) : Fields :=
  [(3, e.st.code), fBits e.fb, fBits e.rule, fBool e.fmt, (9, e.n), (9, e.left), fBits e.node, fBits e.core, fBits e.tile, (14, e.e),
    fBits e.wace, fBool e.retry]

def JoinState.ofCode : Nat → JoinState
  | 1 => .pending | 2 => .granted | 3 => .spilled | 4 => .over | 5 => .denied | 6 => .closed | _ => .free

/-- A join entry from its fields, of the opening that the interface knows of. -/
def Join.ofFields (serial : Nat) : Taker Join := do
  let st ← takeNat 3
  let fb ← takeBits 64
  let rule ← takeBits 2
  let fmt ← takeBool
  let n ← takeNat 9
  let left ← takeNat 9
  let node ← takeBits 10
  let core ← takeBits 8
  let tile ← takeBits 8
  let e ← takeNat 14
  let wace ← takeBits 16
  let retry ← takeBool
  return { st := JoinState.ofCode st, fb := fb, rule := rule, fmt := fmt, n := n, left := left, node := node, core := core
           tile := tile, e := e, wace := wace, retry := retry, serial := serial }

end Sys2Proof.Machine
end

