-- ==== Sys2Proof/Machine/Image.lean ====
section
/-! DEFINITION. The context image of a member in its region's save area: header, directory, sections, how it is written and what
of it is loaded again (R95, R366, R368 to R370; log 46). -/

namespace Sys2Proof.Machine

def imageMagic : Nat := 0x43545849

/-! ### Bytes -/

/-- Bytes as (count, value) pieces, lowest first. -/
abbrev Pieces := List (Nat × Nat)

def Pieces.len (ps : Pieces) : Nat := ps.foldl (fun n p => n + p.1) 0

def Pieces.val : Pieces → Nat
  | [] => 0
  | p :: ps => p.2 % 2 ^ (8 * p.1) + 2 ^ (8 * p.1) * Pieces.val ps

/-- Words of 8 bytes. -/
def wordPieces (ws : List Word) : Pieces := ws.map fun w => (8, w.toNat)

/-- n bytes written by hardware from an address on, line by line. -/
def State.runWrite (s : State) (a n v : Nat) (t : BitVec 6) : State :=
  (cutAt 256 a n (n + 1) 0).foldl (fun s p => s.homeStore (a + p.1) p.2 (fld v (8 * p.1) (8 * p.2)) (some t)) s

/-- n bytes read by hardware from an address on, line by line; nothing is left changed. -/
def State.runRead (s : State) (a n : Nat) : Nat :=
  (cutAt 256 a n (n + 1) 0).foldl (fun v p => v + (s.peek (a + p.1) p.2).1 * 2 ^ (8 * p.1)) 0

/-! ### The slot (R368) -/

/-- The address of a member's save slot in local form, where n bytes from it lie in the tenant's device memory. -/
def State.slotAddr (s : State) (t : Task) (slot n : Nat) : Option Nat :=
  match (s.pathOf t).head? with
  | none => none
  | some m =>
    let raw := m.savebase + slot * 2 ^ 24
    if (List.range (n / 2 ^ 21 + 1)).all fun i => s.inTables t.tenant (raw + i * 2 ^ 21) (min 4096 (n - i * 2 ^ 21)) then
      some (s.localize raw)
    else none

/-! ### Sections (R369); the order of the fields inside one is a DESIGN CHOICE (log 46) -/

/-- The user and supervisor CSRs. -/
def imageCsrs : List Nat := (List.range 0x200).filter csrAssigned

/-- The CSRs that belong to a core and not to a context (R97). -/
def coreCsrs : List Nat := [0x004, 0x005, 0x200, 0x201, 0x202, 0x203, 0x204, 0x205]

def RegState.code : RegState → Nat
  | .full => 0 | .empty => 1 | .lent => 2

def RegState.ofCode : Nat → RegState
  | 1 => .empty | 2 => .lent | _ => .full

/-- Section 0: x1 to x63, PC, privilege, CSRs, the trap frame. -/
def Core.secScalar (k : Core) : Pieces := wordPieces
  (((List.range 63).map fun i => k.rd (BitVec.ofNat 6 (i + 1))) ++ [k.pc, toWord k.priv.code] ++ imageCsrs.map k.csrAt ++
    k.frame.toList)

/-- Bytes that section 1 gives a register of which h bits have been written. -/
def regBytes (h : Nat) : Nat := 8 * cdiv (min h 262144) 64

/-- Section 1: of each register its state, tag and H, then its bits below H. -/
def Core.secVectors (k : Core) : Pieces := (List.range 32).flatMap fun r =>
  let h := min ((k.vec.high[r]?).getD 0) 262144
  [(8, (k.vec.state r).code + 4 * (k.vec.tag[r]?).getD 0 + 2 ^ 32 * h), (regBytes h, k.vec.bitsOf r)]

/-- Section 2: the operand and last-result files. -/
def Core.secFiles (k : Core) : Pieces := (List.range 10).map fun i => (8192, k.vec.bitsOf (32 + i))

/-- Section 3: m1 to m7. -/
def Core.secMasks (k : Core) : Pieces := (List.range 7).map fun i => (8192, k.vec.maskBits (i + 1))

/-- The allocated tiles with their numbers. -/
def Core.heldTiles (k : Core) : List (Nat × Tile) := (List.range 256).filterMap fun i => if (k.tile i).v then some (i, k.tile i) else none

/-- Section 4: the tile entries, then the contents of each allocated tile. -/
def Core.secTiles (k : Core) : Pieces :=
  wordPieces (k.tiles.toList.map Tile.word) ++ k.heldTiles.map fun e => (e.2.bytes, k.scratchRead e.2.start e.2.bytes)

/-- Fields in n bytes. -/
def fieldPiece (n : Nat) (fs : Fields) : Nat × Nat := (n, fs.val)

/-- Section 5: the completion entries, then 120 bytes for each copy in flight. -/
def Core.secHandles (k : Core) : Pieces :=
  wordPieces (k.eng.handles.toList.map Handle.word) ++ k.eng.copies.map fun o => fieldPiece 120 o.fields

/-- How many matrix operations, tensor flushes and held events section 6 has room for. -/
def matRoom : Nat := 15
def flushRoom : Nat := 16
def eventRoom : Nat := 256

/-- Section 6: how many records follow; the matrix operations with their resume groups and claims, the tensor flushes, the held
ENGINE events, and the handles whose commands the execute stream still holds. -/
def Core.secMatrix (k : Core) : Pieces :=
  let mats := k.eng.mats.take matRoom
  let flushes := k.eng.flushes.take flushRoom
  let events := k.eng.events.take eventRoom
  let stream := k.eng.stream.take 256
  (8, mats.length + 2 ^ 16 * flushes.length + 2 ^ 32 * events.length +
      2 ^ 48 * stream.length) ::
    (mats.map fun o => fieldPiece 56 o.fields) ++ (flushes.map fun o => fieldPiece 24 o.fields) ++
    (events.map fun e => fieldPiece 10 e.fields) ++ stream.map fun h => (1, h.toNat)

/-- Section 8: the bindings of the 64 slots. -/
def Core.secBindings (k : Core) : Pieces := k.fab.slots.toList.map fun b => (8, match b with
  | some b => b.fields.val
  | none => 0)

/-- Bytes of the frozen state (R369). -/
def frozenBytes : Nat := 286720

/-- A record behind its length, which 2 bytes hold. -/
def framed (fs : Fields) : Nat × Nat :=
  let n := cdiv fs.width 8
  (n + 2, n + 2 ^ 16 * fs.val)

/-- Elements of a frozen FOP for which room is left. -/
def framedElems : Nat → List GridElem → Pieces
  | _, [] => []
  | room, x :: xs =>
    let p := framed x.fields
    if room < p.1 + 2 then [] else p :: framedElems (room - p.1) xs

/-- Section 9: the frozen FOP, when there is one, then its elements, each behind its length; a length of 0 ends them. -/
def Core.secFrozen (k : Core) : Pieces := match k.fab.grid.filter (·.frozen) with
  | none => []
  | some g =>
    let head := framed g.fields
    let ps := head :: framedElems (frozenBytes - head.1) g.elems
    ps ++ [(frozenBytes - Pieces.len ps, 0)]

/-- Section 10: the open pots. -/
def Core.secPots (k : Core) : Pieces := k.acn.pots.map fun p => fieldPiece 16 p.fields

/-- Section 11: the join table. -/
def Core.secJoins (k : Core) : Pieces := k.acn.joins.toList.map fun e => fieldPiece 32 e.fields

/-- Section 12: the floors relative to the bank's REPOCH, and the pinned page (R36, R114). -/
def Core.secFloors (k : Core) (repoch : Nat) : Pieces :=
  wordPieces ((k.cache.floors.toList.map fun f => toWord (repoch - f)) ++ match k.cache.pin with
    | some p => [1, p.pc, toWord p.page]
    | none => [0, 0, 0])

/-- Where the grant list of a pot stands in its tile (R329). -/
def Core.grantAt (k : Core) (p : Pot) : Nat :=
  (k.tile p.tile.toNat).start + p.e * p.fillBytes + (if p.log then 1024 else 0)

/-- The grant lists of the pots that have not completed, in their tiles (R329, R369). -/
def Core.withGrants (k : Core) : Core :=
  k.acn.pots.foldl (fun k p => k.scratchWrite (k.grantAt p) 2048 (ofElems 64 ((p.joiners.take 256).map fun x => x.fields.val))) k

/-- The fourteen sections of a context. -/
def Core.sections (k : Core) (repoch : Nat) : List Pieces :=
  let k := k.withGrants
  [k.secScalar, k.secVectors, k.secFiles, k.secMasks, k.secTiles, k.secHandles, k.secMatrix, [(1024, k.eng.codebook.toNat)],
    k.secBindings, k.secFrozen, k.secPots, k.secJoins, k.secFloors repoch, []]

/-- Where the sections stand: one after another behind the header. -/
def sectionOffsets (ls : List Nat) : List Nat := (List.range ls.length).map fun i => 4096 + (ls.take i).foldl (· + ·) 0

/-! ### Writing (R366, R368) -/

/-- A dword of the directory (R368). -/
def directoryWord (len off : Nat) : Nat := len * 2 ^ 32 + off

/-- The header: what the image is of, its length, and the directory; a section that is absent has length 0. -/
def headerWords (k : Core) (ls : List Nat) : List Nat :=
  let pots := k.acn.pots.any (·.spilled)
  let frozen := k.fab.grid.any (·.frozen)
  let flags := (if pots then 8 else 0) + (if frozen then 4 else 0) + (if k.tf then 2 else 0) + k.priv.code
  [imageMagic * 2 ^ 32 + 2 ^ 24 + k.slices * 2 ^ 16, k.tk.gen.toNat, flags, 4096 + ls.foldl (· + ·) 0] ++
    (ls.zip (sectionOffsets ls)).map fun e => directoryWord e.1 e.2

/-- The poisoned words of a unit of which an image holds anything: those above the bits written restore as zero (R369). -/
def VecUnit.written (u : VecUnit) : VecUnit :=
  { u with poison := u.poison.filter fun p => 32 ≤ p.1 || p.2.1 < (u.high[p.1]?).getD 0 }

/-- Bytes of the image that hold poisoned words (R95), by the offsets of the sections. -/
def Core.imagePoison (k : Core) (off : Nat → Nat) : List Nat :=
  let reg := fun (r : Nat) => (List.range r).foldl (fun n i => n + 8 + regBytes ((k.vec.high[i]?).getD 0)) 8
  let regs := (k.vec.written.poison).flatMap fun p =>
    let base := if p.1 < 32 then off 1 + reg p.1 else if p.1 < 42 then off 2 + 8192 * (p.1 - 32) else off 3 + 8192 * (p.1 - 65)
    [base + p.2.1 / 8, base + (p.2.1 + p.2.2 - 1) / 8]
  let tiles := k.scratchPoison.flatMap fun g =>
    (k.heldTiles.foldl (fun (acc : List Nat × Nat) e =>
      (if e.2.start ≤ 8 * g && 8 * g < e.2.start + e.2.bytes then (acc.2 + (8 * g - e.2.start)) :: acc.1 else acc.1,
        acc.2 + e.2.bytes)) ([], off 4 + 2048)).1
  regs ++ tiles

/-- The image of a member written, its header last, and where it stands; a slot outside the tenant's memory takes nothing. -/
def State.writeImage (s : State) (t : Task) (slot : Nat) (k : Core) (c : CoreId) : Option (Nat × List Nat) × State :=
  let secs := k.sections ((s.ms.repoch[(clusterOf c).toNat]?).getD 0)
  let ls := secs.map Pieces.len
  match s.slotAddr t slot (4096 + ls.foldl (· + ·) 0) with
  | none => (none, s)
  | some a =>
    let offs := sectionOffsets ls
    let s := (secs.zip offs).foldl (fun (s : State) e => s.runWrite (a + e.2) e.1.len e.1.val t.tenant) s
    let ms := (k.imagePoison fun i => (offs[i]?).getD 0).foldl (fun (m : MemSys) o => (m.recall (a + o) 1).taint (a + o)) s.ms
    (some (a, offs), { s with ms := ms }.runWrite a 4096 (ofElems 64 (headerWords k ls)) t.tenant)

/-- Pieces with their places. -/
def Pieces.placed (ps : Pieces) : List (Nat × Nat × Nat) :=
  (ps.foldl (fun (acc : List (Nat × Nat × Nat) × Nat) p => ((acc.2, p.1, p.2) :: acc.1, acc.2 + p.1)) ([], 0)).1.reverse

/-- The sections that events of other agents change while a context is saved: registers that were lent, tiles, copies, pots
and joins (R84, R345, R407). -/
def liveSections : List Nat := [1, 4, 5, 10, 11]

/-- What has changed in a saved context written into its image (R345). -/
def State.syncContext (s : State) (old new : SavedCtx) : State :=
  match new.image, s.task new.task with
  | some (a, offs), some t =>
    let was := old.body.sections 0
    let now := new.body.sections 0
    liveSections.foldl (fun (s : State) i =>
      let p : Pieces := (was[i]?).getD []
      let q : Pieces := (now[i]?).getD []
      let off := (offs[i]?).getD 0
      let s := (q.placed.filter fun e => !p.placed.contains e).foldl (fun (s : State) e =>
        s.runWrite (a + off + e.1) e.2.1 e.2.2 t.tenant) s
      if p.len = q.len then s else s.runWrite (a + 32 + 8 * i) 8 (directoryWord q.len off) t.tenant) s
  | _, _ => s

/-- The images of the contexts that are saved in both of two states, brought from the first to the second (R345). -/
def State.syncSaved (s t : State) : State :=
  if s.dealer.saved == t.dealer.saved then t
  else t.dealer.saved.foldl (fun (u : State) new =>
    match s.dealer.saved.find? fun (x : SavedCtx) => x.task == new.task && x.rank == new.rank with
    | some old => if old.body == new.body then u else u.syncContext old new
    | none => u) t

/-! ### Loading (R370) -/

/-- What a header says, as it is found. -/
structure Header where
  magic   : Nat
  version : Nat
  slices  : Nat
  gen     : Word
  priv    : Priv
  tf      : Bool
  frozen  : Bool
  off     : Nat → Nat
  len     : Nat → Nat

/-- The header at an address. -/
def State.readHeader (s : State) (a : Nat) : Header :=
  let h := s.runRead a 4096
  { magic := fld h 32 32, version := fld h 24 8, slices := fld h 16 8, gen := toWord (fld h 64 64)
    priv := if h.testBit 128 then .super else .user, tf := h.testBit 129, frozen := h.testBit 130
    off := fun i => fld h (64 * (4 + i)) 32, len := fun i => fld h (64 * (4 + i) + 32) 32 }

/-- The CSRs of a context loaded: reserved bits are discarded, those of the core are not. -/
def loadCsrs (old : Vector Word 518) (get : Nat → Word) : Vector Word 518 :=
  ((List.range imageCsrs.length).zip imageCsrs).foldl (fun v e =>
    if coreCsrs.contains e.2 then v else v.setIfInBounds e.2 (csrStore e.2 (get e.1) (get e.1))) old

/-- n dwords of an image. -/
def imageWords (read : Nat → Nat → Nat) (off n : Nat) : List Nat := (List.range n).map fun i => read (off + 8 * i) 8

/-- n records of w bytes of an image. -/
def imageRecords {α : Type} (read : Nat → Nat → Nat) (f : Taker α) (off w n : Nat) : List α :=
  (List.range n).map fun i => (f (read (off + w * i) w)).1

/-- Sections 1 to 3 loaded: state, tag and written bits of each register, the files, the masks; poisoned words are poisoned
(R95). -/
def VecUnit.load (u : VecUnit) (off : Nat → Nat) (read : Nat → Nat → Nat) : VecUnit :=
  let r := (List.range 32).foldl (fun (acc : VecUnit × Nat) r =>
    let d := read acc.2 8
    let h := min (fld d 32 32) 262144
    ({ acc.1 with
        v := acc.1.v.setIfInBounds r (BitVec.ofNat 262144 (read (acc.2 + 8) (regBytes h) % 2 ^ h))
        st := acc.1.st.setIfInBounds r (RegState.ofCode (fld d 0 2))
        tag := acc.1.tag.setIfInBounds r (fld d 2 30)
        high := acc.1.high.setIfInBounds r h }, acc.2 + 8 + regBytes h)) (u, off 1)
  let u := r.1
  { u with
    o := Vector.ofFn fun i => BitVec.ofNat 65536 (read (off 2 + 8192 * i.val) 8192)
    m := Vector.ofFn fun i => if i.val = 0 then u.m[0] else BitVec.ofNat 65536 (read (off 3 + 8192 * (i.val - 1)) 8192) }.written

/-- Section 4 loaded: the entries, then the contents of each allocated tile. -/
def Core.loadTiles (k : Core) (off : Nat) (read : Nat → Nat → Nat) : Core :=
  let k := { k with tiles := Vector.ofFn fun i => Tile.ofWord k.tk.tenant (toWord (read (off + 8 * i.val) 8)) }
  { k with scratch := (k.heldTiles.foldl (fun (acc : Mem × Nat) e =>
      (acc.1.write e.2.start e.2.bytes (read acc.2 e.2.bytes), acc.2 + e.2.bytes)) (k.scratch, off + 2048)).1 }

/-- Sections 5 to 7 loaded; of a copy that the context has had, what it found where source and destination meet is known; what
section 6 has no room for stays as it is. -/
def Core.loadEngines (k : Core) (off len : Nat → Nat) (read : Nat → Nat → Nat) : Core :=
  let e := k.eng
  let copies := (imageRecords read (CopyOp.ofFields k.tk.tenant) (off 5 + 2048) 120 ((len 5 - 2048) / 120)).map fun o =>
    match e.copies.find? (·.h == o.h) with
    | some p => { o with old := p.old }
    | none => o
  let d := read (off 6) 8
  let mats := fld d 0 16
  let flushes := fld d 16 16
  let events := fld d 32 16
  let at2 := off 6 + 8 + 56 * mats
  let at3 := at2 + 24 * flushes
  let at4 := at3 + 10 * events
  { k with eng := { e with
      handles := Vector.ofFn fun i => Handle.ofWord (toWord (read (off 5 + 8 * i.val) 8))
      copies := copies
      mats := imageRecords read MatOp.ofFields (off 6 + 8) 56 mats ++ e.mats.drop matRoom
      flushes := imageRecords read (FlushOp.ofFields k.tk.tenant) at2 24 flushes ++ e.flushes.drop flushRoom
      events := imageRecords read EngEvent.ofFields at3 10 events ++ e.events.drop eventRoom
      stream := imageRecords read (takeBits 8) at4 1 (fld d 48 16) ++ e.stream.drop 256
      codebook := BitVec.ofNat 8192 (read (off 7) 1024) } }

/-- The framed records from a place on, fuel at most, up to a length of 0. -/
def framedLoad (read : Nat → Nat → Nat) : Nat → Nat → List Nat
  | 0, _ => []
  | fuel + 1, a =>
    let n := read a 2
    if n = 0 then [] else read (a + 2) n :: framedLoad read fuel (a + 2 + n)

/-- Section 9 loaded: a frozen FOP; elements for which the section had no room stay as they are. -/
def loadFrozen (old : Option Grid) (off : Nat) (read : Nat → Nat → Nat) : Option Grid :=
  let n := read off 2
  let (g, count) := (Grid.ofFields (read (off + 2) n)).1
  let elems := (framedLoad read count (off + 2 + n)).map fun v => (GridElem.ofFields v).1
  some { g with elems := elems ++ ((old.map fun o => o.elems.drop elems.length).getD []) }

/-- Sections 8 and 9 loaded. -/
def Core.loadFabric (k : Core) (off len : Nat → Nat) (frozen : Bool) (read : Nat → Nat → Nat) : Core :=
  { k with fab := { k.fab with
      slots := Vector.ofFn fun i => Bound.load k.fab.slots[i] (read (off 8 + 8 * i.val) 8)
      grid := if frozen && len 9 != 0 then loadFrozen k.fab.grid (off 9) read else none } }

/-- Sections 10 and 11 loaded, and the grant lists, which stand in the tiles. A joiner that the interface has never granted an
ante gets none from an image: its effects stay with the tenant (R368). -/
def Core.loadPots (k : Core) (off len : Nat → Nat) (read : Nat → Nat → Nat) : Core :=
  let pots := (imageRecords read (Pot.ofFields k.acn.pots) (off 10) 16 (min 64 (len 10 / 16))).map fun p =>
    { p with joiners := p.joiners.map (Joiner.load (elemsOf 64 (k.scratchRead (k.grantAt p) 2048) 256)) }
  { k with acn := { k.acn with
      pots := pots
      joins := Vector.ofFn fun i => (Join.ofFields k.acn.joins[i].serial (read (off 11 + 32 * i.val) 32)).1 } }

/-- The sections loaded from memory into a context (R370). -/
def Core.loadImage (k : Core) (hdr : Header) (read : Nat → Nat → Nat) : Core :=
  let off := hdr.off
  let dw := fun (sec i : Nat) => toWord (read (off sec + 8 * i) 8)
  let k := ((k.loadTiles (off 4) read).loadEngines off hdr.len read).loadFabric off hdr.len hdr.frozen read
  { k.loadPots off hdr.len read with
    x := Vector.ofFn fun i => if i.val = 0 then 0 else dw 0 (i.val - 1)
    pc := canon56 (addrField (dw 0 63))
    csr := loadCsrs k.csr fun i => dw 0 (65 + i)
    frame := Vector.ofFn fun i => dw 0 (65 + imageCsrs.length + i.val)
    vec := k.vec.load off read
    cache := { k.cache with pin := if dw 12 3 = 0 then none else some ⟨dw 12 4, (dw 12 5).toNat⟩ } }

end Sys2Proof.Machine
end

