-- ==== Sys2Proof/Machine/Sync.lean ====
section
/-! DEFINITION. The synchronisation objects: CLAIM, decks, clasps; monitors and WAITA (R130 to R136, R162, R276,
R277). -/

namespace Sys2Proof.Machine

/-- The translation of an object: aligned, in device memory or on another node (R276). -/
def objectHit (x : Ctx) (a : Word) (align kind : Nat) : X Hit := do
  aligned a align
  resolveGlobal x a { kind := kind, n := align, msu := true, noHost := true } anyFormat

/-! ### CLAIM (R130) -/

/-- The base and the count granted by a CLAIM of n: NEXT in the low dword, LIMIT in the high one. -/
def claimGrant (obj n : Nat) : Nat × Nat :=
  let next := fld obj 0 64
  let limit := fld obj 64 64
  (next, if limit ≤ next then 0 else min n (limit - next))

/-- CLAIM (R130, R276). -/
def execClaim (f : SM) (s : State) : Out := finish (extSize f.ext) (do
  let a := (← readX f.xa) + f.value
  let req ← readX f.xb
  reserveReply [f.xd]
  let k ← self
  require (k.ew ≤ 5) causeIllegalEnc (Instr.word (.claim f))
  let x ← selfCtx
  let h ← objectHit x a 16 3
  let n := min req.toNat (k.maxCols (shapeWidth k.ew))
  ordBefore f.ord.toNat
  let old ← msuOp x h 16 fun v => let r := claimGrant v n; some (putFld v 0 64 (r.1 + r.2))
  let r := claimGrant old n
  modSelf fun k => (k.setShape (if r.2 = 0 then 0 else 1) r.2).setCsr 0x003 0
  ordAfter f.ord.toNat f.scope.toNat
  reply [(f.xd, toWord r.1)]) s

/-! ### Decks (R131, R132) -/

/-- The header of a deck is usable, and its count is within its capacity. -/
def deckOk (hd : Nat) : Bool :=
  let cap := fld hd 64 5
  fld hd 127 1 == 1 && 1 ≤ cap && cap ≤ 20 && fld hd 69 58 == 0 && hd / 2 ^ 128 == 0 &&
    (fld hd 32 32 + 2 ^ 32 - fld hd 0 32) % 2 ^ 32 ≤ 2 ^ cap

/-- What a deck operation of R132 (0 PUSH, 1 POP, 2 STEAL) does to a header: its status where it moves nothing, else the place of
the entry it uses and the new TAIL and HEAD. -/
def deckStep (hd op : Nat) : Nat ⊕ (Nat × Nat × Nat) :=
  let cap := fld hd 64 5
  let tail := fld hd 32 32
  let head := fld hd 0 32
  let count := (tail + 2 ^ 32 - head) % 2 ^ 32
  let top := (tail + (2 ^ 32 - 1)) % 2 ^ 32
  if !deckOk hd then .inl 3
  else match op with
    | 0 => if count = 2 ^ cap then .inl 2 else .inr (tail % 2 ^ cap, tail + 1, head)
    | 1 => if count = 0 then .inl 1 else .inr (top % 2 ^ cap, top, head)
    | _ => if count = 0 then .inl 1 else .inr (head % 2 ^ cap, tail, head + 1)

/-- The first 8 bytes of a deck's header. -/
def deckHeader (tail head : Nat) : Nat := tail % 2 ^ 32 * 2 ^ 32 + head % 2 ^ 32

/-- A deck operation (R132): 0 PUSH, 1 POP, 2 STEAL; the status, and the value of POP and STEAL. The entry stands in
the bytes that follow the header; it lies in the tenant's windows, or the access faults WINDOW. -/
def deckOp (x : Ctx) (h : Hit) (op : Nat) (v : Word) : X (Nat × Option Nat) := do
  let hd ← msuOp x h 64 fun _ => none
  match deckStep hd op with
  | .inl status => return (status, none)
  | .inr (i, tail, head) =>
    let e := h.plus (64 + 8 * i)
    let raw := leafRaw h.pte h.level h.va + (e.pa - h.pa)
    require ((← get).inWindows x.tenant raw 8) causeAccess (syndrome 4 h.level 3 e.va.toNat)
    let w ← msuOp x e 8 fun _ => if op = 0 then some v.toNat else none
    let _ ← msuOp x h 8 fun _ => some (deckHeader tail head)
    return (0, if op = 0 then none else some w)

/-- A deck form: PUSH reads xb; POP and STEAL write it on OK alone, by the same reply (R276), which fills xb last where xd = xb
(DESIGN CHOICE, log 36). -/
def deckForm (f : SM) (op : Nat) : X Unit := atomically do
  let a ← readX f.xa
  let v ← if op = 0 then readX f.xb else pure 0
  reserveReply (if op = 0 then [f.xd] else [f.xd, f.xb])
  let x ← selfCtx
  let h ← objectHit x a 64 3
  ordBefore f.ord.toNat
  let r ← deckOp x h op v
  ordAfter f.ord.toNat f.scope.toNat
  match r.2 with
  | some w => reply [(f.xd, toWord r.1), (f.xb, toWord w)]
  | none => reply [(f.xd, toWord r.1)]

/-- DECK.PUSH (R132). -/
def execDeckPush (f : SM) (s : State) : Out := finish 8 (deckForm f 0) s
/-- DECK.POP (R132). -/
def execDeckPop (f : SM) (s : State) : Out := finish 8 (deckForm f 1) s
/-- DECK.STEAL (R132). -/
def execDeckSteal (f : SM) (s : State) : Out := finish 8 (deckForm f 2) s

/-! ### Clasps (R133, R134) -/

/-- A clasp for n arrivals, or none where the count is out of range (R134). -/
def claspFresh (n : Nat) : Option Nat := if 1 ≤ n && n < 2 ^ 24 then some (2 ^ 31 + n * 2 ^ 64 + n * 2 ^ 96) else none

/-- CLASP.INIT (R134). -/
def execClaspInit (f : SM) (s : State) : Out := finish (extSize f.ext) (do
  let a := (← readX f.xa) + f.value
  let n := (← readX f.xb).toNat
  reserveReply [f.xd]
  let x ← selfCtx
  let h ← objectHit x a 32 3
  ordBefore f.ord.toNat
  let _ ← msuOp x h 32 fun _ => claspFresh n
  ordAfter f.ord.toNat f.scope.toNat
  reply [(f.xd, if (claspFresh n).isSome then 0 else 3)]) s

/-- An arrival at a clasp (R134): status, phase and the clasp afterwards, or none where nothing changes; beside CLOSED and BAD,
which return no phase, the phase is 0 (DESIGN CHOICE, log 36). -/
def claspArrive (drop : Bool) (v : Nat) : Nat × Nat × Option Nat :=
  let reserved := fld v 24 6 != 0 || fld v 88 8 != 0 || fld v 120 8 != 0 || v / 2 ^ 128 != 0
  let next := fld v 96 24
  if fld v 31 1 = 0 || reserved then (3, 0, none)
  else if fld v 30 1 = 1 then (2, 0, none)
  else if drop && next == 0 then (3, 0, none)
  else
    let p := fld v 32 32
    let count := (fld v 0 24 + 1) % 2 ^ 24
    let next := if drop then next - 1 else next
    let v := putFld v 96 24 next
    if count = fld v 64 24 then
      let v := putFld (putFld (putFld v 32 32 (p + 1)) 0 24 0) 64 24 next
      (1, p, some (if next = 0 then putFld v 30 1 1 else v))
    else (0, p, some (putFld v 0 24 count))

/-- CLASP.ARRIVE and CLASP.DROP: releases (R162, R276). -/
def claspForm (f : SM) (drop : Bool) : X Unit := do
  let a := (← readX f.xa) + f.value
  reserveReply [f.xd]
  let x ← selfCtx
  let h ← objectHit x a 32 3
  ordBefore 2
  let old ← msuOp x h 32 fun v => (claspArrive drop v).2.2
  let r := claspArrive drop old
  reply [(f.xd, toWord (r.2.1 * 2 ^ 32 + r.1))]

/-- CLASP.ARRIVE (R134). -/
def execClaspArrive (f : SM) (s : State) : Out := finish (extSize f.ext) (claspForm f false) s
/-- CLASP.DROP (R134). -/
def execClaspDrop (f : SM) (s : State) : Out := finish (extSize f.ext) (claspForm f true) s

/-! ### Monitors (R135) -/

/-- The monitor of a core on a word. -/
def MemSys.monitor (ms : MemSys) (c : CoreId) (word : Nat) : Option Monitor :=
  ms.monitors.find? fun m => m.core == c && m.word == word

/-- The monitors a core has. -/
def MemSys.monitorCount (ms : MemSys) (c : CoreId) : Nat := (ms.monitors.filter (·.core == c)).length

/-- A monitor armed, or reused with FIRED cleared. -/
def MemSys.arm (ms : MemSys) (c : CoreId) (word : Nat) (tenant : BitVec 6) : MemSys :=
  { ms with monitors := ms.monitors.filter (fun m => !(m.core == c && m.word == word)) ++ [⟨c, word, tenant, false⟩] }

/-- CLASP.WAIT (R276, R277): armed before PHASE is read; with a full table it polls. -/
def execClaspWait (f : SM) (s : State) : Out := finish (extSize f.ext) (do
  let a := (← readX f.xa) + f.value
  let b ← readX f.xb
  reserveReply [f.xd]
  let x ← selfCtx
  let h ← objectHit x a 32 0
  let word := h.ga / 8
  let s ← get
  if s.self.wait == .clasp word true then throw (.wait (.clasp word true))
  let full := (s.ms.monitor s.cur word).isNone && 8 ≤ s.ms.monitorCount s.cur
  if !full then set { s with ms := s.ms.arm s.cur word x.tenant }
  let v ← tryCatch (msuOp x h 32 (fun _ => none) false) fun e => match e with
    | .trap 0x0B t => trap causeMemUE (setBits t 56 2 0)
    | e => throw e
  if fld v 31 1 = 0 then reply [(f.xd, 3)]
  else if fld v 32 32 != bits b 32 32 then
    modify fun s => s.orderAfter 1 f.scope.toNat
    reply [(f.xd, toWord (fld v 32 32 * 2 ^ 32))]
  else throw (.wait (.clasp word full))) s

/-- The word that a WAITA watches, read plainly after its arming: not from a line that this core's L1 held before (R139). -/
def waitaRead (x : Ctx) (h : Hit) : X Nat := do
  modSelf fun k => k.l1DropAddr h.ga 8
  spotRead x (.plain h) 8 0 (bits h.va 0 56)

/-- WAITA (R136, R276): host and remote words are watched too. -/
def execWaita (f : SM) (s : State) : Out := finish (extSize f.ext) (do
  let a := (← readX f.xa) + f.value
  let b ← readX f.xb
  reserveReply [f.xd]
  aligned a 8
  let x ← selfCtx
  let h ← resolveGlobal x a { kind := 0, n := 8, msu := true } anyFormat
  let word := h.ga / 8
  let size := extSize f.ext
  let s ← get
  if s.self.wait == .waita f.xd size word true then throw (.wait (.waita f.xd size word true))
  match s.ms.monitor s.cur word with
  | some m =>
    if m.fired then
      set { s with ms := s.ms.arm s.cur word x.tenant }
      reply [(f.xd, 0)]
    else
      let v ← waitaRead x h
      if v != b.toNat then reply [(f.xd, 0)]
      else throw (.wait (.waita f.xd size word false))
  | none =>
    if 8 ≤ s.ms.monitorCount s.cur then throw (.wait (.waita f.xd size word true))
    else
      set { s with ms := s.ms.arm s.cur word x.tenant }
      let v ← waitaRead x h
      if v != b.toNat then reply [(f.xd, 0)]
      else throw (.wait (.waita f.xd size word false))) s

/-! ### Events (R135, R136) -/

/-- MONITOR_EXPIRY (R135): an entry that no waiting instruction names is freed. -/
def execMonitorExpiry (c : CoreId) (word : Nat) (s : State) : Out := event (do
  let s ← get
  let named := match (s.core c).wait with
    | .waita _ _ w _ => w == word
    | .clasp w _ => w == word
    | _ => false
  whenever ((s.ms.monitor c word).isSome && !named)
  set { s with ms := { s.ms with monitors := s.ms.monitors.filter fun m => !(m.core == c && m.word == word) } }) s

/-- The status with which a WAITA on a word ends: CHANGED where its monitor has fired, and FIRED is cleared (R135, R136). -/
def waitaStatus (word : Nat) (status : Word) : X Word := do
  let s ← get
  match (s.ms.monitor s.cur word).filter (·.fired) with
  | some m =>
    set { s with ms := s.ms.arm s.cur word m.tenant }
    return 0
  | none => return status

/-- A waiting WAITA of the core that moves returns a status and completes. -/
def waitaReturn (full : Bool) (status : Word) : X Unit := do
  let k ← self
  match k.wait with
  | .waita xd size word w =>
    whenever (w == full && k.replies.length < 16)
    reply [(xd, ← waitaStatus word status)]
    modSelf fun k => k.retire size
  | _ => notNow

/-- WAITA_TIMEOUT (R136): SPURIOUS. -/
def execWaitaTimeout (c : CoreId) (s : State) : Out := eventOn c (waitaReturn false 1) s
/-- WAITA_MONFULL (R136): 512 cycles with every entry held by other words. -/
def execWaitaMonfull (c : CoreId) (s : State) : Out := eventOn c (waitaReturn true 2) s

/-- CLASP_WAIT_POLL (R136): a CLASP.WAIT without a monitor reads PHASE again. -/
def execClaspWaitPoll (c : CoreId) (s : State) : Out := eventOn c (do
  match (← self).wait with
  | .clasp _ true => modSelf fun k => { k with wait := .none }
  | _ => notNow) s

end Sys2Proof.Machine
end

