-- ==== Sys2Proof/Machine/Preempt.lean ====
section
/-! DEFINITION. Pre-emption of a member, its context image and its restoring, slice retirement, and the instructions that
hand the core back: YIELD and DONE (R97, R98, R135, R174, R184, R345, R360, R361, R366 to R372). -/

namespace Sys2Proof.Machine

/-! ### Slice retirement (R98) -/

/-- A slice's LMAP bit cleared, VCAP recomputed, the event logged; a core with fewer than 16 live slices leaves the
pool (R97, R98). A slice that is retired already stays so. -/
def State.retireSlice (s : State) (c : CoreId) (slice : BitVec 5) : State :=
  let k := s.core c
  if !(k.csrAt 0x005).getLsbD slice.toNat then s.modCore c fun k => { k with tk := { k.tk with retire := [] } } else
  let map := setBits (k.csrAt 0x005) slice.toNat 1 0
  let n := (List.range 32).foldl (fun n i => if map.getLsbD i then n + 1 else n) 0
  let s := s.setCore c
    { (k.setCsr 0x005 map).setCsr 0x004 (toWord (n * 2 ^ 32 + n * 8192)) with
      tk := { k.tk with retire := k.tk.retire.filter (· != slice), pool := k.tk.pool && 16 ≤ n } }
  s.elogCore c 4 1 slice.toNat 0 0

/-- SLICE_RETIREMENT (R98): under LANE = 1, at the next boundary of the running task, which is pre-empted first; the
save then retires the slice. -/
def execSliceRetirement (c : CoreId) (slice : BitVec 5) (s : State) : Out := event (do
  let s ← get
  let k := s.core c
  whenever ((k.csrAt 0x130).getLsbD 0 && (k.csrAt 0x005).getLsbD slice.toNat)
  match k.tk.task.bind s.task with
  | none =>
    set (s.retireSlice c slice)
    strandCheck
  | some t =>
    set ((s.modCore c fun k => { k with tk := { k.tk with
      retire := if k.tk.retire.contains slice then k.tk.retire else k.tk.retire ++ [slice] } }).preempt t)) s

/-! ### Saving (R366) -/

/-- What the image of a member holds: the thread unissued, WAITA returned with status 1 (R136, R184). -/
def savedWait : X Unit := do
  match (← self).wait with
  | .waita xd size word _ =>
    let v ← waitaStatus word 1
    modSelf fun k => (k.wr xd v).retire size
  | _ => modSelf fun k => { k with wait := .none }

/-- PREEMPTION_SAVE (R366): a member past step 1, with its replies arrived, its FOP frozen and its contributions performed: a
full fence at SYSTEM scope, its pots spilled (R345), the image, the core back to the Dealer with its failing slices retired
(R98). The gang is SAVED with its last member, and ended where its cores no longer qualify (R174). -/
def execPreemptionSave (c : CoreId) (s : State) : Out := eventOn c (do
  let k ← self
  whenever (k.tk.preempt == .stopping && k.replies.isEmpty && !k.fab.running && !(← get).sending c)
  match k.tk.task.bind (← get).task with
  | none => notNow
  | some t =>
    savedWait
    modify fun s =>
      let s := ((s.release.acquire c 5).spillPots c).modCore c fun k => { k with cache := { k.cache with ahead := [] } }
      let k := s.core c
      let (image, s) := s.writeImage t k.tk.slot k c
      let ctx : SavedCtx := { task := t.id, rank := k.tk.rank, core := c, slices := k.slices, image := image
                              body := { k with vec := k.vec.written } }
      let left := t.cores.filter (· != c)
      let s := { s with ms := s.ms.leaveCore c, dealer := { s.dealer with saved := s.dealer.saved ++ [ctx] } }
      let s := (s.modCore c Core.released).addRunCores t.tenant t.region (-1)
      if left.isEmpty then
        let s := { s with dealer := { s.dealer with clock := s.dealer.clock + 1 } }
        s.putTask { t with st := .saved, cores := [], since := s.dealer.clock, age := 0, dealt := [] }
      else s.putTask { t with st := .saving, cores := left }
    modify fun s => k.tk.retire.foldl (fun (s : State) slice => s.retireSlice c slice) s
    strandCheck) s

/-- PREEMPT_DELIVERY (R367, R357): after CONF_LOST and the ENGINE events due. -/
def execPreemptDelivery (c : CoreId) (s : State) : Out := eventOn c (do
  let k ← self
  whenever (k.boundary && k.tk.preempt == .due && !k.tk.conf && k.eng.events.isEmpty)
  modSelf fun k => { k with tk := { k.tk with preempt := .noticed } }
  takeAsync causePreempt 0) s

/-- PREEMPT_GRACE_EXPIRY (R367): 65,536 cycles since PREEMPT was delivered have passed without the member's YIELD; a member that
has entered a handler before the delivery is stopped without one. -/
def execPreemptGraceExpiry (c : CoreId) (s : State) : Out := eventOn c (do
  let k ← self
  whenever (k.tk.preempt == .noticed || (k.tk.preempt == .due && k.tf))
  modSelf fun k => { k with tk := { k.tk with preempt := .stopping } }) s

/-! ### Restoring (R370) -/

/-- The core of a restored member: everything of the context but what belongs to the core itself; its caches and planes
hold nothing of it yet. -/
def Core.resumed (k body : Core) (rank slot : Nat) (gen : Word) (priv : Priv) : Core :=
  { body with
    csr := coreCsrs.foldl (fun v n => v.setIfInBounds n (k.csrAt n)) body.csr
    priv := priv
    vec := { body.vec with errs := k.vec.errs }
    fab := { body.fab with planes := Fabric.reset.planes, lru := Fabric.reset.lru, active := none }
    acn := { body.acn with pend := k.acn.pend, opened := k.acn.opened }
    cache := { k.cache with pin := body.cache.pin }
    tk := { k.tk with rank := rank, slot := slot, preempt := .none, gen := gen, conf := body.tk.conf
                      finished := body.tk.finished } }

/-- Spilled pots of a restored member: open again in their tiles, RESUMED to the joiners told of the spilling, pending
joins answered (R345). -/
def State.unspill (s : State) (c : CoreId) : State :=
  (s.core c).acn.pots.foldl (fun (s : State) p =>
    if p.spilled then
      let told := p.joiners.filter (·.spilled)
      let p' := { p with spilled := false, joiners := p.joiners.map fun x => { x with spilled := false } }
      let s := s.modCore c fun k => k.putPot p'
      (told.foldl (fun (s : State) x => s.send (x.notice c p .resumed)) s).answerPending c p.tile
    else s.answerPending c p.tile) s

/-- CONTEXT_RESTORE (R370): a member of a gang dealt again: the header checked, the sections loaded; a wrong header ends the task
with CORRUPT. A gang with a core that has meanwhile been quiesced, or has a slice to retire, is pre-empted again (R415, R98). -/
def execContextRestore (c : CoreId) (s : State) : Out := eventOn c (do
  let s ← get
  let k := s.self
  whenever (k.tk.preempt == .restoring)
  match k.tk.task.bind s.task with
  | none => notNow
  | some t =>
    match s.dealer.saved.find? fun x => x.task == t.id && x.rank == k.tk.rank with
    | none => notNow
    | some x =>
      let a := (s.slotAddr t k.tk.slot 4096).getD 0
      let hdr := s.readHeader a
      if (s.slotAddr t k.tk.slot 4096).isNone || hdr.magic != imageMagic || hdr.version != 1 then
        abnormalEnd t.id true endCORRUPT
      else if k.slices < hdr.slices then abnormalEnd t.id true endSTRANDED
      else
        let body := x.body.loadImage hdr fun o n => s.runRead (a + o) n
        let body := body.setCsr 0x103 (setBits body.tstatus 8 1 (if hdr.tf then 1 else 0))
        modify fun s =>
          let s := { s with dealer := { s.dealer with saved := s.dealer.saved.filter fun y =>
            !(y.task == t.id && y.rank == x.rank) } }
          let s := s.modCore c fun k => k.resumed body k.tk.rank k.tk.slot hdr.gen hdr.priv
          let s := (s.unspill c).acquire c 5
          if t.cores.all fun d => (s.core d).tk.preempt != .restoring then
            let t := { t with st := .running, age := 0, q0 := 0 }
            let s := s.putTask t
            if t.cores.any fun d => s.dealer.quiesced.contains (dieOf d) || !(s.core d).tk.retire.isEmpty then s.preempt t else s
          else s) s

/-! ### YIELD and DONE -/

/-- YIELD (R360, R367). -/
def execYield (_f : SY) (s : State) : Out := finish 8 (do
  let s ← get
  let k := s.self
  if k.priv = .super && k.tk.preempt == .noticed then
    modSelf fun k => { k with tk := { k.tk with preempt := .stopping } }
  else match k.tk.task.bind s.task with
    | none => return
    | some t => if s.undisturbed t && s.wanted t then set (s.preempt t) else return) s

/-- A finished member of a gang that is being pre-empted has nothing to wait for (R184, R366). -/
def Core.doneStage (k : Core) : Core :=
  match k.tk.preempt with
  | .due | .noticed => { k with tk := { k.tk with preempt := .stopping } }
  | _ => k

/-- Every member of a task has finished, those that are saved already among them (R184). -/
def State.allFinished (s : State) (t : Task) : Bool :=
  (t.cores.all fun d => (s.core d).tk.finished) && (s.savedOf t.id).all (·.body.tk.finished)

/-- The member has finished; with the last one the task has ended (R170, R174, R361, R383). -/
def memberDone : X Unit := do
  modify fun s =>
    let c := s.cur
    let s := match s.self.tk.task with
      | some t => (s.closePots t c).closeJoins t c
      | none => s
    s.release.modSelf fun k => { k.doneStage with
      tk := { k.doneStage.tk with finished := true, gen := s.gcur }, wait := .none }
  let s ← get
  match s.self.tk.task.bind s.task with
  | none => return
  | some t =>
    if s.allFinished t then
      dropSaved t
      complete t false 0 true
      modify fun s => s.retireTask t
    else return

/-- Every suspended copy of the core that moves ended with its recorded status (R361). -/
def endSuspendedCopies : X Unit := do
  for o in (← self).eng.copies do
    if o.phase = .suspended then endCopy o.h

/-- DONE (R361): it waits until every command has completed; a nonzero immediate at SUPER ends the task (R175). -/
def execDone (f : SY) (s : State) : Out := finish (extSize f.ext) (do
  let k ← self
  let status := f.value.toNat
  if status != 0 then
    require (k.priv != .user) causePriv (Instr.word (.done f))
    match k.tk.task with
    | some t => atomically do
        modify fun s => s.modSelf fun k => { k with tk := { k.tk with gen := s.gcur } }
        abnormalEnd t false status
    | none => return
    throw .halt
  else
    endSuspendedCopies
    let k ← self
    waitSends
    awaiting (k.replies.isEmpty && !(k.eng.handles.toList.any (·.st == .busy)) && (k.eng.events.isEmpty || k.tf))
    atomically memberDone
    throw .halt) s

end Sys2Proof.Machine
end

