-- ==== Sys2Proof/Machine/Tenants.lean ====
section
/-! DEFINITION. Tenants: their creation, their reset and its end (R84, R90, R119, R169, R403, R404). -/

namespace Sys2Proof.Machine

/-- The bytes of every tile of a tenant on a core scrubbed, and its tiles freed (R90). -/
def Core.scrubTiles (k : Core) (t : BitVec 6) : Core :=
  (List.range 256).foldl (fun k i =>
    let e := k.tile i
    if e.v && e.tenant == t then (k.scratchZero e.start e.bytes).setTile i Tile.free else k) k

/-- Steps 1 to 3 and 5 on the cores: every task of the tenant is gone, with its pots, joins, copies and matrix operations;
tiles are scrubbed, monitors, bindings and planes freed. A held join of another node names a tenant of that node, and stays
(R347). -/
def State.endTasks (s : State) (t : BitVec 6) : State :=
  let mine := s.dealer.tasks.filter (·.tenant == t)
  let s := allCores.foldl (fun (s : State) c =>
    let k := s.core c
    if k.tk.tenant == t then s.setCore c { k.scrubTiles t with fab := Fabric.reset } else s) s
  let s := mine.foldl (fun (s : State) u => if u.holds then s.freeCores u else s) s
  let joins := fun (x : PendJoin) => s.isLocal x.node && x.tenant == t
  let s := s.modAll fun k =>
    if k.acn.pend.any joins then { k with acn := { k.acn with pend := k.acn.pend.filter fun x => !joins x } } else k
  let gone := mine.map (·.id)
  { s with
    dealer := { s.dealer with
      tasks := s.dealer.tasks.filter (·.tenant != t)
      saved := s.dealer.saved.filter fun x => !gone.contains x.task
      drained := s.dealer.drained.filter (· != t)
      noted := s.dealer.noted.filter (·.1 != t) }
    net := s.net.filter fun p => !(s.isLocal p.srcNode && gone.contains p.task)
    ms := { s.ms with monitors := s.ms.monitors.filter (·.tenant != t) } }

/-- A line that stands in address mode may be the tenant's: device memory in its windows, or a host page that its function's ATC
entries, or no function's, name. -/
def State.mayOwn (s : State) (t : BitVec 6) (a : Nat) : Bool :=
  if hostBase ≤ a then
    let named := fun (p : AtcEntry → Bool) => s.ms.atc.any fun e => p e && lineOf (hostBase + e.host * 4096) ≤ lineOf a &&
      lineOf a < lineOf (hostBase + (e.host + 1) * 4096)
    named (fun e => e.func == t.toNat + 1) || !named (fun _ => true)
  else s.inWindow t a || s.inWindow t (s.node * 2 ^ 42 + a)

/-- Step 4: tensor lines and replicas of the tenant are discarded with their dirty bytes; its address-mode lines are
written back. -/
def MemSys.endLines (ms : MemSys) (t : BitVec 6) (mine : Nat → Bool) : MemSys :=
  let ours := fun (key : LineKey) => match key with
    | .tensor u _ _ _ _ => u == t
    | .addr _ _ => false
  let ms := { ms with
    homes := ms.homes.filter fun h => !ours h.key
    replicas := ms.replicas.filter fun r => !ours r.key
    desc := ms.desc.filter (·.tenant != t)
    retired := ms.retired.filter (·.1 != t)
    flushFail := ms.flushFail.filter (·.1 != t) }
  let due := ms.homes.filter fun h => h.dirty != 0 && match h.key with
    | .addr (some u) _ => u == t
    | .addr none l => mine (l * 256)
    | _ => false
  due.foldl (fun m h => m.writeBack h) ms

/-- Step 6: cached translations and page requests of the tenant. -/
def State.endTranslations (s : State) (t : BitVec 6) : State :=
  let s := s.dropTranslations (fun e => e.tenant == t) (fun e => e.tenant == t)
  let f := t.toNat + 1
  { s with ms := { s.ms with
      atc := s.ms.atc.filter (·.func != f)
      atsWait := s.ms.atsWait.filter (·.1 != f)
      priWait := s.ms.priWait.filter (·.1 != f)
      atsSeek := s.ms.atsSeek.filter (·.2.1 != f)
      atsFail := s.ms.atsFail.filter (·.2.1 != f) } }

/-- Step 8: EN, HEAD and TAIL of the function's work queues are 0. -/
def State.endQueues (s : State) (f : Nat) : State :=
  { s with mmio := s.mmio.filterMap fun e =>
      let off := e.1 % 2 ^ 24
      if e.1 / 2 ^ 24 = f && 0x10_0000 ≤ off then
        let v := match off / 8 % 4 with
          | 0 => setBits e.2 63 1 0
          | 2 => 0
          | 3 => e.2 &&& 0x8000_0000_0000_0000
          | _ => e.2
        if v = 0 then none else some (e.1, v)
      else some e }

/-- The steps of a tenant reset in their order (R403); a reset in progress takes in a further one (R404). -/
def State.resetTenant (s : State) (t : BitVec 6) : State :=
  if s.inReset t then s
  else
    let f := t.toNat + 1
    let s := { s with root := { s.root with resets := t :: s.root.resets } }
    let s := s.endTasks t
    let ms := s.ms.endLines t (s.mayOwn t)
    let s := { s with ms := ms }.endTranslations t
    let s := ((s.leaveRun f).zeroizeKeys f).setTdi f .error
    s.endQueues f

/-- A write of TCTL.RST = 1 (R401, R406): a locked TDI first enters ERROR. -/
def State.writeRst (s : State) (t : BitVec 6) : State :=
  let f := t.toNat + 1
  let s := if s.tdi f = some .unlocked then s else (s.leaveRun f).setTdi f .error
  s.resetTenant t

/-- TENANT_RESET_START (R403). -/
def execTenantResetStart (t : BitVec 6) (s : State) : Out := event (modify fun s => s.writeRst t) s

/-- The tenant of a virtual function (R397). -/
def tenantOf (f : Nat) : Option (BitVec 6) := if 1 ≤ f && f ≤ 64 then some (BitVec.ofNat 6 (f - 1)) else none

/-- FUNCTION_LEVEL_RESET (R403). -/
def execFunctionLevelReset (func : Nat) (s : State) : Out := event (do
  match tenantOf func with
  | none => notNow
  | some t => modify fun s => s.resetTenant t) s

/-- VF_DISABLE (R403). -/
def execVfDisable (func : Nat) (s : State) : Out := event (do
  match tenantOf func with
  | none => notNow
  | some t => modify fun s => { s.resetTenant t with root := { (s.resetTenant t).root with
      vf := (s.resetTenant t).root.vf.set t.toNat false } }) s

/-- VF_ENABLE (R169, R401). -/
def execVfEnable (func : Nat) (s : State) : Out := event (do
  match tenantOf func with
  | none => notNow
  | some t => modify fun s => { s with root := { s.root with vf := s.root.vf.set t.toNat true } }) s

/-- The offset of TRSTAT in a virtual function's block (R401). -/
def trstat : Nat := 0x7_0008

/-- TENANT_RESET_COMPLETE (R403): DONE, and vector 0 of the physical function. -/
def execTenantResetComplete (t : BitVec 6) (s : State) : Out := event (do
  whenever ((← get).inReset t)
  modify fun s =>
    let s := { s with root := { s.root with resets := s.root.resets.filter (· != t) } }
    (s.setReg (t.toNat + 1) trstat 0x8000_0000_0000_0000).raise 0 0) s

/-- TRSTAT_DONE_CLEAR (R401). -/
def execTrstatDoneClear (t : BitVec 6) (s : State) : Out := event (modify fun s => s.setReg (t.toNat + 1) trstat 0) s

end Sys2Proof.Machine
end

