-- ==== Sys2Proof/Machine/Mmio.lean ====
section
/-! DEFINITION. Writes of the memory-mapped registers (R22, R39, R351, R371, R379, R380, R393, R398 to R401, R406, R408,
R411, R413). -/

namespace Sys2Proof.Machine

/-! ### Locked configuration (R406) -/

/-- The configuration of a function is locked. -/
def State.locked (s : State) (f : Nat) : Bool := match s.tdi f with
  | some .locked | some .run | some .error => true
  | _ => false

/-- A configuration write of function f: discarded and logged while it is locked. -/
def State.configure (s : State) (f : Nat) (w : State → State) : State :=
  if s.locked f then s.elog f 15 1 0xFF 0 0 0 else w s

/-! ### Work queues (R380) -/

/-- WQBASE written: EN alone while EN = 1 or while the configuration is locked; a 1 over 0 clears HEAD and TAIL. -/
def State.writeWqbase (s : State) (f q : Nat) (v : Word) : State :=
  let old := s.reg f (wqOff q 0)
  let fields := v &&& 0x000F_FFFF_FFFF_FFDF
  let keep := old &&& 0x000F_FFFF_FFFF_FFDF
  let held := s.locked f && fields != keep
  let s := if held then s.elog f 15 1 0xFF q 0 0 else s
  let new := (if old.getLsbD 63 || s.locked f then keep else fields) ||| (v &&& 0x8000_0000_0000_0000)
  let s := s.setReg f (wqOff q 0) new
  if v.getLsbD 63 && !old.getLsbD 63 then
    (s.setReg f (wqOff q 2) 0).setReg f (wqOff q 3) (s.reg f (wqOff q 3) &&& 0x8000_0000_0000_0000)
  else s

/-- WQREG written. -/
def State.writeWqreg (s : State) (f q : Nat) (v : Word) : State :=
  if s.locked f then s.elog f 15 1 0xFF q 0 0
  else if (s.reg f (wqOff q 0)).getLsbD 63 then s
  else s.setReg f (wqOff q 1) (v &&& 0xFFFF)

/-- A doorbell (R380, R404): TAIL; an overrun sets ERR, clears EN and raises the tenant's error interrupt. -/
def State.writeWqtail (s : State) (f q : Nat) (v : Word) : State :=
  if f != 0 && s.inReset (BitVec.ofNat 6 (f - 1)) then s
  else
    let s := s.setReg f (wqOff q 2) (v &&& 0xFFFF_FFFF)
    let b := s.reg f (wqOff q 0)
    let h := s.reg f (wqOff q 3)
    if b.getLsbD 63 && 2 ^ bits b 0 5 < (bits v 0 32 + 2 ^ 32 - bits h 0 32) % 2 ^ 32 then
      let s := (s.setReg f (wqOff q 3) (setBits h 63 1 1)).setReg f (wqOff q 0) (setBits b 63 1 0)
      (s.elog f 8 1 0xFF q 0 0).raise f 0
    else s

/-- WQHEAD written: a 1 clears ERR. -/
def State.writeWqhead (s : State) (f q : Nat) (v : Word) : State :=
  if v.getLsbD 63 then s.setReg f (wqOff q 3) (setBits (s.reg f (wqOff q 3)) 63 1 0) else s

/-- Function f has a local queue q (R379). -/
def State.hasQueue (s : State) (f q : Nat) : Bool := 1 ≤ f && f ≤ 64 && q < s.queues (f - 1)

/-! ### Interrupt vectors (R399) -/

/-- A vector unmasked: a pending event is sent. -/
def State.unmask (s : State) (f v : Nat) : State :=
  let s := { s with root := { s.root with
    unmasked := if s.root.unmasked.contains (f, v) then s.root.unmasked else (f, v) :: s.root.unmasked } }
  if s.root.pba.contains (f, v) then
    { s with root := { s.root with pba := s.root.pba.filter (· != (f, v)), msix := s.root.msix ++ [(f, v)] } }
  else s

def State.mask (s : State) (f v : Nat) : State :=
  { s with root := { s.root with unmasked := s.root.unmasked.filter (· != (f, v)) } }

/-! ### One register (R398) -/

/-- A write of 8 bytes at an offset of function f's block, to a group below the work queues. -/
def State.writeGroup (s : State) (f off : Nat) (v : Word) : State :=
  if off < 0x1_0000 then s
  else if off = tiva then s.setReg f off (v &&& 0x00FF_FFFF_FFFF_F000)
  else if off = tilen then s.setReg f off (v &&& 0xFFFF_FFFF)
  else if off = ticmd then s.writeTicmd f v
  else if off = ticpl then s.setReg f off (v &&& 0x000F_FFFF_FFFF_FFF8)
  else if off < 0x2_0000 then s
  else if off < 0x2_4000 then
    if f = 0 && off % 0x100 < 0x80 then
      let t := (off - 0x2_0000) / 0x100
      s.configure (t + 1) fun s => s.writeTwin t (off % 0x100 / 8) v
    else s
  else if 0x3_0000 ≤ off && off < 0x3_0040 then s.setReg f off v
  else if off = 0x4_0000 then s.setReg 0 0x4_0000 (s.gcur + 1)
  else if off = 0x4_0010 then s.setReg f off v
  else if 0x5_0000 ≤ off && off < 0x5_0800 then
    if f = 0 then
      s.configure ((off - 0x5_0000) / 32 + 1) fun s => match off / 8 % 4 with
        | 0 => s.setReg 0 off (v &&& 0x800F_FFFF_FFFF_FF80)
        | 1 => s.setReg 0 off (v &&& 0x0000_7FFF_0000_7FFF)
        | 2 => s.setReg 0 off (v &&& 0x1_FFFF)
        | _ => s
    else s
  else if 0x6_0000 ≤ off && off < 0x6_0028 then
    if f = 0 then s.setReg 0 off (v &&& 0xFFFF) else s
  else if 0x7_0000 ≤ off && off < 0x7_0800 then
    if f = 0 then
      if off % 32 = 0 then
        let t := (off - 0x7_0000) / 32
        if v.getLsbD 63 then
          let s := if s.locked (t + 1) then s else s.setReg 0 off (v &&& 0x0000_FFFF_0000_0000)
          s.writeRst (BitVec.ofNat 6 t)
        else s.configure (t + 1) fun s => s.setReg 0 off (v &&& 0x0000_FFFF_0000_0000)
      else s
    else if off = trstat && v.getLsbD 63 then s.setReg f off 0
    else s
  else if 0x7_2000 ≤ off && off < 0x7_4000 then
    if f = 0 then
      s.configure ((off - 0x7_2000) / 0x80 + 1) fun s => s.setReg 0 off (v &&& 0x8000_0000_0000_FFFF)
    else s
  else if off = 0x8_0000 then s.setReg f off (v &&& 0xC00F_FFFF_FFFF_FFFF)
  else if off = 0x8_0010 then s.setReg f off (v &&& 0xFFFF_FFFF)
  else if 0x9_0000 ≤ off && off < 0x9_1000 then
    let n := (off - 0x9_0000) / 16
    if off % 16 = 8 then
      let s := s.setReg f off (v &&& 0xFFFF_FFFF)
      if v.getLsbD 32 then s.mask f n else s.unmask f n
    else s.setReg f off v
  else if f = 0 && off = 0xA_0000 then
    if s.links.ports.toList.any (·.st == 2) then s else s.setReg 0 off (v &&& 0x3FF)
  else if f = 0 && 0xA_1000 ≤ off && off < 0xA_3000 then s.setReg 0 off (v &&& 0xFF_FFFF)
  else s

/-- A write of 8 bytes to a register. -/
def State.writeReg (s : State) (f off : Nat) (v : Word) : State :=
  if 64 < f || 2 ^ 24 ≤ off || off % 8 != 0 then s
  else if 0x10_0000 ≤ off then
    let q := (off - 0x10_0000) / 32
    if s.hasQueue f q then
      match off / 8 % 4 with
      | 0 => s.writeWqbase f q v
      | 1 => s.writeWqreg f q v
      | 2 => s.writeWqtail f q v
      | _ => s.writeWqhead f q v
    else s
  else s.writeGroup f off v

/-- The bits of a register that a 1 clears (R39, R380, R401). -/
def w1cBits (f off : Nat) : Word :=
  if off = ticmd then 0x2000_0000_0000_0000
  else if (f != 0 && off = trstat) || (0x10_0000 ≤ off && off / 8 % 4 = 3) then 0x8000_0000_0000_0000
  else 0

/-- A store of the bits of a mask to a register: the others are written as they read, and no bit of them that a 1 clears
(DESIGN CHOICE, log 11). -/
def State.writePart (s : State) (f off mask : Nat) (v : Word) : State :=
  let m := toWord mask
  s.writeReg f off (((s.mmioRead f off &&& ~~~w1cBits f off) &&& ~~~m) ||| (v &&& m))

/-- MMIO_WRITE (R398). -/
def execMmioWrite (func offset : Nat) (value : Word) (s : State) : Out := event (modify fun s => s.writeReg func offset value) s

/-- TWIN_WRITE (R24). -/
def execTwinWrite (t : BitVec 6) (w : BitVec 4) (value : Word) (s : State) : Out :=
  event (modify fun s => s.writeReg 0 (0x2_0000 + 0x100 * t.toNat + 8 * w.toNat) value) s

/-- GENCMD_WRITE (R371). -/
def execGencmdWrite (s : State) : Out := event (modify fun s => s.writeReg 0 0x4_0000 0) s

/-- WQTAIL_DOORBELL (R380). -/
def execWqtailDoorbell (func q : Nat) (value : Word) (s : State) : Out :=
  event (modify fun s => s.writeReg func (wqOff q 2) value) s

/-- WQBASE_WRITE (R380). -/
def execWqbaseWrite (func q : Nat) (value : Word) (s : State) : Out :=
  event (modify fun s => s.writeReg func (wqOff q 0) value) s

/-- WQHEAD_ERR_CLEAR (R380). -/
def execWqheadErrClear (func q : Nat) (s : State) : Out :=
  event (modify fun s => s.writeReg func (wqOff q 3) 0x8000_0000_0000_0000) s

/-- NODEID_WRITE (R408). -/
def execNodeidWrite (value : Word) (s : State) : Out := event (modify fun s => s.writeReg 0 0xA_0000 value) s

/-- MSIX_UNMASK (R399). -/
def execMsixUnmask (func : Nat) (vector : BitVec 8) (s : State) : Out := event (do
  whenever (func ≤ 64)
  modify fun s => s.unmask func vector.toNat) s

end Sys2Proof.Machine
end

