-- ==== Sys2Proof/Machine/Links.lean ====
section
/-! DEFINITION. The links: errors and service of a port, and requests of other nodes (R408 to R411). -/

namespace Sys2Proof.Machine

/-! ### Ports (R410) -/

def State.port (s : State) (p : Nat) : Port := (s.links.ports[p]?).getD Port.reset

def State.setPort (s : State) (p : Nat) (v : Port) : State :=
  { s with links := { s.links with ports := s.links.ports.setIfInBounds p v } }

/-- Live lanes of a port. -/
def Port.live (p : Port) : Nat := (List.range 8).foldl (fun n i => if p.lanes.getLsbD i then n + 1 else n) 0

/-- The port carries traffic. -/
def Port.up (p : Port) : Bool := p.st == 2

/-- An event of a port logged by the physical function. -/
def State.logPort (s : State) (port sev : Nat) (detail : Word) : State := s.elog 0 13 sev 0xFF port 0 detail

/-- A port retired and logged (R410). -/
def State.retirePort (s : State) (port : Nat) : State := (s.setPort port { (s.port port) with st := 3 }).logPort port 1 0

/-- FLIT_CRC_FAIL (R410): the flit being sent fails once more; up to 512 flits are sent again; REPLAYS counts them, saturating. -/
def execFlitCrcFail (port : Nat) (s : State) : Out := event (do
  let s ← get
  let p := s.port port
  whenever p.up
  let n := 1 + (Config.freeWord s.tick).toNat % 512
  let p := { p with replays := BitVec.ofNat 32 (min (2 ^ 32 - 1) (p.replays.toNat + n)), fails := p.fails + 1 }
  set (({ s with tick := s.tick + 1 }.setPort port p).logPort port 0 (toWord n))) s

/-- Rounds of the root unit so far, a microsecond each (R386). -/
def State.rounds (s : State) : Nat := (s.reg 0 0x4_0018).toNat

/-- Retrainings of a port within the last second (R410). -/
def State.lately (s : State) (p : Port) : Nat := (p.retrains.filter fun t => s.rounds < t + 1000000).length

/-- PORT_RETRAIN (R410): after 16 consecutive failures. -/
def execPortRetrain (port : Nat) (s : State) : Out := event (do
  let s ← get
  let p := s.port port
  whenever (p.up && 16 ≤ p.fails)
  set ((s.setPort port { p with st := 1, fails := 0, retrains := p.retrains ++ [s.rounds] }).logPort port 1 0)) s

/-- LINK_TRAINING_COMPLETE (R410): the first training brings up all eight lanes. -/
def execLinkTrainingComplete (port : Nat) (s : State) : Out := event (do
  let s ← get
  let p := s.port port
  whenever (port < 24 && (p.st == 0 || p.st == 1))
  set (s.setPort port { p with st := 2, lanes := if p.st = 0 then 0xFF else p.lanes, fails := 0 })) s

/-- LANE_RETIRE (R410): a port left with fewer than four live lanes is retired with it. -/
def execLaneRetire (port : Nat) (lane : BitVec 3) (s : State) : Out := event (do
  let s ← get
  let p := s.port port
  whenever (p.lanes.getLsbD lane.toNat)
  let p := { p with lanes := p.lanes &&& ~~~((1 : BitVec 8) <<< lane.toNat) }
  let s := (s.setPort port p).logPort port 1 (toWord lane.toNat)
  set (if p.live < 4 && p.st != 3 then s.retirePort port else s)) s

/-- PORT_RETIRE (R410): three retrainings within one second, or fewer than four live lanes. -/
def execPortRetire (port : Nat) (s : State) : Out := event (do
  let s ← get
  let p := s.port port
  whenever ((p.st == 1 || p.st == 2) && (3 ≤ s.lately p || p.live < 4))
  set (s.retirePort port)) s

/-- LANE_RECALIBRATION (R410): the port runs on without the lane, and with it again; no flit is lost. -/
def execLaneRecalibration (port : Nat) (lane : BitVec 3) (s : State) : Out := event (do
  let p := (← get).port port
  whenever (p.up && p.lanes.getLsbD lane.toNat)) s

/-! ### Requests of other nodes (R411) -/

/-- The new value of a remote atomic: those of amoNew, and 10 compare-and-swap, whose value holds the comparand below the
new value. -/
def remoteNew (op w old v : Nat) : Option Nat :=
  if op = 10 then (if old = v % 2 ^ w then some (v / 2 ^ w % 2 ^ w) else none) else amoNew op w old (v % 2 ^ w)

/-- The bytes a remote request touches. -/
def remoteBytes : RemoteOp → Nat
  | .load n => n
  | .store n _ => n
  | .amo _ n _ => n
  | .scatterAdd t _ _ => ETwidth t / 8
  | .claim _ => 16
  | .deck _ _ => 64
  | .claspInit _ => 32
  | .clasp _ => 32

/-- An operation of another node at the MSU of a location: the old value, or none where it is poisoned (R124, R137). -/
def remoteMsu (pa n : Nat) (f : Nat → Option Nat) : X (Option Nat) := do
  whenever (pa % n == 0)
  bisnpCheck pa n
  let (ms, old, bad) := (← get).ms.msuRead pa n
  modify fun s => { s with ms := ms }
  if bad then return none
  match f old with
  | some v => modify fun s => { s with ms := s.ms.portWrite pa n v }
  | none => pure ()
  return some old

/-- A deck operation of another node (R132): an entry outside the tenant's windows ends it with nothing done. -/
def remoteDeck (u : BitVec 6) (raw pa op : Nat) (v : Word) : X Unit := do
  match ← remoteMsu pa 64 fun _ => none with
  | none => return
  | some hd => match deckStep hd op with
    | .inl _ => return
    | .inr (i, tail, head) =>
      whenever ((← get).inTables u (raw + 64 + 8 * i) 8)
      let _ ← remoteMsu (pa + 64 + 8 * i) 8 fun _ => if op = 0 then some v.toNat else none
      let _ ← remoteMsu pa 8 fun _ => some (deckHeader tail head)

/-- REMOTE_REQUEST_ARRIVAL (R124, R411): performed as the paired tenant's own, inside its KIND 0 windows; else refused, and nothing
happens here. -/
def execRemoteRequestArrival (node : BitVec 10) (tenant : BitVec 6) (pa : Nat) (op : RemoteOp) (s : State) : Out := event (do
  let s ← get
  whenever (s.node != 0)
  match s.pairOf node.toNat tenant.toNat with
  | none => return
  | some u =>
    let n := max 1 (remoteBytes op)
    whenever (!s.inReset u && s.inTables u pa n)
    let raw := pa
    let pa := s.localize pa
    match op with
    | .load _ => set { s with ms := s.ms.settle pa n }
    | .store _ v =>
      bisnpCheck pa n
      modify fun s => s.writeLines (n / 256 + 2) pa n v
    | .amo o _ v =>
      whenever (n == 4 || n == 8)
      let _ ← remoteMsu pa n fun old => remoteNew o (8 * n) old v
    | .scatterAdd t rm v =>
      whenever ((t.isAmo || t.isFlt) && pa % n == 0)
      bisnpCheck pa n
      modify fun s =>
        let s := { s with ms := s.ms.recall pa n }
        if s.ms.poisoned pa n then s.elog (u.toNat + 1) 12 1 0xFF (portOf pa).1 (toWord pa) 0
        else { s with ms := s.ms.scatterAdd { pa := pa, et := t, rm := rm, value := v, tenant := u } }
    | .claim c => let _ ← remoteMsu pa 16 fun o => some (putFld o 0 64 ((claimGrant o c).1 + (claimGrant o c).2))
    | .deck o v => remoteDeck u raw pa o v
    | .claspInit e => let _ ← remoteMsu pa 32 fun _ => claspFresh e
    | .clasp drop => let _ ← remoteMsu pa 32 fun o => (claspArrive drop o).2.2) s

/-- REMOTE_REQUEST_TIMEOUT (R411): 200 us without an answer; the access ends when it is examined again. -/
def execRemoteRequestTimeout (c : CoreId) (s : State) : Out := eventOn c (do
  match (← self).wait with
  | .remote node false =>
    modSelf fun k => { k with wait := .remote node true }
    modify fun s => s.elogCore c 14 1 0 0 (toWord node)
  | _ => notNow) s

end Sys2Proof.Machine
end

