-- ==== Sys2Proof/Machine/Errors.lean ====
section
/-! DEFINITION. Errors that end tasks or reset the device, service of the device, and management requests (R84, R412, R415,
R416). -/

namespace Sys2Proof.Machine

/-- MACHINE_CHECK (R412): every function is reset, and the event logged in the physical function's log. -/
def execMachineCheck (s : State) : Out := event (modify fun s =>
  let s := s.logIn 0 16 3 0xFF 0 0 0
  (List.range 64).foldl (fun (s : State) t =>
    if (s.root.vf[t]?).getD false then s.resetTenant (BitVec.ofNat 6 t) else s) s) s

/-- UNCONTAINED_END (R412): an uncorrectable error in the control state of a core ends its member's task. -/
def execUncontainedEnd (c : CoreId) (s : State) : Out := event (do
  match ((← get).core c).tk.task with
  | none => notNow
  | some t =>
    modify fun s => s.elogCore c 16 2 0 0 (toWord t)
    abnormalEnd t true endUNCONTAINED) s

/-- FIRMWARE_UPDATE (R415): rounds pause; a second one ends the pause, with the new image in use. -/
def execFirmwareUpdate (s : State) : Out := event (modify fun s =>
  { s with
    dealer := { s.dealer with paused := !s.dealer.paused }
    root := { s.root with updates := if s.dealer.paused then s.root.updates + 1 else s.root.updates } }) s

/-- The clusters of a die. -/
def dieClusters (d : BitVec 2) : List (BitVec 6) := (List.range 16).map fun i => BitVec.ofNat 6 (d.toNat * 16 + i)

/-- The cores of a die. -/
def dieCores (d : BitVec 2) : List CoreId := (List.range 64).map fun i => BitVec.ofNat 8 (d.toNat * 64 + i)

/-- The banks of a die emptied: of its clusters, blocks and its own (R118, R415). -/
def emptyDie (d : BitVec 2) : X Unit := do
  for i in List.range 16 do emptyBank (0, d.toNat * 16 + i)
  for i in List.range 4 do emptyBank (1, d.toNat * 4 + i)
  emptyBank (2, d.toNat)
  modify fun s =>
    let s := (dieCores d).foldl (fun (s : State) c => s.modCore c Core.l1Clear) s
    let keep := (dieClusters d).foldl (fun (p : BitVec 64) c => p &&& ~~~((1 : BitVec 64) <<< c.toNat)) (BitVec.allOnes 64)
    let unseen := fun (e : SnoopEntry) => { e with presence := e.presence &&& keep }
    let ms := s.ms
    { s with ms := { ms with
        replicas := ms.replicas.filter fun r => !((dieClusters d).contains r.cluster)
        snoop := ms.snoop.map unseen } }

/-- DIE_QUIESCE (R415): the die's cores leave the pool, their gangs are pre-empted, its banks empty. -/
def execDieQuiesce (die : BitVec 2) (s : State) : Out := event (do
  modify fun s =>
    let s := (dieCores die).foldl (fun (s : State) c => s.modCore c fun k => { k with tk := { k.tk with pool := false } }) s
    let s := { s with dealer := { s.dealer with
      quiesced := if s.dealer.quiesced.contains die then s.dealer.quiesced else die :: s.dealer.quiesced } }
    s.dealer.tasks.foldl (fun (s : State) t => if t.cores.any fun c => dieOf c == die then s.preempt t else s) s
  emptyDie die) s

/-- DIE_RETURN (R415): the die's cores return to the pool, but for those withdrawn (R98). -/
def execDieReturn (die : BitVec 2) (s : State) : Out := event (do
  let s ← get
  whenever (s.dealer.quiesced.contains die && (dieCores die).all fun c => (s.core c).tk.task.isNone)
  emptyDie die
  modify fun s =>
    let s := (dieCores die).foldl (fun (s : State) c =>
      s.modCore c fun k => { k with tk := { k.tk with pool := !k.withdrawn } }) s
    { s with dealer := { s.dealer with quiesced := s.dealer.quiesced.filter (· != die) } }) s

/-- MCTP_REQUEST (R416): answered; no program sees it. -/
def execMctpRequest (s : State) : Out := event (modify fun s =>
  { s with root := { s.root with mctp := s.root.mctp + 1 } }) s

/-- DEVICE_RESET (R84): every register, CSR, tile table and MMIO register at its reset value; what stands in the stacks, in
the host and in other nodes is not the reset's. -/
def execDeviceReset (s : State) : Out := event (modify fun s =>
  { State.reset with
    cur := s.cur
    agenda := s.agenda
    tick := s.tick
    ms := { MemSys.reset with mem := s.ms.mem, poison := s.ms.poison, host := s.ms.host, remote := s.ms.remote }
    links := { State.reset.links with refuse := s.links.refuse, silent := s.links.silent }
    root := { State.reset.root with msix := s.root.msix }
    step := s.step }) s

end Sys2Proof.Machine
end

