-- ==== Sys2Proof/Machine/Power.lean ====
section
/-! DEFINITION. The power arbiter: limits, demands, grants and the state each core reports (R393 to R396). Nothing here
changes a result (R5, R395). -/

namespace Sys2Proof.Machine

/-! ### Division (R394) -/

/-- One pass of the division of R among demands and weights: demands that their share at the present λ covers are met in
full; met stays marked. -/
def meetDemands (r : Nat) (xs : List (Nat × Nat × Bool)) : List (Nat × Nat × Bool) :=
  let rest := r - xs.foldl (fun a x => if x.2.2 then a + x.1 else a) 0
  let w := xs.foldl (fun a x => if x.2.2 then a else a + x.2.1) 0
  xs.map fun x => if x.2.2 || x.1 * w ≤ x.2.1 * rest then (x.1, x.2.1, true) else x

/-- Shares min(d, w × λ) of R, λ as large as their sum allows, rounded down. -/
def divideUp (r : Nat) (xs : List (Nat × Nat)) : List Nat :=
  let ys := Nat.repeat (meetDemands r) xs.length (xs.map fun x => (x.1, x.2, false))
  let rest := r - ys.foldl (fun a x => if x.2.2 then a + x.1 else a) 0
  let w := ys.foldl (fun a x => if x.2.2 then a else a + x.2.1) 0
  ys.map fun x => if x.2.2 then x.1 else x.2.1 * rest / w

/-- The sum of a list. -/
def total (xs : List Nat) : Nat := xs.foldl (· + ·) 0

/-! ### The interval -/

/-- The package limit (R393): PWRLIM within 9,600 and 35,200, and whether the root management core lowers it. -/
def State.powerLimit (s : State) : Nat × Bool :=
  let l := max 9600 (min 35200 (bits (s.reg 0 0x6_0000) 0 16))
  match s.root.thermal with
  | some t => if t.toNat < l then (t.toNat, true) else (l, false)
  | none => (l, false)

/-- A core's weight: the effective PWRSHARE of its task's region, 0 acting as 1 (R394). -/
def State.powerWeight (s : State) (k : Core) : Nat :=
  match k.tk.task.bind s.task with
  | none => 1
  | some t =>
    let p := s.pathOf t
    if p.isEmpty then 1 else max 1 (eff p 6 Node.pwrshare)

/-- A unit of the core ramps (R395, R396). -/
def Core.ramping (k : Core) : Bool := k.tk.ramp.any (· != 0)

/-- The core's PWRSTAT at the start of an interval (R396); gated: cycles gated in the last one. -/
def Core.powerStat (k : Core) (grant demand src gated : Nat) : Core :=
  let old := bits (k.csrAt 0x068) 0 28
  let ramp := if k.ramping then 1 else 0
  k.setCsr 0x068 (toWord (grant % 2 ^ 16 * 2 ^ 48 + demand % 2 ^ 16 * 2 ^ 32 + src * 2 ^ 30 +
    (if gated = 0 then 0 else 2 ^ 29) + ramp * 2 ^ 28 + min (2 ^ 28 - 1) (old + gated)))

/-- POWER_INTERVAL (R394): demands are hardware's estimates, free values, beside each requester's floor. -/
def execPowerInterval (s : State) : Out := event (do
  let s ← get
  let free := fun (i : Nat) => (Config.freeWord (s.tick + i)).toNat
  let demand := fun (i : Nat) => free i % 2 ^ 16
  let floors := (List.range 306).map Config.powerFloor
  let others := (List.range 50).map fun i => demand (256 + i)
  let (limit, lowered) := s.powerLimit
  let xs := (List.range 256).map fun i => (demand i, s.powerWeight (s.core (BitVec.ofNat 8 i)))
  let package := divideUp (limit - total floors - total others) xs
  let ofDie := fun (d : Nat) =>
    let ilim := min 10240 (bits (s.reg 0 (0x6_0008 + 8 * d)) 0 16)
    let base := total ((floors.drop (64 * d)).take 64)
    let g := (package.drop (64 * d)).take 64
    if total g + base ≤ Config.dieWatts ilim then g.map fun x => (x, false)
    else (divideUp (Config.dieWatts ilim - base) ((xs.drop (64 * d)).take 64)).zip g |>.map fun x => (min x.1 x.2, true)
  let shares := [0, 1, 2, 3].flatMap ofDie
  let cores := allCores.zip (shares.zip xs)
  set { s with tick := s.tick + 563 }
  modify fun s =>
    let s := cores.foldl (fun (s : State) q =>
      let i := q.1.toNat
      let src := if q.2.1.2 then 2 else if q.2.2.1 ≤ q.2.1.1 then 0 else if lowered then 3 else 1
      s.modCore q.1 fun k => k.powerStat (Config.powerFloor i + q.2.1.1) q.2.2.1 src (free (306 + i) % 5001)) s
    s.setReg 0 0x6_0028 (toWord (free 562 % 2 ^ 16))) s

/-- UNIT_RAMP (R395): a unit of a core restarts at 1/16 of its issue rate, or rises by 1/16. -/
def execUnitRamp (c : PowerUnit) (s : State) : Out := event (modify fun s => s.modCore c.core fun k =>
  let k := { k with tk := { k.tk with ramp := k.tk.ramp.set c.unit.toNat (k.tk.ramp[c.unit.toNat] + 1) } }
  k.setCsr 0x068 (setBits (k.csrAt 0x068) 28 1 (if k.ramping then 1 else 0))) s

/-- THERMAL_LIMIT_CHANGE (R393): the effective limit is lowered below LIMIT, or restored. -/
def execThermalLimitChange (limit : BitVec 16) (s : State) : Out := event (modify fun s =>
  let s := { s with root := { s.root with thermal := none } }
  if limit.toNat < s.powerLimit.1 then { s with root := { s.root with thermal := some limit } } else s) s

end Sys2Proof.Machine
end

