-- ==== Sys2Proof/Machine/ScalarFp.lean ====
section
/-! DEFINITION. The scalar floating-point instructions (R218 to R221). -/

namespace Sys2Proof.Machine

/-- The end of a scalar floating-point instruction: an enabled flag traps before xd is written; otherwise the flags
go into FFLAGS and the result into xd, zero-extended (R218, R358). -/
def fpDone (xd : BitVec 6) (r : Word × Flags) : X Unit := do
  freeX xd
  require (!(← self).trapping r.2) causeFpTrap (fpTrapValue r.2 0 false)
  modSelf (·.orFlags r.2)
  writeX xd r.1

/-- An operand of a format: the low bits of its register (R218). -/
def fmtBits (fmt : FFmt) (a : Word) : Nat := a.toNat % 2 ^ (FFmtfmt fmt).width

/-- A form of two floating-point operands (R219). -/
def fp2 (fmt : FFmt) (f : SA) (op : FpFmt → BitVec 2 → Nat → Nat → Nat × Flags) : X Unit := do
  let a ← readX f.xa
  let b ← readX f.xb
  let r := op (FFmtfmt fmt) (← self).frm (fmtBits fmt a) (fmtBits fmt b)
  fpDone f.xd (toWord r.1, r.2)

/-- A comparison: its result and whether a quiet NaN raises NV (R220). -/
def fpCompare (fmt : FFmt) (f : SA) (quietNV : Bool) (op : Option Ordering → Bool) : X Unit := do
  let a ← readX f.xa
  let b ← readX f.xb
  let F := FFmtfmt fmt
  let x := F.decode (fmtBits fmt a)
  let y := F.decode (fmtBits fmt b)
  let nv := x.signals || y.signals || (quietNV && (x.isNaN || y.isNaN))
  fpDone f.xd (bitWord (op (F.compare (fmtBits fmt a) (fmtBits fmt b))), flagIf nv flagNV)

/-- FADD (R219). -/
def execFadd (fmt : FFmt) (f : SA) (s : State) : Out := finish 8 (fp2 fmt f fun F rm a b => F.add rm a b) s
/-- FSUB (R219). -/
def execFsub (fmt : FFmt) (f : SA) (s : State) : Out := finish 8 (fp2 fmt f fun F rm a b => F.sub rm a b) s
/-- FMUL (R219). -/
def execFmul (fmt : FFmt) (f : SA) (s : State) : Out := finish 8 (fp2 fmt f fun F rm a b => F.mul rm a b) s
/-- FFMA (R219). -/
def execFfma (fmt : FFmt) (f : SA) (s : State) : Out := finish 8 (do
  let a ← readX f.xa
  let b ← readX f.xb
  let c ← readX f.xc
  let r := (FFmtfmt fmt).fma (← self).frm false false (fmtBits fmt a) (fmtBits fmt b) (fmtBits fmt c)
  fpDone f.xd (toWord r.1, r.2)) s
/-- FDIV (R219). -/
def execFdiv (fmt : FFmt) (f : SA) (s : State) : Out := finish 8 (fp2 fmt f fun F rm a b => F.div rm a b) s
/-- FSQRT (R219). -/
def execFsqrt (fmt : FFmt) (f : SA) (s : State) : Out := finish 8 (do
  let a ← readX f.xa
  let r := (FFmtfmt fmt).sqrt (← self).frm (fmtBits fmt a)
  fpDone f.xd (toWord r.1, r.2)) s
/-- FMIN (R219). -/
def execFmin (fmt : FFmt) (f : SA) (s : State) : Out := finish 8 (fp2 fmt f fun F _ a b => F.minmax false a b) s
/-- FMAX (R219). -/
def execFmax (fmt : FFmt) (f : SA) (s : State) : Out := finish 8 (fp2 fmt f fun F _ a b => F.minmax true a b) s
/-- FCMP.EQ (R220). -/
def execFcmpEq (fmt : FFmt) (f : SA) (s : State) : Out := finish 8 (fpCompare fmt f false (· == some .eq)) s
/-- FCMP.LT (R220). -/
def execFcmpLt (fmt : FFmt) (f : SA) (s : State) : Out := finish 8 (fpCompare fmt f true (· == some .lt)) s
/-- FCMP.LE (R220). -/
def execFcmpLe (fmt : FFmt) (f : SA) (s : State) : Out := finish 8 (fpCompare fmt f true fun o => o == some .lt || o == some .eq) s
/-- FCMP.UN (R220). -/
def execFcmpUn (fmt : FFmt) (f : SA) (s : State) : Out := finish 8 (fpCompare fmt f false (· == none)) s
/-- FCLASS (R220). -/
def execFclass (fmt : FFmt) (f : SA) (s : State) : Out := finish 8 (sa1 f fun a => toWord ((FFmtfmt fmt).class (fmtBits fmt a))) s
/-- FMV (R220). -/
def execFmv (f : SA) (s : State) : Out := finish 8 (sa1 f id) s
/-- FCVT (R221). -/
def execFcvt (dst src : ET) (f : SA) (s : State) : Out := finish 8 (do
  let a ← readX f.xa
  let k ← self
  let r := convertElem dst src k.frm k.satf k.sati (a.toNat % 2 ^ ETwidth src)
  fpDone f.xd (extendElem dst r.1, r.2)) s

end Sys2Proof.Machine
end

