-- ==== Sys2Proof/Machine/Special.lean ====
section
/-! DEFINITION. The special functions VEXP2, VLOG2, VSIN and VCOS (R240). A value is computed as a fixed-point number
of 440 fraction bits, its error below 2^-430: enough to round every result of FP16 and BF16 correctly, and to judge
the bound of an FP32 result. What a part delivers in FP32 within that bound is Config.specialF32 (log 4). -/

namespace Sys2Proof.Machine

/-- The fraction bits of the fixed-point values. -/
def fixBits : Nat := 440

/-- The product of two fixed-point values. -/
def fixMul (a b : Nat) : Nat := a * b / 2 ^ fixBits

/-- Σ z^(2i+1) / (2i+1), the even terms negative for the arcus tangens: fuel terms from index i, power p so far. -/
def arcGo (alternate : Bool) (z2 : Nat) : Nat → Nat → Nat → Int
  | 0, _, _ => 0
  | fuel + 1, i, p =>
    let t : Int := p / (2 * i + 1)
    (if alternate && i % 2 == 1 then -t else t) + arcGo alternate z2 fuel (i + 1) (fixMul p z2)

/-- arctan z or artanh z of a fixed-point value up to 1/3. -/
def arcSeries (alternate : Bool) (z : Nat) : Nat := (arcGo alternate (fixMul z z) 150 0 z).toNat

/-- π = 16 arctan 1/5 - 4 arctan 1/239. -/
def fixPi : Nat := 16 * arcSeries true (2 ^ fixBits / 5) - 4 * arcSeries true (2 ^ fixBits / 239)

/-- ln 2 = 2 artanh 1/3. -/
def fixLn2 : Nat := 2 * arcSeries false (2 ^ fixBits / 3)

/-- Σ x^i / i!: fuel terms from index i, the term t of that index. -/
def expGo (x : Nat) : Nat → Nat → Nat → Nat
  | 0, _, _ => 0
  | fuel + 1, i, t => t + expGo x fuel (i + 1) (fixMul t x / (i + 1))

/-- Σ (-1)^i x^(2i+1) / (2i+1)!: fuel terms from index i, the term t of that index. -/
def sinGo (x2 : Nat) : Nat → Nat → Nat → Int
  | 0, _, _ => 0
  | fuel + 1, i, t =>
    (if i % 2 = 1 then -(t : Int) else t) +
      sinGo x2 fuel (i + 1) (fixMul t x2 / ((2 * i + 2) * (2 * i + 3)))

/-- sin (π × r) of a fixed-point r up to 1/2. -/
def fixSinPi (r : Nat) : Nat :=
  let x := fixMul fixPi r
  (sinGo (fixMul x x) 60 0 x).toNat

/-- A special function's result: an exact one with its flags, or an inexact value (-1)^neg × m × 2^e. -/
inductive Special where
  | exact (v : Nat) (f : Flags)
  | value (neg : Bool) (m : Nat) (e : Int)
  deriving DecidableEq, Repr

/-- A number m × 2^e in fixed-point form modulo 2^(fixBits + 1), that is modulo 2; e is at least -fixBits. -/
def fixMod2 (m : Nat) (e : Int) : Nat := (m * 2 ^ (e + fixBits).toNat) % 2 ^ (fixBits + 1)

/-- 2^a. -/
def exp2Of (F : FpFmt) : FVal → Special
  | .nan s => .exact F.nan (flagIf s flagNV)
  | .inf neg => .exact (if neg then F.zero false else F.inf false) 0
  | .num neg m e =>
    if Nat.log2 m + e ≥ 10 && m != 0 then .value false 1 (if neg then -2000 else 2000)
    else
      let v : Int := scaledInt neg m (e + fixBits) 0
      let n := v / 2 ^ fixBits
      let r := (v % 2 ^ fixBits).toNat
      if r = 0 then
        let q := F.round 0 false false 1 n
        .exact q.1 q.2
      else .value false (2 * expGo (fixMul r fixLn2) 100 0 (2 ^ fixBits) + 1) (n - fixBits - 1)

/-- log2 a. -/
def log2Of (F : FpFmt) : FVal → Special
  | .nan s => .exact F.nan (flagIf s flagNV)
  | .inf neg => if neg then .exact F.nan flagNV else .exact (F.inf false) 0
  | .num neg m e =>
    if m = 0 then .exact (F.inf true) flagDZ
    else if neg then .exact F.nan flagNV
    else
      let l := Nat.log2 m
      let k : Int := l + e
      if m = 2 ^ l then
        let q := F.round 0 false (k < 0) k.natAbs 0
        .exact q.1 q.2
      else
        let z := (m - 2 ^ l) * 2 ^ fixBits / (m + 2 ^ l)
        let lg := 2 * arcSeries false z * 2 ^ fixBits / fixLn2
        let v : Int := k * 2 ^ fixBits + lg
        .value (v < 0) (2 * v.natAbs + 1) (-(fixBits : Int) - 1)

/-- An inexact fixed-point value with its sticky bit. -/
def fixValue (neg : Bool) (v : Nat) : Special := .value neg (2 * v + 1) (-(fixBits : Int) - 1)

/-- sin (π × a). -/
def sinPiOf (F : FpFmt) : FVal → Special
  | .nan s => .exact F.nan (flagIf s flagNV)
  | .inf _ => .exact F.nan flagNV
  | .num neg m e =>
    let one := 2 ^ fixBits
    let r := if 0 ≤ e then 0 else fixMod2 m e
    let flip := neg != decide (one ≤ r)
    let q := r % one
    if q = 0 then .exact (F.zero neg) 0
    else if 2 * q = one then .exact (F.pack flip F.bias 0) 0
    else fixValue flip (fixSinPi (min q (one - q)))

/-- cos (π × a). -/
def cosPiOf (F : FpFmt) : FVal → Special
  | .nan s => .exact F.nan (flagIf s flagNV)
  | .inf _ => .exact F.nan flagNV
  | .num _ m e =>
    let one := 2 ^ fixBits
    let r := if 1 ≤ e then 0 else fixMod2 m e
    let r := if one < r then 2 * one - r else r
    if r = 0 then .exact (F.pack false F.bias 0) 0
    else if r = one then .exact (F.pack true F.bias 0) 0
    else if 2 * r = one then .exact (F.zero false) 0
    else
      let neg := one < 2 * r
      let q := if neg then one - r else r
      fixValue neg (fixSinPi (one / 2 - q))

/-- A candidate result lies within u units in the last place of the value (-1)^neg × m × 2^e. -/
def FpFmt.within (F : FpFmt) (u : Nat) (neg : Bool) (m : Nat) (e : Int) (c : Nat) : Bool :=
  match F.decode c with
  | .num cn cm ce =>
    let top : Int := Nat.log2 m + e
    let ulp : Int := (if top < 1 - (F.bias : Int) then 1 - (F.bias : Int) else top) - F.fbits
    let lo := min (min e ce) ulp
    let d := scaledInt neg m e lo - scaledInt cn cm ce lo
    decide (d.natAbs ≤ u * 2 ^ (ulp - lo).toNat)
  | _ => false

/-- The result of a special function: exact, correctly rounded in FP16 and BF16, within u units in FP32 (R240). -/
def specialResult (t : ET) (F : FpFmt) (code u a : Nat) (r : Special) : Nat × Flags :=
  match r with
  | .exact v f => (v, f)
  | .value neg m e =>
    let q := F.round 0 false neg m e
    let c := (Config.specialF32 code (BitVec.ofNat 32 a)).toNat
    if t = .f32 && F.within u neg m e c then
      (c, flagNX ||| flagIf (fld c 23 8 = 0 && fld c 0 23 != 0) flagUF)
    else (q.1, q.2 ||| flagNX)

/-- A special function over the elements of a form. -/
def specialOp (t : ET) (code u : Nat) (fn : FpFmt → FVal → Special) (_ : Core) (a _ _ : Nat) : ElemOut :=
  match ETfmt t with
  | some F => plainOp (specialResult t F code u a (fn F (F.decode a)))
  | none => .val 0 0

/-- VEXP2 (R240). -/
def execVexp2 (f : VA) (s : State) : Out := finish 8 (vForm (Instr.word (.vexp2 f)) f 1 (specialOp f.et 0 1 exp2Of)) s
/-- VLOG2 (R240). -/
def execVlog2 (f : VA) (s : State) : Out := finish 8 (vForm (Instr.word (.vlog2 f)) f 1 (specialOp f.et 1 1 log2Of)) s
/-- VSIN (R240). -/
def execVsin (f : VA) (s : State) : Out := finish 8 (vForm (Instr.word (.vsin f)) f 1 (specialOp f.et 2 2 sinPiOf)) s
/-- VCOS (R240). -/
def execVcos (f : VA) (s : State) : Out := finish 8 (vForm (Instr.word (.vcos f)) f 1 (specialOp f.et 3 2 cosPiOf)) s

end Sys2Proof.Machine
end

