-- ==== Sys2Proof/Machine/Dispatch.lean ====
section
/-! DEFINITION. The meaning of every instruction and event: one arm per constructor of Instr. -/

namespace Sys2Proof.Machine

def exec (i : Instr) (s : State) : Host.Outcome State Fault Refusal :=
  match i with
  | .add f => Sys2Proof.Machine.execAdd f s
  | .sub f => Sys2Proof.Machine.execSub f s
  | .and f => Sys2Proof.Machine.execAnd f s
  | .or f => Sys2Proof.Machine.execOr f s
  | .xor f => Sys2Proof.Machine.execXor f s
  | .andn f => Sys2Proof.Machine.execAndn f s
  | .shl f => Sys2Proof.Machine.execShl f s
  | .shr f => Sys2Proof.Machine.execShr f s
  | .sra f => Sys2Proof.Machine.execSra f s
  | .rotr f => Sys2Proof.Machine.execRotr f s
  | .min f => Sys2Proof.Machine.execMin f s
  | .max f => Sys2Proof.Machine.execMax f s
  | .minu f => Sys2Proof.Machine.execMinu f s
  | .maxu f => Sys2Proof.Machine.execMaxu f s
  | .mul f => Sys2Proof.Machine.execMul f s
  | .mulh f => Sys2Proof.Machine.execMulh f s
  | .mulhU f => Sys2Proof.Machine.execMulhU f s
  | .mulhSu f => Sys2Proof.Machine.execMulhSu f s
  | .div f => Sys2Proof.Machine.execDiv f s
  | .divu f => Sys2Proof.Machine.execDivu f s
  | .rem f => Sys2Proof.Machine.execRem f s
  | .remu f => Sys2Proof.Machine.execRemu f s
  | .cmpCc cc f => Sys2Proof.Machine.execCmpCc cc f s
  | .sel f => Sys2Proof.Machine.execSel f s
  | .clz f => Sys2Proof.Machine.execClz f s
  | .ctz f => Sys2Proof.Machine.execCtz f s
  | .popc f => Sys2Proof.Machine.execPopc f s
  | .brev f => Sys2Proof.Machine.execBrev f s
  | .sextB f => Sys2Proof.Machine.execSextB f s
  | .sextH f => Sys2Proof.Machine.execSextH f s
  | .sextW f => Sys2Proof.Machine.execSextW f s
  | .zextB f => Sys2Proof.Machine.execZextB f s
  | .zextH f => Sys2Proof.Machine.execZextH f s
  | .zextW f => Sys2Proof.Machine.execZextW f s
  | .bfxU f => Sys2Proof.Machine.execBfxU f s
  | .bfxS f => Sys2Proof.Machine.execBfxS f s
  | .bfi f => Sys2Proof.Machine.execBfi f s
  | .addi f => Sys2Proof.Machine.execAddi f s
  | .andi f => Sys2Proof.Machine.execAndi f s
  | .ori f => Sys2Proof.Machine.execOri f s
  | .xori f => Sys2Proof.Machine.execXori f s
  | .shli f => Sys2Proof.Machine.execShli f s
  | .shri f => Sys2Proof.Machine.execShri f s
  | .srai f => Sys2Proof.Machine.execSrai f s
  | .li f => Sys2Proof.Machine.execLi f s
  | .lix f => Sys2Proof.Machine.execLix f s
  | .cmpi cc f => Sys2Proof.Machine.execCmpi cc f s
  | .fadd fmt f => Sys2Proof.Machine.execFadd fmt f s
  | .fsub fmt f => Sys2Proof.Machine.execFsub fmt f s
  | .fmul fmt f => Sys2Proof.Machine.execFmul fmt f s
  | .ffma fmt f => Sys2Proof.Machine.execFfma fmt f s
  | .fdiv fmt f => Sys2Proof.Machine.execFdiv fmt f s
  | .fsqrt fmt f => Sys2Proof.Machine.execFsqrt fmt f s
  | .fmin fmt f => Sys2Proof.Machine.execFmin fmt f s
  | .fmax fmt f => Sys2Proof.Machine.execFmax fmt f s
  | .fcmpEq fmt f => Sys2Proof.Machine.execFcmpEq fmt f s
  | .fcmpLt fmt f => Sys2Proof.Machine.execFcmpLt fmt f s
  | .fcmpLe fmt f => Sys2Proof.Machine.execFcmpLe fmt f s
  | .fcmpUn fmt f => Sys2Proof.Machine.execFcmpUn fmt f s
  | .fclass fmt f => Sys2Proof.Machine.execFclass fmt f s
  | .fmv f => Sys2Proof.Machine.execFmv f s
  | .fcvt dst src f => Sys2Proof.Machine.execFcvt dst src f s
  | .brCc cc f => Sys2Proof.Machine.execBrCc cc f s
  | .jmp f => Sys2Proof.Machine.execJmp f s
  | .jal f => Sys2Proof.Machine.execJal f s
  | .jr f => Sys2Proof.Machine.execJr f s
  | .loop k f => Sys2Proof.Machine.execLoop k f s
  | .loopi k f => Sys2Proof.Machine.execLoopi k f s
  | .ld f => Sys2Proof.Machine.execLd f s
  | .st f => Sys2Proof.Machine.execSt f s
  | .amoAdd f => Sys2Proof.Machine.execAmoAdd f s
  | .amoAnd f => Sys2Proof.Machine.execAmoAnd f s
  | .amoOr f => Sys2Proof.Machine.execAmoOr f s
  | .amoXor f => Sys2Proof.Machine.execAmoXor f s
  | .amoMin f => Sys2Proof.Machine.execAmoMin f s
  | .amoMax f => Sys2Proof.Machine.execAmoMax f s
  | .amoMinu f => Sys2Proof.Machine.execAmoMinu f s
  | .amoMaxu f => Sys2Proof.Machine.execAmoMaxu f s
  | .amoSwap f => Sys2Proof.Machine.execAmoSwap f s
  | .amoIncb f => Sys2Proof.Machine.execAmoIncb f s
  | .cas f => Sys2Proof.Machine.execCas f s
  | .fenceAcq f => Sys2Proof.Machine.execFenceAcq f s
  | .fenceRel f => Sys2Proof.Machine.execFenceRel f s
  | .fenceFull f => Sys2Proof.Machine.execFenceFull f s
  | .setshape f => Sys2Proof.Machine.execSetshape f s
  | .setcfg f => Sys2Proof.Machine.execSetcfg f s
  | .setcfgEw f => Sys2Proof.Machine.execSetcfgEw f s
  | .setcfgScope f => Sys2Proof.Machine.execSetcfgScope f s
  | .setcfgSpace f => Sys2Proof.Machine.execSetcfgSpace f s
  | .setcfgRm f => Sys2Proof.Machine.execSetcfgRm f s
  | .vqlen f => Sys2Proof.Machine.execVqlen f s
  | .settile f => Sys2Proof.Machine.execSettile f s
  | .vadd f => Sys2Proof.Machine.execVadd f s
  | .vsub f => Sys2Proof.Machine.execVsub f s
  | .vmul f => Sys2Proof.Machine.execVmul f s
  | .vmulh f => Sys2Proof.Machine.execVmulh f s
  | .vdiv f => Sys2Proof.Machine.execVdiv f s
  | .vmin f => Sys2Proof.Machine.execVmin f s
  | .vmax f => Sys2Proof.Machine.execVmax f s
  | .vfma f => Sys2Proof.Machine.execVfma f s
  | .vfms f => Sys2Proof.Machine.execVfms f s
  | .vfnma f => Sys2Proof.Machine.execVfnma f s
  | .vand f => Sys2Proof.Machine.execVand f s
  | .vor f => Sys2Proof.Machine.execVor f s
  | .vxor f => Sys2Proof.Machine.execVxor f s
  | .vshl f => Sys2Proof.Machine.execVshl f s
  | .vshr f => Sys2Proof.Machine.execVshr f s
  | .vsra f => Sys2Proof.Machine.execVsra f s
  | .vabs f => Sys2Proof.Machine.execVabs f s
  | .vneg f => Sys2Proof.Machine.execVneg f s
  | .vnot f => Sys2Proof.Machine.execVnot f s
  | .vsqrt f => Sys2Proof.Machine.execVsqrt f s
  | .vrcp f => Sys2Proof.Machine.execVrcp f s
  | .vrsq f => Sys2Proof.Machine.execVrsq f s
  | .vclz f => Sys2Proof.Machine.execVclz f s
  | .vpopc f => Sys2Proof.Machine.execVpopc f s
  | .vcmpCc cc f => Sys2Proof.Machine.execVcmpCc cc f s
  | .vsel f => Sys2Proof.Machine.execVsel f s
  | .vmov f => Sys2Proof.Machine.execVmov f s
  | .vbcast f => Sys2Proof.Machine.execVbcast f s
  | .viota f => Sys2Proof.Machine.execViota f s
  | .vmvx f => Sys2Proof.Machine.execVmvx f s
  | .vmvs f => Sys2Proof.Machine.execVmvs f s
  | .vexp2 f => Sys2Proof.Machine.execVexp2 f s
  | .vlog2 f => Sys2Proof.Machine.execVlog2 f s
  | .vsin f => Sys2Proof.Machine.execVsin f s
  | .vcos f => Sys2Proof.Machine.execVcos f s
  | .vred op f => Sys2Proof.Machine.execVred op f s
  | .vredx op f => Sys2Proof.Machine.execVredx op f s
  | .vscan op f => Sys2Proof.Machine.execVscan op f s
  | .vslideUp f => Sys2Proof.Machine.execVslideUp f s
  | .vslideDn f => Sys2Proof.Machine.execVslideDn f s
  | .vperm f => Sys2Proof.Machine.execVperm f s
  | .vpush f => Sys2Proof.Machine.execVpush f s
  | .vtrans f => Sys2Proof.Machine.execVtrans f s
  | .vshuf f => Sys2Proof.Machine.execVshuf f s
  | .mand f => Sys2Proof.Machine.execMand f s
  | .mor f => Sys2Proof.Machine.execMor f s
  | .mxor f => Sys2Proof.Machine.execMxor f s
  | .mnot f => Sys2Proof.Machine.execMnot f s
  | .mpopc f => Sys2Proof.Machine.execMpopc f s
  | .mfirst f => Sys2Proof.Machine.execMfirst f s
  | .vcvt src f => Sys2Proof.Machine.execVcvt src f s
  | .vcvtNarrow src f => Sys2Proof.Machine.execVcvtNarrow src f s
  | .vcvtWiden src f => Sys2Proof.Machine.execVcvtWiden src f s
  | .vcvtF32E2m1 src f => Sys2Proof.Machine.execVcvtF32E2m1 src f s
  | .vscale src f => Sys2Proof.Machine.execVscale src f s
  | .vaddWac f => Sys2Proof.Machine.execVaddWac f s
  | .vcvtWac f => Sys2Proof.Machine.execVcvtWac f s
  | .vcvtFwac f => Sys2Proof.Machine.execVcvtFwac f s
  | .vmeta f => Sys2Proof.Machine.execVmeta f s
  | .vtopk f => Sys2Proof.Machine.execVtopk f s
  | .vldUnit f => Sys2Proof.Machine.execVldUnit f s
  | .vldStrided f => Sys2Proof.Machine.execVldStrided f s
  | .vldx f => Sys2Proof.Machine.execVldx f s
  | .vstUnit f => Sys2Proof.Machine.execVstUnit f s
  | .vstStrided f => Sys2Proof.Machine.execVstStrided f s
  | .vstx f => Sys2Proof.Machine.execVstx f s
  | .vsadd f => Sys2Proof.Machine.execVsadd f s
  | .vamo f => Sys2Proof.Machine.execVamo f s
  | .vspill f => Sys2Proof.Machine.execVspill f s
  | .vfill f => Sys2Proof.Machine.execVfill f s
  | .talloc f => Sys2Proof.Machine.execTalloc f s
  | .tallocFix f => Sys2Proof.Machine.execTallocFix f s
  | .tfree f => Sys2Proof.Machine.execTfree f s
  | .tstat f => Sys2Proof.Machine.execTstat f s
  | .tstatH f => Sys2Proof.Machine.execTstatH f s
  | .twait f => Sys2Proof.Machine.execTwait f s
  | .twaitH f => Sys2Proof.Machine.execTwaitH f s
  | .tld f => Sys2Proof.Machine.execTld f s
  | .tst f => Sys2Proof.Machine.execTst f s
  | .vpln f => Sys2Proof.Machine.execVpln f s
  | .tdesc f => Sys2Proof.Machine.execTdesc f s
  | .tdescRf f => Sys2Proof.Machine.execTdescRf f s
  | .tnbr f => Sys2Proof.Machine.execTnbr f s
  | .thalo f => Sys2Proof.Machine.execThalo f s
  | .tinv f => Sys2Proof.Machine.execTinv f s
  | .tflush f => Sys2Proof.Machine.execTflush f s
  | .tprobe f => Sys2Proof.Machine.execTprobe f s
  | .copy f => Sys2Proof.Machine.execCopy f s
  | .copyDec f => Sys2Proof.Machine.execCopyDec f s
  | .copyEnc f => Sys2Proof.Machine.execCopyEnc f s
  | .cwait f => Sys2Proof.Machine.execCwait f s
  | .cstat f => Sys2Proof.Machine.execCstat f s
  | .mma f => Sys2Proof.Machine.execMma f s
  | .mmaSp f => Sys2Proof.Machine.execMmaSp f s
  | .mmaCb f => Sys2Proof.Machine.execMmaCb f s
  | .cbld f => Sys2Proof.Machine.execCbld f s
  | .mwait f => Sys2Proof.Machine.execMwait f s
  | .mstat f => Sys2Proof.Machine.execMstat f s
  | .potOpen f => Sys2Proof.Machine.execPotOpen f s
  | .potJoin f => Sys2Proof.Machine.execPotJoin f s
  | .potSend f => Sys2Proof.Machine.execPotSend f s
  | .potWait f => Sys2Proof.Machine.execPotWait f s
  | .potClose f => Sys2Proof.Machine.execPotClose f s
  | .potCloseJ f => Sys2Proof.Machine.execPotCloseJ f s
  | .potStat f => Sys2Proof.Machine.execPotStat f s
  | .potStatJ f => Sys2Proof.Machine.execPotStatJ f s
  | .claim f => Sys2Proof.Machine.execClaim f s
  | .deckPush f => Sys2Proof.Machine.execDeckPush f s
  | .deckPop f => Sys2Proof.Machine.execDeckPop f s
  | .deckSteal f => Sys2Proof.Machine.execDeckSteal f s
  | .claspInit f => Sys2Proof.Machine.execClaspInit f s
  | .claspArrive f => Sys2Proof.Machine.execClaspArrive f s
  | .claspDrop f => Sys2Proof.Machine.execClaspDrop f s
  | .claspWait f => Sys2Proof.Machine.execClaspWait f s
  | .waita f => Sys2Proof.Machine.execWaita f s
  | .fbind f => Sys2Proof.Machine.execFbind f s
  | .funbind f => Sys2Proof.Machine.execFunbind f s
  | .fqry f => Sys2Proof.Machine.execFqry f s
  | .fop f => Sys2Proof.Machine.execFop f s
  | .nop f => Sys2Proof.Machine.execNop f s
  | .trap f => Sys2Proof.Machine.execTrap f s
  | .bkpt f => Sys2Proof.Machine.execBkpt f s
  | .yield f => Sys2Proof.Machine.execYield f s
  | .done f => Sys2Proof.Machine.execDone f s
  | .eret f => Sys2Proof.Machine.execEret f s
  | .csrrd csr f => Sys2Proof.Machine.execCsrrd csr f s
  | .csrwr csr f => Sys2Proof.Machine.execCsrwr csr f s
  | .csrset csr f => Sys2Proof.Machine.execCsrset csr f s
  | .csrclr csr f => Sys2Proof.Machine.execCsrclr csr f s
  | .enq f => Sys2Proof.Machine.execEnq f s
  | .dcwb f => Sys2Proof.Machine.execDcwb f s
  | .icinv f => Sys2Proof.Machine.execIcinv f s
  | .fetchb f => Sys2Proof.Machine.execFetchb f s
  | .keyselBind f => Sys2Proof.Machine.execKeyselBind f s
  | .keyselUnbind f => Sys2Proof.Machine.execKeyselUnbind f s
  | .keyselQry f => Sys2Proof.Machine.execKeyselQry f s
  | .udf bits => Sys2Proof.Machine.execUdf bits s
  | .replyReturn c slot => Sys2Proof.Machine.execReplyReturn c slot s
  | .activeMessageDelivery c e => Sys2Proof.Machine.execActiveMessageDelivery c e s
  | .copySuspend c h => Sys2Proof.Machine.execCopySuspend c h s
  | .copyComplete c h => Sys2Proof.Machine.execCopyComplete c h s
  | .matrixComplete c => Sys2Proof.Machine.execMatrixComplete c s
  | .engineTrapDelivery c => Sys2Proof.Machine.execEngineTrapDelivery c s
  | .tflushComplete c h => Sys2Proof.Machine.execTflushComplete c h s
  | .pageWalk c va => Sys2Proof.Machine.execPageWalk c va s
  | .atsTranslationCompletion func page host granted write => Sys2Proof.Machine.execAtsTranslationCompletion func page host granted write s
  | .priResponse func page answer => Sys2Proof.Machine.execPriResponse func page answer s
  | .hostpageTimeout func page => Sys2Proof.Machine.execHostpageTimeout func page s
  | .atsInvalidationRequest func page count => Sys2Proof.Machine.execAtsInvalidationRequest func page count s
  | .ticmdGo func value => Sys2Proof.Machine.execTicmdGo func value s
  | .ticmdErrClear func => Sys2Proof.Machine.execTicmdErrClear func s
  | .shootdownComplete func => Sys2Proof.Machine.execShootdownComplete func s
  | .twinWrite t w value => Sys2Proof.Machine.execTwinWrite t w value s
  | .lineFill c key => Sys2Proof.Machine.execLineFill c key s
  | .scatterAddPass word => Sys2Proof.Machine.execScatterAddPass word s
  | .generationScrub => Sys2Proof.Machine.execGenerationScrub s
  | .patrolScrub segment corrected => Sys2Proof.Machine.execPatrolScrub segment corrected s
  | .monitorExpiry c word => Sys2Proof.Machine.execMonitorExpiry c word s
  | .waitaTimeout c => Sys2Proof.Machine.execWaitaTimeout c s
  | .waitaMonfull c => Sys2Proof.Machine.execWaitaMonfull c s
  | .claspWaitPoll c => Sys2Proof.Machine.execClaspWaitPoll c s
  | .snpData line => Sys2Proof.Machine.execSnpData line s
  | .snpInv line => Sys2Proof.Machine.execSnpInv line s
  | .snpCur line => Sys2Proof.Machine.execSnpCur line s
  | .bisnpResponse line data => Sys2Proof.Machine.execBisnpResponse line data s
  | .hostMemoryAccess pa bytes data trusted => Sys2Proof.Machine.execHostMemoryAccess pa bytes data trusted s
  | .clusterPowerGate cl => Sys2Proof.Machine.execClusterPowerGate cl s
  | .decisionRound die => Sys2Proof.Machine.execDecisionRound die s
  | .rootDecisionRound => Sys2Proof.Machine.execRootDecisionRound s
  | .launchRecordFetch q => Sys2Proof.Machine.execLaunchRecordFetch q s
  | .blockedHeadReread q => Sys2Proof.Machine.execBlockedHeadReread q s
  | .holdBegin task => Sys2Proof.Machine.execHoldBegin task s
  | .quantumExpiry task => Sys2Proof.Machine.execQuantumExpiry task s
  | .potdeferDeadline task => Sys2Proof.Machine.execPotdeferDeadline task s
  | .preemptionSave c => Sys2Proof.Machine.execPreemptionSave c s
  | .preemptDelivery c => Sys2Proof.Machine.execPreemptDelivery c s
  | .preemptGraceExpiry c => Sys2Proof.Machine.execPreemptGraceExpiry c s
  | .contextRestore c => Sys2Proof.Machine.execContextRestore c s
  | .sliceRetirement c slice => Sys2Proof.Machine.execSliceRetirement c slice s
  | .generationRecord c => Sys2Proof.Machine.execGenerationRecord c s
  | .gencmdWrite => Sys2Proof.Machine.execGencmdWrite s
  | .wqtailDoorbell func q value => Sys2Proof.Machine.execWqtailDoorbell func q value s
  | .wqbaseWrite func q value => Sys2Proof.Machine.execWqbaseWrite func q value s
  | .wqheadErrClear func q => Sys2Proof.Machine.execWqheadErrClear func q s
  | .tenantResetStart t => Sys2Proof.Machine.execTenantResetStart t s
  | .functionLevelReset func => Sys2Proof.Machine.execFunctionLevelReset func s
  | .vfDisable func => Sys2Proof.Machine.execVfDisable func s
  | .tenantResetComplete t => Sys2Proof.Machine.execTenantResetComplete t s
  | .trstatDoneClear t => Sys2Proof.Machine.execTrstatDoneClear t s
  | .powerInterval => Sys2Proof.Machine.execPowerInterval s
  | .unitRamp c => Sys2Proof.Machine.execUnitRamp c s
  | .nodeidWrite value => Sys2Proof.Machine.execNodeidWrite value s
  | .mmioWrite func offset value => Sys2Proof.Machine.execMmioWrite func offset value s
  | .msixUnmask func vector => Sys2Proof.Machine.execMsixUnmask func vector s
  | .joinRequestArrival k => Sys2Proof.Machine.execJoinRequestArrival k s
  | .joinRetryReissue c j => Sys2Proof.Machine.execJoinRetryReissue c j s
  | .grant k => Sys2Proof.Machine.execGrant k s
  | .over k => Sys2Proof.Machine.execOver k s
  | .denied k => Sys2Proof.Machine.execDenied k s
  | .spilled k => Sys2Proof.Machine.execSpilled k s
  | .resumed k => Sys2Proof.Machine.execResumed k s
  | .closed k => Sys2Proof.Machine.execClosed k s
  | .forfeit k => Sys2Proof.Machine.execForfeit k s
  | .fbcount k => Sys2Proof.Machine.execFbcount k s
  | .joinWithdrawal k => Sys2Proof.Machine.execJoinWithdrawal k s
  | .contributionArrival k => Sys2Proof.Machine.execContributionArrival k s
  | .nodeLinkLoss node => Sys2Proof.Machine.execNodeLinkLoss node s
  | .fopComplete c cycles => Sys2Proof.Machine.execFopComplete c cycles s
  | .fopStop c cycles => Sys2Proof.Machine.execFopStop c cycles s
  | .escapeMove c region => Sys2Proof.Machine.execEscapeMove c region s
  | .escapeTimeout c region => Sys2Proof.Machine.execEscapeTimeout c region s
  | .fabricStalled c => Sys2Proof.Machine.execFabricStalled c s
  | .configUe c plane region => Sys2Proof.Machine.execConfigUe c plane region s
  | .regionReloadDone c => Sys2Proof.Machine.execRegionReloadDone c s
  | .flitCrcFail port => Sys2Proof.Machine.execFlitCrcFail port s
  | .portRetrain port => Sys2Proof.Machine.execPortRetrain port s
  | .laneRetire port lane => Sys2Proof.Machine.execLaneRetire port lane s
  | .portRetire port => Sys2Proof.Machine.execPortRetire port s
  | .laneRecalibration port lane => Sys2Proof.Machine.execLaneRecalibration port lane s
  | .remoteRequestArrival node tenant pa op => Sys2Proof.Machine.execRemoteRequestArrival node tenant pa op s
  | .remoteRequestTimeout c => Sys2Proof.Machine.execRemoteRequestTimeout c s
  | .keyProvision func handle key counter => Sys2Proof.Machine.execKeyProvision func handle key counter s
  | .keyDelete func handle => Sys2Proof.Machine.execKeyDelete func handle s
  | .tdiLock func => Sys2Proof.Machine.execTdiLock func s
  | .tdiStart func => Sys2Proof.Machine.execTdiStart func s
  | .stopInterface func => Sys2Proof.Machine.execStopInterface func s
  | .spdmSessionExpiry func => Sys2Proof.Machine.execSpdmSessionExpiry func s
  | .ideIntegrityFailure func => Sys2Proof.Machine.execIdeIntegrityFailure func s
  | .pcieLinkDown => Sys2Proof.Machine.execPcieLinkDown s
  | .confLostDelivery c => Sys2Proof.Machine.execConfLostDelivery c s
  | .machineCheck => Sys2Proof.Machine.execMachineCheck s
  | .uncontainedEnd c => Sys2Proof.Machine.execUncontainedEnd c s
  | .firmwareUpdate => Sys2Proof.Machine.execFirmwareUpdate s
  | .dieQuiesce die => Sys2Proof.Machine.execDieQuiesce die s
  | .mctpRequest => Sys2Proof.Machine.execMctpRequest s
  | .deviceReset => Sys2Proof.Machine.execDeviceReset s
  | .vfEnable func => Sys2Proof.Machine.execVfEnable func s
  | .clusterPowerUp cl => Sys2Proof.Machine.execClusterPowerUp cl s
  | .dieReturn die => Sys2Proof.Machine.execDieReturn die s
  | .linkTrainingComplete port => Sys2Proof.Machine.execLinkTrainingComplete port s
  | .thermalLimitChange limit => Sys2Proof.Machine.execThermalLimitChange limit s
  | .spdmSessionEstablished func => Sys2Proof.Machine.execSpdmSessionEstablished func s

end Sys2Proof.Machine
end

