-- ==== Sys2Proof/Machine/Moves.lean ====
section
/-! DEFINITION. The moves of the agents: a thread's next instruction, the events that are due by themselves, the events and
inputs that the agenda names (log 6). -/

namespace Sys2Proof.Machine

/-! ### Threads -/

/-- The thread of a core may take a step: it has a member of a task that runs, which has not finished, been stopped, or left
the core to a running FOP. -/
def State.threadReady (s : State) (c : CoreId) : Bool :=
  let k := s.core c
  !k.tk.finished && k.tk.preempt != .stopping && k.tk.preempt != .restoring && !k.fab.running &&
    match k.tk.task.bind s.task with
    | some t => t.st == .running || t.st == .saving
    | none => false

/-- The thread of the core that moves fetches, decodes and executes its next instruction (R185). -/
def State.threadStep (s : State) : Host.Outcome State Fault Refusal :=
  match s.fetch with
  | .ok (i, t) => exec i t
  | .error t => .next t

/-! ### What is due by itself -/

/-- An event of an engine that has brought it further: an operation has left it, or something has been asked of the host or of
the scrubber. -/
def State.further (s t : State) : Bool :=
  t.self.eng.copies.length < s.self.eng.copies.length || t.self.eng.flushes.length < s.self.eng.flushes.length ||
    (t.self.eng.copies.map (·.phase)) != s.self.eng.copies.map (·.phase) || t.ms.atsWait != s.ms.atsWait ||
    t.ms.priWait != s.ms.priWait || t.ms.atsSeek != s.ms.atsSeek || t.ms.bisnp != s.ms.bisnp || t.ms.retired != s.ms.retired

/-- An outcome that brings an engine further. -/
def State.onward (s : State) (o : Host.Outcome State Fault Refusal) : Option (Host.Outcome State Fault Refusal) :=
  match o with
  | .next t => if s.further t then some o else none
  | _ => some o

/-- The first running copy that an event can end or suspend, or that has something to ask for, with its event. -/
def State.copyDue (s : State) : Option (Host.Outcome State Fault Refusal) :=
  s.self.eng.copies.findSome? fun o =>
    if o.phase = .running then
      (s.onward (execCopyComplete s.cur o.h s)).or (s.onward (execCopySuspend s.cur o.h s))
    else none

/-- The oldest active flush brought further; one that waits for a generation's old lines has them scrubbed (R111). -/
def State.flushDue (s : State) : Option (Host.Outcome State Fault Refusal) :=
  match s.self.eng.flushes.find? (·.active) with
  | none => none
  | some o => (s.onward (execTflushComplete s.cur o.h s)).or
      (if s.ms.retired.isEmpty then none else some (execGenerationScrub s))

/-- The oldest packet of the network delivered, by the event of its payload. -/
def State.packetDue (s : State) : Option (Host.Outcome State Fault Refusal) :=
  match s.net with
  | [] => none
  | p :: _ =>
    if !s.isLocal p.dstNode then none
    else some (match p.load with
      | .join .. => execJoinRequestArrival 0 s
      | .withdraw => execJoinWithdrawal 0 s
      | .grant .. => execGrant 0 s
      | .over => execOver 0 s
      | .denied => execDenied 0 s
      | .retry => .next { s with net := s.net.drop 1 }
      | .spilled => execSpilled 0 s
      | .resumed => execResumed 0 s
      | .closed => execClosed 0 s
      | .forfeit _ => execForfeit 0 s
      | .fbcount _ => execFbcount 0 s
      | .data .. => execContributionArrival 0 s)

/-- What the engines of the core that moves, and the network, have due (R180). -/
def State.engineDue (s : State) : Option (Host.Outcome State Fault Refusal) :=
  let k := s.self
  let c := s.cur
  if !(k.eng.inbox 0).isEmpty then some (execActiveMessageDelivery c .copy s)
  else if k.eng.mats.any (·.active) then some (execMatrixComplete c s)
  else if !(k.eng.inbox 1).isEmpty then some (execActiveMessageDelivery c .matrix s)
  else if !(k.eng.inbox 2).isEmpty then some (execActiveMessageDelivery c .flush s)
  else (s.flushDue.or s.copyDue).or s.packetDue

/-- Cycles of a FOP in one step. -/
def fopStride : Nat := 4096

/-- The running FOP of the core that moves (R321 to R325): its next event, or some cycles of its grid. -/
def State.fopMove (s : State) (g : Grid) : Host.Outcome State Fault Refusal :=
  let c := s.cur
  let keep := fun (g : Grid) (t : State) (w : Wait) =>
    Host.Outcome.next (t.modSelf fun k => { k with wait := w, fab := { k.fab with grid := some g } })
  if !g.reload.isEmpty then execRegionReloadDone c s
  else if s.self.preempting then
    match (s.runFop g 0).1 with
    | .done => execFopComplete c 0 s
    | _ => execFopStop c 0 s
  else match s.runFop g fopStride with
    | (.done, _, _) => execFopComplete c fopStride s
    | (.stop _, _, _) => execFopStop c fopStride s
    | (.stalled, g, t) => execFabricStalled c (t.modSelf fun k => { k with fab := { k.fab with grid := some g } })
    | (.escape r, _, _) => execEscapeTimeout c (BitVec.ofNat 4 r) s
    | (.waits w, g, t) => match w with
      | .remote _ _ => execRemoteRequestTimeout c (t.modSelf fun k => { k with wait := w, fab := { k.fab with grid := some g } })
      | .ats f p => if s.ms.atsSeek.contains (.thread c, f, p) then execHostpageTimeout f p s else keep g t w
      | _ => keep g t w
    | (.hung, g, t) => keep g t .fabric
    | (.more, g, t) => keep g t .fabric

/-- The asynchronous event taken at a boundary of the core that moves (R357). -/
def State.asyncDue (s : State) : Option (Host.Outcome State Fault Refusal) :=
  let k := s.self
  if !k.boundary then none
  else if k.tk.conf then some (execConfLostDelivery s.cur s)
  else if !k.eng.events.isEmpty then some (execEngineTrapDelivery s.cur s)
  else if k.tk.preempt = .due then some (execPreemptDelivery s.cur s)
  else none

/-- The step of the Dealer and the save hardware that the core that moves has due (R344, R366, R370). -/
def State.stageDue (s : State) : Option (Host.Outcome State Fault Refusal) :=
  let k := s.self
  match k.tk.preempt, k.tk.task.bind s.task with
  | .stopping, some _ => if k.fab.running || s.sending s.cur then none else some (execPreemptionSave s.cur s)
  | .restoring, some _ => some (execContextRestore s.cur s)
  | .deferred, some t => if s.potsOpen t then none else some (execPotdeferDeadline t.id s)
  | _, _ => none

/-- What the core that moves has due before its thread's next step: replies, its stage, its FOP, asynchronous events, its
engines. -/
def State.pendingMove (s : State) : Option (Host.Outcome State Fault Refusal) :=
  let k := s.self
  if !k.replies.isEmpty then some (execReplyReturn s.cur 0 s)
  else match s.stageDue with
    | some r => some r
    | none => match s.asyncDue with
      | some r => some r
      | none => match s.engineDue with
        | some r => some r
        | none => match k.fab.grid with
          | some g => if g.frozen then none else some (s.fopMove g)
          | none => none

/-! ### A waiting thread -/

/-- The event that ends or examines the wait of the thread that moves, where one is due (R37, R111, R136, R411); the others are
examined by running the instruction again. -/
def State.waitMove (s : State) : Option (Host.Outcome State Fault Refusal) :=
  let c := s.cur
  match s.self.wait with
  | .waita _ _ w false =>
    match s.ms.monitor c w with
    | some m => if m.fired then none else some (execWaitaTimeout c s)
    | none => some (execWaitaTimeout c s)
  | .waita _ _ _ true => some (execWaitaMonfull c s)
  | .clasp _ true => some (execClaspWaitPoll c s)
  | .ats f p => if s.ms.atsSeek.contains (.thread c, f, p) then some (execHostpageTimeout f p s) else none
  | .handle _ => match s.ms.atsSeek.find? fun a => a.1.ofCore c with
    | some a => some (execHostpageTimeout a.2.1 a.2.2 s)
    | none => none
  | .resource => if s.ms.retired.isEmpty then none else some (execGenerationScrub s)
  | .remote node false => if s.links.silent.contains node then some (execRemoteRequestTimeout c s) else none
  | _ => none

/-! ### The Dealer's own steps -/

/-- An outcome followed by another move. -/
def andThen (o : Host.Outcome State Fault Refusal) (f : State → Host.Outcome State Fault Refusal) :
    Host.Outcome State Fault Refusal :=
  match o with
  | .next t => f t
  | r => r

/-- The queues that the Dealer serves. -/
def State.servedQueues (s : State) : List QueueId :=
  ((List.range 64).filter fun t => s.served t).flatMap fun t =>
    (List.range (s.rcount t)).map (QueueId.ring (BitVec.ofNat 6 t)) ++
      ((List.range (s.qcount t)).map fun q => QueueId.hw (s.qfirst t + q))

/-- The joins of all cores and saved contexts that were told to retry, by core and entry (R328). -/
def State.retries (s : State) : List (CoreId × BitVec 6) :=
  let told := fun (c : CoreId) (k : Core) =>
    ((List.range 64).filter fun j => (k.join (BitVec.ofNat 6 j)).retry).map fun j => (c, BitVec.ofNat 6 j)
  (allCores.flatMap fun c => if (s.core c).tk.task.isSome then told c (s.core c) else []) ++
    s.dealer.saved.flatMap fun x => told x.core x.body

/-- A microsecond of the Dealer (R384 to R389): slices retired before cores are dealt (R391), heads fetched and read again, quanta and holds, the rounds of the root and of the
dies, the generations of idle cores, the joins that are reissued, the lines of retired generations scrubbed (R111). -/
def State.dealerMove (s : State) : Host.Outcome State Fault Refusal :=
  let qs := s.servedQueues
  let o := allCores.foldl (fun o c => match (s.core c).tk.retire with
    | slice :: _ => if (s.core c).tk.task.isNone && (s.core c).retiring then andThen o (execSliceRetirement c slice) else o
    | [] => o) (.next s)
  let o := qs.foldl (fun o q => andThen o (execLaunchRecordFetch q)) o
  let o := qs.foldl (fun o q => andThen o (execBlockedHeadReread q)) o
  let ids := s.dealer.tasks.map (·.id)
  let o := ids.foldl (fun o t => andThen o (execQuantumExpiry t)) o
  let o := ids.foldl (fun o t => andThen o (execHoldBegin t)) o
  let o := [0, 1, 2, 3].foldl (fun o d => andThen o (execDecisionRound d)) (andThen o execRootDecisionRound)
  let o := allCores.foldl (fun o c => andThen o (execGenerationRecord c)) o
  let o := s.retries.foldl (fun o e => andThen o (execJoinRetryReissue e.1 e.2)) o
  if s.ms.retired.isEmpty then o else andThen o execGenerationScrub

/-- A core without a thread to run: work in progress outside the cores is finished, then the Dealer moves. -/
def State.idleMove (s : State) : Host.Outcome State Fault Refusal :=
  match s.self.tk.retire, s.root.resets, s.ms.shoots with
  | slice :: _, _, _ =>
    if s.self.tk.task.isNone && (s.self.csrAt 0x130).getLsbD 0 then execSliceRetirement s.cur slice s else s.dealerMove
  | [], t :: _, _ => execTenantResetComplete t s
  | [], [], d :: _ => andThen (execShootdownComplete d.func s) State.dealerMove
  | [], [], [] => if s.dealer.paused then execFirmwareUpdate s else s.dealerMove

/-! ### A core's step -/

/-- The next step of the core that moves. -/
def State.coreMove (s : State) : Host.Outcome State Fault Refusal :=
  match s.pendingMove with
  | some r => r
  | none =>
    if s.threadReady s.cur then
      match s.waitMove with
      | some r => r
      | none => s.threadStep
    else s.idleMove

/-! ### Moves of the agenda -/

/-- A change of the state that never stops. -/
def changed (f : State → State) (s : State) : Host.Outcome State Fault Refusal := .next (f s)

/-- A host line written by the host: the device gives up its copies first (R117); words that are watched fire. -/
def hostStoreMove (ha n v : Nat) (s : State) : Host.Outcome State Fault Refusal :=
  let a := hostBase + ha
  let lines := (List.range (lineOf (a + n) + 1 - lineOf a)).map (lineOf a + ·)
  andThen (lines.foldl (fun o l => andThen o (execSnpInv l)) (.next s)) (changed fun s =>
    { s with ms := (s.ms.wr a n (fullMask n) v).fire a (max 1 n) })

/-- The column count under which a register was last written, a mask or a file under VCOLS (R81), and the width of the elements
that its words are told apart by: that of VCFG.EW, the limb's for WAC96 (R78), 1 for a mask. -/
def Core.layout (k : Core) (code : Nat) : Nat × Nat :=
  (max 1 (if code < 32 then (k.vec.tag[code]?).getD 0 else k.vcols), if code < 64 then shapeWidth k.ew else 1)

/-- The physical slice of a live slice: the place of its bit among the set bits of LMAP (R81). -/
def Core.physical (k : Core) (live : Nat) : Nat :=
  (((List.range 32).filter fun i => (k.csrAt 0x005).getLsbD i)[live]?).getD live

/-- An uncorrectable error in a bit of a register file (R95): its word is poisoned and logged as latent; a second one in a
slice retires the slice under RASMODE.LANE (R98). -/
def regErrorMove (c : CoreId) (code bit : Nat) (s : State) : Host.Outcome State Fault Refusal :=
  let k := s.core c
  let (cols, w) := k.layout code
  let e := bit / w
  let slice := k.physical (e % cols % k.slices)
  let n := (k.vec.errs[slice]?).getD 0 + 1
  let word := (wordMatesAt k.slices cols w e).map fun m => (code, w * m, w)
  let s := s.setCore c { k with vec := { k.vec with
    poison := (word ++ k.vec.poison).dedup, errs := k.vec.errs.setIfInBounds slice n } }
  let s := s.elogCore c 3 1 slice 0 (toWord (code * 2 ^ 32 + bit))
  if 2 ≤ n && (k.csrAt 0x130).getLsbD 0 then execSliceRetirement c (BitVec.ofNat 5 slice) s else .next s

/-- A line may hold bytes of a tenant. -/
def State.lineOwner (s : State) (t : BitVec 6) : LineKey → Bool
  | .tensor u _ _ _ _ => u == t
  | .addr (some u) _ => u == t
  | .addr none l => s.mayOwn t (l * 256)

/-- An uncorrectable error ends a task with UNCONTAINED, and is logged to its tenant (R412). -/
def uncontained (id : Nat) (addr : Word) : X Unit := do
  match (← get).task id with
  | none => return
  | some t =>
    modify fun s => s.elog (t.tenant.toNat + 1) 16 2 0xFF 0 addr (toWord id)
    abnormalEnd id true endUNCONTAINED

/-- An uncorrectable error in the tag or state bits of a home line (R412): the line is dropped; where it may have been dirty,
the tasks of each tenant that it may belong to end, and the tenant is logged (log 60). -/
def tagErrorMove (key : LineKey) (s : State) : Host.Outcome State Fault Refusal := event (do
  match (← get).ms.home key with
  | none => notNow
  | some h =>
    modify fun s => { s with ms := s.ms.dropHome key }
    if h.dirty != 0 then
      let s ← get
      let addr := match key with
        | .addr _ l => toWord (l * 256)
        | .tensor .. => 0
      ((List.range 64).filter fun u => s.lineOwner (BitVec.ofNat 6 u) key).forM fun u => do
        let ts := s.dealer.tasks.filter fun t => t.tenant.toNat == u &&
          (t.st == .running || t.st == .saving || t.st == .saved || t.st == .restoring)
        if ts.isEmpty then modify fun s => s.elog (u + 1) 16 2 0xFF 0 addr 0
        else ts.forM fun t => uncontained t.id addr) s

/-- An uncorrectable error in the data of a home line (R412, R137): the segment's bytes are poisoned. -/
def lineErrorMove (key : LineKey) (segment : Nat) (s : State) : State :=
  match s.ms.home key with
  | some h => { s with ms := s.ms.putHome { h with poison := h.poison ||| BitVec.ofNat 256 ((2 ^ 64 - 1) * 2 ^ (64 * (segment % 4))) } }
  | none => s

/-- An uncorrectable error in an entry of a table of an MSU or an interface (R412): the entry is dropped; the task it named ends
with UNCONTAINED, a word whose addends are lost is poisoned; a cached host translation is asked for again (log 60). -/
def tableErrorMove (e : TableEntry) (s : State) : Host.Outcome State Fault Refusal := event (do
  let ends := fun (id : Option Nat) => match id with
    | some t => uncontained t 0
    | none => pure ()
  match e with
  | .monitor c w =>
    whenever ((s.ms.monitor c w).isSome)
    modify fun s => { s with ms := { s.ms with monitors := s.ms.monitors.filter fun m => !(m.core == c && m.word == w) } }
    ends (s.core c).tk.task
  | .chain w =>
    whenever (s.ms.chains.any (·.word == w))
    modify fun s => { s with ms := { s.ms with chains := s.ms.chains.filter (·.word != w) }.taint (8 * w) }
  | .join c j =>
    whenever (((s.core c).join j).st != .free)
    modify fun s => s.modCore c fun k => k.setJoin j Join.free
    ends (s.core c).tk.task
  | .pot c tile =>
    whenever (((s.core c).pot tile).isSome)
    modify fun s => s.modCore c fun k => k.dropPot tile
    ends (s.core c).tk.task
  | .held c k => match (s.core c).acn.pend[k]? with
    | none => notNow
    | some p =>
      modify fun s => s.modCore c fun q => { q with acn := { q.acn with pend := q.acn.pend.eraseIdx k } }
      ends (if s.isLocal p.node then some p.task else none)
  | .atc f p =>
    modify fun s => { s with ms := { s.ms with atc := s.ms.atc.filter fun e => !(e.func == f && e.page == p) } }) s

/-- An uncorrectable error in the Dealer's entry of a task (R412): the task ends. -/
def taskErrorMove (id : Nat) (s : State) : Host.Outcome State Fault Refusal := event (uncontained id 0) s

/-- A packet of a linked node arrives (R328, R343): RETRY marks the join to be reissued. -/
def packetMove (p : Packet) (s : State) : State :=
  if s.isLocal p.srcNode || !s.isLocal p.dstNode then s
  else match p.load with
    | .retry => s.modMember p.task p.dstCore fun k =>
        let e := k.join p.j
        if e.st == .pending then k.setJoin p.j { e with retry := true } else k
    | _ => { s with net := s.net ++ [p] }

/-- What holds the bytes of some places. -/
def placesHeld (c : Ctx) (ps : List Place) : List (Store × Nat × Nat) :=
  ps.flatMap fun p => p.parts.map fun q => ((q.1.held c).1, (q.1.held c).2, q.2)

/-- What a vector load would read now, element by element, as a run-ahead load does (R143). -/
def aheadBytes (f : VM) (form : X VForm) : X (List (Store × Nat × Nat)) := do
  let xa ← readX f.xa
  let v ← form
  let c ← selfCtx
  let k ← self
  let fmt ← loadFmt c f k.space (xa + f.value)
  let m := VMem.ofLoad f k.space fmt xa
  let at_ := m.loadAt f v k.vcols (loadPer fmt)
  let ps ← ((List.range (k.vrows * k.vcols)).filter (k.activeBit f.msk)).mapM fun i => m.place c (at_ i).1 (at_ i).2 none
  return placesHeld c ps

/-- What a VFILL would read now: its header, then the words that the header asks for (R143, R265). -/
def aheadFrame (f : VM) : X (List (Store × Nat × Nat)) := do
  let xa ← readX f.xa
  let c ← selfCtx
  let k ← self
  let m := frameMem k.space (ETwidth f.et) xa 0 (rawReadOk 8)
  let head ← m.framePlaces c f.value.toInt 0 none
  let h ← m.frameGet c head
  let ps ← (List.range (cdiv (fld h 16 7 * fld h 23 17 * ewWidth (fld h 0 3)) 64)).mapM fun j => m.framePlaces c f.value.toInt (1 + j) none
  return placesHeld c (head ++ ps.flatten)

/-- What a load port of a FOP would read at an address now (R143, R314). -/
def aheadPort (f : FX) (at_ : Word) (n : Nat) : X (List (Store × Nat × Nat)) := do
  let k ← self
  whenever (k.fab.slots[f.slot.toNat]).isSome
  let c ← selfCtx
  let p ← (portMem k.space at_ n 0).place c 0 0 none
  return placesHeld c [p]

/-- A load at an address performed ahead by the access stream of a core, or by a load port of the FOP there (R143): it changes
nothing, and is outstanding until the thread executes it or an older store overlaps it. -/
def runAheadMove (c : CoreId) (pc : Word) (port : Option (Word × Nat)) (s : State) : State :=
  let probe : X (List (Store × Nat × Nat)) := do
    modSelf fun k => { k with pc := pc }
    match ← fetchInstr, port with
    | .vldUnit f, none => aheadBytes f unitForm
    | .vldStrided f, none => aheadBytes f (stridedForm f)
    | .vldx f, none => aheadBytes f (indexedForm f)
    | .vfill f, none => aheadFrame f
    | .fop f, some (a, n) => aheadPort f a n
    | _, _ => notNow
  match probe { s with cur := c } with
  | .ok bytes _ => s.modCore c fun k => { k with cache := { k.cache with
      ahead := ⟨pc, bytes⟩ :: if port.isSome then k.cache.ahead else k.cache.ahead.filter (·.pc != pc) } }
  | .error _ _ => s

/-- One move of the agenda. -/
def State.move (s : State) : Move → Host.Outcome State Fault Refusal
  | .thread c =>
    let s := { s with cur := c }
    if s.threadReady c then s.asyncDue.getD s.threadStep else .next s
  | .event i => exec i s
  | .mmioStore f off mask v => .next (s.writePart f off mask v)
  | .matrixGroup c => .next (s.modCore c Core.matrixGroup)
  | .runAhead c pc => .next (if s.threadReady c then runAheadMove c pc none s else s)
  | .portAhead c pc a n => .next (if s.threadReady c then runAheadMove c pc (some (a, n)) s else s)
  | .dropL1 c key => .next (s.modCore c fun k => { k with cache := { k.cache with
      l1d := k.cache.l1d.filter fun l => l.key != key } })
  | .dropFetch c w => .next (s.modCore c fun k => { k with cache := { k.cache with
      icache := k.cache.icache.filter fun e => e.1 != w } })
  | .dropTlb c vpn =>
    let s := s.modCore c fun k => { k with cache := { k.cache with tlb := k.cache.tlb.filter fun e => e.vpn != vpn } }
    .next { s with ms := { s.ms with l2tlb := s.ms.l2tlb.filter fun e => !(e.1 == clusterOf c && e.2.vpn == vpn) } }
  | .dropHome key => event (evictHome key) s
  | .dropReplica cl key => .next { s with ms := s.ms.dropReplica cl key }
  | .hostStore ha n v => hostStoreMove ha n v s
  | .remoteStore pa n v => .next (if 2 ^ 42 ≤ pa && pa < hostBase then
      { s with ms := (s.ms.wr pa n (fullMask n) v).fire pa (max 1 n) } else s)
  | .remoteAnswer node refuse silent => .next { s with links := { s.links with
      refuse := if refuse then node :: s.links.refuse.filter (· != node) else s.links.refuse.filter (· != node)
      silent := if silent then node :: s.links.silent.filter (· != node) else s.links.silent.filter (· != node) } }
  | .hostCaches l trusted => .next (s.hostCaches l trusted)
  | .flitPassed p => .next (s.setPort p { (s.port p) with fails := 0 })
  | .stackError g => .next (if inDevice (g * 64) then s.poisonSegment g else s)
  | .scratchError c g => .next (s.modCore c fun k => { k with
      scratchPoison := if k.scratchPoison.contains g then k.scratchPoison else g :: k.scratchPoison })
  | .regError c code bit => regErrorMove c code bit s
  | .tagError key => tagErrorMove key s
  | .lineError key g => .next (lineErrorMove key g s)
  | .tableError e => tableErrorMove e s
  | .taskError id => taskErrorMove id s
  | .configCorrected => .next { s with root := { s.root with configs := s.root.configs + 1 } }
  | .packet p => .next (packetMove p s)

/-! ### After every move -/

/-- An asynchronous event of the core is not yet taken (R357). -/
def Core.eventHeld (k : Core) : Bool := k.tk.conf || !k.eng.events.isEmpty || k.tk.preempt == .due

/-- TSTATUS.APEND (R349, R357): while TF = 1, an event is held. -/
def Core.withApend (k : Core) : Core :=
  if k.tstatus.getLsbD 9 = (k.tf && k.eventHeld) then k
  else k.setCsr 0x103 (setBits k.tstatus 9 1 (if k.tf && k.eventHeld then 1 else 0))

/-- Addends discarded at poisoned words and write-backs that have failed are logged (R110, R137). -/
def State.logLost (s : State) : State :=
  s.ms.lost.foldl (fun (s : State) e => s.elog (e.2.1.toNat + 1) e.1 1 0xFF (if e.1 = 12 then (portOf e.2.2).1 else 0) (toWord e.2.2) 0)
    { s with ms := { s.ms with lost := [] } }

/-- What every step leaves up to date. -/
def State.tidy (s : State) : State :=
  let s := s.logLost
  { s with cores := ⟨⟨s.cores.toList.map Core.withApend⟩, by simp⟩ }

/-- A move writes a device line that the host caches and for which the host's answer is still asked (R400). -/
def State.held (s t : State) : Bool := s.ms.hdm.any fun l => !t.ms.hdm.contains l && t.ms.bisnp.contains l

/-- An agenda with a store to a register block to be made again: after the next move of another kind, ahead of the stores sent
after it. -/
def makeAgain (m : Move) (agenda : List Move) : List Move :=
  let stores := m :: agenda.takeWhile (·.isMmio)
  match agenda.dropWhile (·.isMmio) with
  | x :: rest => x :: stores ++ rest
  | [] => stores

/-- How a move ends: the images of saved contexts and what every step keeps up to date follow it (R345, R349, R414); one that
must wait for the host's answer leaves only the question, and is made again when it comes, a store to a register block from the
agenda (R400; DEDUCED, log 53). -/
def State.concluded (s : State) (again : Option Move) : Host.Outcome State Fault Refusal → Host.Outcome State Fault Refusal
  | .next t =>
    let t := (s.syncSaved t).tidy
    if s.held t then
      .next { s with ms := s.ms.keepAsks t.ms, agenda := match again with
        | some m => makeAgain m s.agenda
        | none => s.agenda }
    else .next t
  | r => r

/-- The next move: the head of the agenda, else the core that moves (R6). -/
def State.anyMove (s : State) : Host.Outcome State Fault Refusal :=
  match s.agenda with
  | [] => s.concluded none s.coreMove
  | m :: rest =>
    let s := { s with agenda := rest }
    s.concluded (if m.isMmio then some m else none) (s.move m)

end Sys2Proof.Machine
end

