-- ==== Sys2Proof/Machine/Step.lean ====
section
/-! DEFINITION. One step of the machine, and how an instruction is placed where the next step fetches. -/

namespace Sys2Proof.Machine

/-- One step: the agent at the head of the agenda moves; with an empty agenda, the core that moves takes its next
step (R6). -/
def step (s : State) : Host.Outcome State Fault Refusal := s.anyMove

/-- A page-table entry: flags and page (R25). -/
def placeEntry (flags page : Nat) : Nat := page * 4096 + flags

/-- A task of one core of tenant 0 that runs on core 0 (R170). -/
def placeTask : Task :=
  { id := 0, q := .hw 0, seq := 0, launch := List.replicate 8 0, tenant := 0, region := 0, st := .running, cores := [0]
    slots := [0], domain := 0, since := 0, age := 0, hold := none, dealt := [], q0 := 0, polled := 0, due := false }

/-- s with an instruction stored where step fetches next (log 16): core 0 runs a task of tenant 0 at address 0, whose page
is mapped by five tables at pages 1 to 5 onto page 6, inside the tenant's window. -/
def State.withFetchWord (s : State) (nbits w : Nat) : State :=
  let w := w % 2 ^ nbits
  let s := s.setReg 0 0x2_0000 0x8000_0000_0000_0000
  let put := fun (s : State) (a v : Nat) => s.homeStore a 8 v
  let s := put (put (put (put (put s 0x1000 (placeEntry 1 2)) 0x2000 (placeEntry 1 3)) 0x3000 (placeEntry 1 4))
    0x4000 (placeEntry 1 5)) 0x5000 (placeEntry 0x9D 6)
  let s := put (put s 0x6000 (w % 2 ^ 64)) 0x6008 (w / 2 ^ 64 % 2 ^ 64)
  let k := s.core 0
  let k := (k.setCsr 0x121 0x1000)
  let k := { k with
    pc := 0, priv := .user, replies := [], wait := .none, cache := CoreCache.reset, eng := Engines.reset
    fab := { k.fab with grid := none }
    tk := { k.tk with task := some 0, tenant := 0, finished := false, preempt := .none, conf := false } }
  { s with
    ms := { s.ms with l2tlb := [], pwc := [] }, cur := 0, agenda := [], net := []
    dealer := { s.dealer with tasks := placeTask :: s.dealer.tasks.filter (·.id != 0), next := max 1 s.dealer.next }
  }.setCore 0 k

end Sys2Proof.Machine
end

