-- ==== Sys2Proof/Certificates/Slice0/Obligations.lean ====
section
/-! DEFINITION. What is claimed of the machine: one proposition per statement of OBLIGATIONS.json, and the few words the
propositions share. -/

namespace Sys2Proof.Claim

open Sys2Proof.Machine

/-- An instruction of this size has written v to r and completed in sequence; nothing else has changed. -/
def wrote (s : State) (size : Nat) (r : BitVec 6) (v : Word) : Out :=
  .next (s.modSelf fun k => (k.wr r v).retire size)

/-- An instruction has trapped: the core is in its handler, nothing else has changed (R352). -/
def trapped (s : State) (cause : Nat) (tval epc : Word) : Out :=
  .next (s.modSelf fun k => k.enterTrap false cause tval epc)

/-- No register of the list waits for a reply (R178). -/
def ready (s : State) (rs : List (BitVec 6)) : Prop := ∀ r ∈ rs, s.self.empty r = false

/-- The condition of a code between two values (R189). -/
def condition (cc : CC) (a b : Word) : Bool :=
  match cc with
  | .eq => a == b
  | .ne => !(a == b)
  | .lt => a.slt b
  | .ge => !(a.slt b)
  | .ltu => a.ult b
  | .geu => !(a.ult b)
  | .gt => b.slt a
  | .le => !(b.slt a)
  | .gtu => b.ult a
  | .leu => !(b.ult a)

end Sys2Proof.Claim

open Sys2Proof Sys2Proof.Machine Sys2Proof.Claim

/-! ### Scalar integer instructions -/

/-- R210: the two-operand integer forms complete with their result in xd and change nothing else. -/
def Sys2Proof.Claim.IntegerTwoOperandForms : Prop := ∀ (f : SA) (s : State), ready s [f.xa, f.xb, f.xd] →
  let a := s.self.rd f.xa
  let b := s.self.rd f.xb
  let n := (b.extractLsb' 0 6).toNat
  exec (.add f) s = wrote s 8 f.xd (a + b) ∧
  exec (.sub f) s = wrote s 8 f.xd (a - b) ∧
  exec (.and f) s = wrote s 8 f.xd (a &&& b) ∧
  exec (.or f) s = wrote s 8 f.xd (a ||| b) ∧
  exec (.xor f) s = wrote s 8 f.xd (a ^^^ b) ∧
  exec (.andn f) s = wrote s 8 f.xd (a &&& ~~~b) ∧
  exec (.shl f) s = wrote s 8 f.xd (a <<< n) ∧
  exec (.shr f) s = wrote s 8 f.xd (a >>> n) ∧
  exec (.sra f) s = wrote s 8 f.xd (a.sshiftRight n) ∧
  exec (.rotr f) s = wrote s 8 f.xd (a.rotateRight n) ∧
  exec (.min f) s = wrote s 8 f.xd (if a.slt b then a else b) ∧
  exec (.max f) s = wrote s 8 f.xd (if a.slt b then b else a) ∧
  exec (.minu f) s = wrote s 8 f.xd (if a.ult b then a else b) ∧
  exec (.maxu f) s = wrote s 8 f.xd (if a.ult b then b else a)

/-- R211: the halves of the 128-bit products. -/
def Sys2Proof.Claim.IntegerProducts : Prop := ∀ (f : SA) (s : State), ready s [f.xa, f.xb, f.xd] →
  let a := s.self.rd f.xa
  let b := s.self.rd f.xb
  exec (.mul f) s = wrote s 8 f.xd (a * b) ∧
  exec (.mulh f) s = wrote s 8 f.xd ((a.signExtend 128 * b.signExtend 128).extractLsb' 64 64) ∧
  exec (.mulhU f) s = wrote s 8 f.xd ((a.setWidth 128 * b.setWidth 128).extractLsb' 64 64) ∧
  exec (.mulhSu f) s = wrote s 8 f.xd ((a.signExtend 128 * b.setWidth 128).extractLsb' 64 64)

/-- R210, R211: the two-operand integer forms and the products. -/
def Obligations.IntegerArithmetic : Prop := Sys2Proof.Claim.IntegerTwoOperandForms ∧ Sys2Proof.Claim.IntegerProducts


/-- R212: the divisions by a divisor that is not zero, the results by zero with FFLAGS.IDZ set while IDZT.EN = 0, and
the trap IDIV_ZERO before xd is written while IDZT.EN = 1. -/
def Obligations.IntegerDivision : Prop := ∀ (f : SA) (s : State), ready s [f.xa, f.xb, f.xd] →
  let a := s.self.rd f.xa
  let b := s.self.rd f.xb
  let byZero := fun v => Host.Outcome.next (s.modSelf fun k => ((k.orFlags flagIDZ).wr f.xd v).retire 8)
  let idivZero := fun i => trapped (s.modSelf (·.orFlags flagIDZ)) 0x0D (Instr.word i) s.self.pc
  (b ≠ 0 →
    exec (.div f) s = wrote s 8 f.xd (a.sdiv b) ∧ exec (.rem f) s = wrote s 8 f.xd (a.srem b) ∧
    exec (.divu f) s = wrote s 8 f.xd (a / b) ∧ exec (.remu f) s = wrote s 8 f.xd (a % b)) ∧
  (b = 0 → (s.self.csrAt 0x110).getLsbD 0 = false →
    exec (.div f) s = byZero (-1) ∧ exec (.rem f) s = byZero a ∧
    exec (.divu f) s = byZero 0xFFFF_FFFF_FFFF_FFFF ∧ exec (.remu f) s = byZero a) ∧
  (b = 0 → (s.self.csrAt 0x110).getLsbD 0 = true → s.self.tf = false →
    exec (.div f) s = idivZero (.div f) ∧ exec (.rem f) s = idivZero (.rem f) ∧
    exec (.divu f) s = idivZero (.divu f) ∧ exec (.remu f) s = idivZero (.remu f))

/-- R213, R217: the comparisons write 1 where the condition of R189 holds, else 0; SEL selects by xc. -/
def Sys2Proof.Claim.CompareAndSelect : Prop := ∀ (cc : CC) (f : SA) (g : SI) (s : State),
  let v := fun r => s.self.rd r
  (ready s [f.xa, f.xb, f.xd] →
    exec (.cmpCc cc f) s = wrote s 8 f.xd (if condition cc (v f.xa) (v f.xb) then 1 else 0)) ∧
  (ready s [f.xa, f.xb, f.xc, f.xd] →
    exec (.sel f) s = wrote s 8 f.xd (if v f.xc ≠ 0 then v f.xa else v f.xb)) ∧
  (ready s [g.xa, g.xd] →
    exec (.cmpi cc g) s = wrote s (extSize g.ext) g.xd (if condition cc (v g.xa) g.value then 1 else 0))

/-- R214: the unary forms, each by what it says of the bits of xa. -/
def Sys2Proof.Claim.BitOperations : Prop := ∀ (f : SA) (s : State), ready s [f.xa, f.xd] →
  let a := s.self.rd f.xa
  (∃ n, n ≤ 64 ∧ (∀ i < n, a.getLsbD (63 - i) = false) ∧ (n < 64 → a.getLsbD (63 - n) = true) ∧
    exec (.clz f) s = wrote s 8 f.xd (toWord n)) ∧
  (∃ n, n ≤ 64 ∧ (∀ i < n, a.getLsbD i = false) ∧ (n < 64 → a.getLsbD n = true) ∧
    exec (.ctz f) s = wrote s 8 f.xd (toWord n)) ∧
  exec (.popc f) s = wrote s 8 f.xd (toWord ((List.range 64).countP fun i => a.getLsbD i)) ∧
  (∃ v : Word, (∀ i < 64, v.getLsbD (63 - i) = a.getLsbD i) ∧ exec (.brev f) s = wrote s 8 f.xd v) ∧
  exec (.sextB f) s = wrote s 8 f.xd ((a.extractLsb' 0 8).signExtend 64) ∧
  exec (.sextH f) s = wrote s 8 f.xd ((a.extractLsb' 0 16).signExtend 64) ∧
  exec (.sextW f) s = wrote s 8 f.xd ((a.extractLsb' 0 32).signExtend 64) ∧
  exec (.zextB f) s = wrote s 8 f.xd (a &&& 0xFF) ∧
  exec (.zextH f) s = wrote s 8 f.xd (a &&& 0xFFFF) ∧
  exec (.zextW f) s = wrote s 8 f.xd (a &&& 0xFFFF_FFFF)

/-- R215: the bit-field forms, bit by bit: outside its field BFX.U gives 0, BFX.S the field's highest bit and BFI the old
xd; an empty field gives 0, 0 and the old xd. -/
def Sys2Proof.Claim.BitFieldForms : Prop := ∀ (f : SA) (s : State), ready s [f.xa, f.xb, f.xc, f.xd] →
  let a := s.self.rd f.xa
  let d := s.self.rd f.xd
  let off := (s.self.rd f.xb).toNat
  let wid := (s.self.rd f.xc).toNat
  let w := min wid (64 - off)
  if wid = 0 ∨ 64 ≤ off then
    exec (.bfxU f) s = wrote s 8 f.xd 0 ∧ exec (.bfxS f) s = wrote s 8 f.xd 0 ∧ exec (.bfi f) s = wrote s 8 f.xd d
  else ∃ u v t : Word,
    (∀ i < 64, u.getLsbD i = (decide (i < w) && a.getLsbD (off + i))) ∧ exec (.bfxU f) s = wrote s 8 f.xd u ∧
    (∀ i < 64, v.getLsbD i = a.getLsbD (off + min i (w - 1))) ∧ exec (.bfxS f) s = wrote s 8 f.xd v ∧
    (∀ i < 64, t.getLsbD i = if off ≤ i ∧ i < off + w then a.getLsbD (i - off) else d.getLsbD i) ∧
    exec (.bfi f) s = wrote s 8 f.xd t

/-- R214, R215: the unary bit forms and the bit fields. -/
def Obligations.BitForms : Prop := Sys2Proof.Claim.BitOperations ∧ Sys2Proof.Claim.BitFieldForms


/-- R216, R217: the immediate forms; SHLI, SHRI and SRAI with an immediate of 0 to 63, LIX with one below 2^24, as their
encodings admit. -/
def Sys2Proof.Claim.ImmediateForms : Prop := ∀ (f : SI) (s : State), ready s [f.xa, f.xd] →
  let a := s.self.rd f.xa
  let v := f.value
  let n := extSize f.ext
  exec (.addi f) s = wrote s n f.xd (a + v) ∧
  exec (.andi f) s = wrote s n f.xd (a &&& v) ∧
  exec (.ori f) s = wrote s n f.xd (a ||| v) ∧
  exec (.xori f) s = wrote s n f.xd (a ^^^ v) ∧
  (v.toNat ≤ 63 →
    exec (.shli f) s = wrote s n f.xd (a <<< v.toNat) ∧
    exec (.shri f) s = wrote s n f.xd (a >>> v.toNat) ∧
    exec (.srai f) s = wrote s n f.xd (a.sshiftRight v.toNat)) ∧
  exec (.li f) s = wrote s n f.xd v ∧
  (v.toNat < 2 ^ 24 → exec (.lix f) s = wrote s n f.xd ((v <<< 40) ||| (a &&& 0xFF_FFFF_FFFF)))

/-- R213, R216, R217: comparisons, selection and the immediate forms. -/
def Obligations.CompareAndImmediateForms : Prop := Sys2Proof.Claim.CompareAndSelect ∧ Sys2Proof.Claim.ImmediateForms


/-! ### Scalar floating point -/

namespace Sys2Proof.Claim

/-- How a scalar floating-point instruction ends: with no flag that FPEN enables, its flags are in FFLAGS and its result
in xd; with one, and no trap frame live, it has trapped FP_TRAP and written nothing (R218, R358). -/
def fpEnds (s : State) (i : Instr) (xd : BitVec 6) (v : Word) (fl : Flags) : Prop :=
  (s.self.trapping fl = false → exec i s = .next (s.modSelf fun k => ((k.orFlags fl).wr xd v).retire 8)) ∧
  (s.self.trapping fl = true → s.self.tf = false → exec i s = trapped s 0x0C (fpTrapValue fl 0 false) s.self.pc)

end Sys2Proof.Claim

/-- R218, R219, R358: the arithmetic forms complete with the exact result rounded once under FRM, zero-extended, and their
flags ORed into FFLAGS; an enabled flag traps before anything is written. -/
def Obligations.ScalarFloatArithmetic : Prop := ∀ (fmt : FFmt) (f : SA) (s : State),
  ready s [f.xa, f.xb, f.xc, f.xd] →
  let F := FFmtfmt fmt
  let a := fmtBits fmt (s.self.rd f.xa)
  let b := fmtBits fmt (s.self.rd f.xb)
  let c := fmtBits fmt (s.self.rd f.xc)
  let rm := s.self.frm
  let ends := fun i (r : Nat × Flags) => fpEnds s i f.xd (toWord r.1) r.2
  ends (.fadd fmt f) (F.deliver rm (addVal rm (F.decode a) (F.decode b))) ∧
  ends (.fsub fmt f) (F.deliver rm (addVal rm (F.decode a) (F.decode b).negate)) ∧
  ends (.fmul fmt f) (F.deliver rm (mulVal (F.decode a) (F.decode b))) ∧
  ends (.ffma fmt f) (F.deliver rm (fmaVal rm (F.decode a) (F.decode b) (F.decode c))) ∧
  ends (.fdiv fmt f) (F.div rm a b) ∧
  ends (.fsqrt fmt f) (F.sqrt rm a) ∧
  ends (.fmin fmt f) (F.minmax false a b) ∧
  ends (.fmax fmt f) (F.minmax true a b)

/-- R220: the comparisons are false where an operand is a NaN, FCMP.UN true exactly there; EQ and UN raise NV only for a
signalling NaN, LT and LE for any; FCLASS writes one bit of ten and FMV a copy, both without a flag. -/
def Sys2Proof.Claim.ScalarFloatCompareClass : Prop := ∀ (fmt : FFmt) (f : SA) (s : State),
  ready s [f.xa, f.xb, f.xd] →
  let F := FFmtfmt fmt
  let a := F.decode (fmtBits fmt (s.self.rd f.xa))
  let b := F.decode (fmtBits fmt (s.self.rd f.xb))
  let nan := a.isNaN || b.isNaN
  let sig := flagIf (a.signals || b.signals) flagNV
  let any := flagIf nan flagNV
  let ends := fun i (v : Bool) fl => fpEnds s i f.xd (if v then 1 else 0) fl
  ends (.fcmpEq fmt f) (!nan && a.cmp b == .eq) sig ∧
  ends (.fcmpLt fmt f) (!nan && a.cmp b == .lt) any ∧
  ends (.fcmpLe fmt f) (!nan && a.cmp b != .gt) any ∧
  ends (.fcmpUn fmt f) nan sig ∧
  (∃ n, n < 10 ∧ exec (.fclass fmt f) s = wrote s 8 f.xd (toWord (2 ^ n)) ∧
    (n = 8 ∨ n = 9 ↔ a.isNaN = true) ∧ (n = 8 ↔ a.signals = true) ∧ (n = 3 ∨ n = 4 ↔ a.isZero = true)) ∧
  exec (.fmv f) s = wrote s 8 f.xd (s.self.rd f.xa)

/-- R221: FCVT completes with the converted element, extended by the destination type. -/
def Sys2Proof.Claim.ScalarConversion : Prop := ∀ (dst src : ET) (f : SA) (s : State), ready s [f.xa, f.xd] →
  let k := s.self
  let r := convertElem dst src k.frm k.satf k.sati ((k.rd f.xa).toNat % 2 ^ src.width)
  fpEnds s (.fcvt dst src f) f.xd
    (if dst.isInt && dst.isSigned then BitVec.ofInt 64 (signed dst.width r.1) else toWord (r.1 % 2 ^ dst.width)) r.2

/-- R220, R221: the scalar floating-point comparisons, classes, copies and conversions. -/
def Obligations.ScalarFloatCompareConvert : Prop := Sys2Proof.Claim.ScalarFloatCompareClass ∧ Sys2Proof.Claim.ScalarConversion


/-- R53: a scaled integer m / 2^n rounded by each mode: to nearest with ties to even, towards zero, up and down in value;
exactly where 2^n divides m. -/
def Obligations.RoundingModes : Prop := ∀ (neg : Bool) (m n : Nat), 0 < n →
  let r := fun rm => roundShift rm neg m n
  (∀ rm, ((r rm).2 = true ↔ m % 2 ^ n ≠ 0)) ∧
  (2 * m ≤ 2 * ((r 0).1 * 2 ^ n) + 2 ^ n ∧ 2 * ((r 0).1 * 2 ^ n) ≤ 2 * m + 2 ^ n) ∧
  (2 * (m % 2 ^ n) = 2 ^ n → (r 0).1 % 2 = 0) ∧
  ((r 1).1 * 2 ^ n ≤ m ∧ m < (r 1).1 * 2 ^ n + 2 ^ n) ∧
  (if neg then (r 2).1 * 2 ^ n ≤ m ∧ m < (r 2).1 * 2 ^ n + 2 ^ n
    else m ≤ (r 2).1 * 2 ^ n ∧ (r 2).1 * 2 ^ n < m + 2 ^ n) ∧
  (if neg then m ≤ (r 3).1 * 2 ^ n ∧ (r 3).1 * 2 ^ n < m + 2 ^ n
    else (r 3).1 * 2 ^ n ≤ m ∧ m < (r 3).1 * 2 ^ n + 2 ^ n)

/-! ### Control flow -/

/-- R222: branches and jumps: the target is PC + 8 × off40; a branch not taken completes in sequence; JAL leaves PC + 8 in
x1; JR to an address that is not a multiple of 8 traps MISALIGN with that address. -/
def Obligations.BranchesAndJumps : Prop := ∀ (cc : CC) (f : SB) (s : State),
  let pc := s.self.pc
  let off := f.off.signExtend 64 * 8
  let goes := fun (p : Word) => Host.Outcome.next (s.modSelf (·.jump p))
  let t := s.self.rd f.xa + off
  (ready s [f.xa, f.xb] → exec (.brCc cc f) s =
    if condition cc (s.self.rd f.xa) (s.self.rd f.xb) then goes (pc + off) else .next (s.modSelf (·.retire 8))) ∧
  exec (.jmp f) s = goes (pc + off) ∧
  (ready s [1] → exec (.jal f) s = .next (s.modSelf fun k => (k.wr 1 (pc + 8)).jump (pc + off))) ∧
  (ready s [f.xa] → t.extractLsb' 0 3 = 0 → exec (.jr f) s = goes t) ∧
  (ready s [f.xa] → t.extractLsb' 0 3 ≠ 0 → s.self.tf = false → exec (.jr f) s = trapped s 4 t pc)

/-- R224: the loop entries set the three registers of their loop and go to the body, or past the instruction at LEk when the
count is 0; no end check. That a word at LEk which faults or is poisoned names no prefix is the model's choice (log 22); one
that must be waited for is. -/
def Sys2Proof.Claim.LoopEntry : Prop := ∀ (l : BitVec 1) (f : SB) (s : State),
  let pc := s.self.pc
  let last := pc + f.off.signExtend 64 * 8
  let b := 0x030 + 3 * l.toNat
  let enters := fun (n target : Word) => Host.Outcome.next (s.modSelf fun k =>
    (((k.setCsr b n).setCsr (b + 1) (addrField (pc + 8))).setCsr (b + 2) (addrField last)).jump target)
  let entered := fun (i : Instr) (n : Word) =>
    (n ≠ 0 → exec i s = enters n (pc + 8)) ∧
    (n = 0 → ∀ ext, isExtAt last s = .ok ext s → exec i s = enters n (last + if ext then 16 else 8)) ∧
    (n = 0 → ∀ w t, isExtAt last s = .error (.wait w) t → t.cur = s.cur →
      exec i s = .next (t.modSelf fun k => { k with wait := w }))
  (∀ w t, fetchWord last s = .ok (w, false) t → isExtAt last s = .ok (w.extractLsb' 56 8 == 0xF0#8) s) ∧
  (ready s [f.xa] → entered (.loop l f) (s.self.rd f.xa)) ∧
  entered (.loopi l f) (toWord (f.xa.toNat * 64 + f.xb.toNat))

/-- R225: the end checks of an instruction that completes in sequence, the inner loop first. -/
def Sys2Proof.Claim.LoopEndChecks : Prop := ∀ (k : Core) (size : Nat), size = 8 ∨ size = 16 →
  let lc := fun i => k.csrAt (0x030 + 3 * i)
  let ls := fun i => canon56 (k.csrAt (0x031 + 3 * i))
  let ends := fun i => lc i ≠ 0 ∧ (k.csrAt (0x032 + 3 * i) = addrField k.pc ∨
    size = 16 ∧ k.csrAt (0x032 + 3 * i) = addrField (k.pc + 8))
  let t := k.retire size
  (ends 1 → 1 < (lc 1).toNat → t.csrAt 0x033 = lc 1 - 1 ∧ t.csrAt 0x030 = lc 0 ∧ t.pc = ls 1) ∧
  ((ends 1 → (lc 1).toNat = 1) → (ends 1 → t.csrAt 0x033 = 0) ∧ (¬ends 1 → t.csrAt 0x033 = lc 1) ∧
    (ends 0 → 1 < (lc 0).toNat → t.csrAt 0x030 = lc 0 - 1 ∧ t.pc = ls 0) ∧
    (ends 0 → (lc 0).toNat = 1 → t.csrAt 0x030 = 0 ∧ t.pc = k.pc + toWord size) ∧
    (¬ends 0 → t.csrAt 0x030 = lc 0 ∧ t.pc = k.pc + toWord size)) ∧
  (∀ n, n ≠ 0x030 → n ≠ 0x033 → n ≠ 0x051 → t.csrAt n = k.csrAt n) ∧ t.csrAt 0x051 = k.csrAt 0x051 + 1

/-- R224, R225: entering a loop and its end checks. -/
def Obligations.HardwareLoops : Prop := Sys2Proof.Claim.LoopEntry ∧ Sys2Proof.Claim.LoopEndChecks


/-! ### Element-wise vector instructions -/

namespace Sys2Proof.Claim

/-- Element j of width w of the register a code names. -/
def elem (k : Core) (code w j : Nat) : Nat := fld (k.vec.bitsOf code) (w * j) w

/-- Element j of an operand field: of a register, or the low bits of a broadcast scalar (R187). -/
def source (k : Core) (code : BitVec 7) (w j : Nat) : Nat :=
  if code.getLsbD 6 then (k.rd (code.setWidth 6)).toNat % 2 ^ w else elem k code.toNat w j

/-- A vector instruction of this governing width (EW code) may issue with these operand codes (R230, R85): nothing reserved
in VCFG, a shape that fits, registers FULL and in reach of the shape, scalars not EMPTY. -/
def admits (s : State) (ew : Nat) (codes : List (BitVec 7)) : Prop :=
  let k := s.self
  k.ew = ew ∧ k.scope ≤ 5 ∧ k.shapeOk = true ∧ k.capBits ≤ 262144 ∧
  (∀ c ∈ codes, c.getLsbD 6 = true → k.empty (c.setWidth 6) = false) ∧
  (∀ c ∈ codes, c.getLsbD 6 = false → k.vec.state c.toNat = .full ∧ c.toNat < 42 ∧
    (c.toNat < 32 ∨ k.vrows * k.vcols ≤ 1024))

/-- It may issue, and no register word is poisoned (R95). -/
def issues (s : State) (ew : Nat) (codes : List (BitVec 7)) : Prop := admits s ew codes ∧ s.self.vec.poison = []

/-- Element j is one an element-wise instruction computes: from VSTART on, inside the shape, active (R231). -/
def live (k : Core) (msk : BitVec 3) (j : Nat) : Prop :=
  k.vstart ≤ j ∧ j < k.vrows * k.vcols ∧ k.vec.maskBit msk.toNat j = true

/-- Only the vector unit, the CSRs, the program counter and the wait of the own core differ; scalar registers, tiles, engines,
memory and every other core are as before. -/
def onlyVector (s t : State) : Prop :=
  t = s.modSelf (fun _ => t.self) ∧
  t.self = { s.self with vec := t.self.vec, csr := t.self.csr, pc := t.self.pc, wait := t.self.wait }

/-- No CSR differs but VSTART, the flags FFLAGS, VFX0 and VFX1, the loop counts and INSTRET. -/
def onlyFlagCsrs (k l : Core) : Prop :=
  ∀ n, n ∉ [0x003, 0x008, 0x00A, 0x00B, 0x030, 0x033, 0x051] → l.csrAt n = k.csrAt n

/-- No register but this one differs, and no mask. -/
def onlyRegister (k l : Core) (code : Nat) : Prop :=
  (∀ c, c ≠ code → c < 42 → l.vec.bitsOf c = k.vec.bitsOf c) ∧ l.vec.m = k.vec.m

/-- FFLAGS gains exactly the flags of the elements computed. -/
def gainsFlags (k l : Core) (msk : BitVec 3) (val : Nat → Nat × Flags) : Prop :=
  ∀ b, l.fflags.getLsbD b = true ↔
    k.fflags.getLsbD b = true ∨ ∃ j, live k msk j ∧ (val j).2.getLsbD b = true

/-- The instruction has trapped at element j: the core is in its handler, with the cause, the value and the address of the
instruction, and the frame's VSTART names the element (R35, R232, R352). -/
def stoppedAt (s t : State) (j cause : Nat) (tval : Word) : Prop :=
  let l := t.self
  l.csrAt 0x100 = toWord cause ∧ l.csrAt 0x101 = tval ∧ l.csrAt 0x102 = addrField s.self.pc ∧ l.frame[6] = toWord j ∧
  l.csrAt 0x003 = 0 ∧ l.tf = true ∧ l.priv = .super ∧ l.pc = canon56 (s.self.csrAt 0x104)

/-- R232: the instruction traps at element j: of its destination, read by get, the elements computed below j have their
results, the inactive ones below it zero under mz, all others stay; FFLAGS gains the flags of those below j and these. -/
def stops {α : Type} (s : State) (i : Instr) (f : VA) (get : Core → Nat → α) (zero : α) (val : Nat → α × Flags)
    (kept : Core → Core → Prop) (j cause : Nat) (tval : Word) (own : Flags) : Prop :=
  let k := s.self
  ∃ t, exec i s = .next t ∧ stoppedAt s t j cause tval ∧ t = s.modSelf (fun _ => t.self) ∧ kept k t.self ∧
    t.self = { k with vec := t.self.vec, csr := t.self.csr, pc := t.self.pc, wait := t.self.wait, frame := t.self.frame
                      priv := t.self.priv } ∧
    (∀ b, t.self.fflags.getLsbD b = true ↔ k.fflags.getLsbD b = true ∨ own.getLsbD b = true ∨
      ∃ m, m < j ∧ live k f.msk m ∧ (val m).2.getLsbD b = true) ∧
    ∀ m < k.vrows * k.vcols,
      (m < j → live k f.msk m → get t.self m = (val m).1) ∧
      (m < j → ¬live k f.msk m → get t.self m = if f.mz = 1 ∧ k.vstart ≤ m then zero else get k m) ∧
      (j ≤ m → get t.self m = get k m)

/-- R232, R356, R358: the lowest element that raises an enabled flag traps FP_TRAP, with its flags and its index. -/
def stopsOnFlags {α : Type} (s : State) (i : Instr) (f : VA) (get : Core → Nat → α) (zero : α) (val : Nat → α × Flags)
    (kept : Core → Core → Prop) : Prop :=
  let k := s.self
  ∀ j, k.tf = false → live k f.msk j → k.trapping (val j).2 = true →
    (∀ m < j, live k f.msk m → k.trapping (val m).2 = false) →
    stops s i f get zero val kept j 0x0C (toWord (((val j).2.extractLsb' 0 5).toNat + j % 2 ^ 16 * 2 ^ 16 + 2 ^ 63)) 0

/-- The value of a result in w bits, with its flags. -/
def low (w : Nat) (val : Nat → Nat × Flags) (j : Nat) : Nat × Flags := ((val j).1 % 2 ^ w, (val j).2)

/-- R231, R232: an element-wise instruction that no element stops completes: each element computed takes its result, an inactive
one zero under mz, every other one of the shape stays; flags are gained, VSTART is 0, nothing else changes. The lowest element
that raises an enabled flag traps. -/
def elementwise (s : State) (i : Instr) (f : VA) (srcs : List (BitVec 7)) (val : Nat → Nat × Flags) : Prop :=
  let k := s.self
  let w := ETwidth f.et
  issues s (ETew f.et) (f.vd :: srcs) → f.vd.getLsbD 6 = false →
  ((∀ j, live k f.msk j → k.trapping (val j).2 = false) →
    ∃ t, exec i s = .next t ∧ onlyVector s t ∧ onlyFlagCsrs k t.self ∧ onlyRegister k t.self f.vd.toNat ∧
      gainsFlags k t.self f.msk val ∧ t.self.pc = (k.retire 8).pc ∧
      (k.vrows * k.vcols ≠ 0 → t.self.csrAt 0x003 = 0) ∧
      ∀ j < k.vrows * k.vcols,
        (live k f.msk j → elem t.self f.vd.toNat w j = (val j).1 % 2 ^ w) ∧
        (¬live k f.msk j → elem t.self f.vd.toNat w j =
          if f.mz = 1 ∧ k.vstart ≤ j then 0 else elem k f.vd.toNat w j)) ∧
  stopsOnFlags s i f (fun k j => elem k f.vd.toNat w j) 0 (low w val) (fun k l => onlyRegister k l f.vd.toNat)

/-- The result of an integer or of a floating-point type (R234). -/
def num (t : ET) (int : Int) (float : FpFmt → Nat × Flags) : Nat × Flags :=
  match ETfmt t with
  | some F => float F
  | none => (wrap (ETwidth t) int, 0)

end Sys2Proof.Claim

/-- R231, R232, R234, R235, R356, R358: the arithmetic of two and three sources, integers modulo 2^w, floating point rounded once
under VCFG.RM. The lowest element that raises an enabled flag traps FP_TRAP, and with IDZT.EN = 1 the lowest that an integer VDIV
divides by zero traps IDIV_ZERO, before it is written. -/
def Obligations.VectorArithmetic : Prop := ∀ (f : VA) (s : State), ETint f.et = true ∨ ETflt f.et = true → f.et ≠ .i4 →
  let k := s.self
  let w := ETwidth f.et
  let a := source k f.va w
  let b := source k f.vb w
  let c := source k f.vc w
  let v := intVal f.et
  let two := fun i int float => elementwise s i f [f.va, f.vb] fun j => num f.et (int j) (float j)
  let three := fun i int float => elementwise s i f [f.va, f.vb, f.vc] fun j => num f.et (int j) (float j)
  two (.vadd f) (fun j => v (a j) + v (b j)) (fun j F => F.add k.rm (a j) (b j)) ∧
  two (.vsub f) (fun j => v (a j) - v (b j)) (fun j F => F.sub k.rm (a j) (b j)) ∧
  two (.vmul f) (fun j => v (a j) * v (b j)) (fun j F => F.mul k.rm (a j) (b j)) ∧
  (ETint f.et = true → two (.vmulh f) (fun j => v (a j) * v (b j) / 2 ^ w) (fun j _ => (a j, 0))) ∧
  two (.vmin f) (fun j => min (v (a j)) (v (b j))) (fun j F => F.minmax false (a j) (b j)) ∧
  two (.vmax f) (fun j => max (v (a j)) (v (b j))) (fun j F => F.minmax true (a j) (b j)) ∧
  three (.vfma f) (fun j => v (a j) * v (b j) + v (c j)) (fun j F => F.fma k.rm false false (a j) (b j) (c j)) ∧
  three (.vfms f) (fun j => v (a j) * v (b j) - v (c j)) (fun j F => F.fma k.rm false true (a j) (b j) (c j)) ∧
  three (.vfnma f) (fun j => v (c j) - v (a j) * v (b j)) (fun j F => F.fma k.rm true false (a j) (b j) (c j)) ∧
  (let quotient := fun j => if ETint f.et = true ∧ b j = 0 then (2 ^ w - 1, flagIDZ)
    else num f.et ((v (a j)).tdiv (v (b j))) fun F => F.div k.rm (a j) (b j)
  let trapsOnZero := ETint f.et = true ∧ (k.csrAt 0x110).getLsbD 0 = true
  (¬trapsOnZero ∨ (∀ j, live k f.msk j → b j ≠ 0) → elementwise s (.vdiv f) f [f.va, f.vb] quotient) ∧
  ∀ j, trapsOnZero → k.tf = false → issues s (ETew f.et) [f.vd, f.va, f.vb] → f.vd.getLsbD 6 = false → live k f.msk j →
    b j = 0 → (∀ m < j, live k f.msk m → b m ≠ 0) →
    stops s (.vdiv f) f (fun k j => elem k f.vd.toNat w j) 0 (low w quotient) (fun k l => onlyRegister k l f.vd.toNat) j 0x0D
      (Instr.word (.vdiv f)) flagIDZ)

/-- R235, R236: the bitwise, shift and counting forms over integer types, and the one-source arithmetic. -/
def Obligations.VectorBitAndUnaryForms : Prop := ∀ (f : VA) (s : State), f.et ≠ .i4 →
  let k := s.self
  let w := ETwidth f.et
  let a := source k f.va w
  let b := source k f.vb w
  let v := intVal f.et
  let bits := fun i (srcs : List (BitVec 7)) val => elementwise s i f srcs fun j => (val j, 0)
  let one := fun i int float => elementwise s i f [f.va] fun j => num f.et (int j) (float j)
  (ETint f.et = true →
    bits (.vand f) [f.va, f.vb] (fun j => a j &&& b j) ∧
    bits (.vor f) [f.va, f.vb] (fun j => a j ||| b j) ∧
    bits (.vxor f) [f.va, f.vb] (fun j => a j ^^^ b j) ∧
    bits (.vshl f) [f.va, f.vb] (fun j => a j * 2 ^ (b j % w)) ∧
    bits (.vshr f) [f.va, f.vb] (fun j => a j / 2 ^ (b j % w)) ∧
    bits (.vsra f) [f.va, f.vb] (fun j => wrap w (signed w (a j) / 2 ^ (b j % w))) ∧
    bits (.vnot f) [f.va] (fun j => 2 ^ w - 1 - a j) ∧
    bits (.vclz f) [f.va] (fun j => leadingZeros w (a j)) ∧
    bits (.vpopc f) [f.va] (fun j => popCount w (a j))) ∧
  (ETint f.et = true ∨ ETflt f.et = true →
    one (.vabs f) (fun j => |v (a j)|) (fun j F => signElem F false (a j)) ∧
    one (.vneg f) (fun j => -v (a j)) (fun j F => signElem F true (a j))) ∧
  (ETflt f.et = true →
    one (.vsqrt f) (fun _ => 0) (fun j F => F.sqrt k.rm (a j)) ∧
    one (.vrcp f) (fun _ => 0) (fun j F => F.div k.rm F.one (a j)) ∧
    one (.vrsq f) (fun _ => 0) (fun j F => F.rsqrt k.rm (a j)))

namespace Sys2Proof.Claim

/-- A decoded value is the number h / 2. -/
def halves (v : FVal) (h : Int) : Prop :=
  ∃ neg m e, v = .num neg m e ∧
    (if neg then -(m : Int) else m) * 2 ^ (e + 1).toNat = h * 2 ^ (-(e + 1)).toNat

/-- A decoded value is 2^n. -/
def powerOfTwo (v : FVal) (n : Int) : Prop := ∃ (i : Nat) (e : Int), v = .num false (2 ^ i) e ∧ e + i = n

/-- The exact cases of R240, of what each function delivers for the value x with its flags: zeros, infinities, NaNs, powers of
two, integers and halves of odd integers. -/
def exactCases (F : FpFmt) (x : FVal) (exp2 log2 sin cos : Nat × Flags) : Prop :=
  let nan := F.nan
  let one := fun (neg : Bool) => F.pack neg F.bias 0
  (∀ sig, x = .nan sig → let r := (nan, if sig then flagNV else 0); exp2 = r ∧ log2 = r ∧ sin = r ∧ cos = r) ∧
  (∀ neg, x = .inf neg → exp2 = (if neg then F.zero false else F.inf false, 0) ∧
    log2 = (if neg then (nan, flagNV) else (F.inf false, 0)) ∧ sin = (nan, flagNV) ∧ cos = (nan, flagNV)) ∧
  (∀ n : Int, halves x (2 * n) →
    (1 - (F.bias : Int) - F.fbits ≤ n → n ≤ F.bias → ∃ q, exp2 = (q, 0) ∧ powerOfTwo (F.decode q) n) ∧
    (∀ neg m e, x = .num neg m e → sin = (F.zero neg, 0)) ∧ cos = (one (n % 2 == 1), 0)) ∧
  (∀ n : Int, halves x (2 * n + 1) → sin = (one (n % 2 == 1), 0) ∧ cos = (F.zero false, 0)) ∧
  (∀ neg e, x = .num neg 0 e → log2 = (F.inf true, flagDZ)) ∧
  (∀ m e, x = .num true m e → m ≠ 0 → log2 = (nan, flagNV)) ∧
  (∀ n, powerOfTwo x n → ∃ q, log2 = (q, 0) ∧ halves (F.decode q) (2 * n))

end Sys2Proof.Claim

/-- R240: the special functions over FP16, BF16 and FP32: the exact cases; every other result raises NX, is rounded to nearest
in FP16 and BF16, and in FP32 lies within the form's bound, of the model's fixed-point value of the function (log 31). -/
def Obligations.VectorSpecialFunctions : Prop := ∀ (f : VA) (s : State) (F : FpFmt),
  f.et = .f16 ∨ f.et = .bf16 ∨ f.et = .f32 → ETfmt f.et = some F →
  let a := source s.self f.va (ETwidth f.et)
  let one := fun i code ulps fn => elementwise s i f [f.va] fun j =>
    specialResult f.et F code ulps (a j) (fn F (F.decode (a j)))
  let delivered := fun code ulps (fn : FpFmt → FVal → Special) x => specialResult f.et F code ulps x (fn F (F.decode x))
  (∀ x < 2 ^ ETwidth f.et, exactCases F (F.decode x) (delivered 0 1 exp2Of x) (delivered 1 1 log2Of x)
    (delivered 2 2 sinPiOf x) (delivered 3 2 cosPiOf x)) ∧
  one (.vexp2 f) 0 1 exp2Of ∧ one (.vlog2 f) 1 1 log2Of ∧ one (.vsin f) 2 2 sinPiOf ∧ one (.vcos f) 3 2 cosPiOf ∧
  ∀ code ulps x neg m e,
    let r := specialResult f.et F code ulps x (.value neg m e)
    let q := F.round 0 false neg m e
    r.2.getLsbD 0 = true ∧ (f.et ≠ .f32 → r = (q.1, q.2 ||| flagNX)) ∧
    (f.et = .f32 → F.within ulps neg m e r.1 = true ∨ r.1 = q.1)

/-- R238, R239: selection, copies, broadcasts of a row and indices, over the types moved as their bits. -/
def Sys2Proof.Claim.VectorMoves : Prop := ∀ (f : VA) (s : State), f.et ≠ .wac →
  let k := s.self
  let w := ETwidth f.et
  let a := source k f.va w
  let b := source k f.vb w
  let r := (k.rd (scalarOf f.vb)).toNat
  elementwise s (.vmov f) f [f.va] (fun j => (elemBits f.et (a j), 0)) ∧
  elementwise s (.viota f) f [] (fun j => (j, 0)) ∧
  (f.vb.getLsbD 6 = true → elementwise s (.vbcast f) f [f.va, f.vb] fun j =>
    (if r < k.vrows then elemBits f.et (a (r * k.vcols + j % k.vcols)) else 0, 0)) ∧
  (f.mz = 0 → elementwise s (.vsel f) { f with msk := 0 } [f.va, f.vb] fun j =>
    (elemBits f.et (if k.vec.maskBit f.msk.toNat j then a j else b j), 0))

/-- R239: VMVX returns one element, extended by its type, or 0 beyond the shape, through a reply slot; VMVS writes one element
and leaves every other one, the tail included. -/
def Sys2Proof.Claim.ElementTransfers : Prop := ∀ (f : VA) (s : State), f.et ≠ .wac →
  let k := s.self
  let w := ETwidth f.et
  let n := k.vrows * k.vcols
  let i := (k.rd (scalarOf f.vb)).toNat
  (issues s (ETew f.et) [f.va, f.vb] → f.vb.getLsbD 6 = true → n ≠ 0 →
    k.replies.length < 16 → k.empty (scalarOf f.vd) = false →
    exec (.vmvx f) s = .next (s.modSelf fun k => Core.retire { k with replies := k.replies ++
      [⟨[(scalarOf f.vd, if i < n then extendElem f.et (elemBits f.et (source k f.va w i)) else 0)]⟩] } 8)) ∧
  (issues s (ETew f.et) [f.vd, f.va, f.vb] → f.vd.getLsbD 6 = false → f.va.getLsbD 6 = true → f.vb.getLsbD 6 = true →
    ∃ t, exec (.vmvs f) s = .next t ∧ onlyVector s t ∧ onlyFlagCsrs k t.self ∧ onlyRegister k t.self f.vd.toNat ∧
      t.self.pc = (k.retire 8).pc ∧
      ∀ j, w * j + w ≤ 65536 → elem t.self f.vd.toNat w j =
        if j = i ∧ i < n then elemBits f.et ((k.rd (scalarOf f.va)).toNat) else elem k f.vd.toNat w j)

/-- R238, R239: moves between vector registers, and between them and scalar registers. -/
def Obligations.VectorMovesAndTransfers : Prop := Sys2Proof.Claim.VectorMoves ∧ Sys2Proof.Claim.ElementTransfers


namespace Sys2Proof.Claim

/-- The truth of a condition between two elements and the flags it raises (R237): integers compared as signed or unsigned by
the code; values by their order, -0 equal to +0, false but for NE where one is a NaN; NV by EQ and NE for a signalling NaN, by
the others for any. -/
def compared (t : ET) (cc : CC) (a b : Nat) : Bool × Flags :=
  match ETfmt t with
  | none =>
    let w := ETwidth t
    (match cc with
      | .eq => a == b
      | .ne => a != b
      | .lt => decide (signed w a < signed w b)
      | .ge => decide (signed w b ≤ signed w a)
      | .gt => decide (signed w b < signed w a)
      | .le => decide (signed w a ≤ signed w b)
      | .ltu => decide (a < b)
      | .geu => decide (b ≤ a)
      | .gtu => decide (b < a)
      | .leu => decide (a ≤ b), 0)
  | some F =>
    let x := F.decode a
    let y := F.decode b
    let nan := x.isNaN || y.isNaN
    let loud := if cc = .eq ∨ cc = .ne then x = .nan true ∨ y = .nan true else nan = true
    (match cc with
      | .eq => !nan && x.cmp y == .eq
      | .ne => nan || x.cmp y != .eq
      | .lt => !nan && x.cmp y == .lt
      | .ge => !nan && x.cmp y != .lt
      | .gt => !nan && x.cmp y == .gt
      | _ => !nan && x.cmp y != .gt, if loud then flagNV else 0)

end Sys2Proof.Claim

/-- R237, R358: VCMP writes the truth of its condition into a mask, or traps at the lowest element that raises an enabled flag: inactive bits stay or become 0 under mz, bits beyond the shape
are cleared exactly when VCFG.TAILZ = 1. -/
def Obligations.VectorCompare : Prop := ∀ (cc : CC) (f : VA) (s : State),
  ETint f.et = true ∨ ETflt f.et = true → f.et ≠ .i4 →
  let k := s.self
  let w := ETwidth f.et
  let n := k.vrows * k.vcols
  let r := fun j => compared f.et cc (source k f.va w j) (source k f.vb w j)
  (ETflt f.et = true → cc ≠ .ltu ∧ cc ≠ .geu ∧ cc ≠ .gtu ∧ cc ≠ .leu) → issues s (ETew f.et) [f.va, f.vb] → 0 < f.vd.toNat → f.vd.toNat < 8 → n ≠ 0 →
  ((∀ j, live k f.msk j → k.trapping (r j).2 = false) →
    ∃ t, exec (.vcmpCc cc f) s = .next t ∧ onlyVector s t ∧ onlyFlagCsrs k t.self ∧
      (∀ c, c < 42 → t.self.vec.bitsOf c = k.vec.bitsOf c) ∧ gainsFlags k t.self f.msk (fun j => (0, (r j).2)) ∧
      t.self.pc = (k.retire 8).pc ∧ t.self.csrAt 0x003 = 0 ∧
      ∀ m j, m < 8 → m ≠ 0 → j < 65536 → t.self.vec.maskBit m j =
        if m ≠ f.vd.toNat then k.vec.maskBit m j
        else if n ≤ j then !k.tailz && k.vec.maskBit m j
        else if k.vstart ≤ j ∧ k.vec.maskBit f.msk.toNat j then (r j).1
        else if f.mz = 1 ∧ k.vstart ≤ j then false else k.vec.maskBit m j) ∧
  stopsOnFlags s (.vcmpCc cc f) f (fun k j => k.vec.maskBit f.vd.toNat j) false r fun k l =>
    (∀ c, c < 42 → l.vec.bitsOf c = k.vec.bitsOf c) ∧ ∀ m < 8, m ≠ f.vd.toNat → l.vec.m[m]? = k.vec.m[m]?

/-! ### System instructions -/

namespace Sys2Proof.Claim

/-- An instruction of this size has completed in sequence with f done to its own core; nothing else has changed. -/
def did (s : State) (size : Nat) (f : Core → Core) : Out := .next (s.modSelf fun k => (f k).retire size)

/-- An instruction of this size has completed with the write of xd on its way in a reply slot; nothing else has changed
(R178). -/
def replied (s : State) (size : Nat) (xd : BitVec 6) (v : Word) : Out :=
  did s size fun k => { k with replies := k.replies ++ [⟨[(xd, v)]⟩] }

/-- A reply slot can be reserved for xd (R178). -/
def slotFree (s : State) (xd : BitVec 6) : Prop := s.self.replies.length < 16 ∧ s.self.empty xd = false

end Sys2Proof.Claim

/-- R360, R364: NOP and FETCHB, which records the current code generation; DCWB, whose stores have all been performed; ICINV,
which drops words from the instruction cache alone: every word of a range inside one page that translates. -/
def Sys2Proof.Claim.SimpleSystemForms : Prop := ∀ (f : SY) (s : State),
  let a := s.self.rd f.xa
  let len := f.uvalue.toNat
  let n := extSize f.ext
  exec (.nop f) s = did s 8 id ∧
  exec (.fetchb f) s = did s 8 (fun k => { k with tk := { k.tk with gen := s.gcur } }) ∧
  (ready s [f.xa] → exec (.dcwb f) s = did s n id ∧
    ∃ ic, ic.Sublist s.self.cache.icache ∧
      exec (.icinv f) s = did s n (fun k => { k with cache := { k.cache with icache := ic } }) ∧
      (len = 0 → ic = s.self.cache.icache) ∧
      ∀ pa, s.pageOf a = some pa → 0 < len → a.toNat % 4096 + len ≤ 4096 →
        ic = s.self.cache.icache.filter fun e => !(pa / 8 ≤ e.1 && e.1 ≤ (pa + len - 1) / 8))

/-- R194, R353, R359, R360: TRAP, BKPT and UDF enter the handler: SYSCALL and BREAK resume after the instruction, ILLEGAL_OP
at it. -/
def Sys2Proof.Claim.SoftwareTraps : Prop := ∀ (f : SY) (b : BitVec 56) (s : State), s.self.tf = false →
  exec (.trap f) s = trapped s 0x12 f.value (s.self.pc + toWord (extSize f.ext)) ∧
  exec (.bkpt f) s = trapped s 0x13 (Instr.word (.bkpt f)) (s.self.pc + 8) ∧
  exec (.udf b) s = trapped s 0x01 (Instr.word (.udf b)) s.self.pc

/-- R353, R359, R360, R364: the simple system forms and the software traps. -/
def Obligations.SystemForms : Prop := Sys2Proof.Claim.SimpleSystemForms ∧ Sys2Proof.Claim.SoftwareTraps


/-- R352: what a trap entry writes, and that it keeps every other register; the trap of a thread is this entry while no frame
is live. -/
def Sys2Proof.Claim.TrapEntry : Prop := ∀ (s : State) (async : Bool) (cause : Nat) (tval epc : Word), cause < 2 ^ 63 →
  let k := s.self
  let t := k.enterTrap async cause tval epc
  (k.tf = false → takeTrap async cause tval epc s = .ok () (s.modSelf fun k => k.enterTrap async cause tval epc)) ∧
  (∀ b < 64, t.tstatus.getLsbD b =
    if b = 8 then true else if b = 11 then k.priv == .super else if b = 12 then false else k.tstatus.getLsbD b) ∧
  t.priv = .super ∧ (t.csrAt 0x100).toNat = (if async then 2 ^ 63 else 0) + cause ∧ t.csrAt 0x101 = tval ∧
  t.csrAt 0x102 = addrField epc ∧
  t.frame.toList = [k.csrAt 0x030, k.csrAt 0x031, k.csrAt 0x032, k.csrAt 0x033, k.csrAt 0x034, k.csrAt 0x035,
    k.csrAt 0x003] ∧
  t.csrAt 0x030 = 0 ∧ t.csrAt 0x033 = 0 ∧ t.csrAt 0x003 = 0 ∧ t.pc = canon56 (k.csrAt 0x104) ∧
  (∀ n, n ∉ [0x003, 0x030, 0x033, 0x100, 0x101, 0x102, 0x103] → t.csrAt n = k.csrAt n) ∧
  t = { k with csr := t.csr, frame := t.frame, priv := t.priv, pc := t.pc, wait := .none }

/-- R355, R414: a trap of any cause while TF = 1 is not taken at SUPER: the task of the thread ends abnormally with DOUBLE, after
an error-log record, whose severity 2, UNIT = cause, ADDR = EPC and DETAIL = TVAL are the model's choice (log 12). -/
def Sys2Proof.Claim.DoubleTrap : Prop := ∀ (s : State) (async : Bool) (cause : Nat) (tval epc : Word) (t : Nat),
  s.self.tf = true → s.self.tk.task = some t →
  takeTrap async cause tval epc s = abnormalEnd t true endDOUBLE (s.elogCore s.cur 10 2 cause (addrField epc) tval)

/-- R352, R355: a trap while no frame is live, and while one is. -/
def Obligations.TakingATrap : Prop := Sys2Proof.Claim.TrapEntry ∧ Sys2Proof.Claim.DoubleTrap


/-- R354: ERET traps PRIV at USER; at SUPER it restores the frame when it is live, the privilege, TF and the PC, resumes the
suspended copies and keeps everything else; at MACHINE it returns by the machine CSRs: to the address in MEPC (the model's
choice, log 23), at a level that is free (log 4). -/
def Obligations.ReturnFromTrap : Prop := ∀ (f : SY) (s : State),
  let k := s.self
  (k.priv = .user → k.tf = false → exec (.eret f) s = trapped s 3 (Instr.word (.eret f)) k.pc) ∧
  (k.priv = .super → ∃ t : Core, exec (.eret f) s = .next (s.modSelf fun _ => t) ∧
    t.pc = canon56 (k.csrAt 0x102) ∧ t.priv = (if bits k.tstatus 11 2 = 1 then .super else .user) ∧
    (∀ b < 64, t.tstatus.getLsbD b = (b != 8 && k.tstatus.getLsbD b)) ∧
    [t.csrAt 0x030, t.csrAt 0x031, t.csrAt 0x032, t.csrAt 0x033, t.csrAt 0x034, t.csrAt 0x035, t.csrAt 0x003] =
      (if k.tf then k.frame.toList else [k.csrAt 0x030, k.csrAt 0x031, k.csrAt 0x032, k.csrAt 0x033, k.csrAt 0x034,
        k.csrAt 0x035, k.csrAt 0x003]) ∧
    (∀ n, n ∉ [0x003, 0x030, 0x031, 0x032, 0x033, 0x034, 0x035, 0x051, 0x103] → t.csrAt n = k.csrAt n) ∧
    (∀ o ∈ t.eng.copies, o.phase ≠ .suspended) ∧
    (∀ o ∈ k.eng.copies, (∀ p ∈ k.eng.copies, p.phase = .suspended → p.h ≠ o.h) → o ∈ t.eng.copies) ∧
    t = { k with csr := t.csr, pc := t.pc, priv := t.priv, wait := t.wait, tiles := t.tiles, eng := t.eng }) ∧
  (k.priv = .machine → exec (.eret f) s = .next (s.modSelf fun k =>
    k.machineReturn.jump (canon56 (addrField (k.csrAt 0x201)))))

/-- R362, R197, R198: the CSR forms return the old value and leave v, old or v, old and not v, in the fields that can be
written, at a privilege that reaches the CSR; else they trap PRIV. A CSR that is not writable at this privilege stays. While TF = 1
at SUPER the numbers of VSTART and of the loop registers name the frame copies (R353). A write of 0 to FSP4.FROZEN discards the
frozen FOP (R322), one of TDTROOT the cached descriptors of the context (R101); FFLAGS waits for matrix operations (R292). -/
def Obligations.CsrForms : Prop := ∀ (csr : BitVec 12) (f : SY) (s : State), ready s [f.xa, f.xd] →
  let n := csr.toNat
  let k := s.self
  let v := k.rd f.xa + f.value
  let size := extSize f.ext
  let level := if n < 0x100 then 0 else if n < 0x200 then 1 else 2
  let has := match k.priv with
    | .user => 0 | .super => 1 | .machine => 2
  let live := frameIndex n = none ∨ k.tf = false ∨ k.priv ≠ .super
  let descriptors := s.ms.desc.filter fun e => !(e.cluster == clusterOf s.cur && e.tenant == k.tk.tenant && e.asid == k.asid)
  let ends := fun i (new : Word → Word) =>
    let written := fun (k : Core) => k.setCsr n (csrStore n (k.csrAt n) (new (k.csrAt n)))
    (has < level → k.tf = false → exec i s = trapped s 3 (Instr.word i) k.pc) ∧
    (level ≤ has → n ∉ [0x024, 0x050, 0x063, 0x122] → live → (n = 0x008 → k.eng.mats = []) → exec i s = did s size fun k =>
      (if csrWritable n k.priv then written k else k).wr f.xd (k.csrAt n)) ∧
    (∀ j, frameIndex n = some j → k.tf = true → k.priv = .super → exec i s = did s size fun k =>
      Core.wr { k with frame := k.frame.setIfInBounds j (csrStore n (k.csrAt n) (new ((k.frame[j]?).getD 0))) } f.xd
        ((k.frame[j]?).getD 0)) ∧
    (n = 0x008 → k.eng.mats ≠ [] → exec i s = .next (s.modSelf fun k => { k with wait := .resource })) ∧
    (n = 0x024 → exec i s = did s size fun k =>
      (if k.priv = .user ∨ (new (k.csrAt n)).getLsbD 63 = true then k
        else { k.setCsr n (setBits (k.csrAt n) 63 1 0) with fab := { k.fab with grid := k.fab.grid.filter fun g => !g.frozen } }).wr
        f.xd (k.csrAt n)) ∧
    (n = 0x050 → ∃ t old, exec i s = .next t ∧ t.self = (k.wr f.xd old).retire size) ∧
    (n = 0x063 → exec i s = did s size fun k => k.wr f.xd (s.cur.setWidth 64)) ∧
    (level ≤ has → n = 0x122 →
      exec i s = did { s with ms := { s.ms with desc := descriptors } } size fun k => (written k).wr f.xd (k.csrAt n))
  ends (.csrwr csr f) (fun _ => v) ∧
  ends (.csrset csr f) (fun old => old ||| v) ∧
  ends (.csrclr csr f) (fun old => old &&& ~~~v) ∧
  (has < level → k.tf = false → exec (.csrrd csr f) s = trapped s 3 (Instr.word (.csrrd csr f)) k.pc) ∧
  (level ≤ has → n ∉ [0x050, 0x063] → live → (n = 0x008 → k.eng.mats = []) →
    exec (.csrrd csr f) s = did s size fun k => k.wr f.xd (k.csrAt n)) ∧
  (∀ j, frameIndex n = some j → k.tf = true → k.priv = .super →
    exec (.csrrd csr f) s = did s size fun k => k.wr f.xd ((k.frame[j]?).getD 0)) ∧
  (n = 0x063 → exec (.csrrd csr f) s = did s size fun k => k.wr f.xd (s.cur.setWidth 64)) ∧
  (n = 0x050 → ∃ t old, exec (.csrrd csr f) s = .next t ∧ t.self = (k.wr f.xd old).retire size)

/-- R365: KEYSEL traps PRIV at USER; at SUPER a binding is refused in the order BAD, NOTRUN, NOKEY, else made; an unbinding
asks only for RUN; a query returns the next number of the bound key, or all ones. The order of the refusals is the model's
choice (log 23). -/
def Sys2Proof.Claim.KeySelection : Prop := ∀ (f : SY) (s : State),
  let k := s.self
  let a := k.rd f.xa
  let slot := f.uvalue.extractLsb' 0 6
  let size := extSize f.ext
  let run := s.inRun k.func
  let key := s.keyOf k.func (a.extractLsb' 0 16)
  let others := s.sec.slots.filter fun e => !(e.func == k.func && e.slot == slot)
  (k.priv = .user → k.tf = false →
    exec (.keyselBind f) s = trapped s 3 (Instr.word (.keyselBind f)) k.pc ∧
    exec (.keyselUnbind f) s = trapped s 3 (Instr.word (.keyselUnbind f)) k.pc ∧
    exec (.keyselQry f) s = trapped s 3 (Instr.word (.keyselQry f)) k.pc) ∧
  (k.priv ≠ .user → ready s [f.xa] → slotFree s f.xd →
    (bits a 16 16 ≠ 0 → exec (.keyselBind f) s = replied s size f.xd 3) ∧
    (bits a 16 16 = 0 → run = false → exec (.keyselBind f) s = replied s size f.xd 2) ∧
    (bits a 16 16 = 0 → run = true → key = none → exec (.keyselBind f) s = replied s size f.xd 1) ∧
    (bits a 16 16 = 0 → run = true → key ≠ none → exec (.keyselBind f) s = replied
      { s with sec := { s.sec with slots := ⟨k.func, slot, a.extractLsb' 0 16, a.extractLsb' 32 32⟩ :: others } }
      size f.xd 0) ∧
    (run = false → exec (.keyselUnbind f) s = replied s size f.xd 2) ∧
    (run = true → exec (.keyselUnbind f) s = replied { s with sec := { s.sec with slots := others } } size f.xd 0) ∧
    exec (.keyselQry f) s = replied s size f.xd
      (match (s.keySlot k.func slot).bind fun e => s.keyOf k.func e.handle with
        | some q => q.next.getD (BitVec.allOnes 64)
        | none => BitVec.allOnes 64))

/-- R360, R361, R367, R383: YIELD stops a noticed member, has its task pre-empted where one of equal or higher priority waits, else
does nothing; DONE waits for the replies, commands, contributions and undelivered events of its thread, then closes its pots and joins and
leaves the member finished after the release of R164; the last one completes and ends the task. A nonzero immediate traps PRIV at
USER and at SUPER ends the task abnormally (R175). That DONE stops a member whose pre-emption is due is the model's choice
(log 47). -/
def Sys2Proof.Claim.YieldAndDone : Prop := ∀ (f : SY) (s : State) (t : Task),
  let k := s.self
  k.tk.task.bind s.task = some t →
  (k.priv = .super → k.tk.preempt = .noticed →
    exec (.yield f) s = did s 8 fun k => { k with tk := { k.tk with preempt := .stopping } }) ∧
  (k.priv ≠ .super ∨ k.tk.preempt ≠ .noticed →
    exec (.yield f) s = if s.undisturbed t ∧ s.wanted t then did (s.preempt t) 8 id else did s 8 id) ∧
  (f.value ≠ 0 → k.priv = .user → k.tf = false →
    exec (.done f) s = trapped s 3 (Instr.word (.done f)) k.pc) ∧
  (f.value = 0 → (∀ o ∈ k.eng.copies, o.phase ≠ .suspended) →
    let busy := k.replies ≠ [] ∨ k.eng.handles.toList.any (·.st == .busy) = true ∨ s.sending s.cur = true ∨
      k.eng.events ≠ [] ∧ k.tf = false
    (busy → exec (.done f) s = .next (s.modSelf fun k => { k with wait := .resource })) ∧
    ∀ i, k.tk.task = some i →
    let last := ((s.closePots i s.cur).closeJoins i s.cur).release.modSelf fun k =>
      { k with wait := .none
               tk := { k.tk with
                finished := true, gen := s.gcur
                preempt := if k.tk.preempt = .due ∨ k.tk.preempt = .noticed then .stopping else k.tk.preempt } }
    (¬busy → (∃ d ∈ t.cores, d ≠ s.cur ∧ (s.core d).tk.finished = false) → exec (.done f) s = .next last) ∧
    (¬busy → (∀ d ∈ t.cores, d = s.cur ∨ (s.core d).tk.finished = true) → s.savedOf i = [] → t.id = i →
      ∀ u, complete t false 0 true last = .ok () u → exec (.done f) s = .next (u.retireTask t))) ∧
  (f.value ≠ 0 → k.priv ≠ .user → k.tk.task = some t.id → t.st = .running → t.cores = [s.cur] → k.eng.copies = [] →
    s.savedOf t.id = [] →
    let stopped := ((s.modSelf fun k => { k with tk := { k.tk with gen := s.gcur } }.abandon).closePots t.id s.cur).closeJoins
      t.id s.cur
    ∀ u, complete t false f.value.toNat false stopped = .ok () u →
      exec (.done f) s = .next ((u.retireTask t).escalate t t.dealt))

/-! ### Configuration -/

/-- R227, R228, R229, R282, R79, R87: the configuration instructions: the shape granted, whole columns first and rows by what
is left; VCFG's fields; the bytes of a spill frame; the tile shape granted within VCAP.BITS. -/
def Obligations.Configuration : Prop := ∀ (f : SA) (g : SI) (s : State),
  let k := s.self
  let a := (k.rd f.xa).toNat
  let b := (k.rd f.xb).toNat
  let c := (k.rd f.xc).toNat
  let w := match k.ew with
    | 0 => 4 | 1 => 8 | 2 => 16 | 4 => 64 | _ => 32
  let live := bits (k.csrAt 0x004) 32 8
  let cap := bits (k.csrAt 0x004) 0 32
  let cols := if a = 0 ∨ b = 0 then 0 else min b (live * 8192 / w)
  let rows := if a = 0 ∨ b = 0 then 0 else min (min a 64) (live * 8192 / w / cols)
  (ready s [f.xa, f.xb, f.xd] → k.ew ≤ 5 → exec (.setshape f) s = did s 8 fun k =>
    (((k.setCsr 0x001 (toWord rows)).setCsr 0x002 (toWord cols)).setCsr 0x003 0).wr f.xd (toWord (rows * cols))) ∧
  (ready s [f.xa, f.xb, f.xd] → 5 < k.ew → k.tf = false →
    exec (.setshape f) s = trapped s 2 (Instr.word (.setshape f)) k.pc) ∧
  (ready s [f.xd] → k.ew ≤ 5 → exec (.vqlen f) s = did s 8 fun k => k.wr f.xd
    (toWord (8 + 8 * ((k.vrows * k.vcols * (if k.ew = 5 then 96 else w) + 63) / 64)))) ∧
  (5 < k.ew → k.tf = false → exec (.vqlen f) s = trapped s 2 (Instr.word (.vqlen f)) k.pc) ∧
  (ready s [f.xa, f.xb, f.xc] →
    let n := min b 128
    let zero := min a 64 = 0 ∨ n = 0 ∨ min c 4096 = 0
    let tm := toWord (if zero then 0 else min (min a 64) (cap / 32 / n))
    let tn := toWord (if zero then 0 else n)
    let tk := toWord (if zero then 0 else min c 4096)
    exec (.settile f) s = did s 8 fun k =>
      ((((((k.setCsr 0x010 tm).setCsr 0x011 tn).setCsr 0x012 tk).wr f.xa tm).wr f.xb tn).wr f.xc tk)) ∧
  (ready s [g.xa, g.xd] →
    let v := k.rd g.xa + g.value
    let old := k.csrAt 0x000
    let sets := fun i (mask : Word) (sh : Nat) => exec i s = did s (extSize g.ext) fun k =>
      (k.setCsr 0x000 (((old &&& ~~~(mask <<< sh)) ||| ((v &&& mask) <<< sh)) &&& 0x37FF)).wr g.xd old
    sets (.setcfg g) 0xFFFF_FFFF_FFFF_FFFF 0 ∧ sets (.setcfgEw g) 7 0 ∧ sets (.setcfgScope g) 7 3 ∧
    sets (.setcfgSpace g) 3 6 ∧ sets (.setcfgRm g) 3 8)

/-! ### Scalar memory instructions -/

namespace Sys2Proof.Claim

/-- The access q of an agent at address a is translated without a fault by an entry that its core's L1 TLB holds, to an address
of ordinary local device memory: no host page, tensor page or register block (R29, R30, R34). -/
def mappedFor (s : State) (c : Ctx) (a : Word) (q : Ask) (e : TlbEntry) : Prop :=
  let pa := s.leafAddr e.pte e.level a
  canonical a = true ∧ (s.core c.core).cache.tlb.find? (·.serves c a q.kind) = some e ∧
  s.leafWindow c e.pte (leafRaw e.pte e.level a) q = true ∧
  permitted c e.pte q.kind = true ∧ formatOk e.pte pa q = true ∧ pteHost e.pte = false ∧ pteTb e.pte = false ∧
  mmioOf pa = none ∧ pa < 2 ^ 42 ∧ q.rewalk = false

/-- The same of the thread. -/
def mapped (s : State) (a : Word) (q : Ask) (e : TlbEntry) : Prop := mappedFor s (s.ctxOf s.cur) a q e

/-- An access whose home is memory itself: its page is not cached, or its bank belongs to a gated cluster (R99, R118). -/
def uncached (s : State) (e : TlbEntry) (pa : Nat) : Bool := pteNc e.pte || s.ms.isGated (homeBank pa (pteHl e.pte))

/-- The key of the line that a cached access of a tenant uses (R99). -/
def keyFor (t : BitVec 6) (e : TlbEntry) (pa : Nat) : LineKey := .addr (if pteTen e.pte then some t else none) (lineOf pa)

/-- The key of the line that a cached access uses (R99). -/
def lineKey (s : State) (e : TlbEntry) (pa : Nat) : LineKey := keyFor s.self.tk.tenant e pa

/-- Memory at rest around n bytes: no scatter-add under way, no line of them at any home but the allowed one, none held by the
host. -/
def atRest (s : State) (pa n : Nat) (allowed : Option LineKey) : Prop :=
  s.ms.chains = [] ∧ (∀ l ∈ s.ms.hdm, l < lineOf pa ∨ lineOf (pa + n - 1) < l) ∧
  ∀ h ∈ s.ms.homes, ∀ t l, h.key = .addr t l → lineOf pa ≤ l → l ≤ lineOf (pa + n - 1) → some h.key = allowed

/-- The set of the line that a cached access uses has a data entry that no line takes, so nothing gives way (R109, R110). -/
def roomy (s : State) (e : TlbEntry) (pa : Nat) : Prop :=
  let bank := homeBank pa (pteHl e.pte)
  ∃ n < setEntries, ∀ x ∈ s.ms.inSet bank (lineSet (lineKey s e pa) bank), x.1 ≠ n

/-- A form of this ordering kind that releases has no contribution of its thread to wait for (R156). -/
def released (s : State) (ord : Nat) : Prop := 2 ≤ ord → s.sending s.cur = false

/-- The byte that memory holds at an address: of the line at its home when there is one, of memory otherwise (R156). -/
def byteAt (s : State) (b : Nat) : Nat := (s.ms.homeRead b 1).2.1

/-- The number that the n bytes at an address make up, the lowest first. -/
def bytesAt (s : State) (a n : Nat) : Nat := (List.range n).foldr (fun j v => byteAt s (a + j) + 256 * v) 0

/-- An access of a tenant to n bytes finds them at rest where they are homed: in memory, or in a resident line that is alone in
its data entry (R99, R109). -/
def placedFor (s : State) (t : BitVec 6) (e : TlbEntry) (pa n : Nat) : Prop :=
  if uncached s e pa = true then atRest s pa n none
  else atRest s pa n (some (keyFor t e pa)) ∧ ∃ h, s.ms.home (keyFor t e pa) = some h ∧ s.ms.paired h = false

/-- The same of the thread, and no poison in the line. -/
def homed (s : State) (e : TlbEntry) (pa n : Nat) : Prop :=
  placedFor s s.self.tk.tenant e pa n ∧ ∀ h, s.ms.home (lineKey s e pa) = some h → h.poison = 0

/-- n bytes from pa have become those of v; every other byte of device memory reads as before. -/
def stores (s t : State) (pa n v : Nat) : Prop :=
  (∀ j < n, byteAt t (pa + j) = fld v (8 * j) 8) ∧ ∀ b < 2 ^ 42, b < pa ∨ pa + n ≤ b → byteAt t b = byteAt s b

/-- An instruction of this size has done f to its core and completed; beside it only caches and the memory system differ, and
of memory nothing outside the device. -/
def onlyMemory (s t : State) (size : Nat) (f : Core → Core) : Prop :=
  t.self = { (f s.self).retire size with cache := t.self.cache } ∧
  (∀ c, c ≠ s.cur → t.core c = { s.core c with cache := (t.core c).cache }) ∧
  t = { s with cores := t.cores, ms := t.ms } ∧ t.ms.host = s.ms.host ∧ t.ms.remote = s.ms.remote

/-- The write of a reply on its way (R178). -/
def replying (xd : BitVec 6) (v : Word) (k : Core) : Core := { k with replies := k.replies ++ [⟨[(xd, v)]⟩] }

end Sys2Proof.Claim

/-- R254, R255: LD of an aligned address returns the bytes at it, zero-extended, or sign-extended for BS, HS and WS: those of
the L1 line that holds them, else those of memory, poisoned bytes apart; no byte of memory changes. An address that is not
aligned traps MISALIGN with it. -/
def Sys2Proof.Claim.ScalarLoads : Prop := ∀ (f : SM) (s : State) (e : TlbEntry), ready s [f.xa] → slotFree s f.xd →
  let a := s.self.rd f.xa + f.value
  let n := 2 ^ (f.size.toNat % 4)
  let pa := s.leafAddr e.pte e.level a
  let key := lineKey s e pa
  let extended := fun v : Nat => if 4 ≤ f.size.toNat then BitVec.ofInt 64 (signed (8 * n) v) else toWord v
  f.size.toNat < 7 →
  (a.toNat % n ≠ 0 → s.self.tf = false → exec (.ld f) s = trapped s 4 a s.self.pc) ∧
  (a.toNat % n = 0 → mapped s a { kind := 0, n := n } e → rawReadOk n e.pte pa = true →
    (uncached s e pa = false → f.ord = 0 → ∀ l, s.self.l1Line key = some l →
      exec (.ld f) s = replied s (extSize f.ext) f.xd (extended (lineRead l.data (pa % 256) n))) ∧
    (atRest s pa n (if uncached s e pa then none else some key) → s.self.l1Line key = none →
      released s f.ord.toNat → (uncached s e pa = false → roomy s e pa) →
      s.ms.poison = [] → (∀ h ∈ s.ms.homes, h.poison = 0) →
      ∃ t, exec (.ld f) s = .next t ∧ (∀ b < 2 ^ 42, byteAt t b = byteAt s b) ∧
        onlyMemory s t (extSize f.ext) (replying f.xd (extended (bytesAt s pa n)))))

/-- R254, R255: ST of an aligned address writes the low bytes of xs there and changes no other byte; the store fires the
monitors of its word (R135), and squashes the run-ahead loads that read one of its bytes, which DRPL counts (R143, R144). An
address that is not aligned traps MISALIGN with it. -/
def Sys2Proof.Claim.ScalarStores : Prop := ∀ (f : SM) (s : State) (e : TlbEntry), ready s [f.xa, f.xd] →
  let a := s.self.rd f.xa + f.value
  let n := 2 ^ f.size.toNat
  let pa := s.leafAddr e.pte e.level a
  f.size.toNat < 4 →
  (a.toNat % n ≠ 0 → s.self.tf = false → exec (.st f) s = trapped s 4 a s.self.pc) ∧
  (a.toNat % n = 0 → mapped s a { kind := 1, n := n } e →
    atRest s pa n (if uncached s e pa then none else some (lineKey s e pa)) → released s f.ord.toNat →
    (uncached s e pa = false → roomy s e pa) →
    ∃ t, exec (.st f) s = .next t ∧ stores s t pa n ((s.self.rd f.xd).toNat % 2 ^ (8 * n)) ∧
      onlyMemory s t (extSize f.ext) (·.squash (.mem, pa) n) ∧ (∀ m ∈ t.ms.monitors, m.word = pa / 8 → m.fired = true)) ∧
  ∀ (k : Core) (x : Store × Nat),
    let meets := fun (l : Ahead) => l.bytes.any fun b => b.1 == x.1 && b.2.1 < x.2 + n && x.2 < b.2.1 + b.2.2
    let m := k.cache.ahead.countP meets
    (k.squash x n).cache.ahead = k.cache.ahead.filter (fun l => !meets l) ∧ (m = 0 → k.squash x n = k) ∧
    (m ≠ 0 → (k.squash x n).csrAt 0x041 = toWord (((k.csrAt 0x041).toNat + m) % 2 ^ 32)) ∧
    ∀ c, c ≠ 0x041 → (k.squash x n).csrAt c = k.csrAt c

/-- R254, R255: scalar loads and stores. -/
def Obligations.ScalarMemory : Prop := Sys2Proof.Claim.ScalarLoads ∧ Sys2Proof.Claim.ScalarStores


namespace Sys2Proof.Claim

/-- What an AMO of width w writes, from the old value and the operand (R256). -/
def amoValue (op w m v : Nat) : Option Nat :=
  match op with
  | 0 => some ((m + v) % 2 ^ w)
  | 1 => some (m &&& v)
  | 2 => some (m ||| v)
  | 3 => some (m ^^^ v)
  | 4 => some (if signed w m < signed w v then m else v)
  | 5 => some (if signed w m < signed w v then v else m)
  | 6 => some (min m v)
  | 7 => some (max m v)
  | 8 => some v
  | _ => if m < v then some (m + 1) else none

/-- An atomic has replied with the old value and written the new one, or nothing where there is none. -/
def exchanged (s : State) (i : Instr) (size : Nat) (xd : BitVec 6) (pa n : Nat) (new : Nat → Option Nat) : Prop :=
  let old := s.ms.mem.read pa n
  ∃ t, exec i s = .next t ∧ stores s t pa n ((new old).getD old) ∧
    onlyMemory s t size (replying xd (toWord old))

end Sys2Proof.Claim

/-- R254 to R256: the atomics and CAS act once at the memory of their aligned word and return its old value; one that is not
aligned traps MISALIGN. -/
def Sys2Proof.Claim.ScalarAtomics : Prop := ∀ (f : SM) (s : State) (e : TlbEntry),
  ready s [f.xa, f.xb] → slotFree s f.xd → f.size = 2 ∨ f.size = 3 →
  let n := 2 ^ f.size.toNat
  let w := 8 * n
  let v := (s.self.rd f.xb).toNat % 2 ^ w
  let there := fun (a : Word) => a.toNat % n = 0 ∧ mapped s a { kind := 3, n := n, msu := true } e ∧
    atRest s (s.leafAddr e.pte e.level a) n none ∧ s.ms.poison = [] ∧
    released s f.ord.toNat
  let a := s.self.rd f.xa
  let b := s.self.rd f.xa + f.value
  let pa := s.leafAddr e.pte e.level a
  let amo := fun i op => exchanged s i 8 f.xd pa n fun m => amoValue op w m v
  (a.toNat % n ≠ 0 → s.self.tf = false → ∀ i ∈ [Instr.amoAdd f, .amoAnd f, .amoOr f, .amoXor f, .amoMin f, .amoMax f, .amoMinu f,
    .amoMaxu f, .amoSwap f, .amoIncb f], exec i s = trapped s 4 a s.self.pc) ∧
  (there a → amo (.amoAdd f) 0 ∧ amo (.amoAnd f) 1 ∧ amo (.amoOr f) 2 ∧ amo (.amoXor f) 3 ∧ amo (.amoMin f) 4 ∧
    amo (.amoMax f) 5 ∧ amo (.amoMinu f) 6 ∧ amo (.amoMaxu f) 7 ∧ amo (.amoSwap f) 8 ∧ amo (.amoIncb f) 9) ∧
  (b.toNat % n ≠ 0 → s.self.tf = false → exec (.cas f) s = trapped s 4 b s.self.pc) ∧
  (there b → exchanged s (.cas f) (extSize f.ext) f.xd (s.leafAddr e.pte e.level b) n fun m =>
    if m = (s.self.rd f.xd).toNat % 2 ^ w then some v else none)

/-- R147, R154, R156, R114, R115: a fence that releases waits for the contributions of its thread and has performed every
addend under way; one that acquires clears the own L1 data cache from scope CLUSTER on, and from scope BLOCK on raises the
epochs under which lines from replicas serve. -/
def Sys2Proof.Claim.Fences : Prop := ∀ (f : SM) (s : State),
  let acquired := fun (s t : State) => t.self.x = s.self.x ∧ t.self.pc = (s.self.retire 8).pc ∧
    (f.scope.toNat ≠ 0 → t.self.cache.l1d = []) ∧
    (2 ≤ f.scope.toNat → s.ms.repoch[(clusterOf s.cur).toNat] < 0xFFFF →
      t.self.cache.floors[0] = s.ms.repoch[(clusterOf s.cur).toNat] + 1)
  let waits := fun i => exec i s = .next (s.modSelf fun k => { k with wait := .resource })
  (∃ t, exec (.fenceAcq f) s = .next t ∧ acquired s t ∧ t.ms.mem = s.ms.mem ∧ t.ms.chains = s.ms.chains) ∧
  (s.sending s.cur = true → waits (.fenceRel f) ∧ waits (.fenceFull f)) ∧
  (s.sending s.cur = false → exec (.fenceRel f) s = .next (s.release.modSelf (·.retire 8)) ∧
    ∃ t, exec (.fenceFull f) s = .next t ∧ acquired s.release t ∧ t.ms.mem = s.release.ms.mem ∧ t.ms.chains = []) ∧
  s.release.ms.chains = [] ∧ (∀ d, s.ms.chains = [⟨d.pa / 8, [d]⟩] → s.release.ms.mem = (s.ms.addendDone d).mem)

/-- R254 to R256, R147, R154: scalar atomics and fences. -/
def Obligations.AtomicsAndFences : Prop := Sys2Proof.Claim.ScalarAtomics ∧ Sys2Proof.Claim.Fences


/-! ### The end of a task -/

/-- R170, R174, R383: a task that ends leaves its cores free. Its completion word is written at the MSU before its signal counters
are decremented, its message comes last; a word or a counter that does not translate is logged with class 17, a counter at zero
with class 9. -/
def Sys2Proof.Claim.TaskCompletion : Prop := ∀ (t : Task) (s : State),
  let ask : Ask := { kind := 3, n := 8, msu := true, rewalk := true }
  let at_ := fun (a : Word) (h : Hit) (u : State) => quiet (resolveGlobal (s.dealerCtx t.tenant) a ask anyFormat) s = .ok h u ∧
    pteTb h.pte = false ∧ h.ga < 2 ^ 42 ∧ atRest u h.ga 8 none ∧ u.ms.poison = []
  let unplaced := fun (a : Word) (u : State) => ∃ cause v,
    quiet (resolveGlobal (s.dealerCtx t.tenant) a ask anyFormat) s = .error (.trap cause v) u
  (∀ i, s.task t.id = some t → t.st = .running → (∀ d ∈ t.cores, (s.core d).tk.task = some i) → t.id = i →
    let r := s.retireTask t
    r.task i = some { t with st := .ended, cores := [], slots := [], hold := none, dealt := [] } ∧
    ∀ d ∈ t.cores, let l := r.core d
      l.tk.task = none ∧ l.replies = [] ∧ l.eng = Engines.reset ∧ l.x = (s.core d).x ∧ (∀ n < 256, (l.tile n).v = false) ∧
      ∀ n : Fin 32, l.vec.st[n] = .full) ∧
  (∀ (hw signals : Bool) (status : Nat), t.nsig = 0 ∨ signals = false → t.msix = false →
    (t.compl = 0 → complete t hw status signals s = .ok () s) ∧
    (t.compl ≠ 0 → ∀ h u, at_ (canon56 t.compl) h u → ∃ r, complete t hw status signals s = .ok () r ∧
      stores u r h.ga 8 (2 ^ 63 + (if hw then 2 ^ 48 else 0) + status % 2 ^ 16 * 2 ^ 32 + t.seq % 2 ^ 32)) ∧
    (t.compl ≠ 0 → ∀ u, unplaced (canon56 t.compl) u →
      complete t hw status signals s = .ok () (u.elog t.func 17 1 0xFF 0 t.compl 0))) ∧
  (∀ hw status u, t.compl = 0 → (List.range t.nsig).forM (signal t) s = .ok () u →
    complete t hw status true s = .ok () (if t.msix then u.raise t.func t.msixv else u)) ∧
  ∀ k, (∀ h u, at_ (t.signalAt k) h u → let old := u.ms.mem.read h.ga 8
      (old ≠ 0 → ∃ r, signal t k s = .ok () r ∧ stores u r h.ga 8 (old - 1)) ∧
      (old = 0 → ∃ r : State, signal t k s = .ok () (r.elog t.func 9 1 0xFF 0 (t.signalAt k) 0) ∧ r.ms.mem = u.ms.mem)) ∧
    ∀ u, unplaced (t.signalAt k) u → signal t k s = .ok () (u.elog t.func 17 1 0xFF 0 (t.signalAt k) 0)

/-- R360, R361, R365, R367, R383: key slots, YIELD, DONE and the end of a task. -/
def Obligations.KeysYieldAndDone : Prop := Sys2Proof.Claim.KeySelection ∧ Sys2Proof.Claim.YieldAndDone ∧ Sys2Proof.Claim.TaskCompletion


/-! ### Whole-register vector instructions and mask instructions -/

namespace Sys2Proof.Claim

/-- No CSR differs but the listed ones, the loop counts and INSTRET. -/
def onlyCsrs (k l : Core) (ns : List Nat) : Prop :=
  ∀ n, n ∉ ns → n ∉ [0x030, 0x033, 0x051] → l.csrAt n = k.csrAt n

/-- A binary tree over the 2^h values from a position: neighbours combined, level by level (R242). -/
def tree (op : Nat → Nat → Nat × Flags) : Nat → (Nat → Nat) → Nat × Flags
  | 0, x => (x 0, 0)
  | h + 1, x =>
    let l := tree op h x
    let r := tree op h fun j => x (j + 2 ^ h)
    let v := op l.1 r.1
    (v.1, l.2 ||| r.2 ||| v.2)

/-- Position j after a number of rounds of the doubling scan, round d combining at distance 2^d (R243). -/
def scan (op : Nat → Nat → Nat × Flags) (x : Nat → Nat) : Nat → Nat → Nat × Flags
  | 0, j => (x j, 0)
  | d + 1, j =>
    let y := scan op x d j
    if 2 ^ d ≤ j then
      let v := op (scan op x d (j - 2 ^ d)).1 y.1
      (v.1, y.2 ||| v.2)
    else y

/-- The elements of a masked source from a position on: the identity for an inactive one and beyond the end (R241). -/
def entering (k : Core) (op : RedOp) (t : ET) (va : BitVec 7) (msk : BitVec 3) (first len j : Nat) : Nat :=
  if j < len ∧ k.vec.maskBit msk.toNat (first + j) then source k va (ETwidth t) (first + j) else redIdentity op t

/-- A whole-register form may run: it issues, VSTART is 0 and the shape holds elements (R233). -/
def wholes (s : State) (ew : Nat) (codes : List (BitVec 7)) : Prop :=
  issues s ew codes ∧ s.self.vstart = 0 ∧ s.self.vrows * s.self.vcols ≠ 0

/-- R233: a whole-register form has run: each element of the shape has its new value, or keeps the old one where there is
none; FFLAGS gains these flags; beside the register and the named CSRs nothing changes. -/
def rewrites (s : State) (i : Instr) (vd : BitVec 7) (w : Nat) (csrs : List Nat) (fl : Flags) (new : Nat → Option Nat) :
    Prop :=
  let k := s.self
  vd.getLsbD 6 = false →
  ∃ t, exec i s = .next t ∧ onlyVector s t ∧ onlyCsrs k t.self csrs ∧ onlyRegister k t.self vd.toNat ∧
    t.self.fflags = k.fflags ||| fl.setWidth 64 ∧ t.self.pc = (k.retire 8).pc ∧
    ∀ j < k.vrows * k.vcols, elem t.self vd.toNat w j = match new j with
      | some v => v % 2 ^ w
      | none => elem k vd.toNat w j

end Sys2Proof.Claim

/-- R233, R241, R242, R243: VRED leaves the tree of the active elements in element 0 or in a scalar register, VREDX one for
each row, VSCAN the doubling scan of each row, canonical where it is a NaN: a result no active element holds is not written and
does not trap, but its flags are raised (the model's reading, log 30); a form with VSTART ≠ 0 traps SHAPE. -/
def Sys2Proof.Claim.Reductions : Prop := ∀ (op : RedOp) (f : VA) (s : State) (h : Nat),
  let k := s.self
  let w := ETwidth f.et
  let n := k.vrows * k.vcols
  let red := redOp op f.et
  let all := tree red h (entering k op f.et f.va f.msk 0 n)
  let row := fun r => tree red h (entering k op f.et f.va f.msk (r * k.vcols) k.vcols)
  let pre := fun j => scan red (entering k op f.et f.va f.msk (j / k.vcols * k.vcols) k.vcols) h (j % k.vcols)
  let fits := fun len => len ≤ 2 ^ h ∧ (h = 0 ∨ 2 ^ (h - 1) < len)
  let csrs := if ETflt f.et then [0x008, 0x00A, 0x00B] else [0x008]
  ETint f.et = true ∨ ETflt f.et = true → f.mz = 0 →
  (wholes s (ETew f.et) [f.vd, f.va] → fits n → k.trapping all.2 = false →
    rewrites s (.vred op f) f.vd w csrs all.2 fun j => if j = 0 then some (canonElem f.et all.1) else none) ∧
  (wholes s (ETew f.et) [f.va] → fits n → f.vd.getLsbD 6 = true → slotFree s (scalarOf f.vd) →
    k.trapping all.2 = false → ∃ t, exec (.vred op f) s = .next t ∧ onlyCsrs k t.self csrs ∧ t.self.vec = k.vec ∧
      t.self.fflags = k.fflags ||| all.2.setWidth 64 ∧
      t.self.replies = k.replies ++ [⟨[(scalarOf f.vd, extendElem f.et (canonElem f.et all.1))]⟩]) ∧
  (wholes s (ETew f.et) [f.vd, f.va] → fits k.vcols → (∀ r < k.vrows, k.trapping (row r).2 = false) →
    rewrites s (.vredx op f) f.vd w csrs ((List.range k.vrows).foldl (fun g r => g ||| (row r).2) 0) fun j =>
      if j < k.vrows then some (canonElem f.et (row j).1) else none) ∧
  (wholes s (ETew f.et) [f.vd, f.va] → fits k.vcols → (∀ j < n, k.vec.maskBit f.msk.toNat j = true → k.trapping (pre j).2 = false) →
    rewrites s (.vscan op f) f.vd w csrs ((List.range n).foldl (fun g j => g ||| (pre j).2) 0) fun j =>
      if k.vec.maskBit f.msk.toNat j then some (canonElem f.et (pre j).1) else none) ∧
  (issues s (ETew f.et) [f.vd, f.va] → f.vd.getLsbD 6 = false → n ≠ 0 → k.vstart ≠ 0 → k.tf = false →
    exec (.vscan op f) s = trapped s 8 (toWord (2 ^ 62 + k.vstart)) k.pc)

/-- R244, R245, R246: the cross-lane forms: slides by a scalar, permutation and shuffle by an index vector, transposition, and
the push, whose highest source wins and which sets PUSHC on a conflict and PUSHR on an index outside the shape. -/
def Sys2Proof.Claim.CrossLane : Prop := ∀ (f : VA) (s : State),
  let k := s.self
  let w := ETwidth f.et
  let n := k.vrows * k.vcols
  let a := fun j => elemBits f.et (source k f.va w j)
  let b := fun j => source k f.vb w j
  let x := (k.rd (scalarOf f.vb)).toNat
  let active := fun j => k.vec.maskBit f.msk.toNat j
  let lanes := fun i (src : Nat → Option Nat) => rewrites s i f.vd w [] 0 fun j =>
    if active j then some ((src j).elim 0 a) else if f.mz = 1 then some 0 else none
  f.et ≠ .wac → wholes s (ETew f.et) [f.vd, f.va, f.vb] →
  (f.vb.getLsbD 6 = true →
    lanes (.vslideUp f) (fun j => if x ≤ j then some (j - x) else none) ∧
    lanes (.vslideDn f) (fun j => if j + x < n then some (j + x) else none)) ∧
  lanes (.vperm f) (fun j => if b j < n then some (b j) else none) ∧
  lanes (.vshuf f) (fun j => some (b j % n)) ∧
  (∀ new : Nat → Option Nat, (∀ i < n, new (i % k.vcols * k.vrows + i / k.vcols) =
    if active i then some (a i) else if f.mz = 1 then some 0 else none) → rewrites s (.vtrans f) f.vd w [] 0 new) ∧
  (∀ new : Nat → Option Nat, (∀ j < n, (∀ i < n, active i = true → b i = j → (∀ m < n, i < m → active m = true → b m ≠ j) →
      new j = some (a i)) ∧ ((∀ i < n, active i = true → b i ≠ j) → new j = none)) →
    rewrites s (.vpush f) f.vd w [0x00C] 0 new ∧
    (f.vd.getLsbD 6 = false → ∀ t, exec (.vpush f) s = .next t →
      ((t.self.csrAt 0x00C).getLsbD 0 = true ↔ (k.csrAt 0x00C).getLsbD 0 = true ∨
        ∃ i m, i < m ∧ m < n ∧ active i = true ∧ active m = true ∧ b i = b m ∧ b m < n) ∧
      ((t.self.csrAt 0x00C).getLsbD 1 = true ↔ (k.csrAt 0x00C).getLsbD 1 = true ∨
        ∃ i < n, active i = true ∧ n ≤ b i) ∧
      ∀ c, 2 ≤ c → (t.self.csrAt 0x00C).getLsbD c = (k.csrAt 0x00C).getLsbD c))

/-- R233, R241 to R246: reductions, scans and the cross-lane forms. -/
def Obligations.ReductionsAndCrossLane : Prop := Sys2Proof.Claim.Reductions ∧ Sys2Proof.Claim.CrossLane


/-- R247, R237: the mask forms write their operation bit by bit, as a comparison does; MPOPC counts and MFIRST finds the active
bits below the shape's end, whatever VSTART holds. -/
def Sys2Proof.Claim.MaskForms : Prop := ∀ (f : VA) (s : State),
  let k := s.self
  let n := k.vrows * k.vcols
  let a := fun j => k.vec.maskBit f.va.toNat j
  let b := fun j => k.vec.maskBit f.vb.toNat j
  let active := fun j => k.vec.maskBit f.msk.toNat j
  let found := (List.range n).filter fun j => active j && a j
  let bits := fun i (op : Bool → Bool → Bool) => 0 < f.vd.toNat → f.vd.toNat < 8 →
    ∃ t, exec i s = .next t ∧ onlyVector s t ∧ onlyCsrs k t.self [0x003] ∧ t.self.csrAt 0x003 = 0 ∧
      (∀ c, c < 42 → t.self.vec.bitsOf c = k.vec.bitsOf c) ∧ t.self.pc = (k.retire 8).pc ∧
      ∀ m j, m < 8 → m ≠ 0 → j < 65536 → t.self.vec.maskBit m j =
        if m ≠ f.vd.toNat then k.vec.maskBit m j
        else if n ≤ j then !k.tailz && k.vec.maskBit m j
        else if k.vstart ≤ j ∧ active j then op (a j) (b j)
        else if f.mz = 1 ∧ k.vstart ≤ j then false else k.vec.maskBit m j
  k.ew ≤ 5 → issues s k.ew [] → n ≠ 0 →
  bits (.mand f) (fun x y => x && y) ∧ bits (.mor f) (fun x y => x || y) ∧ bits (.mxor f) (fun x y => x ^^ y) ∧
  bits (.mnot f) (fun x _ => !x) ∧
  (slotFree s (scalarOf f.vd) →
    exec (.mpopc f) s = replied s 8 (scalarOf f.vd) (toWord found.length) ∧
    (∀ j ∈ found, (∀ i ∈ found, j ≤ i) → exec (.mfirst f) s = replied s 8 (scalarOf f.vd) (toWord j)) ∧
    (found = [] → exec (.mfirst f) s = replied s 8 (scalarOf f.vd) 0xFFFF_FFFF_FFFF_FFFF))

/-- R252, R288: VTOPK writes the largest active elements in order, and their indices beside them; VMETA packs each row's mask
bits, quad by quad, into the code of its two set bits, 0 for any other quad, and leaves the elements above. -/
def Sys2Proof.Claim.TopAndMetadata : Prop := ∀ (f : VA) (s : State),
  let k := s.self
  let w := ETwidth f.et
  let n := k.vrows * k.vcols
  let a := fun j => source k f.va w j
  let active := (List.range n).filter fun j => k.vec.maskBit f.msk.toNat j
  let rank := fun i => active.countP fun j => topBefore f.et j (a j) i (a i)
  let limit := (k.rd (scalarOf f.vb)).toNat
  let words := (k.vcols + 31) / 32
  let bit := fun r p => decide (p < k.vcols) && k.vec.maskBit f.va.toNat (r * k.vcols + p)
  (wholes s (ETew f.et) [f.vd, f.vd + 1, f.va, f.vb] → f.vd.toNat ≤ 30 → f.vb.getLsbD 6 = true →
    ETint f.et = true ∨ ETflt f.et = true → 16 ≤ w →
    ∃ t, exec (.vtopk f) s = .next t ∧ onlyVector s t ∧ onlyCsrs k t.self [] ∧ t.self.pc = (k.retire 8).pc ∧
      (∀ c, c ≠ f.vd.toNat → c ≠ f.vd.toNat + 1 → c < 42 → t.self.vec.bitsOf c = k.vec.bitsOf c) ∧
      (∀ i ∈ active, rank i < limit → elem t.self f.vd.toNat w (rank i) = a i ∧
        elem t.self (f.vd.toNat + 1) w (rank i) = i % 2 ^ w) ∧
      ∀ j < n, min limit active.length ≤ j → elem t.self f.vd.toNat w j = elem k f.vd.toNat w j ∧
        elem t.self (f.vd.toNat + 1) w j = elem k (f.vd.toNat + 1) w j) ∧
  (wholes s 3 [f.vd] → f.vd.getLsbD 6 = false →
    ∃ t, exec (.vmeta f) s = .next t ∧ onlyVector s t ∧ onlyCsrs k t.self [] ∧ onlyRegister k t.self f.vd.toNat ∧
      t.self.pc = (k.retire 8).pc ∧
      (∀ j, k.vrows * words ≤ j → 32 * j + 32 ≤ 65536 → elem t.self f.vd.toNat 32 j = elem k f.vd.toNat 32 j) ∧
      ∀ r < k.vrows, ∀ q < 8 * words,
        let code := fld (elem t.self f.vd.toNat 32 (r * words + q / 8)) (4 * (q % 8)) 4
        (∀ l h, l < h → h < 4 → (∀ j < 4, bit r (4 * q + j) = (j == l || j == h)) → code = 4 * h + l) ∧
        ((∀ l h, l < h → h < 4 → ∃ j < 4, bit r (4 * q + j) ≠ (j == l || j == h)) → code = 0))

/-- R237, R247, R252, R288: masks, top-k and sparse metadata. -/
def Obligations.MasksAndMetadata : Prop := Sys2Proof.Claim.MaskForms ∧ Sys2Proof.Claim.TopAndMetadata


/-! ### Conversions -/

namespace Sys2Proof.Claim

/-- R231 with a destination index range from off: what an element-wise instruction of governing width ew does with elements of
width w. -/
def elementwiseAt (s : State) (i : Instr) (f : VA) (ew w off : Nat) (srcs : List (BitVec 7)) (val : Nat → Nat × Flags) :
    Prop :=
  let k := s.self
  let n := k.vrows * k.vcols
  issues s ew (f.vd :: srcs) → f.vd.getLsbD 6 = false →
  off + n ≤ (if f.vd.toNat < 32 then k.capBits / w else 1024) →
  ((∀ j, live k f.msk j → k.trapping (val j).2 = false) →
    ∃ t, exec i s = .next t ∧ onlyVector s t ∧ onlyFlagCsrs k t.self ∧ onlyRegister k t.self f.vd.toNat ∧
      gainsFlags k t.self f.msk val ∧ t.self.pc = (k.retire 8).pc ∧ (n ≠ 0 → t.self.csrAt 0x003 = 0) ∧
      ∀ j < n,
        (live k f.msk j → elem t.self f.vd.toNat w (off + j) = (val j).1 % 2 ^ w) ∧
        (¬live k f.msk j → elem t.self f.vd.toNat w (off + j) =
          if f.mz = 1 ∧ k.vstart ≤ j then 0 else elem k f.vd.toNat w (off + j))) ∧
  stopsOnFlags s i f (fun k j => elem k f.vd.toNat w (off + j)) 0 (low w val) (fun k l => onlyRegister k l f.vd.toNat)

/-- Element j of a WAC96 operand: a group of three registers, or a sign-extended scalar (R66, R187). -/
def wac (k : Core) (code : BitVec 7) (j : Nat) : Int :=
  if code.getLsbD 6 then (k.rd (code.setWidth 6)).toInt
  else signed 96 (elem k code.toNat 32 j + 2 ^ 32 * elem k (code.toNat + 1) 32 j + 2 ^ 64 * elem k (code.toNat + 2) 32 j)

/-- The registers of a WAC96 operand. -/
def group (code : BitVec 7) : List (BitVec 7) := if code.getLsbD 6 then [code] else [code, code + 1, code + 2]

/-- An element-wise form that writes a WAC96 group (R251). -/
def accumulates (s : State) (i : Instr) (f : VA) (srcs : List (BitVec 7)) (val : Nat → Int × Flags) : Prop :=
  let k := s.self
  let n := k.vrows * k.vcols
  let others := fun (k l : Core) => l.vec.m = k.vec.m ∧
    ∀ c, c < 42 → c < f.vd.toNat ∨ f.vd.toNat + 2 < c → l.vec.bitsOf c = k.vec.bitsOf c
  issues s 5 (group f.vd ++ srcs) → f.vd.toNat ≤ 29 →
  ((∀ j, live k f.msk j → k.trapping (val j).2 = false) →
    ∃ t, exec i s = .next t ∧ onlyVector s t ∧ onlyFlagCsrs k t.self ∧ others k t.self ∧
      gainsFlags k t.self f.msk (fun j => (0, (val j).2)) ∧ t.self.pc = (k.retire 8).pc ∧
      ∀ j < n,
        (live k f.msk j → wac t.self f.vd j = signed 96 (wrap 96 (val j).1)) ∧
        (¬live k f.msk j → wac t.self f.vd j = if f.mz = 1 ∧ k.vstart ≤ j then 0 else wac k f.vd j)) ∧
  stopsOnFlags s i f (fun k j => wac k f.vd j) 0 (fun j => (signed 96 (wrap 96 (val j).1), (val j).2)) others

end Sys2Proof.Claim

/-- R248, R249: the conversions: element i read at its index, or at k + i when widening with an offset, scaled by the block's
scale where one is given, converted once, and written at i, or at k + i when narrowing with an offset. -/
def Sys2Proof.Claim.VectorConversions : Prop := ∀ (src : ET) (f : VA) (s : State), src ≠ .wac → f.et ≠ .wac →
  let k := s.self
  let ws := ETwidth src
  let wd := ETwidth f.et
  let n := k.vrows * k.vcols
  let block := if src = .e2m1 ∨ f.et = .e2m1 then 64 else 32
  let off := if f.vc.getLsbD 6 then (k.rd (scalarOf f.vc)).toNat else 0
  let scale := fun j => source k f.vb 8 (j / block)
  let converted := fun divide x j => if f.vb = 0 then convertElem f.et src k.rm k.satf k.sati x
    else scaleConvert f.et src divide k.rm k.satf (scale j) x
  let srcs := f.va :: ((if f.vb = 0 then [] else [f.vb]) ++ if f.vc.getLsbD 6 then [f.vc] else [])
  let plain := fun j => source k f.va ws j
  (f.vc = 0 → elementwiseAt s (.vcvt src f) f (ETew f.et) wd 0 srcs fun j => converted true (plain j) j) ∧
  elementwiseAt s (.vcvtNarrow src f) f (ETew src) wd off srcs (fun j => converted true (plain j) j) ∧
  elementwiseAt s (.vcvtF32E2m1 src f) f (ETew src) wd off srcs (fun j => converted true (plain j) j) ∧
  ((f.va.getLsbD 6 = false → off + n ≤ if f.va.toNat < 32 then k.capBits / ws else 1024) →
    elementwiseAt s (.vcvtWiden src f) f (ETew f.et) wd 0 srcs fun j => converted false (plain (j + off)) j)

/-- R63, R249: the scaled conversion is that of the exact value × 2^(X - 127), or / 2^(X - 127), and of a NaN under the scale
0xFF; an infinity or a NaN stays one. An I8 element is the MXINT8 number n / 64 (R64). -/
def Sys2Proof.Claim.ScaledValues : Prop := ∀ (dst src : ET) (F : FpFmt) (rm : BitVec 2) (satf : Bool) (x b : Nat),
  ETfmt dst = some F →
  let mx : Int := if src = .i8 then 6 else 0
  let scaled := fun (divide : Bool) (e : Int) => e + (if divide then 127 - (x : Int) else x - 127) - mx
  (x = 0xFF → ∀ divide, scaleConvert dst src divide rm satf x b = F.convert rm satf (.nan false)) ∧
  (x < 0xFF → ∀ divide neg m e, elemVal src b = .num neg m e →
    scaleConvert dst src divide rm satf x b = F.convert rm satf (.num neg m (scaled divide e)) ∧
    scaleConvert .i8 src divide rm satf x b = toInt .i8 rm (.num neg m (scaled divide e + 6))) ∧
  (x < 0xFF → ∀ divide v, elemVal src b = v → (∀ neg m e, v ≠ .num neg m e) →
    scaleConvert dst src divide rm satf x b = F.convert rm satf v)

namespace Sys2Proof.Claim

/-- The exponent of a nonzero value: of its leading bit; 127 of an infinity (R65). -/
def exponent : FVal → Option Int
  | .nan _ => none
  | .inf _ => some 127
  | .num _ m e => if m = 0 then none else some (Nat.log2 m + e)

end Sys2Proof.Claim

/-- R250, R65: VSCALE writes each block's scale: 0xFF where the block holds a NaN, 0 for zeros alone, else the largest
exponent less the format's own, with the bias of 127, within 0 to 254; an inactive element counts as zero. -/
def Sys2Proof.Claim.BlockScales : Prop := ∀ (src : ET) (f : VA) (s : State), ETflt src = true →
  let k := s.self
  let n := k.vrows * k.vcols
  let block := if src = .e2m1 ∨ f.et = .e2m1 then 64 else 32
  let val := fun j => if k.vec.maskBit f.msk.toNat j then elemVal src (source k f.va (ETwidth src) j) else .num false 0 0
  let x := fun b => scaleRule f.et ((List.range (min block (n - block * b))).map fun j => val (block * b + j))
  wholes s (ETew src) [f.vd, f.va] → f.vd.getLsbD 6 = false →
  (∃ t, exec (.vscale src f) s = .next t ∧ onlyVector s t ∧ onlyCsrs k t.self [] ∧ onlyRegister k t.self f.vd.toNat ∧
    t.self.pc = (k.retire 8).pc ∧ ∀ b < (if f.vd.toNat < 32 then 32768 else 8192), elem t.self f.vd.toNat 8 b =
      if b < (n + block - 1) / block then x b else elem k f.vd.toNat 8 b) ∧
  ∀ b < (n + block - 1) / block,
    ((∃ j < n, j / block = b ∧ (val j).isNaN = true) → x b = 0xFF) ∧
    ((∀ j < n, j / block = b → (val j).isZero = true) → x b = 0) ∧
    (∀ top, (∃ j < n, j / block = b ∧ exponent (val j) = some top) →
      (∀ j < n, j / block = b → (val j).isNaN = false ∧ ∀ e, exponent (val j) = some e → e ≤ top) →
      x b = (max 0 (min 254 (top - scaleEmax f.et + 127))).toNat)

/-- R248 to R250: conversions, scaled conversions and the block scales that VSCALE writes. -/
def Obligations.VectorConversionsAndScales : Prop := Sys2Proof.Claim.VectorConversions ∧ Sys2Proof.Claim.ScaledValues ∧ Sys2Proof.Claim.BlockScales


/-- R251, R66, R67: the wide accumulator forms: the sum saturated to 96 bits with OV, the conversions in and out at the weight
of WACE; and the copy of a group by VMOV. -/
def Obligations.WideAccumulator : Prop := ∀ (f : VA) (s : State),
  let k := s.self
  let n := k.vrows * k.vcols
  let exact := fun (q : Int) => if 2 ^ 95 ≤ q then ((2 : Int) ^ 95 - 1, flagOV) else if q < -2 ^ 95 then (-(2 : Int) ^ 95, flagOV)
    else (q, 0)
  let limit := f.et = .f64 → n ≤ k.capBits / 64
  let a := wac k f.va
  (f.va.toNat ≤ 29 ∨ f.va.getLsbD 6 = true) →
  ((f.vb.toNat ≤ 29 ∨ f.vb.getLsbD 6 = true) →
    accumulates s (.vaddWac f) f (group f.va ++ group f.vb) fun j => exact (a j + wac k f.vb j)) ∧
  (limit → ETflt f.et = true → accumulates s (.vcvtWac f) f [f.va] fun j =>
    toWac (wacExp k.wace) (elemVal f.et (source k f.va (ETwidth f.et) j))) ∧
  (∀ F, ETfmt f.et = some F → f.et = .f32 ∨ f.et = .f64 → limit →
    elementwiseAt s (.vcvtFwac f) f 5 (ETwidth f.et) 0 (group f.va) fun j =>
      F.round 0 false (a j < 0) (a j).natAbs k.wace.toInt) ∧
  (f.et = .wac → accumulates s (.vmov f) f (group f.va) fun j => (a j, 0))

/-! ### Vector memory instructions -/

namespace Sys2Proof.Claim

/-- Bytes of an element in memory, half a byte for the 4-bit types. -/
def bytesOf (t : ET) : Nat := if t = .wac then 12 else max 1 (ETwidth t / 8)

/-- The three ways a form makes displacements (R259). -/
inductive Shape where
  | unit
  | strided
  | indexed
  deriving DecidableEq, Repr

/-- The displacement of element j from xa and its nibble; an element takes up `step` units (R258, R259). -/
def offset (k : Core) (f : VM) (how : Shape) (step : Nat) (half : Bool) (j : Nat) : Int × Nat :=
  let pos := match how with
    | .unit => j
    | .strided => j % k.vcols
    | .indexed => source k f.idx (if f.et = .wac then 32 else ETwidth f.et) j
  let extra : Int := match how with
    | .strided => ((j / k.vcols : Nat) : Int) * (k.rd (scalarOf f.idx)).toInt
    | _ => 0
  if half then (f.value.toInt + extra + (pos / 2 : Nat), pos % 2) else (f.value.toInt + extra + (pos * step : Nat), 0)

/-- The registers that an element of a type takes part in. -/
def registers (t : ET) (code : BitVec 7) : List (BitVec 7) := if t = .wac then group code else [code]

/-- Element j of a register, or of a group. -/
def held (k : Core) (t : ET) (code : BitVec 7) (j : Nat) : Nat :=
  if t = .wac then
    elem k code.toNat 32 j + 2 ^ 32 * elem k (code.toNat + 1) 32 j + 2 ^ 64 * elem k (code.toNat + 2) 32 j
  else elemBits t (elem k code.toNat (ETwidth t) j)

/-- A vector memory instruction may issue: as any vector instruction, its base and index read, no addend under way and no
contribution of its thread where it releases first (R257, R230, R156). -/
def accesses (s : State) (f : VM) (how : Shape) : Prop :=
  issues s (ETew f.et) (registers f.et f.vd ++ if how = .unit then [] else [f.idx]) ∧ f.vd.getLsbD 6 = false ∧
  (f.et = .wac → f.vd.toNat ≤ 29) ∧ (how = .strided → f.idx.getLsbD 6 = true) ∧ s.self.empty f.xa = false ∧
  s.self.vrows * s.self.vcols ≠ 0 ∧ (2 ≤ f.ord.toNat → s.ms.chains = []) ∧ released s f.ord.toNat

/-- Beside the vector unit, the CSRs, the program counter, the wait and caches of the own core, only the memory system and
other caches may differ. -/
def onlyVectorAndCaches (s t : State) : Prop :=
  t = { s with cores := t.cores, ms := t.ms } ∧
  t.self = { s.self with vec := t.self.vec, csr := t.self.csr, pc := t.self.pc, wait := t.self.wait, cache := t.self.cache } ∧
  ∀ c, c ≠ s.cur → t.core c = { s.core c with cache := (t.core c).cache }

/-- How the elements of a load lie (R258): a load with a format of pages reads its stored elements. -/
def loadMem (s : State) (f : VM) (fmt : Nat) : VMem :=
  let size := if fmt = 0 then bytesOf f.et else if fmt = 7 ∨ fmt = 8 then 2 else 1
  { space := s.self.space, w := ETwidth f.et, size := size, half := if fmt = 0 then ETwidth f.et == 4 else fmt == 3
    kind := 0, base := s.self.rd f.xa, msu := false, noHost := false
    fmtOk := fun e pa => if ETflt f.et then pteFmt e == fmt && rawReadOk size e pa
      else rawLoadOk f.et (if f.et = .wac then 4 else size) e pa }

/-- The displacement of element j of a load: seven of eight elements of a codebook page share an index (R74). -/
def loadAt (s : State) (f : VM) (fmt : Nat) (how : Shape) (j : Nat) : Int × Nat :=
  let m := loadMem s f fmt
  offset s.self f how (if m.space = 3 then 1 else m.size) (m.half && m.space != 3) (if fmt = 7 then j / 8 else j)

/-- The read of element j, which leaves the state as it is: its translation and its line are held, or its page is not cached
and at rest. -/
def readsAt (s : State) (f : VM) (fmt : Nat) (how : Shape) (j v : Nat) : Prop :=
  let m := loadMem s f fmt
  let d := loadAt s f fmt how j
  (do (← m.place (s.ctxOf s.cur) d.1 d.2 (s.self.repin j)).read (s.ctxOf s.cur) m.half 0 : X Nat) s = .ok v s

/-- A load has performed: each live element of the register holds its value, an inactive one zero under mz or what it held. -/
def loads (s : State) (i : Instr) (f : VM) (csrs : List Nat) (val : Nat → Nat × Flags) (masks : State → Prop) : Prop :=
  let k := s.self
  ∃ t, exec i s = .next t ∧ onlyVectorAndCaches s t ∧ onlyCsrs k t.self (0x003 :: csrs) ∧ t.self.csrAt 0x003 = 0 ∧
    gainsFlags k t.self f.msk val ∧ t.self.pc = (k.retire (extSize f.ext)).pc ∧ masks t ∧
    (∀ c : BitVec 7, c.toNat < 42 → c ∉ registers f.et f.vd → t.self.vec.bitsOf c.toNat = k.vec.bitsOf c.toNat) ∧
    (∀ b < 2 ^ 42, byteAt t b = byteAt s b) ∧
    ∀ j < k.vrows * k.vcols,
      (live k f.msk j → held t.self f.et f.vd j = elemBits f.et (val j).1) ∧
      (¬live k f.msk j → held t.self f.et f.vd j = if f.mz = 1 ∧ k.vstart ≤ j then 0 else held k f.et f.vd j)

/-- The alignment of an element (R260). -/
def alignOf (t : ET) : Nat := if t = .wac then 4 else min 8 (bytesOf t)

/-- An element of n bytes at a scratchpad byte address may be loaded: aligned, inside a READY tile. -/
def scratchHeld (s : State) (a n align : Nat) : Prop :=
  a % align = 0 ∧ a + n ≤ 2 ^ 23 ∧ ∃ i, s.self.tileAt s.self.tk.tenant a n = some i ∧ (s.self.tile i).st = .ready

/-- The address of element j of a load of unformatted pages. -/
def loadAddr (s : State) (f : VM) (how : Shape) (j : Nat) : Word :=
  BitVec.ofInt 64 ((s.self.rd f.xa).toNat + (loadAt s f 0 how j).1)

end Sys2Proof.Claim

/-- R258 to R260: unit, strided and indexed loads: each live element takes what its own access reads, in every space. In
SCRATCH a load of elements inside READY tiles completes with the bytes of the tiles, and in GLOBAL one of elements on
translated, unformatted pages with those that memory holds, at their home where a line of it is resident, or with those of the
lines that the L1 data cache holds. The elements of a formatted page take the decoded value
with its scale, converted under VCFG.RM (R74). -/
def Sys2Proof.Claim.VectorLoads : Prop := ∀ (f : VM) (s : State) (v : Nat → Nat),
  let k := s.self
  let w := ETwidth f.et
  let raw := fun i how => accesses s f how → (how = .indexed → k.space ≠ 2) →
    (ETflt f.et = true → k.space = 0 → anchorFmt (s.ctxOf s.cur) (k.rd f.xa + f.value) s = .ok (some 0) s) →
    (∀ j, live k f.msk j → readsAt s f 0 how j (v j)) →
    loads s i f [] (fun j => (v j, 0)) fun t => t.self.vec.m = k.vec.m
  let n := bytesOf f.et
  let taken := fun how bytes j => if w = 4 then fld bytes (4 * (loadAt s f 0 how j).2) 4 else bytes
  let width := if w = 4 then 1 else n
  let direct := fun i how => accesses s f how →
    (k.space = 1 → k.scratchPoison = [] → (∀ j, live k f.msk j → scratchHeld s (loadAddr s f how j).toNat n (alignOf f.et)) →
      loads s i f [] (fun j => (taken how (k.scratch.read (loadAddr s f how j).toNat width) j, 0))
        fun t => t.self.vec.m = k.vec.m) ∧
    (∀ (e : Nat → TlbEntry) (e0 : TlbEntry), k.space = 0 → f.et ≠ .wac → k.cache.pin = none → s.ms.poison = [] →
      (ETflt f.et = true → mapped s (k.rd f.xa + f.value) { kind := 0, n := 1 } e0 ∧ pteFmt e0.pte = 0) →
      (∀ j, live k f.msk j → (loadAddr s f how j).toNat % n = 0 ∧
        mapped s (loadAddr s f how j) { kind := 0, n := n } (e j) ∧ pteFmt (e j).pte = 0) →
      let pa := fun j => s.leafAddr (e j).pte (e j).level (loadAddr s f how j)
      ((∀ j, live k f.msk j → homed s (e j) (pa j) n ∧
          (uncached s (e j) (pa j) = false → k.l1Line (lineKey s (e j) (pa j)) = none)) →
        loads s i f [] (fun j => (taken how (bytesAt s (pa j) width) j, 0)) fun t => t.self.vec.m = k.vec.m) ∧
      ∀ l : Nat → L1Line, f.ord = 0 →
        (∀ j, live k f.msk j → uncached s (e j) (pa j) = false ∧ k.l1Line (lineKey s (e j) (pa j)) = some (l j)) →
        loads s i f [] (fun j => (taken how (lineRead (l j).data (pa j % 256) width) j, 0)) fun t => t.self.vec.m = k.vec.m)
  raw (.vldUnit f) .unit ∧ raw (.vldStrided f) .strided ∧ raw (.vldx f) .indexed ∧
  direct (.vldUnit f) .unit ∧ direct (.vldStrided f) .strided ∧ direct (.vldx f) .indexed ∧
  (∀ (q : Nat) (F : FpFmt) (x : Nat → FVal), 1 ≤ q → q ≤ 8 → k.space = 0 → ETfmt f.et = some F → ETflt f.et = true →
    accesses s f .unit → anchorFmt (s.ctxOf s.cur) (k.rd f.xa + f.value) s = .ok (some q) s →
    (∀ j, live k f.msk j → let m := loadMem s f q; let d := loadAt s f q .unit j
      ∃ h n nib addr, m.place (s.ctxOf s.cur) d.1 d.2 (s.self.repin j) s = .ok ⟨[(.plain h, n)], nib, addr⟩ s ∧
        readsAt s f q .unit j (v j) ∧
        scaledVal (s.ctxOf s.cur) h q (v j) (j % 8) nib 0 addr s = .ok (x j) s) →
    (∀ j, live k f.msk j → k.trapping (F.convert k.rm k.satf (x j)).2 = false) →
    loads s (.vldUnit f) f [0x008, 0x00A, 0x00B] (fun j => F.convert k.rm k.satf (x j))
      fun t => t.self.vec.m = k.vec.m)

/-- R262: a PEER gather records each element that faults in m7 and performs the others; a performed element's bit is
cleared. -/
def Sys2Proof.Claim.PeerGather : Prop := ∀ (f : VM) (s : State) (v : Nat → Option Nat),
  let k := s.self
  let m := loadMem s f 0
  k.space = 2 → accesses s f .indexed →
  (∀ j, live k f.msk j → let d := loadAt s f 0 .indexed j
    let r := (do (← m.place (s.ctxOf s.cur) d.1 d.2 (k.repin j)).read (s.ctxOf s.cur) m.half 0 : X Nat) s
    match v j with
    | some x => r = .ok x s
    | none => ∃ tv, r = .error (.trap 0x11 tv) s) →
  ∃ t, exec (.vldx f) s = .next t ∧ onlyVectorAndCaches s t ∧ t.self.csrAt 0x003 = 0 ∧
    ∀ j < k.vrows * k.vcols,
      (live k f.msk j → ∀ x, v j = some x →
        held t.self f.et f.vd j = elemBits f.et x ∧ t.self.vec.maskBit 7 j = false) ∧
      (live k f.msk j → v j = none →
        held t.self f.et f.vd j = held k f.et f.vd j ∧ t.self.vec.maskBit 7 j = true)

/-- R258 to R262: vector loads, and gathers from other cores. -/
def Obligations.VectorLoadsAndGathers : Prop := Sys2Proof.Claim.VectorLoads ∧ Sys2Proof.Claim.PeerGather


namespace Sys2Proof.Claim

/-- The nibbles of a store by these elements: the last one that covers one leaves its own, the others stay (R142); start and len
in half bytes. -/
def lastWrites (by_ : Nat → Prop) (start : Nat → Nat) (len : Nat) (val old new : Nat → Nat) : Prop :=
  ∀ q, (∀ j, by_ j → start j ≤ q → q < start j + len →
      (∀ m, by_ m → j < m → q < start m ∨ start m + len ≤ q) → new q = fld (val j) (4 * (q - start j)) 4) ∧
    ((∀ j, by_ j → q < start j ∨ start j + len ≤ q) → new q = old q)

/-- Half byte q of a scratchpad, and of device memory. -/
def scratchNibble (k : Core) (q : Nat) : Nat := fld (k.scratch.read (q / 2) 1) (4 * (q % 2)) 4
def memoryNibble (s : State) (q : Nat) : Nat := fld (byteAt s (q / 2)) (4 * (q % 2)) 4

/-- The address of element j of a store in SCRATCH or GLOBAL. -/
def storeAddr (s : State) (f : VM) (how : Shape) (j : Nat) : Word :=
  BitVec.ofInt 64 ((s.self.rd f.xa).toNat + (offset s.self f how (bytesOf f.et) (ETwidth f.et == 4) j).1)

/-- An element of n bytes at a scratchpad byte address may be stored: aligned, inside a READY tile without readers. -/
def scratchOpen (s : State) (a n align : Nat) : Prop :=
  a % align = 0 ∧ a + n ≤ 2 ^ 23 ∧ ∃ i, s.self.tileAt s.self.tk.tenant a n = some i ∧ (s.self.tile i).st = .ready ∧
    (s.self.tile i).readers = 0

end Sys2Proof.Claim

/-- R258 to R260, R142: unit, strided and indexed stores in SCRATCH and in GLOBAL, to memory or to lines resident at their homes: each
live element's bits stand at its place, the highest element remaining where places overlap; nothing else of the scratchpad or of memory
changes, and no CSR but DRPL, which counts the run-ahead loads squashed (R144). -/
def Sys2Proof.Claim.VectorStores : Prop := ∀ (f : VM) (s : State) (e : Nat → TlbEntry),
  let k := s.self
  let n := bytesOf f.et
  let len := if f.et = .wac then 24 else ETwidth f.et / 4
  let nib := fun how j => (offset k f how n (ETwidth f.et == 4) j).2
  let addr := fun how j => (storeAddr s f how j).toNat
  let pa := fun how j => s.leafAddr (e j).pte (e j).level (storeAddr s f how j)
  let val := fun j => held k f.et f.vd j
  let squashes := if k.cache.ahead = [] then [0x003] else [0x003, 0x041]
  let stored := fun i how => accesses s f how →
    (k.space = 1 → (∀ j, live k f.msk j → scratchOpen s (addr how j) n (alignOf f.et)) →
      ∃ t, exec i s = .next t ∧ t.self.csrAt 0x003 = 0 ∧ onlyCsrs k t.self squashes ∧ t.self.vec = k.vec ∧
        t.self.x = k.x ∧ t.self.tiles = k.tiles ∧ t.self.pc = (k.retire (extSize f.ext)).pc ∧
        (f.ord.toNat < 2 → t.ms.mem = s.ms.mem) ∧
        lastWrites (live k f.msk) (fun j => 2 * addr how j + nib how j) len val (scratchNibble k) (scratchNibble t.self)) ∧
    (k.space = 0 → f.et ≠ .wac → k.cache.pin = none →
      (∀ j, live k f.msk j → (storeAddr s f how j).toNat % n = 0 ∧ mapped s (storeAddr s f how j) { kind := 1, n := n } (e j) ∧
        homed s (e j) (pa how j) n) →
      ∃ t, exec i s = .next t ∧ t.self.csrAt 0x003 = 0 ∧ onlyCsrs k t.self squashes ∧ t.self.vec = k.vec ∧
        t.self.x = k.x ∧ t.self.tiles = k.tiles ∧ t.self.scratch = k.scratch ∧
        t.self.pc = (k.retire (extSize f.ext)).pc ∧
        lastWrites (live k f.msk) (fun j => 2 * pa how j + nib how j) len val (memoryNibble s) (memoryNibble t))
  stored (.vstUnit f) .unit ∧ stored (.vstStrided f) .strided ∧
  stored (.vstx f) .indexed

namespace Sys2Proof.Claim

/-- Places of the live elements, n bytes each, do not meet. -/
def apart (k : Core) (msk : BitVec 3) (addr : Nat → Nat) (n : Nat) : Prop :=
  ∀ i j, live k msk i → live k msk j → i ≠ j → addr i + n ≤ addr j ∨ addr j + n ≤ addr i

/-- The sum of R129: modulo 2^w, or rounded to nearest or as VCFG.RM says. -/
def sum (t : ET) (rm : BitVec 2) (a b : Nat) : Nat :=
  match ETfmt t with
  | some F => (F.add rm a b).1
  | none => (a + b) % 2 ^ ETwidth t

end Sys2Proof.Claim

/-- R263, R264, R128, R129: VSADD adds each live element at its place, in GLOBAL at the latest when a release has performed the
addends under way; VAMO performs its operation at each place and returns the old values. In SPACE 2 and 3 they trap
ILLEGAL_ENC. -/
def Sys2Proof.Claim.VectorAtomics : Prop := ∀ (f : VM) (s : State) (e : Nat → TlbEntry),
  let k := s.self
  let n := bytesOf f.et
  let w := ETwidth f.et
  let g := { f with disp := 0, ext := none }
  let addr := fun h j => (storeAddr s h .indexed j).toNat
  let pa := fun h j => s.leafAddr (e j).pte (e j).level (storeAddr s h .indexed j)
  let val := fun j => held k f.et f.vd j
  let old := fun h j => if k.space = 1 then k.scratch.read (addr h j) n else s.ms.mem.read (pa h j) n
  let amo := fun j => (amoValue f.disp.toNat w (old g j) (val j)).getD (old g j)
  accesses s f .indexed → f.et ≠ .wac → 16 ≤ w → s.ms.chains = [] → s.ms.poison = [] → k.scratchPoison = [] →
  k.cache.pin = none →
  (2 ≤ k.space → k.tf = false → exec (.vsadd f) s = trapped s 2 (Instr.word (.vsadd f)) k.pc ∧
    exec (.vamo f) s = trapped s 2 (Instr.word (.vamo f)) k.pc) ∧
  (k.space = 1 → (∀ j, live k f.msk j → scratchOpen s (addr f j) n n) → apart k f.msk (addr f) n →
    ∃ t, exec (.vsadd f) s = .next t ∧ t.self.vec = k.vec ∧ t.self.csrAt 0x003 = 0 ∧ (f.ord = 0 → t.ms.mem = s.ms.mem) ∧
      (∀ j, live k f.msk j → t.self.scratch.read (addr f j) n = sum f.et k.rm (old f j) (val j)) ∧
      ∀ b, (∀ j, live k f.msk j → b < addr f j ∨ addr f j + n ≤ b) → t.self.scratch.get b = k.scratch.get b) ∧
  (k.space = 0 → (∀ j, live k f.msk j → (storeAddr s f .indexed j).toNat % n = 0 ∧
      mapped s (storeAddr s f .indexed j) { kind := 3, n := n, msu := true, noHost := true } (e j) ∧
      atRest s (pa f j) n none) → apart k f.msk (fun j => pa f j / 8 * 8) 8 →
    ∃ t, exec (.vsadd f) s = .next t ∧ t.self.vec = k.vec ∧ t.self.csrAt 0x003 = 0 ∧
      (∀ j, live k f.msk j → t.release.ms.mem.read (pa f j) n = sum f.et k.rm (old f j) (val j)) ∧
      ∀ b, (∀ j, live k f.msk j → b < pa f j ∨ pa f j + n ≤ b) → t.release.ms.mem.get b = s.ms.mem.get b) ∧
  (k.space = 1 → (∀ j, live k f.msk j → scratchOpen s (addr g j) n n) → apart k f.msk (addr g) n →
    ∃ t, exec (.vamo f) s = .next t ∧ t.self.csrAt 0x003 = 0 ∧ onlyRegister k t.self f.vd.toNat ∧
      (∀ j, live k f.msk j → elem t.self f.vd.toNat w j = old g j ∧ t.self.scratch.read (addr g j) n = amo j) ∧
      ∀ b, (∀ j, live k f.msk j → b < addr g j ∨ addr g j + n ≤ b) → t.self.scratch.get b = k.scratch.get b) ∧
  (k.space = 0 → (∀ j, live k f.msk j → (storeAddr s g .indexed j).toNat % n = 0 ∧
      mapped s (storeAddr s g .indexed j) { kind := 3, n := n, msu := true } (e j) ∧ atRest s (pa g j) n none) →
    apart k f.msk (pa g) n →
    ∃ t, exec (.vamo f) s = .next t ∧ t.self.csrAt 0x003 = 0 ∧ onlyRegister k t.self f.vd.toNat ∧
      (∀ j, live k f.msk j → elem t.self f.vd.toNat w j = old g j ∧ t.ms.mem.read (pa g j) n = amo j) ∧
      ∀ b, (∀ j, live k f.msk j → b < pa g j ∨ pa g j + n ≤ b) → t.ms.mem.get b = s.ms.mem.get b)

/-- R260 to R264: vector stores, scatter-adds and atomics. -/
def Obligations.VectorStoresAndAtomics : Prop := Sys2Proof.Claim.VectorStores ∧ Sys2Proof.Claim.VectorAtomics


/-- R87, R265: VSPILL in SCRATCH writes the header and the elements of its register as a frame and nothing else; VFILL of a
frame takes the shape's elements back, whatever register it names, and clears nothing of memory. -/
def Obligations.SpillFrames : Prop := ∀ (f : VM) (s : State), f.et ≠ .wac →
  let k := s.self
  let n := k.vrows * k.vcols
  let w := ETwidth f.et
  let words := 1 + (n * w + 63) / 64
  let a := fun j => (BitVec.ofInt 64 ((k.rd f.xa).toNat + (f.value.toInt + (8 * j : Nat)))).toNat
  let header := k.vcols * 2 ^ 23 + k.vrows * 2 ^ 16 + k.ew
  k.space = 1 → k.vstart = 0 → issues s (ETew f.et) [f.vd] → f.vd.getLsbD 6 = false → k.empty f.xa = false →
  s.ms.chains = [] → released s f.ord.toNat → k.scratchPoison = [] → (∀ j < words, a j = a 0 + 8 * j ∧ scratchOpen s (a j) 8 8) →
  (∃ t, exec (.vspill f) s = .next t ∧ t.self.vec = k.vec ∧ t.self.x = k.x ∧ t.self.csrAt 0x003 = 0 ∧
    t.self.scratch.read (a 0) 8 = header ∧
    (∀ j < n, fld (t.self.scratch.read (a 0 + 8) (8 * (words - 1))) (w * j) w = elem k f.vd.toNat w j) ∧
    ∀ b, b < a 0 ∨ a 0 + 8 * words ≤ b → t.self.scratch.get b = k.scratch.get b) ∧
  (k.scratch.read (a 0) 8 = header → k.vcols < 2 ^ 17 →
    ∃ t, exec (.vfill f) s = .next t ∧ t.self.scratch = k.scratch ∧ t.self.x = k.x ∧ t.self.csrAt 0x003 = 0 ∧
      onlyRegister k t.self f.vd.toNat ∧
      ∀ j < n, elem t.self f.vd.toNat w j = fld (k.scratch.read (a 0 + 8) (8 * (words - 1))) (w * j) w)

/-! ### Tiles -/

namespace Sys2Proof.Claim

/-- An instruction waits: the wait stands in its core, nothing else has changed (R178). -/
def waitsFor (s : State) (w : Wait) : Out := .next (s.modSelf fun k => { k with wait := w })

/-- A handle register names an entry of a kind that is not FREE (R181). -/
def names (k : Core) (x : Word) (kind : BitVec 3) (e : Handle) : Prop :=
  x.toNat < 256 ∧ k.handle (BitVec.ofNat 8 x.toNat) = e ∧ e.st ≠ .free ∧ e.kind = kind

/-- R181: a status form returns the entry it names as it stands, and ABORTED where it names none. -/
def statusForm (s : State) (i : Instr) (size : Nat) (xd xa : BitVec 6) (kind : BitVec 3) : Prop :=
  ready s [xa] → slotFree s xd →
  (∀ e, names s.self (s.self.rd xa) kind e → exec i s = replied s size xd e.word) ∧
  ((∀ e, ¬names s.self (s.self.rd xa) kind e) → exec i s = replied s size xd (toWord (8 * 2 ^ 55)))

/-- R181: a waiting form returns a DONE entry and frees it, waits for a BUSY one, and returns ABORTED where it names none. -/
def waitForm (s : State) (i : Instr) (size : Nat) (xd xa : BitVec 6) (kind : BitVec 3) : Prop :=
  let h := BitVec.ofNat 8 (s.self.rd xa).toNat
  ready s [xa] → slotFree s xd →
  (∀ e, names s.self (s.self.rd xa) kind e →
    (e.st = .done → exec i s = did s size fun k => replying xd e.word (k.setHandle h Handle.free)) ∧
    (e.st = .busy → exec i s = waitsFor s (.handle h))) ∧
  ((∀ e, ¬names s.self (s.self.rd xa) kind e) → exec i s = replied s size xd (toWord (8 * 2 ^ 55)))

/-- Units b to b + size of the scratchpad are free (R267). -/
def freeRun (k : Core) (b size : Nat) : Prop :=
  b + size ≤ 2048 ∧ ∀ u, b ≤ u → u < b + size → ∀ e ∈ k.tiles.toList, e.v = true →
    u < e.base.toNat ∨ e.base.toNat + e.size.toNat ≤ u

/-- The entry that TALLOC makes (R267, R90). -/
def allocated (k : Core) (ready : Bool) (b size : Nat) : Tile :=
  { Tile.free with v := true, st := if ready then .ready else .empty, tenant := k.tk.tenant, base := BitVec.ofNat 11 b
                   size := BitVec.ofNat 12 size }

end Sys2Proof.Claim

/-- R88, R90, R91, R92, R267: TALLOC takes the lowest free run, TALLOC.FIX the run it names, within SPQUOTA, with zero
contents under .z; without a run it returns all ones and changes nothing; a size outside 1 to 2,048 traps SHAPE and an
allocated entry TILE_STATE. TFREE frees an entry at rest, waits for readers and for a fill, and traps for a pot's. -/
def Sys2Proof.Claim.TileAllocation : Prop := ∀ (f : TT) (s : State),
  let k := s.self
  let n := extSize f.ext
  let t := f.t.toNat
  let e := k.tile t
  let size := (k.rd f.xa + f.value).toNat
  let at_ := bits (k.rd f.xb) 0 11
  let fits := k.unitsHeld + size ≤ s.quota k
  let z := f.mode.getLsbD 0
  let lowest := fun b => freeRun k b size ∧ ∀ c < b, ¬freeRun k c size
  let takes := fun i b =>
    (z = false → exec i s = did s n fun k => replying f.xc (toWord b) (k.setTile t (allocated k false b size))) ∧
    (z = true → ∃ u : Core, exec i s = .next (s.modSelf fun _ => u) ∧ u.tile t = allocated k true b size ∧ u.x = k.x ∧
      (∀ c < 256, c ≠ t → u.tile c = k.tile c) ∧ u.replies = k.replies ++ [⟨[(f.xc, toWord b)]⟩] ∧
      u.pc = (k.retire n).pc ∧
      ∀ a, u.scratch.get a = if b * 4096 ≤ a ∧ a < (b + size) * 4096 then 0 else k.scratch.get a)
  let none_ := fun i => exec i s = replied s n f.xc 0xFFFF_FFFF_FFFF_FFFF
  (ready s [f.xa, f.xb] → slotFree s f.xc → 1 ≤ size → size ≤ 2048 → e.v = false →
    (∀ b, lowest b → fits → takes (.talloc f) b) ∧ ((∀ b, ¬freeRun k b size) ∨ ¬fits → none_ (.talloc f)) ∧
    (freeRun k at_ size → fits → takes (.tallocFix f) at_) ∧ (¬freeRun k at_ size ∨ ¬fits → none_ (.tallocFix f))) ∧
  (ready s [f.xa, f.xb] → slotFree s f.xc → k.tf = false →
    (size = 0 ∨ 2048 < size → exec (.talloc f) s = trapped s 8 (toWord size) k.pc ∧
      exec (.tallocFix f) s = trapped s 8 (toWord size) k.pc) ∧
    (1 ≤ size → size ≤ 2048 → e.v = true → exec (.talloc f) s = trapped s 9 (tileValue t e 0) k.pc ∧
      exec (.tallocFix f) s = trapped s 9 (tileValue t e 0) k.pc)) ∧
  (e.v = false → exec (.tfree f) s = did s 8 id) ∧
  (e.v = true → let freed : Prop := (exec (.tfree f) s = did s 8 fun k => k.setTile t Tile.free);
    (e.st = .empty ∨ (e.st = .ready ∨ e.st = .poisoned) ∧ e.readers = 0 → freed) ∧
    ((e.st = .ready ∨ e.st = .poisoned) ∧ e.readers ≠ 0 ∨ (e.st = .filling ∧ e.pot = false ∨ e.st = .draining) ∧ e.susp = false →
      exec (.tfree f) s = waitsFor s .resource) ∧
    (e.st = .filling → e.pot = true → k.tf = false → exec (.tfree f) s = trapped s 9 (tileValue t e 0) k.pc) ∧
    ((e.st = .filling ∧ e.pot = false ∨ e.st = .draining) → e.susp = true →
      (∀ o ∈ k.eng.copies, o.phase ≠ .suspended) → freed))

/-- R89, R181, R268: TSTAT returns the entry and never waits; TWAIT waits for a fill, a drain and, with .rd, the readers, and
traps TILE_STATE where the tile is not the tenant's; the handle forms read and wait for an entry of KIND 2. -/
def Sys2Proof.Claim.TileStatus : Prop := ∀ (f : TT) (s : State),
  let k := s.self
  let e := k.tile f.t.toNat
  let busy := (e.st = .filling ∨ e.st = .draining) ∧ e.susp = false
  let read := f.mode.getLsbD 1 = true ∧ e.readers ≠ 0
  let mine := e.v = true ∧ e.tenant = k.tk.tenant
  (slotFree s f.xc →
    exec (.tstat f) s = replied s 8 f.xc e.word ∧
    (mine → ¬busy → ¬read → exec (.twait f) s = replied s 8 f.xc e.word) ∧
    (mine → busy ∨ read → exec (.twait f) s = waitsFor s .resource) ∧
    (¬mine → k.tf = false → exec (.twait f) s = trapped s 9 (toWord (2 ^ 52)) k.pc)) ∧
  statusForm s (.tstatH f) 8 f.xc f.xa 2 ∧ waitForm s (.twaitH f) 8 f.xc f.xa 2 ∧
  (let field := (fun lo len => bits e.word lo len);
    field 63 1 = (if e.v then 1 else 0) ∧ field 60 3 = e.st.code ∧ field 59 1 = (if e.pk then 1 else 0) ∧
    field 54 5 = e.p.toNat ∧ field 49 5 = e.et.toNat ∧ field 48 1 = (if e.pot then 1 else 0) ∧
    field 40 8 = e.readers.toNat ∧ field 34 6 = e.tenant.toNat ∧ field 33 1 = (if e.conf then 1 else 0) ∧
    field 32 1 = (if e.susp then 1 else 0) ∧ field 12 11 = e.base.toNat ∧ field 0 12 = e.size.toNat)

/-- R88 to R92, R181, R267, R268: tiles allocated, freed, read and waited for. -/
def Obligations.Tiles : Prop := Sys2Proof.Claim.TileAllocation ∧ Sys2Proof.Claim.TileStatus


namespace Sys2Proof.Claim

/-- The descriptor that a TID names is well formed and in the cache of the core's cluster (R101, R103, R104). -/
def described (s : State) (tid : Nat) (d : Desc) : Prop :=
  let k := s.self
  tid < 2 ^ bits k.tdtroot 0 5 ∧ d.ok tid (bits k.tdtroot 56 8) = true ∧
  ∃ e, s.ms.desc.find? (fun e => e.cluster == clusterOf s.cur && e.tenant == k.tk.tenant && e.asid == k.asid &&
    e.tid.toNat == tid) = some e ∧ d = ⟨e.dw⟩

/-- A tensor form names tile n of a described tensor: its coordinates lie inside the grid (R269). -/
def namesTile (s : State) (f : TT) (d : Desc) (n : Nat) : Prop :=
  let coords := tileCoordsOf (s.self.rd f.xb) (s.self.rd f.xc)
  described s (bits (s.self.rd f.xa) 48 16) d ∧ (∀ i < 5, co coords i < d.grid i) ∧ n = d.tileNumber coords

/-- What TLD and TST name: xa, xb, xc read, the tensor's descriptor well formed in the cluster's cache, the coordinates inside
its grid, and the count of lines inside its tiles (R269, R270). -/
def namesLines (s : State) (f : TT) (d : Desc) (first : Nat) : Prop :=
  ready s [f.xa, f.xb, f.xc] ∧ namesTile s f d first ∧ first + f.uvalue ≤ d.tiles ∧ 0 < f.uvalue

/-- The bytes x of a line as elements of the tensor: bits [7:6] of an E3M2 or E2M3 element are zero (R49). -/
def cleaned (d : Desc) (b x v : Nat) : Prop :=
  v < 2 ^ (8 * b) ∧ ∀ i < b, fld v (8 * i) 8 = if d.et = some .e3m2 ∨ d.et = some .e2m3 then fld x (8 * i) 6 else fld x (8 * i) 8

end Sys2Proof.Claim

/-- R269 to R271, R90: TLD of a register fills its elements line by line, from lines that the L1 data cache holds, and leaves
the others; of a tile it fills the bytes and leaves the tile READY with the descriptor's type; TST sends each line to its home in
order, from either, and what then stands at the home of line first + j, resident and alone in its data entry, is the line's
bytes, dirty, at the positions inside the tensor, and what stood there before at the others; a count of zero does nothing. -/
def Obligations.TileTransfers : Prop := ∀ (f : TT) (s : State) (d : Desc) (first : Nat) (v : Nat → Nat) (σ : Nat → State),
  let k := s.self
  let t := f.t.toNat
  let e := k.tile t
  let w := d.w
  let p := d.tileSize
  let b := d.tileBytes
  let n := extSize f.ext
  let tid := bits (k.rd f.xa) 48 16
  let args : LineArgs := ⟨s.ctxOf s.cur, d, tid, first, f.uvalue, p, b⟩
  let inRegister := f.mode.getLsbD 0 = false ∧ t < 42 ∧ k.ew ≤ 4 ∧ ewWidth k.ew = w ∧
    f.uvalue * p ≤ (if t < 32 then k.capBits / w else 1024) ∧ k.capBits ≤ 262144 ∧ k.vec.state t = .full
  let inTile := f.mode.getLsbD 0 = true ∧ e.v = true ∧ e.tenant = k.tk.tenant ∧ f.uvalue * b ≤ e.size.toNat * 4096
  (f.uvalue = 0 → ready s [f.xa, f.xb, f.xc] → exec (.tld f) s = did s n id ∧ exec (.tst f) s = did s n id) ∧
  (namesLines s f d first → k.vstart = 0 →
    (∀ j < f.uvalue, ∃ l, k.l1Line (d.key (s.ctxOf s.cur) tid (first + j)) = some l ∧ cleaned d b (lineRead l.data 0 b) (v j)) →
    (inRegister → ∃ u, exec (.tld f) s = .next u ∧ onlyVector s u ∧ onlyCsrs k u.self [0x003] ∧
      onlyRegister k u.self t ∧ u.self.csrAt 0x003 = 0 ∧ u.self.pc = (k.retire n).pc ∧
      ∀ i, w * i + w ≤ (if t < 32 then 262144 else 65536) → elem u.self t w i =
        if i < f.uvalue * p then fld (v (i / p)) (w * (i % p)) w else elem k t w i) ∧
    (inTile → e.st = .empty ∨ (e.st = .ready ∨ e.st = .poisoned) ∧ e.readers = 0 →
      ∃ u, exec (.tld f) s = .next (s.modSelf fun _ => u) ∧ u.csrAt 0x003 = 0 ∧ u.vec = k.vec ∧ u.x = k.x ∧
        u.pc = (k.retire n).pc ∧
        u.tile t = { e with st := .ready, susp := false, pk := false, p := 0, conf := false, pot := false
                            et := BitVec.ofNat 5 (bits (d.at_ 0) 55 5) } ∧
        (∀ j < f.uvalue, u.scratch.read (e.start + j * b) b = v j % 2 ^ (8 * b)) ∧
        ∀ a, a < e.start ∨ e.start + f.uvalue * b ≤ a → u.scratch.get a = k.scratch.get a)) ∧
  (namesLines s f d first → k.vstart = 0 → k.vec.poison = [] → k.scratchPoison = [] → σ 0 = s →
    (∀ j < f.uvalue, lineStore args j (pure (v j)) (σ j) = .ok () (σ (j + 1)) ∧ (σ (j + 1)).self.vec = k.vec ∧
      (σ (j + 1)).self.tiles = k.tiles ∧ (σ (j + 1)).self.scratch = k.scratch ∧ (σ (j + 1)).self.scratchPoison = []) →
    (inRegister → (∀ j < f.uvalue, v j = fld (k.vec.bitsOf t) (w * (j * p)) (w * p)) →
      exec (.tst f) s = .next ((σ f.uvalue).modSelf fun k => (k.setCsr 0x003 0).retire n)) ∧
    (inTile → e.st = .ready → e.readers.toNat < 255 →
      (∀ j < f.uvalue, v j = k.scratch.read (e.start + j * b) b) →
      exec (.tst f) s = .next ((σ f.uvalue).modSelf fun k => (k.setCsr 0x003 0).retire n))) ∧
  (∀ j x y h, let key := d.key (s.ctxOf s.cur) tid (first + j)
    namesLines s f d first → j < f.uvalue → d.ro = false → s.ms.gated = [] → s.ms.home key = some h →
    s.ms.paired h = false → h.runs = d.runs (d.tileCoords (first + j)) → cleaned d b x y →
    ∃ u g, lineStore args j (pure x) s = .ok () u ∧ u.ms.home key = some g ∧ ∀ i < b,
      if h.runs.any fun r => r.1 ≤ i && i < r.1 + r.2.1 then
        lineRead g.data i 1 = fld y (8 * i) 8 ∧ g.dirty.getLsbD i = true
      else lineRead g.data i 1 = lineRead h.data i 1 ∧ g.dirty.getLsbD i = h.dirty.getLsbD i)

/-- R94, R272, R280: VPLN packs each row of the shape into group records at its record index, and its tile becomes READY,
packed, with the number of planes and the source type; TILE_STATE where a later record meets a tile packed otherwise. -/
def Sys2Proof.Claim.PlanePacking : Prop := ∀ (f : TT) (s : State) (src : ET), ET.ofCode f.mode.toNat = some src → src ≠ .wac →
  let k := s.self
  let t := f.t.toNat
  let e := k.tile t
  let planes := f.uvalue % 32 + 1
  let vn := fld f.uvalue 5 5
  let w := ETwidth src
  let first := (k.rd f.xb).toNat
  let groups := (k.vcols + 31) / 32
  let b := 4 * (planes + 2)
  let value := fun r c => if c < k.vcols then elemVal src (elem k vn w (r * k.vcols + c)) else .num false 0 0
  let packed := fun r g => packGroup planes (topExponent src) ((List.range 32).map fun j => value r (32 * g + j))
  let raised := fun r c => flagIf (((packed r (c / 32)).2[c % 32]?).any fun q => q.2.2) flagNX |||
    flagIf (match value r c with
      | .num .. => false
      | _ => true) flagNV
  let held := (first + k.vrows * groups) * b ≤ e.size.toNat * 4096
  let same := k.rd f.xb = 0 ∨ e.pk = true ∧ e.p.toNat = planes ∧ e.et.toNat = src.code
  ready s [f.xb] → wholes s (ETew src) [BitVec.ofNat 7 vn] → e.v = true → e.tenant = k.tk.tenant → held →
  (¬same → k.tf = false → exec (.vpln f) s = trapped s 9 (tileValue t e 0) k.pc) ∧
  (same → (∀ r < k.vrows, ∀ c < k.vcols, k.trapping (raised r c) = false) →
    e.st = .empty ∨ (e.st = .ready ∨ e.st = .poisoned) ∧ e.readers = 0 →
    ∃ u, exec (.vpln f) s = .next (s.modSelf fun _ => u) ∧ u.vec = k.vec ∧ u.x = k.x ∧
      u.pc = (k.retire (extSize f.ext)).pc ∧ onlyCsrs k u [0x008, 0x00A, 0x00B] ∧
      u.tile t = { e with st := .ready, susp := false, pk := true, p := BitVec.ofNat 5 planes
                          et := BitVec.ofNat 5 src.code, conf := false, pot := false } ∧
      (∀ c < 256, c ≠ t → u.tile c = k.tile c) ∧
      (∀ r < k.vrows, ∀ g < groups, u.scratch.read (e.start + (first + r * groups + g) * b) b =
        groupRecord planes (packed r g) % 2 ^ (8 * b)) ∧
      ∀ a, a < e.start + first * b ∨ e.start + (first + k.vrows * groups) * b ≤ a → u.scratch.get a = k.scratch.get a)

/-- R94: the fields of a group record: the exponent in its first 16 bits, the signs in word 1, plane p in word p + 2. -/
def Sys2Proof.Claim.GroupRecords : Prop := ∀ (planes : Nat) (g : Int × List (Nat × Bool × Bool)),
  g.2.length = 32 → planes ≤ 24 → (∀ q ∈ g.2, q.1 < 2 ^ planes) →
  let r := groupRecord planes g
  fld r 0 16 = wrap 16 g.1 ∧ fld r 16 16 = 0 ∧ r < 2 ^ (32 * (planes + 2)) ∧
  ∀ j (h : j < g.2.length), r.testBit (32 + j) = (g.2[j]).2.1 ∧
    ∀ p < planes, r.testBit (32 * (p + 2) + j) = (g.2[j]).1.testBit p

/-- R94, R272, R280: plane packing and the records it writes. -/
def Obligations.PackedPlanes : Prop := Sys2Proof.Claim.PlanePacking ∧ Sys2Proof.Claim.GroupRecords


/-! ### Tensor-cache instructions -/

namespace Sys2Proof.Claim

/-- An engine instruction has allocated handle h, the lowest FREE entry, and done f, with the work for its engine; it waits while
no entry is FREE, and traps ENGINE when all are DONE (R180). -/
def allocates (s : State) (i : Instr) (size : Nat) (kind : BitVec 3) (f : BitVec 8 → Core → Core) : Prop :=
  (∀ h : BitVec 8, (s.self.handle h).st = .free → (∀ g < h.toNat, (s.self.handle (BitVec.ofNat 8 g)).st ≠ .free) →
    exec i s = did s size fun k => f h (k.setHandle h ⟨.busy, kind, 0, 0⟩)) ∧
  ((∀ h : BitVec 8, (s.self.handle h).st = .done) → s.self.tf = false →
    exec i s = trapped s 0x0E (toWord (2 ^ 63)) s.self.pc) ∧
  ((∀ h : BitVec 8, (s.self.handle h).st ≠ .free) → (∃ h : BitVec 8, (s.self.handle h).st = .busy) →
    exec i s = waitsFor s .resource)

/-- The same with the index of the entry in a result register. -/
def launches (s : State) (i : Instr) (size : Nat) (r : BitVec 6) (kind : BitVec 3) (f : BitVec 8 → Core → Core) : Prop :=
  allocates s i size kind fun h k => (f h k).wr r (h.setWidth 64)

/-- Only the memory system and the caches of cores differ, beside the core's reply, program counter and counts. -/
def onlyCaches (s t : State) (size : Nat) (f : Core → Core) : Prop :=
  t.self = { (f s.self).retire size with cache := t.self.cache } ∧
  (∀ c, c ≠ s.cur → t.core c = { s.core c with cache := (t.core c).cache }) ∧
  t = { s with cores := t.cores, ms := t.ms }

end Sys2Proof.Claim

/-- R101, R104, R273: TDESC returns RANGE beyond the table, MALFORMED with nothing written, or OK with the descriptor, under
the entry's own generation, in the entry's 128 bytes, once its thread has no contribution to a pot on its way (R156); TDESC.RF drops every cached copy of an entry. An address that is not
128-aligned traps MISALIGN. -/
def Obligations.DescriptorForms : Prop := ∀ (f : TT) (s : State) (e : TlbEntry) (dw : List Word),
  let k := s.self
  let tid := bits (k.rd f.xa) 48 16
  let b := k.rd f.xb
  let inTable := tid < 2 ^ bits k.tdtroot 0 5
  let entry := bits k.tdtroot 12 40 * 4096 + 128 * tid
  let place := s.localize entry
  let pa := s.leafAddr e.pte e.level b
  let gen := (s.ms.homeRead place 8).2.1 % 2 ^ 16
  let new : Desc := ⟨setBits ((dw[0]?).getD 0) 0 16 gen :: dw.drop 1⟩
  let copies := fun (t : State) => ∀ x ∈ t.ms.desc, ¬(x.tenant = k.tk.tenant ∧ x.asid = k.asid ∧ x.tid = BitVec.ofNat 16 tid)
  let answers := fun v => ∃ t, exec (.tdesc f) s = .next t ∧ t.ms = s.ms ∧ onlyCaches s t 8 (replying f.xc v)
  slotFree s f.xc →
  (ready s [f.xa, f.xb] → b.toNat % 128 ≠ 0 → k.tf = false → exec (.tdesc f) s = trapped s 4 b k.pc) ∧
  (ready s [f.xa] → ¬inTable → exec (.tdescRf f) s = replied s 8 f.xc 2) ∧
  (ready s [f.xa] → inTable → ∃ t, exec (.tdescRf f) s = .next t ∧ copies t ∧
    t = { s with ms := { s.ms with desc := t.ms.desc }, cores := t.cores } ∧ t.ms.desc.Sublist s.ms.desc ∧
    onlyCaches s t 8 (replying f.xc 0)) ∧
  (ready s [f.xa, f.xb] → b.toNat % 128 = 0 → dw.length = 16 →
    (∀ i < 16, mapped s (b + toWord (8 * i)) { kind := 0, n := 8, noMmio := true } e ∧
      s.leafAddr e.pte e.level (b + toWord (8 * i)) = pa + 8 * i ∧ (dw[i]?).getD 0 = toWord (s.ms.mem.read (pa + 8 * i) 8)) →
    uncached s e pa = true → pteFmt e.pte = 0 → atRest s pa 128 none → s.ms.poison = [] →
    (¬inTable → answers 2) ∧
    (inTable → s.inTables k.tk.tenant entry 128 = true → place + 128 < 2 ^ 42 → atRest s place 128 none →
      (new.ok tid (bits k.tdtroot 56 8) = false → answers 1) ∧
      (new.ok tid (bits k.tdtroot 56 8) = true → s.sending s.cur = false → ∃ t, exec (.tdesc f) s = .next t ∧ copies t ∧
        onlyCaches s t 8 (replying f.xc 0) ∧ (∀ i < 16, t.ms.mem.read (place + 8 * i) 8 = (new.at_ i).toNat) ∧
        ∀ a, a < place ∨ place + 128 ≤ a → t.ms.mem.get a = s.ms.mem.get a)))

/-- R273, R274: TNBR always completes and changes caches and the memory system alone; where the lines of every tile within the
radius stand at their homes no byte of memory changes, and without a usable descriptor nothing does. THALO returns the number
of the tiles within HALO of the given one, but that one, of which the issuer's cluster holds a replica of the current
generation that it may read when the instruction has completed. -/
def Sys2Proof.Claim.NeighboursAndHalos : Prop := ∀ (f : TT) (s : State) (d : Desc) (n : Nat),
  let k := s.self
  let c := s.ctxOf s.cur
  let tid := bits (k.rd f.xa) 48 16
  let coords := tileCoordsOf (k.rd f.xb) (k.rd f.xc)
  (ready s [f.xa, f.xb, f.xc] → ∃ t, exec (.tnbr f) s = .next t ∧ onlyCaches s t (extSize f.ext) id ∧
    (described s tid d → s.ms.gated = [] → (∀ u ∈ tilesAround d coords f.mode (fun _ => f.value.toNat) 256,
        s.ms.home (d.key c tid (d.tileNumber u)) ≠ none) → t.ms = { s.ms with homes := t.ms.homes, replicas := t.ms.replicas } ∧
      ∀ key, t.ms.home key = s.ms.home key)) ∧
  (ready s [f.xa, f.xb, f.xc] → (∀ x t, descWell c tid 0 0 s ≠ .ok x t) →
    exec (.tnbr f) s = did s (extSize f.ext) id) ∧
  (ready s [f.xa, f.xb] → slotFree s f.xc → namesTile s f d n →
    ∃ t held, exec (.thalo f) s = .next t ∧ onlyCaches s t 8 (replying f.xc (toWord held)) ∧
      held = ((tilesAround d coords f.mode d.halo (15 * 31 ^ 5)).filter (· ≠ coords)).countP (fun u =>
        t.ms.replicas.any fun r => r.cluster == clusterOf s.cur && r.key == d.key c tid (d.tileNumber u) &&
          ((t.self.cache.floors[r.level]?).getD 0 ≤ r.epoch)) ∧
      (d.repl = false → t = s.modSelf (fun k => (replying f.xc (toWord held) k).retire 8)))

/-- R111, R112, R181, R275: TINV advances the entry's generation by one modulo 2^16, returns it and retires the lines of the
older ones; TFLUSH posts a flush under a handle of KIND 2; TPROBE returns the probe word, or bit 63 alone where the tile is
not usable. -/
def Sys2Proof.Claim.TensorGenerations : Prop := ∀ (f : TT) (s : State) (d : Desc) (n : Nat),
  let k := s.self
  let c := s.ctxOf s.cur
  let tid := bits (k.rd f.xa) 48 16
  let coords := tileCoordsOf (k.rd f.xb) (k.rd f.xc)
  let place := s.localize (bits k.tdtroot 12 40 * 4096 + 128 * tid)
  let gen := s.ms.mem.read place 8 % 2 ^ 16
  let next : BitVec 16 := BitVec.ofNat 16 (gen + 1)
  (ready s [f.xa] → slotFree s f.xc → described s tid d → place + 8 < 2 ^ 42 → atRest s place 8 none →
    s.ms.poison = [] → (∀ h ∈ s.ms.homes, ∀ m, h.key ≠ .tensor c.tenant c.asid (BitVec.ofNat 16 tid) next m) →
    ∃ t, exec (.tinv f) s = .next t ∧ onlyCaches s t 8 (replying f.xc (next.setWidth 64)) ∧
      t.ms.mem.read place 2 = next.toNat ∧
      (∀ a, a < place ∨ place + 2 ≤ a → t.ms.mem.get a = s.ms.mem.get a) ∧
      (∀ x ∈ t.ms.desc, ¬(x.tenant = c.tenant ∧ x.asid = c.asid ∧ x.tid = BitVec.ofNat 16 tid)) ∧
      ∀ h ∈ s.ms.homes, ∀ g m, h.key = .tensor c.tenant c.asid (BitVec.ofNat 16 tid) g m → g ≠ next →
        (c.tenant, c.asid, BitVec.ofNat 16 tid, g) ∈ t.ms.retired) ∧
  (ready s [f.xa] → slotFree s f.xc → described s tid d → allocates s (.tflush f) 8 2 fun h k =>
    let o : FlushOp := ⟨h, c.tenant, c.asid, BitVec.ofNat 16 tid, k.tdtroot, k.ptroot, !c.user, false⟩
    replying f.xc (h.setWidth 64) (({ k with eng := { k.eng with flushes := k.eng.flushes ++ [o] } }).enterStream h)) ∧
  (ready s [f.xa, f.xb] → slotFree s f.xc →
    ((∀ x t, tileNamed c tid coords 0 s ≠ .ok x t) → exec (.tprobe f) s = replied s 8 f.xc (toWord (2 ^ 63))) ∧
    (namesTile s f d n → ∃ w : Word, exec (.tprobe f) s = replied s 8 f.xc w ∧
      let key := d.key c tid n
      (w.getLsbD 0 = true ↔ s.ms.home key ≠ none) ∧ (w.getLsbD 1 = true ↔ s.replica s.cur key ≠ none) ∧
      (w.getLsbD 2 = true ↔ k.l1Line key ≠ none) ∧ (w.getLsbD 3 = true ↔ ∃ h, s.ms.home key = some h ∧ h.dirty ≠ 0) ∧
      bits w 16 16 = d.gen.toNat ∧ w.getLsbD 63 = false))

/-- R111, R112, R273 to R275: neighbours, halos, generations, flushes and probes. -/
def Obligations.TensorCacheForms : Prop := Sys2Proof.Claim.NeighboursAndHalos ∧ Sys2Proof.Claim.TensorGenerations


/-! ### The copy engine and the matrix engine -/

namespace Sys2Proof.Claim

/-- The copy that a form issues (R297, R298): its fields from the descriptor, the tile sides and what they were. -/
def issuedCopy (s : State) (f : EN) (kind : BitVec 2) (d : Nat → Word) : CopyOp :=
  let k := s.self
  { copyOf (s.ctxOf s.cur) kind (k.rd f.xa) (k.rd f.xb) d k.rm with
    srcTile := if f.flags.getLsbD 0 then some f.opA else none
    dstTile := if f.flags.getLsbD 1 then some f.opB else none
    keep := f.flags.getLsbD 2 }

/-- A copy joins the execute stream, on its way to the inbox of its engine (R180). -/
def queueCopy (o : CopyOp) (h : BitVec 8) (k : Core) : Core :=
  ({ k with eng := { k.eng with copies := k.eng.copies ++ [{ o with h := h }] } }).enterStream h

/-- The descriptor dwords d stand, aligned, in a line that the L1 data cache holds, on a translated page (R298). -/
def heldDwords (s : State) (at_ : Word) (d : Nat → Word) : Prop :=
  ∃ e l, (∀ i < 4, let a := at_ + toWord (8 * i); let pa := s.leafAddr e.pte e.level a
      mapped s a { kind := 0, n := 8, noMmio := true } e ∧ rawReadOk 8 e.pte pa = true ∧ uncached s e pa = false ∧
      s.self.l1Line (lineKey s e pa) = some l ∧ d i = toWord (lineRead l.data (pa % 256) 8)) ∧ ∀ i, 4 ≤ i → d i = 0

/-- A tile that a fill takes, a reader takes, a drain takes (R90). -/
def filled (e : Tile) : Prop := e.st = .empty ∨ (e.st = .ready ∨ e.st = .poisoned) ∧ e.readers = 0

end Sys2Proof.Claim

/-- R90, R180, R297 to R299: COPY, COPY.DEC and COPY.ENC post a copy under a handle of KIND 0: a misshaped one is posted
refused and claims nothing; else a tile destination is FILLING with the type the copy gives it, a tile source DRAINING or
with one reader more. A descriptor address that is not 32-aligned traps MISALIGN. That a misshaped copy, or one without room, is
posted refused whatever state its tiles are in is the model's choice (log 63). -/
def Sys2Proof.Claim.CopyIssue : Prop := ∀ (f : EN) (s : State) (d : Nat → Word),
  let k := s.self
  let at_ := k.rd f.xc
  let forms := fun (claim : Instr → BitVec 2 → Prop) =>
    claim (.copy f) 0 ∧ claim (.copyDec f) 1 ∧ claim (.copyEnc f) 2
  let src := k.tile f.opA.toNat
  let dst := k.tile f.opB.toNat
  let mine := fun (e : Tile) => e.v = true ∧ e.tenant = k.tk.tenant
  ready s [f.xa, f.xb, f.xc, f.xd] →
  (at_.toNat % 32 ≠ 0 → k.tf = false → forms fun i _ => exec i s = trapped s 4 at_ k.pc) ∧
  (at_.toNat % 32 = 0 → heldDwords s at_ d ∨ readDwords (s.ctxOf s.cur) at_ 4 none s = .ok d s →
    forms fun i kind => let o := issuedCopy s f kind d
      (o.misshaped (d 2) = true → launches s i 8 f.xd 0
        (queueCopy { o with refused := some 9, srcTile := none, dstTile := none })) ∧
      (o.misshaped (d 2) = false → o.mode ≠ 2 → o.noRoom k = true → launches s i 8 f.xd 0
        (queueCopy { o with refused := some 10, srcTile := none, dstTile := none })) ∧
      (o.misshaped (d 2) = false → o.mode ≠ 2 → o.noRoom k = false →
        (o.srcTile = none → o.dstTile = none → launches s i 8 f.xd 0 (queueCopy o)) ∧
        (o.srcTile = none → o.dstTile = some f.opB → mine dst → filled dst → launches s i 8 f.xd 0 fun h k =>
          queueCopy { o with prevDst := dst } h (k.setTile f.opB.toNat { dst with
            st := .filling, susp := false, pk := false, p := 0, et := BitVec.ofNat 5 o.etCode
            conf := decide (kind = 1), pot := false })) ∧
        (o.srcTile = some f.opA → o.dstTile = none → mine src → src.st = .ready → o.keep = false → src.readers = 0 →
          launches s i 8 f.xd 0 fun h k => queueCopy { o with prevSrc := src, conf := src.conf } h
            (k.setTile f.opA.toNat { src with st := .draining, susp := false })) ∧
        (o.srcTile = some f.opA → o.dstTile = none → mine src → src.st = .ready → o.keep = true →
          src.readers.toNat < 255 → launches s i 8 f.xd 0 fun h k => queueCopy { o with prevSrc := src, conf := src.conf } h
            (k.setTile f.opA.toNat { src with readers := src.readers + 1 }))) ∧
      (o.misshaped (d 2) = false → o.mode = 2 → mine dst → filled dst →
        ∀ q, peekFmt (s.ctxOf s.cur) o.src s = .ok q s → ({ o with fmt := q } : CopyOp).misshaped (d 2) = false →
        ({ o with fmt := q } : CopyOp).noRoom k = false →
        launches s i 8 f.xd 0 fun h k => queueCopy { o with prevDst := dst } h (k.setTile f.opB.toNat { dst with
          st := .filling, susp := false, pk := true, p := BitVec.ofNat 5 o.planes, et := BitVec.ofNat 5 o.etCode
          conf := decide (kind = 1), pot := false })))

/-- R181, R296, R301, R357: the waits and the status reads of both engines; while an ENGINE event of the handle is held a wait
returns the entry at once as it stands; CWAIT.END first ends a suspended copy with its recorded status. -/
def Sys2Proof.Claim.CompletionForms : Prop := ∀ (f : EN) (s : State),
  let k := s.self
  let x := k.rd f.xa
  let h := BitVec.ofNat 8 x.toNat
  statusForm s (.cstat f) 8 f.xd f.xa 0 ∧ statusForm s (.mstat f) 8 f.xd f.xa 1 ∧
  (k.heldEvent x = false → f.flags.getLsbD 0 = false ∨ (∀ o ∈ k.eng.copies, o.phase ≠ .suspended) →
    waitForm s (.cwait f) 8 f.xd f.xa 0) ∧
  (k.heldEvent x = false → waitForm s (.mwait f) 8 f.xd f.xa 1) ∧
  (k.heldEvent x = true → ready s [f.xa] → slotFree s f.xd → ∀ e,
    (names k x 0 e → f.flags.getLsbD 0 = false → exec (.cwait f) s = replied s 8 f.xd e.word) ∧
    (names k x 1 e → exec (.mwait f) s = replied s 8 f.xd e.word)) ∧
  (∀ o e, k.eng.copies = [o] → o.h = h → o.phase = .suspended → o.reply = 0 → o.rep = none → f.flags.getLsbD 0 = true →
    k.heldEvent x = false → names k x 0 e → ready s [f.xa] → slotFree s f.xd →
    ∃ u : Core, exec (.cwait f) s = .next (s.modSelf fun _ => u) ∧ u.eng.copies = [] ∧ u.handle h = Handle.free ∧
      u.replies = k.replies ++ [⟨[(f.xd, ({ e with st := .done, detail := BitVec.ofNat 32 o.u } : Handle).word)]⟩])

namespace Sys2Proof.Claim

/-- A copy is the only one of its core: it runs from its first unit, with no reply word. -/
def alone (s : State) (c : CoreId) (o : CopyOp) : Prop :=
  (s.core c).eng.copies = [o] ∧ o.phase = .running ∧ o.rows = 1 ∧ o.reply = 0 ∧ o.rep = none ∧ o.refused = none ∧ o.u = 0 ∧
  o.old = [] ∧ o.resumed = false ∧ o.auth = none ∧ o.fmt = none ∧ 0 < o.rowLen

/-- The same, and nothing that it may read is poisoned. -/
def copying (s : State) (c : CoreId) (o : CopyOp) : Prop :=
  alone s c o ∧ (s.core c).scratchPoison = [] ∧ s.ms.poison = [] ∧ ∀ h ∈ s.ms.homes, h.poison = 0

/-- The n bytes from a virtual address stand in one page of format fmt that an entry of the L1 TLB translates for the copy, at
rest where they are homed, and the core's L1 data cache holds none of their lines. -/
def inPage (s : State) (c : CoreId) (o : CopyOp) (kind : Nat) (a : Word) (n fmt : Nat) (e : TlbEntry) : Prop :=
  let k := s.core c
  let pa := s.leafAddr e.pte e.level a
  a.toNat % 4096 + n ≤ 4096 ∧ pteFmt e.pte = fmt ∧
  (∀ i m, 0 < m → i + m ≤ n →
    mappedFor s (o.ctx k.tk.tenant c) (a + toWord i) { kind := kind, n := m, noMmio := true } e) ∧
  ∀ i < n, placedFor s k.tk.tenant e (pa + i) 1 ∧
    (uncached s e (pa + i) = false → k.l1Line (keyFor k.tk.tenant e (pa + i)) = none)

/-- Where a side of a copy begins: in the scratchpad, or in memory. -/
def sideAt (s : State) (k : Core) (tile : Option (BitVec 8)) (a : Word) (e : TlbEntry) : Nat :=
  match tile with
  | some t => (k.tile t.toNat).start + a.toNat
  | none => s.leafAddr e.pte e.level a

/-- Byte i from there. -/
def sideByte (s : State) (c : CoreId) (tile : Option (BitVec 8)) (at_ i : Nat) : Nat :=
  if tile.isSome then (s.core c).scratch.read (at_ + i) 1 else byteAt s (at_ + i)

/-- The copy has ended with a status: its entry is DONE, and of its core only the scratchpad, tiles, engines and caches differ. -/
def copyEnded (s t : State) (c : CoreId) (o : CopyOp) (status : BitVec 4) : Prop :=
  let k := s.core c
  let u := t.core c
  u.eng.copies = [] ∧ (u.handle o.h).st = .done ∧ (u.handle o.h).status = status ∧
  u = { k with scratch := u.scratch, tiles := u.tiles, eng := u.eng, cache := u.cache } ∧
  ∀ d, d ≠ c → t.core d = { s.core d with cache := (t.core d).cache }

end Sys2Proof.Claim

/-- R90, R299, R300, R302: a BYTES copy of one row, between tiles and pages that do not meet, ends OK with its DETAIL the number of
bytes: they stand at the destination and nothing else of scratchpad and memory has changed; the destination tile is READY, the
drained source EMPTY, a kept one has a reader less. -/
def Sys2Proof.Claim.CopyMovesBytes : Prop := ∀ (c : CoreId) (s : State) (o : CopyOp) (e f : TlbEntry),
  let k := s.core c
  let n := o.rowLen
  let from_ := sideAt s k o.srcTile o.src e
  let into := sideAt s k o.dstTile o.dst f
  let outside := fun a => a < into ∨ into + n ≤ a
  copying s c o → o.kind = 0 → o.mode = 0 → (o.dstTile.isSome = true ∨ o.conf = false ∨ pteTen f.pte = true) →
  (if o.srcTile.isSome then o.src.toNat < 2 ^ 23 else inPage s c o 0 o.src n 0 e) →
  (if o.dstTile.isSome then o.dst.toNat < 2 ^ 23 else inPage s c o 1 o.dst n 0 f) →
  (o.srcTile.isSome = o.dstTile.isSome → from_ + n ≤ into ∨ into + n ≤ from_) → (o.srcTile = none ∨ o.srcTile ≠ o.dstTile) →
  ∃ t, exec (.copyComplete c o.h) s = .next t ∧ copyEnded s t c o 0 ∧
    let u := t.core c
    (u.handle o.h).detail = BitVec.ofNat 32 n ∧
    (∀ i < n, sideByte t c o.dstTile into i = sideByte s c o.srcTile from_ i) ∧
    (∀ a, o.dstTile = none ∨ outside a → u.scratch.get a = k.scratch.get a) ∧
    (∀ a < 2 ^ 42, o.dstTile ≠ none ∨ outside a → byteAt t a = byteAt s a) ∧
    (∀ d, o.dstTile = some d → u.tile d.toNat = { (k.tile d.toNat) with st := .ready, susp := false }) ∧
    ∀ d, o.srcTile = some d → u.tile d.toNat = if o.keep then { (k.tile d.toNat) with readers := (k.tile d.toNat).readers - 1 }
      else { (k.tile d.toNat) with st := .empty, susp := false }

namespace Sys2Proof.Claim

/-- The byte and the nibble, in its page, of element i of a data stream that begins at byte off (R70, R298). -/
def streamPlace (fmt size off i : Nat) : Nat × Nat :=
  if fmt = 3 then ((2 * off + i) / 2, i % 2)
  else (off + (if fmt = 7 then i / 8 else i) * size, 0)

/-- The value of element i of that stream, elements of the type t where the page has no format: with its scale on pages of FMT 1
to 7 (R70 to R75). -/
def streamed (s : State) (k : Core) (e : TlbEntry) (fmt : Nat) (t : ET) (page off i : Nat) : FVal :=
  let size := if fmt = 0 then bytesOf t else if fmt = 7 ∨ fmt = 8 then 2 else 1
  let p := streamPlace fmt size off i
  let raw := bytesAt s (page + p.1) size
  if fmt = 0 then elemVal t raw
  else
    let v := fmtVal k fmt (if fmt = 3 then fld raw (4 * p.2) 4 else raw) (i % 8)
    if fmt = 8 then v else scaleVal (bytesAt s (page + scaleByte fmt (pteBlk e.pte) p.1 p.2) 1) v

end Sys2Proof.Claim

/-- R74, R75, R280, R289, R298: of one row in the data area of one page, DECODE leaves each element's value, converted to its type, in
the tile, and PACK of a row of K the group records of its values, or on a KC2 page the codebook records; either leaves the
tile READY, PACK with the native type of the page or that of the descriptor. -/
def Sys2Proof.Claim.CopyConverts : Prop := ∀ (c : CoreId) (s : State) (o : CopyOp) (e : TlbEntry) (fmt : Nat) (td : BitVec 8),
  let k := s.core c
  let dst := k.tile td.toNat
  let n := o.rowLen
  let off := o.src.toNat % 4096
  let pageVa := o.src - toWord off
  let page := s.leafAddr e.pte e.level pageVa
  let area := if 1 ≤ fmt ∧ fmt ≤ 7 then 3968 else 4096
  let et := o.packET
  let size := if fmt = 0 then bytesOf et else if fmt = 7 ∨ fmt = 8 then 2 else 1
  let val := streamed s k e fmt et page off
  let p : CopyOp := { o with fmt := some fmt }
  let record := fun (u : Core) (b i : Nat) => u.scratch.read (dst.start + (o.dst.toNat + i) * b) b
  let done := fun (t : State) (et : BitVec 5) => exec (.copyComplete c o.h) s = .next t ∧ copyEnded s t c o 0 ∧
    (t.core c).tile td.toNat = { dst with st := .ready, susp := false, et := et } ∧ t.ms.mem = s.ms.mem
  copying s c o → o.kind = 0 → o.srcTile = none → o.dstTile = some td → fmt ≤ 8 → inPage s c o 0 pageVa 4096 fmt e →
  pteBlk e.pte ≤ (if fmt = 7 then 0 else 1) → off < area → (∀ i < n, (streamPlace fmt size off i).1 + size ≤ area) →
  (o.mode = 1 → 1 ≤ fmt → ∀ ty F, ET.ofCode o.etCode = some ty → ETflt ty = true → ETfmt ty = some F → ∃ t, done t dst.et ∧
    let into := dst.start + o.dst.toNat
    (∀ i < n, (t.core c).scratch.read (into + i * bytesOf ty) (bytesOf ty) = (F.convert o.rm false (val i)).1) ∧
    ∀ a, a < into ∨ into + n * bytesOf ty ≤ a → (t.core c).scratch.get a = k.scratch.get a) ∧
  (o.mode = 2 → o.byColumns = false → p.packable = true → p.noRoom k = false → p.total < 2 ^ 32 →
    ∃ t, done t (BitVec.ofNat 5 et.code) ∧
    (fmt ≠ 7 → let b := 4 * (o.planes + 2)
      ∀ i < (n + 31) / 32, record (t.core c) b i = groupRecord o.planes (packGroup o.planes (topExponent et)
        ((List.range 32).map fun j => if 32 * i + j < n then val (32 * i + j) else .num false 0 0)) % 2 ^ (8 * b)) ∧
    (fmt = 7 → ∀ i < n / 256,
      (∀ j < 32, fld (record (t.core c) 68 i) (16 * j) 16 = bytesAt s (page + off + 64 * i + 2 * j) 2) ∧
      fld (record (t.core c) 68 i) 512 32 = bytesAt s (page + scaleByte 7 0 (off + 64 * i) 0) 1) ∧
    ∀ a, a < dst.start + o.dst.toNat * p.packBytes ∨ dst.start + (o.dst.toNat + p.total) * p.packBytes ≤ a →
      (t.core c).scratch.get a = k.scratch.get a)

/-- R304, R305: COPY.DEC and COPY.ENC of a function outside RUN or without a key end TDI_LOST, those with a counter below NEXT or after
the last one REPLAY, and leave the tile as it was; else NEXT becomes the counter + 1. COPY.DEC then leaves the plaintext in a READY
tile where the tag matches, zeros in a POISONED one with TAGFAIL where not; COPY.ENC leaves ciphertext and tag at its destination
and its source EMPTY. -/
def Sys2Proof.Claim.ConfidentialCopies : Prop := ∀ (c : CoreId) (s : State) (o : CopyOp) (e : TlbEntry) (tile : BitVec 8),
  let k := s.core c
  let entry := k.tile tile.toNat
  let n := o.rowLen
  let func := k.tk.tenant.toNat + 1
  let decrypts := o.kind = 1 ∧ o.dstTile = some tile ∧ o.srcTile = none
  let encrypts := o.kind = 2 ∧ o.srcTile = some tile ∧ o.dstTile = none ∧ o.keep = false ∧ entry.st = .draining
  let ends := fun (status : BitVec 4) (t : State) => exec (.copyComplete c o.h) s = .next t ∧ copyEnded s t c o status
  let refused := fun status => ∃ t, ends status t ∧ ((t.core c).handle o.h).detail = 0 ∧ (t.core c).scratch = k.scratch ∧
    t.ms = s.ms ∧ t.sec = s.sec ∧ (t.core c).tile tile.toNat = if o.kind = 1 then o.prevDst else o.prevSrc
  copying s c o → o.mode = 0 → decrypts ∨ encrypts →
  (s.inRun func = false ∨ ((s.keySlot func o.slot).bind fun q => s.keyOf func q.handle) = none → refused 7) ∧
  ∀ q key, s.inRun func = true → s.keySlot func o.slot = some q → s.keyOf func q.handle = some key →
    ((key.next = none ∨ ∃ m, key.next = some m ∧ o.ctr.toNat < m.toNat) → refused 6) ∧
    ∀ m, key.next = some m → m.toNat ≤ o.ctr.toNat →
      let iv := (q.salt ++ o.ctr).toNat
      let next : Option Word := if o.ctr = BitVec.allOnes 64 then none else some (o.ctr + 1)
      let spent := fun (t : State) => t.sec = { s.sec with
        keys := s.sec.keys.map fun z => if z.func = func ∧ z.handle = q.handle then { key with next := next } else z }
      (decrypts → inPage s c o 0 o.src (n + 16) 0 e →
        let into := entry.start + o.dst.toNat
        let pa := s.leafAddr e.pte e.level o.src
        let bytes := fun i m => (List.range m).map fun j => byteAt s (pa + i + j)
        let left := fun (t : State) (i : Nat) => (t.core c).scratch.read (into + i) 1
        match gcmDecrypt key.key.toNat iv (bytes 0 n) (bytes n 16) with
        | some plain => ∃ t, ends 0 t ∧ spent t ∧ (∀ i < n, some (left t i) = plain[i]?) ∧
            (t.core c).tile tile.toNat = { entry with st := .ready, susp := false }
        | none => ∃ t, ends 5 t ∧ spent t ∧ (∀ i < n, left t i = 0) ∧
            (t.core c).tile tile.toNat = { entry with st := .poisoned, susp := false }) ∧
      (encrypts → inPage s c o 1 o.dst (n + 16) 0 e →
        let pa := s.leafAddr e.pte e.level o.dst
        let plain := (List.range n).map fun i => k.scratch.read (entry.start + o.src.toNat + i) 1
        ∃ t, ends 0 t ∧ spent t ∧ (t.core c).scratch = k.scratch ∧
          (∀ i < n + 16, some (byteAt t (pa + i)) = (gcmEncrypt key.key.toNat iv plain)[i]?) ∧
          (∀ a < 2 ^ 42, a < pa ∨ pa + n + 16 ≤ a → byteAt t a = byteAt s a) ∧
          (t.core c).tile tile.toNat = { entry with st := .empty, susp := false })

/-- Waits on handles, copies issued, and what copies leave. -/
def Obligations.CopiesAndHandles : Prop := Sys2Proof.Claim.CompletionForms ∧ Sys2Proof.Claim.CopyIssue ∧ Sys2Proof.Claim.CopyMovesBytes ∧ Sys2Proof.Claim.CopyConverts ∧ Sys2Proof.Claim.ConfidentialCopies


namespace Sys2Proof.Claim

/-- The operation that a multiply posts (R282, R283). -/
def issuedMatrix (k : Core) (f : EN) (kind : BitVec 2) : MatOp :=
  { h := 0, kind := kind, ra := k.rd f.xa, rb := k.rd f.xb, rc := if kind = 1 then k.rd f.xc else 0, ta := f.opA
    tb := f.opB, tm := f.fn, c := f.flags.extractLsb' 0 5, wac := f.flags.getLsbD 5, zc := f.flags.getLsbD 6
    m := (k.csrAt 0x010).toNat, n := (k.csrAt 0x011).toNat, k := (k.csrAt 0x012).toNat, wace := 0, gs := 0
    active := false, claims := [], fail := none, flags := 0 }

/-- R284, R291: the operation is posted under a handle of KIND 1: its tiles gain a reader each and its C registers become
EMPTY; one that a check refuses is posted with the tile refused and claims nothing. -/
def posts (s : State) (i : Instr) (xd : BitVec 6) (o : MatOp) (regs : List Nat) : Prop :=
  let k := s.self
  (∀ t ∈ o.tiles, let e := k.tile t.toNat
    e.v = true ∧ e.tenant = k.tk.tenant ∧ e.st = .ready ∧ e.readers.toNat < 250) →
  (∀ r ∈ regs, k.vec.state r = .full) → k.vec.poison = [] →
  (o.refused k = none → launches s i 8 xd 1 fun h k =>
    let k := o.tiles.foldl (fun (k : Core) t => k.modTile t.toNat fun e => { e with readers := e.readers + 1 }) k
    ({ k with vec := { k.vec with st := regs.foldl (fun v r => v.setIfInBounds r .empty) k.vec.st }
              eng := { k.eng with mats := k.eng.mats ++ [{ o with h := h, claims := o.tiles }] } }).enterStream h) ∧
  (∀ t, o.refused k = some t → launches s i 8 xd 1 fun h k =>
    ({ k with eng := { k.eng with mats := k.eng.mats ++ [{ o with h := h, fail := some t }] } }).enterStream h)

end Sys2Proof.Claim

/-- R180, R282 to R284, R290, R291: MMA, MMA.SP, MMA.CB and CBLD post their operation with the tile shape in force. An engine
command that finds the execute stream empty reaches its inbox at once, or stays in the stream while the inbox is full. -/
def Obligations.MatrixIssue : Prop := ∀ (f : EN) (s : State),
  let op := issuedMatrix s.self f
  (ready s [f.xa, f.xb, f.xd] → posts s (.mma f) f.xd (op 0) (op 0).cRegs ∧ posts s (.mmaCb f) f.xd (op 2) (op 2).cRegs) ∧
  (ready s [f.xa, f.xb, f.xc, f.xd] → posts s (.mmaSp f) f.xd (op 1) (op 1).cRegs) ∧
  (ready s [f.xa, f.xd] → posts s (.cbld f) f.xd
    ⟨0, 3, s.self.rd f.xa, 0, 0, f.opA, 0, 0, 0, false, false, 0, 0, 0, 0, 0, false, [], none, 0⟩ []) ∧
  ∀ (k : Core) (h : BitVec 8), k.eng.stream = [] →
    let kind := (k.handle h).kind.toNat
    let room := if kind = 0 then 32 else if kind = 1 then 4 else 16
    k.enterStream h = if ((k.eng.issued kind).filter (· ≠ h)).length < room then k
      else { k with eng := { k.eng with stream := [h] } }

namespace Sys2Proof.Claim

/-- The group record at an index of a tile (R94). -/
def recordOf (k : Core) (t : BitVec 8) (j : Nat) : Group :=
  let e := k.tile t.toNat
  let b := 4 * (e.p.toNat + 2)
  groupOf e.p.toNat (k.scratch.read (e.base.toNat * 4096 + j * b) b)

/-- K-group g of column n of B: of a group record, or of a codebook record, which gives none where its scale is NaN (R94, R289). -/
def columnGroup (o : MatOp) (k : Core) (n g : Nat) : Option Group :=
  if o.kind = 2 then
    let at_ := o.rb.toNat + n * ((o.k + 255) / 256) + g / 8
    codebookGroup k.eng.codebook.toNat (k.scratch.read ((k.tile o.tb.toNat).base.toNat * 4096 + at_ * 68) 68) g
  else some (recordOf k o.tb (o.rb.toNat + n * o.groups + g))

/-- Metadata word i of MMA.SP, and the low and the high index of a quad's code in it (R286). -/
def metaCode (o : MatOp) (k : Core) (i q : Nat) : Nat × Nat :=
  let c := fld (k.scratch.read ((k.tile o.tm.toNat).base.toNat * 4096 + 4 * (o.rc.toNat + i)) 4) (4 * (q % 8)) 4
  (c % 4, c / 4)

/-- A code that MMA.SP checks, of metadata word i, is not legal: low and high index of a quad inside TSK (R287). -/
def illegalWord (o : MatOp) (k : Core) (i : Nat) : Prop :=
  ∃ q < 8, 4 * (8 * (i % o.groups) + q) < o.k ∧ (metaCode o k i q).2 ≤ (metaCode o k i q).1

/-- What output (m, n) gains in group g, as an integer times a power of two; none where B's block has a NaN scale. A stored value
of a compressed group of MMA.SP meets the element of B at the position that its quad's code gives (R281, R286, R287). -/
def gained (o : MatOp) (k : Core) (m n g : Nat) : Option (Int × Int) :=
  if o.kind = 1 then
    let a := recordOf k o.ta (o.ra.toNat + m * ((o.k + 63) / 64) + g)
    let b := fun h => recordOf k o.tb (o.rb.toNat + n * o.groups + min (2 * g + h) (o.groups - 1))
    let e := min (b 0).exp (b 1).exp
    let product := fun j =>
      let q := 16 * g + j / 2
      let c := metaCode o k (m * o.groups + q / 8) q
      let kk := 4 * q + (if j % 2 = 0 then c.1 else c.2)
      let y := b (kk / 32 - 2 * g)
      if kk < o.k then (a.q[j]?).getD 0 * (y.q[kk % 32]?).getD 0 * 2 ^ (y.exp - e).toNat else 0
    some (((List.range 32).map product).sum, a.exp + e)
  else
    let a := recordOf k o.ta (o.ra.toNat + m * o.groups + g)
    (columnGroup o k n g).map fun b => (dot a.q b.q, a.exp + b.exp)

/-- One group added to an element: an FP32 sum rounded once to nearest, or a WAC96 one, quantised and saturated (R281). -/
def added (o : MatOp) (c s e : Int) : Int :=
  if o.wac then (accWac (signed 16 (o.wace.toNat % 65536)) c s e).1
  else ((fp32.deliver 0 (addVal 0 (fp32.decode c.toNat) (.num (s < 0) s.natAbs e))).1 : Int)

/-- Element i of C after the groups below g, from its value at the start (R285). -/
def accumulated (o : MatOp) (k : Core) (i : Nat) (start : Int) : Nat → Int
  | 0 => start
  | g + 1 => match gained o k (i / o.n) (i % o.n) g with
    | some t => added o (accumulated o k i start g) t.1 t.2
    | none => accumulated o k i start g

/-- Element i of the C of an operation. -/
def outputOf (o : MatOp) (k : Core) (i : Nat) : Int :=
  if o.wac then wac k (o.c.setWidth 7) i else elem k o.c.toNat 32 i

/-- The registers of C. -/
def outputs (o : MatOp) : List Nat := if o.wac then [o.c.toNat, o.c.toNat + 1, o.c.toNat + 2] else [o.c.toNat]

/-- A multiply that the engine performs from its start, alone in its engine, over tiles of its kind (R284). -/
def multiplying (k : Core) (o : MatOp) : Prop :=
  k.eng.mats = [o] ∧ o.active = true ∧ o.kind ≠ 3 ∧ o.fail = none ∧ o.gs = 0 ∧ 0 < o.m ∧ 0 < o.n ∧ 0 < o.k ∧ o.m * o.n ≤ 8192 ∧
  (o.wac = true → o.c.toNat ≤ 29) ∧ (k.tile o.ta.toNat).et ≠ 0x14 ∧ ((k.tile o.tb.toNat).et = 0x14 ↔ o.kind = 2)

/-- The same, and nothing that it reads is poisoned. -/
def multiplies (k : Core) (o : MatOp) : Prop := multiplying k o ∧ k.scratchPoison = []

/-- The tiles after the claims of an operation are given up. -/
def unclaimed (k : Core) (o : MatOp) : List Tile :=
  (o.claims.foldl (fun (k : Core) t => k.modTile t.toNat fun e => { e with readers := e.readers - 1 }) k).tiles.toList

end Sys2Proof.Claim

/-- R281, R285 to R287, R289, R291, R292: the multiply that the engine performs, dense, sparse with legal codes or over a codebook,
leaves in each element of an FP32 or WAC96 C the sum of its groups in increasing order, each rounded once to nearest; C is FULL
with the layout of TSN, the claims are released and the entry is DONE OK. -/
def Sys2Proof.Claim.MatrixResult : Prop := ∀ (c : CoreId) (s : State) (o : MatOp),
  let k := s.core c
  let groups := if o.kind = 1 then (o.k + 63) / 64 else o.groups
  multiplies k o → (o.kind = 1 → ∀ i < o.m * o.groups, ¬illegalWord o k i) →
  ∃ u : Core, exec (.matrixComplete c) s = .next (s.setCore c u) ∧ u.eng.mats = [] ∧
    u.handle o.h = { (k.handle o.h) with st := .done, status := 0, detail := 0 } ∧ u.x = k.x ∧ u.pc = k.pc ∧
    u.scratch = k.scratch ∧ u.eng.events = k.eng.events ∧
    (∀ r ∈ outputs o, u.vec.state r = .full ∧ (u.vec.tag[r]?).getD 0 = o.n) ∧
    (∀ r < 42, r ∉ outputs o → u.vec.bitsOf r = k.vec.bitsOf r) ∧
    (∀ i < 8192, outputOf o u i =
      if i < o.m * o.n then accumulated o k i (if o.zc then 0 else outputOf o k i) groups else outputOf o k i) ∧
    u.tiles.toList = unclaimed k o

/-- R287, R293: an MMA.SP with an illegal code ends META_ILLEGAL before it accumulates anything, with the lowest such metadata
word as DETAIL and an ENGINE event; C stays, and is FULL. -/
def Sys2Proof.Claim.MatrixRefusals : Prop := ∀ (c : CoreId) (s : State) (o : MatOp) (i : Nat),
  let k := s.core c
  multiplies k o → o.kind = 1 → i < o.m * o.groups → illegalWord o k i → (∀ j < i, ¬illegalWord o k j) →
  ∃ u : Core, exec (.matrixComplete c) s = .next (s.setCore c u) ∧ u.eng.mats = [] ∧
    u.handle o.h = { (k.handle o.h) with st := .done, status := 4, detail := BitVec.ofNat 32 i } ∧
    u.eng.events = k.eng.events ++ [⟨o.h, 4, 1, toWord i⟩] ∧ u.x = k.x ∧ u.pc = k.pc ∧ u.scratch = k.scratch ∧
    (∀ r ∈ outputs o, u.vec.state r = .full) ∧ (∀ r < 42, u.vec.bitsOf r = k.vec.bitsOf r) ∧ u.tiles.toList = unclaimed k o

/-- R290, R69: CBLD replaces the codebook by 2,048 values in quarters when each is one that it accepts; else it ends ACCESS
with the first refused index, and an ENGINE event, and the codebook stays. -/
def Sys2Proof.Claim.CodebookLoad : Prop := ∀ (c : CoreId) (s : State) (o : MatOp),
  let k := s.core c
  let a := (k.tile o.ta.toNat).start + o.ra.toNat
  let v := fun i => quarters (k.scratch.read (a + i) 1)
  k.eng.mats = [o] → o.active = true → o.kind = 3 → o.fail = none → k.scratchPoison = [] →
  ((∀ i < 2048, v i ≠ none) → ∃ u : Core, exec (.matrixComplete c) s = .next (s.setCore c u) ∧
    (∀ i < 2048, some (fld u.eng.codebook.toNat (4 * i) 4) = v i) ∧ u.vec = k.vec ∧ u.eng.events = k.eng.events ∧
    u.handle o.h = { (k.handle o.h) with st := .done, status := 0, detail := 0 }) ∧
  (∀ i < 2048, v i = none → (∀ j < i, v j ≠ none) → ∃ u : Core, exec (.matrixComplete c) s = .next (s.setCore c u) ∧
    u.eng.codebook = k.eng.codebook ∧ u.vec = k.vec ∧
    u.eng.events = k.eng.events ++ [⟨o.h, 2, 1, toWord i⟩] ∧
    u.handle o.h = { (k.handle o.h) with st := .done, status := 2, detail := BitVec.ofNat 32 i })

/-- What a multiply and a codebook load leave. -/
def Obligations.MatrixEngine : Prop := Sys2Proof.Claim.MatrixResult ∧ Sys2Proof.Claim.MatrixRefusals ∧ Sys2Proof.Claim.CodebookLoad


/-! ### Translation faults and poison -/

namespace Sys2Proof.Claim

/-- The first check of R47 at or after a leaf that the thread's access q at address a fails, as cause, reason and level: WINDOW,
PROTECT, HOSTPAGE after the host's refusal, FORMAT; none where none fails, or where the host is still to be asked. -/
def leafFault (s : State) (a : Word) (q : Ask) (fmtOk : Word → Nat → Bool) (e : Word) (level : Nat) : Option (Nat × Nat × Nat) :=
  let c := s.ctxOf s.cur
  let pa := s.leafAddr e level a
  let user := s.self.priv = .user
  let write := q.kind = 1 ∨ q.kind = 3
  if s.leafWindow c e (leafRaw e level a) q = false then some (6, 4, level)
  else if user ∧ pteUsr e = false ∨ q.kind = 2 ∧ ¬user ∧ pteUsr e = true ∨ write ∧ pteW e = false ∨
      q.kind = 2 ∧ pteX e = false then some (5, 1, level)
  else if pteHost e = true then
    if s.ms.atsFail.contains (.thread s.cur, c.tenant.toNat + 1, pa % 2 ^ 41 / 4096) = true then some (5, 3, level) else none
  else if q.kind = 2 ∧ (pteTb e = true ∨ pteFmt e ≠ 0 ∨ mmioOf pa ≠ none) ∨ write ∧ pteFmt e ≠ 0 ∨
      q.msu = true ∧ (pteTb e = true ∨ pteFmt e ≠ 0) ∨ fmtOk e pa = false then some (6, 6, level)
  else none

/-- The same of a walk through these levels from a table: at each WINDOW, MALFORMED, NOTVALID, then the leaf's own. -/
def walkFault (s : State) (a : Word) (q : Ask) (fmtOk : Word → Nat → Bool) : List Nat → Nat → Option (Nat × Nat × Nat)
  | [], _ => none
  | level :: rest, table =>
    let raw := table + 8 * (if level = 4 then bits a 48 8 else bits a (12 + 9 * level) 9)
    let e := toWord (bytesAt s (s.localize raw) 8)
    if s.inTables s.self.tk.tenant raw 8 = false then some (6, 4, level)
    else if bits e 61 3 ≠ 0 then some (6, 2, level)
    else if pteV e = false then some (5, 0, level)
    else if pteLeaf e = true ∨ level = 0 then
      if s.leafOk e level = false then some (6, 2, level) else leafFault s a q fmtOk e level
    else walkFault s a q fmtOk rest (ptePpn e * 4096)

/-- The cause, the reason and the level with which the access fails: NONCANON first, then through the entry of the L1 TLB that
serves it, else by the walk from the root of the thread's table (R29, R45, R46, R47). -/
def faultOf (s : State) (a : Word) (q : Ask) (fmtOk : Word → Nat → Bool) : Option (Nat × Nat × Nat) :=
  if canon56 a ≠ a then some (6, 5, 7)
  else match s.self.cache.tlb.find? (·.serves (s.ctxOf s.cur) a q.kind) with
    | some e => leafFault s a q fmtOk e.pte e.level
    | none => walkFault s a q fmtOk [4, 3, 2, 1, 0] (s.self.ptroot * 4096)

/-- Its syndrome (R46). -/
def faultValue (reason level kind : Nat) (a : Word) : Word :=
  toWord (reason * 2 ^ 61 + level * 2 ^ 58 + kind * 2 ^ 56 + a.toNat % 2 ^ 56)

/-- An access that its L1 TLB does not serve walks tables at rest: no other cache of translations holds anything, and memory holds
the tables, or home lines without a tenant tag, none poisoned. -/
def walksAtRest (s : State) (a : Word) (q : Ask) : Prop :=
  s.self.cache.tlb.find? (·.serves (s.ctxOf s.cur) a q.kind) = none →
    s.ms.l2tlb = [] ∧ s.ms.pwc = [] ∧ s.ms.chains = [] ∧ s.ms.poison = [] ∧
    ∀ h ∈ s.ms.homes, h.poison = 0 ∧ ∀ t l, h.key = .addr t l → t = none

/-- Beside caches and the waiting requests nothing has changed, and no byte of memory. -/
def cachesAlone (s t : State) : Prop :=
  t = { s with cores := t.cores, ms := t.ms } ∧ (∀ c, t.core c = { s.core c with cache := (t.core c).cache }) ∧
  ∀ b < 2 ^ 42, byteAt t b = byteAt s b

/-- The access at a fails with this cause, reason and level, from a state in which no frame is live. -/
def fails (s : State) (a : Word) (q : Ask) (fmtOk : Word → Nat → Bool) (r : Nat × Nat × Nat) : Prop :=
  s.self.tf = false ∧ walksAtRest s a q ∧ faultOf s a q fmtOk = some r

/-- The state after a fault: but for a FORMAT fault, met after A and D are set, only caches have changed. -/
def faulted (s u : State) (reason : Nat) : Prop :=
  (reason ≠ 6 → cachesAlone s u) ∧ u.self = { s.self with cache := u.self.cache } ∧ u.cur = s.cur

/-- An instruction traps with the fault of its access. -/
def trapsWith (s : State) (i : Instr) (a : Word) (kind : Nat) (r : Nat × Nat × Nat) : Prop :=
  ∃ u, faulted s u r.2.1 ∧ exec i s = trapped u r.1 (faultValue r.2.1 r.2.2 kind a) s.self.pc

/-- A vector load has stopped at element j: the elements below it have been loaded, an inactive one zeroed under mz, and the
register keeps the others; no other register has changed. -/
def loadStops (s : State) (i : Instr) (f : VM) (val : Nat → Nat) (j cause : Nat) (tval : Word) : Prop :=
  let k := s.self
  ∃ t, exec i s = .next t ∧ stoppedAt s t j cause tval ∧ t.self.x = k.x ∧ t.self.scratch = k.scratch ∧ t.self.vec.m = k.vec.m ∧
    (∀ c : BitVec 7, c.toNat < 42 → c ∉ registers f.et f.vd → t.self.vec.bitsOf c.toNat = k.vec.bitsOf c.toNat) ∧
    ∀ m < k.vrows * k.vcols,
      (m < j → live k f.msk m → held t.self f.et f.vd m = elemBits f.et (val m)) ∧
      (m < j → ¬live k f.msk m → held t.self f.et f.vd m = if f.mz = 1 ∧ k.vstart ≤ m then 0 else held k f.et f.vd m) ∧
      (j ≤ m → held t.self f.et f.vd m = held k f.et f.vd m)

/-- The access of element j of a load of pages without format (R258). -/
def elementRead (s : State) (f : VM) (how : Shape) (j : Nat) : X Nat := do
  let m := loadMem s f 0
  let d := loadAt s f 0 how j
  (← m.place (s.ctxOf s.cur) d.1 d.2 (s.self.repin j)).read (s.ctxOf s.cur) m.half 0

/-- A load of pages without format may begin, and its elements below j read their values (R258). -/
def loadsBelow (s : State) (f : VM) (how : Shape) (val : Nat → Nat) (j : Nat) : Prop :=
  let k := s.self
  accesses s f how ∧ f.ord = 0 ∧ (how = .indexed → k.space ≠ 2) ∧ k.tf = false ∧ live k f.msk j ∧
  (ETflt f.et = true → k.space = 0 → anchorFmt (s.ctxOf s.cur) (k.rd f.xa + f.value) s = .ok (some 0) s) ∧
  ∀ m < j, live k f.msk m → readsAt s f 0 how m (val m)

/-- The word at a virtual address is w as instruction fetch sees it, and t is the state after that look (R185, R364, R44): the
address translates for execution, and w is the word that the core's instruction cache holds for its place, or else, for a
device word that no cached line covers and that is not poisoned, its eight bytes in memory, which the cache then holds. -/
def fetches (s : State) (va w : Word) (t : State) : Prop :=
  ∃ h u, resolveGlobal (s.ctxOf s.cur) va { kind := 2, n := 8 } anyFormat s = .ok h u ∧
    (u.self.cache.icache.find? (·.1 == h.ga / 8) = some (h.ga / 8, w) ∧ t = u ∨
      u.self.cache.icache.find? (·.1 == h.ga / 8) = none ∧ h.ga < 2 ^ 42 ∧ (∀ tag, u.ms.homeAt h.ga tag = none) ∧ u.ms.chains = [] ∧
        u.ms.poisoned h.ga 8 = false ∧ w = toWord (u.ms.mem.read h.ga 8) ∧
        t = u.modSelf fun k => { k with cache := { k.cache with icache := (h.ga / 8, w) :: k.cache.icache } })

/-- The thread of the core that moves takes the next step (R6): no agent is named to move first, nothing else is due on the
core, and the thread has a running task and waits for nothing. -/
def threadMoves (s : State) : Prop :=
  s.agenda = [] ∧ s.pendingMove = none ∧ s.threadReady s.cur = true ∧ s.waitMove = none

/-- The elements of a store below j stand on pages of memory or of resident lines, element j is aligned, and its access walks no
table that they could have changed (R260). -/
def storesBelow (s : State) (f : VM) (how : Shape) (e : Nat → TlbEntry) (j : Nat) : Prop :=
  let k := s.self
  let n := bytesOf f.et
  let a := storeAddr s f how j
  ((∀ m < j, ¬live k f.msk m) ∨ canon56 a ≠ a ∨ k.cache.tlb.find? (·.serves (s.ctxOf s.cur) a 1) ≠ none) ∧
  accesses s f how ∧ f.ord = 0 ∧ k.space = 0 ∧ f.et ≠ .wac ∧ k.cache.pin = none ∧ live k f.msk j ∧
  (storeAddr s f how j).toNat % n = 0 ∧
  (how = .indexed → ∀ x y, live k f.msk x → live k f.msk y → storeAddr s f how x = storeAddr s f how y →
    (offset k f how n (ETwidth f.et == 4) x).2 = (offset k f how n (ETwidth f.et == 4) y).2 → x = y) ∧
  ∀ m < j, live k f.msk m → (storeAddr s f how m).toNat % n = 0 ∧
    mapped s (storeAddr s f how m) { kind := 1, n := n } (e m) ∧
    homed s (e m) (s.leafAddr (e m).pte (e m).level (storeAddr s f how m)) n

end Sys2Proof.Claim

/-- R29, R30, R35, R44 to R47: a scalar access, a vector element and a fetch that fail to translate trap with the cause and the
syndrome of the first check of R47 that fails, EPC at the instruction. A vector instruction traps at its lowest such element, which
VSTART in the frame names: the elements below have been performed, none from it on. -/
def Obligations.TranslationFaults : Prop := ∀ (s : State) (r : Nat × Nat × Nat),
  let k := s.self
  (∀ f : SM, ready s [f.xa, f.xb, f.xd] → slotFree s f.xd →
    let a := k.rd f.xa + f.value
    let at_ := fun (b : Word) n => b.toNat % n = 0
    (let n := 2 ^ (f.size.toNat % 4);
      f.size.toNat < 7 → at_ a n → fails s a { kind := 0, n := n } (rawReadOk n) r → trapsWith s (.ld f) a 0 r) ∧
    (let n := 2 ^ f.size.toNat;
      (f.size.toNat < 4 → at_ a n → fails s a { kind := 1, n := n } anyFormat r → trapsWith s (.st f) a 1 r) ∧
      (f.size = 2 ∨ f.size = 3 → at_ a n → fails s a { kind := 3, n := n, msu := true } anyFormat r →
        trapsWith s (.cas f) a 3 r) ∧
      (f.size = 2 ∨ f.size = 3 → at_ (k.rd f.xa) n → fails s (k.rd f.xa) { kind := 3, n := n, msu := true } anyFormat r →
        ∀ i ∈ [Instr.amoAdd f, .amoAnd f, .amoOr f, .amoXor f, .amoMin f, .amoMax f, .amoMinu f, .amoMaxu f, .amoSwap f,
          .amoIncb f], trapsWith s i (k.rd f.xa) 3 r))) ∧
  (∀ (f : VM) (how : Shape) (i : Instr) (j : Nat) (val : Nat → Nat),
    i = .vldUnit f ∧ how = .unit ∨ i = .vldStrided f ∧ how = .strided ∨ i = .vldx f ∧ how = .indexed → loadsBelow s f how val j →
    (∀ cause v u, elementRead s f how j s = .error (.trap cause v) u → u.self = { k with cache := u.self.cache } → u.cur = s.cur →
      loadStops s i f val j cause v) ∧
    (let a := loadAddr s f how j;
      k.space = 0 → f.et ≠ .wac → k.cache.pin = none → a.toNat % bytesOf f.et = 0 →
      fails s a { kind := 0, n := bytesOf f.et } (loadMem s f 0).fmtOk r →
      loadStops s i f val j r.1 (faultValue r.2.1 r.2.2 0 a))) ∧
  (∀ (f : VM) (how : Shape) (i : Instr) (j : Nat) (e : Nat → TlbEntry),
    i = .vstUnit f ∧ how = .unit ∨ i = .vstStrided f ∧ how = .strided ∨ i = .vstx f ∧ how = .indexed → storesBelow s f how e j →
    let n := bytesOf f.et
    let a := storeAddr s f how j
    let half := ETwidth f.et == 4
    let start := fun m => 2 * s.leafAddr (e m).pte (e m).level (storeAddr s f how m) + (offset k f how n half m).2
    fails s a { kind := 1, n := n } anyFormat r →
    ∃ t, exec i s = .next t ∧ stoppedAt s t j r.1 (faultValue r.2.1 r.2.2 1 a) ∧ t.self.vec = k.vec ∧ t.self.x = k.x ∧
      t.self.scratch = k.scratch ∧ (r.2.1 ≠ 6 → lastWrites (fun m => m < j ∧ live k f.msk m) start (ETwidth f.et / 4)
        (fun m => held k f.et f.vd m) (memoryNibble s) (memoryNibble t))) ∧
  (threadMoves s → fails s k.pc { kind := 2, n := 8 } anyFormat r → ∃ u, faulted s u r.2.1 ∧
    step s = s.concluded none (trapped u r.1 (faultValue r.2.1 r.2.2 2 k.pc) k.pc)) ∧
  (threadMoves s → ∀ w t, fetches s k.pc w t → opOf w = extOp → fails t (k.pc + 8) { kind := 2, n := 8 } anyFormat r →
    ∃ u, faulted t u r.2.1 ∧ step s = s.concluded none (trapped u r.1 (faultValue r.2.1 r.2.2 2 (k.pc + 8)) k.pc))

namespace Sys2Proof.Claim

/-- Elements i and j of width w lie in one register word: in one row and one live slice, 64 bits at a time (R95). -/
def sameWord (k : Core) (w i j : Nat) : Prop :=
  let cols := max 1 k.vcols
  let n := max 1 (64 / w)
  i / cols = j / cols ∧ i % cols % k.slices = j % cols % k.slices ∧ i % cols / k.slices / n = j % cols / k.slices / n

/-- The word of element j of width w of a register, or of mask c - 64, is poisoned. -/
def poisonedWord (k : Core) (c w j : Nat) : Prop :=
  ∃ p ∈ k.vec.poison, p.1 = c ∧ ∃ i, sameWord k w i j ∧ w * i < p.2.1 + p.2.2 ∧ p.2.1 < w * i + w

/-- The source code c is a register whose word of element j is poisoned. -/
def badSource (k : Core) (w j : Nat) (c : BitVec 7) : Prop := c.getLsbD 6 = false ∧ poisonedWord k c.toNat w j

/-- R95, R232: an element-wise form stops with MEM_UE at its lowest active element that has a poisoned word among its sources, the
first of which, and after them the mask, the value names by code and element; the elements below it are written. -/
def stopsOnPoison (s : State) (i : Instr) (f : VA) (srcs : List (BitVec 7)) (val : Nat → Nat × Flags) : Prop :=
  let k := s.self
  let w := ETwidth f.et
  let masked := fun j => f.msk ≠ 0 ∧ poisonedWord k (64 + f.msk.toNat) 1 j
  let stop := fun j (c : Nat) => stops s i f (fun k j => elem k f.vd.toNat w j) 0 (low w val) (fun k l => onlyRegister k l f.vd.toNat)
    j 0x0B (toWord (c + j % 2 ^ 16 * 2 ^ 16)) 0
  admits s (ETew f.et) (f.vd :: srcs) → f.vd.getLsbD 6 = false → k.tf = false → ∀ j, live k f.msk j →
    (∀ m < j, live k f.msk m → k.trapping (val m).2 = false ∧ ¬masked m ∧ ∀ c ∈ srcs, ¬badSource k w m c) →
    (∀ before after c, srcs = before ++ c :: after → badSource k w j c → (∀ d ∈ before, ¬badSource k w j d) → stop j c.toNat) ∧
    ((∀ c ∈ srcs, ¬badSource k w j c) → masked j → stop j f.msk.toNat)

/-- The trap value of a poisoned word of memory (R430). -/
def memoryValue (walk : Bool) (level kind : Nat) (a : Word) : Word :=
  toWord (2 ^ 63 + (if walk then 2 ^ 62 else 0) + level * 2 ^ 58 + kind * 2 ^ 56 + a.toNat % 2 ^ 56)

/-- One of the n bytes at an address is poisoned where it is homed (R137). -/
def badBytes (s : State) (pa n : Nat) : Prop := ∃ j < n, (s.ms.homeRead (pa + j) 1).2.2 = true

/-- n bytes that an access uses stand in memory, or in the line at their home. -/
def stands (s : State) (e : TlbEntry) (pa n : Nat) : Prop :=
  if uncached s e pa = true then atRest s pa n none
  else atRest s pa n (some (lineKey s e pa)) ∧ s.ms.home (lineKey s e pa) ≠ none ∧ s.self.l1Line (lineKey s e pa) = none

/-- An instruction consumes a poisoned word of memory: it traps, and only caches have changed. -/
def consumes (s : State) (i : Instr) (v : Word) : Prop :=
  ∃ u, cachesAlone s u ∧ u.self = { s.self with cache := u.self.cache } ∧ u.cur = s.cur ∧ exec i s = trapped u 0x0B v s.self.pc

/-- The level of the first poisoned entry that the walk of an address through these levels meets before another fault. -/
def poisonedLevel (s : State) (a : Word) : List Nat → Nat → Option Nat
  | [], _ => none
  | level :: rest, table =>
    let raw := table + 8 * (if level = 4 then bits a 48 8 else bits a (12 + 9 * level) 9)
    let e := toWord (bytesAt s (s.localize raw) 8)
    if s.inTables s.self.tk.tenant raw 8 = false then none
    else if (s.ms.homeRead (s.localize raw) 8).2.2 = true then some level
    else if bits e 61 3 ≠ 0 ∨ pteV e = false ∨ pteLeaf e = true then none
    else poisonedLevel s a rest (ptePpn e * 4096)

/-- The thread's walk of an address meets a poisoned entry of this level: no cache of translations serves it. -/
def walksInto (s : State) (a : Word) (kind level : Nat) : Prop :=
  canon56 a = a ∧ s.self.cache.tlb.find? (·.serves (s.ctxOf s.cur) a kind) = none ∧ s.ms.l2tlb = [] ∧ s.ms.pwc = [] ∧
  s.ms.chains = [] ∧ (∀ h ∈ s.ms.homes, ∀ t l, h.key = .addr t l → t = none) ∧
  poisonedLevel s a [4, 3, 2, 1, 0] (s.self.ptroot * 4096) = some level

/-- A 64-bit word of the scratchpad that holds one of n bytes is poisoned (R95). -/
def badScratch (k : Core) (a n : Nat) : Prop := ∃ g ∈ k.scratchPoison, a / 8 ≤ g ∧ g ≤ (a + n - 1) / 8

/-- A record of a tile is poisoned. -/
def badRecord (o : MatOp) (k : Core) (t : BitVec 8) (j : Nat) : Prop :=
  let e := k.tile t.toNat
  let b := if t = o.tb ∧ o.kind = 2 then 68 else 4 * (e.p.toNat + 2)
  badScratch k (e.base.toNat * 4096 + j * b) b

/-- A record of A, or of B, that group g reads is poisoned (R284, R286, R289). -/
def badA (o : MatOp) (k : Core) (g : Nat) : Prop :=
  ∃ m < o.m, badRecord o k o.ta (o.ra.toNat + m * (if o.kind = 1 then (o.k + 63) / 64 else o.groups) + g)
def badB (o : MatOp) (k : Core) (g : Nat) : Prop :=
  ∃ n < o.n, if o.kind = 2 then badRecord o k o.tb (o.rb.toNat + n * ((o.k + 255) / 256) + g / 8)
    else ∃ b < o.groups, (if o.kind = 1 then b / 2 else b) = g ∧ badRecord o k o.tb (o.rb.toNat + n * o.groups + b)

/-- The multiply has ended MEM_UE with a detail and its event; a tile is POISONED, the claims are released, C is FULL. -/
def endsPoisoned (c : CoreId) (s : State) (o : MatOp) (t : BitVec 8) (d : Nat) (u : Core) : Prop :=
  let k := s.core c
  (∃ n, exec (.matrixComplete c) s = .next ({ s with tick := n }.setCore c u)) ∧ u.eng.mats = [] ∧
  u.handle o.h = { (k.handle o.h) with st := .done, status := 3, detail := BitVec.ofNat 32 d } ∧
  u.eng.events = k.eng.events ++ [⟨o.h, 3, 1, toWord d⟩] ∧ u.x = k.x ∧ u.pc = k.pc ∧ u.scratch = k.scratch ∧
  u.tiles.toList = unclaimed (k.modTile t.toNat fun e => { e with st := .poisoned }) o ∧
  (∀ r ∈ outputs o, u.vec.state r = .full) ∧ ∀ r < 42, r ∉ outputs o → u.vec.bitsOf r = k.vec.bitsOf r

/-- Byte i of the source of a copy is poisoned. -/
def badByte (s : State) (c : CoreId) (tile : Option (BitVec 8)) (at_ i : Nat) : Prop :=
  if tile.isSome then badScratch (s.core c) (at_ + i) 1 else badBytes s (at_ + i) 1

end Sys2Proof.Claim

/-- R95, R137, R232, R430: poison consumed. An element-wise instruction traps MEM_UE at the lowest active element with a poisoned
register or mask word; a load, an atomic and a fetch of a poisoned word of memory, and a walk through a poisoned entry, trap
MEM_UE with the address and have no effect; a vector load stops at such an element, and at one in a poisoned word of a READY
tile, which becomes POISONED, or in a POISONED tile, with TILE_POISON. -/
def Sys2Proof.Claim.ThreadPoison : Prop := ∀ s : State,
  let k := s.self
  (∀ f : VA, ETint f.et = true ∨ ETflt f.et = true → f.et ≠ .i4 →
    let w := ETwidth f.et
    let a := source k f.va w
    let b := source k f.vb w
    let c := source k f.vc w
    let v := intVal f.et
    let two := fun i int float => stopsOnPoison s i f [f.va, f.vb] fun j => num f.et (int j) (float j)
    two (.vadd f) (fun j => v (a j) + v (b j)) (fun j F => F.add k.rm (a j) (b j)) ∧
    two (.vsub f) (fun j => v (a j) - v (b j)) (fun j F => F.sub k.rm (a j) (b j)) ∧
    two (.vmul f) (fun j => v (a j) * v (b j)) (fun j F => F.mul k.rm (a j) (b j)) ∧
    two (.vmin f) (fun j => min (v (a j)) (v (b j))) (fun j F => F.minmax false (a j) (b j)) ∧
    two (.vmax f) (fun j => max (v (a j)) (v (b j))) (fun j F => F.minmax true (a j) (b j)) ∧
    stopsOnPoison s (.vfma f) f [f.va, f.vb, f.vc] fun j => num f.et (v (a j) * v (b j) + v (c j))
      fun F => F.fma k.rm false false (a j) (b j) (c j)) ∧
  (∀ (f : SM) (e : TlbEntry), ready s [f.xa, f.xb, f.xd] → slotFree s f.xd → k.tf = false → released s f.ord.toNat →
    let a := k.rd f.xa + f.value
    let pa := s.leafAddr e.pte e.level a
    (let n := 2 ^ (f.size.toNat % 4);
      f.size.toNat < 7 → a.toNat % n = 0 →
      (mapped s a { kind := 0, n := n } e → rawReadOk n e.pte pa = true → stands s e pa n → badBytes s pa n →
        consumes s (.ld f) (memoryValue false 7 0 a)) ∧
      ∀ level, walksInto s a 0 level → consumes s (.ld f) (memoryValue true level 0 a)) ∧
    (f.size.toNat < 4 → a.toNat % 2 ^ f.size.toNat = 0 → ∀ level, walksInto s a 1 level →
      consumes s (.st f) (memoryValue true level 1 a)) ∧
    (f.size = 2 ∨ f.size = 3 →
      let n := 2 ^ f.size.toNat
      let fails := fun (a : Word) i => k.cache.ahead = [] → a.toNat % n = 0 →
        (let pa := s.leafAddr e.pte e.level a;
          mapped s a { kind := 3, n := n, msu := true } e → atRest s pa n none → badBytes s pa n →
          consumes s i (memoryValue false 7 3 a)) ∧
        ∀ level, walksInto s a 3 level → consumes s i (memoryValue true level 3 a)
      fails a (.cas f) ∧ ∀ i ∈ [Instr.amoAdd f, .amoAnd f, .amoOr f, .amoXor f, .amoMin f, .amoMax f, .amoMinu f, .amoMaxu f,
        .amoSwap f, .amoIncb f], fails (k.rd f.xa) i)) ∧
  (∀ (f : VM) (how : Shape) (i : Instr) (j : Nat) (val : Nat → Nat),
    i = .vldUnit f ∧ how = .unit ∨ i = .vldStrided f ∧ how = .strided ∨ i = .vldx f ∧ how = .indexed → loadsBelow s f how val j →
    let a := loadAddr s f how j
    let n := bytesOf f.et
    (∀ e : TlbEntry, k.space = 0 → f.et ≠ .wac → k.cache.pin = none → a.toNat % n = 0 →
      let pa := s.leafAddr e.pte e.level a
      mapped s a { kind := 0, n := n } e → pteFmt e.pte = 0 → stands s e pa n → badBytes s pa n →
      loadStops s i f val j 0x0B (memoryValue false 7 0 a)) ∧
    (∀ t, k.space = 1 → a.toNat % alignOf f.et = 0 → a.toNat + n ≤ 2 ^ 23 → k.tileAt k.tk.tenant a.toNat n = some t →
      (k.tile t).st = .poisoned ∨ (k.tile t).st = .ready ∧ badScratch k a.toNat n →
      loadStops s i f val j 0x0A (tileValue t (k.tile t) a.toNat) ∧
      ∀ u, exec i s = .next u → (u.self.tile t).st = .poisoned)) ∧
  (threadMoves s →
    (∀ h u, resolveGlobal (s.ctxOf s.cur) k.pc { kind := 2, n := 8 } anyFormat s = .ok h u → h.ga < 2 ^ 42 →
      (∀ x ∈ u.self.cache.icache, x.1 ≠ h.ga / 8) → (∀ t, u.ms.homeAt h.ga t = none) → u.ms.chains = [] →
      u.ms.poisoned h.ga 8 = true → opOf (toWord (u.ms.mem.read h.ga 8)) ≠ extOp →
      step s = s.concluded none (trapped u 0x0B (memoryValue false 7 2 k.pc) k.pc)) ∧
    ∀ level, walksInto s k.pc 2 level → ∃ u, cachesAlone s u ∧ u.self = { k with cache := u.self.cache } ∧ u.cur = s.cur ∧
      step s = s.concluded none (trapped u 0x0B (memoryValue true level 2 k.pc) k.pc))

/-- R137, R293: a multiply that reads a poisoned record in a group ends MEM_UE with C after the groups before it, its DETAIL the
last of them and the tile POISONED; MMA.SP with a poisoned metadata word does before it accumulates anything. -/
def Sys2Proof.Claim.MatrixPoisoned : Prop := ∀ (c : CoreId) (s : State) (o : MatOp),
  let k := s.core c
  let groups := if o.kind = 1 then (o.k + 63) / 64 else o.groups
  multiplying k o →
  let metadata := fun i => badScratch k ((k.tile o.tm.toNat).base.toNat * 4096 + 4 * (o.rc.toNat + i)) 4
  (∀ g < groups, badA o k g ∨ badB o k g → (∀ h < g, ¬badA o k h ∧ ¬badB o k h) →
    (o.kind = 1 → ∀ i < o.m * o.groups, ¬metadata i ∧ ¬illegalWord o k i) →
    ∃ u d t, endsPoisoned c s o t d u ∧ (badA o k g → t = o.ta) ∧ (¬badA o k g → t = o.tb) ∧ (0 < g → d = g - 1) ∧
      ∀ i < 8192, outputOf o u i =
        if i < o.m * o.n then accumulated o k i (if o.zc then 0 else outputOf o k i) g else outputOf o k i) ∧
  (o.kind = 1 → ∀ i < o.m * o.groups, metadata i →
    ∃ u d, endsPoisoned c s o o.tm d u ∧ ∀ r < 42, u.vec.bitsOf r = k.vec.bitsOf r)

/-- R90, R137, R302: a BYTES copy into a tile whose source byte j is the first poisoned one ends MEM_UE with DETAIL j and no event:
the bytes below it stand in the tile, which is POISONED, and nothing else of scratchpad and memory has changed. -/
def Sys2Proof.Claim.CopyPoisoned : Prop := ∀ (c : CoreId) (s : State) (o : CopyOp) (e : TlbEntry) (d : BitVec 8) (j : Nat),
  let k := s.core c
  let n := o.rowLen
  let from_ := sideAt s k o.srcTile o.src e
  let into := (k.tile d.toNat).start + o.dst.toNat
  alone s c o → o.kind = 0 → o.mode = 0 → o.dstTile = some d → o.dst.toNat < 2 ^ 23 →
  (if o.srcTile.isSome then o.src.toNat < 2 ^ 23 else inPage s c o 0 o.src n 0 e) →
  (o.srcTile.isSome → from_ + n ≤ into ∨ into + n ≤ from_) → o.srcTile ≠ some d →
  j < n → badByte s c o.srcTile from_ j → (∀ i < j, ¬badByte s c o.srcTile from_ i) →
  ∃ t, exec (.copyComplete c o.h) s = .next t ∧ copyEnded s t c o 3 ∧
    let u := t.core c
    (u.handle o.h).detail = BitVec.ofNat 32 j ∧ u.eng.events = k.eng.events ∧
    (∀ i < j, u.scratch.read (into + i) 1 = sideByte s c o.srcTile from_ i) ∧
    (∀ a, a < into ∨ into + j ≤ a → u.scratch.get a = k.scratch.get a) ∧ (∀ a < 2 ^ 42, byteAt t a = byteAt s a) ∧
    u.tile d.toNat = { (k.tile d.toNat) with st := .poisoned, susp := false } ∧
    ∀ t, o.srcTile = some t → (u.tile t.toNat).st = .poisoned

/-- R90, R95, R137, R232, R293, R302, R430: what poison does to the thread, to a multiply and to a copy. -/
def Obligations.PoisonConsumed : Prop := Sys2Proof.Claim.ThreadPoison ∧ Sys2Proof.Claim.MatrixPoisoned ∧ Sys2Proof.Claim.CopyPoisoned


/-! ### The accumulate network -/

namespace Sys2Proof.Claim

/-- The pot that POT.OPEN makes (R334, R337). -/
def opened (k : Core) (f : EN) : Pot :=
  { tile := f.opA, rule := f.flags.extractLsb' 0 2, fmt := f.flags.getLsbD 2, log := f.flags.getLsbD 3
    e := (k.rd f.xb).toNat, expect := (k.rd f.xa).toNat, granted := 0, arrived := 0, forf := 0, fbcnt := 0, fl := 0
    forfany := false, wace := k.wace, spilled := false, joiners := [], serial := k.acn.opened + 1 }

/-- The bytes of a pot's tile at POT.OPEN (R329, R330): initial values, then zeros. -/
def openedByte (p : Pot) (i : Nat) : Byte :=
  if p.rule = 3 ∧ i < 4 * p.e then BitVec.ofNat 8 (0xFF80_0000 / 2 ^ (8 * (i % 4))) else 0

/-- A joiner counts one arrival (R332): the pot afterwards. -/
def arrived (p : Pot) (x : Joiner) (fb : Bool) : Pot :=
  { p with arrived := p.arrived + 1, fbcnt := p.fbcnt + (if fb then 1 else 0), joiners := [{ x with left := x.left - 1 }] }

/-- The packet k is the only one on the network and carries this load (R328). -/
def sole (s : State) (p : Packet) (load : Payload) : Prop := s.net = [p] ∧ p.load = load ∧ s.isLocal p.dstNode = true

/-- The packet's pot stands on the core it goes to, with the packet's sender, who has antes left, as its one joiner. -/
def meets (s : State) (p : Packet) (pot : Pot) (x : Joiner) : Prop :=
  (s.core p.dstCore).acn.pots = [pot] ∧ pot.tile = p.tile ∧ pot.serial = p.serial ∧ pot.joiners = [x] ∧
  x.node = p.srcNode ∧ x.core = p.srcCore ∧ x.j = p.j ∧ x.task = p.task ∧ 0 < x.left

/-- The join entry that a notice is about, of a task that runs on its core: PENDING, or granted by the pot that the notice is
from (R347). -/
def noticed (s : State) (p : Packet) (e : Join) : Prop :=
  (s.core p.dstCore).tk.task = some p.task ∧ s.dealer.saved = [] ∧ (s.core p.dstCore).join p.j = e ∧
  e.core = p.srcCore ∧ e.tile = p.tile ∧ e.node = p.srcNode ∧ (e.st = .pending ∨ e.serial = p.serial)

/-- The network is empty again and a core has changed by f; nothing else has changed. -/
def received (s : State) (c : CoreId) (f : Core → Core) : Out := .next ({ s with net := [] }.modCore c f)

end Sys2Proof.Claim

/-- R329, R330, R334, R337: POT.OPEN opens a pot with the operands' rule, format, log, elements and expected arrivals on its
tile, which is FILLING, its initial contents in it, and returns 0; with POTSLOTS pots open it returns 1 and changes nothing;
an operand outside its range, or a tile too small, traps SHAPE. POT.STAT returns the pot word, 0 without a pot. The element type that the tile takes
by the rule is the model's choice (log 64). -/
def Sys2Proof.Claim.PotOpening : Prop := ∀ (f : EN) (s : State),
  let k := s.self
  let p := opened k f
  let t := f.opA.toNat
  let e := k.tile t
  let mine := e.v = true ∧ e.tenant = k.tk.tenant
  let need := potBytes p.rule p.log p.e
  let shape := 1 ≤ p.expect ∧ p.expect ≤ 256 ∧ 1 ≤ p.e ∧ p.e ≤ k.capBits / 32
  (ready s [f.xa, f.xb] → slotFree s f.xd → k.tf = false →
    (p.expect = 0 ∨ 256 < p.expect → exec (.potOpen f) s = trapped s 8 (k.rd f.xa) k.pc) ∧
    (1 ≤ p.expect → p.expect ≤ 256 → p.e = 0 ∨ k.capBits / 32 < p.e →
      exec (.potOpen f) s = trapped s 8 (k.rd f.xb) k.pc) ∧
    (shape → ¬mine → exec (.potOpen f) s = trapped s 9 (toWord (2 ^ 52)) k.pc) ∧
    (shape → mine → filled e → e.size.toNat * 4096 < need → exec (.potOpen f) s = trapped s 8 (toWord need) k.pc)) ∧
  (ready s [f.xa, f.xb] → slotFree s f.xd → shape → mine → filled e → need ≤ e.size.toNat * 4096 →
    (min 64 (s.potSlots k) ≤ k.acn.pots.length → exec (.potOpen f) s = replied s 8 f.xd 1) ∧
    (k.acn.pots.length < min 64 (s.potSlots k) → (∀ x ∈ k.acn.pend, x.tile ≠ f.opA) →
      ∃ u : Core, exec (.potOpen f) s = .next (s.modSelf fun _ => u) ∧ u.acn = { k.acn with pots := k.acn.pots ++ [p], opened := k.acn.opened + 1 } ∧
        u.tile t = { e with st := .filling, susp := false, pk := false, p := 0, conf := false, pot := true
                            et := if p.rule = 1 then 0x13 else if p.rule = 2 then 4 else 0x0A } ∧
        u.replies = k.replies ++ [⟨[(f.xd, 0)]⟩] ∧ u.x = k.x ∧ u.vec = k.vec ∧ u.pc = (k.retire 8).pc ∧
        ∀ a, u.scratch.get a = if e.start ≤ a ∧ a < e.start + need then openedByte p (a - e.start) else k.scratch.get a)) ∧
  (slotFree s f.xd →
    (∀ q, k.pot f.opA = some q → exec (.potStat f) s = replied s 8 f.xd (q.word false)) ∧
    (k.pot f.opA = none → exec (.potStat f) s = replied s 8 f.xd 0)) ∧
  (∀ q : Pot, q.expect ≤ 256 → q.granted ≤ 256 → q.arrived ≤ 256 → q.fbcnt ≤ 256 → q.forf ≤ 256 →
    let field := bits (q.word false)
    field 63 1 = 1 ∧ field 62 1 = (if q.arrived + q.forf = q.expect then 1 else 0) ∧
    field 61 1 = (if q.fbcnt = 0 then 0 else 1) ∧ field 60 1 = (if q.forfany then 1 else 0) ∧ field 52 4 = q.fl.toNat ∧
    field 50 2 = q.rule.toNat ∧ field 36 9 = q.expect ∧ field 27 9 = q.granted ∧ field 18 9 = q.arrived ∧
    field 9 9 = q.fbcnt ∧ field 0 9 = q.forf)

/-- R331, R337: POT.WAIT waits while arrivals are outstanding; then it converts the results where they stand, clears the grant
list, leaves the tile READY and the pot closed, ors the recorded flags and returns the pot word. POT.CLOSE leaves the tile
EMPTY and sends CLOSED to every joiner. Both trap TILE_STATE where the tile holds no pot. -/
def Sys2Proof.Claim.PotEnding : Prop := ∀ (f : EN) (s : State),
  let k := s.self
  let t := f.opA.toNat
  let e := k.tile t
  let mine := e.v = true ∧ e.tenant = k.tk.tenant
  let holds := mine ∧ e.st = .filling ∧ e.pot = true
  (slotFree s f.xd → mine → ¬(e.st = .filling ∧ e.pot = true) → k.tf = false →
    exec (.potWait f) s = trapped s 9 (tileValue t e 0) k.pc ∧ exec (.potClose f) s = trapped s 9 (tileValue t e 0) k.pc) ∧
  (holds → ∀ p, k.pot f.opA = some p →
    (slotFree s f.xd → p.arrived + p.forf ≠ p.expect → exec (.potWait f) s = waitsFor s .resource) ∧
    (slotFree s f.xd → p.arrived + p.forf = p.expect → 
      ∃ u, exec (.potWait f) s = .next u ∧ u.self.pot f.opA = none ∧ u.ms.mem = s.ms.mem ∧ u.self.vec = k.vec ∧
        u.self.tile t = { e with st := .ready, pot := false } ∧ u.self.x = k.x ∧ u.self.pc = (k.retire 8).pc ∧
        (p.rule ≠ 1 → u.self.replies = k.replies ++ [⟨[(f.xd, p.word false)]⟩] ∧
          (∀ a, a < e.start + 4 * p.e → u.self.scratch.get a = k.scratch.get a) ∧
          ∀ b, u.self.fflags.getLsbD b = (k.fflags.getLsbD b || p.flags.getLsbD b)) ∧
        (p.rule = 1 → p.fmt = false → ∀ i < p.e,
          u.self.scratch.read (e.start + 12 * i) 12 = (wacSat (signed 128 (k.scratch.read (e.start + 16 * i) 16))).1 % 2 ^ 96) ∧
        (p.rule = 1 → p.fmt = true → ∀ i < p.e, u.self.scratch.read (e.start + 4 * i) 4 =
          (fromWac (wacExp p.wace) fp32 (signed 128 (k.scratch.read (e.start + 16 * i) 16))).1) ∧
        let g := e.start + p.e * p.fillBytes + if p.log then 1024 else 0
        (∀ a, g ≤ a → a < g + 2048 → u.self.scratch.get a = 0) ∧
        ∀ a, a < e.start ∨ g + 2048 ≤ a → u.self.scratch.get a = k.scratch.get a) ∧
    (∀ id, k.tk.task = some id → s.dealer.saved = [] → (∀ x ∈ p.joiners, s.isLocal x.node = true) →
      exec (.potClose f) s = .next ({ s with net := s.net ++ p.joiners.map fun (x : Joiner) => x.notice s.cur p .closed }.modSelf
        fun k => ((k.dropPot f.opA).modTile t fun e => { e with st := .empty, pot := false }).retire 8)))

/-- R329 to R331, R334, R337: pots opened, waited for and closed. -/
def Obligations.PotInstructions : Prop := Sys2Proof.Claim.PotOpening ∧ Sys2Proof.Claim.PotEnding


/-- R328, R333, R335, R338, R340: POT.JOIN takes the lowest FREE entry, PENDING with its request on its way, or DENIED where no
pot can be reached, and returns its index, all ones without a free entry; n outside 1 to 256 traps SHAPE, FB not 16-aligned
MISALIGN. POT.CLOSE.J withdraws a pending request, or forfeits the antes left, and frees the entry; POT.STAT.J returns the join
word. That SHAPE and MISALIGN come before the search for a FREE entry is the model's choice (log 64). -/
def Sys2Proof.Claim.PotJoining : Prop := ∀ (f : EN) (s : State),
  let k := s.self
  let a := k.rd f.xa
  let n := (k.rd f.xb).toNat
  let fb := k.rd f.xc
  let task := k.tk.task.getD 0
  (ready s [f.xa, f.xb, f.xc] → slotFree s f.xd → k.tf = false →
    (n = 0 ∨ 256 < n → exec (.potJoin f) s = trapped s 8 (k.rd f.xb) k.pc) ∧
    (1 ≤ n → n ≤ 256 → fb.toNat % 16 ≠ 0 → exec (.potJoin f) s = trapped s 4 fb k.pc)) ∧
  (ready s [f.xa, f.xb, f.xc] → slotFree s f.xd → 1 ≤ n → n ≤ 256 → fb.toNat % 16 = 0 →
    ((∀ j, (k.join j).st ≠ .free) → exec (.potJoin f) s = replied s 8 f.xd 0xFFFF_FFFF_FFFF_FFFF) ∧
    (∀ j : BitVec 6, (k.join j).st = .free → (∀ i < j.toNat, (k.join (BitVec.ofNat 6 i)).st ≠ .free) →
      let e : Join := { Join.free with st := .pending, fb := fb, n := n, node := a.extractLsb' 8 10, core := a.setWidth 8
                                       tile := f.opA }
      (a.toNat < 2 ^ 18 → s.isLocal e.node = true → exec (.potJoin f) s = .next ({ s with
          net := s.net ++ [e.packet 0 s.cur j task (.join k.tk.tenant n)] }.modSelf fun k =>
            (replying f.xd (j.setWidth 64) (k.setJoin j e)).retire 8)) ∧
      (2 ^ 18 ≤ a.toNat ∨ s.joinable k.tk.tenant e.node = false → exec (.potJoin f) s =
        did s 8 fun k => replying f.xd (j.setWidth 64) (k.setJoin j { e with st := .denied })))) ∧
  (ready s [f.xa] → s.dealer.saved = [] → ∀ id, k.tk.task = some id → a.toNat < 64 →
    let j : BitVec 6 := a.setWidth 6
    let e := k.join j
    let frees := fun (sent : List Packet) => exec (.potCloseJ f) s =
      .next ({ s with net := s.net ++ sent }.modSelf fun k => (k.setJoin j Join.free).retire 8)
    s.isLocal e.node = true →
    (e.st = .pending → frees [e.packet 0 s.cur j id .withdraw]) ∧
    (e.st = .granted ∨ e.st = .spilled → frees (if e.left = 0 then [] else [e.packet 1 s.cur j id (.forfeit e.left)])) ∧
    (e.st ≠ .pending → e.st ≠ .granted → e.st ≠ .spilled → frees [])) ∧
  (ready s [f.xa] → 64 ≤ a.toNat → exec (.potCloseJ f) s = did s 8 id) ∧
  (ready s [f.xa] → slotFree s f.xd → a.toNat < 64 →
    exec (.potStatJ f) s = replied s 8 f.xd (k.join (a.setWidth 6)).word) ∧
  (∀ e : Join, e.n ≤ 256 → e.left ≤ 256 →
    let field := bits e.word
    field 61 3 = e.st.code ∧ field 60 1 = (if e.fb = 0 then 0 else 1) ∧ field 58 2 = e.rule.toNat ∧ field 49 9 = e.n ∧
    field 40 9 = e.left ∧ field 30 10 = e.node.toNat ∧ field 22 8 = e.core.toNat ∧ field 14 8 = e.tile.toNat)

/-- R339, R156: POT.SEND waits while an earlier contribution of its thread is on its way; then it sends the elements as one
contribution while its entry is GRANTED with antes left, lends the registers and returns 0; where its pot is SPILLED it adds them at the fallback address, sends FBCOUNT and returns 2; it returns 1 while PENDING, 3 without an ante and 4 for an entry that is FREE, OVER or DENIED; a CLOSED entry traps
ACN_TARGET. -/
def Sys2Proof.Claim.PotSending : Prop := ∀ (f : EN) (s : State), ready s [f.xa] → slotFree s f.xd →
  let k := s.self
  let a := k.rd f.xa
  let j : BitVec 6 := a.setWidth 6
  let e := k.join j
  let r := f.opA.toNat
  let regs := if e.rule = 1 then [r, r + 1, r + 2] else [r]
  let value := fun i => regs.foldr (fun c acc => elem k c 32 i + 2 ^ 32 * acc) 0
  let to_ := e.core.toNat + e.tile.toNat * 2 ^ 8 + e.node.toNat * 2 ^ 16 + j.toNat * 2 ^ 32
  (64 ≤ a.toNat → exec (.potSend f) s = replied s 8 f.xd 4) ∧
  (a.toNat < 64 → k.vstart = 0 →
    (e.st = .free ∨ e.st = .over ∨ e.st = .denied → exec (.potSend f) s = replied s 8 f.xd 4) ∧
    (e.st = .pending → exec (.potSend f) s = replied s 8 f.xd 1) ∧
    (e.st = .closed → k.tf = false → exec (.potSend f) s = trapped s 0x10 (toWord to_) k.pc) ∧
    (e.st = .granted ∨ e.st = .spilled → e.left = 0 → exec (.potSend f) s = replied s 8 f.xd 3) ∧
    (e.st = .granted ∨ e.st = .spilled → e.left ≠ 0 → r + regs.length ≤ 32 → e.e ≤ k.capBits / 32 →
      (e.rule = 1 → k.wace = e.wace) → (∀ c ∈ regs, k.vec.state c ≠ .empty) → k.vec.poison = [] →
      s.sending s.cur = true → exec (.potSend f) s = waitsFor s .resource) ∧
    (s.sending s.cur = false → e.st = .granted → e.left ≠ 0 → r + regs.length ≤ 32 → e.e ≤ k.capBits / 32 → (e.rule = 1 → k.wace = e.wace) →
      (∀ c ∈ regs, k.vec.state c ≠ .empty) → k.vec.poison = [] → s.ms.chains = [] → s.isLocal e.node = true →
      ∃ u, exec (.potSend f) s = .next u ∧ u.ms.mem = s.ms.mem ∧ u.self.replies = k.replies ++ [⟨[(f.xd, 0)]⟩] ∧
        u.self.join j = { e with left := e.left - 1 } ∧ (∀ i, i ≠ j → u.self.join i = k.join i) ∧
        u.self.pc = (k.retire 8).pc ∧ (∀ c < 42, u.self.vec.bitsOf c = k.vec.bitsOf c) ∧
        (∀ c ∈ regs, u.self.vec.state c = .lent) ∧
        u.net = s.net ++ [{ e.packet 2 s.cur j (k.tk.task.getD 0)
          (.data ((k.csrAt 0x060).setWidth 8) ((List.range e.e).map value)) with lent := regs.map (BitVec.ofNat 5) }]) ∧
    (s.sending s.cur = false → e.st = .spilled → e.left ≠ 0 → e.fb = 0 → r + regs.length ≤ 32 → e.e ≤ k.capBits / 32 →
      (e.rule = 1 → k.wace = e.wace) → (∀ c ∈ regs, k.vec.state c ≠ .empty) → k.vec.poison = [] → s.ms.chains = [] →
      k.tf = false → exec (.potSend f) s = .next (s.release.modSelf fun k =>
        k.enterTrap false 0x10 (toWord (to_ + 2 ^ 40)) k.pc)) ∧
    (s.sending s.cur = false → e.st = .spilled → e.left ≠ 0 → e.fb ≠ 0 → e.fb.toNat % 16 = 0 → r + regs.length ≤ 32 → e.e ≤ k.capBits / 32 →
      (e.rule = 1 → k.wace = e.wace) → (∀ c ∈ regs, k.vec.state c ≠ .empty) → k.vec.poison = [] → s.ms.chains = [] →
      s.ms.poison = [] → k.cache.pin = none → s.isLocal e.node = true → ∀ w : Nat → TlbEntry,
      let n := if e.rule = 1 then 16 else 4
      let at_ := fun i => e.fb + toWord (n * i)
      let pa := fun i => s.leafAddr (w i).pte (w i).level (at_ i)
      (∀ i < e.e, mapped s (at_ i) { kind := 3, n := n, msu := true } (w i) ∧ atRest s (pa i) n none) →
      (∀ i < e.e, ∀ j < e.e, i ≠ j → pa i + n ≤ pa j ∨ pa j + n ≤ pa i) →
      ∃ u, exec (.potSend f) s = .next u ∧ u.self.vec = k.vec ∧ u.self.replies = k.replies ++ [⟨[(f.xd, 2)]⟩] ∧
        u.self.join j = { e with left := e.left - 1 } ∧
        u.net = s.net ++ [e.packet 1 s.cur j (k.tk.task.getD 0) (.fbcount ((k.csrAt 0x060).setWidth 8))] ∧
        (∀ i < e.e, u.ms.mem.read (pa i) n =
          (potAdd e.rule (s.ms.mem.read (pa i) n) (value i)).1 % 2 ^ (8 * n)) ∧
        ∀ b, (∀ i < e.e, b < pa i ∨ pa i + n ≤ b) → u.ms.mem.get b = s.ms.mem.get b))

/-- R333, R335, R338 to R340: joins made, used and closed. -/
def Obligations.JoinInstructions : Prop := Sys2Proof.Claim.PotJoining ∧ Sys2Proof.Claim.PotSending


/-- R328, R330, R332, R333, R345: what each packet does where it arrives: a request is granted, answered OVER, or held while
no pot that is not spilled is open; a notice moves its join entry; a contribution is added element by element by the pot's rule; a withdrawn request is
dropped. -/
def Sys2Proof.Claim.NetworkPackets : Prop := ∀ (s : State) (p : Packet) (pot : Pot) (x : Joiner) (e : Join),
  let c := p.dstCore
  let k := s.core c
  let same := fun (st : JoinState) => received s c fun k => k.setJoin p.j { e with st := st }
  let log := fun (fb : Bool) => 2 ^ 31 + (if fb then 2 ^ 30 else 0) + p.srcNode.toNat * 2 ^ 8 + p.srcCore.toNat
  let place := (k.tile pot.tile.toNat).start + pot.e * pot.fillBytes + 4 * pot.arrived
  (∀ tenant n, sole s p (.join tenant n) →
    let y : Joiner := ⟨p.srcNode, p.srcCore, p.j, p.task, n, false⟩
    let answer := fun load => y.notice c pot load
    (k.pot p.tile = some pot → pot.spilled = false → s.isLocal p.srcNode = true → tenant = k.tk.tenant →
      (pot.granted + n ≤ pot.expect → exec (.joinRequestArrival 0) s =
        .next ({ s with net := [answer (.grant n pot.rule pot.fmt pot.e pot.wace)] }.modCore c fun k =>
          k.putPot { pot with granted := pot.granted + n, joiners := pot.joiners ++ [y] })) ∧
      (pot.expect < pot.granted + n → exec (.joinRequestArrival 0) s = .next { s with net := [answer .over] })) ∧
    (k.pot p.tile = some pot → pot.spilled = false → s.isLocal p.srcNode = true → tenant ≠ k.tk.tenant →
      exec (.joinRequestArrival 0) s = .next { s with net := [answer .denied] }) ∧
    ((∀ q, k.pot p.tile = some q → q.spilled = true) → k.acn.pend.length < 256 → exec (.joinRequestArrival 0) s = received s c fun k =>
      { k with acn := { k.acn with
        pend := k.acn.pend ++ [⟨p.srcNode, p.srcCore, p.j, p.task, tenant, p.tile, n⟩] } })) ∧
  (∀ n rule fmt m wace, sole s p (.grant n rule fmt m wace) → noticed s p e → e.st = .pending → e.n = n →
    exec (.grant 0) s = received s c fun k => k.setJoin p.j { e with
      st := .granted, left := n, rule := rule, fmt := fmt, e := m, wace := wace, retry := false
      serial := p.serial }) ∧
  (sole s p .over → noticed s p e → e.st = .pending → exec (.over 0) s = same .over) ∧
  (sole s p .denied → noticed s p e → e.st = .pending → exec (.denied 0) s = same .denied) ∧
  (sole s p .spilled → noticed s p e → e.st = .granted → exec (.spilled 0) s = same .spilled) ∧
  (sole s p .resumed → noticed s p e → e.st = .spilled → exec (.resumed 0) s = same .granted) ∧
  (sole s p .closed → noticed s p e → e.st = .pending ∨ e.st = .granted ∨ e.st = .spilled →
    exec (.closed 0) s = same .closed) ∧
  (∀ n, sole s p (.forfeit n) → meets s p pot x → 0 < n → n ≤ x.left → exec (.forfeit 0) s = received s c fun k => k.putPot { pot with
    forf := pot.forf + n, forfany := true, joiners := [{ x with left := x.left - n }] }) ∧
  (∀ rank, sole s p (.fbcount rank) → meets s p pot x →
    ∃ u : Core, exec (.fbcount 0) s = .next ({ s with net := [] }.setCore c u) ∧ u.acn.pots = [arrived pot x true] ∧
      u.vec = k.vec ∧ u.x = k.x ∧
      (pot.log = false → u.scratch = k.scratch) ∧
      (pot.log = true → u.scratch.read place 4 = log true + rank.toNat * 2 ^ 18 ∧
        ∀ b, b < place ∨ place + 4 ≤ b → u.scratch.get b = k.scratch.get b)) ∧
  (sole s p .withdraw → exec (.joinWithdrawal 0) s = received s c fun k => { k with acn := { k.acn with
    pend := k.acn.pend.filter fun x =>
      !(x.node == p.srcNode && x.core == p.srcCore && x.j == p.j && x.task == p.task) } }) ∧
  (∀ rank elems, sole s p (.data rank elems) → meets s p pot x → p.lent = [] → pot.spilled = false → pot.log = true →
    elems.length = pot.e →
    ∃ u : Core, exec (.contributionArrival 0) s = .next ({ s with net := [] }.setCore c u) ∧ u.vec = k.vec ∧ u.x = k.x ∧
      (∃ fl, u.acn.pots = [{ arrived pot x false with fl := fl }]) ∧
      u.scratch.read place 4 = log false + rank.toNat * 2 ^ 18 ∧
      let n := pot.fillBytes
      let at_ := fun i => (k.tile pot.tile.toNat).start + n * i
      (∀ i < pot.e, u.scratch.read (at_ i) n =
        (potAdd pot.rule (k.scratch.read (at_ i) n) ((elems[i]?).getD 0)).1 % 2 ^ (8 * n)) ∧
      ∀ b, b < at_ 0 ∨ at_ pot.e ≤ b → b < place ∨ place + 4 ≤ b → u.scratch.get b = k.scratch.get b)

/-- R328, R343: a request answered RETRY goes out again, from a saved context too; the loss of a linked node closes the joins to
it and forfeits what its joiners hold and no packet on its way spends or returns (the last condition the model's choice, log 35). -/
def Sys2Proof.Claim.NetworkRecovery : Prop := ∀ (s : State) (c : CoreId) (j : BitVec 6) (node : BitVec 10),
  let k := s.core c
  let e := k.join j
  (∀ id, k.tk.task = some id → s.dealer.saved = [] → e.st = .pending → e.retry = true → s.isLocal e.node = true →
    exec (.joinRetryReissue c j) s = .next ({ s with net := s.net ++ [e.packet 0 c j id (.join k.tk.tenant e.n)] }.modCore c fun k =>
      k.setJoin j { e with retry := false })) ∧
  (∀ x : SavedCtx, k.tk.task = none → s.dealer.saved = [x] → x.core = c →
    let e := x.body.join j
    e.st = .pending → e.retry = true → s.isLocal e.node = true → exec (.joinRetryReissue c j) s = .next { s with
      net := s.net ++ [e.packet 0 c j x.task (.join x.body.tk.tenant e.n)]
      dealer := { s.dealer with saved := [{ x with body := x.body.setJoin j { e with retry := false } }] } }) ∧
  (s.isLocal node = false → ∃ t, exec (.nodeLinkLoss node) s = .next t ∧ t.ms = s.ms ∧ t.net = s.net ∧
    ((t.core c).x = k.x ∧ (t.core c).vec = k.vec ∧ (t.core c).tiles = k.tiles ∧ (t.core c).scratch = k.scratch) ∧
    (t.core c).join j = (if e.node = node ∧ (e.st = .pending ∨ e.st = .granted ∨ e.st = .spilled)
      then { e with st := .closed } else e) ∧
    ∀ p x, k.acn.pots = [p] → p.joiners = [x] → x.node = node →
      let m := x.left - x.inFlight c p s.net
      ((∀ q ∈ s.net, q.dstCore = c → x.sentBy q = false) → m = x.left) ∧
      (m ≠ 0 → (t.core c).acn.pots = [{ p with
        forf := p.forf + m, forfany := true, joiners := [{ x with left := x.left - m }] }]))

/-- R328, R330, R332, R333, R343, R345: what each packet does, and recovery. -/
def Obligations.AccumulateNetwork : Prop := Sys2Proof.Claim.NetworkPackets ∧ Sys2Proof.Claim.NetworkRecovery


/-! ### Synchronisation objects and queues -/

namespace Sys2Proof.Claim

/-- The object of n bytes at address a: aligned, mapped for an operation of its kind, at rest in memory, not poisoned (R124,
R276). -/
def object (s : State) (a : Word) (n kind : Nat) (e : TlbEntry) : Prop :=
  a.toNat % n = 0 ∧ mapped s a { kind := kind, n := n, msu := true, noHost := true } e ∧
  atRest s (s.leafAddr e.pte e.level a) n none ∧ s.ms.poison = []

/-- One operation at the memory of an object has left new in its n bytes, and the core differs by f. -/
def operated (s : State) (i : Instr) (size pa n new : Nat) (f : Core → Core) : Prop :=
  ∃ t, exec i s = .next t ∧ stores s t pa n new ∧ onlyMemory s t size f

/-- An instruction that would release waits while contributions of its thread are on their way; nothing else has changed
(R156). -/
def heldBySends (s : State) (i : Instr) : Prop := exec i s = .next (s.modSelf fun k => { k with wait := .resource })

/-- A clasp with these fields (R133). -/
def clasp (count expected next phase closed : Nat) : Nat :=
  count + closed * 2 ^ 30 + 2 ^ 31 + phase * 2 ^ 32 + expected * 2 ^ 64 + next * 2 ^ 96

/-- A deck's header (R131). -/
def deck (head tail cap : Nat) : Nat := head + tail * 2 ^ 32 + cap * 2 ^ 64 + 2 ^ 127

/-- A deck operation has left head and tail, and v in the entry at place q if there is one; nothing else has changed. -/
def dealt (s : State) (i : Instr) (pa head tail : Nat) (q : Option Nat) (v : Nat) (f : Core → Core) : Prop :=
  ∃ t, exec i s = .next t ∧ onlyMemory s t 8 f ∧ t.ms.mem.read pa 8 = head % 2 ^ 32 + tail % 2 ^ 32 * 2 ^ 32 ∧
    (∀ e, q = some e → t.ms.mem.read e 8 = v) ∧
    ∀ b, b < pa ∨ pa + 8 ≤ b → (∀ e, q = some e → b < e ∨ e + 8 ≤ b) → t.ms.mem.get b = s.ms.mem.get b

end Sys2Proof.Claim

/-- R130, R276: CLAIM takes up to min(xb, MaxCols) of what its object has left, returns the base and sets the shape. -/
def Sys2Proof.Claim.Claiming : Prop := ∀ (f : SM) (s : State) (e : TlbEntry), ready s [f.xa, f.xb] → slotFree s f.xd →
  let k := s.self
  let a := k.rd f.xa + f.value
  let pa := s.leafAddr e.pte e.level a
  let size := extSize f.ext
  (k.ew ≤ 5 → a.toNat % 16 ≠ 0 → k.tf = false → exec (.claim f) s = trapped s 4 a k.pc) ∧
  (5 < k.ew → k.tf = false → exec (.claim f) s = trapped s 2 (Instr.word (.claim f)) k.pc) ∧
  (k.ew ≤ 5 → object s a 16 3 e → 2 ≤ f.ord.toNat → s.sending s.cur = true → heldBySends s (.claim f)) ∧
  (k.ew ≤ 5 → object s a 16 3 e → released s f.ord.toNat → ∀ next limit, next < 2 ^ 64 → limit < 2 ^ 64 →
    s.ms.mem.read pa 16 = next + limit * 2 ^ 64 →
    let g := min (min (k.rd f.xb).toNat (k.maxCols (if k.ew = 5 then 32 else ewWidth k.ew))) (limit - next)
    operated s (.claim f) size pa 16 (next + g + limit * 2 ^ 64) fun k => replying f.xd (toWord next)
      (((k.setCsr 0x001 (if g = 0 then 0 else 1)).setCsr 0x002 (toWord g)).setCsr 0x003 0))

/-- R131, R132, R276: a deck takes its newest entry by POP and its oldest by STEAL, and grows by PUSH; FULL and EMPTY change
nothing, and a header that is not one gives BAD. -/
def Sys2Proof.Claim.Decks : Prop := ∀ (f : SM) (s : State) (e : TlbEntry), ready s [f.xa, f.xb] → slotFree s f.xd →
  let k := s.self
  let a := k.rd f.xa
  let pa := s.leafAddr e.pte e.level a
  let status := fun (v : Nat) => replying f.xd (toWord v)
  let value := fun (v : Nat) (k : Core) => { k with replies := k.replies ++ [⟨[(f.xd, 0), (f.xb, toWord v)]⟩] }
  (a.toNat % 64 ≠ 0 → k.tf = false → exec (.deckPush f) s = trapped s 4 a k.pc ∧
    exec (.deckPop f) s = trapped s 4 a k.pc ∧ exec (.deckSteal f) s = trapped s 4 a k.pc) ∧
  (object s a 64 3 e → released s f.ord.toNat → fld (s.ms.mem.read pa 64) 127 1 = 0 →
    let old := s.ms.mem.read pa 8
    dealt s (.deckPush f) pa old (old / 2 ^ 32) none 0 (status 3) ∧
    dealt s (.deckPop f) pa old (old / 2 ^ 32) none 0 (status 3) ∧
    dealt s (.deckSteal f) pa old (old / 2 ^ 32) none 0 (status 3)) ∧
  (object s a 64 3 e → released s f.ord.toNat → ∀ head tail cap, head < 2 ^ 32 → tail < 2 ^ 32 → 1 ≤ cap → cap ≤ 20 →
    s.ms.mem.read pa 64 = deck head tail cap →
    let n := (tail + 2 ^ 32 - head) % 2 ^ 32
    let place := fun (i : Nat) => 64 + 8 * (i % 2 ^ 32 % 2 ^ cap)
    let at_ := fun (i : Nat) => pa + place i
    let open_ := fun (i : Nat) => at_ i + 8 ≤ 2 ^ 42 ∧ atRest s (at_ i) 8 none ∧
      s.inWindows k.tk.tenant (leafRaw e.pte e.level a + place i) 8 = true
    (n = 2 ^ cap → dealt s (.deckPush f) pa head tail none 0 (status 2)) ∧
    (n < 2 ^ cap → open_ tail →
      dealt s (.deckPush f) pa head (tail + 1) (some (at_ tail)) (k.rd f.xb).toNat (status 0)) ∧
    (n = 0 → dealt s (.deckPop f) pa head tail none 0 (status 1) ∧ dealt s (.deckSteal f) pa head tail none 0 (status 1)) ∧
    (0 < n → n ≤ 2 ^ cap → open_ (tail + (2 ^ 32 - 1)) →
      dealt s (.deckPop f) pa head (tail + (2 ^ 32 - 1)) none 0 (value (s.ms.mem.read (at_ (tail + (2 ^ 32 - 1))) 8))) ∧
    (0 < n → n ≤ 2 ^ cap → open_ head →
      dealt s (.deckSteal f) pa (head + 1) tail none 0 (value (s.ms.mem.read (at_ head) 8))))

/-- R133, R134, R276, R277: CLASP.INIT makes a clasp of 1 to 2²⁴ - 1 members; ARRIVE and DROP count, the last arrival starts
the next phase with the members then left, none of them closing the clasp; CLASP.WAIT returns the phase once it is no longer
the one in xb[63:32], and waits, armed, until then. That xd[63:32] is 0 beside BAD and CLOSED is the model's choice
(log 36). -/
def Sys2Proof.Claim.Clasps : Prop := ∀ (f : SM) (s : State) (e : TlbEntry), ready s [f.xa, f.xb] → slotFree s f.xd →
  let k := s.self
  let a := k.rd f.xa + f.value
  let pa := s.leafAddr e.pte e.level a
  let size := extSize f.ext
  let old := s.ms.mem.read pa 32
  let status := fun (p v : Nat) => replying f.xd (toWord (p * 2 ^ 32 + v))
  let m := (k.rd f.xb).toNat
  let full := s.ms.monitor s.cur (pa / 8) = none ∧ 8 ≤ s.ms.monitorCount s.cur
  (a.toNat % 32 ≠ 0 → k.tf = false → exec (.claspInit f) s = trapped s 4 a k.pc ∧
    exec (.claspArrive f) s = trapped s 4 a k.pc ∧ exec (.claspDrop f) s = trapped s 4 a k.pc ∧
    exec (.claspWait f) s = trapped s 4 a k.pc) ∧
  (object s a 32 3 e → s.sending s.cur = true → heldBySends s (.claspArrive f) ∧ heldBySends s (.claspDrop f)) ∧
  (object s a 32 3 e → s.sending s.cur = false →
    (1 ≤ m → m < 2 ^ 24 → operated s (.claspInit f) size pa 32 (clasp 0 m m 0 0) (status 0 0)) ∧
    (m = 0 ∨ 2 ^ 24 ≤ m → operated s (.claspInit f) size pa 32 old (status 0 3)) ∧
    (fld old 31 1 = 0 → operated s (.claspArrive f) size pa 32 old (status 0 3) ∧
      operated s (.claspDrop f) size pa 32 old (status 0 3)) ∧
    ∀ count expected next phase, count < 2 ^ 24 → expected < 2 ^ 24 → next < 2 ^ 24 → phase < 2 ^ 32 →
      (old = clasp count expected next phase 1 → operated s (.claspArrive f) size pa 32 old (status 0 2) ∧
        operated s (.claspDrop f) size pa 32 old (status 0 2)) ∧
      (old = clasp count expected next phase 0 →
        (count + 1 < expected → operated s (.claspArrive f) size pa 32 (clasp (count + 1) expected next phase 0) (status phase 0)) ∧
        (count + 1 = expected → operated s (.claspArrive f) size pa 32
          (clasp 0 next next ((phase + 1) % 2 ^ 32) (if next = 0 then 1 else 0)) (status phase 1)) ∧
        (next = 0 → operated s (.claspDrop f) size pa 32 old (status 0 3)) ∧
        (0 < next → count + 1 < expected →
          operated s (.claspDrop f) size pa 32 (clasp (count + 1) expected (next - 1) phase 0) (status phase 0)) ∧
        (0 < next → count + 1 = expected → operated s (.claspDrop f) size pa 32
          (clasp 0 (next - 1) (next - 1) ((phase + 1) % 2 ^ 32) (if next = 1 then 1 else 0)) (status phase 1)))) ∧
  (object s a 32 0 e → k.wait ≠ .clasp (pa / 8) true →
    (fld old 31 1 = 0 → operated s (.claspWait f) size pa 32 old (status 0 3)) ∧
    (fld old 31 1 = 1 → fld old 32 32 ≠ m / 2 ^ 32 → operated s (.claspWait f) size pa 32 old (status (fld old 32 32) 0)) ∧
    (fld old 31 1 = 1 → fld old 32 32 = m / 2 ^ 32 → ∃ t, exec (.claspWait f) s = .next t ∧ t.ms.mem = s.ms.mem ∧
      t.self = { k with cache := t.self.cache, wait := t.self.wait } ∧
      (full → t.self.wait = .clasp (pa / 8) true) ∧
      (¬full → t.self.wait = .clasp (pa / 8) false ∧
        t.ms.monitor s.cur (pa / 8) = some ⟨s.cur, pa / 8, k.tk.tenant, false⟩)))

/-- R135, R136, R277: WAITA returns 0 when its monitor has FIRED or its word already differs from xb; else it waits, its
monitor armed; with all 8 monitors held by other words it waits without one. Stores to the word fire the monitor. The
model's choices: the word is read at its home, past a held L1 line, and not read while the 8 monitors are held (log 36). -/
def Sys2Proof.Claim.WaitingOnAWord : Prop := ∀ (f : SM) (s : State) (e : TlbEntry), ready s [f.xa, f.xb] → slotFree s f.xd →
  let k := s.self
  let a := k.rd f.xa + f.value
  let pa := s.leafAddr e.pte e.level a
  let size := extSize f.ext
  let mine := s.ms.monitor s.cur (pa / 8)
  let v := (List.range 8).foldr (fun j v => byteAt s (pa + j) + 256 * v) 0
  let waits := fun full => ∃ t, exec (.waita f) s = .next t ∧ t.ms.mem = s.ms.mem ∧
    t.self = { k with cache := t.self.cache, wait := .waita f.xd size (pa / 8) full } ∧
    (full = false → ∃ m, t.ms.monitor s.cur (pa / 8) = some m ∧ m.fired = false)
  let armed := (mine = none ∧ s.ms.monitorCount s.cur < 8) ∨ ∃ m, mine = some m ∧ m.fired = false
  (a.toNat % 8 ≠ 0 → k.tf = false → exec (.waita f) s = trapped s 4 a k.pc) ∧
  (a.toNat % 8 = 0 → mapped s a { kind := 0, n := 8, msu := true } e →
    atRest s pa 8 (if uncached s e pa then none else some (lineKey s e pa)) → (uncached s e pa = false → roomy s e pa) →
    s.ms.poison = [] → (∀ h ∈ s.ms.homes, h.poison = 0) → k.wait ≠ .waita f.xd size (pa / 8) true →
    (∀ m, mine = some m → m.fired = true → operated s (.waita f) size pa 8 v (replying f.xd 0)) ∧
    (armed → v ≠ (k.rd f.xb).toNat → operated s (.waita f) size pa 8 v (replying f.xd 0)) ∧
    (armed → v = (k.rd f.xb).toNat → waits false) ∧
    (mine = none → 8 ≤ s.ms.monitorCount s.cur → waits true))

/-- R130 to R136, R276, R277: CLAIM, decks, clasps and WAITA. -/
def Obligations.SynchronisationObjects : Prop := Sys2Proof.Claim.Claiming ∧ Sys2Proof.Claim.Decks ∧ Sys2Proof.Claim.Clasps ∧ Sys2Proof.Claim.WaitingOnAWord


/-- R363: ENQ puts the record of 64 bytes at the tail of the queue of a node of its tenant, adds one to QTAIL and returns 0; 1
where the queue is full and 2 where the node is invalid; no memory changes then. ENQ releases, and has the tenant's blocked
heads read again (R384). -/
def Obligations.Enqueuing : Prop := ∀ (f : SY) (s : State) (e : TlbEntry) (l : L1Line), ready s [f.xa] → slotFree s f.xd →
  let k := s.self
  let a := k.rd f.xa
  let pa := s.leafAddr e.pte e.level a
  let t := k.tk.tenant
  let s' := s.rereadDue t
  let r := f.uvalue.toNat % 2 ^ 16
  let size := extSize f.ext
  let record := fun (j : Nat) => lineRead l.data (pa % 256 + j) 1
  (a.toNat % 64 ≠ 0 → k.tf = false → exec (.enq f) s = trapped s 4 a k.pc) ∧
  (a.toNat % 64 = 0 → uncached s e pa = false → s.self.l1Line (lineKey s e pa) = some l → s.ms.chains = [] →
    (∀ i < 8, mapped s (a + toWord (8 * i)) { kind := 0, n := 8 } e ∧ rawReadOk 8 e.pte (pa + 8 * i) = true) →
    (s.sending s.cur = true → heldBySends s (.enq f)) ∧
    (s.sending s.cur = false → s.node? t.toNat r = none → exec (.enq f) s = replied s' size f.xd 2) ∧
    (s.sending s.cur = false → ∀ n, s.node? t.toNat r = some n →
      (nodeOk t.toNat (s.path t.toNat r) = false → exec (.enq f) s = replied s' size f.xd 2) ∧
      (nodeOk t.toNat (s.path t.toNat r) = true → (n.qtail + 2 ^ 32 - n.qhead) % 2 ^ 32 = 2 ^ n.qlog →
        exec (.enq f) s = replied s' size f.xd 1) ∧
      (nodeOk t.toNat (s.path t.toNat r) = true → (n.qtail + 2 ^ 32 - n.qhead) % 2 ^ 32 ≠ 2 ^ n.qlog →
        let raw := n.qbase + 64 * (n.qtail % 2 ^ n.qlog)
        let place := s.localize raw
        let tail := s.nodeAddr t.toNat r + 40
        s.inTables t raw 64 = true → atRest s place 64 none → atRest s tail 8 none → tail % 64 = 40 → place % 64 = 0 →
        place / 64 ≠ tail / 64 →
        ∃ u, exec (.enq f) s = .next u ∧ onlyMemory s' u size (replying f.xd 0) ∧
          (∀ j < 64, byteAt u (place + j) = record j) ∧
          (∀ j < 8, byteAt u (tail + j) = fld (setBits (n.at_ 5) 32 32 (n.qtail + 1)).toNat (8 * j) 8) ∧
          ∀ b < 2 ^ 42, b < place ∨ place + 64 ≤ b → b < tail ∨ tail + 8 ≤ b → byteAt u b = byteAt s b)))

/-! ### The fabric -/

namespace Sys2Proof.Claim

/-- The frozen FOP of a slot, if there is one, is gone (R323). -/
def thawed (k : Core) (slot : BitVec 6) (f : Fabric) : Prop :=
  f.grid = if k.fab.grid.any (fun g => g.frozen && g.slot == slot) then none else k.fab.grid

/-- An element whose first two queues hold a and b at their heads, with free outputs and nothing escaped. -/
def holding (x : GridElem) (en : Nat) (a b : Token) (qa qb : List Token) : Prop :=
  x.q = [a :: qa, b :: qb, [], []] ∧ wordEn x.word = en ∧ wordSel x.word 0 ≠ 16 ∧ wordSel x.word 1 ≠ 16 ∧ x.esc = [] ∧
  x.a = none ∧ x.b = none

end Sys2Proof.Claim

/-- R316, R317, R319, R320, R323: FBIND reads an image, returns 0 and binds the slot when it is good, 3 when it is malformed, 2
when a signature differs, and binds nothing then; FUNBIND unbinds; FQRY returns the binding word. -/
def Sys2Proof.Claim.FabricBindings : Prop := ∀ (f : EN) (s : State),
  let k := s.self
  let a := k.rd f.xa
  let slot := EN.slot f
  (ready s [f.xa] → slotFree s f.xd → k.tf = false → a.toNat % 256 ≠ 0 → exec (.fbind f) s = trapped s 4 a k.pc) ∧
  (ready s [f.xa] → slotFree s f.xd → a.toNat % 256 = 0 → canonical a = true → ∀ img,
    copyRead (s.ctxOf s.cur) [] a imageBytes (fun e _ => pteFmt e == 0) false s = .ok img s →
    let good := headerOk img = true ∧ wordsOk img = true
    let binds := fun (v : Word) (bound : Fabric → Prop) => ∃ u : Core,
      exec (.fbind f) s = .next (s.modSelf fun _ => u) ∧ u.replies = k.replies ++ [⟨[(f.xd, v)]⟩] ∧ u.x = k.x ∧
      u.vec = k.vec ∧ u.pc = (k.retire 8).pc ∧ thawed k slot u.fab ∧
      (∀ i, i ≠ slot.toNat → u.fab.slots[i]? = k.fab.slots[i]?) ∧ bound u.fab
    (¬good → binds 3 fun b => b.slots = k.fab.slots) ∧
    (good → signaturesOk img = false → binds 2 fun b => b.slots = k.fab.slots) ∧
    (good → signaturesOk img = true → binds 0 fun b =>
      b.slots[slot.toNat] = some ⟨bits a 8 48 * 256, imgDword img 0, imgDword img 1⟩ ∧
      ∃ q : BitVec 2, b.planes[q.toNat] = some (planeOf (bits a 8 48 * 256) img))) ∧
  (∃ u : Core, exec (.funbind f) s = .next (s.modSelf fun _ => u) ∧ u.x = k.x ∧ u.vec = k.vec ∧ u.replies = k.replies ∧
    u.pc = (k.retire 8).pc ∧ u.fab.slots = k.fab.slots.set slot.toNat none ∧ u.fab.planes = k.fab.planes ∧
    thawed k slot u.fab) ∧
  (slotFree s f.xd →
    (k.fab.slots[slot.toNat] = none → exec (.fqry f) s = replied s 8 f.xd 0) ∧
    (∀ b, k.fab.slots[slot.toNat] = some b → ∃ v, exec (.fqry f) s = replied s 8 f.xd v ∧
      (b.img % 256 = 0 → b.img < 2 ^ 56 → bits v 8 48 = b.img / 256) ∧ v.getLsbD 7 = true ∧
      v.getLsbD 6 = (k.fab.resident b.img).isSome ∧ v.getLsbD 5 = b.hdr.getLsbD 23 ∧
      (∀ q, k.fab.resident b.img = some q → v.extractLsb' 3 2 = q) ∧ (k.fab.resident b.img = none → v.extractLsb' 3 2 = 0) ∧
      v.getLsbD 2 = (k.fab.grid.any fun g => g.frozen && g.slot == slot) ∧
      (1 ≤ bits b.hdr 19 2 → bits b.hdr 19 2 ≤ 2 → v.getLsbD 0 = decide (bits b.hdr 19 2 = 2)) ∧
      (bits b.hdr 19 2 ≤ 2 → v.getLsbD 1 = false) ∧ (b.img < 2 ^ 56 → v.extractLsb' 56 8 = 0)))

/-- R312: an element fires when its enabled queues hold a token and its output is free: the arithmetic opcodes, STEER, MERGE,
and the end rule; it does not fire while its output holds a token. -/
def Sys2Proof.Claim.ElementFirings : Prop := ∀ (x : GridElem) (rm : BitVec 2) (a b : Token) (qa qb : List Token),
  holding x 3 a b qa qb →
  let opc := wordOpc x.word
  let rest := { x with q := [qa, qb, [], []] }
  let gives := fun (v : BitVec 32 × Flags) => x.ready rm = .fire (.yes { rest with a := some ⟨false, v.1⟩ } v.2)
  let fp := fun (r : Nat × Flags) => (BitVec.ofNat 32 r.1, r.2)
  (a.c = false → b.c = false →
    (opc = 0x01 → gives (a.d + b.d, 0)) ∧ (opc = 0x02 → gives (a.d - b.d, 0)) ∧ (opc = 0x03 → gives (a.d * b.d, 0)) ∧
    (opc = 0x04 → gives (a.d &&& b.d, 0)) ∧ (opc = 0x05 → gives (a.d ||| b.d, 0)) ∧
    (opc = 0x06 → gives (a.d ^^^ b.d, 0)) ∧ (opc = 0x07 → gives (a.d <<< (b.d.toNat % 32), 0)) ∧
    (opc = 0x08 → gives (a.d >>> (b.d.toNat % 32), 0)) ∧ (opc = 0x10 → gives (fp (fp32.add rm a.d.toNat b.d.toNat))) ∧
    (opc = 0x11 → gives (fp (fp32.sub rm a.d.toNat b.d.toNat))) ∧
    (opc = 0x12 → gives (fp (fp32.mul rm a.d.toNat b.d.toNat))) ∧
    (opc = 0x23 → x.ready rm = .fire (.yes (if b.d = 0 then { rest with b := some ⟨false, a.d⟩ }
      else { rest with a := some ⟨false, a.d⟩ }) 0)) ∧
    (opc = 0x21 → wordK x.word % 4 = 1 → x.ready rm = .fire (.yes (
      if b.d.toNat < a.d.toNat then { x with q := [a :: qa, qb, [], []], a := some ⟨false, b.d⟩, b := some ⟨false, 1⟩ }
      else { x with q := [qa, b :: qb, [], []], a := some ⟨false, a.d⟩, b := some ⟨false, 0⟩ }) 0)) ∧
    (1 ≤ opc → opc ≤ 9 → ∀ t, ({ x with a := some t } : GridElem).ready rm = .fire .no)) ∧
  (a.c = true ∨ b.c = true → 1 ≤ opc → opc ≤ 9 → x.ready rm = .fire (.yes { rest with a := some ⟨true, a.d⟩ } 0))

/-- R319, R321, R323: FOP of a bound slot starts the setting that its plane holds, with its operands, and holds the thread; a
frozen FOP of the slot resumes; under a shape of no elements nothing is performed (R79); an unbound slot traps FABRIC and EW above 4 ILLEGAL_ENC. When its outputs have ended, FCNT, the
shape, the flags and the positions are written and the instruction is complete. -/
def Sys2Proof.Claim.FabricOperation : Prop := ∀ (f : FX) (s : State) (b : Bound) (q : BitVec 2) (p : Plane),
  let k := s.self
  let n := k.vrows * k.vcols
  let two := bits b.hdr 21 2 = 2
  let sources := if two then [f.va, f.vb] else [f.va]
  let dests := if bits b.hdr 19 2 = 2 then [f.vd.toNat, f.vd.toNat + 1] else [f.vd.toNat]
  (k.fab.running = true → exec (.fop f) s = waitsFor s .fabric) ∧
  (k.fab.running = false → 4 < k.ew → k.tf = false → exec (.fop f) s = trapped s 2 (Instr.word (.fop f)) k.pc) ∧
  (k.fab.running = false → k.ew ≤ 4 → k.scope ≤ 5 → k.fab.slots[f.slot.toNat] = none → k.tf = false →
    exec (.fop f) s = trapped s 0x0F (f.slot.setWidth 64) k.pc) ∧
  (k.fab.running = false → k.ew ≤ 4 → k.scope ≤ 5 → k.fab.slots[f.slot.toNat] = some b →
    f.vd.toNat < 42 → f.va.toNat < 42 → f.vb.toNat < 42 → (bits b.hdr 21 2 = 1 → f.vb = 0 ∧ f.xl = 0) →
    (bits b.hdr 19 2 = 2 → f.vd.toNat ≤ 30) → (∀ d ∈ dests, ∀ v ∈ sources, v.toNat ≠ d) →
    (∀ g, k.fab.grid = some g → g.slot = f.slot → ∃ u : Core, exec (.fop f) s = .next (s.modSelf fun _ => u) ∧
      u = { k with csr := u.csr, wait := .fabric, fab := { k.fab with grid := some { g with
        vd := f.vd, va := f.va, vb := f.vb, msk := f.msk, imm := f.value, xl := f.xl, size := extSize f.ext
        frozen := false } } }) ∧
    (k.fab.grid = none → (∃ t, streamType (bits b.types 0 5) = some t ∧ ETwidth t = ewWidth k.ew) → n = 0 →
      exec (.fop f) s = .next (s.modSelf (·.retire (extSize f.ext)))) ∧
    (k.fab.grid = none → k.fab.resident b.img = some q → k.fab.planes[q.toNat] = some p →
      (∃ t, streamType (bits b.types 0 5) = some t ∧ ETwidth t = ewWidth k.ew) → 0 < n → k.shapeOk = true →
      k.vstart = 0 →
      (1024 < n → (∀ v ∈ sources, v.toNat < 32) ∧ ∀ d ∈ dests, d < 32) →
      (two → k.empty f.xl = false ∧ (if f.xl = 0 then n else (k.rd f.xl).toNat) ≤ k.capBits / ewWidth k.ew) →
      (∀ v ∈ sources, k.vec.state v.toNat ≠ .empty) → (∀ d ∈ dests, k.vec.state d = .full) →
      ∃ (u : Core) (g : Grid), exec (.fop f) s = .next (s.modSelf fun _ => u) ∧
        u = { k with csr := u.csr, wait := .fabric, fab := u.fab } ∧
        u.fab.grid = some g ∧ u.fab.active = some q ∧ u.fab.slots = k.fab.slots ∧ u.fab.planes = k.fab.planes ∧
        g.slot = f.slot ∧ g.vd = f.vd ∧ g.va = f.va ∧ g.vb = f.vb ∧ g.msk = f.msk ∧ g.imm = f.value ∧ g.rm = k.rm ∧
        g.size = extSize f.ext ∧ g.frozen = false ∧ g.elems.map (fun x => (x.e, x.word)) = p.words ∧
        (∀ x ∈ g.elems, x.a = none ∧ x.b = none ∧ x.q = [[], [], [], []] ∧ x.esc = []) ∧ ∀ i, g.inpos[i]? = if i < 8 then some 0 else none)) ∧
  (∀ (c : CoreId) (cycles : Nat) (g h : Grid) (t : State), (s.core c).fab.grid = some g → g.frozen = false → g.reload = [] →
    State.runFop { s with cur := c } g cycles = (.done, h, t) →
    let l := t.core c
    let count := (h.outpos[h.outOf 0]?).getD 0
    let cap := if h.vd.toNat < 32 then l.capBits / ETwidth (h.outType 0) else 1024
    t.cur = c →
    ∃ u, exec (.fopComplete c cycles) s = .next ({ t with cur := s.cur }.setCore c u) ∧ u.fab.grid = none ∧
      u.pc = (l.retire h.size).pc ∧ u.x = l.x ∧ u.tiles = l.tiles ∧ u.scratch = l.scratch ∧ u.csrAt 0x018 = toWord (count % 2 ^ 32) ∧
      u.csrAt 0x002 = toWord (min count cap) ∧ u.csrAt 0x001 = (if count = 0 then 0 else 1) ∧
      (∀ b, u.fflags.getLsbD b = (l.fflags.getLsbD b || h.flags.getLsbD b)) ∧
      ∀ i < 4, u.csrAt (0x024 + i) = setBits (l.csrAt (0x024 + i)) 0 32 ((h.inpos[4 + i]?).getD 0 % 2 ^ 32))

/-- R316 to R323: bindings and FOP. -/
def Obligations.FabricInstructions : Prop := Sys2Proof.Claim.FabricBindings ∧ Sys2Proof.Claim.FabricOperation


/-- R322 to R325, R326: how a running FOP stops or is helped on: a port stop freezes it and takes its trap at the FOP; a
blocked token escapes; a full overflow buffer and a dry grid trap FABRIC; an uncorrectable configuration error invalidates an
unused plane, and is reloaded or trapped in the plane of the FOP. That every region of a running plane may fail, used
by its setting or not, and that a later error joins a reload under way, are the model's choices (log 43). -/
def Sys2Proof.Claim.FabricStops : Prop := ∀ (c : CoreId) (s : State) (g : Grid),
  let k := s.core c
  let at_ := { s with cur := c }
  k.fab.grid = some g → g.frozen = false →
  let takes := fun (i : Instr) (reason region : Nat) => k.tf = false → ∃ t, exec i s = .next t ∧ (t.core c).fab.grid = none ∧
    (t.core c).priv = .super ∧ (t.core c).csrAt 0x100 = 0x0F ∧
    (t.core c).csrAt 0x101 = toWord (reason * 2 ^ 60 + region * 2 ^ 12 + g.slot.toNat) ∧
    (t.core c).csrAt 0x102 = addrField k.pc ∧ (t.core c).pc = canon56 (k.csrAt 0x104) ∧ (t.core c).x = k.x
  let passed := fun (cycles : Nat) => if g.first = none then cycles else max 1 cycles
  (∀ cycles p h t, g.reload = [] → at_.runFop g (passed cycles) = (.stop p, h, t) → t.cur = c → t.core c = k → k.tf = false → ∃ u,
    exec (.fopStop c cycles) s = .next ({ t with cur := s.cur }.setCore c u) ∧
    u.fab.grid = some { h with frozen := true, flags := 0, first := p.e } ∧ u.priv = .super ∧
    u.csrAt 0x100 = toWord p.cause ∧ u.csrAt 0x101 = p.tval ∧ u.csrAt 0x102 = addrField k.pc ∧
    u.pc = canon56 (k.csrAt 0x104) ∧ u.x = k.x ∧
    u.csrAt 0x024 = toWord (2 ^ 63 + p.port * 2 ^ 48 + (h.inpos[4]?).getD 0 % 2 ^ 32)) ∧
  (∀ cycles h t, g.reload = [] → at_.runFop g (passed cycles) = (.more, h, t) → t.cur = c → t.core c = k → k.tk.preempt = .due → ∃ u,
    exec (.fopStop c cycles) s = .next ({ t with cur := s.cur }.setCore c u) ∧
    u.fab.grid = some { h with frozen := true, flags := 0, first := h.first } ∧ u.pc = k.pc ∧ u.priv = k.priv) ∧
  (∀ (r : BitVec 4) e d j t x y, g.reload = [] → g.stalled g.wires (g.inputs k) r.toNat = true →
    g.blocked g.wires (g.inputs k) r.toNat = [(.a e, [.queue d j])] → e ≠ d → g.overflow (regionOf d) < 256 →
    g.el e = some x → x.a = some t → g.el d = some y → ∃ h,
      exec (.escapeMove c r) s = .next (s.modCore c fun k => { k with fab := { k.fab with grid := some h } }) ∧
      h.el e = some { x with a := none } ∧ h.el d = some { y with esc := y.esc ++ [(j, t)] } ∧
      ∀ i, i ≠ e → i ≠ d → h.el i = g.el i) ∧
  (∀ (r : BitVec 4) h, at_.runFop g 65536 = (.escape r.toNat, h, at_) → h.slot = g.slot →
    h.jammed g.wires (h.inputs k) r.toNat = true →
    takes (.escapeTimeout c r) 4 r.toNat) ∧
  (g.finished k = false → g.wants = [] → g.first = none → (∀ h ∈ g.emits, h ∉ k.eng.stream) →
    g.dry (g.inputs k) = true → takes (.fabricStalled c) 5 0) ∧
  (∀ (q : BitVec 2) (r : BitVec 4) p, k.fab.planes[q.toNat] = some p →
    (k.fab.active ≠ some q → ∃ t, exec (.configUe c q r) s = .next t ∧
      t.core c = { k with fab := { k.fab with planes := k.fab.planes.set q.toNat none } }) ∧
    (k.fab.active = some q → r ∉ g.reload →
      ((k.csrAt 0x130).getLsbD 1 = true → takes (.configUe c q r) 1 r.toNat) ∧
      ((k.csrAt 0x130).getLsbD 1 = false → ∃ t, exec (.configUe c q r) s = .next t ∧
        t.core c = { k with fab := { k.fab with grid := some { g with reload := g.reload ++ [r] } } }))) ∧
  (∀ (r : BitVec 4) more (q : BitVec 2) p, g.reload = r :: more → k.fab.active = some q → k.fab.planes[q.toNat] = some p →
    (∀ ws, reloadWords (at_.ctxOf c) p.img r.toNat at_ = .ok (some ws) at_ → ∃ t h,
      exec (.regionReloadDone c) s = .next t ∧ t.root.reloads = s.root.reloads + 1 ∧ (t.core c).pc = k.pc ∧
      (t.core c).fab.grid = some h ∧ h.reload = more ∧ h.inpos = g.inpos ∧
      (let word := fun (x : GridElem) =>
          if regionOf x.e = r.toNat then ((ws.find? (·.1 == x.e)).map (·.2)).getD 0 else x.word
        ∀ x ∈ g.elems, { x with word := word x } ∈ h.elems) ∧
      ∀ w ∈ ws, w.2 ≠ 0 → g.el w.1 = none → freshElem w.1 w.2 ∈ h.elems) ∧
    (reloadWords (at_.ctxOf c) p.img r.toNat at_ = .ok none at_ → takes (.regionReloadDone c) 2 r.toNat))

/-- R312, R322 to R326: firings, and how a running FOP stops or is helped on. -/
def Obligations.FabricGrid : Prop := Sys2Proof.Claim.ElementFirings ∧ Sys2Proof.Claim.FabricStops


/-! ### Events of the cores and of translation -/

/-- R135, R136, R178, R181, R293, R301, R357: a reply fills its registers; an engine takes up its oldest message; a translation
fault suspends a copy; the oldest engine event is delivered as a trap; a flush completes; monitors expire and waiting
instructions time out, one whose word has been written with CHANGED, which clears FIRED. -/
def Obligations.EngineEvents : Prop := ∀ (c : CoreId) (s : State),
  let k := s.core c
  let at_ := { s with cur := c }
  (∀ pre r v post, k.replies = pre ++ ⟨[(r, v)]⟩ :: post →
    exec (.replyReturn c pre.length) s = .next (s.modCore c fun k => { k.wr r v with replies := pre ++ post })) ∧
  (∀ pre o post, k.eng.stream = [] → k.eng.copies = pre ++ o :: post → (∀ p ∈ pre, p.phase ≠ .queued) → o.phase = .queued →
    exec (.activeMessageDelivery c .copy) s = .next (s.modCore c fun k => { k with eng := { k.eng with
      copies := pre ++ { o with phase := .running } :: post } })) ∧
  (∀ o rest, k.eng.stream = [] → k.eng.mats = o :: rest → o.active = false → (∀ p ∈ rest, p.active = false) →
    exec (.activeMessageDelivery c .matrix) s = .next (s.modCore c fun k => { k with eng := { k.eng with
      mats := { o with active := true, wace := k.csrAt 0x013 } :: rest } })) ∧
  (∀ o rest, k.eng.stream = [] → k.eng.flushes = o :: rest → o.active = false →
    exec (.activeMessageDelivery c .flush) s = .next (s.modCore c fun k => { k with eng := { k.eng with
      flushes := { o with active := true } :: rest } })) ∧
  (∀ o p st syn, k.eng.copies = [o] → o.phase = .running → copyRun (o.ctx k.tk.tenant c) o at_ = (.fault st syn, p, at_) →
    p.h = o.h → ∃ u, exec (.copySuspend c o.h) s = .next (s.setCore c u) ∧
      u.eng.copies = [{ p with phase := .suspended, resumed := false }] ∧
      u.eng.events = k.eng.events ++ [⟨o.h, st, 0, syn⟩] ∧
      u.handle o.h = { (k.handle o.h) with status := st, detail := BitVec.ofNat 32 p.u } ∧ u.x = k.x ∧ u.vec = k.vec ∧
      u.scratch = k.scratch ∧ ∀ t, p.dstTile = some t → u.tile t.toNat = { (k.tile t.toNat) with susp := true }) ∧
  (∀ e rest, k.eng.events = e :: rest → k.tk.task ≠ none → k.tk.finished = false → k.tk.preempt = .none → k.tf = false →
    k.priv ≠ .machine → k.fab.running = false → k.tk.conf = false →
    exec (.engineTrapDelivery c) s = .next (s.modCore c fun k =>
      ({ k.setCsr 0x040 e.event with eng := { k.eng with events := rest } }).enterTrap true 0x0E
        (toWord (e.h.toNat + e.status.toNat * 2 ^ 8 + e.kind.toNat * 2 ^ 12)) k.pc)) ∧
  (∀ o g t, k.eng.flushes = [o] → o.active = true → s.ms.homes = [] → s.ms.flushFail = [] →
    genBump { tenant := o.tenant, asid := o.asid, root := o.root, tdt := o.tdt, user := !o.super, core := c, who := .thread c } o.tid.toNat
      o.tdt at_ = .ok g t → t.core c = k → t.cur = c →
    exec (.tflushComplete c o.h) s = .next ({ t with cur := s.cur }.modCore c fun k =>
      ({ k with eng := { k.eng with flushes := [] } }).setHandle o.h
        { (k.handle o.h) with st := .done, status := 0, detail := 0 })) ∧
  (∃ t, exec .generationScrub s = .next t ∧ t = { s with ms := t.ms } ∧ t.ms.retired = [] ∧ t.ms.mem = s.ms.mem ∧
    ∀ h, h ∈ t.ms.homes ↔ h ∈ s.ms.homes ∧ s.ms.isRetired h.key = false) ∧
  (∀ word m, s.ms.monitor c word = some m → k.wait = .none → exec (.monitorExpiry c word) s =
    .next { s with ms := { s.ms with monitors := s.ms.monitors.filter fun m => !(m.core == c && m.word == word) } }) ∧
  (∀ xd size word, k.replies.length < 16 →
    let ends := fun (i : Instr) (v : Word) =>
      (∀ m, s.ms.monitor c word = some m → m.fired = true → exec i s =
        .next ({ s with ms := { s.ms with monitors := s.ms.monitors.filter (fun (q : Monitor) => !(q.core == c && q.word == word)) ++
          [{ m with core := c, word := word, fired := false }] } }.modCore c fun k => (replying xd 0 k).retire size)) ∧
      ((∀ m, s.ms.monitor c word = some m → m.fired = false) → exec i s =
        .next (s.modCore c fun k => (replying xd v k).retire size))
    (k.wait = .waita xd size word false → ends (.waitaTimeout c) 1) ∧ (k.wait = .waita xd size word true → ends (.waitaMonfull c) 2)) ∧
  (∀ word, k.wait = .clasp word true → exec (.claspWaitPoll c) s = .next (s.modCore c fun k => { k with wait := .none }))

/-- R29, R34, R37 to R43, R380: a walk answers a read and leaves the page in the TLB; the host's answers to ATS and page requests,
and its invalidations; a shootdown is started, removes what it covers and counts; a window's write invalidates its tenant; a
doorbell stores the tail, and one that overruns the queue disables it. The model's choices: a GO while BUSY stores the other
RW fields (log 49), which wait a HOSTPAGE_TIMEOUT ends (log 50), an overrun judged only while EN (log 56), that a running copy's
pinned reply word holds a shootdown or an invalidation back (log 62). -/
def Obligations.TranslationEvents : Prop := ∀ (s : State) (func page host : Nat),
  let ms := s.ms
  let next := fun (m : MemSys) => Host.Outcome.next (φ := Fault) (ρ := Refusal) { s with ms := m }
  let here := (func, page)
  let failed := fun (m : MemSys) (p : Asker × Nat × Nat → Bool) => { m with
    atsFail := (m.atsSeek.filter fun a => p a && !m.atsFail.contains a) ++ m.atsFail, atsSeek := m.atsSeek.filter fun a => !p a }
  let t := BitVec.ofNat 6 (func - 1)
  (∀ (c : CoreId) (va : BitVec 56) h u, (s.core c).tk.task ≠ none →
    resolveGlobal (s.ctxOf c) (va.signExtend 64) { kind := 0, n := 1, rewalk := true } anyFormat s = .ok h u →
    exec (.pageWalk c va) s = .next u ∧ tlbOf (s.ctxOf c) (va.signExtend 64) h.pte h.level ∈ (u.core c).cache.tlb ∧ (u.core c).pc = (s.core c).pc ∧ (u.core c).x = (s.core c).x) ∧
  (here ∈ ms.atsWait → ms.atc = [] → ∀ write, exec (.atsTranslationCompletion func page host true write) s =
    next { ms with atsWait := ms.atsWait.filter (· != here)
                   atc := [⟨func, page, host, write⟩] }) ∧
  (here ∈ ms.atsWait → here ∉ ms.priWait → ∀ write, exec (.atsTranslationCompletion func page host false write) s =
    next { ms with atsWait := ms.atsWait.filter (· != here), priWait := ms.priWait ++ [here] }) ∧
  (here ∈ (ms.priWait.filter (·.1 == func)).take 512 →
    exec (.priResponse func page .success) s =
      next { ms with priWait := ms.priWait.filter (· != here), atsWait := ms.atsWait ++ [here] } ∧
    ∀ a, a ≠ .success → exec (.priResponse func page a) s =
      next (failed { ms with priWait := ms.priWait.filter (· != here) } fun a => a.2 == here)) ∧
  (∀ pre who post, ms.atsSeek = pre ++ (who, here) :: post → (∀ a ∈ pre, a.2 ≠ here) →
    exec (.hostpageTimeout func page) s = next (failed ms (· == (who, here)))) ∧
  (∀ n, let through := fun (t : BitVec 6) (r : ReplyPin) => t.toNat + 1 = func ∧ pteHost r.pte = true ∧
      page ≤ r.pa % 2 ^ 41 / 4096 ∧ r.pa % 2 ^ 41 / 4096 < page + n
    let holds := ∃ c : CoreId, ∃ o ∈ (s.core c).eng.copies, ∃ r, o.phase = .running ∧ o.rep = some r ∧ through (s.core c).tk.tenant r
    (holds → exec (.atsInvalidationRequest func page n) s = .next s) ∧
    (¬holds → ∃ u, exec (.atsInvalidationRequest func page n) s = .next u ∧ u.ms = { ms with
      atc := ms.atc.filter fun e => !(e.func == func && page ≤ e.page && e.page < page + n) } ∧
    ∀ c, u.core c = { s.core c with eng := { (s.core c).eng with copies := (u.core c).eng.copies } } ∧
      ∀ o ∈ (u.core c).eng.copies, ∀ r, o.rep = some r → ¬through (s.core c).tk.tenant r)) ∧
  (∀ v : Word, func ≤ 64 →
    let old := s.reg func 0x1_0010
    let fields : Word := 0x1800_007F_0000_FFFF
    let w := (old &&& ~~~fields) ||| (v &&& fields)
    (old.getLsbD 62 = true → v.getLsbD 61 = false →
      exec (.ticmdGo func v) s = .next (s.setReg func 0x1_0010 (setBits w 61 1 1))) ∧
    (old.getLsbD 62 = false → v.getLsbD 61 = false → ∃ u, exec (.ticmdGo func v) s = .next u ∧
      u.reg func 0x1_0010 = setBits w 62 1 1 ∧ u.cores = s.cores ∧ u.ms = { ms with shoots := ms.shoots ++ [
        { func := func, target := if func = 0 then bits v 32 7 else func, allAsid := v.getLsbD 60, incg := v.getLsbD 59
          asid := v.extractLsb' 0 16, vpn := bits (s.reg func 0x1_0000) 12 44
          pages := bits (s.reg func 0x1_0008) 0 32 }] })) ∧
  exec (.ticmdErrClear func) s = .next (s.setReg func 0x1_0010 (setBits (s.reg func 0x1_0010) 61 1 0)) ∧
  (∀ d, ms.shoots = [d] → d.func = func → d.target ≠ 0 → d.target ≤ 64 → ms.chains = [] →
    let covered := fun (c : CoreId) (o : CopyOp) (r : ReplyPin) =>
      d.covers (tlbOf (o.ctx (s.core c).tk.tenant 0) (canon56 o.reply) r.pte r.level) = true
    ((∃ c : CoreId, ∃ o ∈ (s.core c).eng.copies, ∃ r, o.phase = .running ∧ o.rep = some r ∧ covered c o r) →
      exec (.shootdownComplete func) s = .next s) ∧
    ((∀ c : CoreId, ∀ o ∈ (s.core c).eng.copies, ∀ r, o.phase = .running → o.rep = some r → ¬covered c o r) →
    let raw := bits (s.reg func 0x1_0018) 3 49 * 8
    let place := s.localize raw
    let seq := (bits (s.reg func 0x1_0020) 0 32 + 1) % 2 ^ 32
    let inside := s.inWindows (BitVec.ofNat 6 (d.target - 1)) raw 8
    let ends := fun (stored : Prop) (err : Bool) => stored → ∃ u, exec (.shootdownComplete func) s = .next u ∧
      u.ms.shoots = [] ∧ u.reg func 0x1_0020 = toWord seq ∧ (u.reg func 0x1_0010).getLsbD 62 = false ∧
      (err = true → (u.reg func 0x1_0010).getLsbD 61 = true ∧ u.ms.mem = ms.mem) ∧
      (err = false → (u.reg func 0x1_0010).getLsbD 61 = (s.reg func 0x1_0010).getLsbD 61 ∧ u.ms.mem.read place 8 = seq) ∧
      (∀ c e, e ∈ (u.core c).cache.tlb ↔ e ∈ (s.core c).cache.tlb ∧ d.covers e = false) ∧
      (∀ c o r, o ∈ (u.core c).eng.copies → o.rep = some r → ¬covered c o r) ∧
      ∀ e, e ∈ u.ms.l2tlb ↔ e ∈ ms.l2tlb ∧ d.covers e.2 = false
    ends (inside = false) true ∧ ends (inside = true ∧ inDevice place = true ∧ atRest s place 8 none) false)) ∧
  (∀ (u : BitVec 6) (w : BitVec 4) v, s.locked (u.toNat + 1) = false → ms.chains = [] → ∃ z, exec (.twinWrite u w v) s = .next z ∧
    z.twin u.toNat w.toNat = v &&& 0x8FFF_FFFF_FFFF_FFFF ∧ z.ms.mem = ms.mem ∧
    (∀ c e, e ∈ (z.core c).cache.tlb ↔ e ∈ (s.core c).cache.tlb ∧ e.tenant ≠ u) ∧
    ∀ e, e ∈ z.ms.pwc ↔ e ∈ ms.pwc ∧ e.tenant ≠ u) ∧
  (1 ≤ func → func ≤ 64 → s.inReset t = false → s.queues (func - 1) ≠ 0 → ∀ v : Word,
    let b := s.reg func 0x10_0000
    let h := s.reg func 0x10_0018
    (b.getLsbD 63 = false → exec (.wqtailDoorbell func 0 v) s = .next (s.setReg func 0x10_0010 (v &&& 0xFFFF_FFFF))) ∧
    (b.getLsbD 63 = true → (bits v 0 32 + 2 ^ 32 - bits h 0 32) % 2 ^ 32 ≤ 2 ^ bits b 0 5 →
      exec (.wqtailDoorbell func 0 v) s = .next (s.setReg func 0x10_0010 (v &&& 0xFFFF_FFFF))) ∧
    (b.getLsbD 63 = true → 2 ^ bits b 0 5 < (bits v 0 32 + 2 ^ 32 - bits h 0 32) % 2 ^ 32 → ∃ u,
      exec (.wqtailDoorbell func 0 v) s = .next u ∧ u.reg func 0x10_0018 = setBits h 63 1 1 ∧
      u.reg func 0x10_0000 = setBits b 63 1 0 ∧ u.cores = s.cores))

/-! ### Events of the memory system -/

/-- R116 to R118, R123, R128, R137, R138, R166, R400, R406: lines are filled, snooped, handed back; scatter-adds pass; errors
are found; the host reads and writes device memory, except the confidential memory of others; clusters are gated and powered.
The model's choices: when an error is counted, logged and poisons (log 51), what each snoop leaves and answers (log 52), and how
an access that meets no memory, or what it may not touch, is answered and logged (log 53). -/
def Obligations.MemoryEvents : Prop := ∀ (s : State),
  let ms := s.ms
  (∀ (c : CoreId) line e, let k := s.core c
    let a := line * 256
    let base := ptePpn e.pte * 4096
    let pa := s.localize base
    k.tk.task ≠ none → k.cache.tlb = [e] → e.tenant = k.tk.tenant → pteNc e.pte = false → pteTb e.pte = false →
    pteTen e.pte = false → pteHost e.pte = false → pa ≤ a → a < pa + leafPages e.pte e.level * 4096 → inDevice a = true →
    s.inWindows k.tk.tenant (base / 2 ^ 42 * 2 ^ 42 + a) 256 = true → roomy s e a → ms.isGated (homeBank a (pteHl e.pte)) = false → ms.homeAt a none = none →
    ms.chains = [] → ms.poison = [] → ∃ h, exec (.lineFill c (.addr none line)) s = .next { s with ms := { ms with
      homes := h :: ms.homes } } ∧ h.key = .addr none line ∧ h.bank = homeBank a (pteHl e.pte) ∧ h.dirty = 0 ∧
      h.data = BitVec.ofNat 2048 (ms.mem.read a 256)) ∧
  (∀ d, ms.chains = [⟨d.pa / 8, [d]⟩] → exec (.scatterAddPass (d.pa / 8)) s =
    .next { s with ms := { ms with chains := [] }.addendDone d }) ∧
  (∀ d : Addend, d.et = .u32 → d.pa < 2 ^ 42 - 4 → ms.poison = [] →
    (ms.addendDone d).mem.read d.pa 4 = (ms.mem.read d.pa 4 + d.value) % 2 ^ 32) ∧
  (∀ g, inDevice (g * 64) = true →
    (∃ t, exec (.patrolScrub g false) s = .next t ∧ g ∈ t.ms.poison ∧ t.cores = s.cores) ∧
    (∃ t n, exec (.patrolScrub g true) s = .next t ∧ t.ms.poison = ms.poison ∧ (g / 64, n) ∈ t.ms.corrected ∧
      ((∀ e ∈ ms.corrected, e.1 ≠ g / 64) → n = 1) ∧ t.cores = s.cores)) ∧
  (∀ line h, ms.homes = [h] → h.key = .addr none line → h.runs = [(0, 256, line * 256)] → hostBase ≤ line * 256 →
    h.dirty = BitVec.allOnes 256 → h.poison = 0 → ms.chains = [] →
    ms.snoop = [⟨line, h.bank, true, 0⟩] →
    let host := ms.host.write (line * 256 - hostBase) 256 h.data.toNat
    let answered := fun (t : State) => t.ms.snoops = ms.snoops ++ [(line, some h.data)]
    (∃ t, exec (.snpData line) s = .next t ∧ t.ms.homes = [{ h with dirty := 0 }] ∧ t.ms.host = host ∧
      t.ms.snoop = [⟨line, h.bank, false, 0⟩] ∧ t.cores = s.cores ∧ t.ms.mem = ms.mem ∧ answered t) ∧
    (∃ t, exec (.snpInv line) s = .next t ∧ t.ms.homes = [] ∧ t.ms.host = host ∧ t.ms.snoop = [] ∧ t.cores = s.cores ∧
      t.ms.mem = ms.mem ∧ answered t) ∧
    exec (.snpCur line) s = .next { s with ms := { ms with snoops := ms.snoops ++ [(line, some h.data)] } }) ∧
  (∀ line, (∀ e ∈ ms.snoop, e.line ≠ line) →
    let t := { s with ms := { ms with snoops := ms.snoops ++ [(line, none)] } }
    exec (.snpData line) s = .next t ∧ exec (.snpInv line) s = .next t ∧ exec (.snpCur line) s = .next t) ∧
  (∀ line, line ∈ ms.bisnp →
    exec (.bisnpResponse line none) s = .next { s with ms := { ms with
      bisnp := ms.bisnp.filter (· != line), hdm := ms.hdm.filter (· != line) } } ∧
    ∀ v, inDevice (line * 256) = true → ms.homes = [] → ms.chains = [] → ∃ t,
      exec (.bisnpResponse line (some v)) s = .next t ∧ t.ms.hdm = ms.hdm.filter (· != line) ∧
      t.ms.mem.read (line * 256) 256 = v % 2 ^ 2048) ∧
  (∀ pa n data trusted, deviceEnd < pa + n → exec (.hostMemoryAccess pa n data trusted) s = .fault (.noSuchMemory pa)) ∧
  (∀ pa n trusted, 0 < n → pa + n ≤ deviceEnd → ms.homes = [] → ms.chains = [] →
    (s.confidentialAt pa = none ∧ s.confidentialAt (pa + (n - 1)) = none ∨ trusted = true →
      exec (.hostMemoryAccess pa n none trusted) s = .next s ∧
      ∀ v, ∃ t, exec (.hostMemoryAccess pa n (some v) trusted) s = .next t ∧ t = { s with ms := t.ms } ∧
        t.ms.mem.read pa n = v % 2 ^ (8 * n) ∧ ∀ b, b < pa ∨ pa + n ≤ b → t.ms.mem.get b = ms.mem.get b) ∧
    (∀ f, s.confidentialAt pa = some f → ∀ data, exec (.hostMemoryAccess pa n data false) s =
      .next (s.elog f 15 1 0xFF 0 (toWord pa) 0))) ∧
  (∀ cl : BitVec 6, cl ∉ ms.gated → ms.homes = [] → ms.chains = [] →
    (∀ i < 4, (s.core (BitVec.ofNat 8 (cl.toNat * 4 + i))).tk.task = none) → ∃ t,
      exec (.clusterPowerGate cl) s = .next t ∧ t.ms.gated = cl :: ms.gated ∧ t.ms.mem = ms.mem ∧
      (∀ r, r ∈ t.ms.replicas ↔ r ∈ ms.replicas ∧ r.cluster ≠ cl) ∧
      ∀ i < 4, (t.core (BitVec.ofNat 8 (cl.toNat * 4 + i))).cache.l1d = []) ∧
  (∀ cl : BitVec 6, exec (.clusterPowerUp cl) s = .next { s with ms := { ms with gated := ms.gated.filter (· != cl) } })

/-! ### The Dealer -/

namespace Sys2Proof.Claim

/-- The thread of a core stands at a boundary where an asynchronous event may be delivered (R357). -/
def atBoundary (k : Core) : Prop :=
  k.tk.task ≠ none ∧ k.tk.finished = false ∧ k.tf = false ∧ k.priv ≠ .machine ∧ k.fab.running = false ∧ k.tk.conf = false

/-- Between tasks: no tenant is served under the tenant table as it stands. -/
def idle (s : State) : Prop := ∀ t < 64, s.readTable.served t = false

/-- What a round of a die's unit decides from: the tenant table read anew, invalid nodes noted (R171, R379). -/
def atRound (s : State) (die : BitVec 2) : State :=
  ({ s with dealer := { s.dealer with rounds := die :: s.dealer.rounds } }).readTable.noteInvalid

end Sys2Proof.Claim

/-- R170, R173, R176, R382, R384, R386, R388, R389: a head record is fetched, refused or examined; a blocked one is read again;
a round deals a READY task of one core; the root's round counts; a hold begins; a quantum ends. The model's choices: rounds are
the clock (log 44), and a poisoned record ends as BADREC does (log 45). -/
def Sys2Proof.Claim.DealingEvents : Prop := ∀ (s : State) (t : Task) (c : Cand),
  let d := s.dealer
  let none_ := ∀ u ∈ d.tasks, u.id ≠ d.next
  (∀ (u : BitVec 6) (g : Nat) (r : Ring) v bad, let q := QueueId.ring u g
    let raw := r.base + 64 * (r.head % 2 ^ r.qlog)
    let pa := s.localize raw
    d.paused = false → s.hasHead q = false → s.ring? q = some r → r.head ≠ r.tail → s.inWindows r.tenant raw 64 = true →
    inDevice pa = true → s.peek pa 64 = (v, bad) → none_ → t.id = d.next → t.q = q → t.seq = r.head →
    t.launch = (List.range 8).map (fun i => toWord (fld v (64 * i) 64)) → t.tenant = r.tenant → t.region = r.region →
    t.st = .queued → t.cores = [] → t.slots = [] → t.domain = 0 → t.since = 0 → t.age = 0 → t.hold = none →
    t.dealt = [] → t.q0 = 0 → t.polled = 0 → t.due = false →
    (bad = false → t.malformed (s.rcount r.tenant.toNat) = false →
      (s.reg t.func 0x4_0010).toNat ≤ t.codegen.toNat → s.unplaceable t = false → t.ndep = 0 →
      exec (.launchRecordFetch q) s = .next { s with dealer := { d with
        next := d.next + 1, clock := d.clock + 1, tasks := d.tasks ++ [{ t with st := .ready, since := d.clock + 1 }] } }) ∧
    (bad = true ∨ t.malformed (s.rcount r.tenant.toNat) = true → t.compl = 0 → t.msix = false → ∃ z,
      exec (.launchRecordFetch q) s = .next z ∧ z.task t.id = some { t with st := .ended } ∧ z.cores = s.cores ∧
        z.dealer.next = d.next + 1)) ∧
  (d.tasks = [t] → t.st = .blocked → t.due = true ∨ 16 ≤ t.polled → ∀ b v, readCounters t s = .ok (some b) v → v.dealer = d → ∀ u g, t.q = .ring u g →
    (b = false → exec (.blockedHeadReread t.q) s = .next { v with dealer := { d with
      tasks := [{ t with polled := 0, due := false }] } }) ∧
    (b = true → exec (.blockedHeadReread t.q) s = .next { v with dealer := { d with
      clock := d.clock + 1, tasks := [{ t with st := .ready, since := d.clock + 1, age := 0, polled := 0, due := false }] } })) ∧
  (∀ (die : BitVec 2) (x : CoreId) w, d.paused = false → die ∉ d.rounds → d.tasks = [t] →
    let r := atRound s die
    t.gang = 1 → t.aff < 3 → t.bind = 0 →
    t.st = .ready → r.candidate t = some c →
    r.place t (r.allowed c (r.freeIn (allCores.filter fun y => dieOf y == die))) = some [x] →
    r.budget t.tenant 1 c.path = true → (∀ n, c.path.head? = some n → r.freeSlots t n.slotlog 1 = some [w]) →
    ∃ u, exec (.decisionRound die) s = .next u ∧
      let l := u.core x
      l.tk.task = some t.id ∧ l.tk.tenant = t.tenant ∧ l.pc = t.entry ∧ l.priv = .user ∧ l.tf = false ∧ l.rd 3 = t.args ∧
      l.rd 4 = 0 ∧ l.rd 5 = 1 ∧ l.rd 6 = toWord t.region ∧ l.rd 7 = 0 ∧
      l.rd 2 = toWord (eff c.path 11 Node.stkbase + (w + 1) * 2 ^ eff c.path 11 Node.stklog) ∧
      l.csrAt 0x104 = addrField (s.reg t.func 0x3_0000) ∧ l.eng = Engines.reset ∧ l.fab = Fabric.reset ∧
      (∃ z, u.dealer.tasks = [z] ∧ z.st = .running ∧ z.cores = [x] ∧ z.slots = [w] ∧ z.launch = t.launch ∧ z.dealt = c.path) ∧
      ∀ y, y ≠ x → (u.core y).x = (s.core y).x ∧ (u.core y).pc = (s.core y).pc ∧ (u.core y).tk = (s.core y).tk) ∧
  (d.paused = false → (∀ die : BitVec 2, die ∈ d.rounds) → idle s → exec .rootDecisionRound s =
    .next { s.setReg 0 0x4_0018 (s.reg 0 0x4_0018 + 1) with dealer := { s.readTable.dealer with
      rounds := [], noted := [], tasks := d.tasks.map fun u => { u with age := u.age + 1, polled := u.polled + 1 } } }) ∧
  (d.tasks = [t] → s.candidate t = some c → 2 ≤ t.gang → t.hold = none → eff c.path 10 Node.holdlim < t.age →
    ∀ cs, s.holdDomain c = some cs → exec (.holdBegin t.id) s = .next { s with dealer := { d with
      tasks := [{ t with hold := some cs }] } }) ∧
  (s.task t.id = some t → s.undisturbed t = true → eff (s.pathOf t) 8 Node.quantum ≤ t.age - t.q0 →
    (s.wanted t = false → exec (.quantumExpiry t.id) s = .next (s.putTask { t with q0 := t.age })) ∧
    (∀ x, s.wanted t = true → t.cores = [x] → (s.core x).tk.task = some t.id → (s.core x).acn.pots = [] →
      exec (.quantumExpiry t.id) s = .next (s.modCore x fun k => { k with tk := { k.tk with
        preempt := if k.pvis && !k.tf && !k.tk.finished then .due else .stopping } })))

/-- R98, R135, R174, R344, R345, R366, R367, R370, R371, R372: a deferral for pots ends; a member is told, is stopped, is saved
and is restored; a slice is retired; generations are recorded and counted. The model's choices: the order of the fields of an
image's section (log 46), and that a member that has finished or whose frame is live stops without PREEMPT (log 47). -/
def Sys2Proof.Claim.PreemptionEvents : Prop := ∀ (s : State) (c : CoreId) (t : Task),
  let k := s.core c
  let d := s.dealer
  (d.tasks = [t] → t.st = .running → t.cores = [c] → k.tk.task = some t.id → k.tk.preempt = .deferred →
    ∀ p x, k.acn.pots = [p] → p.complete = false → p.spilled = false → p.joiners = [x] → 0 < x.left →
      s.isLocal x.node = true → exec (.potdeferDeadline t.id) s =
      .next ({ s with net := s.net ++ [x.notice c p .spilled] }.modCore c fun k => { k with
        acn := { k.acn with pots := [{ p with spilled := true, joiners := [{ x with spilled := true }] }] }
        tk := { k.tk with preempt := if k.pvis && !k.tf && !k.tk.finished then .due else .stopping } })) ∧
  (atBoundary k → k.tk.preempt = .due → k.eng.events = [] → exec (.preemptDelivery c) s = .next (s.modCore c fun k =>
    ({ k with tk := { k.tk with preempt := .noticed } }).enterTrap true 0x14 0 k.pc)) ∧
  (k.tk.preempt = .noticed ∨ k.tk.preempt = .due ∧ k.tf = true → exec (.preemptGraceExpiry c) s = .next (s.modCore c fun k =>
    { k with tk := { k.tk with preempt := .stopping } })) ∧
  (d.tasks = [t] → t.cores = [c] → k.tk.task = some t.id → k.tk.preempt = .stopping → k.replies = [] →
    k.fab.running = false → k.wait = .none → k.tk.retire = [] → s.ms.chains = [] → s.sending c = false →
    k.acn.pots = [] → d.saved = [] → 16 ≤ k.slices → c ∈ domainCores t.aff t.domain → ∃ u x,
    exec (.preemptionSave c) s = .next u ∧ u.dealer.saved = [x] ∧ x.task = t.id ∧ x.rank = k.tk.rank ∧
      x.core = c ∧ x.body = { k with cache := x.body.cache, vec := k.vec.written } ∧ (u.core c).tk.task = none ∧
      u.dealer.tasks = [{ t with st := .saved, cores := [], since := d.clock + 1, age := 0, dealt := [] }] ∧
      (∀ m ∈ u.ms.monitors, m.core ≠ c) ∧ ∀ i < 256, ((u.core c).tile i).v = false) ∧
  (∀ x a, d.tasks = [t] → t.cores = [c] → k.tk.task = some t.id → k.tk.preempt = .restoring →
    d.saved = [x] → x.task = t.id → x.rank = k.tk.rank → s.slotAddr t k.tk.slot 4096 = some a →
    let hdr := s.readHeader a
    let body := x.body.loadImage hdr fun o n => s.runRead (a + o) n
    hdr.magic = 0x43545849 → hdr.version = 1 → hdr.slices ≤ k.slices → body.acn.pots = [] → k.tk.retire = [] →
      dieOf c ∉ d.quiesced → ∃ u,
    exec (.contextRestore c) s = .next u ∧ u.dealer.saved = [] ∧
      u.dealer.tasks = [{ t with st := .running, age := 0, q0 := 0 }] ∧
      let l := u.core c
      l.x = body.x ∧ l.pc = body.pc ∧ l.vec.v = body.vec.v ∧ l.tiles = body.tiles ∧ l.scratch = body.scratch ∧
      l.eng = body.eng ∧ l.fab.slots = body.fab.slots ∧ l.fab.grid = body.fab.grid ∧ l.acn.joins = body.acn.joins ∧
      (∀ i < 256, l.tile i =
        Tile.ofWord x.body.tk.tenant (toWord (s.runRead (a + hdr.off 4 + 8 * i) 8))) ∧
      (∀ i : Fin 256, l.eng.handles[i] = Handle.ofWord (toWord (s.runRead (a + hdr.off 5 + 8 * i.val) 8))) ∧
      (∀ i < 63, l.rd (BitVec.ofNat 6 (i + 1)) = toWord (s.runRead (a + hdr.off 0 + 8 * i) 8)) ∧
      l.priv = hdr.priv ∧ l.tf = hdr.tf ∧ l.tk.preempt = .none ∧ l.tk.gen = hdr.gen ∧
      l.csrAt 0x005 = k.csrAt 0x005 ∧ l.csrAt 0x100 = body.csrAt 0x100) ∧
  (∀ slice : BitVec 5, k.tk.task = none → d.tasks = [] → (k.csrAt 0x130).getLsbD 0 = true →
    (k.csrAt 0x005).getLsbD slice.toNat = true → ∃ u, exec (.sliceRetirement c slice) s = .next u ∧
      let l := u.core c
      l.csrAt 0x005 = setBits (k.csrAt 0x005) slice.toNat 1 0 ∧
      (let n := ((List.range 32).filter fun i => (l.csrAt 0x005).getLsbD i).length;
        l.csrAt 0x004 = toWord (n * 2 ^ 32 + n * 8192) ∧ l.tk.pool = (k.tk.pool && decide (16 ≤ n))) ∧
      l.x = k.x ∧ ∀ y, y ≠ c → u.core y = s.core y) ∧
  (k.tk.task = none → exec (.generationRecord c) s = .next (s.modCore c fun k => { k with tk := { k.tk with gen := s.gcur } })) ∧
  exec .gencmdWrite s = .next (s.setReg 0 0x4_0000 (s.reg 0 0x4_0000 + 1))

/-- The events of the Dealer and of pre-emption. -/
def Obligations.DealerEvents : Prop := Sys2Proof.Claim.DealingEvents ∧ Sys2Proof.Claim.PreemptionEvents


/-! ### Tenants, keys and registers -/

/-- R22, R306, R357, R380, R397 to R406, R408: a queue is enabled, its error cleared; registers are written; a vector is
unmasked; the node number is set. The model's choices: ERR is kept at an enable, and NODEID discarded while a port is up
(log 56). -/
def Sys2Proof.Claim.RegisterEvents : Prop := ∀ (s : State) (func : Nat) (v : Word),
  (1 ≤ func → func ≤ 64 → s.queues (func - 1) ≠ 0 →
    (s.locked func = false → (s.reg func 0x10_0000).getLsbD 63 = false → v.getLsbD 63 = true → ∃ u,
      exec (.wqbaseWrite func 0 v) s = .next u ∧ u.reg func 0x10_0000 = v &&& 0x800F_FFFF_FFFF_FFDF ∧
      u.reg func 0x10_0010 = 0 ∧ u.reg func 0x10_0018 = s.reg func 0x10_0018 &&& 0x8000_0000_0000_0000 ∧ u.cores = s.cores ∧
      u.ms = s.ms) ∧
    ((s.reg func 0x10_0000).getLsbD 63 = true → s.locked func = false → ∃ u, exec (.wqbaseWrite func 0 v) s = .next u ∧
      u.reg func 0x10_0000 =
        (s.reg func 0x10_0000 &&& 0x000F_FFFF_FFFF_FFDF) ||| (v &&& 0x8000_0000_0000_0000) ∧ u.cores = s.cores ∧ u.ms = s.ms) ∧
    exec (.wqheadErrClear func 0) s = .next (s.setReg func 0x10_0018 (setBits (s.reg func 0x10_0018) 63 1 0))) ∧
  (func ≤ 64 → exec (.mmioWrite func 0x3_0000 v) s = .next (s.setReg func 0x3_0000 v) ∧
    exec (.mmioWrite func 0x1_0000 v) s = .next (s.setReg func 0x1_0000 (v &&& 0x00FF_FFFF_FFFF_F000)) ∧
    exec (.mmioWrite func 0 v) s = .next s) ∧
  exec (.mmioWrite 0 0x6_0000 v) s = .next (s.setReg 0 0x6_0000 (v &&& 0xFFFF)) ∧
  (s.locked 1 = true → exec (.mmioWrite 0 0x5_0000 v) s = .next (s.elog 1 15 1 0xFF 0 0 0)) ∧
  (s.locked 1 = false → exec (.mmioWrite 0 0x5_0000 v) s = .next (s.setReg 0 0x5_0000 (v &&& 0x800F_FFFF_FFFF_FF80))) ∧
  (∀ n : BitVec 8, func ≤ 64 → (func, n.toNat) ∉ s.root.unmasked →
    ((func, n.toNat) ∉ s.root.pba → exec (.msixUnmask func n) s =
      .next { s with root := { s.root with unmasked := (func, n.toNat) :: s.root.unmasked } }) ∧
    ((func, n.toNat) ∈ s.root.pba → exec (.msixUnmask func n) s = .next { s with root := { s.root with
      unmasked := (func, n.toNat) :: s.root.unmasked, pba := s.root.pba.filter (· != (func, n.toNat))
      msix := s.root.msix ++ [(func, n.toNat)] } })) ∧
  ((∀ p ∈ s.links.ports.toList, p.st ≠ 2) → exec (.nodeidWrite v) s = .next (s.setReg 0 0xA_0000 (v &&& 0x3FF))) ∧
  ((∃ p ∈ s.links.ports.toList, p.st = 2) → exec (.nodeidWrite v) s = .next s)

/-- R90, R169, R306, R357, R401, R403 to R407: sessions and keys; a TDI is locked, started and stopped, and what leaving RUN
loses; a tenant is enabled, reset and disabled; CONF_LOST is delivered first. The model's choices: a STOP_INTERFACE
outside RUN, and the slots that a key's deletion unbinds (log 54); all of a reset happens at its START (log 55). -/
def Sys2Proof.Claim.TenantEvents : Prop := ∀ (s : State) (u : BitVec 6) (c : CoreId),
  let func := u.toNat + 1
  let k := s.core c
  let sec := s.sec
  let tdi := fun (d : Tdi) => { s with sec := { sec with tdi := sec.tdi.set u.toNat d } }
  let inRun := sec.tdi[u.toNat] = .run
  let quiet := s.dealer.saved = [] ∧ ∀ y, (s.core y).eng.copies = []
  let leaves := fun (i : Instr) => inRun → quiet → ∃ t, exec i s = .next t ∧ t.sec.tdi[u.toNat] = .error ∧
    (∀ e ∈ t.sec.keys, e.func ≠ func) ∧ (∀ e ∈ t.sec.slots, e.func ≠ func) ∧ t.sec.session[u.toNat] = false ∧
    (k.tk.task ≠ none → k.tk.tenant = u → k.tk.preempt = .none → let l := t.core c;
      l.tk.conf = true ∧ l.x = k.x ∧ l.pc = k.pc ∧ ∀ i < 256, let e := k.tile i;
        if e.v ∧ e.tenant = u ∧ e.conf then
          l.tile i = { e with st := .poisoned, susp := false } ∧ ∀ a, e.start ≤ a → a < e.start + e.bytes → l.scratch.get a = 0
        else l.tile i = e)
  let resets := fun (i : Instr) => s.inReset u = false → sec.tdi[u.toNat] = .unlocked → ∃ t, exec i s = .next t ∧
    t.sec.tdi[u.toNat] = .error ∧ t.inReset u = true ∧ (∀ e ∈ t.sec.keys, e.func ≠ func) ∧
    (∀ x ∈ t.dealer.tasks, x.tenant ≠ u) ∧ (∀ m ∈ t.ms.monitors, m.tenant ≠ u) ∧
    (∀ y, ∀ e ∈ (t.core y).cache.tlb, e.tenant ≠ u) ∧ (∀ e ∈ t.ms.atc, e.func ≠ func)
  (∀ h key counter, sec.session[u.toNat] = true → (∀ e ∈ sec.keys, e.func ≠ func) → sec.keys.length < 4096 →
    exec (.keyProvision func h key counter) s = .next { s with sec := { sec with
      keys := sec.keys ++ [⟨func, h, key, some counter⟩] } }) ∧
  (∀ h, sec.session[u.toNat] = true → exec (.keyDelete func h) s = .next { s with sec := { sec with
    keys := sec.keys.filter fun e => !(e.func == func && e.handle == h)
    slots := sec.slots.filter fun e => !(e.func == func && e.handle == h) } }) ∧
  exec (.spdmSessionEstablished func) s = .next { s with sec := { sec with session := sec.session.set u.toNat true } } ∧
  (sec.tdi[u.toNat] = .unlocked → exec (.tdiLock func) s = .next (tdi .locked)) ∧
  (sec.tdi[u.toNat] = .locked → sec.session[u.toNat] = true → exec (.tdiStart func) s = .next (tdi .run)) ∧
  (¬inRun → exec (.stopInterface func) s = .next (tdi .unlocked)) ∧
  leaves (.stopInterface func) ∧ leaves (.spdmSessionExpiry func) ∧ leaves (.ideIntegrityFailure func) ∧ leaves .pcieLinkDown ∧
  (∀ o td, k.eng.copies = [o] → o.dstTile = some td → o.srcTile = none →
    let l := k.leaveRun u
    let start := (k.tile td.toNat).start
    (∃ p, l.eng.copies = [p] ∧ p.h = o.h ∧ p.refused = some 7 ∧ p.dstTile = none ∧ p.phase ≠ .suspended) ∧
    (l.tile td.toNat).st = .poisoned ∧ l.tk.conf = true ∧
    ∀ r ∈ o.filled, ∀ a, start + r.1 ≤ a → a < start + r.1 + r.2 → l.scratch.get a = 0) ∧
  (¬inRun → quiet → exec (.spdmSessionExpiry func) s =
    .next { s with sec := { sec with session := sec.session.set u.toNat false } }) ∧
  (∀ o, ¬inRun → k.tk.task ≠ none → k.tk.tenant = u → k.tk.preempt = .none → k.eng.copies = [o] → ∃ t p,
    exec (.spdmSessionExpiry func) s = .next t ∧ (t.core c).eng.copies = [p] ∧ p.h = o.h ∧ p.refused = some 7 ∧
      t.sec.session[u.toNat] = false ∧ t.sec.tdi = sec.tdi) ∧
  (k.tk.task ≠ none → k.tk.finished = false → k.tk.preempt = .none → k.tf = false → k.priv ≠ .machine →
    k.fab.running = false → k.tk.conf = true → exec (.confLostDelivery c) s = .next (s.modCore c fun k =>
      ({ k with tk := { k.tk with conf := false } }).enterTrap true 0x15 (toWord k.func) k.pc)) ∧
  exec (.vfEnable func) s = .next { s with root := { s.root with vf := s.root.vf.set u.toNat true } } ∧
  resets (.tenantResetStart u) ∧ resets (.functionLevelReset func) ∧ resets (.vfDisable func) ∧
  (s.inReset u = true → ∃ t, exec (.tenantResetComplete u) s = .next t ∧ t.inReset u = false ∧
    t.reg func 0x7_0008 = 0x8000_0000_0000_0000 ∧ t.cores = s.cores ∧ t.ms = s.ms) ∧
  exec (.trstatDoneClear u) s = .next (s.setReg func 0x7_0008 0)

/-- Registers, vectors, keys and tenants. -/
def Obligations.HostEvents : Prop := Sys2Proof.Claim.RegisterEvents ∧ Sys2Proof.Claim.TenantEvents


/-! ### Power, links and the device -/

namespace Sys2Proof.Claim

/-- A port has become p, and the event stands in the physical function's log (R410, R413). -/
def portNow (s : State) (i : Instr) (n : Nat) (p : Port) (severity : Nat) (detail : Word) : Prop :=
  exec i s = .next ((s.setPort n p).elog 0 13 severity 0xFF n 0 detail)

/-- Live lanes of a port. -/
def lanesOf (p : Port) : Nat := ((List.range 8).filter fun i => p.lanes.getLsbD i).length

end Sys2Proof.Claim

/-- R393 to R396, R408 to R411: power events change what a core reports and no result; a port's errors, training and lanes;
requests of other nodes inside the windows of the paired tenant. The model's choices: power figures that R394 does not give
(log 57), lanes at first training, the flits sent again and a port's recovery (log 58), the numbers by which atomics of other
nodes are named (log 59). -/
def Sys2Proof.Claim.PowerAndLinkEvents : Prop := ∀ (s : State) (c : CoreId) (n : Nat),
  let p := s.port n
  let k := s.core c
  (∃ t, exec .powerInterval s = .next t ∧ t.ms = s.ms ∧ t.dealer = s.dealer ∧ t.net = s.net ∧
    (t.core c) = { k with csr := (t.core c).csr } ∧ (∀ i, i ≠ 0x068 → (t.core c).csrAt i = k.csrAt i)) ∧
  (∀ unit : BitVec 2, let ramp := k.tk.ramp.set unit.toNat (k.tk.ramp[unit.toNat] + 1)
    exec (.unitRamp ⟨c, unit⟩) s = .next (s.modCore c fun k => { k.setCsr 0x068
      (setBits (k.csrAt 0x068) 28 1 (if ∀ u : Fin 4, ramp[u] = 0 then 0 else 1)) with tk := { k.tk with ramp := ramp } })) ∧
  (∀ limit : BitVec 16, let most := max 9600 (min 35200 (bits (s.reg 0 0x6_0000) 0 16))
    exec (.thermalLimitChange limit) s = .next { s with root := { s.root with
      thermal := if limit.toNat < most then some limit else none } }) ∧
  (n < 24 → p.st = 2 → ∃ m, 1 ≤ m ∧ m ≤ 512 ∧ exec (.flitCrcFail n) s = .next ({ s with tick := s.tick + 1 }.setPort n { p with
      replays := BitVec.ofNat 32 (min 0xFFFF_FFFF (p.replays.toNat + m)), fails := p.fails + 1 } |>.elog 0 13 0 0xFF n 0 (toWord m))) ∧
  (n < 24 → p.st = 2 → 16 ≤ p.fails →
    portNow s (.portRetrain n) n { p with st := 1, fails := 0, retrains := p.retrains ++ [s.rounds] } 1 0) ∧
  (n < 24 → p.st = 0 → exec (.linkTrainingComplete n) s = .next (s.setPort n { p with st := 2, lanes := 0xFF, fails := 0 })) ∧
  (n < 24 → p.st = 1 → exec (.linkTrainingComplete n) s = .next (s.setPort n { p with st := 2, fails := 0 })) ∧
  (∀ l : BitVec 3, n < 24 → p.lanes.getLsbD l.toNat = true →
    let q := { p with lanes := p.lanes &&& ~~~((1 : BitVec 8) <<< l.toNat) }
    (4 ≤ lanesOf q ∨ p.st = 3 → portNow s (.laneRetire n l) n q 1 (toWord l.toNat)) ∧
    (lanesOf q < 4 → p.st ≠ 3 → exec (.laneRetire n l) s = .next
      ((((s.setPort n q).elog 0 13 1 0xFF n 0 (toWord l.toNat)).setPort n { q with st := 3 }).elog 0 13 1 0xFF n 0 0)) ∧
    (p.st = 2 → exec (.laneRecalibration n l) s = .next s)) ∧
  (n < 24 → p.st = 1 ∨ p.st = 2 → 3 ≤ (p.retrains.filter fun t => s.rounds < t + 1000000).length ∨ lanesOf p < 4 →
    portNow s (.portRetire n) n { p with st := 3 } 1 0) ∧
  (∀ (node : BitVec 10) (tenant : BitVec 6) pa, s.node ≠ 0 →
    let at_ := s.localize pa
    (∀ op, s.pairOf node.toNat tenant.toNat = none → exec (.remoteRequestArrival node tenant pa op) s = .next s) ∧
    (∀ u m, s.pairOf node.toNat tenant.toNat = some u → s.inReset u = false → 1 ≤ m → s.inTables u pa m = true →
      s.ms.homes = [] → s.ms.chains = [] → s.ms.hdm = [] → s.ms.poison = [] →
      exec (.remoteRequestArrival node tenant pa (.load m)) s = .next s ∧
      (∀ v, ∃ t, exec (.remoteRequestArrival node tenant pa (.store m v)) s = .next t ∧ t = { s with ms := t.ms } ∧
        t.ms.mem.read at_ m = v % 2 ^ (8 * m) ∧ ∀ b, b < at_ ∨ at_ + m ≤ b → t.ms.mem.get b = s.ms.mem.get b) ∧
      (m = 8 → at_ % 8 = 0 → ∀ v, ∃ t, exec (.remoteRequestArrival node tenant pa (.amo 0 8 v)) s = .next t ∧
        t = { s with ms := t.ms } ∧ t.ms.mem.read at_ 8 = (s.ms.mem.read at_ 8 + v % 2 ^ 64) % 2 ^ 64 ∧
        ∀ b, b < at_ ∨ at_ + 8 ≤ b → t.ms.mem.get b = s.ms.mem.get b) ∧
      (m = 16 → at_ % 16 = 0 → ∀ count, let next := s.ms.mem.read at_ 8
        ∃ t, exec (.remoteRequestArrival node tenant pa (.claim count)) s = .next t ∧ t = { s with ms := t.ms } ∧
          t.ms.mem.read at_ 8 = next + min count (s.ms.mem.read (at_ + 8) 8 - next) ∧
          ∀ b, b < at_ ∨ at_ + 8 ≤ b → t.ms.mem.get b = s.ms.mem.get b))) ∧
  (∀ node, k.wait = .remote node false → exec (.remoteRequestTimeout c) s =
    .next ((s.modCore c fun k => { k with wait := .remote node true }).elogCore c 14 1 0 0 (toWord node)))

/-- R84, R98, R118, R175, R412, R415, R416: what service of the device and its errors change. The model's choices:
machine check, pause of firmware and what a reset of the device keeps (log 60). -/
def Sys2Proof.Claim.DeviceEvents : Prop := ∀ (s : State) (c : CoreId) (die : BitVec 2),
  let k := s.core c
  let d := s.dealer
  let onDie := c.toNat / 64 = die.toNat
  (exec .firmwareUpdate s = .next { s with
    dealer := { d with paused := !d.paused }, root := { s.root with updates := s.root.updates + if d.paused then 1 else 0 } }) ∧
  exec .mctpRequest s = .next { s with root := { s.root with mctp := s.root.mctp + 1 } } ∧
  (d.tasks = [] → s.ms.homes = [] → ∃ t, exec (.dieQuiesce die) s = .next t ∧ die ∈ t.dealer.quiesced ∧ t.ms.mem = s.ms.mem ∧
    (onDie → (t.core c).tk.pool = false ∧ (t.core c).cache.l1d = [] ∧ (t.core c).x = k.x) ∧ (¬onDie → t.core c = k)) ∧
  (die ∈ d.quiesced → s.ms.homes = [] → (∀ y : CoreId, y.toNat / 64 = die.toNat → (s.core y).tk.task = none) → ∃ t,
    exec (.dieReturn die) s = .next t ∧ die ∉ t.dealer.quiesced ∧ (¬onDie → t.core c = k) ∧
    (onDie → (t.core c).tk.pool = decide (16 ≤ bits (k.csrAt 0x004) 32 8))) ∧
  (∀ t, d.tasks = [t] → k.tk.task = some t.id → t.cores = [c] → t.st = .running → t.compl = 0 → t.msix = false →
    d.saved = [] → k.eng.copies = [] → s.rcount t.tenant.toNat = 0 → ∃ u, exec (.uncontainedEnd c) s = .next u ∧
      u.dealer.tasks = [{ t with st := .ended, cores := [], slots := [], hold := none, dealt := [] }] ∧ (u.core c).tk.task = none ∧
      (u.core c).acn.pots = [] ∧ ∀ y, y ≠ c → u.core y = s.core y) ∧
  ((∀ i < 64, s.root.vf[i]? = some false) → exec .machineCheck s = .next (s.logIn 0 16 3 0xFF 0 0 0)) ∧
  (∀ u : BitVec 6, (∀ i < 64, s.root.vf[i]? = some (i == u.toNat)) →
    exec .machineCheck s = .next ((s.logIn 0 16 3 0xFF 0 0 0).resetTenant u)) ∧
  (∃ t, exec .deviceReset s = .next t ∧ t.cores = State.reset.cores ∧ t.mmio = [] ∧ t.dealer = State.reset.dealer ∧
    t.sec = State.reset.sec ∧ t.net = [] ∧ t.ms.mem = s.ms.mem ∧ t.ms.homes = [] ∧ t.ms.monitors = [] ∧ t.ms.host = s.ms.host)

/-- Power, links and the device. -/
def Obligations.DeviceAndLinkEvents : Prop := Sys2Proof.Claim.PowerAndLinkEvents ∧ Sys2Proof.Claim.DeviceEvents


/-! ### Decoding, the step and reset -/

/-- R185, R186, R190, R196: worked words of the spec decode to the instructions they stand for, with every operand read at
its place; a word of a reserved major opcode is none. -/
def Obligations.DecodeWords : Prop :=
  decodeTableWord 64 0x0028_A300_0000_0000 = some (.add ⟨10, 10, 12, 0⟩) ∧
  decodeTableWord 64 0x102C_B000_0000_0001 = some (.addi ⟨11, 11, 1, none⟩) ∧
  decodeTableWord 128 0x1124_0067_89AB_CDEF_F000_0000_0001_2345 =
    some (.li ⟨9, 0, 0x67_89AB_CDEF, some 0x01_2345⟩) ∧
  decodeTableWord 64 0x3028_5000_8000_0010 = some (.ld ⟨10, 5, 0, 0, 0, 2, 16, none⟩) ∧
  decodeTableWord 64 0x5108_0410_44EA_0000 = some (.vfma ⟨4, 1, 2, 4, 2, 0, 1, 1, 1, .f32⟩) ∧
  decodeTableWord 64 0x2022_8BFF_FFFF_FFFE = some (.brCc .lt ⟨10, 11, 0xFF_FFFF_FFFE⟩) ∧
  decodeTableWord 64 0x2412_C000_0000_0002 = some (.loop 1 ⟨11, 0, 2⟩) ∧
  decodeTableWord 64 0x5798_0C00_008A_0000 = some (.vred .add ⟨76, 3, 0, 0, 0, 0, 1, 0, 0, .f32⟩) ∧
  decodeTableWord 64 0x770C_A050_8500_0009 = some (.vamo ⟨6, 20, 5, 0, 0, 1, 0, .u32, 9, none⟩) ∧
  decodeTableWord 64 0x9828_0000_0307_4400 = some (.mma ⟨10, 0, 0, 0, 3, 7, 0x44, 0⟩) ∧
  decodeTableWord 64 0xA024_B300_0900_0D00 = some (.potOpen ⟨9, 11, 12, 0, 9, 0, 0x0D, 0⟩) ∧
  decodeTableWord 64 0xC014_1010_0000_0000 = some (.fop ⟨5, 2, 1, 0, 0, 0, 0, 0, none⟩) ∧
  decodeTableWord 64 0xE529_4000_0000_0003 = some (.enq ⟨10, 20, 3, none⟩) ∧
  decodeTableWord 64 0x0400_0000_0000_0000 = none

/-- R185, R186, R190 to R196: the bytes of every well-formed instruction decode to it again, whatever follows them, and leave
what follows; and every word that decodes, with the extension word before it, is the encoding of what it decodes to, so
that no two words mean the same. (The events have no words.) -/
def Obligations.DecodeEncodeRoundTrip : Prop :=
  (∀ (i : Instr) (rest : List Byte), i.wellFormed = true → encode i ≠ [] →
    decodeBytes .b0 ((encode i).flatMap (fun w => bytesOf 8 w.toNat) ++ rest) = .ok (i, rest)) ∧
  (∀ (w0 w1 : Word) (i : Instr), decode .b0 w0 w1 = .ok i →
    encode i = (if opOf w0 = extOp then [w0, w1] else [w0]) ∧ i.wellFormed = true)

namespace Sys2Proof.Claim

/-- TSTATUS.APEND says on every core that a frame is live and an asynchronous event is held (R349, R357). -/
def apendRight (s : State) : Prop :=
  ∀ c, (s.core c).tstatus.getLsbD 9 = ((s.core c).tf && (s.core c).eventHeld)

end Sys2Proof.Claim

/-- R185, R191, R194, R195: the step of a thread runs the instruction that the words at its program counter decode to, an extension
word and the word after it as one; words that decode to none trap at the program counter with the word refused as TVAL (R200),
a word of a major that the part retires with OPCODE_RETIRED. An agent named by the agenda moves first. A step that stores into no
line that the host caches and changes no saved context ends with what State.tidy keeps up to date. -/
def Obligations.StepRunsDecoded : Prop := ∀ (s : State),
  (threadMoves s → ∀ w0 t, fetches s s.self.pc w0 t → opOf w0 ≠ extOp →
    (∀ i w1, decode t.step w0 w1 = .ok i → step s = s.concluded none (exec i t)) ∧
    (t.self.tf = false → ∀ w1,
      (decode t.step w0 w1 = .error .illegalOp → step s = s.concluded none (trapped t 1 w0 s.self.pc)) ∧
      (decode t.step w0 w1 = .error .illegalEnc → step s = s.concluded none (trapped t 2 w0 s.self.pc)) ∧
      (decode t.step w0 w1 = .error .opcodeRetired → step s = s.concluded none (trapped t 0x16 w0 s.self.pc)))) ∧
  (threadMoves s → ∀ w0 t w1 u, fetches s s.self.pc w0 t → opOf w0 = extOp → fetches t (s.self.pc + 8) w1 u →
    (∀ i, decode u.step w0 w1 = .ok i → step s = s.concluded none (exec i u)) ∧
    (u.self.tf = false →
      (decode u.step w0 w1 = .error .extRefused → step s = s.concluded none (trapped u 2 w0 s.self.pc)) ∧
      (decode u.step w0 w1 = .error .illegalOp → step s = s.concluded none (trapped u 1 w1 s.self.pc)) ∧
      (decode u.step w0 w1 = .error .illegalEnc → step s = s.concluded none (trapped u 2 w1 s.self.pc)) ∧
      (decode u.step w0 w1 = .error .opcodeRetired → step s = s.concluded none (trapped u 0x16 w1 s.self.pc)))) ∧
  (∀ w0 w1 : Word, opOf w0 = 0xE8 → decode .a1 w0 w1 = .error .opcodeRetired) ∧
  (∀ i rest, s.agenda = .event i :: rest →
    step s = State.concluded { s with agenda := rest } none (exec i { s with agenda := rest })) ∧
  (∀ c rest, s.agenda = .thread c :: rest → s.threadReady c = true →
    let t := { s with agenda := rest, cur := c }
    step s = State.concluded { s with agenda := rest } none (t.asyncDue.getD t.threadStep)) ∧
  (∀ m t, t.dealer.saved = s.dealer.saved → s.ms.hdm = [] → s.concluded m (.next t) = .next t.tidy)

/-- The values that reset leaves, where the spec gives them (R22, R62, R66, R69, R84, R96, R97, R199, R223, R349, R350,
R371): the other values of State.reset are the model's choice (log 1) and are not claimed here. -/
def Obligations.ResetState : Prop :=
  (∀ (c : CoreId),
    let k := State.reset.core c
    k.csrAt 0x000 = 3 ∧ k.csrAt 0x005 = 0xFFFF_FFFF ∧ k.csrAt 0x004 = toWord (32 * 2 ^ 32 + 262144) ∧
    k.csrAt 0x00A = 0xFFFF_FFFF_FFFF ∧ k.csrAt 0x00B = 0xFFFF_FFFF ∧ k.csrAt 0x013 = 0xFFA0 ∧ k.csrAt 0x130 = 1 ∧
    (∀ n ∈ [0x018, 0x019, 0x020, 0x021, 0x022, 0x023, 0x030, 0x031, 0x032, 0x033, 0x034, 0x035, 0x041, 0x100, 0x101,
      0x102, 0x103, 0x104, 0x105, 0x110, 0x120, 0x121], k.csrAt n = 0) ∧
    (∀ r : Fin 32, k.vec.st[r] = .full) ∧ (∀ t : BitVec 8, k.tile t.toNat = Tile.free) ∧
    ∀ b < 256, ∀ j < 8, bits (k.eng.codebook.extractLsb' (32 * b) 64) (4 * j) 4 = 2 + 4 * (b / 2 ^ j % 2)) ∧
  (∀ t < 64, ∀ w < 16, State.reset.twin t w = 0) ∧ State.reset.gcur = 1

/-- R349, R357: after reset TSTATUS.APEND is 0 on every core, where no frame is live: the invariant that every step keeps. -/
def Obligations.ResetInvariant : Prop := apendRight State.reset

/-- R349, R357: a step from any state in which TSTATUS.APEND says of every core whether a frame is live and an asynchronous
event is held leads to such a state, whichever agent moves. -/
def Obligations.StepKeepsInvariant : Prop := ∀ s t : State, apendRight s → step s = .next t → apendRight t

/-! ### Completion under conditions on the state alone -/

namespace Sys2Proof.Claim

/-- A vector form completes: it has its effect on the vector unit and the CSRs, and the core goes on behind it. -/
def completes (s : State) (i : Instr) : Prop :=
  ∃ t, exec i s = .next t ∧ onlyVector s t ∧ t.self.pc = (s.self.retire 8).pc

/-- A form that returns a scalar completes with a reply on its way. -/
def answers (s : State) (i : Instr) (r : BitVec 6) : Prop := ∃ v, exec i s = replied s 8 r v

/-- A code of a WAC96 operand: the first of three registers of the file, or a scalar (R66). -/
def groups (code : BitVec 7) : Prop := code.toNat ≤ 29 ∨ code.getLsbD 6 = true

end Sys2Proof.Claim

/-- R230, R233, R237, R240, R247 to R252, R288: under these conditions on the state and the operands alone, no floating-point
trap enabled, the comparisons, special functions, mask forms, conversions, block scales, wide accumulator forms, VTOPK and
VMETA complete. -/
def Sys2Proof.Claim.VectorFormsUntrapped : Prop := ∀ (cc : CC) (src : ET) (f : VA) (s : State),
  let k := s.self
  let n := k.vrows * k.vcols
  let numeric := fun (t : ET) => ETint t = true ∨ ETflt t = true
  let holds := fun (code : BitVec 7) (w most : Nat) => most ≤ if code.toNat < 32 then k.capBits / w else 1024
  let offset := if f.vc.getLsbD 6 then (k.rd (scalarOf f.vc)).toNat else 0
  let scaled := f.va :: ((if f.vb = 0 then [] else [f.vb]) ++ if f.vc.getLsbD 6 then [f.vc] else [])
  k.fpen = 0 → f.vd.getLsbD 6 = false →
  (numeric f.et → f.et ≠ .i4 → (ETflt f.et = true → cc ≠ .ltu ∧ cc ≠ .geu ∧ cc ≠ .gtu ∧ cc ≠ .leu) →
    issues s (ETew f.et) [f.va, f.vb] → 0 < f.vd.toNat → f.vd.toNat < 8 → completes s (.vcmpCc cc f)) ∧
  (f.et = .f16 ∨ f.et = .bf16 ∨ f.et = .f32 → issues s (ETew f.et) [f.vd, f.va] →
    completes s (.vexp2 f) ∧ completes s (.vlog2 f) ∧ completes s (.vsin f) ∧ completes s (.vcos f)) ∧
  (k.ew ≤ 5 → issues s k.ew [] → 0 < f.vd.toNat → f.vd.toNat < 8 →
    completes s (.mand f) ∧ completes s (.mor f) ∧ completes s (.mxor f) ∧ completes s (.mnot f)) ∧
  (src ≠ .wac → f.et ≠ .wac →
    (f.vc = 0 → issues s (ETew f.et) (f.vd :: scaled) → completes s (.vcvt src f)) ∧
    (issues s (ETew src) (f.vd :: scaled) → holds f.vd (ETwidth f.et) (offset + n) →
      completes s (.vcvtNarrow src f) ∧ completes s (.vcvtF32E2m1 src f)) ∧
    (issues s (ETew f.et) (f.vd :: scaled) → f.va.getLsbD 6 = true ∨ holds f.va (ETwidth src) (offset + n) →
      completes s (.vcvtWiden src f))) ∧
  (ETflt src = true → wholes s (ETew src) [f.vd, f.va] → completes s (.vscale src f)) ∧
  (f.vd.toNat ≤ 29 →
    (groups f.va → groups f.vb → issues s 5 (group f.vd ++ (group f.va ++ group f.vb)) → completes s (.vaddWac f)) ∧
    (ETflt f.et = true → (f.et = .f64 → n ≤ k.capBits / 64) → issues s 5 (group f.vd ++ [f.va]) → completes s (.vcvtWac f))) ∧
  (groups f.va → f.et = .f32 ∨ f.et = .f64 ∧ n ≤ k.capBits / 64 → issues s 5 (f.vd :: group f.va) →
    holds f.vd (ETwidth f.et) n → completes s (.vcvtFwac f)) ∧
  (wholes s (ETew f.et) [f.vd, f.vd + 1, f.va, f.vb] → f.vd.toNat ≤ 30 → f.vb.getLsbD 6 = true → numeric f.et →
    16 ≤ ETwidth f.et → completes s (.vtopk f)) ∧
  (wholes s 3 [f.vd] → completes s (.vmeta f))

/-- R247, R237: MPOPC and MFIRST complete whatever the masks hold. -/
def Sys2Proof.Claim.MaskQueriesComplete : Prop := ∀ (f : VA) (s : State),
  issues s s.self.ew [] → s.self.ew ≤ 5 → s.self.vrows * s.self.vcols ≠ 0 → slotFree s (scalarOf f.vd) →
  answers s (.mpopc f) (scalarOf f.vd) ∧ answers s (.mfirst f) (scalarOf f.vd)

/-- R230, R233, R237, R240, R247 to R252, R288: the vector forms that complete under conditions on the state alone. -/
def Obligations.VectorFormsComplete : Prop := Sys2Proof.Claim.VectorFormsUntrapped ∧ Sys2Proof.Claim.MaskQueriesComplete


namespace Sys2Proof.Claim

/-- Nothing stands between memory and a reader: no line at a home, no addend under way, no poison, no host copy, no
monitor. -/
def calm (s : State) : Prop :=
  s.ms.homes = [] ∧ s.ms.chains = [] ∧ s.ms.poison = [] ∧ s.ms.hdm = [] ∧ s.ms.monitors = []

/-- A part of an image at a virtual address holds the same part of v: each piece of it inside one page is translated by the
thread's L1 TLB to an uncached, unformatted page, and its bytes are those of v (R316). -/
def standsAt (s : State) (img o n v : Nat) : Prop :=
  let va := canon56 (toWord (img + o))
  ∀ p ∈ cutAt 4096 va.toNat n (n + 1) 0, let a := va + toWord p.1
    ∃ e, mapped s a { kind := 0, n := p.2, noMmio := true } e ∧ pteFmt e.pte = 0 ∧
      uncached s e (s.leafAddr e.pte e.level a) = true ∧
      s.ms.mem.read (s.leafAddr e.pte e.level a) p.2 = fld v (8 * (o + p.1)) (8 * p.2)

/-- The entry that a walk of va meets in a table at a level. -/
def entryAt (s : State) (va : Word) (lvl table : Nat) : Word := toWord (s.ms.mem.read (s.localize (table + 8 * walkIndex va lvl)) 8)

/-- A walk through these levels from a table reaches this leaf: each entry lies inside the tenant's windows, is valid and has
nothing reserved set (R28, R29). -/
def walks (s : State) (t : BitVec 6) (va : Word) : List Nat → Nat → Word → Nat → Prop
  | [], _, _, _ => False
  | lvl :: rest, table, pte, level =>
    let e := entryAt s va lvl table
    s.inTables t (table + 8 * walkIndex va lvl) 8 = true ∧ bits e 61 3 = 0 ∧ pteV e = true ∧
      if pteLeaf e = true ∨ lvl = 0 then pte = e ∧ level = lvl else walks s t va rest (ptePpn e * 4096) pte level

/-- An access that no TLB and no page-walk cache serves is translated by a walk to ordinary device memory, with A set and the
access permitted (R27 to R32). -/
def walked (s : State) (x : Ctx) (va : Word) (q : Ask) (pte : Word) (level : Nat) : Prop :=
  canonical va = true ∧ (s.core x.core).cache.tlb = [] ∧ s.ms.l2tlb = [] ∧ s.ms.pwc = [] ∧ calm s ∧
  walks s x.tenant va [4, 3, 2, 1, 0] (x.root * 4096) pte level ∧ s.leafOk pte level = true ∧
  s.leafWindow x pte (leafRaw pte level va) q = true ∧ permitted x pte q.kind = true ∧
  formatOk pte (s.leafAddr pte level va) q = true ∧ pteHost pte = false ∧ pteTb pte = false ∧ pteA pte = true ∧
  mmioOf (s.leafAddr pte level va) = none ∧ s.leafAddr pte level va < 2 ^ 42

/-- Nothing of a running FOP moves in this cycle: every region has rested for 16 cycles, no element fires, no token finds room,
and none may escape (R309, R312, R324). -/
def rests (g : Grid) (ins : Array Item × Array Item) : Prop :=
  (∀ r < 16, ∃ n, g.idle[r]? = some n ∧ 16 ≤ n) ∧ (∀ x ∈ g.elems, x.ready g.rm = .fire .no) ∧
  (∀ w ∈ g.wires, g.peek ins w.1 = none ∨ ∃ k ∈ w.2, g.hasRoom k = false) ∧
  ∀ r < 16, ∀ w ∈ g.blocked g.wires ins r, g.canEscape w = false

/-- Output o of a FOP is mapped and has not ended (R321). -/
def pendingOut (g : Grid) : Prop := ∃ o < 4, mapOut g.maps o ≠ 0 ∧ g.ended[o]? = some false

end Sys2Proof.Claim

/-- R316, R321, R323 to R325: an FBIND whose image stands in uncached memory completes; a FOP whose outputs have all ended
completes; one that is being pre-empted stops; one that rests with a full overflow buffer ends with FABRIC; a region of the
running plane is reloaded from an image that stands in memory. -/
def Sys2Proof.Claim.FabricCompletes : Prop := ∀ (c : CoreId) (f : EN) (s : State) (g : Grid),
  let k := s.core c
  let at_ := { s with cur := c }
  let running := k.fab.grid = some g ∧ g.frozen = false
  (∀ v, let a := s.self.rd f.xa
    ready s [f.xa] → slotFree s f.xd → a.toNat % 256 = 0 → canonical a = true → s.self.cache.l1d = [] → calm s →
    standsAt s (imageName a) 0 imageBytes v → v < 2 ^ (8 * imageBytes) →
    ∃ (w : Word) (u : Core), exec (.fbind f) s = .next (s.modSelf fun _ => u) ∧
      u.replies = s.self.replies ++ [⟨[(f.xd, w)]⟩] ∧ u.x = s.self.x ∧ u.pc = (s.self.retire 8).pc ∧
      w = if (headerOk v && wordsOk v) = false then 3 else if signaturesOk v = false then 2 else 0) ∧
  (running → g.reload = [] → g.wants = [] → g.first = none → (∀ h ∈ g.emits, h ∉ k.eng.stream) →
    (∀ o < 4, mapOut g.maps o = 0 ∨ g.ended[o]? = some true) → ∀ cycles, ∃ u,
    exec (.fopComplete c cycles) s = .next (s.setCore c u) ∧ u.fab.grid = none ∧ u.pc = (k.retire g.size).pc ∧ u.x = k.x) ∧
  (running → g.reload = [] → g.first = none → pendingOut g → k.tk.preempt = .due → ∃ u,
    exec (.fopStop c 0) s = .next (s.setCore c u) ∧ u.fab.grid = some { g with frozen := true, flags := 0 } ∧
      u.pc = k.pc ∧ u.x = k.x) ∧
  (∀ r : BitVec 4, running → g.reload = [] → g.first = none → pendingOut g → rests g (g.inputs k) →
    g.jammed g.wires (g.inputs k) r.toNat = true → k.tf = false → ∃ u,
    exec (.escapeTimeout c r) s = .next (s.setCore c u) ∧ u.fab.grid = none ∧ u.priv = .super ∧ u.csrAt 0x100 = 0x0F ∧
      u.csrAt 0x101 = toWord (4 * 2 ^ 60 + r.toNat * 2 ^ 12 + g.slot.toNat) ∧ u.pc = canon56 (k.csrAt 0x104) ∧ u.x = k.x) ∧
  (∀ (r : BitVec 4) (more : List (BitVec 4)) (q : BitVec 2) (p : Plane) (v : Nat),
    running → g.reload = r :: more → k.fab.active = some q → k.fab.planes[q.toNat] = some p → k.cache.l1d = [] → calm s →
    let word := fun i j => 128 + 12 * ((16 * (r.toNat / 4) + i) * 64 + 16 * (r.toNat % 4) + j)
    standsAt at_ p.img 0 128 v → (∀ i < 16, standsAt at_ p.img (word i 0) 192 v) →
    standsAt at_ p.img (49280 + 8 * r.toNat) 8 v →
    (hdrUses (imgDword v 0) r.toNat = false ∨ signatureOf (fld v 0 1024) ((List.range 16).flatMap fun i =>
      (List.range 16).map fun j => fld v (8 * word i j) 96) = fld v (8 * (49280 + 8 * r.toNat)) 64) → ∃ t,
    exec (.regionReloadDone c) s = .next t ∧ t.root.reloads = s.root.reloads + 1 ∧ (t.core c).pc = k.pc ∧
      (t.core c).x = k.x ∧ ∃ h, (t.core c).fab.grid = some h ∧ h.reload = more ∧ h.inpos = g.inpos)

/-- R29, R112, R270, R301, R384: under conditions on the state alone a page walk leaves its translation, a flush with nothing
dirty completes and bumps the generation, a copy whose reply page is missing is suspended, a blocked head with one counter is
read again, and TST of lines that their homes hold completes. -/
def Sys2Proof.Claim.EnginesComplete : Prop := ∀ (c : CoreId) (s : State),
  let k := s.core c
  (∀ (va : BitVec 56) pte level, let a := va.signExtend 64
    k.tk.task ≠ none → walked s (s.ctxOf c) a { kind := 0, n := 1, rewalk := true } pte level → ∃ t,
    exec (.pageWalk c va) s = .next t ∧ tlbOf (s.ctxOf c) a pte level ∈ (t.core c).cache.tlb ∧ t.ms.mem = s.ms.mem ∧
      t = { s with cores := t.cores, ms := t.ms } ∧ t.core c = { k with cache := (t.core c).cache } ∧
      ∀ d, d ≠ c → t.core d = s.core d) ∧
  (∀ o : FlushOp, let place := s.localize (bits o.tdt 12 40 * 4096 + 128 * o.tid.toNat)
    let next := (s.ms.mem.read place 8 % 2 ^ 16 + 1) % 2 ^ 16
    k.eng.flushes = [o] → o.active = true → calm s → s.ms.flushFail = [] → place + 8 < 2 ^ 42 → ∃ t,
    exec (.tflushComplete c o.h) s = .next t ∧ (t.core c).eng.flushes = [] ∧
      (t.core c).handle o.h = { (k.handle o.h) with st := .done, status := 0, detail := 0 } ∧ (t.core c).x = k.x ∧
      (t.core c).pc = k.pc ∧ t.ms.mem.read place 2 = next ∧
      ∀ b, b < place ∨ place + 2 ≤ b → t.ms.mem.get b = s.ms.mem.get b) ∧
  (∀ o : CopyOp, let x := o.ctx k.tk.tenant c; let va := canon56 o.reply
    let e := entryAt s va 4 (x.root * 4096)
    k.eng.copies = [o] → o.phase = .running → o.reply ≠ 0 → o.reply.toNat % 8 = 0 → o.rep = none → o.u = 0 →
    k.cache.tlb = [] → s.ms.l2tlb = [] → s.ms.pwc = [] → calm s →
    s.inTables x.tenant (x.root * 4096 + 8 * walkIndex va 4) 8 = true → bits e 61 3 = 0 → pteV e = false → ∃ u : Core,
    exec (.copySuspend c o.h) s = .next (s.setCore c u) ∧
      u.eng.copies = [{ o with phase := .suspended, resumed := false }] ∧
      u.eng.events = k.eng.events ++ [⟨o.h, 1, 0, syndrome 0 4 1 va.toNat⟩] ∧
      u.handle o.h = { (k.handle o.h) with status := 1, detail := 0 } ∧ u.x = k.x ∧ u.pc = k.pc ∧ u.vec = k.vec) ∧
  (∀ (t : Task) u g pte level, let d := s.dealer
    let q : Ask := { kind := 0, n := 8, msu := true }
    let v := s.ms.mem.read (s.leafAddr pte level (t.waitAt 0)) 8
    d.tasks = [t] → t.st = .blocked → t.due = true ∨ 16 ≤ t.polled → t.q = .ring u g → t.ndep = 1 →
    walked s (s.dealerCtx t.tenant) (t.waitAt 0) q pte level →
    (v ≠ 0 → exec (.blockedHeadReread t.q) s = .next { s with dealer := { d with
      tasks := [{ t with polled := 0, due := false }] } }) ∧
    (v = 0 → exec (.blockedHeadReread t.q) s = .next { s with dealer := { d with
      clock := d.clock + 1, tasks := [{ t with st := .ready, since := d.clock + 1, age := 0, polled := 0, due := false }] } })) ∧
  (∀ (f : TT) (d : Desc) (first : Nat), let k := s.self
    let t := f.t.toNat
    let e := k.tile t
    let tid := bits (k.rd f.xa) 48 16
    namesLines s f d first → d.ro = false → k.vstart = 0 → k.vec.poison = [] → k.scratchPoison = [] → s.ms.gated = [] →
    (∀ j < f.uvalue, ∃ h, s.ms.home (d.key (s.ctxOf s.cur) tid (first + j)) = some h ∧ s.ms.paired h = false) →
    (f.mode.getLsbD 0 = false ∧ t < 42 ∧ k.ew ≤ 4 ∧ ewWidth k.ew = d.w ∧ k.capBits ≤ 262144 ∧ k.vec.state t = .full ∧
        f.uvalue * d.tileSize ≤ (if t < 32 then k.capBits / d.w else 1024)) ∨
      (f.mode.getLsbD 0 = true ∧ e.v = true ∧ e.tenant = k.tk.tenant ∧ f.uvalue * d.tileBytes ≤ e.size.toNat * 4096 ∧
        e.st = .ready ∧ e.readers.toNat < 255) →
    ∃ z, exec (.tst f) s = .next z ∧ z.self.pc = (k.retire (extSize f.ext)).pc ∧ z.self.csrAt 0x003 = 0 ∧ z.self.x = k.x ∧
      z.self.vec = k.vec ∧ z.self.tiles = k.tiles ∧ z.self.scratch = k.scratch)

/-- R29, R112, R270, R301, R316, R321, R323 to R325, R384: FOP, its events, and those of the engines that complete under conditions on the state alone. -/
def Obligations.EngineFormsComplete : Prop := Sys2Proof.Claim.FabricCompletes ∧ Sys2Proof.Claim.EnginesComplete
end

