-- ==== Sys2Proof/Laws/State.lean ====
section
/-! SUPPORT. What each named update of a core and of the state leaves in each field: one lemma per field per update, so
that no proof unfolds a record update. -/

namespace Sys2Proof.Machine

/-! ### One core in the state -/

/-- A core put back as it stands changes nothing. -/
@[simp] theorem State.setCore_self (s : State) (c : CoreId) : s.setCore c (s.core c) = s := by
  unfold State.setCore State.core
  rw [show s.cores.set c.toNat s.cores[c.toNat] = s.cores by simp]

@[simp] theorem State.setCore_cur (s : State) (c : CoreId) (k : Core) : (s.setCore c k).cur = s.cur := rfl
@[simp] theorem State.setCore_agenda (s : State) (c : CoreId) (k : Core) : (s.setCore c k).agenda = s.agenda := rfl
@[simp] theorem State.setCore_tick (s : State) (c : CoreId) (k : Core) : (s.setCore c k).tick = s.tick := rfl
@[simp] theorem State.setCore_ms (s : State) (c : CoreId) (k : Core) : (s.setCore c k).ms = s.ms := rfl
@[simp] theorem State.setCore_mmio (s : State) (c : CoreId) (k : Core) : (s.setCore c k).mmio = s.mmio := rfl
@[simp] theorem State.setCore_dealer (s : State) (c : CoreId) (k : Core) : (s.setCore c k).dealer = s.dealer := rfl
@[simp] theorem State.setCore_net (s : State) (c : CoreId) (k : Core) : (s.setCore c k).net = s.net := rfl
@[simp] theorem State.setCore_sec (s : State) (c : CoreId) (k : Core) : (s.setCore c k).sec = s.sec := rfl
@[simp] theorem State.setCore_links (s : State) (c : CoreId) (k : Core) : (s.setCore c k).links = s.links := rfl
@[simp] theorem State.setCore_root (s : State) (c : CoreId) (k : Core) : (s.setCore c k).root = s.root := rfl
@[simp] theorem State.setCore_step (s : State) (c : CoreId) (k : Core) : (s.setCore c k).step = s.step := rfl
@[simp] theorem State.modCore_cur (s : State) (c : CoreId) (f : Core → Core) : (s.modCore c f).cur = s.cur := rfl
@[simp] theorem State.modCore_agenda (s : State) (c : CoreId) (f : Core → Core) : (s.modCore c f).agenda = s.agenda := rfl
@[simp] theorem State.modCore_tick (s : State) (c : CoreId) (f : Core → Core) : (s.modCore c f).tick = s.tick := rfl
@[simp] theorem State.modCore_ms (s : State) (c : CoreId) (f : Core → Core) : (s.modCore c f).ms = s.ms := rfl
@[simp] theorem State.modCore_mmio (s : State) (c : CoreId) (f : Core → Core) : (s.modCore c f).mmio = s.mmio := rfl
@[simp] theorem State.modCore_dealer (s : State) (c : CoreId) (f : Core → Core) : (s.modCore c f).dealer = s.dealer := rfl
@[simp] theorem State.modCore_net (s : State) (c : CoreId) (f : Core → Core) : (s.modCore c f).net = s.net := rfl
@[simp] theorem State.modCore_sec (s : State) (c : CoreId) (f : Core → Core) : (s.modCore c f).sec = s.sec := rfl
@[simp] theorem State.modCore_links (s : State) (c : CoreId) (f : Core → Core) : (s.modCore c f).links = s.links := rfl
@[simp] theorem State.modCore_root (s : State) (c : CoreId) (f : Core → Core) : (s.modCore c f).root = s.root := rfl
@[simp] theorem State.modCore_step (s : State) (c : CoreId) (f : Core → Core) : (s.modCore c f).step = s.step := rfl
@[simp] theorem State.modSelf_cur (s : State) (f : Core → Core) : (s.modSelf f).cur = s.cur := rfl
@[simp] theorem State.modSelf_agenda (s : State) (f : Core → Core) : (s.modSelf f).agenda = s.agenda := rfl
@[simp] theorem State.modSelf_tick (s : State) (f : Core → Core) : (s.modSelf f).tick = s.tick := rfl
@[simp] theorem State.modSelf_ms (s : State) (f : Core → Core) : (s.modSelf f).ms = s.ms := rfl
@[simp] theorem State.modSelf_mmio (s : State) (f : Core → Core) : (s.modSelf f).mmio = s.mmio := rfl
@[simp] theorem State.modSelf_dealer (s : State) (f : Core → Core) : (s.modSelf f).dealer = s.dealer := rfl
@[simp] theorem State.modSelf_net (s : State) (f : Core → Core) : (s.modSelf f).net = s.net := rfl
@[simp] theorem State.modSelf_sec (s : State) (f : Core → Core) : (s.modSelf f).sec = s.sec := rfl
@[simp] theorem State.modSelf_links (s : State) (f : Core → Core) : (s.modSelf f).links = s.links := rfl
@[simp] theorem State.modSelf_root (s : State) (f : Core → Core) : (s.modSelf f).root = s.root := rfl
@[simp] theorem State.modSelf_step (s : State) (f : Core → Core) : (s.modSelf f).step = s.step := rfl

/-- The core read after it was replaced. -/
@[simp] theorem State.setCore_core_same (s : State) (c : CoreId) (k : Core) : (s.setCore c k).core c = k := by
  simp [State.setCore, State.core]

/-- Another core read after one was replaced. -/
theorem State.setCore_core_other (s : State) {c d : CoreId} (k : Core) (h : d ≠ c) :
    (s.setCore c k).core d = s.core d := by
  have hn : c.toNat ≠ d.toNat := fun e => h (BitVec.eq_of_toNat_eq e.symm)
  simp [State.setCore, State.core, hn]

@[simp] theorem State.modCore_core_same (s : State) (c : CoreId) (f : Core → Core) :
    (s.modCore c f).core c = f (s.core c) := by simp [State.modCore]

theorem State.modCore_core_other (s : State) {c d : CoreId} (f : Core → Core) (h : d ≠ c) :
    (s.modCore c f).core d = s.core d := State.setCore_core_other s _ h

/-- The core whose thread moves, after a change of it. -/
@[simp] theorem State.modSelf_self (s : State) (f : Core → Core) : (s.modSelf f).self = f s.self := by
  simp [State.modSelf, State.self]

/-- The other cores keep their contents while a thread's own core changes. -/
theorem State.modSelf_core_other (s : State) {d : CoreId} (f : Core → Core) (h : d ≠ s.cur) :
    (s.modSelf f).core d = s.core d := State.modCore_core_other s f h

/-- Two changes of a core are one. -/
@[simp] theorem State.setCore_setCore (s : State) (c : CoreId) (k l : Core) :
    (s.setCore c k).setCore c l = s.setCore c l := by simp [State.setCore]

@[simp] theorem State.modSelf_modSelf (s : State) (f g : Core → Core) :
    (s.modSelf f).modSelf g = s.modSelf fun k => g (f k) := by
  simp [State.modSelf, State.modCore]

/-- A change of the core whose thread moves that changes nothing. -/
@[simp] theorem State.setCore_core (s : State) (c : CoreId) : s.setCore c (s.core c) = s := by
  simp [State.setCore, State.core]

theorem State.modSelf_congr (s : State) {f g : Core → Core} (h : f s.self = g s.self) : s.modSelf f = s.modSelf g := by
  unfold State.self at h
  simp only [State.modSelf, State.modCore, h]

theorem State.modSelf_of_eq (s : State) {f : Core → Core} (h : f s.self = s.self) : s.modSelf f = s := by
  unfold State.self at h
  simp [State.modSelf, State.modCore, h]

/-! ### CSRs of a core -/

@[simp] theorem Core.setCsr_x (k : Core) (n : Nat) (v : Word) : (k.setCsr n v).x = k.x := rfl
@[simp] theorem Core.setCsr_pc (k : Core) (n : Nat) (v : Word) : (k.setCsr n v).pc = k.pc := rfl
@[simp] theorem Core.setCsr_priv (k : Core) (n : Nat) (v : Word) : (k.setCsr n v).priv = k.priv := rfl
@[simp] theorem Core.setCsr_frame (k : Core) (n : Nat) (v : Word) : (k.setCsr n v).frame = k.frame := rfl
@[simp] theorem Core.setCsr_replies (k : Core) (n : Nat) (v : Word) : (k.setCsr n v).replies = k.replies := rfl
@[simp] theorem Core.setCsr_wait (k : Core) (n : Nat) (v : Word) : (k.setCsr n v).wait = k.wait := rfl
@[simp] theorem Core.setCsr_vec (k : Core) (n : Nat) (v : Word) : (k.setCsr n v).vec = k.vec := rfl
@[simp] theorem Core.setCsr_tiles (k : Core) (n : Nat) (v : Word) : (k.setCsr n v).tiles = k.tiles := rfl
@[simp] theorem Core.setCsr_scratch (k : Core) (n : Nat) (v : Word) : (k.setCsr n v).scratch = k.scratch := rfl
@[simp] theorem Core.setCsr_scratchPoison (k : Core) (n : Nat) (v : Word) : (k.setCsr n v).scratchPoison = k.scratchPoison := rfl
@[simp] theorem Core.setCsr_eng (k : Core) (n : Nat) (v : Word) : (k.setCsr n v).eng = k.eng := rfl
@[simp] theorem Core.setCsr_fab (k : Core) (n : Nat) (v : Word) : (k.setCsr n v).fab = k.fab := rfl
@[simp] theorem Core.setCsr_acn (k : Core) (n : Nat) (v : Word) : (k.setCsr n v).acn = k.acn := rfl
@[simp] theorem Core.setCsr_cache (k : Core) (n : Nat) (v : Word) : (k.setCsr n v).cache = k.cache := rfl
@[simp] theorem Core.setCsr_tk (k : Core) (n : Nat) (v : Word) : (k.setCsr n v).tk = k.tk := rfl

/-- A CSR read after it was written. -/
theorem Core.setCsr_csrAt_same (k : Core) {n : Nat} (v : Word) (h : n < 518) : (k.setCsr n v).csrAt n = v := by
  simp [Core.setCsr, Core.csrAt, Vector.setIfInBounds, h]

/-- Another CSR read after one was written. -/
theorem Core.setCsr_csrAt_other (k : Core) {n m : Nat} (v : Word) (h : n ≠ m) :
    (k.setCsr n v).csrAt m = k.csrAt m := by
  simp [Core.setCsr, Core.csrAt, Vector.getElem?_setIfInBounds_ne h]

/-- A CSR read after a write, by the numbers. -/
@[simp] theorem Core.setCsr_csrAt (k : Core) (n m : Nat) (v : Word) :
    (k.setCsr n v).csrAt m = if n = m ∧ m < 518 then v else k.csrAt m := by
  by_cases h : n = m
  · subst h
    by_cases hb : n < 518
    · simp [Core.setCsr_csrAt_same k v hb, hb]
    · simp [Core.setCsr, Core.csrAt, hb]
  · simp [Core.setCsr_csrAt_other k v h, h]

/-! ### Scalar registers of a core -/

@[simp] theorem Core.wr_pc (k : Core) (r : BitVec 6) (v : Word) : (k.wr r v).pc = k.pc := by unfold Core.wr; split <;> rfl
@[simp] theorem Core.wr_priv (k : Core) (r : BitVec 6) (v : Word) : (k.wr r v).priv = k.priv := by unfold Core.wr; split <;> rfl
@[simp] theorem Core.wr_csr (k : Core) (r : BitVec 6) (v : Word) : (k.wr r v).csr = k.csr := by unfold Core.wr; split <;> rfl
@[simp] theorem Core.wr_frame (k : Core) (r : BitVec 6) (v : Word) : (k.wr r v).frame = k.frame := by unfold Core.wr; split <;> rfl
@[simp] theorem Core.wr_replies (k : Core) (r : BitVec 6) (v : Word) : (k.wr r v).replies = k.replies := by unfold Core.wr; split <;> rfl
@[simp] theorem Core.wr_wait (k : Core) (r : BitVec 6) (v : Word) : (k.wr r v).wait = k.wait := by unfold Core.wr; split <;> rfl
@[simp] theorem Core.wr_vec (k : Core) (r : BitVec 6) (v : Word) : (k.wr r v).vec = k.vec := by unfold Core.wr; split <;> rfl
@[simp] theorem Core.wr_tiles (k : Core) (r : BitVec 6) (v : Word) : (k.wr r v).tiles = k.tiles := by unfold Core.wr; split <;> rfl
@[simp] theorem Core.wr_scratch (k : Core) (r : BitVec 6) (v : Word) : (k.wr r v).scratch = k.scratch := by unfold Core.wr; split <;> rfl
@[simp] theorem Core.wr_scratchPoison (k : Core) (r : BitVec 6) (v : Word) : (k.wr r v).scratchPoison = k.scratchPoison := by unfold Core.wr; split <;> rfl
@[simp] theorem Core.wr_eng (k : Core) (r : BitVec 6) (v : Word) : (k.wr r v).eng = k.eng := by unfold Core.wr; split <;> rfl
@[simp] theorem Core.wr_fab (k : Core) (r : BitVec 6) (v : Word) : (k.wr r v).fab = k.fab := by unfold Core.wr; split <;> rfl
@[simp] theorem Core.wr_acn (k : Core) (r : BitVec 6) (v : Word) : (k.wr r v).acn = k.acn := by unfold Core.wr; split <;> rfl
@[simp] theorem Core.wr_cache (k : Core) (r : BitVec 6) (v : Word) : (k.wr r v).cache = k.cache := by unfold Core.wr; split <;> rfl
@[simp] theorem Core.wr_tk (k : Core) (r : BitVec 6) (v : Word) : (k.wr r v).tk = k.tk := by unfold Core.wr; split <;> rfl

@[simp] theorem Core.wr_csrAt (k : Core) (r : BitVec 6) (v : Word) (n : Nat) : (k.wr r v).csrAt n = k.csrAt n := by
  unfold Core.wr; split <;> rfl

@[simp] theorem Core.wr_empty (k : Core) (r q : BitVec 6) (v : Word) : (k.wr r v).empty q = k.empty q := by
  unfold Core.empty; rw [Core.wr_replies]

/-- x0 discards a write (R187). -/
@[simp] theorem Core.wr_zero (k : Core) (v : Word) : k.wr 0 v = k := by simp [Core.wr]

/-- x0 reads as 0 (R187). -/
@[simp] theorem Core.rd_zero (k : Core) : k.rd 0 = 0 := by simp [Core.rd]

/-- x0 is never EMPTY (R178). -/
@[simp] theorem Core.empty_zero (k : Core) : k.empty 0 = false := by simp [Core.empty]

/-- A scalar register read after it was written. -/
theorem Core.wr_rd_same (k : Core) {r : BitVec 6} (v : Word) (h : r ≠ 0) : (k.wr r v).rd r = v := by
  unfold Core.wr Core.rd
  rw [if_neg h, if_neg h]
  simp

/-- Another scalar register read after one was written. -/
theorem Core.wr_rd_other (k : Core) {r q : BitVec 6} (v : Word) (h : q ≠ r) : (k.wr r v).rd q = k.rd q := by
  have hn : r.toNat ≠ q.toNat := fun e => h (BitVec.eq_of_toNat_eq e.symm)
  unfold Core.wr Core.rd
  by_cases hr : r = 0
  · rw [if_pos hr]
  · rw [if_neg hr]
    simp [hn]

@[simp] theorem Core.setCsr_rd (k : Core) (n : Nat) (v : Word) (r : BitVec 6) : (k.setCsr n v).rd r = k.rd r := rfl

@[simp] theorem Core.setCsr_empty (k : Core) (n : Nat) (v : Word) (r : BitVec 6) : (k.setCsr n v).empty r = k.empty r := rfl

/-- No register is EMPTY while no reply is on its way (R178). -/
theorem Core.empty_of_no_replies {k : Core} (h : k.replies = []) (r : BitVec 6) : k.empty r = false := by
  simp [Core.empty, h]

/-! ### Completion -/

@[simp] theorem Core.counted_x (k : Core)  : (k.counted ).x = k.x := rfl
@[simp] theorem Core.counted_pc (k : Core)  : (k.counted ).pc = k.pc := rfl
@[simp] theorem Core.counted_priv (k : Core)  : (k.counted ).priv = k.priv := rfl
@[simp] theorem Core.counted_frame (k : Core)  : (k.counted ).frame = k.frame := rfl
@[simp] theorem Core.counted_replies (k : Core)  : (k.counted ).replies = k.replies := rfl
@[simp] theorem Core.counted_vec (k : Core)  : (k.counted ).vec = k.vec := rfl
@[simp] theorem Core.counted_tiles (k : Core)  : (k.counted ).tiles = k.tiles := rfl
@[simp] theorem Core.counted_scratch (k : Core)  : (k.counted ).scratch = k.scratch := rfl
@[simp] theorem Core.counted_scratchPoison (k : Core)  : (k.counted ).scratchPoison = k.scratchPoison := rfl
@[simp] theorem Core.counted_eng (k : Core)  : (k.counted ).eng = k.eng := rfl
@[simp] theorem Core.counted_fab (k : Core)  : (k.counted ).fab = k.fab := rfl
@[simp] theorem Core.counted_acn (k : Core)  : (k.counted ).acn = k.acn := rfl
@[simp] theorem Core.counted_cache (k : Core)  : (k.counted ).cache = k.cache := rfl
@[simp] theorem Core.counted_tk (k : Core)  : (k.counted ).tk = k.tk := rfl
@[simp] theorem Core.jump_x (k : Core) (p : Word) : (k.jump p).x = k.x := rfl
@[simp] theorem Core.jump_priv (k : Core) (p : Word) : (k.jump p).priv = k.priv := rfl
@[simp] theorem Core.jump_frame (k : Core) (p : Word) : (k.jump p).frame = k.frame := rfl
@[simp] theorem Core.jump_replies (k : Core) (p : Word) : (k.jump p).replies = k.replies := rfl
@[simp] theorem Core.jump_vec (k : Core) (p : Word) : (k.jump p).vec = k.vec := rfl
@[simp] theorem Core.jump_tiles (k : Core) (p : Word) : (k.jump p).tiles = k.tiles := rfl
@[simp] theorem Core.jump_scratch (k : Core) (p : Word) : (k.jump p).scratch = k.scratch := rfl
@[simp] theorem Core.jump_scratchPoison (k : Core) (p : Word) : (k.jump p).scratchPoison = k.scratchPoison := rfl
@[simp] theorem Core.jump_eng (k : Core) (p : Word) : (k.jump p).eng = k.eng := rfl
@[simp] theorem Core.jump_fab (k : Core) (p : Word) : (k.jump p).fab = k.fab := rfl
@[simp] theorem Core.jump_acn (k : Core) (p : Word) : (k.jump p).acn = k.acn := rfl
@[simp] theorem Core.jump_cache (k : Core) (p : Word) : (k.jump p).cache = k.cache := rfl
@[simp] theorem Core.jump_tk (k : Core) (p : Word) : (k.jump p).tk = k.tk := rfl
@[simp] theorem Core.loopEnd_x (k : Core) (n : Nat) : (k.loopEnd n).x = k.x := by unfold Core.loopEnd; dsimp only; repeat (first | rfl | split)
@[simp] theorem Core.loopEnd_priv (k : Core) (n : Nat) : (k.loopEnd n).priv = k.priv := by unfold Core.loopEnd; dsimp only; repeat (first | rfl | split)
@[simp] theorem Core.loopEnd_frame (k : Core) (n : Nat) : (k.loopEnd n).frame = k.frame := by unfold Core.loopEnd; dsimp only; repeat (first | rfl | split)
@[simp] theorem Core.loopEnd_replies (k : Core) (n : Nat) : (k.loopEnd n).replies = k.replies := by unfold Core.loopEnd; dsimp only; repeat (first | rfl | split)
@[simp] theorem Core.loopEnd_wait (k : Core) (n : Nat) : (k.loopEnd n).wait = k.wait := by unfold Core.loopEnd; dsimp only; repeat (first | rfl | split)
@[simp] theorem Core.loopEnd_vec (k : Core) (n : Nat) : (k.loopEnd n).vec = k.vec := by unfold Core.loopEnd; dsimp only; repeat (first | rfl | split)
@[simp] theorem Core.loopEnd_tiles (k : Core) (n : Nat) : (k.loopEnd n).tiles = k.tiles := by unfold Core.loopEnd; dsimp only; repeat (first | rfl | split)
@[simp] theorem Core.loopEnd_scratch (k : Core) (n : Nat) : (k.loopEnd n).scratch = k.scratch := by unfold Core.loopEnd; dsimp only; repeat (first | rfl | split)
@[simp] theorem Core.loopEnd_scratchPoison (k : Core) (n : Nat) : (k.loopEnd n).scratchPoison = k.scratchPoison := by unfold Core.loopEnd; dsimp only; repeat (first | rfl | split)
@[simp] theorem Core.loopEnd_eng (k : Core) (n : Nat) : (k.loopEnd n).eng = k.eng := by unfold Core.loopEnd; dsimp only; repeat (first | rfl | split)
@[simp] theorem Core.loopEnd_fab (k : Core) (n : Nat) : (k.loopEnd n).fab = k.fab := by unfold Core.loopEnd; dsimp only; repeat (first | rfl | split)
@[simp] theorem Core.loopEnd_acn (k : Core) (n : Nat) : (k.loopEnd n).acn = k.acn := by unfold Core.loopEnd; dsimp only; repeat (first | rfl | split)
@[simp] theorem Core.loopEnd_cache (k : Core) (n : Nat) : (k.loopEnd n).cache = k.cache := by unfold Core.loopEnd; dsimp only; repeat (first | rfl | split)
@[simp] theorem Core.loopEnd_tk (k : Core) (n : Nat) : (k.loopEnd n).tk = k.tk := by unfold Core.loopEnd; dsimp only; repeat (first | rfl | split)
@[simp] theorem Core.retire_x (k : Core) (n : Nat) : (k.retire n).x = k.x := by simp [Core.retire]
@[simp] theorem Core.retire_priv (k : Core) (n : Nat) : (k.retire n).priv = k.priv := by simp [Core.retire]
@[simp] theorem Core.retire_frame (k : Core) (n : Nat) : (k.retire n).frame = k.frame := by simp [Core.retire]
@[simp] theorem Core.retire_replies (k : Core) (n : Nat) : (k.retire n).replies = k.replies := by simp [Core.retire]
@[simp] theorem Core.retire_vec (k : Core) (n : Nat) : (k.retire n).vec = k.vec := by simp [Core.retire]
@[simp] theorem Core.retire_tiles (k : Core) (n : Nat) : (k.retire n).tiles = k.tiles := by simp [Core.retire]
@[simp] theorem Core.retire_scratch (k : Core) (n : Nat) : (k.retire n).scratch = k.scratch := by simp [Core.retire]
@[simp] theorem Core.retire_scratchPoison (k : Core) (n : Nat) : (k.retire n).scratchPoison = k.scratchPoison := by simp [Core.retire]
@[simp] theorem Core.retire_eng (k : Core) (n : Nat) : (k.retire n).eng = k.eng := by simp [Core.retire]
@[simp] theorem Core.retire_fab (k : Core) (n : Nat) : (k.retire n).fab = k.fab := by simp [Core.retire]
@[simp] theorem Core.retire_acn (k : Core) (n : Nat) : (k.retire n).acn = k.acn := by simp [Core.retire]
@[simp] theorem Core.retire_cache (k : Core) (n : Nat) : (k.retire n).cache = k.cache := by simp [Core.retire]
@[simp] theorem Core.retire_tk (k : Core) (n : Nat) : (k.retire n).tk = k.tk := by simp [Core.retire]

@[simp] theorem Core.counted_wait (k : Core) : k.counted.wait = .none := rfl
@[simp] theorem Core.retire_wait (k : Core) (n : Nat) : (k.retire n).wait = .none := rfl
@[simp] theorem Core.jump_wait (k : Core) (p : Word) : (k.jump p).wait = .none := rfl
@[simp] theorem Core.jump_pc (k : Core) (p : Word) : (k.jump p).pc = p := rfl

@[simp] theorem Core.counted_rd (k : Core) (r : BitVec 6) : k.counted.rd r = k.rd r := rfl
@[simp] theorem Core.jump_rd (k : Core) (p : Word) (r : BitVec 6) : (k.jump p).rd r = k.rd r := rfl
@[simp] theorem Core.retire_rd (k : Core) (n : Nat) (r : BitVec 6) : (k.retire n).rd r = k.rd r := by
  simp [Core.rd]

/-! ### Flags, tiles, entries -/

@[simp] theorem Core.orFlags_x (k : Core) (f : BitVec 7) : (k.orFlags f).x = k.x := rfl
@[simp] theorem Core.orFlags_pc (k : Core) (f : BitVec 7) : (k.orFlags f).pc = k.pc := rfl
@[simp] theorem Core.orFlags_priv (k : Core) (f : BitVec 7) : (k.orFlags f).priv = k.priv := rfl
@[simp] theorem Core.orFlags_frame (k : Core) (f : BitVec 7) : (k.orFlags f).frame = k.frame := rfl
@[simp] theorem Core.orFlags_replies (k : Core) (f : BitVec 7) : (k.orFlags f).replies = k.replies := rfl
@[simp] theorem Core.orFlags_wait (k : Core) (f : BitVec 7) : (k.orFlags f).wait = k.wait := rfl
@[simp] theorem Core.orFlags_vec (k : Core) (f : BitVec 7) : (k.orFlags f).vec = k.vec := rfl
@[simp] theorem Core.orFlags_tiles (k : Core) (f : BitVec 7) : (k.orFlags f).tiles = k.tiles := rfl
@[simp] theorem Core.orFlags_scratch (k : Core) (f : BitVec 7) : (k.orFlags f).scratch = k.scratch := rfl
@[simp] theorem Core.orFlags_scratchPoison (k : Core) (f : BitVec 7) : (k.orFlags f).scratchPoison = k.scratchPoison := rfl
@[simp] theorem Core.orFlags_eng (k : Core) (f : BitVec 7) : (k.orFlags f).eng = k.eng := rfl
@[simp] theorem Core.orFlags_fab (k : Core) (f : BitVec 7) : (k.orFlags f).fab = k.fab := rfl
@[simp] theorem Core.orFlags_acn (k : Core) (f : BitVec 7) : (k.orFlags f).acn = k.acn := rfl
@[simp] theorem Core.orFlags_cache (k : Core) (f : BitVec 7) : (k.orFlags f).cache = k.cache := rfl
@[simp] theorem Core.orFlags_tk (k : Core) (f : BitVec 7) : (k.orFlags f).tk = k.tk := rfl

@[simp] theorem Core.orFlags_rd (k : Core) (f : BitVec 7) (r : BitVec 6) : (k.orFlags f).rd r = k.rd r := rfl
@[simp] theorem Core.orFlags_empty (k : Core) (f : BitVec 7) (r : BitVec 6) : (k.orFlags f).empty r = k.empty r := rfl

end Sys2Proof.Machine
end

