-- ==== Sys2Proof/Laws/Acn.lean ====
section
/-! SUPPORT. The accumulate interface: closing what a member does not hold changes nothing. -/

namespace Sys2Proof.Machine

/-- A member that stands on its core and not in a saved context. -/
theorem State.member_here {s : State} {task : Nat} {c : CoreId} (hc : s.ctxAt task c = none)
    (ht : (s.core c).tk.task = some task) : s.member task c = some (s.core c) := by
  simp [State.member, hc, ht]

theorem State.modMember_here {s : State} {task : Nat} {c : CoreId} (f : Core → Core) (hc : s.ctxAt task c = none)
    (ht : (s.core c).tk.task = some task) : s.modMember task c f = s.modCore c f := by
  simp [State.modMember, hc, ht]

/-- A join that is FREE is closed already (R333). -/
theorem State.closeJoin_free {s : State} {task : Nat} {c : CoreId} {j : BitVec 6} (hc : s.ctxAt task c = none)
    (ht : (s.core c).tk.task = some task) (hj : (s.core c).join j = Join.free) : s.closeJoin task c j = s := by
  have hk : (s.core c).setJoin j Join.free = s.core c := by
    unfold Core.setJoin
    rw [← hj, Core.join, Vector.set_getElem_self]
  unfold State.closeJoin
  rw [State.member_here hc ht]
  simp only [hj, Join.free]
  rw [State.modMember_here _ hc ht, State.modCore]
  have : (s.core c).setJoin j Join.free = s.core c := hk
  simp only [Join.free] at this
  rw [this, State.setCore_core]

/-- A member without joins has nothing to close (R333). -/
theorem State.closeJoins_free {s : State} {task : Nat} {c : CoreId} (hc : s.ctxAt task c = none)
    (ht : (s.core c).tk.task = some task) (hj : ∀ j, (s.core c).join j = Join.free) : s.closeJoins task c = s := by
  unfold State.closeJoins
  generalize List.range 64 = l
  induction l with
  | nil => rfl
  | cons j rest ih => rw [List.foldl_cons, State.closeJoin_free hc ht (hj _), ih]

/-- A member without pots has none to close (R334). -/
theorem State.closePots_none {s : State} {task : Nat} {c : CoreId} (hc : s.ctxAt task c = none)
    (ht : (s.core c).tk.task = some task) (hp : (s.core c).acn.pots = []) : s.closePots task c = s := by
  simp [State.closePots, State.member_here hc ht, hp]

end Sys2Proof.Machine
end

