-- ==== Sys2Proof/Laws/Bits.lean ====
section
/-! SUPPORT. Fields of numbers and lists of elements: a field read after one was written. -/

namespace Sys2Proof.Machine

/-- A number with a field replaced, from its three parts. -/
theorem putFld_eq (w lo len v : Nat) :
    putFld w lo len v = w / 2 ^ (lo + len) * 2 ^ (lo + len) + v % 2 ^ len * 2 ^ lo + w % 2 ^ lo := by
  unfold putFld fld
  have h1 : w / 2 ^ lo = w / 2 ^ (lo + len) * 2 ^ len + w / 2 ^ lo % 2 ^ len := by
    rw [pow_add, ← Nat.div_div_eq_div_mul]
    exact (Nat.div_add_mod' _ _).symm
  have h2 : w = w / 2 ^ lo * 2 ^ lo + w % 2 ^ lo := (Nat.div_add_mod' _ _).symm
  have h3 : w = w / 2 ^ (lo + len) * 2 ^ (lo + len) + w / 2 ^ lo % 2 ^ len * 2 ^ lo + w % 2 ^ lo := by
    conv_lhs => rw [h2, h1]
    rw [pow_add, Nat.add_mul, Nat.mul_assoc, Nat.mul_comm (2 ^ len) (2 ^ lo)]
  omega

/-- The field that was written. -/
theorem fld_putFld_same (w lo len v : Nat) : fld (putFld w lo len v) lo len = v % 2 ^ len := by
  rw [putFld_eq, fld]
  have hlt : w % 2 ^ lo < 2 ^ lo := Nat.mod_lt _ (by positivity)
  have : w / 2 ^ (lo + len) * 2 ^ (lo + len) + v % 2 ^ len * 2 ^ lo + w % 2 ^ lo =
      w % 2 ^ lo + (w / 2 ^ (lo + len) * 2 ^ len + v % 2 ^ len) * 2 ^ lo := by
    rw [pow_add, Nat.add_mul, Nat.mul_assoc, Nat.mul_comm (2 ^ len) (2 ^ lo)]; omega
  rw [this, Nat.add_mul_div_right _ _ (by positivity), Nat.div_eq_of_lt hlt, Nat.zero_add, Nat.add_comm,
    Nat.add_mul_mod_self_right, Nat.mod_mod]

/-- A field below the one that was written. -/
theorem fld_putFld_below {w lo len v a n : Nat} (h : a + n ≤ lo) : fld (putFld w lo len v) a n = fld w a n := by
  have key : ∀ x y : Nat, x % 2 ^ lo = y % 2 ^ lo → fld x a n = fld y a n := by
    intro x y e
    have hp : ∀ z : Nat, z / 2 ^ a % 2 ^ n = z % 2 ^ lo / 2 ^ a % 2 ^ n := by
      intro z
      rw [show lo = a + (lo - a) by omega, pow_add, Nat.mod_mul_right_div_self,
        Nat.mod_mod_of_dvd _ (pow_dvd_pow 2 (by omega))]
    rw [fld, fld, hp x, hp y, e]
  apply key
  rw [putFld_eq, pow_add, show w / (2 ^ lo * 2 ^ len) * (2 ^ lo * 2 ^ len) + v % 2 ^ len * 2 ^ lo + w % 2 ^ lo =
    w % 2 ^ lo + 2 ^ lo * (w / (2 ^ lo * 2 ^ len) * 2 ^ len + v % 2 ^ len) by ring, Nat.add_mul_mod_self_left,
    Nat.mod_mod]

/-- A field above the one that was written. -/
theorem fld_putFld_above {w lo len v a n : Nat} (h : lo + len ≤ a) : fld (putFld w lo len v) a n = fld w a n := by
  have hd : putFld w lo len v / 2 ^ (lo + len) = w / 2 ^ (lo + len) := by
    rw [putFld_eq]
    have h1 : v % 2 ^ len < 2 ^ len := Nat.mod_lt _ (by positivity)
    have h2 : w % 2 ^ lo < 2 ^ lo := Nat.mod_lt _ (by positivity)
    have hlt : v % 2 ^ len * 2 ^ lo + w % 2 ^ lo < 2 ^ (lo + len) := by
      have h3 : (v % 2 ^ len + 1) * 2 ^ lo ≤ 2 ^ len * 2 ^ lo := Nat.mul_le_mul_right _ h1
      rw [Nat.add_mul, Nat.one_mul] at h3
      rw [pow_add, Nat.mul_comm (2 ^ lo)]
      omega
    rw [Nat.add_assoc, Nat.add_comm, Nat.add_mul_div_right _ _ (by positivity), Nat.div_eq_of_lt hlt, Nat.zero_add]
  rw [fld, fld, show a = lo + len + (a - (lo + len)) by omega, pow_add, ← Nat.div_div_eq_div_mul,
    ← Nat.div_div_eq_div_mul, hd]

/-- Elements of one width: the one that was written, and the others. -/
theorem fld_putFld_elem (w i j x v : Nat) :
    fld (putFld x (w * i) w v) (w * j) w = if j = i then v % 2 ^ w else fld x (w * j) w := by
  by_cases h : j = i
  · subst h; rw [if_pos rfl, fld_putFld_same]
  · rw [if_neg h]
    rcases Nat.lt_or_gt_of_ne h with h | h
    · exact fld_putFld_below (by nlinarith)
    · exact fld_putFld_above (by nlinarith)

/-- An element after a list of elements was written: the last entry that names it, else the old value. -/
theorem fld_putElems (w v j : Nat) (res : List (Nat × Nat)) :
    fld (putElems w v res) (w * j) w =
      match res.reverse.find? (·.1 == j) with
      | some r => r.2 % 2 ^ w
      | none => fld v (w * j) w := by
  induction res generalizing v with
  | nil => rfl
  | cons r rest ih =>
    have hc : putElems w v (r :: rest) = putElems w (putFld v (w * r.1) w r.2) rest := rfl
    rw [hc, ih, List.reverse_cons, List.find?_append]
    cases hf : rest.reverse.find? (·.1 == j) with
    | some q => rfl
    | none =>
      simp only [Option.none_or]
      rw [fld_putFld_elem]
      by_cases h : j = r.1
      · subst h; simp
      · have h' : (r.1 == j) = false := by simpa using fun e => h e.symm
        simp [h, h']

/-- An element that no entry names keeps its value. -/
theorem fld_putElems_other {w v j : Nat} {res : List (Nat × Nat)} (h : ∀ r ∈ res, r.1 ≠ j) :
    fld (putElems w v res) (w * j) w = fld v (w * j) w := by
  rw [fld_putElems, List.find?_eq_none.2]
  intro r hr
  simpa using h r (List.mem_reverse.1 hr)

/-- An element below a bound does not depend on what lies above it. -/
theorem fld_mod {w v j n : Nat} (h : j < n) : fld (v % 2 ^ (n * w)) (w * j) w = fld v (w * j) w := by
  unfold fld
  have hle : w * j + w ≤ n * w := by nlinarith
  rw [show n * w = w * j + (n * w - w * j) by omega, pow_add, Nat.mod_mul_right_div_self,
    Nat.mod_mod_of_dvd _ (pow_dvd_pow 2 (by omega))]

end Sys2Proof.Machine
end

