-- ==== Sys2Proof/Laws/Mem.lean ====
section
/-! SUPPORT. Memories: what a byte reads as after a write, at and beside the bytes written; and that every operation keeps
the canonical form. -/

namespace Sys2Proof.Machine

/-! ### One byte -/

theorem Mem.insert_get (m : Mem) (a b : Nat) (v : Byte) :
    (m.insert a v).get b = if b = a then v else m.get b := by
  induction m with
  | nil => simp only [Mem.insert, Mem.get]; split <;> split <;> simp_all
  | cons c rest ih =>
    simp only [Mem.insert]
    split
    · simp only [Mem.get, eq_comm (a := a)]
    · split
      · simp only [Mem.get, eq_comm (a := a)]
        split
        · rfl
        · rw [if_neg]; omega
      · simp only [Mem.get, ih]
        split
        · rw [if_neg]; omega
        · rfl

theorem Mem.filter_get (m : Mem) (a b : Nat) :
    Mem.get (m.filter fun c => c.1 != a) b = if b = a then Mem.blank else m.get b := by
  induction m with
  | nil => simp [Mem.get]
  | cons c rest ih =>
    simp only [List.filter_cons, bne_iff_ne, ne_eq]
    split
    · simp only [Mem.get, ih]
      split
      · rw [if_neg]; omega
      · rfl
    · simp only [ih, Mem.get]
      split
      · rfl
      · rw [if_neg]; omega

/-- Read after write of one byte: the byte written reads as what was written, every other byte as before. -/
theorem Mem.put_get (m : Mem) (a b : Nat) (v : Byte) : (m.put a v).get b = if b = a then v else m.get b := by
  unfold Mem.put
  split
  · rw [Mem.filter_get]; split <;> simp_all
  · exact Mem.insert_get m a b v

@[simp] theorem Mem.put_get_same (m : Mem) (a : Nat) (v : Byte) : (m.put a v).get a = v := by simp [Mem.put_get]

theorem Mem.put_get_other (m : Mem) {a b : Nat} (v : Byte) (h : b ≠ a) : (m.put a v).get b = m.get b := by
  simp [Mem.put_get, h]

/-! ### Several bytes -/

theorem Mem.write_get_other (m : Mem) (a n v : Nat) {b : Nat} (h : b < a ∨ a + n ≤ b) :
    (m.write a n v).get b = m.get b := by
  induction n generalizing m a v with
  | zero => rfl
  | succ n ih => rw [Mem.write, ih _ _ _ (by omega), Mem.put_get_other _ _ (by omega)]

theorem Mem.read_congr {m m' : Mem} {a n : Nat} (h : ∀ b, a ≤ b → b < a + n → m'.get b = m.get b) :
    m'.read a n = m.read a n := by
  induction n generalizing a with
  | zero => rfl
  | succ n ih =>
    rw [Mem.read, Mem.read, h a (by omega) (by omega), ih]
    exact fun b h1 h2 => h b (by omega) (by omega)

/-- Read after write: the n bytes written read as the number written, in n bytes. -/
theorem Mem.write_read (m : Mem) (a n v : Nat) : (m.write a n v).read a n = v % 256 ^ n := by
  induction n generalizing m a v with
  | zero => simp [Mem.read, Nat.mod_one]
  | succ n ih =>
    rw [Mem.write, Mem.read, ih, Mem.write_get_other _ _ _ _ (by omega), Mem.put_get_same, BitVec.toNat_ofNat]
    have h : v % 256 ^ (n + 1) = v % 256 + 256 * (v / 256 % 256 ^ n) := by
      rw [Nat.pow_succ, Nat.mul_comm (256 ^ n), Nat.mod_mul]
    exact h.symm

/-- Bytes outside those written read as before. -/
theorem Mem.write_read_other (m : Mem) (a n v b k : Nat) (h : b + k ≤ a ∨ a + n ≤ b) :
    (m.write a n v).read b k = m.read b k :=
  Mem.read_congr fun _ h1 h2 => Mem.write_get_other m a n v (by omega)

theorem Mem.writeMasked_get_other (m : Mem) (a n mask v : Nat) {b : Nat} (h : b < a ∨ a + n ≤ b) :
    (m.writeMasked a n mask v).get b = m.get b := by
  induction n generalizing m a mask v with
  | zero => rfl
  | succ n ih =>
    rw [Mem.writeMasked, ih _ _ _ _ (by omega)]
    split
    · exact Mem.put_get_other _ _ (by omega)
    · rfl

theorem Mem.writeMasked_read_other (m : Mem) (a n mask v b k : Nat) (h : b + k ≤ a ∨ a + n ≤ b) :
    (m.writeMasked a n mask v).read b k = m.read b k :=
  Mem.read_congr fun _ h1 h2 => Mem.writeMasked_get_other m a n mask v (by omega)

/-- A write under a full mask is the plain write. -/
theorem Mem.writeMasked_full (m : Mem) (a n v : Nat) : m.writeMasked a n (2 ^ n - 1) v = m.write a n v := by
  induction n generalizing m a v with
  | zero => rfl
  | succ n ih =>
    have h1 : (2 ^ (n + 1) - 1) % 2 = 1 := by have := Nat.one_le_two_pow (n := n); rw [Nat.pow_succ]; omega
    have h2 : (2 ^ (n + 1) - 1) / 2 = 2 ^ n - 1 := by rw [Nat.pow_succ]; omega
    rw [Mem.writeMasked, if_pos h1, h2, ih, Mem.write]

/-! ### The canonical form -/

/-- The canonical form as a property: no byte listed is blank, the addresses rise. -/
theorem Mem.wf_iff (m : Mem) : m.wf = true ↔ (∀ c ∈ m, c.2 ≠ Mem.blank) ∧ m.Pairwise (fun c d => c.1 < d.1) := by
  induction m with
  | nil => simp [Mem.wf]
  | cons c rest ih =>
    cases rest with
    | nil => simp [Mem.wf]
    | cons d rest =>
      simp only [Mem.wf, Bool.and_eq_true, bne_iff_ne, ne_eq, decide_eq_true_eq, ih, List.mem_cons, forall_eq_or_imp,
        List.pairwise_cons]
      constructor
      · rintro ⟨⟨h1, h2⟩, ⟨h3, h4⟩, h5, h6⟩
        exact ⟨⟨h1, h3, h4⟩, ⟨h2, fun x hx => Nat.lt_trans h2 (h5 x hx)⟩, h5, h6⟩
      · rintro ⟨⟨h1, h3, h4⟩, ⟨h2, -⟩, h5, h6⟩
        exact ⟨⟨h1, h2⟩, ⟨h3, h4⟩, h5, h6⟩

theorem Mem.mem_insert {m : Mem} {a : Nat} {v : Byte} {c : Host.Cell} (h : c ∈ m.insert a v) : c = (a, v) ∨ c ∈ m := by
  induction m with
  | nil => simp only [Mem.insert, List.mem_singleton] at h; exact .inl h
  | cons d rest ih =>
    simp only [Mem.insert] at h
    split at h
    · simpa using h
    · split at h
      · rcases List.mem_cons.mp h with h | h
        · exact .inl h
        · exact .inr (List.mem_cons_of_mem _ h)
      · rcases List.mem_cons.mp h with h | h
        · exact .inr (h ▸ List.mem_cons_self)
        · exact (ih h).imp id (List.mem_cons_of_mem _)

/-- Writing one byte keeps the canonical form. -/
theorem Mem.put_wf {m : Mem} (h : m.wf = true) (a : Nat) (v : Byte) : (m.put a v).wf = true := by
  obtain ⟨hb, hp⟩ := (Mem.wf_iff m).mp h
  unfold Mem.put
  split
  · exact (Mem.wf_iff _).mpr ⟨fun c hc => hb c (List.mem_filter.mp hc).1, hp.filter _⟩
  · rename_i hv
    refine (Mem.wf_iff _).mpr ⟨fun c hc => ?_, ?_⟩
    · rcases Mem.mem_insert hc with rfl | hc
      · exact hv
      · exact hb c hc
    · clear hb h
      induction m with
      | nil => simp [Mem.insert]
      | cons d rest ih =>
        obtain ⟨h1, h2⟩ := List.pairwise_cons.mp hp
        simp only [Mem.insert]
        split
        · rename_i ha
          refine List.pairwise_cons.mpr ⟨fun c hc => ?_, hp⟩
          rcases List.mem_cons.mp hc with rfl | hc
          · exact ha
          · exact Nat.lt_trans ha (h1 c hc)
        · split
          · rename_i ha; exact List.pairwise_cons.mpr ⟨fun c hc => by have := h1 c hc; simp only; omega, h2⟩
          · refine List.pairwise_cons.mpr ⟨fun c hc => ?_, ih h2⟩
            rcases Mem.mem_insert hc with rfl | hc
            · simp only; omega
            · exact h1 c hc

theorem Mem.write_wf {m : Mem} (h : m.wf = true) (a n v : Nat) : (m.write a n v).wf = true := by
  induction n generalizing m a v with
  | zero => exact h
  | succ n ih => exact ih (Mem.put_wf h _ _) _ _

theorem Mem.writeMasked_wf {m : Mem} (h : m.wf = true) (a n mask v : Nat) : (m.writeMasked a n mask v).wf = true := by
  induction n generalizing m a mask v with
  | zero => exact h
  | succ n ih =>
    rw [Mem.writeMasked]
    refine ih ?_ _ _ _
    split
    · exact Mem.put_wf h _ _
    · exact h

/-- The memories of a memory system are in canonical form. -/
def MemSys.wf (ms : MemSys) : Bool := ms.mem.wf && ms.host.wf && ms.remote.wf

theorem MemSys.wr_wf {ms : MemSys} (h : ms.wf = true) (a n mask v : Nat) : (ms.wr a n mask v).wf = true := by
  simp only [MemSys.wf, Bool.and_eq_true] at h ⊢
  obtain ⟨⟨h1, h2⟩, h3⟩ := h
  unfold MemSys.wr
  split
  · exact ⟨⟨h1, Mem.writeMasked_wf h2 _ _ _ _⟩, h3⟩
  · split
    · exact ⟨⟨Mem.writeMasked_wf h1 _ _ _ _, h2⟩, h3⟩
    · exact ⟨⟨h1, h2⟩, Mem.writeMasked_wf h3 _ _ _ _⟩

/-- The memories after reset are in canonical form. -/
theorem reset_memory_wf : State.reset.ms.wf = true ∧ Core.reset.scratch.wf = true := by decide

end Sys2Proof.Machine
end

