-- ==== Sys2Proof/Laws/PerInstr.lean ====
section
/-! SUPPORT. Statements made of every instruction as syntax, one lemma per constructor of Instr: the words of an instruction
are one instruction word of an assigned major opcode, with at most one extension word before it (R185, R190, R191). -/

namespace Sys2Proof.Laws

/-- One instruction word of an assigned major opcode, alone or after one extension word; an event has no words. -/
def Words.Statement (i : Instr) : Prop :=
  encode i = [] ∨
    ∃ w, majorAssigned (opOf w) = true ∧ opOf w ≠ extOp ∧ (encode i = [w] ∨ ∃ e, encode i = [extWord e, w])

/-! ### The major opcode of each format -/

theorem SA.opOf_word (f : SA) (op : BitVec 8) (fn : BitVec 12) : opOf (f.word op fn) = op.toNat := by
  unfold opOf field Sys2Proof.SA.word
  congr 1
  ext i hi
  simp only [BitVec.getElem_extractLsb', BitVec.getLsbD_append]
  repeat rw [if_neg (by omega)]
  rw [← BitVec.getLsbD_eq_getElem]
  congr 1
  omega

theorem SB.opOf_word (f : SB) (op : BitVec 8) (cond : BitVec 4) : opOf (f.word op cond) = op.toNat := by
  unfold opOf field Sys2Proof.SB.word
  congr 1
  ext i hi
  simp only [BitVec.getElem_extractLsb', BitVec.getLsbD_append]
  repeat rw [if_neg (by omega)]
  rw [← BitVec.getLsbD_eq_getElem]
  congr 1
  omega

theorem VA.opOf_word (f : VA) (op : BitVec 8) (fn : BitVec 12) : opOf (f.word op fn) = op.toNat := by
  unfold opOf field Sys2Proof.VA.word
  congr 1
  ext i hi
  simp only [BitVec.getElem_extractLsb', BitVec.getLsbD_append]
  repeat rw [if_neg (by omega)]
  rw [← BitVec.getLsbD_eq_getElem]
  congr 1
  omega

theorem EN.opOf_word (f : EN) (op : BitVec 8) : opOf (f.word op) = op.toNat := by
  unfold opOf field Sys2Proof.EN.word
  congr 1
  ext i hi
  simp only [BitVec.getElem_extractLsb', BitVec.getLsbD_append]
  repeat rw [if_neg (by omega)]
  rw [← BitVec.getLsbD_eq_getElem]
  congr 1
  omega

/-- The instruction word of a form that can take an extension word, after what may stand before it. -/
theorem Words.of_ext {i : Instr} {e : Option (BitVec 56)} {w : Word} (h : encode i = extWords e ++ [w])
    (ha : majorAssigned (opOf w) = true) (hx : opOf w ≠ extOp) : Words.Statement i := by
  cases e with
  | none => exact .inr ⟨w, ha, hx, .inl h⟩
  | some e => exact .inr ⟨w, ha, hx, .inr ⟨e, h⟩⟩

/-- The instruction word of a form that takes none. -/
theorem Words.of_word {i : Instr} {w : Word} {op : BitVec 8} (h : encode i = [w]) (ho : opOf w = op.toNat)
    (ha : majorAssigned op.toNat = true) (hx : op.toNat ≠ extOp) : Words.Statement i :=
  .inr ⟨w, ho ▸ ha, ho ▸ hx, .inl h⟩

theorem SI.statement {i : Instr} (f : SI) (op : BitVec 8) (fn : BitVec 4) (h : encode i = f.words op fn)
    (ha : majorAssigned op.toNat = true) (hx : op.toNat ≠ extOp) : Words.Statement i := by
  have ho : opOf (op ++ f.xd ++ f.xa ++ fn ++ f.imm) = op.toNat := by
    unfold opOf field
    congr 1
    ext i hi
    simp only [BitVec.getElem_extractLsb', BitVec.getLsbD_append]
    repeat rw [if_neg (by omega)]
    rw [← BitVec.getLsbD_eq_getElem]
    congr 1
    omega
  exact Words.of_ext h (ho ▸ ha) (ho ▸ hx)

theorem SM.statement {i : Instr} (f : SM) (op : BitVec 8) (h : encode i = f.words op)
    (ha : majorAssigned op.toNat = true) (hx : op.toNat ≠ extOp) : Words.Statement i := by
  have ho : opOf (op ++ f.xd ++ f.xa ++ f.xb ++ f.ord ++ f.scope ++ f.size ++ f.imm) = op.toNat := by
    unfold opOf field
    congr 1
    ext i hi
    simp only [BitVec.getElem_extractLsb', BitVec.getLsbD_append]
    repeat rw [if_neg (by omega)]
    rw [← BitVec.getLsbD_eq_getElem]
    congr 1
    omega
  exact Words.of_ext h (ho ▸ ha) (ho ▸ hx)

theorem VM.statement {i : Instr} (f : VM) (op : BitVec 8) (h : encode i = f.words op)
    (ha : majorAssigned op.toNat = true) (hx : op.toNat ≠ extOp) : Words.Statement i := by
  have ho : opOf (op ++ f.vd ++ f.xa ++ f.idx ++ f.msk ++ f.mz ++ f.wa ++ f.ord ++ BitVec.ofNat 5 f.et.code ++ f.disp) = op.toNat := by
    unfold opOf field
    congr 1
    ext i hi
    simp only [BitVec.getElem_extractLsb', BitVec.getLsbD_append]
    repeat rw [if_neg (by omega)]
    rw [← BitVec.getLsbD_eq_getElem]
    congr 1
    omega
  exact Words.of_ext h (ho ▸ ha) (ho ▸ hx)

theorem TT.statement {i : Instr} (f : TT) (op : BitVec 8) (h : encode i = f.words op)
    (ha : majorAssigned op.toNat = true) (hx : op.toNat ≠ extOp) : Words.Statement i := by
  have ho : opOf (op ++ f.t ++ f.xa ++ f.xb ++ f.xc ++ f.mode ++ 0#12 ++ f.imm) = op.toNat := by
    unfold opOf field
    congr 1
    ext i hi
    simp only [BitVec.getElem_extractLsb', BitVec.getLsbD_append]
    repeat rw [if_neg (by omega)]
    rw [← BitVec.getLsbD_eq_getElem]
    congr 1
    omega
  exact Words.of_ext h (ho ▸ ha) (ho ▸ hx)

theorem FX.statement {i : Instr} (f : FX) (op : BitVec 8) (h : encode i = f.words op)
    (ha : majorAssigned op.toNat = true) (hx : op.toNat ≠ extOp) : Words.Statement i := by
  have ho : opOf (op ++ f.slot ++ f.vd ++ f.va ++ f.vb ++ f.xl ++ f.msk ++ f.flags ++ f.imm) = op.toNat := by
    unfold opOf field
    congr 1
    ext i hi
    simp only [BitVec.getElem_extractLsb', BitVec.getLsbD_append]
    repeat rw [if_neg (by omega)]
    rw [← BitVec.getLsbD_eq_getElem]
    congr 1
    omega
  exact Words.of_ext h (ho ▸ ha) (ho ▸ hx)

theorem SY.statement {i : Instr} (f : SY) (op : BitVec 8) (fn : BitVec 12) (h : encode i = f.words op fn)
    (ha : majorAssigned op.toNat = true) (hx : op.toNat ≠ extOp) : Words.Statement i := by
  have ho : opOf (op ++ f.xd ++ f.xa ++ fn ++ f.imm) = op.toNat := by
    unfold opOf field
    congr 1
    ext i hi
    simp only [BitVec.getElem_extractLsb', BitVec.getLsbD_append]
    repeat rw [if_neg (by omega)]
    rw [← BitVec.getLsbD_eq_getElem]
    congr 1
    omega
  exact Words.of_ext h (ho ▸ ha) (ho ▸ hx)

theorem opOf_udf (b : BitVec 56) : opOf (0xFF#8 ++ b) = 0xFF := by
  have h : (0xFF#8 : BitVec 8).toNat = 0xFF := rfl
  rw [← h]
  unfold opOf field
  congr 1
  ext i hi
  simp only [BitVec.getElem_extractLsb', BitVec.getLsbD_append]
  rw [if_neg (by omega), ← BitVec.getLsbD_eq_getElem]
  congr 1
  omega

/-! ### The instructions -/

theorem Words.add (f : SA) : Words.Statement (.add f) := Words.of_word rfl (SA.opOf_word ..) rfl (by decide)
theorem Words.sub (f : SA) : Words.Statement (.sub f) := Words.of_word rfl (SA.opOf_word ..) rfl (by decide)
theorem Words.and (f : SA) : Words.Statement (.and f) := Words.of_word rfl (SA.opOf_word ..) rfl (by decide)
theorem Words.or (f : SA) : Words.Statement (.or f) := Words.of_word rfl (SA.opOf_word ..) rfl (by decide)
theorem Words.xor (f : SA) : Words.Statement (.xor f) := Words.of_word rfl (SA.opOf_word ..) rfl (by decide)
theorem Words.andn (f : SA) : Words.Statement (.andn f) := Words.of_word rfl (SA.opOf_word ..) rfl (by decide)
theorem Words.shl (f : SA) : Words.Statement (.shl f) := Words.of_word rfl (SA.opOf_word ..) rfl (by decide)
theorem Words.shr (f : SA) : Words.Statement (.shr f) := Words.of_word rfl (SA.opOf_word ..) rfl (by decide)
theorem Words.sra (f : SA) : Words.Statement (.sra f) := Words.of_word rfl (SA.opOf_word ..) rfl (by decide)
theorem Words.rotr (f : SA) : Words.Statement (.rotr f) := Words.of_word rfl (SA.opOf_word ..) rfl (by decide)
theorem Words.min (f : SA) : Words.Statement (.min f) := Words.of_word rfl (SA.opOf_word ..) rfl (by decide)
theorem Words.max (f : SA) : Words.Statement (.max f) := Words.of_word rfl (SA.opOf_word ..) rfl (by decide)
theorem Words.minu (f : SA) : Words.Statement (.minu f) := Words.of_word rfl (SA.opOf_word ..) rfl (by decide)
theorem Words.maxu (f : SA) : Words.Statement (.maxu f) := Words.of_word rfl (SA.opOf_word ..) rfl (by decide)
theorem Words.mul (f : SA) : Words.Statement (.mul f) := Words.of_word rfl (SA.opOf_word ..) rfl (by decide)
theorem Words.mulh (f : SA) : Words.Statement (.mulh f) := Words.of_word rfl (SA.opOf_word ..) rfl (by decide)
theorem Words.mulhU (f : SA) : Words.Statement (.mulhU f) := Words.of_word rfl (SA.opOf_word ..) rfl (by decide)
theorem Words.mulhSu (f : SA) : Words.Statement (.mulhSu f) := Words.of_word rfl (SA.opOf_word ..) rfl (by decide)
theorem Words.div (f : SA) : Words.Statement (.div f) := Words.of_word rfl (SA.opOf_word ..) rfl (by decide)
theorem Words.divu (f : SA) : Words.Statement (.divu f) := Words.of_word rfl (SA.opOf_word ..) rfl (by decide)
theorem Words.rem (f : SA) : Words.Statement (.rem f) := Words.of_word rfl (SA.opOf_word ..) rfl (by decide)
theorem Words.remu (f : SA) : Words.Statement (.remu f) := Words.of_word rfl (SA.opOf_word ..) rfl (by decide)
theorem Words.cmpCc (cc : CC) (f : SA) : Words.Statement (.cmpCc cc f) :=
  Words.of_word rfl (SA.opOf_word ..) rfl (by decide)
theorem Words.sel (f : SA) : Words.Statement (.sel f) := Words.of_word rfl (SA.opOf_word ..) rfl (by decide)
theorem Words.clz (f : SA) : Words.Statement (.clz f) := Words.of_word rfl (SA.opOf_word ..) rfl (by decide)
theorem Words.ctz (f : SA) : Words.Statement (.ctz f) := Words.of_word rfl (SA.opOf_word ..) rfl (by decide)
theorem Words.popc (f : SA) : Words.Statement (.popc f) := Words.of_word rfl (SA.opOf_word ..) rfl (by decide)
theorem Words.brev (f : SA) : Words.Statement (.brev f) := Words.of_word rfl (SA.opOf_word ..) rfl (by decide)
theorem Words.sextB (f : SA) : Words.Statement (.sextB f) := Words.of_word rfl (SA.opOf_word ..) rfl (by decide)
theorem Words.sextH (f : SA) : Words.Statement (.sextH f) := Words.of_word rfl (SA.opOf_word ..) rfl (by decide)
theorem Words.sextW (f : SA) : Words.Statement (.sextW f) := Words.of_word rfl (SA.opOf_word ..) rfl (by decide)
theorem Words.zextB (f : SA) : Words.Statement (.zextB f) := Words.of_word rfl (SA.opOf_word ..) rfl (by decide)
theorem Words.zextH (f : SA) : Words.Statement (.zextH f) := Words.of_word rfl (SA.opOf_word ..) rfl (by decide)
theorem Words.zextW (f : SA) : Words.Statement (.zextW f) := Words.of_word rfl (SA.opOf_word ..) rfl (by decide)
theorem Words.bfxU (f : SA) : Words.Statement (.bfxU f) := Words.of_word rfl (SA.opOf_word ..) rfl (by decide)
theorem Words.bfxS (f : SA) : Words.Statement (.bfxS f) := Words.of_word rfl (SA.opOf_word ..) rfl (by decide)
theorem Words.bfi (f : SA) : Words.Statement (.bfi f) := Words.of_word rfl (SA.opOf_word ..) rfl (by decide)
theorem Words.addi (f : SI) : Words.Statement (.addi f) := SI.statement f 0x10#8 0x0#4 rfl rfl (by decide)
theorem Words.andi (f : SI) : Words.Statement (.andi f) := SI.statement f 0x10#8 0x1#4 rfl rfl (by decide)
theorem Words.ori (f : SI) : Words.Statement (.ori f) := SI.statement f 0x10#8 0x2#4 rfl rfl (by decide)
theorem Words.xori (f : SI) : Words.Statement (.xori f) := SI.statement f 0x10#8 0x3#4 rfl rfl (by decide)
theorem Words.shli (f : SI) : Words.Statement (.shli f) := SI.statement f 0x10#8 0x4#4 rfl rfl (by decide)
theorem Words.shri (f : SI) : Words.Statement (.shri f) := SI.statement f 0x10#8 0x5#4 rfl rfl (by decide)
theorem Words.srai (f : SI) : Words.Statement (.srai f) := SI.statement f 0x10#8 0x6#4 rfl rfl (by decide)
theorem Words.li (f : SI) : Words.Statement (.li f) := SI.statement f 0x11#8 0x0#4 rfl rfl (by decide)
theorem Words.lix (f : SI) : Words.Statement (.lix f) := SI.statement f 0x11#8 0x1#4 rfl rfl (by decide)
theorem Words.cmpi (cc : CC) (f : SI) : Words.Statement (.cmpi cc f) :=
  SI.statement f 0x12#8 (BitVec.ofNat 4 cc.code) rfl rfl (by decide)
theorem Words.fadd (fmt : FFmt) (f : SA) : Words.Statement (.fadd fmt f) :=
  Words.of_word rfl (SA.opOf_word ..) rfl (by decide)
theorem Words.fsub (fmt : FFmt) (f : SA) : Words.Statement (.fsub fmt f) :=
  Words.of_word rfl (SA.opOf_word ..) rfl (by decide)
theorem Words.fmul (fmt : FFmt) (f : SA) : Words.Statement (.fmul fmt f) :=
  Words.of_word rfl (SA.opOf_word ..) rfl (by decide)
theorem Words.ffma (fmt : FFmt) (f : SA) : Words.Statement (.ffma fmt f) :=
  Words.of_word rfl (SA.opOf_word ..) rfl (by decide)
theorem Words.fdiv (fmt : FFmt) (f : SA) : Words.Statement (.fdiv fmt f) :=
  Words.of_word rfl (SA.opOf_word ..) rfl (by decide)
theorem Words.fsqrt (fmt : FFmt) (f : SA) : Words.Statement (.fsqrt fmt f) :=
  Words.of_word rfl (SA.opOf_word ..) rfl (by decide)
theorem Words.fmin (fmt : FFmt) (f : SA) : Words.Statement (.fmin fmt f) :=
  Words.of_word rfl (SA.opOf_word ..) rfl (by decide)
theorem Words.fmax (fmt : FFmt) (f : SA) : Words.Statement (.fmax fmt f) :=
  Words.of_word rfl (SA.opOf_word ..) rfl (by decide)
theorem Words.fcmpEq (fmt : FFmt) (f : SA) : Words.Statement (.fcmpEq fmt f) :=
  Words.of_word rfl (SA.opOf_word ..) rfl (by decide)
theorem Words.fcmpLt (fmt : FFmt) (f : SA) : Words.Statement (.fcmpLt fmt f) :=
  Words.of_word rfl (SA.opOf_word ..) rfl (by decide)
theorem Words.fcmpLe (fmt : FFmt) (f : SA) : Words.Statement (.fcmpLe fmt f) :=
  Words.of_word rfl (SA.opOf_word ..) rfl (by decide)
theorem Words.fcmpUn (fmt : FFmt) (f : SA) : Words.Statement (.fcmpUn fmt f) :=
  Words.of_word rfl (SA.opOf_word ..) rfl (by decide)
theorem Words.fclass (fmt : FFmt) (f : SA) : Words.Statement (.fclass fmt f) :=
  Words.of_word rfl (SA.opOf_word ..) rfl (by decide)
theorem Words.fmv (f : SA) : Words.Statement (.fmv f) := Words.of_word rfl (SA.opOf_word ..) rfl (by decide)
theorem Words.fcvt (dst src : ET) (f : SA) : Words.Statement (.fcvt dst src f) :=
  Words.of_word rfl (SA.opOf_word ..) rfl (by decide)
theorem Words.brCc (cc : CC) (f : SB) : Words.Statement (.brCc cc f) :=
  Words.of_word rfl (SB.opOf_word ..) rfl (by decide)
theorem Words.jmp (f : SB) : Words.Statement (.jmp f) := Words.of_word rfl (SB.opOf_word ..) rfl (by decide)
theorem Words.jal (f : SB) : Words.Statement (.jal f) := Words.of_word rfl (SB.opOf_word ..) rfl (by decide)
theorem Words.jr (f : SB) : Words.Statement (.jr f) := Words.of_word rfl (SB.opOf_word ..) rfl (by decide)
theorem Words.loop (k : BitVec 1) (f : SB) : Words.Statement (.loop k f) :=
  Words.of_word rfl (SB.opOf_word ..) rfl (by decide)
theorem Words.loopi (k : BitVec 1) (f : SB) : Words.Statement (.loopi k f) :=
  Words.of_word rfl (SB.opOf_word ..) rfl (by decide)
theorem Words.ld (f : SM) : Words.Statement (.ld f) := SM.statement f 0x30#8 rfl rfl (by decide)
theorem Words.st (f : SM) : Words.Statement (.st f) := SM.statement f 0x31#8 rfl rfl (by decide)
theorem Words.amoAdd (f : SM) : Words.Statement (.amoAdd f) := SM.statement f 0x32#8 rfl rfl (by decide)
theorem Words.amoAnd (f : SM) : Words.Statement (.amoAnd f) := SM.statement f 0x32#8 rfl rfl (by decide)
theorem Words.amoOr (f : SM) : Words.Statement (.amoOr f) := SM.statement f 0x32#8 rfl rfl (by decide)
theorem Words.amoXor (f : SM) : Words.Statement (.amoXor f) := SM.statement f 0x32#8 rfl rfl (by decide)
theorem Words.amoMin (f : SM) : Words.Statement (.amoMin f) := SM.statement f 0x32#8 rfl rfl (by decide)
theorem Words.amoMax (f : SM) : Words.Statement (.amoMax f) := SM.statement f 0x32#8 rfl rfl (by decide)
theorem Words.amoMinu (f : SM) : Words.Statement (.amoMinu f) := SM.statement f 0x32#8 rfl rfl (by decide)
theorem Words.amoMaxu (f : SM) : Words.Statement (.amoMaxu f) := SM.statement f 0x32#8 rfl rfl (by decide)
theorem Words.amoSwap (f : SM) : Words.Statement (.amoSwap f) := SM.statement f 0x32#8 rfl rfl (by decide)
theorem Words.amoIncb (f : SM) : Words.Statement (.amoIncb f) := SM.statement f 0x32#8 rfl rfl (by decide)
theorem Words.cas (f : SM) : Words.Statement (.cas f) := SM.statement f 0x33#8 rfl rfl (by decide)
theorem Words.fenceAcq (f : SM) : Words.Statement (.fenceAcq f) := SM.statement f 0x34#8 rfl rfl (by decide)
theorem Words.fenceRel (f : SM) : Words.Statement (.fenceRel f) := SM.statement f 0x34#8 rfl rfl (by decide)
theorem Words.fenceFull (f : SM) : Words.Statement (.fenceFull f) := SM.statement f 0x34#8 rfl rfl (by decide)
theorem Words.setshape (f : SA) : Words.Statement (.setshape f) := Words.of_word rfl (SA.opOf_word ..) rfl (by decide)
theorem Words.setcfg (f : SI) : Words.Statement (.setcfg f) := SI.statement f 0x41#8 0x0#4 rfl rfl (by decide)
theorem Words.setcfgEw (f : SI) : Words.Statement (.setcfgEw f) := SI.statement f 0x41#8 0x1#4 rfl rfl (by decide)
theorem Words.setcfgScope (f : SI) : Words.Statement (.setcfgScope f) := SI.statement f 0x41#8 0x2#4 rfl rfl (by decide)
theorem Words.setcfgSpace (f : SI) : Words.Statement (.setcfgSpace f) := SI.statement f 0x41#8 0x3#4 rfl rfl (by decide)
theorem Words.setcfgRm (f : SI) : Words.Statement (.setcfgRm f) := SI.statement f 0x41#8 0x4#4 rfl rfl (by decide)
theorem Words.vqlen (f : SA) : Words.Statement (.vqlen f) := Words.of_word rfl (SA.opOf_word ..) rfl (by decide)
theorem Words.settile (f : SA) : Words.Statement (.settile f) := Words.of_word rfl (SA.opOf_word ..) rfl (by decide)
theorem Words.vadd (f : VA) : Words.Statement (.vadd f) := Words.of_word rfl (VA.opOf_word ..) rfl (by decide)
theorem Words.vsub (f : VA) : Words.Statement (.vsub f) := Words.of_word rfl (VA.opOf_word ..) rfl (by decide)
theorem Words.vmul (f : VA) : Words.Statement (.vmul f) := Words.of_word rfl (VA.opOf_word ..) rfl (by decide)
theorem Words.vmulh (f : VA) : Words.Statement (.vmulh f) := Words.of_word rfl (VA.opOf_word ..) rfl (by decide)
theorem Words.vdiv (f : VA) : Words.Statement (.vdiv f) := Words.of_word rfl (VA.opOf_word ..) rfl (by decide)
theorem Words.vmin (f : VA) : Words.Statement (.vmin f) := Words.of_word rfl (VA.opOf_word ..) rfl (by decide)
theorem Words.vmax (f : VA) : Words.Statement (.vmax f) := Words.of_word rfl (VA.opOf_word ..) rfl (by decide)
theorem Words.vfma (f : VA) : Words.Statement (.vfma f) := Words.of_word rfl (VA.opOf_word ..) rfl (by decide)
theorem Words.vfms (f : VA) : Words.Statement (.vfms f) := Words.of_word rfl (VA.opOf_word ..) rfl (by decide)
theorem Words.vfnma (f : VA) : Words.Statement (.vfnma f) := Words.of_word rfl (VA.opOf_word ..) rfl (by decide)
theorem Words.vand (f : VA) : Words.Statement (.vand f) := Words.of_word rfl (VA.opOf_word ..) rfl (by decide)
theorem Words.vor (f : VA) : Words.Statement (.vor f) := Words.of_word rfl (VA.opOf_word ..) rfl (by decide)
theorem Words.vxor (f : VA) : Words.Statement (.vxor f) := Words.of_word rfl (VA.opOf_word ..) rfl (by decide)
theorem Words.vshl (f : VA) : Words.Statement (.vshl f) := Words.of_word rfl (VA.opOf_word ..) rfl (by decide)
theorem Words.vshr (f : VA) : Words.Statement (.vshr f) := Words.of_word rfl (VA.opOf_word ..) rfl (by decide)
theorem Words.vsra (f : VA) : Words.Statement (.vsra f) := Words.of_word rfl (VA.opOf_word ..) rfl (by decide)
theorem Words.vabs (f : VA) : Words.Statement (.vabs f) := Words.of_word rfl (VA.opOf_word ..) rfl (by decide)
theorem Words.vneg (f : VA) : Words.Statement (.vneg f) := Words.of_word rfl (VA.opOf_word ..) rfl (by decide)
theorem Words.vnot (f : VA) : Words.Statement (.vnot f) := Words.of_word rfl (VA.opOf_word ..) rfl (by decide)
theorem Words.vsqrt (f : VA) : Words.Statement (.vsqrt f) := Words.of_word rfl (VA.opOf_word ..) rfl (by decide)
theorem Words.vrcp (f : VA) : Words.Statement (.vrcp f) := Words.of_word rfl (VA.opOf_word ..) rfl (by decide)
theorem Words.vrsq (f : VA) : Words.Statement (.vrsq f) := Words.of_word rfl (VA.opOf_word ..) rfl (by decide)
theorem Words.vclz (f : VA) : Words.Statement (.vclz f) := Words.of_word rfl (VA.opOf_word ..) rfl (by decide)
theorem Words.vpopc (f : VA) : Words.Statement (.vpopc f) := Words.of_word rfl (VA.opOf_word ..) rfl (by decide)
theorem Words.vcmpCc (cc : CC) (f : VA) : Words.Statement (.vcmpCc cc f) :=
  Words.of_word rfl (VA.opOf_word ..) rfl (by decide)
theorem Words.vsel (f : VA) : Words.Statement (.vsel f) := Words.of_word rfl (VA.opOf_word ..) rfl (by decide)
theorem Words.vmov (f : VA) : Words.Statement (.vmov f) := Words.of_word rfl (VA.opOf_word ..) rfl (by decide)
theorem Words.vbcast (f : VA) : Words.Statement (.vbcast f) := Words.of_word rfl (VA.opOf_word ..) rfl (by decide)
theorem Words.viota (f : VA) : Words.Statement (.viota f) := Words.of_word rfl (VA.opOf_word ..) rfl (by decide)
theorem Words.vmvx (f : VA) : Words.Statement (.vmvx f) := Words.of_word rfl (VA.opOf_word ..) rfl (by decide)
theorem Words.vmvs (f : VA) : Words.Statement (.vmvs f) := Words.of_word rfl (VA.opOf_word ..) rfl (by decide)
theorem Words.vexp2 (f : VA) : Words.Statement (.vexp2 f) := Words.of_word rfl (VA.opOf_word ..) rfl (by decide)
theorem Words.vlog2 (f : VA) : Words.Statement (.vlog2 f) := Words.of_word rfl (VA.opOf_word ..) rfl (by decide)
theorem Words.vsin (f : VA) : Words.Statement (.vsin f) := Words.of_word rfl (VA.opOf_word ..) rfl (by decide)
theorem Words.vcos (f : VA) : Words.Statement (.vcos f) := Words.of_word rfl (VA.opOf_word ..) rfl (by decide)
theorem Words.vred (op : RedOp) (f : VA) : Words.Statement (.vred op f) :=
  Words.of_word rfl (VA.opOf_word ..) rfl (by decide)
theorem Words.vredx (op : RedOp) (f : VA) : Words.Statement (.vredx op f) :=
  Words.of_word rfl (VA.opOf_word ..) rfl (by decide)
theorem Words.vscan (op : RedOp) (f : VA) : Words.Statement (.vscan op f) :=
  Words.of_word rfl (VA.opOf_word ..) rfl (by decide)
theorem Words.vslideUp (f : VA) : Words.Statement (.vslideUp f) := Words.of_word rfl (VA.opOf_word ..) rfl (by decide)
theorem Words.vslideDn (f : VA) : Words.Statement (.vslideDn f) := Words.of_word rfl (VA.opOf_word ..) rfl (by decide)
theorem Words.vperm (f : VA) : Words.Statement (.vperm f) := Words.of_word rfl (VA.opOf_word ..) rfl (by decide)
theorem Words.vpush (f : VA) : Words.Statement (.vpush f) := Words.of_word rfl (VA.opOf_word ..) rfl (by decide)
theorem Words.vtrans (f : VA) : Words.Statement (.vtrans f) := Words.of_word rfl (VA.opOf_word ..) rfl (by decide)
theorem Words.vshuf (f : VA) : Words.Statement (.vshuf f) := Words.of_word rfl (VA.opOf_word ..) rfl (by decide)
theorem Words.mand (f : VA) : Words.Statement (.mand f) := Words.of_word rfl (VA.opOf_word ..) rfl (by decide)
theorem Words.mor (f : VA) : Words.Statement (.mor f) := Words.of_word rfl (VA.opOf_word ..) rfl (by decide)
theorem Words.mxor (f : VA) : Words.Statement (.mxor f) := Words.of_word rfl (VA.opOf_word ..) rfl (by decide)
theorem Words.mnot (f : VA) : Words.Statement (.mnot f) := Words.of_word rfl (VA.opOf_word ..) rfl (by decide)
theorem Words.mpopc (f : VA) : Words.Statement (.mpopc f) := Words.of_word rfl (VA.opOf_word ..) rfl (by decide)
theorem Words.mfirst (f : VA) : Words.Statement (.mfirst f) := Words.of_word rfl (VA.opOf_word ..) rfl (by decide)
theorem Words.vcvt (src : ET) (f : VA) : Words.Statement (.vcvt src f) :=
  Words.of_word rfl (VA.opOf_word ..) rfl (by decide)
theorem Words.vcvtNarrow (src : ET) (f : VA) : Words.Statement (.vcvtNarrow src f) :=
  Words.of_word rfl (VA.opOf_word ..) rfl (by decide)
theorem Words.vcvtWiden (src : ET) (f : VA) : Words.Statement (.vcvtWiden src f) :=
  Words.of_word rfl (VA.opOf_word ..) rfl (by decide)
theorem Words.vcvtF32E2m1 (src : ET) (f : VA) : Words.Statement (.vcvtF32E2m1 src f) :=
  Words.of_word rfl (VA.opOf_word ..) rfl (by decide)
theorem Words.vscale (src : ET) (f : VA) : Words.Statement (.vscale src f) :=
  Words.of_word rfl (VA.opOf_word ..) rfl (by decide)
theorem Words.vaddWac (f : VA) : Words.Statement (.vaddWac f) := Words.of_word rfl (VA.opOf_word ..) rfl (by decide)
theorem Words.vcvtWac (f : VA) : Words.Statement (.vcvtWac f) := Words.of_word rfl (VA.opOf_word ..) rfl (by decide)
theorem Words.vcvtFwac (f : VA) : Words.Statement (.vcvtFwac f) := Words.of_word rfl (VA.opOf_word ..) rfl (by decide)
theorem Words.vmeta (f : VA) : Words.Statement (.vmeta f) := Words.of_word rfl (VA.opOf_word ..) rfl (by decide)
theorem Words.vtopk (f : VA) : Words.Statement (.vtopk f) := Words.of_word rfl (VA.opOf_word ..) rfl (by decide)
theorem Words.vldUnit (f : VM) : Words.Statement (.vldUnit f) := VM.statement f 0x70#8 rfl rfl (by decide)
theorem Words.vldStrided (f : VM) : Words.Statement (.vldStrided f) := VM.statement f 0x71#8 rfl rfl (by decide)
theorem Words.vldx (f : VM) : Words.Statement (.vldx f) := VM.statement f 0x72#8 rfl rfl (by decide)
theorem Words.vstUnit (f : VM) : Words.Statement (.vstUnit f) := VM.statement f 0x73#8 rfl rfl (by decide)
theorem Words.vstStrided (f : VM) : Words.Statement (.vstStrided f) := VM.statement f 0x74#8 rfl rfl (by decide)
theorem Words.vstx (f : VM) : Words.Statement (.vstx f) := VM.statement f 0x75#8 rfl rfl (by decide)
theorem Words.vsadd (f : VM) : Words.Statement (.vsadd f) := VM.statement f 0x76#8 rfl rfl (by decide)
theorem Words.vamo (f : VM) : Words.Statement (.vamo f) := VM.statement f 0x77#8 rfl rfl (by decide)
theorem Words.vspill (f : VM) : Words.Statement (.vspill f) := VM.statement f 0x78#8 rfl rfl (by decide)
theorem Words.vfill (f : VM) : Words.Statement (.vfill f) := VM.statement f 0x79#8 rfl rfl (by decide)
theorem Words.talloc (f : TT) : Words.Statement (.talloc f) := TT.statement f 0x80#8 rfl rfl (by decide)
theorem Words.tallocFix (f : TT) : Words.Statement (.tallocFix f) := TT.statement f 0x80#8 rfl rfl (by decide)
theorem Words.tfree (f : TT) : Words.Statement (.tfree f) := TT.statement f 0x81#8 rfl rfl (by decide)
theorem Words.tstat (f : TT) : Words.Statement (.tstat f) := TT.statement f 0x82#8 rfl rfl (by decide)
theorem Words.tstatH (f : TT) : Words.Statement (.tstatH f) := TT.statement f 0x82#8 rfl rfl (by decide)
theorem Words.twait (f : TT) : Words.Statement (.twait f) := TT.statement f 0x83#8 rfl rfl (by decide)
theorem Words.twaitH (f : TT) : Words.Statement (.twaitH f) := TT.statement f 0x83#8 rfl rfl (by decide)
theorem Words.tld (f : TT) : Words.Statement (.tld f) := TT.statement f 0x84#8 rfl rfl (by decide)
theorem Words.tst (f : TT) : Words.Statement (.tst f) := TT.statement f 0x85#8 rfl rfl (by decide)
theorem Words.vpln (f : TT) : Words.Statement (.vpln f) := TT.statement f 0x86#8 rfl rfl (by decide)
theorem Words.tdesc (f : TT) : Words.Statement (.tdesc f) := TT.statement f 0x87#8 rfl rfl (by decide)
theorem Words.tdescRf (f : TT) : Words.Statement (.tdescRf f) := TT.statement f 0x87#8 rfl rfl (by decide)
theorem Words.tnbr (f : TT) : Words.Statement (.tnbr f) := TT.statement f 0x88#8 rfl rfl (by decide)
theorem Words.thalo (f : TT) : Words.Statement (.thalo f) := TT.statement f 0x89#8 rfl rfl (by decide)
theorem Words.tinv (f : TT) : Words.Statement (.tinv f) := TT.statement f 0x8A#8 rfl rfl (by decide)
theorem Words.tflush (f : TT) : Words.Statement (.tflush f) := TT.statement f 0x8B#8 rfl rfl (by decide)
theorem Words.tprobe (f : TT) : Words.Statement (.tprobe f) := TT.statement f 0x8C#8 rfl rfl (by decide)
theorem Words.copy (f : EN) : Words.Statement (.copy f) := Words.of_word rfl (EN.opOf_word ..) rfl (by decide)
theorem Words.copyDec (f : EN) : Words.Statement (.copyDec f) := Words.of_word rfl (EN.opOf_word ..) rfl (by decide)
theorem Words.copyEnc (f : EN) : Words.Statement (.copyEnc f) := Words.of_word rfl (EN.opOf_word ..) rfl (by decide)
theorem Words.cwait (f : EN) : Words.Statement (.cwait f) := Words.of_word rfl (EN.opOf_word ..) rfl (by decide)
theorem Words.cstat (f : EN) : Words.Statement (.cstat f) := Words.of_word rfl (EN.opOf_word ..) rfl (by decide)
theorem Words.mma (f : EN) : Words.Statement (.mma f) := Words.of_word rfl (EN.opOf_word ..) rfl (by decide)
theorem Words.mmaSp (f : EN) : Words.Statement (.mmaSp f) := Words.of_word rfl (EN.opOf_word ..) rfl (by decide)
theorem Words.mmaCb (f : EN) : Words.Statement (.mmaCb f) := Words.of_word rfl (EN.opOf_word ..) rfl (by decide)
theorem Words.cbld (f : EN) : Words.Statement (.cbld f) := Words.of_word rfl (EN.opOf_word ..) rfl (by decide)
theorem Words.mwait (f : EN) : Words.Statement (.mwait f) := Words.of_word rfl (EN.opOf_word ..) rfl (by decide)
theorem Words.mstat (f : EN) : Words.Statement (.mstat f) := Words.of_word rfl (EN.opOf_word ..) rfl (by decide)
theorem Words.potOpen (f : EN) : Words.Statement (.potOpen f) := Words.of_word rfl (EN.opOf_word ..) rfl (by decide)
theorem Words.potJoin (f : EN) : Words.Statement (.potJoin f) := Words.of_word rfl (EN.opOf_word ..) rfl (by decide)
theorem Words.potSend (f : EN) : Words.Statement (.potSend f) := Words.of_word rfl (EN.opOf_word ..) rfl (by decide)
theorem Words.potWait (f : EN) : Words.Statement (.potWait f) := Words.of_word rfl (EN.opOf_word ..) rfl (by decide)
theorem Words.potClose (f : EN) : Words.Statement (.potClose f) := Words.of_word rfl (EN.opOf_word ..) rfl (by decide)
theorem Words.potCloseJ (f : EN) : Words.Statement (.potCloseJ f) := Words.of_word rfl (EN.opOf_word ..) rfl (by decide)
theorem Words.potStat (f : EN) : Words.Statement (.potStat f) := Words.of_word rfl (EN.opOf_word ..) rfl (by decide)
theorem Words.potStatJ (f : EN) : Words.Statement (.potStatJ f) := Words.of_word rfl (EN.opOf_word ..) rfl (by decide)
theorem Words.claim (f : SM) : Words.Statement (.claim f) := SM.statement f 0xA8#8 rfl rfl (by decide)
theorem Words.deckPush (f : SM) : Words.Statement (.deckPush f) := SM.statement f 0xA9#8 rfl rfl (by decide)
theorem Words.deckPop (f : SM) : Words.Statement (.deckPop f) := SM.statement f 0xA9#8 rfl rfl (by decide)
theorem Words.deckSteal (f : SM) : Words.Statement (.deckSteal f) := SM.statement f 0xA9#8 rfl rfl (by decide)
theorem Words.claspInit (f : SM) : Words.Statement (.claspInit f) := SM.statement f 0xAA#8 rfl rfl (by decide)
theorem Words.claspArrive (f : SM) : Words.Statement (.claspArrive f) := SM.statement f 0xAB#8 rfl rfl (by decide)
theorem Words.claspDrop (f : SM) : Words.Statement (.claspDrop f) := SM.statement f 0xAC#8 rfl rfl (by decide)
theorem Words.claspWait (f : SM) : Words.Statement (.claspWait f) := SM.statement f 0xAD#8 rfl rfl (by decide)
theorem Words.waita (f : SM) : Words.Statement (.waita f) := SM.statement f 0xAE#8 rfl rfl (by decide)
theorem Words.fbind (f : EN) : Words.Statement (.fbind f) := Words.of_word rfl (EN.opOf_word ..) rfl (by decide)
theorem Words.funbind (f : EN) : Words.Statement (.funbind f) := Words.of_word rfl (EN.opOf_word ..) rfl (by decide)
theorem Words.fqry (f : EN) : Words.Statement (.fqry f) := Words.of_word rfl (EN.opOf_word ..) rfl (by decide)
theorem Words.fop (f : FX) : Words.Statement (.fop f) := FX.statement f 0xC0#8 rfl rfl (by decide)
theorem Words.nop (f : SY) : Words.Statement (.nop f) := SY.statement f 0xE0#8 0x0#12 rfl rfl (by decide)
theorem Words.trap (f : SY) : Words.Statement (.trap f) := SY.statement f 0xE0#8 0x1#12 rfl rfl (by decide)
theorem Words.bkpt (f : SY) : Words.Statement (.bkpt f) := SY.statement f 0xE0#8 0x2#12 rfl rfl (by decide)
theorem Words.yield (f : SY) : Words.Statement (.yield f) := SY.statement f 0xE0#8 0x3#12 rfl rfl (by decide)
theorem Words.done (f : SY) : Words.Statement (.done f) := SY.statement f 0xE0#8 0x4#12 rfl rfl (by decide)
theorem Words.eret (f : SY) : Words.Statement (.eret f) := SY.statement f 0xE0#8 0x5#12 rfl rfl (by decide)
theorem Words.csrrd (csr : BitVec 12) (f : SY) : Words.Statement (.csrrd csr f) :=
  SY.statement f 0xE1#8 csr rfl rfl (by decide)
theorem Words.csrwr (csr : BitVec 12) (f : SY) : Words.Statement (.csrwr csr f) :=
  SY.statement f 0xE2#8 csr rfl rfl (by decide)
theorem Words.csrset (csr : BitVec 12) (f : SY) : Words.Statement (.csrset csr f) :=
  SY.statement f 0xE3#8 csr rfl rfl (by decide)
theorem Words.csrclr (csr : BitVec 12) (f : SY) : Words.Statement (.csrclr csr f) :=
  SY.statement f 0xE4#8 csr rfl rfl (by decide)
theorem Words.enq (f : SY) : Words.Statement (.enq f) := SY.statement f 0xE5#8 0x0#12 rfl rfl (by decide)
theorem Words.dcwb (f : SY) : Words.Statement (.dcwb f) := SY.statement f 0xE6#8 0x0#12 rfl rfl (by decide)
theorem Words.icinv (f : SY) : Words.Statement (.icinv f) := SY.statement f 0xE6#8 0x1#12 rfl rfl (by decide)
theorem Words.fetchb (f : SY) : Words.Statement (.fetchb f) := SY.statement f 0xE6#8 0x2#12 rfl rfl (by decide)
theorem Words.keyselBind (f : SY) : Words.Statement (.keyselBind f) := SY.statement f 0xE7#8 0x0#12 rfl rfl (by decide)
theorem Words.keyselUnbind (f : SY) : Words.Statement (.keyselUnbind f) :=
  SY.statement f 0xE7#8 0x0#12 rfl rfl (by decide)
theorem Words.keyselQry (f : SY) : Words.Statement (.keyselQry f) := SY.statement f 0xE7#8 0x0#12 rfl rfl (by decide)
theorem Words.udf (bits : BitVec 56) : Words.Statement (.udf bits) :=
  Words.of_word (op := 0xFF#8) rfl (opOf_udf _) rfl (by decide)
theorem Words.replyReturn (c : CoreId) (slot : Nat) : Words.Statement (.replyReturn c slot) := .inl rfl
theorem Words.activeMessageDelivery (c : CoreId) (e : Engine) : Words.Statement (.activeMessageDelivery c e) := .inl rfl
theorem Words.copySuspend (c : CoreId) (h : BitVec 8) : Words.Statement (.copySuspend c h) := .inl rfl
theorem Words.copyComplete (c : CoreId) (h : BitVec 8) : Words.Statement (.copyComplete c h) := .inl rfl
theorem Words.matrixComplete (c : CoreId) : Words.Statement (.matrixComplete c) := .inl rfl
theorem Words.engineTrapDelivery (c : CoreId) : Words.Statement (.engineTrapDelivery c) := .inl rfl
theorem Words.tflushComplete (c : CoreId) (h : BitVec 8) : Words.Statement (.tflushComplete c h) := .inl rfl
theorem Words.pageWalk (c : CoreId) (va : BitVec 56) : Words.Statement (.pageWalk c va) := .inl rfl
theorem Words.atsTranslationCompletion (func : Nat) (page : Nat) (host : Nat) (granted write : Bool) : Words.Statement (.atsTranslationCompletion func page host granted write) :=
  .inl rfl
theorem Words.priResponse (func : Nat) (page : Nat) (answer : PriAnswer) : Words.Statement (.priResponse func page answer) :=
  .inl rfl
theorem Words.hostpageTimeout (func : Nat) (page : Nat) : Words.Statement (.hostpageTimeout func page) := .inl rfl
theorem Words.atsInvalidationRequest (func : Nat) (page count : Nat) : Words.Statement (.atsInvalidationRequest func page count) :=
  .inl rfl
theorem Words.ticmdGo (func : Nat) (value : Word) : Words.Statement (.ticmdGo func value) := .inl rfl
theorem Words.ticmdErrClear (func : Nat) : Words.Statement (.ticmdErrClear func) := .inl rfl
theorem Words.shootdownComplete (func : Nat) : Words.Statement (.shootdownComplete func) := .inl rfl
theorem Words.twinWrite (t : BitVec 6) (w : BitVec 4) (value : Word) : Words.Statement (.twinWrite t w value) :=
  .inl rfl
theorem Words.lineFill (c : CoreId) (key : LineKey) : Words.Statement (.lineFill c key) := .inl rfl
theorem Words.scatterAddPass (word : Nat) : Words.Statement (.scatterAddPass word) := .inl rfl
theorem Words.generationScrub : Words.Statement .generationScrub := .inl rfl
theorem Words.patrolScrub (segment : Nat) (corrected : Bool) : Words.Statement (.patrolScrub segment corrected) :=
  .inl rfl
theorem Words.monitorExpiry (c : CoreId) (word : Nat) : Words.Statement (.monitorExpiry c word) := .inl rfl
theorem Words.waitaTimeout (c : CoreId) : Words.Statement (.waitaTimeout c) := .inl rfl
theorem Words.waitaMonfull (c : CoreId) : Words.Statement (.waitaMonfull c) := .inl rfl
theorem Words.claspWaitPoll (c : CoreId) : Words.Statement (.claspWaitPoll c) := .inl rfl
theorem Words.snpData (line : Nat) : Words.Statement (.snpData line) := .inl rfl
theorem Words.snpInv (line : Nat) : Words.Statement (.snpInv line) := .inl rfl
theorem Words.snpCur (line : Nat) : Words.Statement (.snpCur line) := .inl rfl
theorem Words.bisnpResponse (line : Nat) (data : Option Nat) : Words.Statement (.bisnpResponse line data) := .inl rfl
theorem Words.hostMemoryAccess (pa : Nat) (bytes : Nat) (data : Option Nat) (trusted : Bool) : Words.Statement (.hostMemoryAccess pa bytes data trusted) :=
  .inl rfl
theorem Words.clusterPowerGate (cl : BitVec 6) : Words.Statement (.clusterPowerGate cl) := .inl rfl
theorem Words.decisionRound (die : BitVec 2) : Words.Statement (.decisionRound die) := .inl rfl
theorem Words.rootDecisionRound : Words.Statement .rootDecisionRound := .inl rfl
theorem Words.launchRecordFetch (q : QueueId) : Words.Statement (.launchRecordFetch q) := .inl rfl
theorem Words.blockedHeadReread (q : QueueId) : Words.Statement (.blockedHeadReread q) := .inl rfl
theorem Words.holdBegin (task : Nat) : Words.Statement (.holdBegin task) := .inl rfl
theorem Words.quantumExpiry (task : Nat) : Words.Statement (.quantumExpiry task) := .inl rfl
theorem Words.potdeferDeadline (task : Nat) : Words.Statement (.potdeferDeadline task) := .inl rfl
theorem Words.preemptionSave (c : CoreId) : Words.Statement (.preemptionSave c) := .inl rfl
theorem Words.preemptDelivery (c : CoreId) : Words.Statement (.preemptDelivery c) := .inl rfl
theorem Words.preemptGraceExpiry (c : CoreId) : Words.Statement (.preemptGraceExpiry c) := .inl rfl
theorem Words.contextRestore (c : CoreId) : Words.Statement (.contextRestore c) := .inl rfl
theorem Words.sliceRetirement (c : CoreId) (slice : BitVec 5) : Words.Statement (.sliceRetirement c slice) := .inl rfl
theorem Words.generationRecord (c : CoreId) : Words.Statement (.generationRecord c) := .inl rfl
theorem Words.gencmdWrite : Words.Statement .gencmdWrite := .inl rfl
theorem Words.wqtailDoorbell (func : Nat) (q : Nat) (value : Word) : Words.Statement (.wqtailDoorbell func q value) :=
  .inl rfl
theorem Words.wqbaseWrite (func : Nat) (q : Nat) (value : Word) : Words.Statement (.wqbaseWrite func q value) :=
  .inl rfl
theorem Words.wqheadErrClear (func : Nat) (q : Nat) : Words.Statement (.wqheadErrClear func q) := .inl rfl
theorem Words.tenantResetStart (t : BitVec 6) : Words.Statement (.tenantResetStart t) := .inl rfl
theorem Words.functionLevelReset (func : Nat) : Words.Statement (.functionLevelReset func) := .inl rfl
theorem Words.vfDisable (func : Nat) : Words.Statement (.vfDisable func) := .inl rfl
theorem Words.tenantResetComplete (t : BitVec 6) : Words.Statement (.tenantResetComplete t) := .inl rfl
theorem Words.trstatDoneClear (t : BitVec 6) : Words.Statement (.trstatDoneClear t) := .inl rfl
theorem Words.powerInterval : Words.Statement .powerInterval := .inl rfl
theorem Words.unitRamp (c : PowerUnit) : Words.Statement (.unitRamp c) := .inl rfl
theorem Words.nodeidWrite (value : Word) : Words.Statement (.nodeidWrite value) := .inl rfl
theorem Words.mmioWrite (func : Nat) (offset : Nat) (value : Word) : Words.Statement (.mmioWrite func offset value) :=
  .inl rfl
theorem Words.msixUnmask (func : Nat) (vector : BitVec 8) : Words.Statement (.msixUnmask func vector) := .inl rfl
theorem Words.joinRequestArrival (k : Nat) : Words.Statement (.joinRequestArrival k) := .inl rfl
theorem Words.joinRetryReissue (c : CoreId) (j : BitVec 6) : Words.Statement (.joinRetryReissue c j) := .inl rfl
theorem Words.grant (k : Nat) : Words.Statement (.grant k) := .inl rfl
theorem Words.over (k : Nat) : Words.Statement (.over k) := .inl rfl
theorem Words.denied (k : Nat) : Words.Statement (.denied k) := .inl rfl
theorem Words.spilled (k : Nat) : Words.Statement (.spilled k) := .inl rfl
theorem Words.resumed (k : Nat) : Words.Statement (.resumed k) := .inl rfl
theorem Words.closed (k : Nat) : Words.Statement (.closed k) := .inl rfl
theorem Words.forfeit (k : Nat) : Words.Statement (.forfeit k) := .inl rfl
theorem Words.fbcount (k : Nat) : Words.Statement (.fbcount k) := .inl rfl
theorem Words.joinWithdrawal (k : Nat) : Words.Statement (.joinWithdrawal k) := .inl rfl
theorem Words.contributionArrival (k : Nat) : Words.Statement (.contributionArrival k) := .inl rfl
theorem Words.nodeLinkLoss (node : BitVec 10) : Words.Statement (.nodeLinkLoss node) := .inl rfl
theorem Words.fopComplete (c : CoreId) (cycles : Nat) : Words.Statement (.fopComplete c cycles) := .inl rfl
theorem Words.fopStop (c : CoreId) (cycles : Nat) : Words.Statement (.fopStop c cycles) := .inl rfl
theorem Words.escapeMove (c : CoreId) (region : BitVec 4) : Words.Statement (.escapeMove c region) := .inl rfl
theorem Words.escapeTimeout (c : CoreId) (region : BitVec 4) : Words.Statement (.escapeTimeout c region) := .inl rfl
theorem Words.fabricStalled (c : CoreId) : Words.Statement (.fabricStalled c) := .inl rfl
theorem Words.configUe (c : CoreId) (plane : BitVec 2) (region : BitVec 4) : Words.Statement (.configUe c plane region) :=
  .inl rfl
theorem Words.regionReloadDone (c : CoreId) : Words.Statement (.regionReloadDone c) := .inl rfl
theorem Words.flitCrcFail (port : Nat) : Words.Statement (.flitCrcFail port) := .inl rfl
theorem Words.portRetrain (port : Nat) : Words.Statement (.portRetrain port) := .inl rfl
theorem Words.laneRetire (port : Nat) (lane : BitVec 3) : Words.Statement (.laneRetire port lane) := .inl rfl
theorem Words.portRetire (port : Nat) : Words.Statement (.portRetire port) := .inl rfl
theorem Words.laneRecalibration (port : Nat) (lane : BitVec 3) : Words.Statement (.laneRecalibration port lane) :=
  .inl rfl
theorem Words.remoteRequestArrival (node : BitVec 10) (tenant : BitVec 6) (pa : Nat) (op : RemoteOp) : Words.Statement (.remoteRequestArrival node tenant pa op) :=
  .inl rfl
theorem Words.remoteRequestTimeout (c : CoreId) : Words.Statement (.remoteRequestTimeout c) := .inl rfl
theorem Words.keyProvision (func : Nat) (handle : BitVec 16) (key : BitVec 256) (counter : Word) : Words.Statement (.keyProvision func handle key counter) :=
  .inl rfl
theorem Words.keyDelete (func : Nat) (handle : BitVec 16) : Words.Statement (.keyDelete func handle) := .inl rfl
theorem Words.tdiLock (func : Nat) : Words.Statement (.tdiLock func) := .inl rfl
theorem Words.tdiStart (func : Nat) : Words.Statement (.tdiStart func) := .inl rfl
theorem Words.stopInterface (func : Nat) : Words.Statement (.stopInterface func) := .inl rfl
theorem Words.spdmSessionExpiry (func : Nat) : Words.Statement (.spdmSessionExpiry func) := .inl rfl
theorem Words.ideIntegrityFailure (func : Nat) : Words.Statement (.ideIntegrityFailure func) := .inl rfl
theorem Words.pcieLinkDown : Words.Statement .pcieLinkDown := .inl rfl
theorem Words.confLostDelivery (c : CoreId) : Words.Statement (.confLostDelivery c) := .inl rfl
theorem Words.machineCheck : Words.Statement .machineCheck := .inl rfl
theorem Words.uncontainedEnd (c : CoreId) : Words.Statement (.uncontainedEnd c) := .inl rfl
theorem Words.firmwareUpdate : Words.Statement .firmwareUpdate := .inl rfl
theorem Words.dieQuiesce (die : BitVec 2) : Words.Statement (.dieQuiesce die) := .inl rfl
theorem Words.mctpRequest : Words.Statement .mctpRequest := .inl rfl
theorem Words.deviceReset : Words.Statement .deviceReset := .inl rfl
theorem Words.vfEnable (func : Nat) : Words.Statement (.vfEnable func) := .inl rfl
theorem Words.clusterPowerUp (cl : BitVec 6) : Words.Statement (.clusterPowerUp cl) := .inl rfl
theorem Words.dieReturn (die : BitVec 2) : Words.Statement (.dieReturn die) := .inl rfl
theorem Words.linkTrainingComplete (port : Nat) : Words.Statement (.linkTrainingComplete port) := .inl rfl
theorem Words.thermalLimitChange (limit : BitVec 16) : Words.Statement (.thermalLimitChange limit) := .inl rfl
theorem Words.spdmSessionEstablished (func : Nat) : Words.Statement (.spdmSessionEstablished func) := .inl rfl

end Sys2Proof.Laws
end

