-- ==== Sys2Proof/Laws/Run.lean ====
section
/-! SUPPORT. How the steps of the monad X compose, and what the plainest of them can do: one lemma per operation. -/

namespace Sys2Proof.Machine

/-! ### Composition -/

@[simp] theorem X.bind_apply {α β : Type} (m : X α) (f : α → X β) (s : State) :
    (m >>= f) s = match m s with
      | .ok a t => f a t
      | .error e t => .error e t := by
  show EStateM.bind m f s = _
  unfold EStateM.bind
  cases m s <;> rfl

@[simp] theorem X.pure_apply {α : Type} (a : α) (s : State) : (pure a : X α) s = .ok a s := rfl
@[simp] theorem X.get_apply (s : State) : (get : X State) s = .ok s s := rfl
@[simp] theorem X.set_apply (s t : State) : (set t : X Unit) s = .ok () t := rfl
@[simp] theorem X.modify_apply (f : State → State) (s : State) : (modify f : X Unit) s = .ok () (f s) := rfl
@[simp] theorem X.throw_apply {α : Type} (e : Stop) (s : State) : (throw e : X α) s = .error e s := rfl
@[simp] theorem X.trap_apply {α : Type} (c : Nat) (v : Word) (s : State) :
    (trap c v : X α) s = .error (.trap c v) s := rfl
@[simp] theorem X.self_apply (s : State) : self s = .ok s.self s := rfl
@[simp] theorem X.modSelf_apply (f : Core → Core) (s : State) : modSelf f s = .ok () (s.modSelf f) := rfl

/-- A condition that holds is passed; one that fails traps. -/
theorem X.require_apply (b : Bool) (c : Nat) (v : Word) (s : State) :
    require b c v s = if b then .ok () s else .error (.trap c v) s := by
  unfold require; cases b <;> rfl

@[simp] theorem X.require_true (c : Nat) (v : Word) (s : State) : require true c v s = .ok () s := rfl
@[simp] theorem X.require_false (c : Nat) (v : Word) (s : State) :
    require false c v s = .error (.trap c v) s := rfl
@[simp] theorem X.awaiting_true (s : State) : awaiting true s = .ok () s := rfl
@[simp] theorem X.awaiting_false (s : State) : awaiting false s = .error (.wait .resource) s := rfl

theorem X.ite_apply {α : Type} (p : Prop) [Decidable p] (a b : X α) (s : State) :
    (if p then a else b) s = if p then a s else b s := by split <;> rfl

/-! ### Scalar registers -/

/-- A read of a register that is not EMPTY (R178). -/
@[simp] theorem readX_ok {s : State} {r : BitVec 6} (h : s.self.empty r = false) : readX r s = .ok (s.self.rd r) s := by
  simp [readX, h]

/-- A read of an EMPTY register waits and changes nothing (R178). -/
theorem readX_wait {s : State} {r : BitVec 6} (h : s.self.empty r = true) :
    readX r s = .error (.wait .resource) s := by
  simp [readX, h]

/-- A write of a register that is not EMPTY (R178). -/
@[simp] theorem writeX_ok {s : State} {r : BitVec 6} {v : Word} (h : s.self.empty r = false) :
    writeX r v s = .ok () (s.modSelf (·.wr r v)) := by
  simp [writeX, h]

/-- A write of an EMPTY register waits and changes nothing (R178). -/
theorem writeX_wait {s : State} {r : BitVec 6} {v : Word} (h : s.self.empty r = true) :
    writeX r v s = .error (.wait .resource) s := by
  simp [writeX, h]

@[simp] theorem freeX_ok {s : State} {r : BitVec 6} (h : s.self.empty r = false) : freeX r s = .ok () s := by
  simp [freeX, h]

theorem freeX_wait {s : State} {r : BitVec 6} (h : s.self.empty r = true) :
    freeX r s = .error (.wait .resource) s := by
  simp [freeX, h]

/-- A reply slot is free and the registers are not EMPTY (R178). -/
@[simp] theorem reserveReply_ok {s : State} {rs : List (BitVec 6)} (hn : s.self.replies.length < 16)
    (hr : rs.any s.self.empty = false) : reserveReply rs s = .ok () s := by
  simp only [reserveReply, X.bind_apply, X.self_apply]
  rw [if_neg (by simp [hn, hr])]
  rfl

@[simp] theorem reply_apply (ws : List (BitVec 6 × Word)) (s : State) :
    reply ws s = .ok () (s.modSelf fun k => { k with replies := k.replies ++ [⟨ws⟩] }) := rfl

/-! ### How an instruction ends -/

/-- A completed instruction retires (R225). -/
theorem State.run_ok {n : Nat} {m : X Unit} {s t : State} (h : m s = .ok () t) :
    s.run n m = t.modSelf (·.retire n) := by simp [State.run, h]

/-- An instruction that redirects ends at its target (R225). -/
theorem State.run_goto {n : Nat} {m : X Unit} {s t : State} {p : Word} (h : m s = .error (.goto p) t) :
    s.run n m = t.modSelf (·.jump p) := by simp [State.run, h]

/-- An instruction that waits leaves its wait in the core (R178). -/
theorem State.run_wait {n : Nat} {m : X Unit} {s t : State} {w : Wait} (h : m s = .error (.wait w) t) :
    s.run n m = t.modSelf fun k => { k with wait := w } := by simp [State.run, h]

theorem State.run_halt {n : Nat} {m : X Unit} {s t : State} (h : m s = .error .halt t) : s.run n m = t := by
  simp [State.run, h]

/-- An instruction that traps while no trap frame is live enters the handler (R352). -/
theorem State.run_trap {n : Nat} {m : X Unit} {s t : State} {c : Nat} {v : Word} (h : m s = .error (.trap c v) t)
    (hf : t.self.tf = false) :
    s.run n m = t.modSelf fun k => k.enterTrap false c v (resumeAt c s.self.pc n) := by
  simp [State.run, h, State.settleX, atomically, takeTrap, hf]

theorem finish_ok {n : Nat} {m : X Unit} {s t : State} (h : m s = .ok () t) :
    finish n m s = .next (t.modSelf (·.retire n)) := by rw [finish, State.run_ok h]

theorem finish_goto {n : Nat} {m : X Unit} {s t : State} {p : Word} (h : m s = .error (.goto p) t) :
    finish n m s = .next (t.modSelf (·.jump p)) := by rw [finish, State.run_goto h]

theorem finish_wait {n : Nat} {m : X Unit} {s t : State} {w : Wait} (h : m s = .error (.wait w) t) :
    finish n m s = .next (t.modSelf fun k => { k with wait := w }) := by rw [finish, State.run_wait h]

theorem finish_trap {n : Nat} {m : X Unit} {s t : State} {c : Nat} {v : Word} (h : m s = .error (.trap c v) t)
    (hf : t.self.tf = false) :
    finish n m s = .next (t.modSelf fun k => k.enterTrap false c v (resumeAt c s.self.pc n)) := by
  rw [finish, State.run_trap h hf]

/-- Every instruction of a thread answers a next state: it completes, waits, traps or ends. -/
theorem finish_next (n : Nat) (m : X Unit) (s : State) : ∃ t, finish n m s = .next t := ⟨_, rfl⟩

/-- An event whose moment has come (log 6). -/
theorem event_ok {m : X Unit} {s t : State} (h : atomically m s = .ok () t) : event m s = .next t := by
  simp [event, h]

end Sys2Proof.Machine
end

