-- ==== Sys2Proof/Laws/Scalar.lean ====
section
/-! SUPPORT. What the shared forms of the scalar instructions do when no register of theirs is EMPTY, and how a
division by zero ends. -/

namespace Sys2Proof.Machine

/-- The form xd := op xa xb. -/
theorem sa2_ok {f : SA} {op : Word → Word → Word} {s : State} (ha : s.self.empty f.xa = false)
    (hb : s.self.empty f.xb = false) (hd : s.self.empty f.xd = false) :
    sa2 f op s = .ok () (s.modSelf (·.wr f.xd (op (s.self.rd f.xa) (s.self.rd f.xb)))) := by
  simp only [sa2, X.bind_apply, readX_ok ha, readX_ok hb, writeX_ok hd]

/-- The form xd := op xa. -/
theorem sa1_ok {f : SA} {op : Word → Word} {s : State} (ha : s.self.empty f.xa = false)
    (hd : s.self.empty f.xd = false) :
    sa1 f op s = .ok () (s.modSelf (·.wr f.xd (op (s.self.rd f.xa)))) := by
  simp only [sa1, X.bind_apply, readX_ok ha, writeX_ok hd]

/-- The form xd := op xa xb xc. -/
theorem sa3_ok {f : SA} {op : Word → Word → Word → Word} {s : State} (ha : s.self.empty f.xa = false)
    (hb : s.self.empty f.xb = false) (hc : s.self.empty f.xc = false) (hd : s.self.empty f.xd = false) :
    sa3 f op s = .ok () (s.modSelf (·.wr f.xd (op (s.self.rd f.xa) (s.self.rd f.xb) (s.self.rd f.xc)))) := by
  simp only [sa3, X.bind_apply, readX_ok ha, readX_ok hb, readX_ok hc, writeX_ok hd]

/-- The form xd := op xa imm. -/
theorem si1_ok {f : SI} {op : Word → Word → Word} {s : State} (ha : s.self.empty f.xa = false)
    (hd : s.self.empty f.xd = false) :
    si1 f op s = .ok () (s.modSelf (·.wr f.xd (op (s.self.rd f.xa) f.value))) := by
  simp only [si1, X.bind_apply, readX_ok ha, writeX_ok hd]

/-- An instruction whose only effect is a write of a register, completed. -/
theorem finish_wr {n : Nat} {m : X Unit} {s : State} {r : BitVec 6} {v : Word}
    (h : m s = .ok () (s.modSelf (·.wr r v))) :
    finish n m s = .next (s.modSelf fun k => (k.wr r v).retire n) := by
  rw [finish_ok h, State.modSelf_modSelf]

/-- A division by a divisor that is not zero (R212). -/
theorem saDiv_ok {w : Word} {f : SA} {op : Word → Word → Word} {s : State} (ha : s.self.empty f.xa = false)
    (hb : s.self.empty f.xb = false) (hd : s.self.empty f.xd = false) (h0 : s.self.rd f.xb ≠ 0) :
    saDiv w f op s = .ok () (s.modSelf (·.wr f.xd (op (s.self.rd f.xa) (s.self.rd f.xb)))) := by
  simp only [saDiv, X.bind_apply, readX_ok ha, readX_ok hb, freeX_ok hd, if_neg h0, writeX_ok hd]

/-- A division by zero while IDZT.EN = 0 (R212). -/
theorem saDiv_zero {w : Word} {f : SA} {op : Word → Word → Word} {s : State} (ha : s.self.empty f.xa = false)
    (hb : s.self.empty f.xb = false) (hd : s.self.empty f.xd = false) (h0 : s.self.rd f.xb = 0)
    (he : (s.self.csrAt 0x110).getLsbD 0 = false) :
    saDiv w f op s =
      .ok () (s.modSelf fun k => (k.orFlags flagIDZ).wr f.xd (op (s.self.rd f.xa) (s.self.rd f.xb))) := by
  have hc : (((s.modSelf (·.orFlags flagIDZ)).self).csrAt 0x110).getLsbD 0 = false := by
    simpa [Core.orFlags] using he
  have hd' : ((s.modSelf (·.orFlags flagIDZ)).self).empty f.xd = false := by simpa using hd
  simp only [saDiv, X.bind_apply, readX_ok ha, readX_ok hb, freeX_ok hd, if_pos h0, X.modSelf_apply, X.self_apply, hc,
    Bool.not_false, X.require_true, writeX_ok hd', State.modSelf_modSelf]

/-- A division by zero while IDZT.EN = 1 traps before xd is written (R212). -/
theorem saDiv_trap {w : Word} {f : SA} {op : Word → Word → Word} {s : State} (ha : s.self.empty f.xa = false)
    (hb : s.self.empty f.xb = false) (hd : s.self.empty f.xd = false) (h0 : s.self.rd f.xb = 0)
    (he : (s.self.csrAt 0x110).getLsbD 0 = true) :
    saDiv w f op s = .error (.trap causeIdivZero w) (s.modSelf (·.orFlags flagIDZ)) := by
  have hc : (((s.modSelf (·.orFlags flagIDZ)).self).csrAt 0x110).getLsbD 0 = true := by
    simpa [Core.orFlags] using he
  simp only [saDiv, X.bind_apply, readX_ok ha, readX_ok hb, freeX_ok hd, if_pos h0, X.modSelf_apply, X.self_apply, hc,
    Bool.not_true, X.require_false]

end Sys2Proof.Machine
end

