-- ==== Sys2Proof/Laws/ScalarFp.lean ====
section
/-! SUPPORT. How a scalar floating-point instruction ends. -/

namespace Sys2Proof.Machine

@[simp] theorem Core.orFlags_trapping (k : Core) (f : BitVec 7) (g : Flags) :
    (k.orFlags f).trapping g = k.trapping g := by
  simp [Core.trapping, Core.fpen, Core.tstatus, Core.orFlags]

/-- No enabled flag: the flags go into FFLAGS and the result into xd (R218). -/
theorem fpDone_ok {s : State} {xd : BitVec 6} {r : Word × Flags} (hd : s.self.empty xd = false)
    (ht : s.self.trapping r.2 = false) :
    fpDone xd r s = .ok () (s.modSelf fun k => (k.orFlags r.2).wr xd r.1) := by
  have hd' : (s.modSelf (·.orFlags r.2)).self.empty xd = false := by simpa using hd
  simp only [fpDone, X.bind_apply, freeX_ok hd, X.self_apply, ht, Bool.not_false, X.require_true, X.modSelf_apply,
    writeX_ok hd', State.modSelf_modSelf]

/-- An enabled flag: the instruction traps before it writes anything (R358). -/
theorem fpDone_trap {s : State} {xd : BitVec 6} {r : Word × Flags} (hd : s.self.empty xd = false)
    (ht : s.self.trapping r.2 = true) :
    fpDone xd r s = .error (.trap causeFpTrap (fpTrapValue r.2 0 false)) s := by
  simp only [fpDone, X.bind_apply, freeX_ok hd, X.self_apply, ht, Bool.not_true, X.require_false]

/-- The form of two operands is what its last part does with the result. -/
theorem fp2_apply {fmt : FFmt} {f : SA} {op : FpFmt → BitVec 2 → Nat → Nat → Nat × Flags} {s : State}
    (ha : s.self.empty f.xa = false) (hb : s.self.empty f.xb = false) :
    fp2 fmt f op s =
      let r := op (FFmtfmt fmt) s.self.frm (fmtBits fmt (s.self.rd f.xa)) (fmtBits fmt (s.self.rd f.xb))
      fpDone f.xd (toWord r.1, r.2) s := by
  simp only [fp2, X.bind_apply, readX_ok ha, readX_ok hb, X.self_apply]

end Sys2Proof.Machine
end

