-- ==== Sys2Proof/Laws/Step.lean ====
section
/-! SUPPORT. The step around an instruction: what every step leaves up to date, which move comes first, and a fetch that
succeeds. -/

namespace Sys2Proof.Machine

@[simp] theorem concluded_fault (s : State) (m : Option Move) (f : Fault) : s.concluded m (.fault f) = .fault f := rfl
@[simp] theorem concluded_refused (s : State) (m : Option Move) (r : Refusal) : s.concluded m (.refused r) = .refused r := rfl

/-- While the host caches no device line, no move waits for it (R400). -/
theorem held_nothing {s t : State} (h : s.ms.hdm = []) : s.held t = false := by simp [State.held, h]

/-- A move that asks the host for no line of the device: saved images and what every step keeps up to date follow it. -/
theorem concluded_next {s t : State} {m : Option Move} (h : s.held (s.syncSaved t).tidy = false) :
    s.concluded m (.next t) = .next (s.syncSaved t).tidy := by simp [State.concluded, h]

/-- A move that changes no saved context leaves the images alone (R345). -/
theorem syncSaved_same {s t : State} (h : t.dealer.saved = s.dealer.saved) : s.syncSaved t = t := by
  simp [State.syncSaved, h]

/-- An event that the agenda names comes first (R6). -/
theorem step_event {s : State} {i : Instr} {rest : List Move} (h : s.agenda = .event i :: rest) :
    step s = State.concluded { s with agenda := rest } none (exec i { s with agenda := rest }) := by
  simp [step, State.anyMove, h, State.move, Move.isMmio]

/-- With nothing named and nothing due, the thread of the core that moves takes its step (R185). -/
theorem step_thread {s : State} (ha : s.agenda = []) (hp : s.pendingMove = none) (hr : s.threadReady s.cur = true)
    (hw : s.waitMove = none) : step s = s.concluded none s.threadStep := by
  simp [step, State.anyMove, ha, State.coreMove, hp, hr, hw]

theorem threadStep_ok {s t : State} {i : Instr} (h : s.fetch = .ok (i, t)) : s.threadStep = exec i t := by
  simp [State.threadStep, h]

/-! ### Stores of hardware -/

/-- What each step of a loop keeps, the loop keeps. -/
theorem foldl_keeps {α β γ : Type} (p : β → γ) {f : β → α → β} (h : ∀ b a, p (f b a) = p b) (l : List α) (b : β) :
    p (l.foldl f b) = p b := by
  induction l generalizing b with
  | nil => rfl
  | cons a l ih => exact (ih _).trans (h b a)

/-- Everything of a state but its memory system. -/
def State.beside (s : State) : State := { s with ms := MemSys.reset }

/-- A store of hardware at the homes changes the memory system alone (R166). -/
@[simp] theorem homeStore_beside (s : State) (a n v : Nat) (t : Option (BitVec 6)) : (s.homeStore a n v t).beside = s.beside := rfl

@[simp] theorem runWrite_beside (s : State) (a n v : Nat) (t : BitVec 6) : (s.runWrite a n v t).beside = s.beside :=
  foldl_keeps State.beside (fun _ _ => homeStore_beside _ _ _ _ _) _ _

@[simp] theorem syncContext_beside (s : State) (x y : SavedCtx) : (s.syncContext x y).beside = s.beside := by
  unfold State.syncContext
  split
  · refine foldl_keeps State.beside (fun u i => ?_) _ _
    simp only
    split
    · exact foldl_keeps State.beside (fun _ _ => runWrite_beside _ _ _ _ _) _ _
    · rw [runWrite_beside]
      exact foldl_keeps State.beside (fun _ _ => runWrite_beside _ _ _ _ _) _ _
  · rfl

/-- The images of saved contexts stand in memory: bringing them up to date changes the memory system alone (R345). -/
@[simp] theorem syncSaved_beside (s t : State) : (s.syncSaved t).beside = t.beside := by
  unfold State.syncSaved
  split
  · rfl
  · refine foldl_keeps State.beside (fun u x => ?_) _ _
    split
    · split
      · rfl
      · exact syncContext_beside _ _ _
    · rfl

/-- The cores among what a state holds beside its memory system. -/
theorem State.cores_of_beside {s t : State} (h : s.beside = t.beside) : s.cores = t.cores := congrArg (·.cores) h

/-! ### APEND -/

@[simp] theorem Core.withApend_eng (k : Core) : k.withApend.eng = k.eng := by unfold Core.withApend; split <;> rfl
@[simp] theorem Core.withApend_tk (k : Core) : k.withApend.tk = k.tk := by unfold Core.withApend; split <;> rfl
@[simp] theorem Core.withApend_pc (k : Core) : k.withApend.pc = k.pc := by unfold Core.withApend; split <;> rfl
@[simp] theorem Core.withApend_x (k : Core) : k.withApend.x = k.x := by unfold Core.withApend; split <;> rfl
@[simp] theorem Core.withApend_priv (k : Core) : k.withApend.priv = k.priv := by unfold Core.withApend; split <;> rfl
@[simp] theorem Core.withApend_vec (k : Core) : k.withApend.vec = k.vec := by unfold Core.withApend; split <;> rfl
@[simp] theorem Core.withApend_tiles (k : Core) : k.withApend.tiles = k.tiles := by unfold Core.withApend; split <;> rfl
@[simp] theorem Core.withApend_cache (k : Core) : k.withApend.cache = k.cache := by unfold Core.withApend; split <;> rfl

theorem Core.withApend_eventHeld (k : Core) : k.withApend.eventHeld = k.eventHeld := by simp [Core.eventHeld]

/-- Beside TSTATUS no CSR changes when APEND is brought up to date. -/
theorem Core.withApend_csrAt (k : Core) {n : Nat} (h : n ≠ 0x103) : k.withApend.csrAt n = k.csrAt n := by
  unfold Core.withApend
  split
  · rfl
  · exact Core.setCsr_csrAt_other _ _ (fun e => h e.symm)

/-- The error log touches no core (R413). -/
theorem State.logIn_cores (s : State) (f cls sev core unit : Nat) (addr detail : Word) :
    (s.logIn f cls sev core unit addr detail).cores = s.cores := by
  unfold State.logIn State.raise
  simp only
  repeat' split
  all_goals rfl

theorem State.elog_cores (s : State) (f cls sev core unit : Nat) (addr detail : Word) :
    (s.elog f cls sev core unit addr detail).cores = s.cores := by
  unfold State.elog
  split <;> simp only [State.logIn_cores]

theorem State.logLost_cores (s : State) : s.logLost.cores = s.cores := by
  unfold State.logLost
  suffices h : ∀ (l : List (Nat × BitVec 6 × Nat)) (t : State),
      (l.foldl (fun (s : State) e => s.elog (e.2.1.toNat + 1) e.1 1 0xFF (if e.1 = 12 then (portOf e.2.2).1 else 0)
        (toWord e.2.2) 0) t).cores = t.cores from h _ _
  intro l
  induction l with
  | nil => exact fun t => rfl
  | cons e rest ih => exact fun t => (ih _).trans (State.elog_cores t _ _ _ _ _ _ _)

theorem State.syncSaved_core (s t : State) (c : CoreId) : (s.syncSaved t).core c = t.core c := by
  simp only [State.core, State.cores_of_beside (syncSaved_beside s t)]

/-- After a step each core is what it was, brought up to date. -/
theorem State.tidy_core (s : State) (c : CoreId) : s.tidy.core c = (s.core c).withApend := by
  simp [State.tidy, State.core, State.logLost_cores]

end Sys2Proof.Machine
end

