-- ==== Sys2Proof/Laws/Tensor.lean ====
section
/-! SUPPORT. The tensor cache: what an advance of a tensor's generation does to cores. -/

namespace Sys2Proof.Machine

/-- An advanced generation has changed the memory system and dropped lines of the issuer's L1 alone (R111, R141, R163). -/
theorem genBump_cores {c : Ctx} {tid : Nat} {tdt : Word} {s t : State} {g : BitVec 16} (h : genBump c tid tdt s = .ok g t) :
    t = { s with ms := t.ms }.modCore c.core fun k =>
      (k.l1DropAddr (s.localize (descAddr tdt tid)) 8).l1DropTensor c.tenant c.asid (BitVec.ofNat 16 tid) := by
  unfold genBump at h
  simp only [X.bind_apply, X.get_apply, X.require_apply] at h
  split at h
  · rename_i heq
    split at heq
    · obtain ⟨rfl, rfl⟩ := EStateM.Result.ok.inj heq
      split at h
      · simp at h
      · obtain ⟨-, rfl⟩ := EStateM.Result.ok.inj h
        rfl
    · cases heq
  · cases h

/-- An empty L1 data cache has nothing to drop. -/
theorem Core.l1Drop_empty {k : Core} (h : k.cache.l1d = []) (a n : Nat) (t : BitVec 6) (i j : BitVec 16) :
    (k.l1DropAddr a n).l1DropTensor t i j = k := by
  have hc : { k.cache with l1d := [] } = k.cache := by rw [← h]
  simp only [Core.l1DropAddr, Core.l1DropTensor, h, List.filter_nil, hc]

/-- A core whose L1 data cache is empty is as it was. -/
theorem genBump_core {c : Ctx} {tid : Nat} {tdt : Word} {s t : State} {g : BitVec 16} (h : genBump c tid tdt s = .ok g t)
    (hl : (s.core c.core).cache.l1d = []) : t.core c.core = s.core c.core ∧ t.cur = s.cur := by
  rw [genBump_cores h]
  refine ⟨?_, rfl⟩
  rw [State.modCore_core_same]
  exact Core.l1Drop_empty hl _ _ _ _ _

end Sys2Proof.Machine
end

