-- ==== Sys2Proof/Laws/Translate.lean ====
section
/-! SUPPORT. A translation that the L1 TLB holds, and a read that the L1 data cache holds: what they answer, and that they
change nothing (R29, R34, R115). -/

namespace Sys2Proof.Machine

/-- What a TLB hit answers: the entry, its level as faults name it, the physical address, which is the final one, and the
virtual address. -/
def TlbEntry.hit (e : TlbEntry) (s : State) (va : Word) : Hit :=
  let pa := s.leafAddr e.pte e.level va
  ⟨e.pte, if leafPages e.pte e.level == 16 then 0 else e.level, pa, pa, va⟩

/-- R29, R34: an access that an L1 TLB entry serves and that no check refuses is translated by it; the state stays. -/
theorem resolveGlobal_tlb {c : Ctx} {va : Word} {q : Ask} {ok : Word → Nat → Bool} {s : State} {e : TlbEntry}
    (hc : canonical va = true) (hr : q.rewalk = false)
    (hf : (s.core c.core).cache.tlb.find? (·.serves c va q.kind) = some e)
    (hw : s.leafWindow c e.pte (leafRaw e.pte e.level va) q = true) (hp : permitted c e.pte q.kind = true)
    (hh : pteHost e.pte = false) (hk : formatOk e.pte (s.leafAddr e.pte e.level va) q = true)
    (ho : ok e.pte (s.leafAddr e.pte e.level va) = true) :
    resolveGlobal c va q ok s = .ok (e.hit s va) s := by
  simp only [resolveGlobal, X.bind_apply, hc, X.require_true, translate, hr, tlbLookup, Bool.false_eq_true, if_false,
    X.get_apply, hf, X.pure_apply, hw, hp, hh, hk, ho, Bool.and_self, TlbEntry.hit]

/-- The same as a place in GLOBAL, where the page is no tensor page. -/
theorem resolveG_plain {c : Ctx} {va : Word} {q : Ask} {ok : Word → Nat → Bool} {s : State} {h : Hit}
    (hr : resolveGlobal c va q ok s = .ok h s) (ht : pteTb h.pte = false) : resolveG c va q ok s = .ok (.plain h) s := by
  simp only [resolveG, X.bind_apply, hr, ht, Bool.false_eq_true, if_false, X.pure_apply]

/-- R115: a read of a cached place whose line the L1 data cache holds takes its bytes from there; the state stays. -/
theorem spotRead_l1 {c : Ctx} {h : Hit} {n kind addr : Nat} {s : State} {l : L1Line} (hm : mmioOf h.pa = none)
    (hd : ∀ t, c.who ≠ .dealer t) (hr : h.ga < 2 ^ 42) (hn : pteNc h.pte = false) (hg : s.ms.isGated h.bank = false)
    (hl : (s.core c.core).l1Line (h.key c) = some l) :
    spotRead c (.plain h) n kind addr s = .ok (lineRead l.data (h.ga % 256) n) s := by
  have h1 : (decide (2 ^ 42 ≤ h.ga) && decide (h.ga < hostBase)) = false := by
    simp only [Bool.and_eq_false_iff, decide_eq_false_iff_not]
    exact .inl (by omega)
  simp only [spotRead, plainRead, X.bind_apply, X.get_apply, hm, h1, MemSys.bypass, hn, hg, hl, Bool.false_eq_true, if_false, Bool.or_self,
    X.pure_apply, Bool.not_false, X.require_true]

end Sys2Proof.Machine
end

