-- ==== Sys2Proof/Laws/Vector.lean ====
section
/-! SUPPORT. What the shared operations of the vector instructions do when nothing stops them: the issue checks, the loop
over elements, and the write of a destination, read back element by element. -/

namespace Sys2Proof.Machine

/-! ### The loop over elements -/

/-- What element j gives to the destination: its result, zero for an inactive one under mz, or nothing. -/
def elemEntry (active : Nat → Bool) (mz : Bool) (op : Nat → Nat × Flags) (j : Nat) : Option (Nat × Nat) :=
  if active j then some (j, (op j).1) else if mz then some (j, 0) else none

/-- The flags that the active elements of a list raise. -/
def elemFlags (active : Nat → Bool) (op : Nat → Nat × Flags) (js : List Nat) (f : Flags) : Flags :=
  js.foldl (fun a j => if active j then a ||| (op j).2 else a) f

/-- VFX0 and VFX1 after the active elements of a list. -/
def elemVfx0 (active : Nat → Bool) (op : Nat → Nat × Flags) (js : List Nat) (w : Word) : Word :=
  js.foldl (fun a j => if active j then vfx0Record a (op j).2 j else a) w

def elemVfx1 (active : Nat → Bool) (op : Nat → Nat × Flags) (js : List Nat) (w : Word) : Word :=
  js.foldl (fun a j => if active j then vfx1Record a (op j).2 j else a) w

/-- A loop in which no active element traps. -/
theorem elemLoop_ok {k : Core} {active : Nat → Bool} {mz : Bool} {op : Nat → ElemOut} {val : Nat → Nat × Flags} :
    ∀ (fuel i : Nat) (l : Loop),
    (∀ j, i ≤ j → j < i + fuel → active j = true → op j = .val (val j).1 (val j).2 ∧ k.trapping (val j).2 = false) →
    elemLoop k active mz op fuel i l =
      (⟨((List.range' i fuel).filterMap (elemEntry active mz val)).reverse ++ l.res,
        elemFlags active val (List.range' i fuel) l.flags, elemVfx0 active val (List.range' i fuel) l.vfx0,
        elemVfx1 active val (List.range' i fuel) l.vfx1⟩, none)
  | 0, i, l, _ => by simp [elemLoop, elemFlags, elemVfx0, elemVfx1]
  | fuel + 1, i, l, h => by
    have hrec := fun l' => elemLoop_ok (k := k) (active := active) (mz := mz) (op := op) (val := val) fuel (i + 1) l'
      fun j h1 h2 h3 => h j (by omega) (by omega) h3
    rw [elemLoop, List.range'_succ]
    by_cases ha : active i = true
    · obtain ⟨hop, ht⟩ := h i (by omega) (by omega) ha
      simp only [ha, hop, ht, if_true, if_false, Bool.false_eq_true]
      rw [hrec]
      simp [elemEntry, elemFlags, elemVfx0, elemVfx1, ha]
    · have ha' : active i = false := by simpa using ha
      simp only [ha', if_false, Bool.false_eq_true]
      rw [hrec]
      cases mz <;> simp [elemEntry, elemFlags, elemVfx0, elemVfx1, ha']

/-- The entry of an index in the results of a loop. -/
theorem find_elemEntry (active : Nat → Bool) (mz : Bool) (val : Nat → Nat × Flags) (j : Nat) :
    ∀ (js : List Nat), js.Nodup →
      (js.filterMap (elemEntry active mz val)).find? (·.1 == j) = if j ∈ js then elemEntry active mz val j else none
  | [], _ => by simp
  | i :: js, h => by
    have ih := find_elemEntry active mz val j js (List.nodup_cons.1 h).2
    have hk : ∀ r, elemEntry active mz val i = some r → r.1 = i := by
      intro r hr
      unfold elemEntry at hr
      split at hr
      · cases hr; rfl
      · split at hr
        · cases hr; rfl
        · cases hr
    by_cases hij : i = j
    · subst hij
      rw [List.filterMap_cons]
      cases he : elemEntry active mz val i with
      | none =>
        simp only [List.mem_cons, true_or, if_true]
        rw [ih, if_neg (List.nodup_cons.1 h).1]
      | some r => simp [hk r he]
    · rw [List.filterMap_cons]
      have hm : (j ∈ i :: js) ↔ j ∈ js := by simp [Ne.symm hij]
      cases he : elemEntry active mz val i with
      | none => simp only [ih, hm]
      | some r =>
        have : (r.1 == j) = false := by simpa [hk r he] using hij
        simp only [List.find?_cons, this, ih, hm]

/-! ### The destination -/

/-- The bits of the register a code names (R78, R82). -/
def codeBits (code : Nat) : Nat := if code < 32 then 262144 else 65536

theorem VecUnit.bitsOf_setBits_same {u : VecUnit} {code v : Nat} (hc : code < 42) :
    (u.setBits code v).bitsOf code = v % 2 ^ codeBits code := by
  unfold VecUnit.setBits VecUnit.bitsOf codeBits
  by_cases h : code < 32
  · rw [if_pos h, if_pos h, if_pos h, Vector.getElem?_setIfInBounds_self_of_lt h, Option.getD_some, BitVec.toNat_ofNat]
  · have h' : code - 32 < 10 := by omega
    rw [if_neg h, if_neg h, if_neg h, Vector.getElem?_setIfInBounds_self_of_lt h', Option.getD_some,
      BitVec.toNat_ofNat]

theorem VecUnit.bitsOf_setBits_other {u : VecUnit} {code d v : Nat} (h : d ≠ code) :
    (u.setBits code v).bitsOf d = u.bitsOf d := by
  unfold VecUnit.setBits VecUnit.bitsOf
  by_cases h1 : code < 32 <;> by_cases h2 : d < 32 <;> simp only [h1, h2, if_true, if_false]
  · rw [Vector.getElem?_setIfInBounds_ne (Ne.symm h)]
  · rw [Vector.getElem?_setIfInBounds_ne (by omega)]

/-- The other registers of a write keep their contents. -/
theorem VecUnit.writeReg_bitsOf_other {u : VecUnit} {sl code w tag d : Nat} {res : List (Nat × Nat)} {tail : Option Nat}
    (h : d ≠ code) : (u.writeReg sl code w tag res tail).bitsOf d = u.bitsOf d := by
  have : (u.writeReg sl code w tag res tail).bitsOf d =
      (u.setBits code (match tail with | some n => putElems w (u.bitsOf code) res % 2 ^ (n * w)
                                       | none => putElems w (u.bitsOf code) res)).bitsOf d := by
    cases tail <;> rfl
  rw [this, VecUnit.bitsOf_setBits_other h]

/-- An element of a register written, below the number of elements from which the tail is cleared, and inside the
register. -/
theorem VecUnit.writeReg_elem {u : VecUnit} {sl code w tag j : Nat} {res : List (Nat × Nat)} {tail : Option Nat}
    (hc : code < 42) (hj : w * j + w ≤ codeBits code) (ht : ∀ n, tail = some n → j < n) :
    fld ((u.writeReg sl code w tag res tail).bitsOf code) (w * j) w =
      match res.reverse.find? (·.1 == j) with
      | some r => r.2 % 2 ^ w
      | none => fld (u.bitsOf code) (w * j) w := by
  have hcut : ∀ x : Nat, fld ((u.setBits code x).bitsOf code) (w * j) w = fld x (w * j) w := by
    intro x
    rw [VecUnit.bitsOf_setBits_same hc]
    unfold fld
    rw [show (codeBits code) = w * j + ((codeBits code) - w * j) by omega,
      pow_add, Nat.mod_mul_right_div_self, Nat.mod_mod_of_dvd _ (pow_dvd_pow 2 (by omega))]
  have : fld ((u.writeReg sl code w tag res tail).bitsOf code) (w * j) w = fld (putElems w (u.bitsOf code) res) (w * j) w := by
    cases tail with
    | none => exact hcut _
    | some n => exact (hcut _).trans (fld_mod (ht n rfl))
  exact this.trans (fld_putElems ..)

/-! ### The issue checks -/

/-- The conditions under which a vector instruction issues (R230, R85): nothing reserved in VCFG, the governing width that of
VCFG.EW, a shape that fits, and its registers FULL. -/
structure Issues (k : Core) (q : Issue) : Prop where
  ew     : k.ew ≤ 5
  scope  : k.scope ≤ 5
  width  : q.ew = none ∨ q.ew = some k.ew
  shape  : k.shapeOk = true
  small  : k.vrows * k.vcols ≤ 1024 ∨ (∀ s ∈ q.srcs, s.1 < 32) ∧ ∀ d ∈ q.dsts, d < 32
  srcs   : ∀ s ∈ q.srcs, k.vec.state s.2.1 = .full
  dsts   : ∀ d ∈ q.dsts, k.vec.state d = .full

/-- The state checks pass when every register is FULL (R85). -/
theorem checkStates_ok {q : Issue} {s : State} (h : Issues s.self q) : checkStates q s = .ok () s := by
  have h1 : q.srcs.find? (fun r => s.self.vec.state r.2.1 == .empty && !r.2.2) = none := by
    rw [List.find?_eq_none]
    intro r hr
    simp [h.srcs r hr]
  have h2 : (q.srcs.any fun r => s.self.vec.state r.2.1 == .empty) = false := by
    rw [List.any_eq_false]
    intro r hr
    simp [h.srcs r hr]
  have h3 : (q.dsts.any fun d => s.self.vec.state d != .full) = false := by
    rw [List.any_eq_false]
    intro r hr
    simp [h.dsts r hr]
  simp only [checkStates, X.bind_apply, X.self_apply, h1, h2, h3, Bool.not_false, Bool.and_self, X.awaiting_true]

/-- The issue checks pass and give the number of elements (R230). -/
theorem vIssue_ok {q : Issue} {s : State} (h : Issues s.self q) :
    vIssue q (fun _ => pure ()) s = .ok (s.self.vrows * s.self.vcols) s := by
  have h1 : (decide (s.self.ew ≤ 5) && decide (s.self.scope ≤ 5)) = true := by simp [h.ew, h.scope]
  have h2 : (q.ew == none || q.ew == some s.self.ew) = true := by
    rcases h.width with e | e <;> simp [e]
  have h3 : (decide (s.self.vrows * s.self.vcols ≤ 1024) ||
      !((q.srcs.any fun r => 32 ≤ r.1) || q.dsts.any fun d => 32 ≤ d)) = true := by
    rcases h.small with e | ⟨ea, eb⟩
    · simp [e]
    · have a1 : (q.srcs.any fun r => decide (32 ≤ r.1)) = false := by
        rw [List.any_eq_false]; intro r hr; simpa using ea r hr
      have a2 : (q.dsts.any fun d => decide (32 ≤ d)) = false := by
        rw [List.any_eq_false]; intro r hr; simpa using eb r hr
      simp [a1, a2]
  simp only [vIssue, X.bind_apply, X.self_apply, h1, h2, X.require_true]
  by_cases hn : s.self.vrows * s.self.vcols = 0
  · simp only [hn, if_true, X.pure_apply]
  · simp only [hn, if_false, X.bind_apply, h.shape, h3, X.require_true, X.pure_apply, checkStates_ok h]

/-! ### Element-wise forms -/

/-- No register word is poisoned: no source is bad. -/
theorem Core.badSources_none {k : Core} (h : k.vec.poison = []) (srcs : List (Nat × Nat × Nat × (Nat → Nat))) (i : Nat) :
    k.badSources srcs i = [] := by
  simp [Core.badSources, h]

/-- What an element-wise form leaves in its core when no element traps (R231): n elements from VSTART. -/
def Core.elementsDone (k : Core) (record : Bool) (n : Nat) (active : Nat → Bool) (mz : Bool) (d : Dst) (tail : Bool)
    (val : Nat → Nat × Flags) : Core :=
  let js := List.range' k.vstart (n - k.vstart)
  let v0 := if record && k.vstart == 0 then vfx0Empty else k.vfx0
  let v1 := if record && k.vstart == 0 then vfx1Empty else k.vfx1
  let k1 := ((k.orFlags (elemFlags active val js 0)).setCsr 0x00A (if record then elemVfx0 active val js v0 else k.vfx0)).setCsr
    0x00B (if record then elemVfx1 active val js v1 else k.vfx1)
  (k1.vwrite d (js.filterMap (elemEntry active mz val)).reverse (if tail && k.tailz then some n else none)).setCsr 0x003 0

/-- An element-wise form in which no element traps. -/
theorem vElements_ok {record : Bool} {n : Nat} {active : Nat → Bool} {mz : Bool} {d : Dst} {tail : Bool}
    {srcs : List (Nat × Nat × Nat × (Nat → Nat))} {op : Nat → ElemOut} {val : Nat → Nat × Flags} {s : State}
    (hp : s.self.vec.poison = [])
    (hop : ∀ j, s.self.vstart ≤ j → j < n → active j = true →
      op j = .val (val j).1 (val j).2 ∧ s.self.trapping (val j).2 = false) :
    vElements record n active mz d tail srcs op s =
      .ok () (s.modSelf (·.elementsDone record n active mz d tail val)) := by
  have hl := fun l => elemLoop_ok (k := s.self) (active := active) (mz := mz) (op := op) (val := val)
    (n - s.self.vstart) s.self.vstart l fun j h1 h2 h3 => hop j h1 (by omega) h3
  simp only [vElements, X.bind_apply, X.self_apply, Core.badSources_none hp]
  cases record
  · simp only [Bool.false_and, Bool.false_eq_true, if_false, hl, X.modSelf_apply, List.append_nil]
    refine congrArg (EStateM.Result.ok ()) (State.modSelf_congr s ?_)
    simp [Core.elementsDone]
  · by_cases h0 : s.self.vstart = 0
    · simp only [Bool.true_and, h0, beq_self_eq_true, if_true] at hl ⊢
      simp only [hl, X.modSelf_apply, List.append_nil]
      refine congrArg (EStateM.Result.ok ()) (State.modSelf_congr s ?_)
      simp [Core.elementsDone, h0]
    · have h0' : (s.self.vstart == 0) = false := by simpa using h0
      simp only [Bool.true_and, h0', if_true, Bool.false_eq_true, if_false, hl, X.modSelf_apply, List.append_nil]
      refine congrArg (EStateM.Result.ok ()) (State.modSelf_congr s ?_)
      simp [Core.elementsDone, h0']

/-! ### What an element-wise form leaves, field by field -/

/-- A destination write changes the vector unit alone. -/
theorem Core.vwrite_eq (k : Core) (d : Dst) (res : List (Nat × Nat)) (tail : Option Nat) :
    k.vwrite d res tail = { k with vec := (k.vwrite d res tail).vec } := by
  cases d <;> rfl

@[simp] theorem Core.vwrite_csrAt (k : Core) (d : Dst) (res : List (Nat × Nat)) (tail : Option Nat) (n : Nat) :
    (k.vwrite d res tail).csrAt n = k.csrAt n := by
  cases d <;> rfl

/-- The CSRs after an element-wise form: VSTART 0, the flags, VFX0 and VFX1; every other one stays. -/
theorem Core.elementsDone_csrAt {k : Core} {record : Bool} {n : Nat} {active : Nat → Bool} {mz : Bool} {d : Dst}
    {tail : Bool} {val : Nat → Nat × Flags} {m : Nat} (h : m ≠ 0x003 ∧ m ≠ 0x008 ∧ m ≠ 0x00A ∧ m ≠ 0x00B) :
    (k.elementsDone record n active mz d tail val).csrAt m = k.csrAt m := by
  have h3 := h.1.symm
  have h8 := h.2.1.symm
  have ha := h.2.2.1.symm
  have hb := h.2.2.2.symm
  simp [Core.elementsDone, Core.orFlags, h3, h8, ha, hb]

theorem Core.elementsDone_vstart {k : Core} {record : Bool} {n : Nat} {active : Nat → Bool} {mz : Bool} {d : Dst}
    {tail : Bool} {val : Nat → Nat × Flags} : (k.elementsDone record n active mz d tail val).csrAt 0x003 = 0 := by
  simp [Core.elementsDone]

theorem Core.elementsDone_fflags {k : Core} {record : Bool} {n : Nat} {active : Nat → Bool} {mz : Bool} {d : Dst}
    {tail : Bool} {val : Nat → Nat × Flags} : (k.elementsDone record n active mz d tail val).fflags =
      k.fflags ||| (elemFlags active val (List.range' k.vstart (n - k.vstart)) 0).setWidth 64 := by
  simp [Core.elementsDone, Core.fflags, Core.orFlags]

/-- The flags of a list of elements, bit by bit. -/
theorem elemFlags_getLsbD (active : Nat → Bool) (val : Nat → Nat × Flags) (b : Nat) :
    ∀ (js : List Nat) (f : Flags), (elemFlags active val js f).getLsbD b = true ↔
      f.getLsbD b = true ∨ ∃ j ∈ js, active j = true ∧ (val j).2.getLsbD b = true
  | [], f => by simp [elemFlags]
  | j :: js, f => by
    have hs : elemFlags active val (j :: js) f =
        elemFlags active val js (if active j then f ||| (val j).2 else f) := rfl
    rw [hs, elemFlags_getLsbD active val b js]
    by_cases h : active j = true <;> simp [h, or_assoc]

/-- The vector unit after an element-wise form that writes a register. -/
theorem Core.elementsDone_vec {k : Core} {record : Bool} {n : Nat} {active : Nat → Bool} {mz : Bool} {code w : Nat}
    {tail : Bool} {val : Nat → Nat × Flags} : (k.elementsDone record n active mz (.vec code w 0) tail val).vec =
      k.vec.writeReg k.slices code w k.vcols
        ((List.range' k.vstart (n - k.vstart)).filterMap (elemEntry active mz val)).reverse
        (if tail && k.tailz then some n else none) := by
  have hc : ∀ (k : Core) (f : Flags) (a b : Word), ((((k.orFlags f).setCsr 0x00A a).setCsr 0x00B b)).vcols = k.vcols := by
    intro k f a b
    simp [Core.vcols, Core.orFlags]
  have hs : ∀ (k : Core) (f : Flags) (a b : Word), ((((k.orFlags f).setCsr 0x00A a).setCsr 0x00B b)).slices = k.slices := by
    intro k f a b
    simp [Core.slices, Core.orFlags]
  simp only [Core.elementsDone, Core.setCsr_vec, Core.vwrite, hc, hs, Core.orFlags_vec]
  simp

/-- An element of the destination after an element-wise form. -/
theorem Core.elementsDone_elem {k : Core} {record : Bool} {n : Nat} {active : Nat → Bool} {mz : Bool} {code w j : Nat}
    {tail : Bool} {val : Nat → Nat × Flags} (hc : code < 42) (hn : j < n) (hj : w * j + w ≤ codeBits code) :
    fld ((k.elementsDone record n active mz (.vec code w 0) tail val).vec.bitsOf code) (w * j) w =
      if k.vstart ≤ j ∧ active j = true then (val j).1 % 2 ^ w
      else if k.vstart ≤ j ∧ mz = true then 0 else fld (k.vec.bitsOf code) (w * j) w := by
  rw [Core.elementsDone_vec, VecUnit.writeReg_elem hc hj]
  · rw [List.reverse_reverse, find_elemEntry _ _ _ _ _ (List.nodup_range')]
    by_cases hv : k.vstart ≤ j
    · have hm : j ∈ List.range' k.vstart (n - k.vstart) := by simp; omega
      rw [if_pos hm]
      unfold elemEntry
      cases active j <;> cases mz <;> simp [hv]
    · have hm : j ∉ List.range' k.vstart (n - k.vstart) := by simp; omega
      rw [if_neg hm]
      simp [hv]
  · intro m hm
    split at hm
    · cases hm; exact hn
    · cases hm

/-! ### The ordinary form -/

/-- The value of a source operand at issue. -/
def Core.opnd (k : Core) (code : BitVec 7) : Opnd :=
  if code.getLsbD 6 then .bcast (k.rd (code.setWidth 6)) else .array code.toNat (k.vec.bitsOf code.toNat)

/-- A source operand is read when it names a vector, or a scalar that is not EMPTY. -/
theorem readOpnd_ok {s : State} {code : BitVec 7} (h : code.getLsbD 6 = true → s.self.empty (code.setWidth 6) = false) :
    readOpnd code s = .ok (s.self.opnd code) s := by
  unfold readOpnd Core.opnd
  by_cases hc : code.getLsbD 6 = true
  · simp only [hc, if_true, X.bind_apply, readX_ok (h hc), X.pure_apply]
  · rw [if_neg hc, if_neg hc]
    rfl

/-- An ordinary element-wise form whose operands can be read, that issues and that no element stops (R231). -/
theorem vForm_ok {word : Word} {f : VA} {arity : Nat} {op : Core → Nat → Nat → Nat → ElemOut}
    {val : Nat → Nat × Flags} {s : State} (ha : 1 ≤ arity)
    (hr : ∀ q ∈ vaSources f arity, q.1.getLsbD 6 = true → s.self.empty (q.1.setWidth 6) = false)
    (hi : Issues s.self (vaIssue word f ((vaSources f arity).flatMap fun q => srcOf q.1 q.2) (dstOf f.vd)))
    (hp : s.self.vec.poison = []) (hn : s.self.vrows * s.self.vcols ≠ 0)
    (hop : ∀ j, s.self.vstart ≤ j → j < s.self.vrows * s.self.vcols → s.self.activeBit f.msk j = true →
      op s.self ((s.self.opnd f.va).elem (ETwidth f.et) j)
        ((if 2 ≤ arity then s.self.opnd f.vb else .bcast 0).elem (ETwidth f.et) j)
        ((if 3 ≤ arity then s.self.opnd f.vc else .bcast 0).elem (ETwidth f.et) j) =
          .val (val j).1 (val j).2 ∧ s.self.trapping (val j).2 = false) :
    vForm word f arity op s = .ok () (s.modSelf (·.elementsDone (ETflt f.et) (s.self.vrows * s.self.vcols)
      (s.self.activeBit f.msk) (f.mz == 1) (.vec f.vd.toNat (ETwidth f.et) 0) true val)) := by
  have hrd : ∀ c, (∃ w, (c, w) ∈ vaSources f arity) → readOpnd c s = .ok (s.self.opnd c) s :=
    fun c ⟨w, hw⟩ => readOpnd_ok (hr (c, w) hw)
  have h1 : readOpnd f.va s = .ok (s.self.opnd f.va) s := hrd f.va ⟨f.wa, by
    obtain ⟨m, rfl⟩ : ∃ m, arity = m + 1 := ⟨arity - 1, by omega⟩
    simp [vaSources]⟩
  have h2 : 2 ≤ arity → readOpnd f.vb s = .ok (s.self.opnd f.vb) s := fun h => hrd f.vb ⟨f.wb, by
    obtain ⟨m, rfl⟩ : ∃ m, arity = m + 2 := ⟨arity - 2, by omega⟩
    simp [vaSources]⟩
  have h3 : 3 ≤ arity → readOpnd f.vc s = .ok (s.self.opnd f.vc) s := fun h => hrd f.vc ⟨f.wc, by
    obtain ⟨m, rfl⟩ : ∃ m, arity = m + 3 := ⟨arity - 3, by omega⟩
    simp [vaSources]⟩
  by_cases ha2 : 2 ≤ arity <;> by_cases ha3 : 3 ≤ arity <;> simp only [ha2, ha3, if_true, if_false] at hop <;>
    simp only [vForm, ha2, ha3, if_true, if_false, X.bind_apply, X.pure_apply, h1] <;> (try rw [h2 ha2]) <;>
    (try simp only []) <;> (try rw [h3 ha3]) <;>
    simp only [X.bind_apply, vIssue_ok hi, if_neg hn, X.self_apply] <;> exact vElements_ok hp hop

end Sys2Proof.Machine
end

