-- ==== Sys2Proof/Safety.lean ====
section
/-! DEFINITION. What counts as a safe run: the machine never stops. -/

namespace Sys2Proof.Safety

open Sys2Proof.Machine

/-- A step from s leads to t. -/
def Steps (s t : State) : Prop := step s = .next t

/-- The states a run from s reaches. -/
inductive Reaches : State → State → Prop where
  | refl (s : State) : Reaches s s
  | more {s t u : State} : Reaches s t → Steps t u → Reaches s u

/-- A run from s never stops with a fault or a refusal. -/
def Safe (s : State) : Prop := ∀ t, Reaches s t → ∃ u, Steps t u

/-- Every state a run from s reaches satisfies a property. -/
def Always (p : State → Prop) (s : State) : Prop := ∀ t, Reaches s t → p t

end Sys2Proof.Safety
end

