-- ==== Sys2Proof/Tests/Slice0.lean ====
section
/-! SUPPORT. Tests: ill-formed terms that WellFormed refuses; words written out from the encoding tables of the spec and the
instructions they stand for; the worked examples of the spec, one step each; and for each statement a state and operands
that meet its hypotheses. -/

namespace Sys2Proof.Tests

open Sys2Proof.Machine Sys2Proof.Claim

set_option maxRecDepth 100000
set_option exponentiation.threshold 3000
set_option Elab.async false

/-! ### Small states -/

/-- The machine after reset with a change of core 0. -/
def on (f : Core → Core) : State := State.reset.modSelf f

/-- Core 0 runs a task of one core whose next word is this one. -/
def runs (w : Nat) : State := State.reset.withFetchWord 64 w

/-- The same with a change of core 0. -/
def runsOn (w : Nat) (f : Core → Core) : State := (runs w).modSelf f

/-- One register of the core that moves after an outcome. -/
def regAfter (r : Out) (i : BitVec 6) : Option Word :=
  match r with
  | .next t => some (t.self.rd i)
  | _ => none

/-- One CSR of the core that moves after an outcome. -/
def csrAfter (r : Out) (n : Nat) : Option Word :=
  match r with
  | .next t => some (t.self.csrAt n)
  | _ => none

/-- The program counter after an outcome. -/
def pcAfter (r : Out) : Option Word :=
  match r with
  | .next t => some t.self.pc
  | _ => none

/-! ### Ill-formed terms, one for each check -/

/-- Unused register fields, shift counts, LI's xa, LIX's range, reserved types of FCVT, branch fields, an empty loop
(R187, R209, R216, R221, R222, R224). -/
theorem test_refuses_scalar :
    (Instr.add ⟨1, 2, 3, 4⟩).wellFormed = false ∧ (Instr.clz ⟨1, 2, 3, 0⟩).wellFormed = false ∧
    (Instr.shli ⟨1, 2, 64, none⟩).wellFormed = false ∧ (Instr.li ⟨1, 2, 3, none⟩).wellFormed = false ∧
    (Instr.lix ⟨1, 2, 0x100_0000, none⟩).wellFormed = false ∧ (Instr.fcvt .e2m1 .f32 ⟨1, 2, 0, 0⟩).wellFormed = false ∧
    (Instr.fcvt .f32 .i4 ⟨1, 2, 0, 0⟩).wellFormed = false ∧ (Instr.jmp ⟨1, 0, 5⟩).wellFormed = false ∧
    (Instr.jr ⟨1, 2, 0⟩).wellFormed = false ∧ (Instr.loop 0 ⟨1, 0, 0⟩).wellFormed = false ∧
    (Instr.loop 0 ⟨1, 2, 1⟩).wellFormed = false ∧ (Instr.loopi 1 ⟨1, 2, 0xFF_FFFF_FFFF⟩).wellFormed = false := by decide

/-- Sizes, orders, scopes, operation fields and unused fields of memory forms (R146, R196, R255, R276). -/
theorem test_refuses_scalar_memory :
    (Instr.ld ⟨1, 2, 3, 0, 0, 2, 0, none⟩).wellFormed = false ∧ (Instr.ld ⟨1, 2, 0, 0, 0, 7, 0, none⟩).wellFormed = false ∧
    (Instr.ld ⟨1, 2, 0, 2, 0, 2, 0, none⟩).wellFormed = false ∧ (Instr.st ⟨1, 2, 0, 1, 0, 2, 0, none⟩).wellFormed = false ∧
    (Instr.st ⟨1, 2, 0, 0, 6, 2, 0, none⟩).wellFormed = false ∧ (Instr.amoAdd ⟨1, 2, 3, 0, 0, 1, 0, none⟩).wellFormed = false ∧
    (Instr.amoAdd ⟨1, 2, 3, 0, 0, 2, 16, none⟩).wellFormed = false ∧
    (Instr.amoAdd ⟨1, 2, 3, 0, 0, 2, 0, some 0⟩).wellFormed = false ∧
    (Instr.fenceAcq ⟨1, 0, 0, 1, 0, 0, 0, none⟩).wellFormed = false ∧
    (Instr.fenceRel ⟨0, 0, 0, 1, 0, 0, 0, none⟩).wellFormed = false ∧
    (Instr.fenceFull ⟨0, 0, 0, 3, 6, 0, 0, none⟩).wellFormed = false ∧
    (Instr.deckPop ⟨1, 2, 3, 0, 0, 0, 5, none⟩).wellFormed = false ∧
    (Instr.claspArrive ⟨1, 2, 3, 0, 0, 0, 0, none⟩).wellFormed = false ∧
    (Instr.waita ⟨1, 2, 3, 0, 0, 2, 0, none⟩).wellFormed = false := by decide

/-- Operand codes of each kind, element types of each class, masks and zeroing (R187, R188, R234, R248, R252, R66). -/
theorem test_refuses_vector :
    (Instr.vadd ⟨42, 1, 2, 0, 0, 0, 0, 0, 0, .f32⟩).wellFormed = false ∧
    (Instr.vadd ⟨1, 63, 2, 0, 0, 0, 0, 0, 0, .f32⟩).wellFormed = false ∧
    (Instr.vadd ⟨1, 1, 2, 3, 0, 0, 0, 0, 0, .f32⟩).wellFormed = false ∧
    (Instr.vadd ⟨1, 1, 2, 0, 0, 0, 0, 0, 1, .f32⟩).wellFormed = false ∧
    (Instr.vadd ⟨1, 1, 2, 0, 0, 1, 0, 0, 0, .f32⟩).wellFormed = false ∧
    (Instr.vadd ⟨1, 1, 2, 0, 0, 0, 0, 0, 0, .e4m3⟩).wellFormed = false ∧
    (Instr.vmulh ⟨1, 1, 2, 0, 0, 0, 0, 0, 0, .f32⟩).wellFormed = false ∧
    (Instr.vsqrt ⟨1, 1, 0, 0, 0, 0, 0, 0, 0, .i32⟩).wellFormed = false ∧
    (Instr.vexp2 ⟨1, 1, 0, 0, 0, 0, 0, 0, 0, .f64⟩).wellFormed = false ∧
    (Instr.vcmpCc .eq ⟨0, 1, 2, 0, 0, 0, 0, 0, 0, .i32⟩).wellFormed = false ∧
    (Instr.vcmpCc .ltu ⟨1, 1, 2, 0, 0, 0, 0, 0, 0, .f32⟩).wellFormed = false ∧
    (Instr.vsel ⟨1, 1, 2, 0, 1, 1, 0, 0, 0, .i32⟩).wellFormed = false ∧
    (Instr.vbcast ⟨1, 1, 2, 0, 0, 0, 0, 0, 0, .i32⟩).wellFormed = false ∧
    (Instr.vmvx ⟨1, 1, 66, 0, 0, 0, 0, 0, 0, .i32⟩).wellFormed = false ∧
    (Instr.vred .xor ⟨65, 1, 0, 0, 0, 0, 0, 0, 0, .f32⟩).wellFormed = false ∧
    (Instr.mand ⟨1, 8, 2, 0, 0, 0, 0, 0, 0, .i8⟩).wellFormed = false ∧
    (Instr.vcvt .f32 ⟨1, 2, 0, 0, 0, 0, 0, 0, 0, .f16⟩).wellFormed = false ∧
    (Instr.vcvtNarrow .f32 ⟨1, 2, 0, 3, 0, 0, 0, 0, 0, .f16⟩).wellFormed = false ∧
    (Instr.vaddWac ⟨30, 0, 0, 0, 0, 0, 0, 0, 0, .wac⟩).wellFormed = false ∧
    (Instr.vmov ⟨1, 33, 0, 0, 0, 0, 0, 0, 0, .wac⟩).wellFormed = false ∧
    (Instr.vtopk ⟨31, 1, 66, 0, 0, 0, 0, 0, 0, .f32⟩).wellFormed = false ∧
    (Instr.vmeta ⟨1, 8, 0, 0, 0, 0, 0, 0, 0, .u32⟩).wellFormed = false := by decide

/-- Registers, indices, orders and types of vector memory forms (R257, R264, R265). -/
theorem test_refuses_vector_memory :
    (Instr.vldUnit ⟨42, 1, 0, 0, 0, 0, 0, .f32, 0, none⟩).wellFormed = false ∧
    (Instr.vldUnit ⟨30, 1, 0, 0, 0, 0, 0, .wac, 0, none⟩).wellFormed = false ∧
    (Instr.vldUnit ⟨1, 1, 5, 0, 0, 0, 0, .f32, 0, none⟩).wellFormed = false ∧
    (Instr.vldStrided ⟨1, 1, 5, 0, 0, 0, 0, .f32, 0, none⟩).wellFormed = false ∧
    (Instr.vldx ⟨1, 1, 70, 0, 0, 0, 0, .f32, 0, none⟩).wellFormed = false ∧
    (Instr.vldUnit ⟨1, 1, 0, 0, 0, 0, 2, .f32, 0, none⟩).wellFormed = false ∧
    (Instr.vstUnit ⟨1, 1, 0, 0, 0, 0, 1, .f32, 0, none⟩).wellFormed = false ∧
    (Instr.vldUnit ⟨1, 1, 0, 0, 1, 0, 0, .f32, 0, none⟩).wellFormed = false ∧
    (Instr.vsadd ⟨1, 1, 5, 0, 0, 0, 0, .i16, 0, none⟩).wellFormed = false ∧
    (Instr.vamo ⟨1, 1, 5, 0, 0, 0, 0, .f32, 0, none⟩).wellFormed = false ∧
    (Instr.vamo ⟨1, 1, 5, 0, 0, 0, 0, .u32, 10, none⟩).wellFormed = false ∧
    (Instr.vspill ⟨32, 1, 0, 0, 0, 0, 0, .f32, 0, none⟩).wellFormed = false ∧
    (Instr.vspill ⟨1, 1, 0, 1, 0, 0, 0, .f32, 0, none⟩).wellFormed = false := by decide

/-- Fields, modes and immediates of tile and engine forms; system fields, CSR numbers, queue handles (R266, R272, R283, R296, R319,
R336, R359, R197). -/
theorem test_refuses_tiles_and_engines :
    (Instr.tfree ⟨1, 2, 0, 0, 0, 0, none⟩).wellFormed = false ∧ (Instr.talloc ⟨1, 2, 0, 3, 2, 0, none⟩).wellFormed = false ∧
    (Instr.tfree ⟨1, 0, 0, 0, 0, 1, none⟩).wellFormed = false ∧ (Instr.tld ⟨42, 1, 2, 3, 0, 1, none⟩).wellFormed = false ∧
    (Instr.vpln ⟨1, 0, 2, 0, 6, 0, none⟩).wellFormed = false ∧ (Instr.vpln ⟨1, 0, 2, 0, 10, 24, none⟩).wellFormed = false ∧
    (Instr.tnbr ⟨0, 1, 2, 3, 0, 16, none⟩).wellFormed = false ∧ (Instr.copy ⟨1, 2, 3, 4, 0, 0, 8, 0⟩).wellFormed = false ∧
    (Instr.copy ⟨1, 2, 3, 4, 5, 0, 0, 0⟩).wellFormed = false ∧ (Instr.mma ⟨1, 2, 3, 0, 0, 0, 0x80, 0⟩).wellFormed = false ∧
    (Instr.mma ⟨1, 2, 3, 0, 0, 0, 0x3E, 0⟩).wellFormed = false ∧
    (Instr.potOpen ⟨1, 2, 3, 0, 0, 0, 4, 0⟩).wellFormed = false ∧
    (Instr.potSend ⟨1, 2, 0, 0, 32, 0, 0, 0⟩).wellFormed = false ∧ (Instr.fbind ⟨1, 2, 0, 0, 0, 0, 64, 0⟩).wellFormed = false ∧
    (Instr.fop ⟨1, 2, 3, 0, 0, 0, 1, 0, none⟩).wellFormed = false ∧ (Instr.nop ⟨0, 0, 1, none⟩).wellFormed = false ∧
    (Instr.done ⟨0, 0, 0x1_0000, none⟩).wellFormed = false ∧ (Instr.csrrd 0x006 ⟨1, 0, 0, none⟩).wellFormed = false ∧
    (Instr.enq ⟨1, 2, 0x1_0000, none⟩).wellFormed = false ∧ (Instr.keyselBind ⟨1, 2, 64, none⟩).wellFormed = false ∧
    (Instr.keyselUnbind ⟨1, 2, 5, none⟩).wellFormed = false := by decide

/-! ### Witnesses: scalar instructions and control -/

/-- O1 to O3, O6: registers that hold values are ready; a divisor that is not 0, 0 with and without IDZT.EN. -/
theorem witness_scalar_registers :
    ready (on fun k => k.wr 2 7) [2, 3, 1] ∧ (on fun k => k.wr 2 7).self.rd 2 ≠ 0 ∧
    ready State.reset [2, 3, 1] ∧ State.reset.self.rd 3 = 0 ∧ (State.reset.self.csrAt 0x110).getLsbD 0 = false ∧
    ready (on fun k => k.setCsr 0x110 1) [2, 3, 1] ∧ (on fun k => k.setCsr 0x110 1).self.rd 3 = 0 ∧
    ((on fun k => k.setCsr 0x110 1).self.csrAt 0x110).getLsbD 0 = true ∧
    (on fun k => k.setCsr 0x110 1).self.tf = false := by
  unfold ready; decide +kernel

/-- Bit fields, comparisons, immediates: four registers ready; an immediate of 63 and one of 2^24 - 1. -/
theorem witness_scalar_immediates :
    ready State.reset [2, 3, 4, 1] ∧ (SI.value ⟨1, 2, 63, none⟩).toNat ≤ 63 ∧
    (SI.value ⟨1, 2, 0xFF_FFFF, none⟩).toNat < 2 ^ 24 := by
  unfold ready; decide +kernel

/-- Scalar floating point: a flag that FPEN enables, with no frame live, and one that it does not. -/
theorem witness_scalar_float :
    State.reset.self.trapping flagNV = false ∧ (on fun k => k.setCsr 0x103 0x10).self.trapping flagNV = true ∧
    (on fun k => k.setCsr 0x103 0x10).self.tf = false := by decide +kernel

/-- Jumps: a register that holds an aligned address and one that holds 4. -/
theorem witness_jumps :
    ready State.reset [2, 1] ∧ (State.reset.self.rd 2 + 0 : Word).extractLsb' 0 3 = 0 ∧
    ready (on fun k => k.wr 2 4) [2] ∧ ((on fun k => k.wr 2 4).self.rd 2 + 0 : Word).extractLsb' 0 3 ≠ 0 ∧
    (on fun k => k.wr 2 4).self.tf = false := by
  unfold ready; decide +kernel

/-- Loop ends: the inner loop ends here with 2 and with 1 left, the outer with 2 and with 1, and neither. -/
theorem witness_loop_ends :
    let inner := fun n => (Core.reset.setCsr 0x033 n).setCsr 0x035 (addrField Core.reset.pc)
    let outer := fun n => (Core.reset.setCsr 0x030 n).setCsr 0x032 (addrField Core.reset.pc)
    ((inner 2).csrAt 0x033 ≠ 0 ∧ (inner 2).csrAt 0x035 = addrField (inner 2).pc ∧ 1 < ((inner 2).csrAt 0x033).toNat) ∧
    ((inner 1).csrAt 0x033 ≠ 0 ∧ ((inner 1).csrAt 0x033).toNat = 1) ∧
    ((outer 2).csrAt 0x033 = 0 ∧ (outer 2).csrAt 0x032 = addrField (outer 2).pc ∧ 1 < ((outer 2).csrAt 0x030).toNat) ∧
    ((outer 1).csrAt 0x033 = 0 ∧ ((outer 1).csrAt 0x030).toNat = 1) ∧
    (Core.reset.csrAt 0x030 = 0 ∧ Core.reset.csrAt 0x033 = 0) := by decide +kernel

/-! ### Witnesses: vector instructions -/

/-- Core 0 with a shape of 1 row and 4 columns of this EW code, and a further change. -/
def vecs (ew : Nat) (f : Core → Core := id) : State :=
  on fun k => f (((k.setCsr 0x000 (toWord ew)).setCsr 0x001 1).setCsr 0x002 4)

/-- No flag is enabled in these states: no element traps (R358). -/
theorem witness_no_trap : ∀ fl : Flags,
    (vecs 0).self.trapping fl = false ∧ (vecs 1).self.trapping fl = false ∧ (vecs 2).self.trapping fl = false ∧
    (vecs 3).self.trapping fl = false ∧ (vecs 4).self.trapping fl = false ∧ (vecs 5).self.trapping fl = false := by
  decide +kernel

/-- Every governing width issues with registers and with a scalar operand, over a shape that holds elements, VSTART 0. -/
theorem witness_issues :
    wholes (vecs 0) 0 [1, 2, 3, 64 + 5] ∧ wholes (vecs 1) 1 [1, 2, 3, 64 + 5] ∧ wholes (vecs 2) 2 [1, 2, 3, 64 + 5] ∧
    wholes (vecs 3) 3 [1, 2, 3, 64 + 5] ∧ wholes (vecs 4) 4 [1, 2, 3, 64 + 5] := by
  refine ⟨?_, ?_, ?_, ?_, ?_⟩ <;> dsimp only [wholes, issues, admits] <;> decide +kernel

/-- An element computed, an inactive one and one before VSTART. -/
theorem witness_live :
    live (vecs 3).self 0 3 ∧ ¬live (vecs 3).self 1 3 ∧ ¬live (vecs 3 fun k => k.setCsr 0x003 2).self 0 1 := by
  unfold live; decide +kernel

/-- VDIV: IDZT.EN is 0; an integer divisor is 0. Comparisons: a mask register as destination. -/
theorem witness_vector_forms :
    ((vecs 3).self.csrAt 0x110).getLsbD 0 = false ∧ source (vecs 3).self 2 32 0 = 0 ∧
    ETfmt .f32 = some fp32 ∧ ((0 : BitVec 7) + 64 + 5).getLsbD 6 = true ∧ (3 : BitVec 7).getLsbD 6 = false ∧
    (fp32.decode 0x7FC0_0000).isNaN = true ∧
    source (vecs 3 fun k => k.wr 5 0x7FC0_0000).self (64 + 5) 32 0 = 0x7FC0_0000 := by decide +kernel

/-- Reply slots are free for a scalar destination. -/
theorem witness_slot : slotFree (vecs 3) 7 ∧ slotFree State.reset 7 := by unfold slotFree; decide +kernel

/-- Whole-register forms: 4 elements fill a tree of height 2, 1 element one of height 0; VSTART = 2 with a shape. -/
theorem witness_whole :
    (4 ≤ 2 ^ 2 ∧ ((2 : Nat) = 0 ∨ 2 ^ (2 - 1) < 4)) ∧ (1 ≤ 2 ^ 0 ∧ ((0 : Nat) = 0 ∨ 2 ^ (0 - 1) < 1)) ∧
    issues (vecs 3 fun k => k.setCsr 0x003 2) 3 [1, 2] ∧ (vecs 3 fun k => k.setCsr 0x003 2).self.vstart ≠ 0 ∧
    (vecs 3 fun k => k.setCsr 0x003 2).self.tf = false := by
  dsimp only [issues, admits]; decide +kernel

/-- VTRANS and VPUSH: what a transposed row and a push of four elements to position 0 leave. -/
theorem witness_push :
    let k := (vecs 3).self
    let new := fun j => if j = 0 then some (source k 1 32 3) else none
    (∀ i < 4, (fun j => some (source k 1 32 j)) (i % 4 * 1 + i / 4) = some (source k 1 32 i)) ∧
    (∀ i < 4, source k 2 32 i = 0) ∧ new 0 = some (source k 1 32 3) ∧ ∀ j < 4, j ≠ 0 → new j = none := by
  dsimp only; decide +kernel

/-- Masks: m1 with bits 1 and 2 set, the lowest active one 1; m2 with none; EW 3 is not reserved. -/
theorem witness_masks :
    let s := vecs 3 fun k => { k with vec := { k.vec with m := k.vec.m.set 1 0b0110 } }
    issues s s.self.ew [] ∧ s.self.ew ≤ 5 ∧ s.self.vrows * s.self.vcols ≠ 0 ∧
    ((List.range 4).filter fun j => s.self.vec.maskBit 0 j && s.self.vec.maskBit 1 j) = [1, 2] ∧
    ((List.range 4).filter fun j => s.self.vec.maskBit 0 j && s.self.vec.maskBit 2 j) = [] ∧
    ∀ j < 4, (decide (j < s.self.vcols) && s.self.vec.maskBit 1 j) = (j == 1 || j == 2) := by
  dsimp only [issues, admits]; decide +kernel

/-- VTOPK: two registers for the result; its 32-bit type. -/
theorem witness_topk : wholes (vecs 3) 3 [1, 1 + 1, 2, 64 + 5] ∧ 16 ≤ ETwidth .f32 ∧ (1 : BitVec 7).toNat ≤ 30 := by
  dsimp only [wholes, issues, admits]; decide +kernel

/-- Conversions: 4 elements fit from offset 0 in a register, an o-file and a wider type; a narrow source. -/
theorem witness_conversion :
    issues (vecs 2) (ETew .f16) [1, 2] ∧ 0 + 4 ≤ (vecs 2).self.capBits / ETwidth .f16 ∧ 0 + 4 ≤ 1024 ∧
    (∃ neg m e, elemVal .f32 0x3F80_0000 = .num neg m e ∧ m ≠ 0) ∧ (∃ neg, elemVal .f32 0xFF80_0000 = .inf neg) ∧
    ETfmt .e4m3 = some fpE4M3 := by
  refine ⟨by dsimp only [issues, admits]; decide +kernel, by decide +kernel, by decide, ⟨_, _, _, rfl, by decide⟩, ⟨_, rfl⟩, rfl⟩

/-- VSCALE: a block with a NaN, a block of zeros, a block with a number; FP32. -/
theorem witness_scale :
    (elemVal .f32 0x7FC0_0000).isNaN = true ∧ (∀ j < 4, (elemVal .f32 (source (vecs 3).self 2 32 j)).isZero = true) ∧
    source (vecs 3 fun k => k.wr 5 0x3F80_0000).self (64 + 5) 32 0 = 0x3F80_0000 := by decide +kernel

/-- Wide accumulators: a group of three registers and a scalar. -/
theorem witness_wac : issues (vecs 5) 5 (group 3 ++ (group 6 ++ group (64 + 5))) ∧ (3 : BitVec 7).toNat ≤ 29 ∧
    (64 + 5 : BitVec 7).getLsbD 6 = true ∧ 4 ≤ (vecs 5).self.capBits / 64 := by
  dsimp only [issues, admits, group]; decide +kernel

/-- No trap is enabled: a shape of four elements that fit, a scalar operand, a reply slot. -/
theorem witness_untrapped :
    (vecs 2).self.fpen = 0 ∧ (vecs 3).self.fpen = 0 ∧ (vecs 5).self.fpen = 0 ∧ (1 : BitVec 7).getLsbD 6 = false ∧
    ETflt .f32 = true ∧ ETint .i32 = true ∧ (vecs 3).self.vrows * (vecs 3).self.vcols = 4 ∧
    0 + 4 ≤ (vecs 3).self.capBits / ETwidth .f16 ∧ ((vecs 3).self.rd (scalarOf (64 + 5))).toNat + 4 ≤ 1024 ∧
    0 + 4 ≤ (vecs 5).self.capBits / ETwidth .f64 ∧ slotFree (vecs 3) 7 := by
  dsimp only [slotFree]; decide +kernel

/-- The forms of each governing width issue there, with one register, with two, with a group and with none. -/
theorem witness_untrapped_issues :
    issues (vecs 2) (ETew .bf16) [1, 2] ∧ issues (vecs 3) (vecs 3).self.ew [] ∧ wholes (vecs 3) 3 [1] ∧
    issues (vecs 5) 5 (group 3 ++ [2]) ∧ issues (vecs 5) 5 (1 :: group 6) := by
  refine ⟨?_, ?_, ?_, ?_, ?_⟩ <;> dsimp only [wholes, issues, admits, group] <;> decide +kernel

/-- A signalling NaN with every flag enabled traps at the lowest element; a division by zero under IDZT.EN = 1; no frame is live. -/
theorem witness_vector_stops :
    let s := vecs 3 fun k => (k.setCsr 0x103 0x1F).wr 5 0x7F80_0001
    let z := vecs 3 fun k => k.setCsr 0x110 1
    (admits s 3 [1, 2, 64 + 5] ∧ s.self.vec.poison = [] ∧ s.self.tf = false ∧ (live s.self 0 0 ∧ live s.self 0 1) ∧
      s.self.trapping (num .f32 0 fun F => F.add s.self.rm (source s.self 2 32 0) (source s.self (64 + 5) 32 0)).2 = true ∧
      s.self.trapping (cmpElem .f32 .lt (source s.self 2 32 0) (source s.self (64 + 5) 32 0)).2 = true) ∧
    (z.self.csrAt 0x110).getLsbD 0 = true ∧ live z.self 0 0 ∧ source z.self 2 32 0 = 0 ∧ z.self.tf = false := by
  dsimp only [admits, live]; decide +kernel

/-! ### Witnesses: system, configuration and memory instructions -/

/-- The supervisor's core of a task of tenant 0. -/
def super (f : Core → Core := id) : State := runsOn 0 fun k => f { k with priv := .super }

/-- Moves and joins are ready; the page of address 0 is mapped and 8 bytes of it lie in it; no frame is live. -/
theorem witness_system_forms :
    ready (runs 0) [2] ∧ (runs 0).pageOf 0 = some 0x6000 ∧ (0 : Word).toNat % 4096 + 8 ≤ 4096 ∧ (runs 0).self.tf = false ∧
    ((runs 0).self.rd 2) = 0 := by
  dsimp only [ready]; decide +kernel

/-- Traps: a frame live under a running task; a cause below 2^63; each privilege. -/
theorem witness_traps :
    (super fun k => k.setCsr 0x103 0x100).self.tf = true ∧ (super fun k => k.setCsr 0x103 0x100).self.tk.task = some 0 ∧
    0x12 < 2 ^ 63 ∧ (runs 0).self.priv = .user ∧ super.self.priv = .super ∧
    (super fun k => { k with priv := .machine }).self.priv = .machine ∧
    (runs 0).self.tk.task.bind (runs 0).task = some placeTask := by decide +kernel

/-- CSRs: SUPER's number at USER; ordinary numbers; a frame copy; COREID; VFX0 while no matrix operation is under way. -/
theorem witness_csrs :
    ready (runs 0) [2, 1] ∧ (0 : Nat) < 1 ∧ frameIndex 0x010 = none ∧ (0x010 : Nat) ∉ [0x008, 0x024, 0x050, 0x063, 0x122] ∧
    frameIndex 0x030 = some 0 ∧ (super fun k => k.setCsr 0x103 0x100).self.tf = true ∧
    (runs 0).self.eng.mats = [] := by dsimp only [ready]; decide +kernel

/-- KEYSEL: a handle with bits above 15; no RUN; RUN without and with the key. -/
theorem witness_keysel :
    let r : State := { super with sec := { super.sec with tdi := super.sec.tdi.set 0 .run, keys := [⟨1, 0, 0, some 0⟩] } }
    super.self.priv ≠ .user ∧ ready super [2] ∧ slotFree super 1 ∧ bits (0x1_0000 : Word) 16 16 ≠ 0 ∧
    (super fun k => k.wr 2 0x1_0000).self.rd 2 = 0x1_0000 ∧ super.self.func = 1 ∧
    bits (super.self.rd 2) 16 16 = 0 ∧ super.inRun 1 = false ∧ r.inRun 1 = true ∧ r.keyOf 1 0 ≠ none ∧ r.keyOf 1 1 = none :=
  by dsimp only [ready, slotFree]; decide +kernel

/-- YIELD and DONE: a noticed member; a command that is BUSY; nothing outstanding beside a member that runs on. -/
theorem witness_yield :
    (super fun k => { k with tk := { k.tk with preempt := .noticed } }).self.tk.preempt = .noticed ∧
    (runsOn 0 fun k => { k with replies := [⟨[(1, 0)]⟩] }).self.replies ≠ [] ∧
    (runs 0).self.eng.handles.toList.any (·.st == .busy) = false ∧ (runs 0).self.eng.events = [] ∧
    (runs 0).self.eng.copies = [] ∧
    (1 : CoreId) ≠ (runs 0).cur ∧ ((runs 0).core 1).tk.finished = false := by decide +kernel

theorem witness_done_joins : (runs 0).closePots 0 0 = runs 0 ∧ (runs 0).closeJoins 0 0 = runs 0 :=
  have hc : (runs 0).ctxAt 0 0 = none := by decide +kernel
  have ht : ((runs 0).core 0).tk.task = some 0 := by decide +kernel
  ⟨State.closePots_none hc ht (by decide +kernel), State.closeJoins_free hc ht (by decide +kernel)⟩

/-- Configuration: an EW that is not reserved and one that is. -/
theorem witness_configuration :
    ready (vecs 3) [2, 3, 1] ∧ ready (vecs 3) [2, 3, 4] ∧ (vecs 3).self.ew ≤ 5 ∧ 5 < (vecs 6).self.ew ∧
    (vecs 6).self.tf = false := by dsimp only [ready]; decide +kernel

/-- The translation of page 0 to the page at 0x6000, in the core's TLB: not cached. -/
def ent : TlbEntry := { tenant := 0, asid := 0, level := 0, big := false, vpn := 0, pte := 0x61BF }

/-- The same page, cached. -/
def entCached : TlbEntry := { ent with pte := 0x60BF }

/-- A thread that reaches page 0. -/
def maps (e : TlbEntry) (f : Core → Core := id) : State :=
  runsOn 0 fun k => f { k with cache := { k.cache with tlb := [e] } }

/-- Loads and stores: an aligned address of a cached and of an uncached page, with nothing in the way; the line in the L1. -/
theorem witness_scalar_memory :
    ready (maps ent) [2] ∧ ready (maps ent) [2, 1] ∧ slotFree (maps ent) 1 ∧
    mapped (maps ent) 0 { kind := 0, n := 8 } ent ∧ mapped (maps ent) 0 { kind := 1, n := 8 } ent ∧
    rawReadOk 8 ent.pte 0x6000 = true ∧ uncached (maps ent) ent 0x6000 = true ∧
    mapped (maps entCached) 0 { kind := 0, n := 8 } entCached ∧ uncached (maps entCached) entCached 0x6000 = false ∧
    (maps entCached).self.l1Line (lineKey (maps entCached) entCached 0x6000) = none ∧
    (maps entCached fun k => { k with cache := { k.cache with l1d := [⟨.addr none 0x60, 5, none⟩] } }).self.l1Line
      (.addr none 0x60) ≠ none ∧ (maps ent).ms.poison = [] ∧ (∀ h ∈ (maps ent).ms.homes, h.poison = 0) := by
  dsimp only [ready, slotFree, mapped, mappedFor]; decide +kernel

theorem witness_at_rest : atRest (maps ent) 0x6000 8 none := by
  refine ⟨by decide +kernel, fun l h => ?_, fun h hh => ?_⟩
  · exact absurd h (by rw [show (maps ent).ms.hdm = [] by decide +kernel]; simp)
  · exact absurd hh (by rw [show (maps ent).ms.homes = [] by decide +kernel]; simp)

/-- Addresses that are not aligned. -/
theorem witness_misaligned : (4 : Word).toNat % 8 ≠ 0 ∧ (maps ent fun k => k.wr 2 4).self.rd 2 = 4 ∧
    (maps ent fun k => k.wr 2 4).self.tf = false := by decide +kernel

/-- Atomics: the MSU reaches the word; sizes of 4 and of 8 bytes. A fence with one addend under way; epochs below the end. -/
theorem witness_atomics :
    mapped (maps ent) 0 { kind := 3, n := 4, msu := true } ent ∧ mapped (maps ent) 0 { kind := 3, n := 8, msu := true } ent ∧
    (maps ent).ms.repoch[(clusterOf (maps ent).cur).toNat] < 0xFFFF := by
  dsimp only [mapped, mappedFor]; decide +kernel

/-! ### Witnesses: vector memory -/

/-- Core 0 with a shape of one element of this EW code in this SPACE, tile 0 READY over 4 KiB, x20 = 0, x21 = 16. -/
def one (ew space : Nat) (e : TlbEntry) (f : Core → Core := id) : State :=
  maps e fun k => f { ((((k.setCsr 0x000 (toWord (ew + 64 * space))).setCsr 0x001 1).setCsr 0x002 1).wr 21 16) with
    tiles := k.tiles.set 0 { Tile.free with v := true, st := .ready, size := 1 } }

/-- A load of one 32-bit element to v1, indexed by v5 or by x21. -/
def vm (idx : BitVec 7) : VM := ⟨1, 20, idx, 0, 0, 0, 0, .f32, 0, none⟩

theorem witness_vector_accesses :
    accesses (one 3 1 ent) (vm 0) .unit ∧ accesses (one 3 1 ent) (vm (64 + 21)) .strided ∧
    accesses (one 3 1 ent) (vm 5) .indexed ∧ (one 3 1 ent).self.space = 1 ∧
    accesses (one 3 0 ent) (vm 0) .unit ∧ accesses (one 3 0 ent) (vm (64 + 21)) .strided ∧
    accesses (one 3 0 ent) (vm 5) .indexed ∧ (one 3 0 ent).self.space = 0 ∧ (one 3 0 ent).self.cache.pin = none ∧
    accesses (one 3 2 ent) (vm 5) .indexed ∧ (one 3 2 ent).self.space = 2 := by
  refine ⟨?_, ?_, ?_, ?_, ?_, ?_, ?_, ?_, ?_, ?_, ?_⟩ <;> (try dsimp only [accesses, issues, admits, registers, released]) <;> decide +kernel

/-- The one element of these shapes. -/
theorem one_live {ew space : Nat} {e : TlbEntry} {j : Nat} (hr : (one ew space e).self.vrows * (one ew space e).self.vcols = 1)
    (h : live (one ew space e).self 0 j) : j = 0 := by
  have := h.2.1
  omega

/-- The anchor's page where its address translates. -/
theorem anchor_of {c : Ctx} {a : Word} {s : State} {n : Nat}
    (h : (match atomically (resolveGlobal c a { kind := 0, n := 1 } anyFormat) s with
      | .ok h _ => pteFmt h.pte == n
      | .error _ _ => false) = true) : anchorFmt c a s = .ok (some n) s := by
  unfold anchorFmt
  split at h
  · rename_i heq
    simp only [heq]
    rw [eq_of_beq h]
  · exact absurd h (by decide)

/-- A read at a displacement that is known. -/
theorem reads_of {s : State} {f : VM} {fmt j v : Nat} {how : Shape} {d : Int × Nat} (hd : loadAt s f fmt how j = d)
    (h : ((loadMem s f fmt).place (s.ctxOf s.cur) d.1 d.2 (s.self.repin j) >>= fun p => p.read (s.ctxOf s.cur)
      (loadMem s f fmt).half 0) s = .ok v s) : readsAt s f fmt how j v := by
  unfold readsAt
  simp only [hd]
  exact h

/-- The line of the page at 0x6000 in the L1 data cache. -/
def line (k : Core) : Core := { k with cache := { k.cache with l1d := [⟨.addr none 0x60, 0, none⟩] } }

/-- Reads of SCRATCH and of a cached page, of each shape of displacement; the anchor's page has no format. -/
theorem witness_reads :
    readsAt (one 3 1 ent) (vm 0) 0 .unit 0 0 ∧ readsAt (one 3 1 ent) (vm (64 + 21)) 0 .strided 0 0 ∧
    readsAt (one 3 1 ent) (vm 5) 0 .indexed 0 0 ∧ readsAt (one 3 0 entCached line) (vm 0) 0 .unit 0 0 ∧
    accesses (one 3 0 entCached line) (vm 0) .unit ∧
    anchorFmt ((one 3 0 ent).ctxOf (one 3 0 ent).cur) 0 (one 3 0 ent) = .ok (some 0) (one 3 0 ent) :=
  ⟨rfl, rfl, reads_of (show loadAt (one 3 1 ent) (vm 5) 0 .indexed 0 = (0, 0) by decide +kernel) rfl, rfl,
    by dsimp only [accesses, issues, admits, registers, released]; decide +kernel, anchor_of (by decide +kernel)⟩

/-- A tile covers the bytes; an uncached page of format 0 at rest. -/
theorem witness_places :
    scratchOpen (one 3 1 ent) 0 4 4 ∧ mapped (one 3 0 ent) 0 { kind := 0, n := 4 } ent ∧
    mapped (one 3 0 ent) 0 { kind := 1, n := 4 } ent ∧
    mapped (one 3 0 ent) 0 { kind := 3, n := 4, msu := true, noHost := true } ent ∧
    mapped (one 3 0 ent) 0 { kind := 3, n := 4, msu := true } ent ∧ pteFmt ent.pte = 0 ∧
    uncached (one 3 0 ent) ent 0x6000 = true ∧ (one 3 0 ent).ms.chains = [] ∧ (one 3 0 ent).ms.hdm = [] ∧
    (one 3 0 ent).ms.homes = [] ∧ (one 3 0 ent).self.scratchPoison = [] := by
  refine ⟨⟨rfl, by decide, 0, by decide +kernel⟩, ?_, ?_, ?_, ?_, ?_⟩ <;> (try dsimp only [mapped, mappedFor]) <;> decide +kernel

/-- One element has no other to meet. -/
theorem witness_apart : apart (one 3 1 ent).self 0 (fun _ => 0) 4 := by
  intro i j hi hj h
  exact absurd ((one_live (by decide +kernel) hi).trans (one_live (by decide +kernel) hj).symm) h

/-- A page of BF16 elements (FMT 8), cached. -/
def entBf16 : TlbEntry := { ent with pte := 0x0080_0000_0000_60BF }

theorem witness_formatted :
    accesses (one 3 0 entBf16 line) (vm 0) .unit ∧
    anchorFmt ((one 3 0 entBf16 line).ctxOf 0) 0 (one 3 0 entBf16 line) = .ok (some 8) (one 3 0 entBf16 line) ∧
    readsAt (one 3 0 entBf16 line) (vm 0) 8 .unit 0 0 ∧
    ∃ h n nib addr, (loadMem (one 3 0 entBf16 line) (vm 0) 8).place ((one 3 0 entBf16 line).ctxOf 0) 0 0
      ((one 3 0 entBf16 line).self.repin 0) (one 3 0 entBf16 line) = .ok ⟨[(.plain h, n)], nib, addr⟩ (one 3 0 entBf16 line) ∧
      ∃ x, scaledVal ((one 3 0 entBf16 line).ctxOf 0) h 8 0 0 nib 0 addr (one 3 0 entBf16 line) = .ok x (one 3 0 entBf16 line) :=
  ⟨by dsimp only [accesses, issues, admits, registers, released]; decide +kernel, anchor_of (by decide +kernel),
    reads_of (show loadAt (one 3 0 entBf16 line) (vm 0) 8 .unit 0 = (0, 0) by decide +kernel) rfl, _, _, _, _, rfl, _, rfl⟩

/-- PEER: an element that reads. -/
theorem witness_peer : readsAt (one 3 2 ent) (vm 5) 0 .indexed 0 0 := 
  reads_of (show loadAt (one 3 2 ent) (vm 5) 0 .indexed 0 = (0, 0) by decide +kernel) rfl

/-- Spill frames: two words in the tile; the frame's header in SCRATCH. -/
def framed : State := one 3 1 ent fun k => { k with scratch := k.scratch.write 0 8 (1 * 2 ^ 23 + 1 * 2 ^ 16 + 3) }

theorem witness_frames :
    (∀ j < 2, (BitVec.ofInt 64 ((0 : Nat) + ((0 : Int) + (8 * j : Nat))) : Word).toNat = 8 * j) ∧
    scratchOpen framed 0 8 8 ∧ scratchOpen framed 8 8 8 ∧ framed.self.scratch.read 0 8 = 1 * 2 ^ 23 + 1 * 2 ^ 16 + 3 ∧
    framed.self.vcols < 2 ^ 17 ∧ issues framed 3 [1] ∧ framed.self.vstart = 0 ∧ framed.self.empty 20 = false := by
  refine ⟨by decide +kernel, ⟨rfl, by decide, 0, by decide +kernel⟩, ⟨rfl, by decide, 0, by decide +kernel⟩,
    by decide +kernel, by decide +kernel, ?_, by decide +kernel, by decide +kernel⟩
  dsimp only [issues, admits]; decide +kernel

/-- PEER: an element whose core no member of the gang of one has. -/
theorem witness_peer_fault :
    loadAt (one 3 2 ent fun k => { k with vec := { k.vec with v := k.vec.v.set 5 0x40_0000 } }) (vm 5) 0 .indexed 0 =
      (0x100_0000, 0) ∧
    ∃ tv, ((loadMem (one 3 2 ent) (vm 5) 0).place ((one 3 2 ent).ctxOf (one 3 2 ent).cur) 0x100_0000 0
      ((one 3 2 ent).self.repin 0) >>= fun p => p.read ((one 3 2 ent).ctxOf (one 3 2 ent).cur)
      (loadMem (one 3 2 ent) (vm 5) 0).half 0) (one 3 2 ent) = .error (.trap 0x11 tv) (one 3 2 ent) :=
  ⟨by decide +kernel, _, rfl⟩

/-! ### Witnesses: tiles, tensors, engines -/

/-- Core 0 with this entry as its tile 0. -/
def tiled (e : Tile) (f : Core → Core := id) : State := runsOn 0 fun k => f { k with tiles := k.tiles.set 0 e }

/-- A tile of this state over the first 4 KiB. -/
def tile (st : TileState) : Tile := { Tile.free with v := true, st := st, size := 1 }

theorem freeRun_of {k : Core} {b n : Nat} (h : b + n ≤ 2048) (ht : k.tiles.toList.all (fun e => !e.v) = true) :
    freeRun k b n :=
  ⟨h, fun u _ _ e he hv => absurd (List.all_eq_true.mp ht e he) (by simp [hv])⟩

/-- Room for one unit at 0, and within the quota; no room where one tile takes up the whole scratchpad. -/
theorem witness_room :
    freeRun (runs 0).self 0 1 ∧ (runs 0).self.unitsHeld + 1 ≤ (runs 0).quota (runs 0).self ∧
    ∀ b, ¬freeRun (tiled { tile .ready with size := 2048 }).self b 1 := by
  refine ⟨freeRun_of (by decide) (by decide +kernel), by decide +kernel, fun b h => ?_⟩
  have := h.2 b (Nat.le_refl b) (by omega) { tile .ready with size := 2048 } (by decide +kernel) rfl
  have h1 : b + 1 ≤ 2048 := h.1
  have h2 : ({ tile .ready with size := 2048 } : Tile).base.toNat = 0 := rfl
  have h3 : ({ tile .ready with size := 2048 } : Tile).size.toNat = 2048 := rfl
  omega

/-- Allocation: sizes of 1, 0 and 2,049 units; a free entry and one in use. Release and status: each state of an entry. -/
theorem witness_allocation :
    ready (runs 0) [2, 3] ∧ slotFree (runs 0) 1 ∧ ((runs 0).self.rd 2 + 1).toNat = 1 ∧ ((runs 0).self.rd 2 + 0).toNat = 0 ∧
    2048 < ((runs 0).self.rd 2 + 2049).toNat ∧ ((runs 0).self.tile 0).v = false ∧ (runs 0).self.tf = false ∧
    ((tiled (tile .empty)).self.tile 0).v = true ∧ ((tiled (tile .empty)).self.tile 0).st = .empty ∧
    ((tiled (tile .poisoned)).self.tile 0).st = .poisoned ∧
    (((tiled (tile .ready)).self.tile 0).st = .ready ∧ ((tiled (tile .ready)).self.tile 0).readers = 0) ∧
    ((tiled { tile .ready with readers := 1 }).self.tile 0).readers ≠ 0 ∧
    ((tiled (tile .filling)).self.tile 0).st = .filling ∧ ((tiled (tile .filling)).self.tile 0).susp = false ∧
    ((tiled (tile .filling)).self.tile 0).pot = false ∧ ((tiled { tile .filling with pot := true }).self.tile 0).pot = true ∧
    ((tiled { tile .draining with susp := true }).self.tile 0).susp = true ∧
    ((tiled (tile .ready)).self.tile 0).tenant = (tiled (tile .ready)).self.tk.tenant ∧
    (tiled { tile .draining with susp := true }).self.eng.copies = [] := by
  dsimp only [ready, slotFree]; decide +kernel

/-- A handle in each state and of each kind. -/
def handled (e : Handle) (f : Core → Core := id) : State := runsOn 0 fun k => f (k.setHandle 0 e)

theorem witness_handles :
    (∀ kind : BitVec 3, names (handled ⟨.done, kind, 0, 0⟩).self ((handled ⟨.done, kind, 0, 0⟩).self.rd 2) kind
      ⟨.done, kind, 0, 0⟩ ∧ names (handled ⟨.busy, kind, 0, 0⟩).self ((handled ⟨.busy, kind, 0, 0⟩).self.rd 2) kind
      ⟨.busy, kind, 0, 0⟩) ∧
    ((runs 0).self.handle 0).st = .free ∧ (∀ g < 0, ((runs 0).self.handle (BitVec.ofNat 8 g)).st ≠ .free) ∧
    (∀ h : BitVec 8, (({ (runs 0).self with eng := { (runs 0).self.eng with
      handles := Vector.replicate 256 ⟨.done, 0, 0, 0⟩ } } : Core).handle h).st = .done) ∧
    (∀ h : BitVec 8, (({ (runs 0).self with eng := { (runs 0).self.eng with
      handles := Vector.replicate 256 ⟨.busy, 0, 0, 0⟩ } } : Core).handle h).st = .busy) := by
  dsimp only [names]; decide +kernel

theorem witness_no_handle : ∀ e, ¬names (runs 0).self 0x100 0 e ∧ ¬names (runs 0).self ((runs 0).self.rd 2) 0 e := by
  refine fun e => ⟨fun h => absurd h.1 (by decide), fun h => ?_⟩
  have h2 : (runs 0).self.handle (BitVec.ofNat 8 ((runs 0).self.rd 2).toNat) = Handle.free := by decide +kernel
  exact h.2.2.1 ((h.2.1.symm.trans h2) ▸ rfl)

/-! ### Witnesses: tensors -/

/-- A tensor of one dimension of 8 FP32 elements, one tile of 32 bytes, at offset 0 of tensor 0 (R102). -/
def tdw : List Word :=
  [0x9500_00FC_0000_0000, 0, 0x1_0000_0008, 0x1_0000_0001, 1, 0, 0, 0, 0, 0x0001_0001_0001_0008, 1, 0, 0, 0, 0, 0]

/-- Core 0 with that descriptor in its cluster's cache, the tile's line in the L1 data cache, tile 0 READY, one element of
shape. -/
def tens (f : Core → Core := id) : State :=
  let s := runsOn 0 fun k => f { ((((k.setCsr 0x000 3).setCsr 0x122 0x7004).setCsr 0x001 1).setCsr 0x002 1) with
    tiles := k.tiles.set 0 (tile .ready)
    cache := { k.cache with l1d := [⟨.tensor 0 0 0 0 0, 0, none⟩], tlb := [ent] } }
  { s with ms := { s.ms with desc := [⟨0, 0, 0, 0, tdw⟩] } }

/-- TLD and TST of one line: into v1, and into tile 0. -/
def tt (tile : BitVec 1) : TT := ⟨if tile = 1 then 0 else 1, 2, 3, 4, tile.setWidth 6, 1, none⟩

theorem witness_names (i : BitVec 1) : namesLines tens (tt i) ⟨tdw⟩ 0 := by
  refine ⟨by dsimp only [ready]; revert i; decide +kernel, ⟨⟨by revert i; decide +kernel, by revert i; decide +kernel,
    ⟨0, 0, 0, 0, tdw⟩, by revert i; decide +kernel, rfl⟩, by revert i; decide +kernel, by revert i; decide +kernel⟩,
    by revert i; decide +kernel, by revert i; decide +kernel⟩

/-- An FP32 element is as it lies in the line. -/
theorem witness_cleaned : cleaned ⟨tdw⟩ 32 0 0 := by
  refine ⟨by decide +kernel, fun i _ => ?_⟩
  rw [if_neg (by decide +kernel)]

/-- TLD: the line held; registers, and tiles in the states that a fill may begin from. TST: one line stored at its home, which
leaves the core's registers and tiles. -/
theorem witness_transfers :
    tens.self.l1Line ((⟨tdw⟩ : Desc).key (tens.ctxOf tens.cur) 0 0) = some ⟨.tensor 0 0 0 0 0, 0, none⟩ ∧
    tens.self.ew ≤ 4 ∧ ewWidth tens.self.ew = (⟨tdw⟩ : Desc).w ∧
    1 * (⟨tdw⟩ : Desc).tileSize ≤ tens.self.capBits / (⟨tdw⟩ : Desc).w ∧ tens.self.capBits ≤ 262144 ∧
    tens.self.vec.state 1 = .full ∧ (tens.self.tile 0).v = true ∧ (tens.self.tile 0).tenant = tens.self.tk.tenant ∧
    1 * (⟨tdw⟩ : Desc).tileBytes ≤ (tens.self.tile 0).size.toNat * 4096 ∧ (tens.self.tile 0).st = .ready ∧
    (tens.self.tile 0).readers = 0 ∧ tens.self.vstart = 0 ∧ tens.self.vec.poison = [] ∧ tens.self.scratchPoison = [] := by
  decide +kernel

/-- The same with the tile's line at its home, alone in its data entry, and one 32-bit element of shape. -/
def tensHome (f : Core → Core := id) : State :=
  { tens f with ms := { (tens f).ms with homes := [
    { key := .tensor 0 0 0 0 0, bank := (⟨tdw⟩ : Desc).home [0, 0, 0, 0, 0], slot := 0, data := 0, dirty := 0, poison := 0
      runs := [(0, 32, 0)], root := 1 }] } }

theorem witness_names_home (i : BitVec 1) : namesLines tensHome (tt i) ⟨tdw⟩ 0 := by
  refine ⟨by dsimp only [ready]; revert i; decide +kernel, ⟨⟨by revert i; decide +kernel, by revert i; decide +kernel,
    ⟨0, 0, 0, 0, tdw⟩, by revert i; decide +kernel, rfl⟩, by revert i; decide +kernel, by revert i; decide +kernel⟩,
    by revert i; decide +kernel, by revert i; decide +kernel⟩

/-- TST of that line completes: the line at its home, from a register and from a tile. -/
theorem witness_home_line :
    (tensHome.ms.home ((⟨tdw⟩ : Desc).key (tensHome.ctxOf tensHome.cur) 0 0)).map (fun h => tensHome.ms.paired h) = some false ∧
    (⟨tdw⟩ : Desc).ro = false ∧ tensHome.ms.gated = [] ∧ tensHome.self.vstart = 0 ∧ tensHome.self.vec.poison = [] ∧
    tensHome.self.scratchPoison = [] ∧ tensHome.self.ew ≤ 4 ∧ ewWidth tensHome.self.ew = (⟨tdw⟩ : Desc).w ∧
    tensHome.self.capBits ≤ 262144 ∧ tensHome.self.vec.state 1 = .full ∧ (tensHome.self.tile 0).st = .ready ∧
    (tensHome.self.tile 0).readers.toNat < 255 ∧ (tensHome.self.tile 0).v = true ∧ (tensHome.self.tile 0).tenant = tensHome.self.tk.tenant ∧
    1 * (⟨tdw⟩ : Desc).tileBytes ≤ (tensHome.self.tile 0).size.toNat * 4096 ∧
    1 * (⟨tdw⟩ : Desc).tileSize ≤ tensHome.self.capBits / (⟨tdw⟩ : Desc).w ∧
    (tensHome.ms.home ((⟨tdw⟩ : Desc).key (tensHome.ctxOf tensHome.cur) 0 0)).map (·.runs) =
      some ((⟨tdw⟩ : Desc).runs ((⟨tdw⟩ : Desc).tileCoords 0)) := by decide +kernel

/-- The state after the store of a line. -/
def afterLine : State :=
  match lineStore ⟨tensHome.ctxOf tensHome.cur, ⟨tdw⟩, 0, 0, 1, 8, 32⟩ 0 (pure 0) tensHome with
  | .ok _ t => t
  | .error _ t => t

theorem witness_line_store :
    lineStore ⟨tensHome.ctxOf tensHome.cur, ⟨tdw⟩, 0, 0, 1, 8, 32⟩ 0 (pure 0) tensHome = .ok () afterLine ∧
    afterLine.self.vec = tensHome.self.vec ∧ afterLine.self.tiles = tensHome.self.tiles ∧
    afterLine.self.scratch = tensHome.self.scratch ∧ afterLine.self.scratchPoison = [] := by
  have h : (match lineStore ⟨tensHome.ctxOf tensHome.cur, ⟨tdw⟩, 0, 0, 1, 8, 32⟩ 0 (pure 0) tensHome with
    | .ok _ _ => true
    | .error _ _ => false) = true := by decide +kernel
  refine ⟨?_, by decide +kernel, by decide +kernel, by decide +kernel, by decide +kernel⟩
  unfold afterLine
  split at h
  · rename_i heq; rw [heq]
  · exact absurd h (by decide)

/-- VPLN of one FP32 element of v1 into one plane: the tile's first record, and a later one of a tile packed otherwise. -/
theorem witness_planes :
    ET.ofCode 0x0A = some .f32 ∧ wholes tens 3 [BitVec.ofNat 7 1] ∧ (0 + 1 * 1) * 12 ≤ (tens.self.tile 0).size.toNat * 4096 ∧
    (tens fun k => k.wr 3 1).self.rd 3 ≠ 0 ∧ (tens.self.tile 0).pk = false ∧ tens.self.tf = false ∧ tens.self.rd 3 = 0 ∧
    (∀ fl : Flags, tens.self.trapping fl = false) := by
  dsimp only [wholes, issues, admits]; decide +kernel

theorem witness_group : (List.replicate 32 (5, true, false) : List (Nat × Bool × Bool)).length = 32 ∧
    (∀ q ∈ (List.replicate 32 (5, true, false) : List (Nat × Bool × Bool)), q.1 < 2 ^ 24) := by decide +kernel

/-- TDESC: an entry in the table and one beyond it; a descriptor in memory that is malformed, and one that is well formed. -/
def tdescs (l : List Word) : State :=
  { tens with ms := { tens.ms with mem := tens.ms.mem.write 0x6000 128 (l.foldr (fun w v => w.toNat + 2 ^ 64 * v) 0) } }

theorem witness_descriptor :
    slotFree tens 1 ∧ (0 : Nat) < 2 ^ bits tens.self.tdtroot 0 5 ∧ ¬(0x1_0000 : Nat) < 2 ^ bits tens.self.tdtroot 0 5 ∧
    tdw.length = 16 ∧
    (∀ i < 16, mapped (tdescs tdw) (0 + toWord (8 * i)) { kind := 0, n := 8, noMmio := true } ent ∧
      (tdescs tdw).leafAddr ent.pte ent.level (0 + toWord (8 * i)) = 0x6000 + 8 * i ∧
      (tdw[i]?).getD 0 = toWord ((tdescs tdw).ms.mem.read (0x6000 + 8 * i) 8)) ∧
    (tdescs tdw).inTables 0 0x7000 128 = true ∧ (tdescs tdw).ms.poison = [] ∧ uncached (tdescs tdw) ent 0x6000 = true ∧
    (⟨setBits ((tdw[0]?).getD 0) 0 16 0 :: tdw.drop 1⟩ : Desc).ok 0 0 = true ∧
    (⟨setBits 0 0 16 0 :: List.replicate 15 0⟩ : Desc).ok 0 0 = false := by
  dsimp only [slotFree, mapped, mappedFor]; decide +kernel

/-- Tensors without a usable descriptor, and TINV, TFLUSH, TPROBE and THALO with one. -/
theorem witness_no_tensor : ∀ x t, descWell (tens.ctxOf tens.cur) 0xFFFF 0 0 tens ≠ .ok x t := by
  intro x t h
  have h2 : (match descWell (tens.ctxOf tens.cur) 0xFFFF 0 0 tens with
    | .ok _ _ => true
    | .error _ _ => false) = false := by decide +kernel
  rw [h] at h2
  cases h2

theorem witness_tensor : descWell (tens.ctxOf tens.cur) 0 1 0 tens = .ok ⟨tdw⟩ tens := rfl

theorem witness_tensor_generations :
    tens.ms.retired = [] ∧ tens.ms.poison = [] ∧ tens.ms.homes = [] ∧ tens.ms.chains = [] ∧ tens.ms.hdm = [] ∧
    ready tens [2, 3] ∧ slotFree tens 5 := by
  dsimp only [ready, slotFree]; decide +kernel

/-- TNBR and THALO of a tensor whose only tile stands at its home: the tile has no neighbour, and no replicas are made. -/
theorem witness_neighbours :
    ready tensHome [2, 3, 4] ∧ tensHome.ms.gated = [] ∧ slotFree tensHome 4 ∧ (⟨tdw⟩ : Desc).repl = false ∧
    ∀ u ∈ tilesAround ⟨tdw⟩ (tileCoordsOf 0 0) 0 (fun _ => 1) 256,
      tensHome.ms.home ((⟨tdw⟩ : Desc).key (tensHome.ctxOf tensHome.cur) 0 ((⟨tdw⟩ : Desc).tileNumber u)) ≠ none := by
  dsimp only [ready, slotFree]; decide +kernel

/-! ### Witnesses: engines -/

/-- Four dwords in the L1 line of the page at address 0, and tile 0. -/
def dline (l : List Nat) (e : Tile) : State :=
  maps entCached fun k => { k with
    tiles := k.tiles.set 0 e
    cache := { k.cache with l1d := [⟨.addr none 0x60, BitVec.ofNat 2048 (l.foldr (fun w v => w + 2 ^ 64 * v) 0), none⟩] } }

/-- The dwords as a copy reads them. -/
def dws (l : List Nat) : Nat → Word := fun i => toWord ((l[i]?).getD 0)

/-- COPY with these flags: source x2 or tile 0, destination x3 or tile 0, descriptor at x4 = 0. -/
def cp (flags : BitVec 8) : EN := ⟨1, 2, 3, 4, 0, 0, flags, 0⟩

/-- A memory-to-memory copy of one row of 8 bytes, no tile. -/
def dcopy (e : Tile) : State := dline [0x100_0008, 0, 0, 0] e

theorem witness_copy_descriptor : heldDwords (dcopy (tile .empty)) 0 (dws [0x100_0008, 0, 0, 0]) := by
  refine ⟨entCached, ⟨.addr none 0x60, 0x100_0008, none⟩, ?_, fun i hi => ?_⟩
  · dsimp only [mapped, mappedFor]; decide +kernel
  · obtain ⟨n, rfl⟩ := Nat.exists_eq_add_of_le hi
    rw [Nat.add_comm]; rfl

/-- Copies: no rows; memory to memory; into a tile, into none of its bytes, out of it with and without KEEP; packed. -/
theorem witness_copy :
    let s := fun e => dline [0x100_0008, 0, 0, 0] e
    let o := fun e flags => issuedCopy (s e) (cp flags) 0 (dws [0x100_0008, 0, 0, 0])
    let packed := issuedCopy (s (tile .empty)) (cp 2) 0 (dws [0x800A_0000_0100_0020, 0, 0, 0])
    ready (s (tile .empty)) [2, 3, 4, 1] ∧ ((s (tile .empty)).self.rd 4).toNat % 32 = 0 ∧
    (issuedCopy (s (tile .empty)) (cp 0) 0 (dws [0, 0, 0, 0])).misshaped 0 = true ∧
    (o (tile .empty) 0).misshaped 0 = false ∧ (o (tile .empty) 0).mode ≠ 2 ∧ (o (tile .empty) 0).noRoom (s (tile .empty)).self = false ∧
    (o (tile .empty) 2).misshaped 0 = false ∧ (o (tile .empty) 2).noRoom (s (tile .empty)).self = false ∧
    (o { tile .empty with size := 0 } 2).noRoom (s { tile .empty with size := 0 }).self = true ∧
    filled ((s (tile .empty)).self.tile 0) ∧ (o (tile .ready) 1).misshaped 0 = false ∧
    (o (tile .ready) 1).noRoom (s (tile .ready)).self = false ∧ (o (tile .ready) 1).keep = false ∧
    (o (tile .ready) 5).keep = true ∧ (o (tile .ready) 5).noRoom (s (tile .ready)).self = false ∧
    packed.misshaped 0 = false ∧ packed.mode = 2 ∧
    ({ packed with fmt := some 0 } : CopyOp).noRoom (s (tile .empty)).self = false ∧
    (4 : Word).toNat % 32 ≠ 0 := by
  dsimp only [ready, filled]; decide +kernel

/-- The page that a packed copy's source lies in has no format. -/
theorem witness_peek : peekFmt ((dcopy (tile .empty)).ctxOf (dcopy (tile .empty)).cur) 0 (dcopy (tile .empty)) =
    .ok (some 0) (dcopy (tile .empty)) := by
  have h : resolveGlobal ((dcopy (tile .empty)).ctxOf (dcopy (tile .empty)).cur) 0 { kind := 0, n := 1 } anyFormat
      (dcopy (tile .empty)) = .ok (entCached.hit (dcopy (tile .empty)) 0) (dcopy (tile .empty)) :=
    resolveGlobal_tlb (by decide) rfl (by decide +kernel) (by decide +kernel) (by decide +kernel) (by decide +kernel)
      (by decide +kernel) rfl
  simp only [peekFmt, h]
  rfl

/-- A BYTES copy of 8 bytes of one row from tile 0 to tile 1. -/
def bytesCopy : CopyOp :=
  { copyOf ((runs 0).ctxOf 0) 0 0 0 (dws [0x100_0008, 0, 0, 0]) 0 with
    srcTile := some 0, dstTile := some 1, phase := .running, prevSrc := tile .ready, prevDst := tile .empty }

def copies (o : CopyOp) : State := handled ⟨.busy, 0, 0, 0⟩ fun k => { k with
  tiles := (k.tiles.set 0 { tile .draining with base := 0 }).set 1 { tile .filling with base := 1 }
  eng := { k.eng with copies := [o] } }

/-- Waits: an event held for a handle, and none; a suspended copy that CWAIT.END ends. -/
theorem witness_waits :
    let o := { bytesCopy with phase := .suspended }
    (runs 0).self.heldEvent 0 = false ∧ (runs 0).self.eng.copies = [] ∧
    (handled ⟨.done, 1, 0, 0⟩ fun k => { k.setCsr 0x103 0x100 with eng := { k.eng with events := [⟨0, 2, 1, 0⟩] } }).self.heldEvent 0 = true ∧
    (copies o).self.eng.copies = [o] ∧ o.h = BitVec.ofNat 8 ((copies o).self.rd 2).toNat ∧
    (copies o).self.heldEvent 0 = false ∧ names (copies o).self ((copies o).self.rd 2) 0 ⟨.busy, 0, 0, 0⟩ ∧
    ready (copies o) [2] ∧ slotFree (copies o) 1 := by
  dsimp only [names, ready, slotFree]; decide +kernel

/-- A multiply of 1 by 1 by 32 into v1 from tiles 0 and 1, with metadata in tile 2. -/
def mat (fn : BitVec 8) : EN := ⟨4, 2, 3, 5, 0, 1, 0x41, fn⟩

/-- Tiles 0 and 1 packed in one plane, tile 2 plain, all READY; the tile shape in force. -/
def mats (pk : Bool) (f : Core → Core := id) : State := handled ⟨.busy, 1, 0, 0⟩ fun k => f { ((k.setCsr 0x010 1).setCsr 0x011 1).setCsr 0x012 32 with
  tiles := ((k.tiles.set 0 { tile .ready with pk := pk, p := 1, et := 0x0A }).set 1
    { tile .ready with pk := pk, p := 1, et := 0x0A, base := 1 }).set 2 { tile .ready with base := 2 } }

theorem witness_matrix :
    let o := fun kind => issuedMatrix (mats true).self (mat 2) kind
    let cb : MatOp := ⟨0, 3, 0, 0, 0, 2, 0, 0, 0, false, false, 0, 0, 0, 0, 0, false, [], none, 0⟩
    ready (mats true) [2, 3, 5, 4] ∧
    (∀ t ∈ (o 1).tiles, ((mats true).self.tile t.toNat).v = true ∧
      ((mats true).self.tile t.toNat).tenant = (mats true).self.tk.tenant ∧
      ((mats true).self.tile t.toNat).st = .ready ∧ ((mats true).self.tile t.toNat).readers.toNat < 250) ∧
    (o 0).refused (mats true).self = none ∧ (o 1).refused (mats true).self = none ∧
    (o 2).refused (mats true).self = some 1 ∧ (o 0).refused (mats false).self = some 0 ∧ cb.refused (mats true).self = none ∧
    (∀ r ∈ (o 0).cRegs, (mats true).self.vec.state r = .full) ∧ (mats true).self.vec.poison = [] ∧
    (mats true).self.eng.stream = [] := by dsimp only [ready]; decide +kernel

/-- The same multiply in the engine, and a codebook load of values that are all 0, and of one whose third is refused. -/
def working (o : MatOp) : State := mats true fun k => { k with eng := { k.eng with mats := [o] } }

theorem witness_codebook : quarters 0 = some 0 ∧ quarters 0x7F = none ∧
    quarters (((runs 0).core 0).scratch.read 0 1) ≠ none ∧
    quarters ((((runs 0).core 0).scratch.write 2 1 0x7F).read 2 1) = none := by decide +kernel

/-! ### Witnesses: the accumulate network -/

/-- POT.OPEN and the like on tile 0: xd 1, xa 2, xb 3, xc 4. -/
def pf (flags : BitVec 8 := 0) : EN := ⟨1, 2, 3, 4, 0, 0, flags, 0⟩

/-- A pot of one FP32 element on tile 0 that expects two arrivals. -/
def pot0 (arrivals : Nat) : Pot :=
  { tile := 0, rule := 0, fmt := false, log := true, e := 1, expect := 2, granted := 2, arrived := arrivals, forf := 0
    fbcnt := 0, fl := 0, forfany := false, wace := 0, spilled := false, joiners := [⟨0, 0, 0, 0, 2, false⟩], serial := 0 }

/-- A core with these registers, this tile 0 and these pots. -/
def potted (a b : Word) (e : Tile) (pots : List Pot) : State :=
  tiled e fun k => { (k.wr 2 a).wr 3 b with acn := { k.acn with pots := pots } }

theorem witness_pot_open :
    ready (potted 1 1 (tile .empty) []) [2, 3] ∧ slotFree (potted 1 1 (tile .empty) []) 1 ∧
    (potted 1 1 (tile .empty) []).self.tf = false ∧ (opened (potted 0 1 (tile .empty) []).self (pf 0)).expect = 0 ∧
    256 < (opened (potted 257 1 (tile .empty) []).self (pf 0)).expect ∧
    (opened (potted 1 0 (tile .empty) []).self (pf 0)).e = 0 ∧
    (potted 1 1 (tile .empty) []).self.capBits / 32 < (opened (potted 1 0x1_0000 (tile .empty) []).self (pf 0)).e ∧
    (opened (potted 1 1 (tile .empty) []).self (pf 0)).e ≤ (potted 1 1 (tile .empty) []).self.capBits / 32 ∧
    (tile .empty).v = true ∧ Tile.free.v = false ∧ filled (tile .empty) ∧
    ({ tile .empty with size := 0 } : Tile).size.toNat * 4096 < potBytes 0 false 1 ∧
    potBytes 0 false 1 ≤ (tile .empty).size.toNat * 4096 ∧
    (potted 1 1 (tile .empty) []).self.acn.pots.length <
      min 64 ((potted 1 1 (tile .empty) []).potSlots (potted 1 1 (tile .empty) []).self) ∧
    min 64 ((potted 1 1 (tile .empty) (List.replicate 64 (pot0 0))).potSlots (runs 0).self) ≤
      (List.replicate 64 (pot0 0)).length ∧ (runs 0).self.acn.pend = [] ∧
    (potted 1 1 (tile .empty) [pot0 0]).self.pot 0 = some (pot0 0) ∧ (runs 0).self.pot 0 = none := by
  dsimp only [ready, slotFree, filled]; decide +kernel

/-- POT.WAIT and POT.CLOSE: a tile without a pot; a pot with an arrival outstanding, and one complete, of each rule. -/
theorem witness_pot_end :
    let t : Tile := { tile .filling with pot := true }
    ¬((tile .empty).st = .filling ∧ (tile .empty).pot = true) ∧ (t.st = .filling ∧ t.pot = true) ∧
    (potted 0 0 t [pot0 1]).self.pot 0 = some (pot0 1) ∧ (pot0 1).arrived + (pot0 1).forf ≠ (pot0 1).expect ∧
    (pot0 2).arrived + (pot0 2).forf = (pot0 2).expect ∧ (pot0 2).rule ≠ 1 ∧
    ({ pot0 2 with rule := 1 } : Pot).rule = 1 ∧ (potted 0 0 t [pot0 1]).self.tk.task = some 0 ∧
    (potted 0 0 t [pot0 1]).dealer.saved = [] ∧
    ∀ x ∈ (pot0 1).joiners, (potted 0 0 t [pot0 1]).isLocal x.node = true := by dsimp only; decide +kernel

/-- A core whose first join, or every join, is this. -/
def joined (e : Join) (f : Core → Core := id) : State :=
  runsOn 0 fun k => f { k with acn := { k.acn with joins := k.acn.joins.set 0 e } }

/-- A join of one FP32 element to the pot of tile 0 of this core. -/
def join0 (st : JoinState) : Join := { Join.free with st := st, n := 2, left := 1, e := 1 }

theorem witness_pot_join :
    ready (potted 0 1 (tile .empty) []) [2, 3, 4] ∧ ((potted 0 0 (tile .empty) []).self.rd 3).toNat = 0 ∧
    256 < ((potted 0 257 (tile .empty) []).self.rd 3).toNat ∧ ((potted 0 1 (tile .empty) []).self.rd 3).toNat = 1 ∧
    (4 : Word).toNat % 16 ≠ 0 ∧ ((potted 0 1 (tile .empty) []).self.rd 4).toNat % 16 = 0 ∧
    (∀ j, (({ (runs 0).self with acn := { (runs 0).self.acn with
      joins := Vector.replicate 64 (join0 .pending) } } : Core).join j).st ≠ .free) ∧
    ((runs 0).self.join 0).st = .free ∧ (∀ i < 0, ((runs 0).self.join (BitVec.ofNat 6 i)).st ≠ .free) ∧
    (0 : Word).toNat < 2 ^ 18 ∧ (runs 0).isLocal 0 = true ∧ 2 ^ 18 ≤ (0x4_0000 : Word).toNat ∧
    (runs 0).joinable 0 5 = false ∧ (runs 0).dealer.saved = [] ∧ (runs 0).self.tk.task = some 0 := by
  dsimp only [ready]; decide +kernel

theorem witness_join_states :
    (∀ st, ((joined (join0 st)).self.join 0).st = st → ((joined (join0 st)).self.join 0).left ≠ 0) ∧
    ((joined { join0 .granted with left := 0 }).self.join 0).left = 0 ∧ ready (joined (join0 .pending)) [2] ∧
    slotFree (joined (join0 .pending)) 1 ∧ ((joined (join0 .pending)).self.rd 2).toNat < 64 ∧ 64 ≤ (64 : Word).toNat ∧
    (joined (join0 .granted)).self.vstart = 0 ∧ (joined (join0 .granted)).self.vec.poison = [] ∧
    (∀ c ∈ [0], (joined (join0 .granted)).self.vec.state c ≠ .empty) ∧ (join0 .granted).rule ≠ 1 ∧
    (join0 .granted).e ≤ (joined (join0 .granted)).self.capBits / 32 ∧ 0 + [0].length ≤ 32 := by
  refine ⟨fun st => by cases st <;> decide +kernel, ?_⟩
  dsimp only [ready, slotFree]; decide +kernel

/-- A spilled pot's fallback at 16, which the MSU reaches. -/
theorem witness_fallback :
    let s := joined { join0 .spilled with fb := 16 } fun k => { k with cache := { k.cache with tlb := [ent] } }
    mapped s 16 { kind := 3, n := 4, msu := true } ent ∧ (16 : Word).toNat % 16 = 0 ∧ (s.self.join 0).fb ≠ 0 ∧
    ((joined (join0 .spilled)).self.join 0).fb = 0 ∧ s.ms.poison = [] ∧ s.ms.chains = [] ∧ s.self.cache.pin = none := by
  dsimp only [mapped, mappedFor]; decide +kernel

/-- The network with one packet of join 0 of core 0, for tile 0 of core 0. -/
def netted (load : Payload) (e : Join) (pots : List Pot) : State :=
  { joined e fun k => { k with acn := { k.acn with pots := pots } } with net := [packet0 load] }
where packet0 (load : Payload) : Packet :=
  { ch := 0, srcNode := 0, srcCore := 0, j := 0, task := 0, dstNode := 0, dstCore := 0, tile := 0, serial := 0, load := load, lent := [] }

theorem witness_packets :
    let s := fun load st => netted load (join0 st) [pot0 0]
    let p := fun load => netted.packet0 load
    (∀ load, sole (s load .pending) (p load) load) ∧
    meets (s (.forfeit 1) .pending) (p (.forfeit 1)) (pot0 0) ⟨0, 0, 0, 0, 2, false⟩ ∧
    (∀ st, noticed (s .over st) (p .over) (join0 st)) ∧
    ((s (.join 0 1) .pending).core 0).pot 0 = some (pot0 0) ∧ (pot0 0).granted + 0 ≤ (pot0 0).expect ∧
    (pot0 0).expect < (pot0 0).granted + 1 ∧ ((s (.join 0 1) .pending).core 0).tk.tenant = 0 ∧
    ((netted (.join 0 1) (join0 .pending) []).core 0).pot 0 = none ∧
    ((s (.join 0 1) .pending).core 0).acn.pend.length < 256 ∧ (pot0 0).spilled = false ∧ (pot0 0).log = true ∧
    ({ pot0 0 with log := false } : Pot).log = false ∧ [5].length = (pot0 0).e ∧ (p .over).lent = [] := by
  refine ⟨fun load => ⟨rfl, rfl, by dsimp only [sole, State.isLocal, netted.packet0]; rfl⟩, ?_, ?_, ?_⟩
  · dsimp only [meets]; decide +kernel
  · intro st; cases st <;> (dsimp only [noticed]; decide +kernel)
  · decide +kernel

theorem witness_recovery :
    let e := { join0 .pending with retry := true }
    let s := joined { join0 .granted with node := 5 } fun k => { k with acn := { k.acn with
      pots := [{ pot0 0 with joiners := [⟨5, 0, 0, 0, 2, false⟩] }] } }
    ((joined e).core 0).join 0 = e ∧ e.retry = true ∧ (joined e).isLocal e.node = true ∧ s.isLocal 5 = false ∧
    ((s.core 0).join 0).node = 5 ∧ (s.core 0).acn.pots = [{ pot0 0 with joiners := [⟨5, 0, 0, 0, 2, false⟩] }] := by
  dsimp only; decide +kernel

/-- A contribution of the thread on its way, and none; one of a linked joiner's two antes is spent. -/
theorem witness_sending :
    (netted (.data 0 [5]) (join0 .granted) [pot0 0]).sending 0 = true ∧ (runs 0).sending 0 = false ∧
    2 - (⟨5, 0, 0, 0, 2, false⟩ : Joiner).inFlight 0 (pot0 0) [{ netted.packet0 (.data 0 [5]) with srcNode := 5 }] = 1 := by
  decide +kernel

/-- A core without a task, and the saved context of one with a request answered RETRY. -/
theorem witness_saved_retry :
    let e := { join0 .pending with retry := true }
    let x : SavedCtx := ⟨0, 0, 0, 32, (joined e).self, none⟩
    (runsOn 0 fun k => { k with tk := { k.tk with task := none } }).self.tk.task = none ∧ x.core = 0 ∧ x.body.join 0 = e ∧
    e.st = .pending ∧ e.retry = true ∧ (runs 0).isLocal e.node = true := by decide +kernel

/-! ### Witnesses: synchronisation objects and queues -/

/-- The object of n bytes with the value v in the page at address 0, x3 = b; the shape's EW code is 3. -/
def holds (n v : Nat) (b : Word) (ew : Nat := 3) : State :=
  let s := maps ent fun k => (k.setCsr 0x000 (toWord ew)).wr 3 b
  { s with ms := { s.ms with mem := s.ms.mem.write 0x6000 n v } }

/-- Memory without lines at homes is at rest. -/
theorem rest_of {s : State} {pa n : Nat} {l : Option LineKey} (h : s.ms.chains = [] ∧ s.ms.hdm = [] ∧ s.ms.homes = []) :
    atRest s pa n l :=
  ⟨h.1, fun x hx => by simp [h.2.1] at hx, fun x hx => by simp [h.2.2] at hx⟩

theorem object_of {s : State} {n kind : Nat} (h : mapped s 0 { kind := kind, n := n, msu := true, noHost := true } ent ∧
    s.ms.chains = [] ∧ s.ms.hdm = [] ∧ s.ms.homes = [] ∧ s.ms.poison = []) : object s 0 n kind ent :=
  ⟨by simp, h.1, rest_of ⟨h.2.1, h.2.2.1, h.2.2.2.1⟩, h.2.2.2.2⟩

theorem witness_claim :
    let s := holds 16 (5 + 20 * 2 ^ 64) 3
    ready s [2, 3] ∧ slotFree s 1 ∧ object s 0 16 3 ent ∧ s.self.rd 2 + 0 = 0 ∧ s.self.ew ≤ 5 ∧
    s.ms.mem.read (s.leafAddr ent.pte ent.level 0) 16 = 5 + 20 * 2 ^ 64 ∧ 5 < (holds 16 0 3 6).self.ew ∧ s.self.tf = false ∧
    ((maps ent fun k => k.wr 2 4).self.rd 2).toNat % 16 ≠ 0 := by
  refine ⟨?_, ?_, object_of ?_, ?_⟩ <;> (try dsimp only [ready, slotFree, mapped, mappedFor]) <;> decide +kernel

theorem witness_decks :
    let s := holds 64 (deck 7 9 3) 3
    let full := holds 64 (deck 7 15 3) 3
    ready s [2, 3] ∧ slotFree s 1 ∧ object s 0 64 3 ent ∧ object full 0 64 3 ent ∧ object (holds 64 0 3) 0 64 3 ent ∧
    fld ((holds 64 0 3).ms.mem.read 0x6000 64) 127 1 = 0 ∧ s.ms.mem.read 0x6000 64 = deck 7 9 3 ∧
    full.ms.mem.read 0x6000 64 = deck 7 15 3 ∧ (15 + 2 ^ 32 - 7) % 2 ^ 32 = 2 ^ 3 ∧
    (holds 64 (deck 9 9 3) 3).ms.mem.read 0x6000 64 = deck 9 9 3 ∧ s.inWindows s.self.tk.tenant 0x6048 8 = true ∧
    s.inWindows s.self.tk.tenant 0x6040 8 = true ∧ s.inWindows s.self.tk.tenant 0x6078 8 = true ∧ atRest s 0x6048 8 none ∧
    atRest s 0x6040 8 none ∧ atRest s 0x6078 8 none := by
  refine ⟨?_, ?_, object_of ?_, object_of ?_, object_of ?_, ?_, ?_, ?_, ?_, ?_, ?_, ?_, ?_, rest_of ?_, rest_of ?_,
    rest_of ?_⟩ <;> (try dsimp only [ready, slotFree, mapped, mappedFor]) <;> decide +kernel

theorem witness_clasps :
    let s := holds 32 (clasp 1 3 2 7 0) (7 * 2 ^ 32 + 3)
    ready s [2, 3] ∧ slotFree s 1 ∧ object s 0 32 3 ent ∧ object s 0 32 0 ent ∧ s.ms.mem.read 0x6000 32 = clasp 1 3 2 7 0 ∧
    fld (clasp 1 3 2 7 0) 31 1 = 1 ∧ fld (clasp 1 3 2 7 0) 32 32 = (s.self.rd 3).toNat / 2 ^ 32 ∧
    fld (clasp 1 3 2 8 0) 32 32 ≠ (s.self.rd 3).toNat / 2 ^ 32 ∧
    (holds 32 (clasp 1 3 2 7 1) 0).ms.mem.read 0x6000 32 = clasp 1 3 2 7 1 ∧
    fld ((holds 32 0 0).ms.mem.read 0x6000 32) 31 1 = 0 ∧ s.self.wait ≠ .clasp (0x6000 / 8) true ∧
    s.ms.monitor s.cur (0x6000 / 8) = none ∧ s.ms.monitorCount s.cur < 8 := by
  refine ⟨?_, ?_, object_of ?_, object_of ?_, ?_⟩ <;> (try dsimp only [ready, slotFree, mapped, mappedFor]) <;> decide +kernel

/-- Words waited on: one that differs, one that does not; a monitor of the word that has fired and one that has not; eight
monitors of other words. -/
theorem witness_waiting :
    let s := fun (v b : Nat) (ms : List Monitor) =>
      let s := holds 8 v (toWord b)
      { s with ms := { s.ms with monitors := ms } }
    let others := (List.range 8).map fun (i : Nat) => (⟨0, i, 0, false⟩ : Monitor)
    ready (s 5 5 []) [2, 3] ∧ slotFree (s 5 5 []) 1 ∧ mapped (s 5 5 []) 0 { kind := 0, n := 8, msu := true } ent ∧
    uncached (s 5 5 []) ent 0x6000 = true ∧ (s 5 5 []).self.wait ≠ .waita 1 8 (0x6000 / 8) true ∧
    (s 5 5 []).ms.mem.read 0x6000 8 = ((s 5 5 []).self.rd 3).toNat ∧
    (s 5 6 []).ms.mem.read 0x6000 8 ≠ ((s 5 6 []).self.rd 3).toNat ∧ (s 5 5 []).ms.monitor 0 (0x6000 / 8) = none ∧
    (s 5 5 []).ms.monitorCount 0 < 8 ∧
    (s 5 5 [⟨0, 0x6000 / 8, 0, true⟩]).ms.monitor 0 (0x6000 / 8) = some ⟨0, 0x6000 / 8, 0, true⟩ ∧
    (s 5 5 [⟨0, 0x6000 / 8, 0, false⟩]).ms.monitor 0 (0x6000 / 8) = some ⟨0, 0x6000 / 8, 0, false⟩ ∧
    (s 5 5 others).ms.monitor 0 (0x6000 / 8) = none ∧ 8 ≤ (s 5 5 others).ms.monitorCount 0 := by
  dsimp only [ready, slotFree, mapped, mappedFor]; decide +kernel

/-! ### Witnesses: regions -/

/-- The root node of tenant 0, whose entry the Dealer has read, at 0x8000 with this queue state: a queue of two records at 0x9000. -/
def rooted (v : Nat) (head tail : Nat) (s : State) : State :=
  let m := (((s.ms.mem.write 0x8000 8 (v * 2 ^ 63 + 0xFFFF * 2 ^ 32)).write 0x8020 8 0x9001).write 0x8028 8
    (head + tail * 2 ^ 32)).write 0x8038 8 (12 * 2 ^ 56)
  (({ s with ms := { s.ms with mem := m } }.setReg 0 0x5_0000 0x8000_0000_0000_8000).setReg 0 0x5_0010 1).readTable

theorem witness_enqueuing :
    let s := fun v tail r => rooted v 3 tail (maps entCached fun k => (line k).wr 2 r)
    ready (s 1 4 0) [2] ∧ slotFree (s 1 4 0) 1 ∧ ((s 1 4 64).self.rd 2).toNat % 64 = 0 ∧
    ((s 1 4 4).self.rd 2).toNat % 64 ≠ 0 ∧
    uncached (s 1 4 0) entCached 0x6000 = false ∧
    (s 1 4 0).self.l1Line (lineKey (s 1 4 0) entCached 0x6000) = some ⟨.addr none 0x60, 0, none⟩ ∧ (s 1 4 0).ms.chains = [] ∧
    (∀ i < 8, rawReadOk 8 entCached.pte (0x6000 + 8 * i) = true) ∧ (s 1 4 0).node? 0 1 = none ∧
    ((s 1 4 0).node? 0 0).isSome = true ∧ nodeOk 0 ((s 0 4 0).path 0 0) = false ∧ nodeOk 0 ((s 1 4 0).path 0 0) = true ∧
    ((s 1 4 0).node? 0 0).all (fun n => (n.qtail + 2 ^ 32 - n.qhead) % 2 ^ 32 == 1 && n.qlog == 1) = true ∧
    ((s 1 5 0).node? 0 0).all (fun n => (n.qtail + 2 ^ 32 - n.qhead) % 2 ^ 32 == 2 && n.qlog == 1) = true ∧
    (s 1 4 0).nodeAddr 0 0 = 0x8000 ∧ (s 1 4 0).inTables 0 0x9000 64 = true := by
  dsimp only [ready, slotFree]; decide +kernel

theorem witness_enqueuing_maps : ∀ i < 8, mapped (rooted 1 3 4 (maps entCached line)) (toWord (8 * i)) { kind := 0, n := 8 } entCached := by
  intro i hi
  have : i = 0 ∨ i = 1 ∨ i = 2 ∨ i = 3 ∨ i = 4 ∨ i = 5 ∨ i = 6 ∨ i = 7 := by omega
  rcases this with h | h | h | h | h | h | h | h <;> subst h <;> dsimp only [mapped, mappedFor] <;> decide +kernel

theorem witness_enqueuing_rests :
    atRest (rooted 1 3 4 (maps entCached line)) 0x9000 64 none ∧ atRest (rooted 1 3 4 (maps entCached line)) 0x8028 8 none :=
  ⟨rest_of (by decide +kernel), rest_of (by decide +kernel)⟩

/-! ### Witnesses: the fabric -/

/-- A fold whose steps all answer in the same state. -/
theorem foldlM_ok {α β : Type} {f : β → α → X β} {g : β → α → β} {s : State} {l : List α}
    (h : ∀ a ∈ l, ∀ b, f b a s = .ok (g b a) s) (b : β) : l.foldlM f b s = .ok (l.foldl g b) s := by
  induction l generalizing b with
  | nil => rfl
  | cons a l ih =>
    rw [List.foldlM_cons, X.bind_apply, h a List.mem_cons_self]
    exact ih (fun x hx => h x (List.mem_cons_of_mem _ hx)) _

/-- A page of 2 MiB at address 0, not cached. -/
def entBig : TlbEntry := { tenant := 0, asid := 0, level := 1, big := false, vpn := 0, pte := 0x1BF }

/-- The first 24 bytes of an image at 0x10_0000; the rest is 0. -/
def imaged (v : Nat) (f : Core → Core := id) : State :=
  let s := maps entBig fun k => f (k.wr 2 0x10_0000)
  { s with ms := { s.ms with mem := s.ms.mem.write 0x10_0000 24 v } }

/-- An image that uses these regions, with one stream in and one out, of FP32. -/
def imageOf (regions : Nat) : Nat := (0x5345_5446_0128_0000 + regions) + 0xA_000A * 2 ^ 64 + 0x1_0001 * 2 ^ 128

/-- Bytes above every listed one read as 0. -/
theorem read_above {m : Mem} (n : Nat) : ∀ {a : Nat}, (∀ c ∈ m, c.1 < a) → m.read a n = 0 := by
  have hg : ∀ (m : Mem) (a : Nat), (∀ c ∈ m, c.1 < a) → m.get a = 0 := by
    intro m a hm
    induction m with
    | nil => rfl
    | cons c m ih =>
      have := hm c List.mem_cons_self
      rw [Mem.get, if_neg (by omega)]
      exact ih fun c hc => hm c (List.mem_cons_of_mem _ hc)
  induction n with
  | zero => intros; rfl
  | succ n ih =>
    intro a h
    rw [Mem.read, hg m a h, ih fun c hc => by have := h c hc; omega]
    rfl

/-- Without lines in the L1 data cache none is dropped. -/
theorem drop_none {k : Core} {a n : Nat} (h : k.cache.l1d = []) : k.l1DropAddr a n = k := by
  unfold Core.l1DropAddr
  rw [show k.cache.l1d.filter _ = k.cache.l1d by rw [h]; rfl]

/-- Memory to which nothing is on its way and whose lines are at no home is read as it stands. -/
theorem recall_rest {ms : MemSys} {a n : Nat} (hh : ms.homes = []) (hc : ms.chains = []) : ms.recall a n = ms := by
  unfold MemSys.recall MemSys.settle
  simp only [hh, hc, List.filter_nil, List.foldl_nil]
  cases ms
  simp_all

/-- A read of an uncached place at rest. -/
theorem spotRead_rest {c : Ctx} {h : Hit} {n kind addr : Nat} {s : State} (hm : mmioOf h.pa = none) (hr : h.ga < 2 ^ 42)
    (hn : pteNc h.pte = true) (hh : s.ms.homes = []) (hc : s.ms.chains = []) (hp : s.ms.poison = [])
    (hl : (s.core c.core).cache.l1d = []) : spotRead c (.plain h) n kind addr s = .ok (s.ms.rd h.ga n) s := by
  have h1 : (decide (2 ^ 42 ≤ h.ga) && decide (h.ga < hostBase)) = false := by
    simp only [Bool.and_eq_false_iff, decide_eq_false_iff_not]
    exact .inl (by omega)
  have h3 : s.ms.poisoned h.ga n = false := by unfold MemSys.poisoned; simp [hp]
  have h4 : (State.modCore { s with ms := s.ms } c.core fun k => k.l1DropAddr h.ga n) = s := by
    show s.setCore c.core ((s.core c.core).l1DropAddr h.ga n) = s
    rw [drop_none hl, State.setCore_self]
  simp only [spotRead, plainRead, X.bind_apply, X.get_apply, hm, h1, MemSys.bypass, hn, recall_rest hh hc, h3, h4,
    Bool.false_eq_true, if_false, if_true, Bool.true_or, X.set_apply, X.pure_apply, Bool.not_false, X.require_true]

/-- What an image of 24 bytes holds from position i on. -/
def piece (v i : Nat) : Nat := if i = 0 then v else 0

/-- The pieces of n bytes at position o of an image at 0x10_0000, each inside one page and one line, and their values. -/
def parts (v o n : Nat) : Nat := (cutAt 4096 (0x10_0000 + o) n (n + 1) 0).foldl (fun acc p =>
  (cutAt 256 (0x10_0000 + o + p.1) p.2 (p.2 + 1) 0).foldl (fun acc q =>
    acc + piece v (o + p.1 + q.1) * 2 ^ (8 * (p.1 + q.1))) acc) 0

/-- n bytes at position o lie on the page of 2 MiB at address 0, for a copy of the thread. -/
def onPage (s : State) (o n : Nat) : Bool :=
  (cutAt 4096 (0x10_0000 + o) n (n + 1) 0).all fun p =>
    let a := toWord (0x10_0000 + o) + toWord p.1
    canonical a && ((s.core 0).cache.tlb.find? (·.serves (s.ctxOf 0) a 0) == some entBig) &&
      s.leafWindow (s.ctxOf 0) entBig.pte (leafRaw entBig.pte entBig.level a) (copyAsk 0 p.2 false) &&
      permitted (s.ctxOf 0) entBig.pte 0 && formatOk entBig.pte (s.leafAddr entBig.pte entBig.level a) (copyAsk 0 p.2 false) &&
      (s.leafAddr entBig.pte entBig.level a == 0x10_0000 + o + p.1) &&
      (cutAt 256 (0x10_0000 + o + p.1) p.2 (p.2 + 1) 0).all fun q =>
        (o + p.1 + q.1 == 0 && q.2 == 128 || o + p.1 + q.1 == 0 && q.2 == 256 || 24 ≤ o + p.1 + q.1) &&
          decide (o + p.1 + q.1 < 2 ^ 20) && mmioOf (0x10_0000 + o + p.1 + q.1) == none

/-- The machine is calm, and its memory lists nothing above the image's first 24 bytes. -/
def calmImage (s : State) (v : Nat) : Prop :=
  (s.ms.homes = [] ∧ s.ms.chains = [] ∧ s.ms.poison = []) ∧ (s.core 0).cache.l1d = [] ∧
  (s.ms.mem.all fun c => decide (c.1 < 0x10_0018)) = true ∧ s.ms.mem.read 0x10_0000 128 = v ∧ s.ms.mem.read 0x10_0000 256 = v

/-- What a copy reads of such an image. -/
theorem read_image {s : State} {v o n : Nat} (ho : (toWord (0x10_0000 + o)).toNat = 0x10_0000 + o)
    (hs : onPage s o n = true) (hm : calmImage s v) :
    copyRead (s.ctxOf 0) [] (toWord (0x10_0000 + o)) n (fun e _ => pteFmt e == 0) false s = .ok (parts v o n) s := by
  obtain ⟨⟨m1, m2, m3⟩, m4, m5, m6, m7⟩ := hm
  unfold copyRead parts
  simp only [ho]
  refine foldlM_ok (fun p hp acc => ?_) 0
  have h := List.all_eq_true.mp hs p hp
  simp only [Bool.and_eq_true, beq_iff_eq] at h
  obtain ⟨⟨⟨⟨⟨⟨h1, h2⟩, h3⟩, h4⟩, h5⟩, h6⟩, h7⟩ := h
  rw [X.bind_apply, resolveGlobal_tlb h1 rfl h2 h3 h4 (by decide) h5 (by decide)]
  have e0 : pteTb (TlbEntry.hit entBig s (toWord (0x10_0000 + o) + toWord p.1)).pte = false :=
    show pteTb entBig.pte = false by decide
  simp only [e0, Bool.false_eq_true, if_false]
  rw [show (TlbEntry.hit entBig s (toWord (0x10_0000 + o) + toWord p.1)).pa = 0x10_0000 + o + p.1 from h6]
  refine foldlM_ok (fun q hq' acc => ?_) acc
  have hq := List.all_eq_true.mp h7 q hq'
  simp only [Bool.and_eq_true, Bool.or_eq_true, beq_iff_eq, decide_eq_true_eq] at hq
  obtain ⟨⟨h8, h9⟩, h10⟩ := hq
  have e1 : ((TlbEntry.hit entBig s (toWord (0x10_0000 + o) + toWord p.1)).plus q.1).pa = 0x10_0000 + o + p.1 + q.1 := by
    show _ + q.1 = _
    rw [show (TlbEntry.hit entBig s (toWord (0x10_0000 + o) + toWord p.1)).pa = 0x10_0000 + o + p.1 from h6]
  have e2 : ((TlbEntry.hit entBig s (toWord (0x10_0000 + o) + toWord p.1)).plus q.1).ga = 0x10_0000 + o + p.1 + q.1 := e1
  have e3 : pteNc ((TlbEntry.hit entBig s (toWord (0x10_0000 + o) + toWord p.1)).plus q.1).pte = true :=
    show pteNc entBig.pte = true by decide
  have e4 := fun (addr : Nat) => spotRead_rest (c := s.ctxOf 0) (n := q.2) (kind := 0) (addr := addr)
    (e1 ▸ h10) (by rw [e2]; omega) e3 m1 m2 m3 m4
  have e5 : ∀ a n x, patchOld [] a n x = x := fun a n x => rfl
  simp only [X.bind_apply, e4, e2, e5, X.pure_apply]
  have hr : s.ms.rd (0x10_0000 + o + p.1 + q.1) q.2 = s.ms.mem.read (0x10_0000 + o + p.1 + q.1) q.2 := by
    unfold MemSys.rd
    rw [if_neg (by unfold hostBase; omega), if_pos (by omega)]
  have hv : s.ms.mem.read (0x10_0000 + o + p.1 + q.1) q.2 = piece v (o + p.1 + q.1) := by
    unfold piece
    rcases h8 with (⟨a, b⟩ | ⟨a, b⟩) | a
    · rw [if_pos a, b, show 0x10_0000 + o + p.1 + q.1 = 0x10_0000 by omega, m6]
    · rw [if_pos a, b, show 0x10_0000 + o + p.1 + q.1 = 0x10_0000 by omega, m7]
    · rw [if_neg (by omega)]
      exact read_above q.2 fun c hc => by
        have := of_decide_eq_true (List.all_eq_true.mp m5 c hc)
        omega
  rw [hr, hv]

/-- A copy reads the image at 0x10_0000. -/
theorem image_read {v : Nat} (f : Core → Core) (h : onPage (imaged v f) 0 imageBytes = true) (hm : calmImage (imaged v f) v)
    (hf : parts v 0 imageBytes = v) :
    copyRead ((imaged v f).ctxOf 0) [] 0x10_0000 imageBytes (fun e _ => pteFmt e == 0) false (imaged v f) =
      .ok v (imaged v f) := by
  have := read_image (o := 0) (by decide) h hm
  rwa [hf] at this

/-- A zero byte keeps whether the CRC is 0. -/
theorem crc_zero (c : BitVec 64) : crcByte c 0 = 0 ↔ c = 0 := by
  have bit : ∀ c : BitVec 64, crcBit c false = 0 ↔ c = 0 := by
    intro c
    constructor
    · intro h
      unfold crcBit at h
      cases hm : c.getLsbD 63
      · rw [hm] at h
        have h' : c <<< 1 = 0 := by simpa using h
        apply BitVec.eq_of_getLsbD_eq
        intro i hi
        by_cases e : i = 63
        · rw [e, hm]; simp
        · have := congrArg (fun b : BitVec 64 => b.getLsbD (i + 1)) h'
          simpa [show i + 1 < 64 by omega, BitVec.getLsbD_eq_getElem (show i < 64 by omega)] using this
      · rw [hm] at h
        have := congrArg (fun b : BitVec 64 => b.getLsbD 0) h
        simp at this
    · intro h; subst h; decide
  have all : ∀ (l : List Nat) (c : BitVec 64), l.foldl (fun c _ => crcBit c false) c = 0 ↔ c = 0 := by
    intro l
    induction l with
    | nil => intro c; exact Iff.rfl
    | cons x l ih => intro c; rw [List.foldl_cons, ih, bit]
  have := all (List.range 8) c
  simpa [crcByte] using this

/-- The signature of words that are all 0 is 0 where that of the header is. -/
theorem signature_zeros {hdr : Nat} {ws : List Nat} (hz : ∀ w ∈ ws, w = 0) :
    signatureOf hdr ws = 0 ↔ crcBytes 0 128 hdr = 0 := by
  have hb : ∀ (ws : List Nat) (c : BitVec 64), (∀ w ∈ ws, w = 0) → (ws.foldl (fun c w => crcBytes c 12 w) c = 0 ↔ c = 0) := by
    intro ws
    induction ws with
    | nil => intro c _; exact Iff.rfl
    | cons x l ih =>
      intro c h
      rw [List.foldl_cons, ih _ fun w hw => h w (List.mem_cons_of_mem _ hw), h x List.mem_cons_self]
      unfold crcBytes
      rw [show elemsOf 8 0 12 = List.replicate 12 0 by decide]
      have : ∀ n, ∀ c : BitVec 64, (List.replicate n 0).foldl crcByte c = 0 ↔ c = 0 := by
        intro n
        induction n with
        | zero => intro c; exact Iff.rfl
        | succ n ih => intro c; rw [List.replicate_succ, List.foldl_cons, ih, crc_zero]
      exact this 12 c
  unfold signatureOf
  rw [← hb ws (crcBytes 0 128 hdr) hz]
  constructor
  · intro e; exact BitVec.eq_of_toNat_eq e
  · intro e; rw [e]; rfl

/-- The signature of a region of zeros is 0 where that of the header is. -/
theorem signature_zero {img g : Nat} (h : img < 2 ^ 1024) : signature img g = 0 ↔ crcBytes 0 128 (fld img 0 1024) = 0 := by
  unfold signature
  refine signature_zeros fun w hw => ?_
  obtain ⟨e, _, rfl⟩ := List.mem_map.mp hw
  have : img < 2 ^ (8 * (128 + 12 * e)) := lt_of_lt_of_le h (Nat.pow_le_pow_right (by decide) (by omega))
  unfold imgElem fld
  rw [Nat.div_eq_of_lt this]
  rfl

/-- FBIND of a good image, of a malformed one and of one whose signature differs. -/
theorem witness_fbind :
    let s := fun v => imaged v
    ready (s 0) [2] ∧ slotFree (s 0) 1 ∧ (s 0).self.tf = false ∧ (s 0).self.rd 2 = 0x10_0000 ∧ (4 : Word).toNat % 256 ≠ 0 ∧
    headerOk 0 = false ∧ headerOk (imageOf 0) = true ∧ wordsOk (imageOf 0) = true ∧ signaturesOk (imageOf 0) = true ∧
    headerOk (imageOf 1) = true ∧ wordsOk (imageOf 1) = true := by
  dsimp only [ready, slotFree]; decide +kernel

theorem witness_fbind_differs : signaturesOk (imageOf 1) = false := by
  have hs : signature (imageOf 1) 0 ≠ 0 := fun h => absurd ((signature_zero (by decide)).1 h) (by decide +kernel)
  unfold signaturesOk
  rw [List.all_eq_false]
  refine ⟨0, by decide, ?_⟩
  rw [show imgSig (imageOf 1) 0 = 0 by decide +kernel, show hdrUses (imgDword (imageOf 1) 0) 0 = true by decide +kernel]
  simpa using hs

/-- The images read. -/
theorem witness_image_reads {v : Nat} (h : v = 0 ∨ v = imageOf 0 ∨ v = imageOf 1) :
    copyRead ((imaged v).ctxOf (imaged v).cur) [] ((imaged v).self.rd 2) imageBytes (fun e _ => pteFmt e == 0) false (imaged v) =
      .ok v (imaged v) := by
  have e : (imaged v).self.rd 2 = 0x10_0000 ∧ (imaged v).cur = 0 := by rcases h with h | h | h <;> subst h <;> decide +kernel
  rw [e.1, e.2]
  rcases h with h | h | h <;> subst h <;>
    exact image_read id (by decide +kernel) (by dsimp only [calmImage]; decide +kernel) (by decide +kernel)

/-- The empty image stands in memory, and the part of each region of it. -/
theorem witness_stands : standsAt (imaged 0) (imageName ((imaged 0).self.rd 2)) 0 imageBytes 0 ∧ calm (imaged 0) ∧
    (imaged 0).self.cache.l1d = [] ∧ (imageName ((imaged 0).self.rd 2)) = 0x10_0000 := by
  refine ⟨fun p hp => ⟨entBig, ?_⟩, by dsimp only [calm]; decide +kernel, by decide +kernel, by decide +kernel⟩
  have low : ∀ c ∈ (imaged 0).ms.mem, c.1 < 0x10_0000 := by decide +kernel
  have page : ∀ p ∈ cutAt 4096 (canon56 (toWord (imageName ((imaged 0).self.rd 2) + 0))).toNat imageBytes (imageBytes + 1) 0,
      let a := canon56 (toWord (imageName ((imaged 0).self.rd 2) + 0)) + toWord p.1
      (mapped (imaged 0) a { kind := 0, n := p.2, noMmio := true } entBig ∧ pteFmt entBig.pte = 0 ∧
        uncached (imaged 0) entBig ((imaged 0).leafAddr entBig.pte entBig.level a) = true) ∧
      0x10_0000 ≤ (imaged 0).leafAddr entBig.pte entBig.level a := by
    dsimp only [mapped, mappedFor]
    decide +kernel
  obtain ⟨⟨h1, h2, h3⟩, h4⟩ := page p hp
  exact ⟨h1, h2, h3, (read_above _ fun c hc => (low c hc).trans_le h4).trans (by simp [fld])⟩

/-- A plane at 0x10_0000 and a binding of slot 5 to it, one stream in and one out, of FP32. -/
def plane0 (hdr : Nat) (words : List (Nat × BitVec 96)) : Plane :=
  { img := 0x10_0000, hdr := toWord hdr, types := 0xA_000A, maps := 0x1_0001, words := words }

def bound0 : Bound := ⟨0x10_0000, 0x5345_5446_0128_0000, 0xA_000A⟩

/-- A running FOP of slot 5 with these elements. -/
def grid0 (elems : List GridElem) : Grid :=
  { gridOf (runs 0).self (plane0 0x5345_5446_0128_0001 []) 5 with vd := 3, va := 1, vb := 0, imm := 0, elems := elems }

/-- The core with this fabric; a shape of one FP32 element. -/
def gridded (g : Option Grid) (f : Core → Core := id) : State :=
  maps ent fun k => f { (((k.setCsr 0x000 3).setCsr 0x001 1).setCsr 0x002 1) with fab := { k.fab with
    slots := k.fab.slots.set 5 (some bound0), planes := k.fab.planes.set 0 (some (plane0 0x5345_5446_0128_0001 []))
    active := some 0, grid := g } }

/-- FOP of slot 5: v3 from v1. -/
def fop5 : FX := ⟨5, 3, 1, 0, 0, 0, 0, 0, none⟩

theorem witness_bindings :
    (gridded none).self.fab.slots[5] = some bound0 ∧ (gridded none).self.fab.slots[(6 : Fin 64)] = none ∧ slotFree (gridded none) 1 ∧
    bound0.img % 256 = 0 ∧ bound0.img < 2 ^ 56 ∧ (gridded none).self.fab.resident bound0.img = some 0 := by
  dsimp only [slotFree]; decide +kernel

/-- Element words: ADD, SUB, MUL, AND, OR, XOR, SHL, SHR, FADD, FSUB, FMUL, STEER and MERGE with both queues enabled. -/
theorem witness_firings : ∀ opc ∈ [0x01, 0x02, 0x03, 0x04, 0x05, 0x06, 0x07, 0x08, 0x10, 0x11, 0x12, 0x23, 0x21],
    ∀ ca cb : Bool,
    let x : GridElem := { e := 0, word := BitVec.ofNat 96 (2 ^ 64 + 3 * 2 ^ 8 + opc), q := [[⟨ca, 7⟩], [⟨cb, 5⟩], [], []]
                          a := none, b := none, trk := List.replicate 8 none, r0 := 0, r1 := 0, r2 := 0, once := false, esc := [] }
    holding x 3 ⟨ca, 7⟩ ⟨cb, 5⟩ [] [] ∧ wordOpc x.word = opc ∧ wordK x.word % 4 = 1 := by
  dsimp only [holding]; decide +kernel

theorem witness_fop :
    let k := (gridded none).self
    (gridded (some (grid0 []))).self.fab.running = true ∧ k.fab.running = false ∧ k.ew ≤ 4 ∧ k.scope ≤ 5 ∧
    4 < (gridded none fun k => k.setCsr 0x000 5).self.ew ∧ k.tf = false ∧ k.fab.slots[fop5.slot.toNat] = some bound0 ∧
    fop5.vd.toNat < 42 ∧ fop5.va.toNat < 42 ∧ fop5.vb.toNat < 42 ∧ bits bound0.hdr 19 2 ≠ 2 ∧ bits bound0.hdr 21 2 = 1 ∧
    fop5.vb = 0 ∧ fop5.xl = 0 ∧ (∀ d ∈ [fop5.vd.toNat], ∀ v ∈ [fop5.va], v.toNat ≠ d) ∧
    ((gridded (some { grid0 [] with frozen := true })).self.fab.grid).any (fun g => g.slot == fop5.slot) = true ∧
    (gridded (some { grid0 [] with frozen := true })).self.fab.running = false ∧
    k.fab.resident bound0.img = some 0 ∧ k.fab.planes[0] = some (plane0 0x5345_5446_0128_0001 []) ∧
    streamType (bits bound0.types 0 5) = some .f32 ∧ ETwidth .f32 = ewWidth k.ew ∧ k.shapeOk = true ∧ k.vstart = 0 ∧
    k.vrows * k.vcols ≤ 1024 ∧ k.vec.state 1 ≠ .empty ∧ k.vec.state 3 = .full := by decide +kernel

/-- An element with this word and queues. -/
def elem0 (e : Nat) (word : Nat) (q : List (List Token)) (a : Option Token) (esc : Nat) : GridElem :=
  { e := e, word := BitVec.ofNat 96 word, q := q, a := a, b := none, trk := List.replicate 8 none, r0 := 0, r1 := 0, r2 := 0
    once := false, esc := List.replicate esc (0, ⟨false, 0⟩) }

/-- A grid whose outputs have ended. -/
def done0 : Grid := { grid0 [] with maps := 0 }

/-- A grid whose load port is asked for four bytes at an address that is not aligned. -/
def stop0 : Grid := { grid0 [elem0 0 (0x30 + 2 ^ 8 + 2 ^ 71) [[⟨false, 0⟩], [], [], []] none 0] with imm := 2, first := some 0 }

/-- A grid of region 0 in which the output of element 0 waits for the first queue of element 64; n tokens have escaped. -/
def stuck0 (n : Nat) : Grid := { grid0 [elem0 0 (0x01 + 2 ^ 48) [[], [], [], []] (some ⟨false, 0⟩) 0,
  elem0 64 (0x01 + 3 * 2 ^ 8 + 2 * 2 ^ 17) [List.replicate 4 ⟨false, 0⟩, [], [], []] none n] with
    idle := Vector.replicate 16 65536 }

theorem witness_runs :
    (gridded (some done0)).runFop done0 0 = (.done, done0, gridded (some done0)) ∧
    (gridded (some (grid0 []))).runFop (grid0 []) 0 = (.more, grid0 [], gridded (some (grid0 []))) := ⟨rfl, rfl⟩

theorem witness_port_stop : ∃ p h, (gridded (some stop0)).runFop stop0 1 = (.stop p, h, gridded (some stop0)) := ⟨_, _, rfl⟩

theorem witness_escape :
    let g := stuck0 0
    let k := (gridded (some g)).self
    g.stalled g.wires (g.inputs k) 0 = true ∧ g.blocked g.wires (g.inputs k) 0 = [(.a 0, [.queue 64 0])] ∧
    g.overflow (regionOf 64) < 256 ∧ ((g.el 0).bind (·.a)).isSome = true ∧ (g.el 64).isSome = true := by decide +kernel

theorem witness_escape_timeout : ∃ h, (gridded (some (stuck0 256))).runFop (stuck0 256) 65536 =
    (.escape 0, h, gridded (some (stuck0 256))) ∧ h.slot = (stuck0 256).slot := ⟨_, rfl, rfl⟩

theorem witness_fabric_stops :
    let g := grid0 []
    let s := gridded (some g)
    let r := gridded (some g) fun k => k.setCsr 0x130 2
    s.self.tf = false ∧ g.finished s.self = false ∧ g.wants = [] ∧ g.first = none ∧ { g with inpos := g.inpos.set 0 2 }.dry
      ({ g with inpos := g.inpos.set 0 2 }.inputs s.self) = true ∧ s.self.fab.active = some 0 ∧
    s.self.fab.planes[0] = some (plane0 0x5345_5446_0128_0001 []) ∧ 0 ∉ g.reload ∧
    (s.self.csrAt 0x130).getLsbD 1 = false ∧ (r.self.csrAt 0x130).getLsbD 1 = true ∧
    s.self.fab.active ≠ some 1 ∧ (gridded (some g) fun k => { k with tk := { k.tk with preempt := .due } }).self.tk.preempt = .due :=
  by decide +kernel

/-- A FOP whose outputs have ended; one with an output to come; and one at rest whose overflow buffer is full. -/
theorem witness_fop_complete :
    (let g := grid0 []; let h := { g with ended := Vector.replicate 4 true }
      h.reload = [] ∧ h.wants = [] ∧ h.first = none ∧ (∀ o < 4, mapOut h.maps o = 0 ∨ h.ended[o]? = some true) ∧
      g.reload = [] ∧ g.first = none ∧ pendingOut g) ∧
    (let g := stuck0 256; let k := (gridded (some g)).self
      g.reload = [] ∧ g.first = none ∧ pendingOut g ∧ g.jammed g.wires (g.inputs k) 0 = true ∧ k.tf = false) :=
  ⟨⟨rfl, rfl, rfl, by decide +kernel, rfl, rfl, 0, by decide, by decide +kernel, rfl⟩, rfl, rfl, ⟨0, by decide, by decide +kernel,
    rfl⟩, by decide +kernel, by decide +kernel⟩

theorem witness_fop_rests : rests (stuck0 256) ((stuck0 256).inputs (gridded (some (stuck0 256))).self) := by
  refine ⟨fun r hr => ⟨65536, ?_, by decide⟩, by decide +kernel, by decide +kernel, by decide +kernel⟩
  have : r = 0 ∨ r = 1 ∨ r = 2 ∨ r = 3 ∨ r = 4 ∨ r = 5 ∨ r = 6 ∨ r = 7 ∨ r = 8 ∨ r = 9 ∨ r = 10 ∨ r = 11 ∨ r = 12 ∨
    r = 13 ∨ r = 14 ∨ r = 15 := by omega
  rcases this with h | h | h | h | h | h | h | h | h | h | h | h | h | h | h | h <;> subst h <;> decide +kernel

/-- A region being reloaded from an image that does not use it, and from one whose signature does not pass. -/
def reloading (k : Core) : Core := { k with fab := { k.fab with
  planes := k.fab.planes.set 0 (some (plane0 0x5345_5446_0128_0001 [])), active := some 0
  grid := some { grid0 [] with reload := [0] } } }

/-- What goes on after an answer. -/
theorem bind_ok {α β : Type} {m : X α} {f : α → X β} {a : α} {s t : State} (h : m s = .ok a t) : (m >>= f) s = f a t := by
  rw [X.bind_apply, h]

/-- A map whose every step answers in the same state. -/
theorem mapM_ok {α β : Type} {f : α → X β} {g : α → β} {s : State} {l : List α} (h : ∀ a ∈ l, f a s = .ok (g a) s) :
    l.mapM f s = .ok (l.map g) s := by
  induction l with
  | nil => rfl
  | cons a l ih =>
    rw [List.mapM_cons]
    refine (bind_ok (h a List.mem_cons_self)).trans ?_
    refine (bind_ok (ih fun x hx => h x (List.mem_cons_of_mem _ hx))).trans ?_
    rfl

/-- The row i of region 0 of an image lies 768 bytes behind the one before. -/
def rowAt (i : Nat) : Nat := 128 + 12 * ((16 * (0 / 4) + i) * 64 + 16 * (0 % 4))

/-- The words that region 0 of these images holds: zeros. -/
def zeroWords : List (Nat × Nat) := ((List.range 16).map fun i => (List.range 16).map fun j =>
  ((16 * (0 / 4) + i) * 64 + 16 * (0 % 4) + j, fld 0 (96 * j) 96)).flatten

theorem reload_parts {s : State} {v : Nat} (hc : calmImage s v) (h0 : onPage s 0 128 = true) (hs : onPage s 49280 8 = true)
    (hw : ∀ i ∈ List.range 16, onPage s (rowAt i) 192 = true ∧ parts v (rowAt i) 192 = 0) :
    reloadParts (s.ctxOf 0) 0x10_0000 0 s = .ok (parts v 0 128, zeroWords, parts v 49280 8) s := by
  have part : ∀ o n, onPage s o n = true → (toWord (0x10_0000 + o)).toNat = 0x10_0000 + o →
      canon56 (toWord (0x10_0000 + o)) = toWord (0x10_0000 + o) →
      copyRead (s.ctxOf 0) [] (canon56 (toWord (0x10_0000 + o))) n (fun e _ => pteFmt e == 0) false s = .ok (parts v o n) s := by
    intro o n h1 h2 h3
    rw [h3]
    exact read_image h2 h1 hc
  unfold reloadParts
  refine (bind_ok (part 0 128 h0 (by decide) (by decide))).trans ?_
  refine (bind_ok (mapM_ok (g := fun i => (List.range 16).map fun j =>
    ((16 * (0 / 4) + i) * 64 + 16 * (0 % 4) + j, fld 0 (96 * j) 96)) fun i hi => ?_)).trans ?_
  · have ha : ∀ i ∈ List.range 16, (toWord (0x10_0000 + rowAt i)).toNat = 0x10_0000 + rowAt i ∧
      canon56 (toWord (0x10_0000 + rowAt i)) = toWord (0x10_0000 + rowAt i) := by decide
    refine (bind_ok (part (rowAt i) 192 (hw i hi).1 (ha i hi).1 (ha i hi).2)).trans ?_
    rw [(hw i hi).2]
    rfl
  · refine (bind_ok (part (49280 + 8 * 0) 8 hs (by decide) (by decide))).trans ?_
    rfl

theorem witness_reload :
    (∃ ws, reloadWords ((imaged 0 reloading).ctxOf 0) 0x10_0000 0 (imaged 0 reloading) = .ok (some ws) (imaged 0 reloading)) ∧
    reloadWords ((imaged (imageOf 1) reloading).ctxOf 0) 0x10_0000 0 (imaged (imageOf 1) reloading) =
      .ok none (imaged (imageOf 1) reloading) := by
  have read : ∀ v, (v = 0 ∨ v = imageOf 1) → reloadParts ((imaged v reloading).ctxOf 0) 0x10_0000 0 (imaged v reloading) =
      .ok (parts v 0 128, zeroWords, parts v 49280 8) (imaged v reloading) := by
    intro v hv
    rcases hv with h | h <;> subst h <;>
      exact reload_parts (by dsimp only [calmImage]; decide +kernel) (by decide +kernel) (by decide +kernel) (by decide +kernel)
  unfold reloadWords
  constructor
  · rw [read 0 (.inl rfl)]
    refine ⟨_, if_pos ?_⟩
    decide +kernel
  · rw [read _ (.inr rfl)]
    refine if_neg fun hn => ?_
    simp only [Bool.or_eq_true, decide_eq_true_eq] at hn
    rcases hn with hn | hn
    · exact absurd hn (by decide +kernel)
    · rw [show parts (imageOf 1) 49280 8 = 0 by decide +kernel] at hn
      exact absurd ((signature_zeros (by decide +kernel)).1 hn) (by decide +kernel)

/-- The same image stands in memory, calmly. -/
theorem witness_reload_stands :
    standsAt (imaged 0 reloading) 0x10_0000 0 128 0 ∧
    (∀ i < 16, standsAt (imaged 0 reloading) 0x10_0000 (128 + 12 * ((16 * (0 / 4) + i) * 64 + 16 * (0 % 4) + 0)) 192 0) ∧
    standsAt (imaged 0 reloading) 0x10_0000 (49280 + 8 * 0) 8 0 ∧ calm (imaged 0 reloading) ∧
    (imaged 0 reloading).self.cache.l1d = [] ∧ hdrUses (imgDword 0 0) 0 = false := by
  refine ⟨fun p hp => ⟨entBig, ?_⟩, fun i hi p hp => ⟨entBig, ?_⟩, fun p hp => ⟨entBig, ?_⟩, by dsimp only [calm]; decide +kernel,
    by decide +kernel, by decide +kernel⟩
  · revert p; dsimp only [mapped, mappedFor]; decide +kernel
  · revert p; revert i; dsimp only [mapped, mappedFor]; decide +kernel
  · revert p; dsimp only [mapped, mappedFor]; decide +kernel

/-! ### Witnesses: events of the cores and of translation -/

/-- What answers, answers something. -/
theorem answers {α : Type} {m : X α} {s : State} (h : (match m s with
    | .ok _ _ => true
    | .error _ _ => false) = true) : ∃ a t, m s = .ok a t := by
  split at h
  · exact ⟨_, _, ‹_›⟩
  · exact absurd h (by decide)

/-- A copy whose source lies at an address that is not canonical. -/
def faulty : CopyOp := { copyOf ((runs 0).ctxOf 0) 0 0x0100_0000_0000_0000 0 (dws [0x100_0008, 0, 0, 0]) 0 with
  dstTile := some 1, phase := .running, prevDst := tile .empty }

theorem witness_engine_events :
    let s := fun (o : CopyOp) => copies o
    let f : FlushOp := ⟨0, 0, 0, 0, 0, 1, false, false⟩
    (runsOn 0 fun k => { k with replies := [⟨[(1, 5)]⟩] }).self.replies = [] ++ ⟨[(1, 5)]⟩ :: [] ∧
    (s { bytesCopy with phase := .queued }).self.eng.copies = [] ++ { bytesCopy with phase := .queued } :: [] ∧
    (working (issuedMatrix (mats true).self (mat 0) 0)).self.eng.mats = issuedMatrix (mats true).self (mat 0) 0 :: [] ∧
    (issuedMatrix (mats true).self (mat 0) 0).active = false ∧
    (runsOn 0 fun k => { k with eng := { k.eng with flushes := [f] } }).self.eng.flushes = f :: [] ∧ f.active = false := by
  decide +kernel

/-- A copy that meets a fault. -/
theorem witness_copy_fault : ∃ st syn p, copyRun (faulty.ctx 0 0) faulty (copies faulty) = (.fault st syn, p, copies faulty) ∧
    p.h = faulty.h ∧ p.dstTile = some 1 ∧ (copies faulty).self.eng.copies = [faulty] ∧ faulty.phase = .running :=
  ⟨_, _, _, rfl, rfl, rfl, rfl, rfl⟩

theorem witness_trap_delivery :
    let k := (runsOn 0 fun k => { k with eng := { k.eng with events := [⟨0, 2, 1, 0⟩] } }).self
    k.eng.events = ⟨0, 2, 1, 0⟩ :: [] ∧ k.tk.task ≠ none ∧ k.tk.finished = false ∧ k.tk.preempt = .none ∧ k.tf = false ∧
    k.priv ≠ .machine ∧ k.fab.running = false ∧ k.tk.conf = false := by decide +kernel

/-- A flush whose generation the MSU counts. -/
theorem witness_flush :
    let o : FlushOp := ⟨0, 0, 0, 0, 0x7004, 1, false, true⟩
    let s := runsOn 0 fun k => { k with eng := { k.eng with flushes := [o] } }
    s.self.eng.flushes = [o] ∧ calm s ∧ s.localize (bits o.tdt 12 40 * 4096 + 128 * o.tid.toNat) + 8 < 2 ^ 42 ∧ s.ms.flushFail = [] ∧
    ∃ g t, genBump { tenant := o.tenant, asid := o.asid, root := o.root, tdt := o.tdt, user := !o.super, core := 0, who := .thread 0 } o.tid.toNat
      o.tdt s = .ok g t ∧ t.core 0 = s.self ∧ t.cur = 0 :=
  ⟨by decide +kernel, by dsimp only [calm]; decide +kernel, by decide +kernel, by decide +kernel,
    have ⟨g, t, h⟩ := answers (by decide +kernel)
    ⟨g, t, h, genBump_core h (by decide +kernel)⟩⟩

theorem witness_expiries :
    let s := fun w => runsOn 0 fun k => { k with wait := w }
    let m : State := { runs 0 with ms := { (runs 0).ms with monitors := [⟨0, 3, 0, false⟩] } }
    m.ms.monitor 0 3 = some ⟨0, 3, 0, false⟩ ∧ m.self.wait = .none ∧ (runs 0).self.replies.length < 16 ∧
    (s (.waita 1 8 3 false)).self.wait = .waita 1 8 3 false ∧ (s (.waita 1 8 3 true)).self.wait = .waita 1 8 3 true ∧
    (s (.clasp 3 true)).self.wait = .clasp 3 true := by decide +kernel

theorem witness_walk : (runs 0).self.tk.task ≠ none ∧ ∃ h u,
    resolveGlobal ((runs 0).ctxOf 0) ((0 : BitVec 56).signExtend 64) { kind := 0, n := 1, rewalk := true } anyFormat (runs 0) =
      .ok h u := ⟨by decide +kernel, answers (by decide +kernel)⟩

theorem witness_ats :
    let s := fun (a p : List (Nat × Nat)) (k : List (Asker × Nat × Nat)) => { (runs 0).ms with
      atsWait := a, priWait := p, atsSeek := k }
    (1, 5) ∈ (s [(1, 5)] [] []).atsWait ∧ (s [(1, 5)] [] []).atc = [] ∧ (1, 5) ∉ (s [(1, 5)] [] []).priWait ∧
    (1, 5) ∈ ((s [] [(1, 5)] []).priWait.filter (·.1 == 1)).take 512 ∧
    (s [] [] [(.thread 0, 1, 5)]).atsSeek = [] ++ (.thread 0, 1, 5) :: [] := by decide +kernel

/-- The walk of address 0 through the tables of tenant 0; the page that a copy's reply lies in has no entry at level 4. -/
theorem witness_walked :
    let s := runs 0
    s.self.tk.task ≠ none ∧ walked s (s.ctxOf 0) ((0 : BitVec 56).signExtend 64) { kind := 0, n := 1, rewalk := true }
      (entryAt s 0 0 0x5000) 0 := by
  dsimp only [walked, walks, calm]; decide +kernel

def unmapped : CopyOp := { bytesCopy with reply := 0x8000_0000_0000 * 2 }

theorem witness_unmapped :
    let s := copies unmapped
    let e := entryAt s (canon56 unmapped.reply) 4 ((unmapped.ctx s.self.tk.tenant 0).root * 4096)
    s.self.eng.copies = [unmapped] ∧ unmapped.phase = .running ∧ unmapped.reply ≠ 0 ∧ unmapped.reply.toNat % 8 = 0 ∧
    unmapped.rep = none ∧ unmapped.u = 0 ∧ s.self.cache.tlb = [] ∧ s.ms.l2tlb = [] ∧ s.ms.pwc = [] ∧ calm s ∧
    s.inTables s.self.tk.tenant ((unmapped.ctx s.self.tk.tenant 0).root * 4096 + 8 * walkIndex (canon56 unmapped.reply) 4) 8 = true ∧
    bits e 61 3 = 0 ∧ pteV e = false := by
  dsimp only [calm]; decide +kernel

/-- A shootdown of tenant 0 requested by the physical function, with a completion word inside and outside its windows; the
command register idle and busy. -/
theorem witness_shootdown :
    let d : Shoot := ⟨0, 1, true, false, 0, 0, 0⟩
    let s := fun (r : State) => { r with ms := { r.ms with shoots := [d] } }
    let busy := (runs 0).setReg 0 0x1_0010 0x4000_0000_0000_0000
    ((runs 0).reg 0 0x1_0010).getLsbD 62 = false ∧ (busy.reg 0 0x1_0010).getLsbD 62 = true ∧ (0 : Word).getLsbD 61 = false ∧
    (s (runs 0)).ms.shoots = [d] ∧ d.func = 0 ∧ d.target ≠ 0 ∧ d.target ≤ 64 ∧
    (s (runs 0)).localize (bits ((s (runs 0)).reg 0 0x1_0018) 3 49 * 8) = 0 ∧ (s (runs 0)).inWindows 0 0 8 = true ∧
    inDevice 0 = true ∧ (s State.reset).localize (bits ((s State.reset).reg 0 0x1_0018) 3 49 * 8) = 0 ∧
    (s State.reset).inWindows 0 0 8 = false ∧ (s (runs 0)).ms.chains = [] ∧ (s (runs 0)).ms.hdm = [] ∧
    (s (runs 0)).ms.homes = [] ∧ (runs 0).locked 1 = false := by decide +kernel

/-- Doorbells: a queue that is not enabled; an enabled queue of two records, one record behind and three behind. -/
theorem witness_doorbell :
    let off := ((runs 0).setReg 0 0x5_0008 0x1_0000_0000).readTable
    let s := off.setReg 1 0x10_0000 0x8000_0000_0000_0001
    s.inReset 0 = false ∧ s.queues 0 ≠ 0 ∧ off.queues 0 ≠ 0 ∧ (off.reg 1 0x10_0000).getLsbD 63 = false ∧
    (s.reg 1 0x10_0000).getLsbD 63 = true ∧
    (bits (1 : Word) 0 32 + 2 ^ 32 - bits (s.reg 1 0x10_0018) 0 32) % 2 ^ 32 ≤ 2 ^ bits (s.reg 1 0x10_0000) 0 5 ∧
    2 ^ bits (s.reg 1 0x10_0000) 0 5 < (bits (3 : Word) 0 32 + 2 ^ 32 - bits (s.reg 1 0x10_0018) 0 32) % 2 ^ 32 := by
  decide +kernel

/-! ### Witnesses: events of the memory system -/

/-- The machine with a change of its memory system. -/
def mems (f : MemSys → MemSys) (s : State := maps entCached) : State := { s with ms := f s.ms }

theorem witness_line_fill :
    let s := maps entCached
    s.self.tk.task ≠ none ∧ s.self.cache.tlb = [entCached] ∧ entCached.tenant = s.self.tk.tenant ∧
    pteNc entCached.pte = false ∧ pteTb entCached.pte = false ∧ pteTen entCached.pte = false ∧ pteHost entCached.pte = false ∧
    s.localize (ptePpn entCached.pte * 4096) ≤ 0x60 * 256 ∧
    0x60 * 256 < s.localize (ptePpn entCached.pte * 4096) + leafPages entCached.pte entCached.level * 4096 ∧
    inDevice (0x60 * 256) = true ∧ s.inWindows s.self.tk.tenant (0x60 * 256) 256 = true ∧
    s.ms.isGated (homeBank (0x60 * 256) (pteHl entCached.pte)) = false ∧ s.ms.home (.addr none 0x60) = none ∧ s.ms.homeAt (0x60 * 256) none = none ∧
    s.ms.chains = [] ∧ s.ms.poison = [] := by decide +kernel

/-- A set without lines has a data entry that none takes. -/
theorem witness_roomy : roomy (maps entCached) entCached 0x6000 := ⟨0, by decide +kernel⟩

/-- An addend; the same with a corrected error of its frame; a dirty line of host memory; a line that the host holds. -/
theorem witness_memory_events :
    let d : Addend := ⟨0x6000, .u32, 0, 5, 0⟩
    let line := hostBase / 256
    let h : HomeLine := ⟨.addr none line, (0, 0), 0, 7, BitVec.allOnes 256, 0, [(0, 256, line * 256)], 0⟩
    (mems fun m => { m with chains := [⟨d.pa / 8, [d]⟩] }).ms.chains = [⟨d.pa / 8, [d]⟩] ∧ d.et = .u32 ∧ d.pa < 2 ^ 42 - 4 ∧
    inDevice (0x180 * 64) = true ∧ (maps ent).ms.corrected = [] ∧
    (mems fun m => { m with homes := [h], snoop := [⟨line, h.bank, true, 0⟩] }).ms.homes = [h] ∧ hostBase ≤ line * 256 ∧
    h.key = .addr none line ∧ h.runs = [(0, 256, line * 256)] ∧ h.dirty = BitVec.allOnes 256 ∧ h.poison = 0 ∧
    (mems fun m => { m with homes := [h], snoop := [⟨line, h.bank, true, 0⟩] }).ms.snoop = [⟨line, h.bank, true, 0⟩] ∧
    0x60 ∈ (mems fun m => { m with bisnp := [0x60], hdm := [0x60] }).ms.bisnp := by decide +kernel

/-- Host accesses: beyond device memory; in no tenant's confidential memory; in that of tenant 0, whose TDI is in RUN and whose
window holds all memory. Clusters: one without tasks, not gated. -/
theorem witness_host_access :
    let run : State := { runs 0 with sec := { (runs 0).sec with tdi := (runs 0).sec.tdi.set 0 .run } }
    deviceEnd < deviceEnd + 8 ∧ 0x6000 + 8 ≤ deviceEnd ∧ (runs 0).ms.homes = [] ∧ (runs 0).ms.chains = [] ∧
    (runs 0).confidentialAt 0x6000 = none ∧ (runs 0).confidentialAt (0x6000 + (8 - 1)) = none ∧
    run.confidentialAt 0x6000 = some 1 ∧ (5 : BitVec 6) ∉ (runs 0).ms.gated ∧
    (∀ i < 4, ((runs 0).core (BitVec.ofNat 8 ((5 : BitVec 6).toNat * 4 + i))).tk.task = none) := by decide +kernel

/-! ### Witnesses: the Dealer -/

/-- A task of one core of region 0 of tenant 0, whose record is all zeros. -/
def task0 (st : TaskState) (cores : List CoreId) : Task :=
  { id := 0, q := .ring 0 0, seq := 3, launch := List.replicate 8 0, tenant := 0, region := 0, st := st, cores := cores
    slots := [], domain := 0, since := 0, age := 0, hold := none, dealt := [], q0 := 0, polled := 0, due := false }

/-- The machine with that region, served, these tasks and a change of core 0, which has no task. -/
def dealt0 (tail : Nat) (tasks : List Task) (f : Core → Core := id) (w : Nat := 0) : State :=
  let s := rooted 1 3 tail (runsOn w fun k => f { k with tk := { k.tk with task := none } })
  { s with ms := { s.ms with mem := s.ms.mem.write 0x8008 8 (256 * 2 ^ 55) }, root := { s.root with vf := s.root.vf.set 0 true }
           dealer := { s.dealer with tasks := tasks, next := 0 } }

theorem witness_fetch :
    let s := dealt0 4 []
    let t := task0 .queued []
    ((s.ring? (.ring 0 0)).map fun r => (r.head, r.tail, r.base, r.qlog, r.tenant, r.region)) = some (3, 4, 0x9000, 1, 0, 0) ∧
    s.dealer.paused = false ∧ s.hasHead (.ring 0 0) = false ∧ s.localize (0x9000 + 64 * (3 % 2 ^ 1)) = 0x9040 ∧
    s.inWindows 0 0x9040 64 = true ∧ inDevice 0x9040 = true ∧ s.peek 0x9040 64 = (0, false) ∧ t.id = s.dealer.next ∧
    t.launch = (List.range 8).map (fun i => toWord (fld 0 (64 * i) 64)) ∧ t.malformed (s.rcount 0) = false ∧
    (s.reg t.func 0x4_0010).toNat ≤ t.codegen.toNat := by decide +kernel

theorem witness_fetched :
    let s := dealt0 4 []
    let t := task0 .queued []
    s.unplaceable t = false ∧ t.ndep = 0 ∧ t.compl = 0 ∧ t.msix = false ∧
    t.malformed 0 = true := by decide +kernel

/-- A blocked head that is due and has no counters. -/
theorem witness_reread : readCounters { task0 .blocked [] with due := true } (dealt0 4 [{ task0 .blocked [] with due := true }]) =
    .ok (some true) (dealt0 4 [{ task0 .blocked [] with due := true }]) := rfl

theorem witness_round :
    let t := task0 .ready []
    let o := dealt0 4 [t]
    let o : State := { o with dealer := { o.dealer with rounds := [] } }
    let s := atRound o 0
    ((s.candidate t).map fun c => (s.place t (s.allowed c (s.freeIn (allCores.filter fun y => dieOf y == 0))),
      s.budget t.tenant 1 c.path, c.path.head?.map fun n => s.freeSlots t n.slotlog 1)) =
      some (some [0], true, some (some [0])) ∧
    t.gang = 1 ∧ t.aff < 3 ∧ t.bind = 0 ∧ o.dealer.paused = false ∧ o.dealer.rounds = [] := by
  decide +kernel

theorem witness_idle :
    let s := { runs 0 with dealer := { (runs 0).dealer with rounds := [0, 1, 2, 3] } }
    s.dealer.paused = false ∧ (∀ die : BitVec 2, die ∈ s.dealer.rounds) ∧ idle s := by dsimp only [idle]; decide +kernel

/-- A gang of two that has waited longer than its region's HOLDLIM, which is 0. -/
theorem witness_hold :
    let t : Task := { task0 .ready [] with launch := [0x0100_0000_0000_0000, 0, 0, 0, 0, 0, 0, 0], age := 1 }
    let s := dealt0 4 [t]
    ((s.candidate t).map fun c => (s.holdDomain c).isSome && decide (eff c.path 10 Node.holdlim < t.age)) = some true ∧
    t.gang = 2 ∧ t.hold = none := by decide +kernel

/-- A running task whose quantum has passed, that no task waits for, and one that a task waits for. -/
theorem witness_quantum :
    let t := { task0 .running [0] with age := 1000 }
    let alone := fun (s : State) => { s with cores :=
      (Vector.replicate 256 { s.core 1 with tk := { (s.core 1).tk with pool := false } }).set 0 (s.core 0) }
    let s := alone (dealt0 4 [t] fun k => { k with tk := { k.tk with task := some 0 } })
    let next : Task := { task0 .ready [] with id := 1 }
    let w := alone (dealt0 4 [t, next] fun k => { k with tk := { k.tk with task := some 0 } })
    s.task t.id = some t ∧ s.undisturbed t = true ∧ eff (s.pathOf t) 8 Node.quantum ≤ t.age - t.q0 ∧
    s.wanted t = false ∧ w.task t.id = some t ∧ w.undisturbed t = true ∧ w.wanted t = true ∧ (s.core 0).tk.task = some t.id ∧ (s.core 0).acn.pots = [] := by decide +kernel

/-- A blocked head that is due, with one counter, at address 0. -/
def counted : Task := { task0 .blocked [] with launch := [0, 0x0100_0000_0000_0000, 0, 0, 0, 0, 0, 0], due := true }

/-- The machine with that counter in a page that the tenant's tables map. -/
def counting : State :=
  mems (fun m => { m with mem := m.mem.write 0x5000 8 0x61BF }) ((dealt0 4 [counted] id 5).setReg 1 0x3_0018 0x1000)

theorem witness_counter : counting.dealer.tasks = [counted] ∧ counted.st = .blocked ∧
    ∃ v, readCounters counted counting = .ok (some false) v ∧ v.dealer = counting.dealer := by
  have h : (match readCounters counted counting with
      | .ok b v => b == some false && decide (v.dealer = counting.dealer)
      | .error _ _ => false) = true := by decide +kernel
  refine ⟨by decide +kernel, by decide +kernel, ?_⟩
  split at h
  · rename_i b v heq
    rw [Bool.and_eq_true, beq_iff_eq, decide_eq_true_eq] at h
    rw [← h.1]
    exact ⟨v, heq, h.2⟩
  · exact absurd h (by decide)

/-- The walk to that counter through the tables of its tenant. -/
theorem witness_counted :
    counted.ndep = 1 ∧ counted.q = .ring 0 0 ∧ walked counting (counting.dealerCtx 0) (counted.waitAt 0)
      { kind := 0, n := 8, msu := true } (entryAt counting 0 0 0x5000) 0 := by
  dsimp only [walked, walks, calm]; decide +kernel

/-- The running task of core 0 in this stage of its pre-emption. -/
def staged (p : Preempt) (f : Core → Core := id) : State :=
  dealt0 4 [task0 .running [0]] fun k => f { k with tk := { k.tk with task := some 0, preempt := p } }

theorem witness_preemption :
    let x : Joiner := ⟨0, 0, 0, 0, 2, false⟩
    let d := staged .deferred fun k => { k with acn := { k.acn with pots := [pot0 0] } }
    d.self.acn.pots = [pot0 0] ∧ (pot0 0).complete = false ∧ (pot0 0).spilled = false ∧ (pot0 0).joiners = [x] ∧ 0 < x.left ∧
    d.isLocal x.node = true ∧ d.self.tk.preempt = .deferred ∧ d.self.tk.task = some (task0 .running [0]).id ∧
    atBoundary (staged .due).self ∧ (staged .due).self.tk.preempt = .due ∧ (staged .due).self.eng.events = [] ∧
    (staged .noticed).self.tk.preempt = .noticed := by dsimp only [atBoundary]; decide +kernel

theorem witness_save :
    let k := (staged .stopping).self
    (staged .stopping).dealer.tasks = [task0 .running [0]] ∧ k.tk.preempt = .stopping ∧ k.replies = [] ∧ k.fab.running = false ∧
    k.wait = .none ∧ k.tk.retire = [] ∧ (staged .stopping).ms.chains = [] ∧ (staged .stopping).sending 0 = false ∧
    k.acn.pots = [] ∧ (staged .stopping).dealer.saved = [] ∧ 16 ≤ k.slices ∧
    (0 : CoreId) ∈ domainCores (task0 .running [0]).aff (task0 .running [0]).domain := by decide +kernel

/-- A task of core 0 that was dealt under a region whose save slots begin at 0xA000. -/
def slotted : Task := { task0 .running [0] with dealt := [⟨0, (List.replicate 16 0).set 6 0xA000⟩] }

/-- That task being restored from slot 0. -/
def restored : State :=
  let s := dealt0 4 [slotted] fun k => { k with tk := { k.tk with task := some 0, preempt := .restoring } }
  let k := s.core 0
  { s with
    ms := { s.ms with mem := (s.ms.mem.write 0x8030 8 0xA000).write 0xA000 8 (0x43545849 * 2 ^ 32 + 2 ^ 24 + 32 * 2 ^ 16) }
    dealer := { s.dealer with saved := [⟨0, 0, 0, 32, k, none⟩] } }

theorem witness_restore :
    let x := restored.dealer.saved
    x.map (fun x => (x.task, x.rank)) = [(0, restored.self.tk.rank)] ∧ restored.self.tk.preempt = .restoring ∧
    restored.dealer.tasks = [slotted] ∧ restored.slotAddr slotted restored.self.tk.slot 4096 = some 0xA000 ∧
    ((restored.readHeader 0xA000).magic, (restored.readHeader 0xA000).version) = (0x43545849, 1) ∧
    (restored.readHeader 0xA000).slices ≤ restored.self.slices ∧
    x.all (fun x => x.body.acn.pots.isEmpty) = true := by decide +kernel

theorem witness_slices :
    let k := (dealt0 4 []).self
    k.tk.task = none ∧ (dealt0 4 []).dealer.tasks = [] ∧ (k.csrAt 0x130).getLsbD 0 = true ∧
    (k.csrAt 0x005).getLsbD 31 = true := by decide +kernel

/-! ### Witnesses: tenants, power, links and the device -/

/-- The machine with the TDI of function 1 in this state, its session open. -/
def tdis (d : Tdi) (f : Core → Core := id) : State :=
  let s := runsOn 0 f
  { s with sec := { s.sec with tdi := s.sec.tdi.set 0 d, session := s.sec.session.set 0 true } }

theorem witness_registers :
    let off := ((runs 0).setReg 0 0x5_0008 0x1_0000_0000).readTable
    let s := off.setReg 1 0x10_0000 0x8000_0000_0000_0001
    let masked : State := { runs 0 with root := { (runs 0).root with pba := [(1, 7)] } }
    off.queues (1 - 1) ≠ 0 ∧ off.locked 1 = false ∧ (off.reg 1 0x10_0000).getLsbD 63 = false ∧
    (0x8000_0000_0000_0001 : Word).getLsbD 63 = true ∧ (s.reg 1 0x10_0000).getLsbD 63 = true ∧ s.locked 1 = false ∧
    (tdis .locked).locked 1 = true ∧ (1, (7 : BitVec 8).toNat) ∉ (runs 0).root.unmasked ∧
    (1, (7 : BitVec 8).toNat) ∉ (runs 0).root.pba ∧ (1, (7 : BitVec 8).toNat) ∈ masked.root.pba ∧
    (∀ p ∈ (runs 0).links.ports.toList, p.st ≠ 2) ∧
    ∃ p ∈ ((runs 0).setPort 0 ⟨2, 0xFF, 0, 0, []⟩).links.ports.toList, p.st = 2 := by decide +kernel

theorem witness_tenants :
    (tdis .run).sec.tdi[(0 : Fin 64)] = .run ∧ (tdis .run).dealer.saved = [] ∧ (∀ y, ((tdis .run).core y).eng.copies = []) ∧
    (tdis .run).self.tk.task ≠ none ∧ (tdis .run).self.tk.tenant = 0 ∧ (tdis .run).self.tk.preempt = .none ∧
    (tdis .unlocked).sec.tdi[(0 : Fin 64)] = .unlocked ∧ (tdis .locked).sec.tdi[(0 : Fin 64)] = .locked ∧
    (tdis .unlocked).inReset 0 = false ∧ (tdis .unlocked).sec.session[(0 : Fin 64)] = true ∧
    (∀ e ∈ (tdis .run).sec.keys, e.func ≠ 1) ∧ (tdis .run).sec.keys.length < 4096 ∧
    ({ runs 0 with root := { (runs 0).root with resets := [0] } } : State).inReset 0 = true := by decide +kernel

/-- CONF tiles, one READY and one of no tenant; a decryption under way; CONF_LOST held. -/
theorem witness_confidential :
    let e := { tile .ready with conf := true }
    let o : CopyOp := { bytesCopy with kind := 1, srcTile := none }
    let k := (tdis .run fun k => { k with tiles := k.tiles.set 0 e }).self
    let l := (tdis .run fun k => { k with tk := { k.tk with conf := true } }).self
    ((k.tile 0).v ∧ (k.tile 0).tenant = 0 ∧ (k.tile 0).conf) ∧ ¬((k.tile 1).v ∧ (k.tile 1).tenant = 0 ∧ (k.tile 1).conf) ∧
    (copies o).self.eng.copies = [o] ∧ o.kind = 1 ∧ o.refused = none ∧ o.dstTile = some 1 ∧ o.srcTile = none ∧
    l.tk.task ≠ none ∧ l.tk.finished = false ∧ l.tk.preempt = .none ∧ l.tf = false ∧ l.priv ≠ .machine ∧
    l.fab.running = false ∧ l.tk.conf = true := by decide +kernel

/-- Ports: up with many errors, trained thrice within a second, with 8 lanes and with 4; down; in training with too few lanes. A
waiting member. -/
theorem witness_links :
    let s := fun p => (runs 0).setPort 0 p
    let up : Port := ⟨2, 0xFF, 0, 16, [0, 0, 0]⟩
    ((s up).port 0).st = 2 ∧ 16 ≤ ((s up).port 0).fails ∧
    3 ≤ (((s up).port 0).retrains.filter fun t => (s up).rounds < t + 1000000).length ∧ ((runs 0).port 0).st = 0 ∧
    ((s ⟨1, 7, 0, 0, []⟩).port 0).st = 1 ∧ lanesOf ((s ⟨1, 7, 0, 0, []⟩).port 0) < 4 ∧ ((s up).port 0).lanes.getLsbD 3 = true ∧
    4 ≤ lanesOf { up with lanes := up.lanes &&& ~~~(1 : BitVec 8) <<< 3 } ∧
    lanesOf { up with lanes := (0xF : BitVec 8) &&& ~~~(1 : BitVec 8) <<< 3 } < 4 ∧
    (runsOn 0 fun k => { k with wait := .remote 5 false }).self.wait = .remote 5 false := by decide +kernel

/-- A device that is node 3, paired with tenant 9 of node 2 for tenant 0. -/
theorem witness_remote :
    let s := ((runs 0).setReg 0 0xA_0000 3).setReg 0 0x7_2000 0x8000_0000_0000_0089
    s.node ≠ 0 ∧ s.pairOf 2 9 = some 0 ∧ s.pairOf 2 8 = none ∧ s.inReset 0 = false ∧ s.inTables 0 0x6000 8 = true ∧
    s.ms.homes = [] ∧ s.ms.chains = [] ∧ s.ms.hdm = [] ∧ s.ms.poison = [] := by decide +kernel

theorem witness_device :
    let t := task0 .running [0]
    let k := (staged .none).self
    let q : State := { State.reset with dealer := { State.reset.dealer with quiesced := [2] } }
    let one : State := { runs 0 with root := { (runs 0).root with vf := (Vector.replicate 64 false).set 5 true } }
    (dealt0 4 []).dealer.tasks = [] ∧ (dealt0 4 []).ms.homes = [] ∧ 2 ∈ q.dealer.quiesced ∧
    (∀ y : CoreId, y.toNat / 64 = 2 → (q.core y).tk.task = none) ∧ k.tk.task = some t.id ∧ t.compl = 0 ∧ t.msix = false ∧
    k.eng.copies = [] ∧ (runs 0).rcount 0 = 0 ∧ (∀ i < 64, (runs 0).root.vf[i]? = some false) ∧
    ∀ i < 64, one.root.vf[i]? = some (i == (5 : BitVec 6).toNat) := by decide +kernel

/-- The one running task of a tenant whose table of regions is empty. -/
theorem witness_uncontained :
    let s := ((staged .none).setReg 0 0x5_0010 0).readTable
    s.dealer.tasks = [task0 .running [0]] ∧ s.rcount 0 = 0 ∧ s.dealer.saved = [] ∧ s.self.tk.task = some 0 := by decide +kernel

/-! ### Witnesses: the step -/

/-- A thread that moves next: its word, its extension word and what follows are in its instruction cache. -/
def stepping (w0 w1 : Word) (f : Core → Core := id) : State :=
  maps ent fun k => f { k with cache := { k.cache with icache := [(0x6000 / 8, w0), (0x6008 / 8, w1)] } }

/-- Words that decode to NOP and to none for each reason, with and without an extension word before them. -/
theorem witness_decodes :
    let s := stepping 0 0
    decode s.step 0xE000_0000_0000_0000 0 = .ok (.nop ⟨0, 0, 0, none⟩) ∧ opOf (0xE000_0000_0000_0000 : Word) ≠ extOp ∧
    decode s.step 0x0400_0000_0000_0000 0 = .error .illegalOp ∧ opOf (0x0400_0000_0000_0000 : Word) ≠ extOp ∧
    decode s.step 0xE000_0000_0000_0001 0 = .error .illegalEnc ∧
    opOf (0xF000_0000_0001_2345 : Word) = extOp ∧
    decode s.step 0xF000_0000_0001_2345 0x1124_0067_89AB_CDEF = .ok (.li ⟨9, 0, 0x67_89AB_CDEF, some 0x01_2345⟩) ∧
    decode s.step 0xF000_0000_0001_2345 0x0400_0000_0000_0000 = .error .illegalOp ∧
    decode s.step 0xF000_0000_0001_2345 0xE000_00FF_0000_0000 = .error .illegalEnc ∧
    decode s.step 0xF000_0000_0001_2345 0x0028_A300_0000_0000 = .error .extRefused := by decide +kernel

theorem witness_thread_moves : threadMoves (stepping 0 0) := by dsimp only [threadMoves]; decide +kernel

/-- Words that the instruction cache holds, and one that memory holds. -/
def words0 : State := stepping 0xF000_0000_0001_2345 0x1124_0067_89AB_CDEF

theorem witness_fetches : fetches words0 0 0xF000_0000_0001_2345 words0 ∧ fetches words0 8 0x1124_0067_89AB_CDEF words0 :=
  ⟨⟨_, _, resolveGlobal_tlb (e := ent) (by decide) rfl (by decide +kernel) (by decide +kernel) (by decide +kernel)
      (by decide +kernel) (by decide +kernel) rfl, .inl ⟨by decide +kernel, rfl⟩⟩,
    ⟨_, _, resolveGlobal_tlb (e := ent) (by decide) rfl (by decide +kernel) (by decide +kernel) (by decide +kernel)
      (by decide +kernel) (by decide +kernel) rfl, .inl ⟨by decide +kernel, rfl⟩⟩⟩

theorem witness_fetches_memory : ∃ w t, fetches (maps ent) 0 w t :=
  ⟨_, _, _, _, resolveGlobal_tlb (e := ent) (by decide) rfl (by decide +kernel) (by decide +kernel) (by decide +kernel) (by decide +kernel)
    (by decide +kernel) rfl, .inr ⟨by decide +kernel, by decide +kernel, by decide +kernel, by decide +kernel, by decide +kernel, rfl,
    rfl⟩⟩

/-- An agenda with a core's thread. -/
theorem witness_agenda : ({ runs 0 with agenda := [.thread 0] } : State).agenda = .thread 0 :: [] ∧
    (runs 0).threadReady 0 = true := by decide +kernel

/-- An outcome that is a next state. -/
theorem next_of {o : Out} (h : (match o with
    | .next _ => true
    | _ => false) = true) : ∃ t, o = .next t := by
  split at h
  · exact ⟨_, rfl⟩
  · exact absurd h (by decide)

/-- A step is taken from a state in which the invariant holds. -/
theorem witness_invariant : apendRight State.reset ∧ ∃ t, step State.reset = .next t :=
  ⟨by dsimp only [apendRight]; decide +kernel, next_of (by decide +kernel)⟩

/-- A well-formed instruction with words. -/
theorem witness_round_trip : (Instr.add ⟨1, 2, 3, 0⟩).wellFormed = true ∧ encode (.add ⟨1, 2, 3, 0⟩) ≠ [] ∧
    decode .b0 0x0004_20C0_0000_0000 0 = .ok (.add ⟨1, 2, 3, 0⟩) := by decide +kernel

/-! ### Decoding (R186, R193, R196): each word from its drawing, its opcode and its sub-function -/

/-- Words of format SA, scalar register. -/
theorem test_decode_sa1 : ∀ p ∈ ([
    (0x0024_A2C0_0000_0000, .add ⟨9, 10, 11, 0⟩),
    (0x0024_A2C0_0010_0000, .sub ⟨9, 10, 11, 0⟩),
    (0x0024_A2C0_0020_0000, .and ⟨9, 10, 11, 0⟩),
    (0x0024_A2C0_0030_0000, .or ⟨9, 10, 11, 0⟩),
    (0x0024_A2C0_0040_0000, .xor ⟨9, 10, 11, 0⟩),
    (0x0024_A2C0_0050_0000, .andn ⟨9, 10, 11, 0⟩),
    (0x0024_A2C0_0060_0000, .shl ⟨9, 10, 11, 0⟩),
    (0x0024_A2C0_0070_0000, .shr ⟨9, 10, 11, 0⟩),
    (0x0024_A2C0_0080_0000, .sra ⟨9, 10, 11, 0⟩),
    (0x0024_A2C0_0090_0000, .rotr ⟨9, 10, 11, 0⟩),
    (0x0024_A2C0_00A0_0000, .min ⟨9, 10, 11, 0⟩),
    (0x0024_A2C0_00B0_0000, .max ⟨9, 10, 11, 0⟩)] : List (Nat × Instr)),
    decodeTableWord 64 p.1 = some p.2 := by decide +kernel

/-- Words of format SA, scalar register. -/
theorem test_decode_sa2 : ∀ p ∈ ([
    (0x0024_A2C0_00C0_0000, .minu ⟨9, 10, 11, 0⟩),
    (0x0024_A2C0_00D0_0000, .maxu ⟨9, 10, 11, 0⟩),
    (0x0124_A2C0_0000_0000, .mul ⟨9, 10, 11, 0⟩),
    (0x0124_A2C0_0010_0000, .mulh ⟨9, 10, 11, 0⟩),
    (0x0124_A2C0_0020_0000, .mulhU ⟨9, 10, 11, 0⟩),
    (0x0124_A2C0_0030_0000, .mulhSu ⟨9, 10, 11, 0⟩),
    (0x0124_A2C0_0040_0000, .div ⟨9, 10, 11, 0⟩),
    (0x0124_A2C0_0050_0000, .divu ⟨9, 10, 11, 0⟩),
    (0x0124_A2C0_0060_0000, .rem ⟨9, 10, 11, 0⟩),
    (0x0124_A2C0_0070_0000, .remu ⟨9, 10, 11, 0⟩),
    (0x0224_A2CC_0100_0000, .sel ⟨9, 10, 11, 12⟩),
    (0x0324_A000_0000_0000, .clz ⟨9, 10, 0, 0⟩)] : List (Nat × Instr)),
    decodeTableWord 64 p.1 = some p.2 := by decide +kernel

/-- Words of format SA, scalar register. -/
theorem test_decode_sa3 : ∀ p ∈ ([
    (0x0324_A000_0010_0000, .ctz ⟨9, 10, 0, 0⟩),
    (0x0324_A000_0020_0000, .popc ⟨9, 10, 0, 0⟩),
    (0x0324_A000_0030_0000, .brev ⟨9, 10, 0, 0⟩),
    (0x0324_A2CC_0040_0000, .bfxU ⟨9, 10, 11, 12⟩),
    (0x0324_A2CC_0050_0000, .bfxS ⟨9, 10, 11, 12⟩),
    (0x0324_A2CC_0060_0000, .bfi ⟨9, 10, 11, 12⟩),
    (0x0324_A000_0100_0000, .sextB ⟨9, 10, 0, 0⟩),
    (0x0324_A000_0110_0000, .sextH ⟨9, 10, 0, 0⟩),
    (0x0324_A000_0120_0000, .sextW ⟨9, 10, 0, 0⟩),
    (0x0324_A000_0180_0000, .zextB ⟨9, 10, 0, 0⟩),
    (0x0324_A000_0190_0000, .zextH ⟨9, 10, 0, 0⟩),
    (0x0324_A000_01A0_0000, .zextW ⟨9, 10, 0, 0⟩)] : List (Nat × Instr)),
    decodeTableWord 64 p.1 = some p.2 := by decide +kernel

/-- Words of format SA, scalar register. -/
theorem test_decode_sa4 : ∀ p ∈ ([
    (0x0224_A2C0_0050_0000, .cmpCc .geu ⟨9, 10, 11, 0⟩),
    (0x2824_A2C0_0000_0000, .fadd .f32 ⟨9, 10, 11, 0⟩),
    (0x2824_A2C0_1010_0000, .fsub .f64 ⟨9, 10, 11, 0⟩),
    (0x2824_A2C0_2020_0000, .fmul .f16 ⟨9, 10, 11, 0⟩),
    (0x2824_A2CC_3030_0000, .ffma .bf16 ⟨9, 10, 11, 12⟩),
    (0x2824_A2C0_0040_0000, .fdiv .f32 ⟨9, 10, 11, 0⟩),
    (0x2824_A000_1050_0000, .fsqrt .f64 ⟨9, 10, 0, 0⟩),
    (0x2824_A2C0_2060_0000, .fmin .f16 ⟨9, 10, 11, 0⟩),
    (0x2824_A2C0_3070_0000, .fmax .bf16 ⟨9, 10, 11, 0⟩),
    (0x2924_A2C0_1000_0000, .fcmpEq .f64 ⟨9, 10, 11, 0⟩),
    (0x2924_A2C0_2010_0000, .fcmpLt .f16 ⟨9, 10, 11, 0⟩),
    (0x2924_A2C0_3020_0000, .fcmpLe .bf16 ⟨9, 10, 11, 0⟩)] : List (Nat × Instr)),
    decodeTableWord 64 p.1 = some p.2 := by decide +kernel

/-- Words of format SA, scalar register. -/
theorem test_decode_sa5 : ∀ p ∈ ([
    (0x2924_A2C0_0030_0000, .fcmpUn .f32 ⟨9, 10, 11, 0⟩),
    (0x2924_A000_1100_0000, .fclass .f64 ⟨9, 10, 0, 0⟩),
    (0x2924_A000_0200_0000, .fmv ⟨9, 10, 0, 0⟩),
    (0x2A24_A000_1040_0000, .fcvt .f16 .i32 ⟨9, 10, 0, 0⟩),
    (0x4024_A2C0_0000_0000, .setshape ⟨9, 10, 11, 0⟩),
    (0x4224_0000_0000_0000, .vqlen ⟨9, 0, 0, 0⟩),
    (0x4300_A2CC_0000_0000, .settile ⟨0, 10, 11, 12⟩)] : List (Nat × Instr)),
    decodeTableWord 64 p.1 = some p.2 := by decide +kernel

/-- Words of format SI, scalar immediate. -/
theorem test_decode_si1 : ∀ p ∈ ([
    (0x1024_A0FF_FFFF_FFF9, .addi ⟨9, 10, 0xfffffffff9, none⟩),
    (0x1024_A1FF_FFFF_FFF9, .andi ⟨9, 10, 0xfffffffff9, none⟩),
    (0x1024_A2FF_FFFF_FFF9, .ori ⟨9, 10, 0xfffffffff9, none⟩),
    (0x1024_A3FF_FFFF_FFF9, .xori ⟨9, 10, 0xfffffffff9, none⟩),
    (0x1024_A400_0000_003F, .shli ⟨9, 10, 63, none⟩),
    (0x1024_A500_0000_003F, .shri ⟨9, 10, 63, none⟩),
    (0x1024_A600_0000_003F, .srai ⟨9, 10, 63, none⟩),
    (0x1124_00FF_FFFF_FFFE, .li ⟨9, 0, 0xfffffffffe, none⟩),
    (0x1124_A100_00AB_CDEF, .lix ⟨9, 10, 0xabcdef, none⟩),
    (0x1224_A400_0000_0064, .cmpi .ltu ⟨9, 10, 100, none⟩),
    (0x4124_A000_0000_0003, .setcfg ⟨9, 10, 3, none⟩),
    (0x4124_A100_0000_0003, .setcfgEw ⟨9, 10, 3, none⟩)] : List (Nat × Instr)),
    decodeTableWord 64 p.1 = some p.2 := by decide +kernel

/-- Words of format SI, scalar immediate. -/
theorem test_decode_si2 : ∀ p ∈ ([
    (0x4124_A200_0000_0003, .setcfgScope ⟨9, 10, 3, none⟩),
    (0x4124_A300_0000_0003, .setcfgSpace ⟨9, 10, 3, none⟩),
    (0x4124_A400_0000_0003, .setcfgRm ⟨9, 10, 3, none⟩)] : List (Nat × Instr)),
    decodeTableWord 64 p.1 = some p.2 := by decide +kernel

/-- Words of format SB, branch and loop. -/
theorem test_decode_sb1 : ∀ p ∈ ([
    (0x2032_8BFF_FFFF_FFFE, .brCc .ge ⟨10, 11, 0xfffffffffe⟩),
    (0x2100_00FF_FFFF_FFFB, .jmp ⟨0, 0, 0xfffffffffb⟩),
    (0x2200_0000_0000_0006, .jal ⟨0, 0, 6⟩),
    (0x2300_4000_0000_0001, .jr ⟨1, 0, 1⟩),
    (0x2412_C000_0000_0003, .loop 1 ⟨11, 0, 3⟩),
    (0x251A_BC00_0000_0009, .loopi 1 ⟨42, 60, 9⟩)] : List (Nat × Instr)),
    decodeTableWord 64 p.1 = some p.2 := by decide +kernel

/-- Words of format SM, scalar memory. -/
theorem test_decode_sm1 : ∀ p ∈ ([
    (0x3024_A03B_BFFF_FFF0, .ld ⟨9, 10, 0, 3, 5, 6, 0x3ffffff0, none⟩),
    (0x3124_A022_C000_0018, .st ⟨9, 10, 0, 2, 1, 3, 24, none⟩),
    (0x3324_A2F4_8000_0008, .cas ⟨9, 10, 11, 3, 2, 2, 8, none⟩),
    (0xA824_A2D0_0000_0010, .claim ⟨9, 10, 11, 1, 0, 0, 16, none⟩),
    (0xAA24_A2E0_0000_0020, .claspInit ⟨9, 10, 11, 2, 0, 0, 32, none⟩),
    (0xAB24_A00A_0000_0000, .claspArrive ⟨9, 10, 0, 0, 5, 0, 0, none⟩),
    (0xAC24_A000_3FFF_FFE0, .claspDrop ⟨9, 10, 0, 0, 0, 0, 0x3fffffe0, none⟩),
    (0xAD24_A2C6_0000_0000, .claspWait ⟨9, 10, 11, 0, 3, 0, 0, none⟩),
    (0xAE24_A2C0_C000_0008, .waita ⟨9, 10, 11, 0, 0, 3, 8, none⟩),
    (0x3224_A2C0_8000_0000, .amoAdd ⟨9, 10, 11, 0, 0, 2, 0, none⟩),
    (0x3224_A2D2_C000_0001, .amoAnd ⟨9, 10, 11, 1, 1, 3, 1, none⟩),
    (0x3224_A2E4_8000_0002, .amoOr ⟨9, 10, 11, 2, 2, 2, 2, none⟩)] : List (Nat × Instr)),
    decodeTableWord 64 p.1 = some p.2 := by decide +kernel

/-- Words of format SM, scalar memory. -/
theorem test_decode_sm2 : ∀ p ∈ ([
    (0x3224_A2F6_C000_0003, .amoXor ⟨9, 10, 11, 3, 3, 3, 3, none⟩),
    (0x3224_A2C8_8000_0004, .amoMin ⟨9, 10, 11, 0, 4, 2, 4, none⟩),
    (0x3224_A2DA_C000_0005, .amoMax ⟨9, 10, 11, 1, 5, 3, 5, none⟩),
    (0x3224_A2E0_8000_0006, .amoMinu ⟨9, 10, 11, 2, 0, 2, 6, none⟩),
    (0x3224_A2F2_C000_0007, .amoMaxu ⟨9, 10, 11, 3, 1, 3, 7, none⟩),
    (0x3224_A2C4_8000_0008, .amoSwap ⟨9, 10, 11, 0, 2, 2, 8, none⟩),
    (0x3224_A2D6_C000_0009, .amoIncb ⟨9, 10, 11, 1, 3, 3, 9, none⟩),
    (0x3400_0018_0000_0000, .fenceAcq ⟨0, 0, 0, 1, 4, 0, 0, none⟩),
    (0x3400_0028_0000_0000, .fenceRel ⟨0, 0, 0, 2, 4, 0, 0, none⟩),
    (0x3400_0038_0000_0000, .fenceFull ⟨0, 0, 0, 3, 4, 0, 0, none⟩),
    (0xA924_A2C0_0000_0000, .deckPush ⟨9, 10, 11, 0, 0, 0, 0, none⟩),
    (0xA924_A2C0_0000_0001, .deckPop ⟨9, 10, 11, 0, 0, 0, 1, none⟩)] : List (Nat × Instr)),
    decodeTableWord 64 p.1 = some p.2 := by decide +kernel

/-- Words of format SM, scalar memory. -/
theorem test_decode_sm3 : ∀ p ∈ ([
    (0xA924_A2C0_0000_0002, .deckSteal ⟨9, 10, 11, 0, 0, 0, 2, none⟩)] : List (Nat × Instr)),
    decodeTableWord 64 p.1 = some p.2 := by decide +kernel

/-- Words of format VA, vector arithmetic. -/
theorem test_decode_va1 : ∀ p ∈ ([
    (0x5002_0A30_05C0_0000, .vadd ⟨1, 2, 70, 0, 2, 1, 1, 1, 0, .i8⟩),
    (0x5002_0A30_05C3_0010, .vsub ⟨1, 2, 70, 0, 2, 1, 1, 1, 0, .u16⟩),
    (0x5002_0A30_05C4_0020, .vmul ⟨1, 2, 70, 0, 2, 1, 1, 1, 0, .i32⟩),
    (0x5002_0A30_05C7_0030, .vmulh ⟨1, 2, 70, 0, 2, 1, 1, 1, 0, .u64⟩),
    (0x5002_0A30_05C0_0040, .vdiv ⟨1, 2, 70, 0, 2, 1, 1, 1, 0, .i8⟩),
    (0x5002_0A30_05C3_0050, .vmin ⟨1, 2, 70, 0, 2, 1, 1, 1, 0, .u16⟩),
    (0x5002_0A30_05C4_0060, .vmax ⟨1, 2, 70, 0, 2, 1, 1, 1, 0, .i32⟩),
    (0x5102_0A30_45E7_0000, .vfma ⟨1, 2, 70, 4, 2, 1, 1, 1, 1, .u64⟩),
    (0x5102_0A30_45E0_0010, .vfms ⟨1, 2, 70, 4, 2, 1, 1, 1, 1, .i8⟩),
    (0x5102_0A30_45E3_0020, .vfnma ⟨1, 2, 70, 4, 2, 1, 1, 1, 1, .u16⟩),
    (0x5202_0800_0584_0000, .vabs ⟨1, 2, 0, 0, 2, 1, 1, 0, 0, .i32⟩),
    (0x5202_0800_0587_0010, .vneg ⟨1, 2, 0, 0, 2, 1, 1, 0, 0, .u64⟩)] : List (Nat × Instr)),
    decodeTableWord 64 p.1 = some p.2 := by decide +kernel

/-- Words of format VA, vector arithmetic. -/
theorem test_decode_va2 : ∀ p ∈ ([
    (0x5202_0800_0580_0020, .vnot ⟨1, 2, 0, 0, 2, 1, 1, 0, 0, .i8⟩),
    (0x5202_0800_0589_0030, .vsqrt ⟨1, 2, 0, 0, 2, 1, 1, 0, 0, .bf16⟩),
    (0x5202_0800_058A_0040, .vrcp ⟨1, 2, 0, 0, 2, 1, 1, 0, 0, .f32⟩),
    (0x5202_0800_0588_0050, .vrsq ⟨1, 2, 0, 0, 2, 1, 1, 0, 0, .f16⟩),
    (0x5202_0800_0580_0060, .vclz ⟨1, 2, 0, 0, 2, 1, 1, 0, 0, .i8⟩),
    (0x5202_0800_0583_0070, .vpopc ⟨1, 2, 0, 0, 2, 1, 1, 0, 0, .u16⟩),
    (0x5302_0A30_05C4_0000, .vand ⟨1, 2, 70, 0, 2, 1, 1, 1, 0, .i32⟩),
    (0x5302_0A30_05C7_0010, .vor ⟨1, 2, 70, 0, 2, 1, 1, 1, 0, .u64⟩),
    (0x5302_0A30_05C0_0020, .vxor ⟨1, 2, 70, 0, 2, 1, 1, 1, 0, .i8⟩),
    (0x5302_0A30_05C3_0030, .vshl ⟨1, 2, 70, 0, 2, 1, 1, 1, 0, .u16⟩),
    (0x5302_0A30_05C4_0040, .vshr ⟨1, 2, 70, 0, 2, 1, 1, 1, 0, .i32⟩),
    (0x5302_0A30_05C7_0050, .vsra ⟨1, 2, 70, 0, 2, 1, 1, 1, 0, .u64⟩)] : List (Nat × Instr)),
    decodeTableWord 64 p.1 = some p.2 := by decide +kernel

/-- Words of format VA, vector arithmetic. -/
theorem test_decode_va3 : ∀ p ∈ ([
    (0x5402_0A30_04C0_0100, .vsel ⟨1, 2, 70, 0, 2, 0, 1, 1, 0, .i8⟩),
    (0x5502_0A58_05C3_0010, .vbcast ⟨1, 2, 75, 0, 2, 1, 1, 1, 0, .u16⟩),
    (0x5502_0000_0504_0020, .viota ⟨1, 0, 0, 0, 2, 1, 0, 0, 0, .i32⟩),
    (0x5592_0A58_00C7_0030, .vmvx ⟨73, 2, 75, 0, 0, 0, 1, 1, 0, .u64⟩),
    (0x5503_2A58_00C0_0040, .vmvs ⟨1, 74, 75, 0, 0, 0, 1, 1, 0, .i8⟩),
    (0x5602_0800_058A_0000, .vexp2 ⟨1, 2, 0, 0, 2, 1, 1, 0, 0, .f32⟩),
    (0x5602_0800_0588_0010, .vlog2 ⟨1, 2, 0, 0, 2, 1, 1, 0, 0, .f16⟩),
    (0x5602_0800_0589_0020, .vsin ⟨1, 2, 0, 0, 2, 1, 1, 0, 0, .bf16⟩),
    (0x5602_0800_058A_0030, .vcos ⟨1, 2, 0, 0, 2, 1, 1, 0, 0, .f32⟩),
    (0x5502_0800_058B_0000, .vmov ⟨1, 2, 0, 0, 2, 1, 1, 0, 0, .f64⟩),
    (0x540A_0A30_05C2_0050, .vcmpCc .geu ⟨5, 2, 70, 0, 2, 1, 1, 1, 0, .i16⟩),
    (0x579A_0800_0485_0050, .vred .xor ⟨77, 2, 0, 0, 2, 0, 1, 0, 0, .u32⟩)] : List (Nat × Instr)),
    decodeTableWord 64 p.1 = some p.2 := by decide +kernel

/-- Words of format VA, vector arithmetic. -/
theorem test_decode_va4 : ∀ p ∈ ([
    (0x5702_0800_0485_0120, .vredx .max ⟨1, 2, 0, 0, 2, 0, 1, 0, 0, .u32⟩),
    (0x5702_0800_0585_0230, .vscan .and ⟨1, 2, 0, 0, 2, 1, 1, 0, 0, .u32⟩),
    (0x5802_0A58_05C5_0000, .vslideUp ⟨1, 2, 75, 0, 2, 1, 1, 1, 0, .u32⟩),
    (0x5802_0A58_05C5_0010, .vslideDn ⟨1, 2, 75, 0, 2, 1, 1, 1, 0, .u32⟩),
    (0x5802_0818_05C5_0020, .vperm ⟨1, 2, 3, 0, 2, 1, 1, 1, 0, .u32⟩),
    (0x5802_0818_05C5_0030, .vpush ⟨1, 2, 3, 0, 2, 1, 1, 1, 0, .u32⟩),
    (0x5802_0800_0585_0040, .vtrans ⟨1, 2, 0, 0, 2, 1, 1, 0, 0, .u32⟩),
    (0x5D02_0818_05C5_0000, .vshuf ⟨1, 2, 3, 0, 2, 1, 1, 1, 0, .u32⟩),
    (0x590A_0818_05C0_0000, .mand ⟨5, 2, 3, 0, 2, 1, 1, 1, 0, .i8⟩),
    (0x590A_0818_05C0_0010, .mor ⟨5, 2, 3, 0, 2, 1, 1, 1, 0, .i8⟩),
    (0x590A_0818_05C0_0020, .mxor ⟨5, 2, 3, 0, 2, 1, 1, 1, 0, .i8⟩),
    (0x590A_0800_0580_0030, .mnot ⟨5, 2, 0, 0, 2, 1, 1, 0, 0, .i8⟩)] : List (Nat × Instr)),
    decodeTableWord 64 p.1 = some p.2 := by decide +kernel

/-- Words of format VA, vector arithmetic. -/
theorem test_decode_va5 : ∀ p ∈ ([
    (0x5992_0800_0480_0040, .mpopc ⟨73, 2, 0, 0, 2, 0, 1, 0, 0, .i8⟩),
    (0x5992_0800_0480_0050, .mfirst ⟨73, 2, 0, 0, 2, 0, 1, 0, 0, .i8⟩),
    (0x5A02_0A8D_25E8_10A0, .vcvtNarrow .f32 ⟨1, 2, 81, 82, 2, 1, 1, 1, 1, .f16⟩),
    (0x5A02_0A8D_25E9_20C0, .vcvtWiden .e4m3 ⟨1, 2, 81, 82, 2, 1, 1, 1, 1, .bf16⟩),
    (0x5A02_0A8D_25F0_30A0, .vcvtF32E2m1 .f32 ⟨1, 2, 81, 82, 2, 1, 1, 1, 1, .e2m1⟩),
    (0x5A02_0800_0490_4090, .vscale .bf16 ⟨1, 2, 0, 0, 2, 0, 1, 0, 0, .e2m1⟩),
    (0x5A02_0818_05CD_0000, .vcvt .i8 ⟨1, 2, 3, 0, 2, 1, 1, 1, 0, .e5m2⟩),
    (0x5B06_1A80_05D3_0000, .vaddWac ⟨3, 6, 80, 0, 2, 1, 1, 1, 0, .wac⟩),
    (0x5B06_0800_0588_0010, .vcvtWac ⟨3, 2, 0, 0, 2, 1, 1, 0, 0, .f16⟩),
    (0x5B02_1800_058B_0020, .vcvtFwac ⟨1, 6, 0, 0, 2, 1, 1, 0, 0, .f64⟩),
    (0x5C52_1C00_0005_0000, .vmeta ⟨41, 7, 0, 0, 0, 0, 0, 0, 0, .u32⟩),
    (0xE83C_0A58_04CA_0000, .vtopk ⟨30, 2, 75, 0, 2, 0, 1, 1, 0, .f32⟩)] : List (Nat × Instr)),
    decodeTableWord 64 p.1 = some p.2 := by decide +kernel

/-- Words of format VM, vector memory. -/
theorem test_decode_vm1 : ∀ p ∈ ([
    (0x7010_A007_E8FF_FFC0, .vldUnit ⟨8, 20, 0, 3, 1, 1, 3, .f16, 0xffffc0, none⟩),
    (0x7112_A557_A8FF_FFC0, .vldStrided ⟨9, 20, 85, 3, 1, 1, 1, .f16, 0xffffc0, none⟩),
    (0x7214_A057_88FF_FFC0, .vldx ⟨10, 20, 5, 3, 1, 1, 0, .f16, 0xffffc0, none⟩),
    (0x7316_A007_C8FF_FFC0, .vstUnit ⟨11, 20, 0, 3, 1, 1, 2, .f16, 0xffffc0, none⟩),
    (0x7418_A557_E8FF_FFC0, .vstStrided ⟨12, 20, 85, 3, 1, 1, 3, .f16, 0xffffc0, none⟩),
    (0x751A_A057_88FF_FFC0, .vstx ⟨13, 20, 5, 3, 1, 1, 0, .f16, 0xffffc0, none⟩),
    (0x761C_A057_C5FF_FFC0, .vsadd ⟨14, 20, 5, 3, 1, 1, 2, .u32, 0xffffc0, none⟩),
    (0x771E_A057_E500_0009, .vamo ⟨15, 20, 5, 3, 1, 1, 3, .u32, 9, none⟩),
    (0x783E_A000_F0FF_F000, .vspill ⟨31, 20, 0, 0, 0, 1, 3, .e2m1, 0xfff000, none⟩),
    (0x793E_A000_F0FF_F000, .vfill ⟨31, 20, 0, 0, 0, 1, 3, .e2m1, 0xfff000, none⟩)] : List (Nat × Instr)),
    decodeTableWord 64 p.1 = some p.2 := by decide +kernel

/-- Words of format TT, tile. -/
theorem test_decode_tt1 : ∀ p ∈ ([
    (0x80C8_2803_0100_0FFF, .talloc ⟨200, 10, 0, 12, 1, 4095, none⟩),
    (0x80C8_28B3_0300_0005, .tallocFix ⟨200, 10, 11, 12, 3, 5, none⟩),
    (0x81C8_0000_0000_0000, .tfree ⟨200, 0, 0, 0, 0, 0, none⟩),
    (0x82C8_0003_0000_0000, .tstat ⟨200, 0, 0, 12, 0, 0, none⟩),
    (0x8200_2803_0100_0000, .tstatH ⟨0, 10, 0, 12, 1, 0, none⟩),
    (0x83C8_0003_0200_0000, .twait ⟨200, 0, 0, 12, 2, 0, none⟩),
    (0x8300_2803_0100_0000, .twaitH ⟨0, 10, 0, 12, 1, 0, none⟩),
    (0x84C8_28B3_0100_0FFF, .tld ⟨200, 10, 11, 12, 1, 4095, none⟩),
    (0x8529_28B3_0000_0007, .tst ⟨41, 10, 11, 12, 0, 7, none⟩),
    (0x86C8_00B0_0A00_0017, .vpln ⟨200, 0, 11, 0, 10, 23, none⟩),
    (0x8700_28B3_0000_0000, .tdesc ⟨0, 10, 11, 12, 0, 0, none⟩),
    (0x8700_2803_0100_0000, .tdescRf ⟨0, 10, 0, 12, 1, 0, none⟩)] : List (Nat × Instr)),
    decodeTableWord 64 p.1 = some p.2 := by decide +kernel

/-- Words of format TT, tile. -/
theorem test_decode_tt2 : ∀ p ∈ ([
    (0x8800_28B3_1F00_000F, .tnbr ⟨0, 10, 11, 12, 31, 15, none⟩),
    (0x8900_28B3_1500_0000, .thalo ⟨0, 10, 11, 12, 21, 0, none⟩),
    (0x8A00_2803_0000_0000, .tinv ⟨0, 10, 0, 12, 0, 0, none⟩),
    (0x8B00_2803_0000_0000, .tflush ⟨0, 10, 0, 12, 0, 0, none⟩),
    (0x8C00_28B3_0000_0000, .tprobe ⟨0, 10, 11, 12, 0, 0, none⟩)] : List (Nat × Instr)),
    decodeTableWord 64 p.1 = some p.2 := by decide +kernel

/-- Words of format EN, engine. -/
theorem test_decode_en1 : ∀ p ∈ ([
    (0x9024_A2CC_C8C9_0700, .copy ⟨9, 10, 11, 12, 200, 201, 7, 0⟩),
    (0x9124_A2CC_00C9_0200, .copyDec ⟨9, 10, 11, 12, 0, 201, 2, 0⟩),
    (0x9224_A2CC_C800_0500, .copyEnc ⟨9, 10, 11, 12, 200, 0, 5, 0⟩),
    (0x9324_A000_0000_0100, .cwait ⟨9, 10, 0, 0, 0, 0, 1, 0⟩),
    (0x9424_A000_0000_0000, .cstat ⟨9, 10, 0, 0, 0, 0, 0, 0⟩),
    (0x9824_A2C0_C8C9_7D00, .mma ⟨9, 10, 11, 0, 200, 201, 125, 0⟩),
    (0x9924_A2CC_C8C9_1F4D, .mmaSp ⟨9, 10, 11, 12, 200, 201, 31, 77⟩),
    (0x9A24_A2C0_C8C9_4500, .mmaCb ⟨9, 10, 11, 0, 200, 201, 69, 0⟩),
    (0x9B24_A000_C800_0000, .cbld ⟨9, 10, 0, 0, 200, 0, 0, 0⟩),
    (0x9C24_A000_0000_0000, .mwait ⟨9, 10, 0, 0, 0, 0, 0, 0⟩),
    (0x9D24_A000_0000_0000, .mstat ⟨9, 10, 0, 0, 0, 0, 0, 0⟩),
    (0xA024_A2C0_C800_0D00, .potOpen ⟨9, 10, 11, 0, 200, 0, 13, 0⟩)] : List (Nat × Instr)),
    decodeTableWord 64 p.1 = some p.2 := by decide +kernel

/-- Words of format EN, engine. -/
theorem test_decode_en2 : ∀ p ∈ ([
    (0xA124_A2CC_C800_0000, .potJoin ⟨9, 10, 11, 12, 200, 0, 0, 0⟩),
    (0xA224_A000_1F00_0000, .potSend ⟨9, 10, 0, 0, 31, 0, 0, 0⟩),
    (0xA324_0000_C800_0000, .potWait ⟨9, 0, 0, 0, 200, 0, 0, 0⟩),
    (0xA400_0000_C800_0000, .potClose ⟨0, 0, 0, 0, 200, 0, 0, 0⟩),
    (0xA400_A000_0000_0100, .potCloseJ ⟨0, 10, 0, 0, 0, 0, 1, 0⟩),
    (0xA524_0000_C800_0000, .potStat ⟨9, 0, 0, 0, 200, 0, 0, 0⟩),
    (0xA524_A000_0000_0100, .potStatJ ⟨9, 10, 0, 0, 0, 0, 1, 0⟩),
    (0xB024_A000_0000_3F00, .fbind ⟨9, 10, 0, 0, 0, 0, 63, 0⟩),
    (0xB100_0000_0000_3E00, .funbind ⟨0, 0, 0, 0, 0, 0, 62, 0⟩),
    (0xB224_0000_0000_0100, .fqry ⟨9, 0, 0, 0, 0, 0, 1, 0⟩)] : List (Nat × Instr)),
    decodeTableWord 64 p.1 = some p.2 := by decide +kernel

/-- Words of format FX, fabric. -/
theorem test_decode_fx1 : ∀ p ∈ ([
    (0xC0FC_1A95_0650_FFFD, .fop ⟨63, 3, 41, 40, 12, 5, 0, 0xfffd, none⟩)] : List (Nat × Instr)),
    decodeTableWord 64 p.1 = some p.2 := by decide +kernel

/-- Words of format SY, system. -/
theorem test_decode_sy1 : ∀ p ∈ ([
    (0xE000_0000_0000_0000, .nop ⟨0, 0, 0, none⟩),
    (0xE000_0002_0000_0000, .bkpt ⟨0, 0, 0, none⟩),
    (0xE000_0003_0000_0000, .yield ⟨0, 0, 0, none⟩),
    (0xE000_0005_0000_0000, .eret ⟨0, 0, 0, none⟩),
    (0xE000_0001_FFFF_FFF7, .trap ⟨0, 0, 0xfffffff7, none⟩),
    (0xE000_0004_0000_FFFF, .done ⟨0, 0, 0xffff, none⟩),
    (0xE124_0104_0000_0000, .csrrd 0x104 ⟨9, 0, 0, none⟩),
    (0xE224_A104_0000_0001, .csrwr 0x104 ⟨9, 10, 1, none⟩),
    (0xE324_A104_0000_0001, .csrset 0x104 ⟨9, 10, 1, none⟩),
    (0xE424_A104_0000_0001, .csrclr 0x104 ⟨9, 10, 1, none⟩),
    (0xE524_A000_0000_FFFF, .enq ⟨9, 10, 0xffff, none⟩),
    (0xE600_A000_0000_1000, .dcwb ⟨0, 10, 0x1000, none⟩)] : List (Nat × Instr)),
    decodeTableWord 64 p.1 = some p.2 := by decide +kernel

/-- Words of format SY, system. -/
theorem test_decode_sy2 : ∀ p ∈ ([
    (0xE600_A001_FFFF_FFFF, .icinv ⟨0, 10, 0xffffffff, none⟩),
    (0xE600_0002_0000_0000, .fetchb ⟨0, 0, 0, none⟩),
    (0xE724_A000_0000_0005, .keyselBind ⟨9, 10, 5, none⟩),
    (0xE724_A000_0000_0105, .keyselUnbind ⟨9, 10, 261, none⟩),
    (0xE724_A000_0000_0205, .keyselQry ⟨9, 10, 517, none⟩)] : List (Nat × Instr)),
    decodeTableWord 64 p.1 = some p.2 := by decide +kernel

/-- UDF with its 56 bits (R359). -/
theorem test_decode_udf1 : ∀ p ∈ ([
    (0xFF12_3456_789A_BCDE, .udf 0x12_3456_789A_BCDE)] : List (Nat × Instr)),
    decodeTableWord 64 p.1 = some p.2 := by decide +kernel

/-! ### Witnesses: what an action answers -/

/-- An action that answers, with what a test says of the answer and of the state after it. -/
theorem ok_of {α : Type} {m : X α} {s : State} {p : α → State → Bool} (h : (match m s with
    | .ok a t => p a t
    | .error _ _ => false) = true) : ∃ a t, m s = .ok a t ∧ p a t = true := by
  split at h
  · exact ⟨_, _, ‹_›, h⟩
  · exact absurd h (by decide)

/-- An action that ends otherwise. -/
theorem error_of {α : Type} {m : X α} {s : State} {p : Stop → State → Bool} (h : (match m s with
    | .ok _ _ => false
    | .error e t => p e t) = true) : ∃ e t, m s = .error e t ∧ p e t = true := by
  split at h
  · exact absurd h (by decide)
  · exact ⟨_, _, ‹_›, h⟩

/-- The look at LEk that finds a word, leaves the state. -/
theorem extAt_of {a : Word} {s : State} {b : Bool} (h : (match isExtAt a s with
    | .ok e _ => e == b
    | .error _ _ => false) = true) : isExtAt a s = .ok b s := by
  cases he : isExtAt a s with
  | error _ _ => rw [he] at h; cases h
  | ok e t =>
    rw [he] at h
    have ht : t = s := by
      unfold isExtAt at he
      split at he <;> simp_all
    rw [ht, eq_of_beq h]

/-! ### Witnesses: loop entries, CSRs, the end of a task -/

/-- A host page that the thread may execute. -/
def entHost : TlbEntry := { ent with pte := 0x63BF }

/-- Loop entries: a count that is not 0; a word at LEk that is read, and is no prefix; one that is; one on a host page. -/
theorem witness_loop_entry :
    ready (runs 0) [2] ∧ (runsOn 0 fun k => k.wr 2 5).self.rd 2 ≠ 0 ∧ (runs 0).self.rd 2 = 0 ∧
    isExtAt 0 (runs 0) = .ok false (runs 0) ∧ isExtAt 0 (runs 0xF0_0000_0000_0000_00) = .ok true (runs 0xF0_0000_0000_0000_00) ∧
    (∃ w t, fetchWord 0 (runs 0) = .ok (w, false) t) ∧ ∃ w t, isExtAt 0 (maps entHost) = .error (.wait w) t := by
  refine ⟨by dsimp only [ready]; decide +kernel, by decide +kernel, by decide +kernel, extAt_of (by decide +kernel),
    extAt_of (by decide +kernel), ?_, ?_⟩
  · obtain ⟨a, t, h, hp⟩ := ok_of (m := fetchWord 0) (s := runs 0) (p := fun a _ => !a.2) (by decide +kernel)
    exact ⟨a.1, t, by rw [h, ← (Bool.not_eq_true' a.2).mp hp]⟩
  · obtain ⟨e, t, h, hp⟩ := error_of (m := isExtAt 0) (s := maps entHost) (p := fun e _ => match e with
      | .wait _ => true
      | _ => false) (by decide +kernel)
    cases e <;> simp_all

/-- CSRs: FFLAGS with a matrix operation under way; the numbers with clauses of their own, at a level that reaches them; the
loop CSRs while no frame is live; DONE at USER with a nonzero immediate. -/
theorem witness_csr_clauses :
    (working (issuedMatrix (mats true).self (mat 0) 0)).self.eng.mats ≠ [] ∧ (0x008 : BitVec 12).toNat = 0x008 ∧
    (0x024 : BitVec 12).toNat = 0x024 ∧ (0x050 : BitVec 12).toNat = 0x050 ∧ (0x063 : BitVec 12).toNat = 0x063 ∧
    (0x122 : BitVec 12).toNat = 0x122 ∧ super.self.priv = .super ∧ frameIndex 0x033 = some 3 ∧ (runs 0).self.tf = false ∧
    (runs 0).self.priv = .user := by decide +kernel

/-- A task without a completion word, signals and a message ends with nothing written. -/
theorem complete_silent (hw signals : Bool) (status : Nat) (s : State) : complete placeTask hw status signals s = .ok () s := by
  cases signals <;> rfl

/-- DONE: the only member of its gang, whose task has no saved context; at SUPER with an immediate; a task without a completion
word. -/
theorem witness_done :
    let s := super
    (∀ d ∈ placeTask.cores, d = s.cur ∨ (s.core d).tk.finished = true) ∧ s.savedOf 0 = [] ∧ placeTask.id = 0 ∧
    s.self.priv ≠ .user ∧ s.self.tk.task = some placeTask.id ∧ placeTask.st = .running ∧ placeTask.cores = [s.cur] ∧
    s.self.eng.copies = [] ∧ s.self.tk.task.bind s.task = some placeTask ∧ s.self.replies = [] ∧
    s.self.eng.handles.toList.any (·.st == .busy) = false ∧ s.sending s.cur = false ∧ s.self.eng.events = [] ∧
    ∀ u : State, complete placeTask false 0 true u = .ok () u := by
  refine ⟨?_, ?_, ?_, ?_, ?_, ?_, ?_, ?_, ?_, ?_, ?_, ?_, ?_, complete_silent _ _ _⟩ <;> decide +kernel

/-- A tenant whose start registers name the tables, over a page that can be written; a word of 0 and one of 5 in it. -/
def dealt (v : Nat) : State :=
  let s := (runs 0).setReg 1 0x3_0018 0x1000
  { s with ms := { s.ms with mem := (s.ms.mem.write 0x5000 8 0x61BF).write 0x6010 8 v } }

/-- A task with a completion word at 16 and one signal counter at 16. -/
def ending : Task := { placeTask with launch := [0, 0, 0, 0, 16 + 1, 0, 16, 0] }

/-- The Dealer's access to address 16 of tenant 0. -/
theorem witness_dealer_word (v : Nat) (hv : v = 0 ∨ v = 5) :
    ending.compl ≠ 0 ∧ ending.nsig = 1 ∧ ending.msix = false ∧ canon56 ending.compl = 16 ∧ ending.signalAt 0 = 16 ∧
    ∃ h u, quiet (resolveGlobal ((dealt v).dealerCtx 0) 16 { kind := 3, n := 8, msu := true, rewalk := true } anyFormat) (dealt v) =
      .ok h u ∧ pteTb h.pte = false ∧ h.ga = 0x6010 ∧ h.ga < 2 ^ 42 ∧ atRest u h.ga 8 none ∧ u.ms.poison = [] ∧
      u.ms.mem.read h.ga 8 = v := by
  refine ⟨by decide +kernel, by decide +kernel, by decide +kernel, by decide +kernel, by decide +kernel, ?_⟩
  obtain ⟨h, u, he, hp⟩ := ok_of (m := quiet (resolveGlobal ((dealt v).dealerCtx 0) 16
    { kind := 3, n := 8, msu := true, rewalk := true } anyFormat)) (s := dealt v) (p := fun h u => !pteTb h.pte && h.ga == 0x6010 &&
      u.ms.chains.isEmpty && u.ms.hdm.isEmpty && u.ms.homes.isEmpty && u.ms.poison.isEmpty && u.ms.mem.read h.ga 8 == v)
    (by rcases hv with rfl | rfl <;> decide +kernel)
  simp only [Bool.and_eq_true, Bool.not_eq_true', beq_iff_eq, List.isEmpty_iff] at hp
  obtain ⟨⟨⟨⟨⟨⟨h1, h2⟩, h3⟩, h4⟩, h5⟩, h6⟩, h7⟩ := hp
  refine ⟨h, u, he, h1, h2, by rw [h2]; decide, ⟨h3, ?_, ?_⟩, h6, h7⟩
  · rw [h4]; simp
  · rw [h5]; simp

/-- A completion word whose address does not translate; the task of a core, running. -/
theorem witness_task_end :
    (∃ c v u, quiet (resolveGlobal ((runs 0).dealerCtx 0) 16 { kind := 3, n := 8, msu := true, rewalk := true } anyFormat) (runs 0) =
      .error (.trap c v) u) ∧
    (runs 0).task placeTask.id = some placeTask ∧ placeTask.st = .running ∧
    (∀ d ∈ placeTask.cores, ((runs 0).core d).tk.task = some 0) ∧ placeTask.nsig = 0 ∧ placeTask.msix = false ∧
    placeTask.compl = 0 ∧ ∃ u, (List.range placeTask.nsig).forM (signal placeTask) (runs 0) = .ok () u := by
  refine ⟨?_, by decide +kernel, by decide +kernel, by decide +kernel, by decide +kernel, by decide +kernel, by decide +kernel, _, rfl⟩
  obtain ⟨e, t, h, hp⟩ := error_of (m := quiet (resolveGlobal ((runs 0).dealerCtx 0) 16
    { kind := 3, n := 8, msu := true, rewalk := true } anyFormat)) (s := runs 0) (p := fun e _ => match e with
      | .trap _ _ => true
      | _ => false) (by decide +kernel)
  cases e <;> simp_all

/-! ### Witnesses: cached pages, faults and poison -/

/-- The line of the cached page at 0x6000, at its home, with these poison bits. -/
def homeOf (poison : BitVec 256) : HomeLine :=
  { key := .addr none 0x60, bank := homeBank 0x6000 0, slot := 0, data := 7, dirty := 0, poison := poison
    runs := [(0, 256, 0x6000)], root := 0 }

def atHome (poison : BitVec 256) (s : State) : State := { s with ms := { s.ms with homes := [homeOf poison] } }

/-- Rest where no addend is under way, the host holds nothing and each line is the allowed one. -/
theorem atRest_of {s : State} {pa n : Nat} {allowed : Option LineKey} (hc : s.ms.chains = []) (hd : s.ms.hdm = [])
    (hh : ∀ h ∈ s.ms.homes, some h.key = allowed) : atRest s pa n allowed :=
  ⟨hc, by rw [hd]; simp, fun h hm _ _ _ _ _ => hh h hm⟩

/-- A cached access whose one line stands at its home, alone. -/
theorem homed_of {s : State} {e : TlbEntry} {pa n : Nat} {h : HomeLine} (hu : uncached s e pa = false) (hs : s.ms.homes = [h])
    (hk : h.key = lineKey s e pa) (hp : s.ms.paired h = false) (hz : h.poison = 0) (hc : s.ms.chains = []) (hd : s.ms.hdm = []) :
    homed s e pa n := by
  have hf : s.ms.home (lineKey s e pa) = some h := by simp [MemSys.home, hs, hk]
  refine ⟨?_, fun g hg => by rw [hf] at hg; cases hg; exact hz⟩
  unfold placedFor
  rw [if_neg (by rw [hu]; decide)]
  exact ⟨atRest_of hc hd (by rw [hs]; simpa [lineKey] using hk), h, hf, hp⟩

/-- One element of a cached page whose line stands at its home. -/
def oneHome : State := atHome 0 (one 3 0 entCached)

theorem witness_cached_home :
    homed (atHome 0 (maps entCached)) entCached 0x6000 8 ∧ homed oneHome entCached 0x6000 4 ∧
    accesses oneHome (vm 0) .unit ∧ mapped oneHome 0 { kind := 0, n := 4 } entCached ∧
    mapped oneHome 0 { kind := 1, n := 4 } entCached ∧ mapped oneHome 0 { kind := 0, n := 1 } entCached ∧
    pteFmt entCached.pte = 0 ∧ oneHome.self.l1Line (lineKey oneHome entCached 0x6000) = none ∧ oneHome.ms.poison = [] := by
  refine ⟨homed_of (h := homeOf 0) ?_ rfl ?_ ?_ rfl ?_ ?_, homed_of (h := homeOf 0) ?_ rfl ?_ ?_ rfl ?_ ?_, ?_, ?_, ?_, ?_, ?_, ?_, ?_⟩ <;>
    (try dsimp only [accesses, issues, admits, registers, released, mapped, mappedFor]) <;> decide +kernel

/-- A scalar load through the line at its home; loads and stores that release, with nothing sent; a vector load through the lines
that the L1 data cache holds. -/
theorem witness_cached_loads :
    (let s := atHome 0 (maps entCached)
     mapped s 0 { kind := 0, n := 8 } entCached ∧ s.self.l1Line (lineKey s entCached 0x6000) = none ∧ released s 2 ∧
      roomy s entCached 0x6000 ∧ (∀ h ∈ s.ms.homes, h.poison = 0)) ∧
    atRest (atHome 0 (maps entCached)) 0x6000 8 (some (lineKey (maps entCached) entCached 0x6000)) ∧
    (let s := one 3 0 entCached line
     mapped s 0 { kind := 0, n := 4 } entCached ∧ uncached s entCached 0x6000 = false ∧
      s.self.l1Line (lineKey s entCached 0x6000) = some ⟨.addr none 0x60, 0, none⟩) := by
  refine ⟨⟨?_, ?_, ?_, ⟨1, ?_⟩, ?_⟩, atRest_of ?_ ?_ ?_, ?_, ?_, ?_⟩ <;>
    (try dsimp only [released, mapped, mappedFor]) <;> decide +kernel

/-- An access through an entry of the L1 TLB walks no table. -/
theorem walks_none {s : State} {a : Word} {q : Ask} (h : s.self.cache.tlb.find? (·.serves (s.ctxOf s.cur) a q.kind) ≠ none) :
    walksAtRest s a q := fun hn => absurd hn h

/-- Tables at rest in memory. -/
theorem walks_rest {s : State} {a : Word} {q : Ask} (h : s.ms.l2tlb = [] ∧ s.ms.pwc = [] ∧ s.ms.chains = [] ∧ s.ms.poison = [] ∧
    s.ms.homes = []) : walksAtRest s a q := fun _ => ⟨h.1, h.2.1, h.2.2.1, h.2.2.2.1, by rw [h.2.2.2.2]; simp⟩

/-- A table with a reserved bit; pages outside the windows, read-only, of a reserved format; a host page that the host has refused. -/
def badTable : State := { runs 0 with ms := { (runs 0).ms with mem := (runs 0).ms.mem.write 0x1000 8 (2 ^ 61 + 0x2001) } }
def outside : State := maps { ent with pte := 0x7_0000_0000_61BF }
def readOnly : State := maps { ent with pte := 0x61BD }
def oddFormat : State := maps { ent with pte := 0x00F0_0000_0000_61BF }
def refusedPage : State :=
  { maps entHost with ms := { (maps entHost).ms with
      atsFail := [(.thread 0, 1, ((maps entHost).leafAddr entHost.pte 0 0) % 2 ^ 41 / 4096)] } }

/-- Each check of R47: an address that is not canonical; an absent entry of level 0 and of level 4; a table with a reserved bit; a page
outside the windows, one that may not be written, one with a format, a host page that the host has refused. -/
theorem witness_faults :
    let q : Ask := { kind := 0, n := 8 }
    fails (runs 0) 0x0100_0000_0000_0000 q (rawReadOk 8) (6, 5, 7) ∧ fails (runs 0) 0x80_0000_0000_0000 q (rawReadOk 8) (6, 5, 7) ∧
    fails (runs 0) 0x1000 q (rawReadOk 8) (5, 0, 0) ∧ fails (runs 0) 0x40_0000_0000_0000 q (rawReadOk 8) (5, 0, 4) ∧
    fails badTable 0 q (rawReadOk 8) (6, 2, 4) ∧ fails outside 0 q (rawReadOk 8) (6, 4, 0) ∧
    fails readOnly 0 { kind := 1, n := 8 } anyFormat (5, 1, 0) ∧ fails oddFormat 0 { kind := 1, n := 8 } anyFormat (6, 6, 0) ∧
    fails readOnly 0 { kind := 3, n := 8, msu := true } anyFormat (5, 1, 0) ∧ fails refusedPage 0 q (rawReadOk 8) (5, 3, 0) := by
  refine ⟨⟨?_, walks_rest ?_, ?_⟩, ⟨?_, walks_rest ?_, ?_⟩, ⟨?_, walks_rest ?_, ?_⟩, ⟨?_, walks_rest ?_, ?_⟩, ⟨?_, walks_rest ?_, ?_⟩,
    ⟨?_, walks_none ?_, ?_⟩, ⟨?_, walks_none ?_, ?_⟩, ⟨?_, walks_none ?_, ?_⟩, ⟨?_, walks_none ?_, ?_⟩, ⟨?_, walks_none ?_, ?_⟩⟩ <;>
    decide +kernel

/-- The thread's own step comes next; a fetch whose page is not mapped; a prefix word at the end of a page whose second word lies in
one that is not mapped. -/
theorem witness_fetch_faults :
    (let s := runsOn 0 fun k => { k with pc := 0x1000 }
     threadMoves s ∧ fails s s.self.pc { kind := 2, n := 8 } anyFormat (5, 0, 0)) ∧
    threadMoves (runs 0) ∧ threadMoves badTable := by
  refine ⟨⟨?_, ?_, walks_rest ?_, ?_⟩, ?_, ?_⟩ <;> (try dsimp only [threadMoves]) <;> decide +kernel

def prefixed : State :=
  runsOn 0 fun k => { k with pc := 0xFF8, cache := { k.cache with tlb := [ent], icache := [(0x6FF8 / 8, toWord (0xF0 * 2 ^ 56))] } }

theorem witness_second_word :
    threadMoves prefixed ∧ fetches prefixed prefixed.self.pc (toWord (0xF0 * 2 ^ 56)) prefixed ∧ opOf (toWord (0xF0 * 2 ^ 56)) = extOp ∧
    fails prefixed (prefixed.self.pc + 8) { kind := 2, n := 8 } anyFormat (5, 0, 0) := by
  refine ⟨by dsimp only [threadMoves]; decide +kernel, ⟨ent.hit prefixed 0xFF8, prefixed, ?_, .inl ⟨by decide +kernel, rfl⟩⟩, by decide +kernel,
    by decide +kernel, walks_rest (by decide +kernel), by decide +kernel⟩
  exact resolveGlobal_tlb (by decide +kernel) rfl (by decide +kernel) (by decide +kernel) (by decide +kernel) (by decide +kernel)
    (by decide +kernel) rfl

/-- A word that the fetch reads in memory, and the state with it in the instruction cache. -/
theorem witness_word_in_memory : ∃ t, fetches (maps ent) 0 0 t :=
  ⟨_, ent.hit (maps ent) 0, maps ent, resolveGlobal_tlb (by decide +kernel) rfl (by decide +kernel) (by decide +kernel)
    (by decide +kernel) (by decide +kernel) (by decide +kernel) rfl, .inr ⟨by decide +kernel, by decide +kernel, fun _ => by
      simp [MemSys.homeAt, show (maps ent).ms.homes = [] by decide +kernel], by decide +kernel, by decide +kernel, by decide +kernel, rfl⟩⟩

/-- An access that begins with its first element has none below it. -/
theorem none_below {p : Nat → Prop} : ∀ m < 0, p m := fun _ h => absurd h (Nat.not_lt_zero _)

/-- A load of one 32-bit integer to v1. -/
def vi : VM := { vm 0 with et := .i32 }

theorem begins {s : State} (h : accesses s vi .unit) (ht : s.self.tf = false) (hl : live s.self 0 0) :
    loadsBelow s vi .unit (fun _ => 0) 0 := ⟨h, rfl, fun h => Shape.noConfusion h, ht, hl, fun h => Bool.noConfusion h, none_below⟩

/-- A vector load of one element of a page that is not mapped, and of SCRATCH where no tile is; the same store. -/
def unmappedAt (space : Nat) (a : Word) : State := one 3 space ent fun k => k.wr 20 a

theorem witness_vector_faults :
    (loadsBelow (unmappedAt 1 0x2000) vi .unit (fun _ => 0) 0 ∧
      ∃ cause v u, elementRead (unmappedAt 1 0x2000) vi .unit 0 (unmappedAt 1 0x2000) = .error (.trap cause v) u) ∧
    (loadsBelow (unmappedAt 0 0x1000) vi .unit (fun _ => 0) 0 ∧ (unmappedAt 0 0x1000).self.cache.pin = none ∧
      fails (unmappedAt 0 0x1000) 0x1000 { kind := 0, n := 4 } (loadMem (unmappedAt 0 0x1000) vi 0).fmtOk (5, 0, 0)) ∧
    storesBelow (unmappedAt 0 0x1000) vi .unit (fun _ => ent) 0 ∧
    fails (unmappedAt 0 0x1000) 0x1000 { kind := 1, n := 4 } anyFormat (5, 0, 0) := by
  refine ⟨⟨begins ?_ ?_ ?_, _, _, _, rfl⟩, ⟨begins ?_ ?_ ?_, ?_, ?_, walks_rest ?_, ?_⟩, ⟨.inl none_below, ?_, rfl, ?_, fun h => ET.noConfusion h, ?_, ?_, ?_,
    fun h => Shape.noConfusion h, none_below⟩,
    ?_, walks_rest ?_, ?_⟩ <;>
    (try dsimp only [accesses, issues, admits, registers, released, live]) <;> decide +kernel

/-! ### Witnesses: poison -/

/-- A 32-bit addition with v2 poisoned, and with the mask poisoned. -/
theorem witness_poisoned_registers :
    let f : VA := ⟨1, 2, 3, 4, 0, 0, 0, 0, 0, .i32⟩
    let g : VA := { f with msk := 1 }
    let s := fun (p : Nat × Nat × Nat) => vecs 3 fun k => { k with vec := { k.vec with poison := [p], m := k.vec.m.set 1 0xF } }
    admits (s (2, 0, 64)) 3 [1, 2, 3] ∧ live (s (2, 0, 64)).self f.msk 0 ∧ badSource (s (2, 0, 64)).self 32 0 2 ∧
    admits (s (65, 0, 64)) 3 [1, 2, 3] ∧ live (s (65, 0, 64)).self g.msk 0 ∧ poisonedWord (s (65, 0, 64)).self (64 + g.msk.toNat) 1 0 ∧
    (∀ c ∈ [(2 : BitVec 7), 3], ¬badSource (s (65, 0, 64)).self 32 0 c) := by
  refine ⟨?_, ?_, ⟨by decide, (2, 0, 64), ?_, ?_, 0, ?_, ?_, ?_⟩, ?_, ?_, ⟨(65, 0, 64), ?_, ?_, 0, ?_, ?_, ?_⟩, fun c hc h => ?_⟩
  case refine_15 =>
    obtain ⟨_, p, hp, he, _⟩ := h
    have hp : p = (65, 0, 64) := by simpa [vecs, on] using hp
    subst hp
    revert c; decide
  all_goals ((try dsimp only [admits, live, sameWord]); decide +kernel)

/-- A poisoned line of the cached page at its home; a poisoned segment of an uncached page, and of the first table. -/
def badHome : State := atHome 1 (maps entCached)
def badSegment : State := { maps ent with ms := { (maps ent).ms with poison := [0x6000 / 64] } }
def badWalk : State := { runs 0 with ms := { (runs 0).ms with poison := [0x1000 / 64] } }

theorem witness_poisoned_memory :
    (mapped badHome 0 { kind := 0, n := 8 } entCached ∧ rawReadOk 8 entCached.pte 0x6000 = true ∧
      stands badHome entCached 0x6000 8 ∧ badBytes badHome 0x6000 8 ∧ released badHome 0) ∧
    (mapped badSegment 0 { kind := 0, n := 8 } ent ∧ stands badSegment ent 0x6000 8 ∧ badBytes badSegment 0x6000 8) ∧
    (mapped badSegment 0 { kind := 3, n := 8, msu := true } ent ∧ atRest badSegment 0x6000 8 none ∧ badSegment.self.cache.ahead = []) ∧
    (∀ kind < 4, walksInto badWalk 0 kind 4) ∧ threadMoves badWalk ∧ badWalk.self.pc = 0 := by
  have hs : atRest badSegment 0x6000 8 none := atRest_of (by decide +kernel) (by decide +kernel) (by decide +kernel)
  refine ⟨⟨?_, ?_, ?_, ⟨0, ?_, ?_⟩, ?_⟩, ⟨?_, ?_, ⟨0, ?_, ?_⟩⟩, ⟨?_, hs, ?_⟩, fun kind hk => ⟨?_, ?_, ?_, ?_, ?_, ?_, ?_⟩, ?_, ?_⟩
  case refine_3 =>
    unfold stands
    rw [if_neg (by decide +kernel)]
    exact ⟨atRest_of (by decide +kernel) (by decide +kernel) (by decide +kernel), by decide +kernel, by decide +kernel⟩
  case refine_8 =>
    unfold stands
    rwa [if_pos (by decide +kernel)]
  case refine_14 => revert kind; decide +kernel
  case refine_18 =>
    intro h hh
    rw [show badWalk.ms.homes = [] by decide +kernel] at hh
    cases hh
  all_goals ((try dsimp only [mapped, mappedFor, released, threadMoves]); decide +kernel)

/-- A fetch of a poisoned word of memory. -/
theorem witness_poisoned_fetch :
    threadMoves badSegment ∧ ∃ h u, resolveGlobal (badSegment.ctxOf badSegment.cur) badSegment.self.pc { kind := 2, n := 8 } anyFormat badSegment =
      .ok h u ∧ h.ga < 2 ^ 42 ∧ (∀ x ∈ u.self.cache.icache, x.1 ≠ h.ga / 8) ∧ (∀ t, u.ms.homeAt h.ga t = none) ∧ u.ms.chains = [] ∧
      u.ms.poisoned h.ga 8 = true ∧ opOf (toWord (u.ms.mem.read h.ga 8)) ≠ extOp :=
  ⟨by dsimp only [threadMoves]; decide +kernel, ent.hit badSegment 0, badSegment,
    resolveGlobal_tlb (by decide +kernel) rfl (by decide +kernel) (by decide +kernel) (by decide +kernel) (by decide +kernel)
      (by decide +kernel) rfl, by decide +kernel, by decide +kernel,
    fun _ => by simp [MemSys.homeAt, show badSegment.ms.homes = [] by decide +kernel], by decide +kernel, by decide +kernel, by decide +kernel⟩

/-- A vector load of an element in a poisoned segment; of a POISONED tile, and of a READY one with a poisoned word. -/
def badOne (space : Nat) (st : TileState) (words : List Nat) : State :=
  let s := one 3 space ent fun k => { k with scratchPoison := words, tiles := k.tiles.set 0 { tile .ready with st := st } }
  { s with ms := { s.ms with poison := [0x6000 / 64] } }

theorem witness_poisoned_elements :
    (loadsBelow (badOne 0 .ready []) vi .unit (fun _ => 0) 0 ∧ (badOne 0 .ready []).self.cache.pin = none ∧
      mapped (badOne 0 .ready []) 0 { kind := 0, n := 4 } ent ∧ pteFmt ent.pte = 0 ∧ stands (badOne 0 .ready []) ent 0x6000 4 ∧
      badBytes (badOne 0 .ready []) 0x6000 4) ∧
    (loadsBelow (badOne 1 .poisoned []) vi .unit (fun _ => 0) 0 ∧
      (badOne 1 .poisoned []).self.tileAt 0 0 4 = some 0 ∧ ((badOne 1 .poisoned []).self.tile 0).st = .poisoned) ∧
    loadsBelow (badOne 1 .ready [0]) vi .unit (fun _ => 0) 0 ∧ ((badOne 1 .ready [0]).self.tile 0).st = .ready ∧
    badScratch (badOne 1 .ready [0]).self 0 4 := by
  refine ⟨⟨begins ?_ ?_ ?_, ?_, ?_, ?_, ?_, ⟨0, ?_, ?_⟩⟩, ⟨begins ?_ ?_ ?_, ?_, ?_⟩, begins ?_ ?_ ?_, ?_, ?_⟩
  case refine_7 =>
    unfold stands
    rw [if_pos (by decide +kernel)]
    exact atRest_of (by decide +kernel) (by decide +kernel) (by decide +kernel)
  all_goals
    ((try dsimp only [accesses, issues, admits, registers, released, live, mapped, mappedFor, badScratch]); decide +kernel)

/-! ### Witnesses: copies and multiplies -/

/-- That copy with this entry in the core's L1 TLB. -/
def transfers (o : CopyOp) (e : TlbEntry) : State := (copies o).modSelf fun k => { k with cache := { k.cache with tlb := [e] } }

/-- An address of the lowest 2 MiB lies in the window over them. -/
theorem inWindow_low {s : State} {t : BitVec 6} {pa : Nat} (hw : s.twin t.toNat 0 = 0x8000_0000_0000_0000) (h : pa < 2 ^ 21) :
    s.inWindow t pa = true ∧ s.localize pa = pa ∧ mmioOf pa = none := by
  have hl : s.localize pa = pa := by
    unfold State.localize
    split
    · exact Nat.mod_eq_of_lt (by omega)
    · rfl
  have hf : fld pa 21 21 = 0 := by unfold fld; rw [Nat.div_eq_of_lt h]; rfl
  refine ⟨?_, hl, ?_⟩
  · unfold State.inWindow
    rw [Bool.or_eq_true]
    refine .inl (List.any_eq_true.mpr ⟨0, by decide, ?_⟩)
    rw [hl, hw]
    unfold twinMatch
    simp only [hf]
    have hd : inDevice pa = true := by unfold inDevice deviceEnd; simp only [decide_eq_true_eq]; omega
    simp [hd, bits]
  · unfold mmioOf
    rw [if_neg]
    simp only [Bool.and_eq_true, decide_eq_true_eq]
    omega

theorem canonical_low {a : Word} (h : a.toNat < 2 ^ 55) : canonical a = true := by
  unfold canonical canon56
  rw [beq_iff_eq, BitVec.signExtend_eq_setWidth_of_msb_false]
  · apply BitVec.eq_of_toNat_eq
    simp; omega
  · rw [BitVec.msb_eq_false_iff_two_mul_lt]
    simp; omega

theorem page_low {a : Word} (h : a.toNat < 4096) : bits a 12 44 = 0 := by
  unfold bits; simp; omega

/-- n bytes of an uncached page of the lowest 2 MiB, at the virtual page 0, as a copy's accesses need them. -/
theorem inPage_of {s : State} {c : CoreId} {o : CopyOp} {kind n fmt : Nat} {a : Word} {e : TlbEntry}
    (hn : a.toNat + n ≤ 4096 ∧ pteFmt e.pte = fmt ∧ pteNc e.pte = true ∧ pteTen e.pte = false ∧ pteHost e.pte = false ∧
      pteTb e.pte = false ∧ (kind = 0 ∨ kind = 1 ∧ fmt = 0 ∧ pteD e.pte = true) ∧ ptePpn e.pte < 511 ∧ e.vpn = 0 ∧
      leafPages e.pte e.level = 1)
    (hp : permitted (o.ctx (s.core c).tk.tenant c) e.pte kind = true) (hs : s.ms.chains = [] ∧ s.ms.hdm = [] ∧ s.ms.homes = [])
    (he : (s.core c).cache.tlb = [e] ∧ e.tenant = (s.core c).tk.tenant ∧ e.asid = o.asid ∧
      s.twin (s.core c).tk.tenant.toNat 0 = 0x8000_0000_0000_0000) :
    inPage s c o kind a n fmt e := by
  obtain ⟨h1, h2, h3, h4, h5, h6, h7, h8, hv, hl⟩ := hn
  obtain ⟨e1, e2, e3, e4⟩ := he
  have each : ∀ i < n, canonical (a + toWord i) = true ∧ bits (a + toWord i) 12 44 = 0 ∧
      leafRaw e.pte e.level (a + toWord i) = ptePpn e.pte * 4096 + (a.toNat + i) := by
    intro i hi
    have ht : (a + toWord i).toNat = a.toNat + i := by unfold toWord; simp; omega
    refine ⟨canonical_low (by omega), page_low (by omega), ?_⟩
    unfold leafRaw
    rw [hl, ht, Nat.mod_eq_of_lt (by omega)]
  refine ⟨by omega, h2, fun i m hm hi => ?_, fun i hi => ⟨?_, fun hu => ?_⟩⟩
  · obtain ⟨c1, c2, c4⟩ := each i (by omega)
    obtain ⟨R, hR⟩ : ∃ R, ptePpn e.pte * 4096 + (a.toNat + i) = R + i := ⟨ptePpn e.pte * 4096 + a.toNat, by omega⟩
    rw [hR] at c4
    obtain ⟨w1, w2, w3⟩ := inWindow_low e4 (show R + i < 2 ^ 21 by omega)
    have w4 := (inWindow_low e4 (show R + (i + (m - 1)) < 2 ^ 21 by omega)).1
    have ha : s.leafAddr e.pte e.level (a + toWord i) = R + i := by unfold State.leafAddr; rw [c4, w2]
    have hc : (o.ctx (s.core c).tk.tenant c).tenant = (s.core c).tk.tenant ∧ (o.ctx (s.core c).tk.tenant c).asid = o.asid := ⟨rfl, rfl⟩
    refine ⟨c1, ?_, ?_, hp, ?_, h5, h6, ?_, ?_, rfl⟩
    · show (s.core c).cache.tlb.find? _ = _
      rw [e1, List.find?_cons_of_pos]
      unfold TlbEntry.serves
      rw [hc.1, hc.2, e2, e3]
      rcases h7 with rfl | ⟨rfl, _, h7⟩
      · simp [c2, hv, hl]
      · simp [c2, hv, hl, h7]
    · unfold State.leafWindow State.inWindows
      dsimp only
      rw [c4, w2, w3, hc.1, w1, show R + i + (m - 1) = R + (i + (m - 1)) by omega, w4, h4]
      rfl
    · unfold formatOk
      rcases h7 with rfl | ⟨rfl, h7, _⟩
      · rfl
      · rw [h2, h7]; rfl
    · rw [ha]; exact w3
    · rw [ha]; omega
  · unfold placedFor
    rw [if_pos (by unfold uncached; rw [h3]; rfl)]
    exact atRest_of hs.1 hs.2.1 (by rw [hs.2.2]; simp)
  · unfold uncached at hu
    rw [h3] at hu
    cases hu

/-- A copy that is alone, over memory and a scratchpad without poison. -/
theorem copying_of {s : State} {c : CoreId} {o : CopyOp} (h : alone s c o) (hp : (s.core c).scratchPoison = [] ∧ s.ms.poison = [])
    (hh : s.ms.homes = []) : copying s c o := ⟨h, hp.1, hp.2, by rw [hh]; simp⟩

/-- BYTES copies of 8 bytes: between tiles, into a tile, out of one, and inside a page. -/
def tileToTile : CopyOp := bytesCopy
def pageToTile : CopyOp := { bytesCopy with srcTile := none }
def tileToPage : CopyOp := { bytesCopy with dstTile := none }
def pageToPage : CopyOp := { bytesCopy with srcTile := none, dstTile := none, dst := 64 }

theorem witness_bytes_copies :
    (∀ o ∈ [tileToTile, pageToTile, tileToPage, pageToPage], copying (transfers o ent) 0 o ∧ o.kind = 0 ∧ o.mode = 0 ∧ o.conf = false ∧
      o.rowLen = 8 ∧ o.src.toNat < 2 ^ 23 ∧ o.dst.toNat < 2 ^ 23) ∧
    inPage (transfers pageToTile ent) 0 pageToTile 0 0 8 0 ent ∧ inPage (transfers tileToPage ent) 0 tileToPage 1 0 8 0 ent ∧
    inPage (transfers pageToPage ent) 0 pageToPage 0 0 8 0 ent ∧ inPage (transfers pageToPage ent) 0 pageToPage 1 64 8 0 ent ∧
    (let k := (transfers tileToTile ent).core 0; sideAt (transfers tileToTile ent) k (some 0) 0 ent + 8 ≤ sideAt (transfers tileToTile ent) k (some 1) 0 ent) ∧
    (let k := (transfers pageToPage ent).core 0; sideAt (transfers pageToPage ent) k none 0 ent + 8 ≤ sideAt (transfers pageToPage ent) k none 64 ent) := by
  refine ⟨fun o ho => ⟨copying_of ?_ ?_ ?_, ?_⟩, inPage_of ?_ ?_ ?_ ?_, inPage_of ?_ ?_ ?_ ?_,
    inPage_of ?_ ?_ ?_ ?_, inPage_of ?_ ?_ ?_ ?_, ?_, ?_⟩
  case refine_1 => revert o; dsimp only [alone]; decide +kernel
  case refine_2 => revert o; decide +kernel
  case refine_3 => revert o; decide +kernel
  case refine_4 => revert o; decide +kernel
  all_goals decide +kernel

/-- Pages of BF16 elements and of codebook records; DECODE to FP32, PACK in one plane, PACK of a codebook page. -/
def entBf : TlbEntry := { ent with pte := 0x0080_0000_0000_61BF }
def entKc2 : TlbEntry := { ent with pte := 0x0070_0000_0000_61BF }
def decodes : CopyOp := { pageToTile with d0 := 0x400A_0000_0100_0008 }
def packs : CopyOp := { pageToTile with d0 := 0x800A_0000_0100_0020 }
def packsKc2 : CopyOp := { pageToTile with d0 := 0x8040_0000_0100_0100 }

theorem witness_converting_copies :
    (∀ x ∈ [(decodes, entBf, 8), (packs, entBf, 8), (packsKc2, entKc2, 7)], copying (transfers x.1 x.2.1) 0 x.1 ∧ x.1.kind = 0 ∧
      x.1.srcTile = none ∧ x.1.dstTile = some 1 ∧ x.2.2 ≤ 8 ∧ pteBlk x.2.1.pte = 0 ∧ x.1.src = 0) ∧
    decodes.mode = 1 ∧ ET.ofCode decodes.etCode = some .f32 ∧ packs.mode = 2 ∧ packsKc2.mode = 2 ∧ packs.byColumns = false ∧
    packsKc2.byColumns = false ∧ packsKc2.rowLen = 256 ∧
    (∀ i < 32, (streamPlace 8 2 0 i).1 + 2 ≤ 4096) ∧ (∀ i < 256, (streamPlace 7 2 0 i).1 + 2 ≤ 3968) ∧
    (let p : CopyOp := { packs with fmt := some 8 }; p.packable = true ∧ p.noRoom ((transfers packs entBf).core 0) = false ∧ p.total < 2 ^ 32) ∧
    (let p : CopyOp := { packsKc2 with fmt := some 7 }
     p.packable = true ∧ p.noRoom ((transfers packsKc2 entKc2).core 0) = false ∧ p.total < 2 ^ 32) := by
  refine ⟨fun o ho => ⟨copying_of ?_ ?_ ?_, ?_⟩, ?_⟩
  case refine_1 => revert o; dsimp only [alone]; decide +kernel
  case refine_2 => revert o; decide +kernel
  case refine_3 => revert o; decide +kernel
  case refine_4 => revert o; decide +kernel
  case refine_5 => decide +kernel

theorem witness_whole_pages :
    inPage (transfers decodes entBf) 0 decodes 0 0 4096 8 entBf ∧ inPage (transfers packsKc2 entKc2) 0 packsKc2 0 0 4096 7 entKc2 := by
  refine ⟨inPage_of ?_ ?_ ?_ ?_, inPage_of ?_ ?_ ?_ ?_⟩ <;> decide +kernel

/-- COPY.DEC and COPY.ENC of 8 bytes in key slot 0, with this counter. -/
def dec (ctr : Word) : CopyOp := { bytesCopy with kind := 1, srcTile := none, dstTile := some 1, ctr := ctr }
def enc (ctr : Word) : CopyOp := { bytesCopy with kind := 2, dstTile := none, ctr := ctr }

/-- The copy in a function in RUN, with the slot bound to a key of this next number. -/
def keyed (o : CopyOp) (next : Option Word) : State :=
  let s := transfers o ent
  { s with sec := { s.sec with tdi := s.sec.tdi.set 0 .run, keys := [⟨1, 0, 0, next⟩], slots := [⟨1, 0, 0, 0⟩] } }

/-- Every key that the copies meet: none left, one past the counter, one at it. -/
def keyedCopies : List (CopyOp × Option Word) :=
  [(dec 5, none), (dec 5, some 6), (dec 5, some 5), (enc 5, none), (enc 5, some 6), (enc 5, some 5)]

theorem witness_confidential_copies :
    (∀ o ∈ [dec 5, enc 5], copying (transfers o ent) 0 o ∧ o.mode = 0 ∧ (transfers o ent).inRun 1 = false ∧ o.keep = false ∧ o.slot = 0) ∧
    (∀ x ∈ keyedCopies, copying (keyed x.1 x.2) 0 x.1 ∧ (keyed x.1 x.2).inRun 1 = true ∧
      (keyed x.1 x.2).keySlot 1 0 = some ⟨1, 0, 0, 0⟩ ∧ (keyed x.1 x.2).keyOf 1 0 = some ⟨1, 0, 0, x.2⟩) ∧
    (dec 5).ctr.toNat < (6 : Word).toNat ∧ (5 : Word).toNat ≤ (dec 5).ctr.toNat ∧ (dec 5).dstTile = some 1 ∧ (enc 5).srcTile = some 0 ∧
    ((keyed (enc 5) none).core 0).tk.tenant.toNat + 1 = 1 ∧ (((keyed (enc 5) none).core 0).tile 0).st = .draining ∧
    inPage (keyed (dec 5) (some 5)) 0 (dec 5) 0 0 24 0 ent ∧ inPage (keyed (enc 5) (some 5)) 0 (enc 5) 1 0 24 0 ent := by
  refine ⟨fun o ho => ⟨copying_of ?_ ?_ ?_, ?_⟩, fun o ho => ⟨copying_of ?_ ?_ ?_, ?_⟩, ?_, ?_, ?_, ?_, ?_, ?_, inPage_of ?_ ?_ ?_ ?_, inPage_of ?_ ?_ ?_ ?_⟩
  case refine_1 => revert o; dsimp only [alone]; decide +kernel
  case refine_2 => revert o; decide +kernel
  case refine_3 => revert o; decide +kernel
  case refine_4 => revert o; decide +kernel
  case refine_5 => revert o; dsimp only [alone]; decide +kernel
  case refine_6 => revert o; decide +kernel
  case refine_7 => revert o; decide +kernel
  case refine_8 => revert o; decide +kernel
  all_goals decide +kernel

/-- A copy into a tile whose first source byte is poisoned: in memory, and in another tile. -/
def badCopy (o : CopyOp) : State :=
  let s := (transfers o ent).modSelf fun k => { k with scratchPoison := [0] }
  { s with ms := { s.ms with poison := [0x6000 / 64] } }

theorem witness_poisoned_copies :
    (∀ o ∈ [pageToTile, tileToTile], alone (badCopy o) 0 o ∧ o.kind = 0 ∧ o.mode = 0 ∧ o.dstTile = some 1 ∧ o.rowLen = 8) ∧
    inPage (badCopy pageToTile) 0 pageToTile 0 0 8 0 ent ∧ badByte (badCopy pageToTile) 0 none 0x6000 0 ∧
    sideAt (badCopy pageToTile) ((badCopy pageToTile).core 0) none 0 ent = 0x6000 ∧
    badByte (badCopy tileToTile) 0 (some 0) 0 0 ∧ sideAt (badCopy tileToTile) ((badCopy tileToTile).core 0) (some 0) 0 ent = 0 := by
  refine ⟨fun o ho => ?_, inPage_of ?_ ?_ ?_ ?_, ?_, ?_, ?_, ?_⟩
  case refine_1 => revert o; dsimp only [alone]; decide +kernel
  all_goals ((try dsimp only [badByte, badBytes, badScratch]); decide +kernel)

/-- A multiply of 1 by 1 by 32 of each kind into v1, or with a WAC96 C into v1 to v3; over a codebook tile, over this metadata word. -/
def multiplyOp (kind : BitVec 2) (wac : Bool) : MatOp :=
  { issuedMatrix (mats true).self (mat 2) kind with active := true, claims := [0, 1], wac := wac }

def multiplyOn (o : MatOp) (metadata : Nat) (words : List Nat) : State := mats true fun k => { k with
  eng := { k.eng with mats := [o] }
  tiles := if o.kind = 2 then k.tiles.set 1 { tile .ready with pk := true, p := 3, et := 0x14, base := 1 } else k.tiles
  scratch := k.scratch.write 0x2000 4 metadata
  scratchPoison := words }

theorem witness_multiplies :
    (∀ x ∈ [(0, false), (1, false), (2, false), (0, true)], multiplies ((multiplyOn (multiplyOp x.1 x.2) 0x4444_4444 []).core 0) (multiplyOp x.1 x.2)) ∧
    (∀ i < 1, ¬illegalWord (multiplyOp 1 false) ((multiplyOn (multiplyOp 1 false) 0x4444_4444 []).core 0) i) ∧
    (multiplyOp 1 false).m * (multiplyOp 1 false).groups = 1 ∧
    multiplies ((multiplyOn (multiplyOp 1 false) 0 []).core 0) (multiplyOp 1 false) ∧
    illegalWord (multiplyOp 1 false) ((multiplyOn (multiplyOp 1 false) 0 []).core 0) 0 := by
  refine ⟨?_, ?_, ?_, ?_, ?_⟩
  case refine_2 =>
    intro i hi
    unfold illegalWord
    revert i; decide +kernel
  case refine_5 =>
    unfold illegalWord
    decide +kernel
  all_goals ((try dsimp only [multiplies, multiplying]); decide +kernel)

/-- Records of A, of B and of a codebook tile that are poisoned, and a metadata word. -/
theorem witness_poisoned_multiplies :
    let k := fun kind words => (multiplyOn (multiplyOp kind false) 0x4444_4444 words).core 0
    (∀ x ∈ [((0 : BitVec 2), [0]), (0, [512]), (2, [512]), (1, [1024])], multiplying (k x.1 x.2) (multiplyOp x.1 false)) ∧
    badA (multiplyOp 0 false) (k 0 [0]) 0 ∧ badB (multiplyOp 0 false) (k 0 [512]) 0 ∧ ¬badA (multiplyOp 0 false) (k 0 [512]) 0 ∧
    badB (multiplyOp 2 false) (k 2 [512]) 0 ∧ badScratch (k 1 [1024]) 0x2000 4 ∧ (multiplyOp 0 false).groups = 1 := by
  dsimp only
  refine ⟨?_, ⟨0, ?_, ?_⟩, ⟨0, ?_, ?_⟩, ?_, ⟨0, ?_, ?_⟩, ?_, ?_⟩ <;>
    (try dsimp only [multiplying, badA, badB, badRecord, badScratch]) <;> decide +kernel

/-! ### Worked examples of the spec, one step each -/

/-- Core 0 with x10 = a, x11 = b, x12 = c. -/
def abc (a b c : Word) : State := runsOn 0 fun k => ((k.wr 10 a).wr 11 b).wr 12 c

/-- The example under R212. -/
theorem test_division :
    regAfter (exec (.div ⟨9, 10, 11, 0⟩) (abc (-7) 2 0)) 9 = some (-3) ∧
    regAfter (exec (.rem ⟨9, 10, 11, 0⟩) (abc (-7) 2 0)) 9 = some (-1) ∧
    regAfter (exec (.rem ⟨9, 10, 11, 0⟩) (abc 7 (-2) 0)) 9 = some 1 ∧
    regAfter (exec (.divu ⟨9, 10, 11, 0⟩) (abc 7 0 0)) 9 = some 0xFFFF_FFFF_FFFF_FFFF ∧
    (match exec (.divu ⟨9, 10, 11, 0⟩) (abc 7 0 0) with
      | .next t => t.self.fflags
      | _ => 0) = 0x20 := by decide +kernel

/-- The table under R215 and its BFI. -/
theorem test_bit_fields :
    regAfter (exec (.bfxU ⟨9, 10, 11, 12⟩) (abc 0xF0F0_0000_0000_1234 4 8)) 9 = some 0x23 ∧
    regAfter (exec (.bfxU ⟨9, 10, 11, 12⟩) (abc 0xF0F0_0000_0000_1234 60 8)) 9 = some 0xF ∧
    regAfter (exec (.bfxS ⟨9, 10, 11, 12⟩) (abc 0xF0F0_0000_0000_1234 60 8)) 9 = some 0xFFFF_FFFF_FFFF_FFFF ∧
    regAfter (exec (.bfxS ⟨9, 10, 11, 12⟩) (abc 0xF0F0_0000_0000_1234 64 8)) 9 = some 0 ∧
    regAfter (exec (.bfi ⟨9, 10, 11, 12⟩) (abc 0xF0F0_0000_0000_1234 60 8)) 9 = some 0x4000_0000_0000_0000 := by decide +kernel

/-- The kernel under R226: LOOPI at 0x18; the inner LOOP with a count of 0 at 0x20; the end check at 0x38. -/
theorem test_loops :
    let s := fun (pc n lc : Word) => runsOn 0 fun k =>
      { (((k.wr 11 n).setCsr 0x030 lc).setCsr 0x031 0x20).setCsr 0x032 0x38 with pc := pc }
    let i := exec (.loopi 0 ⟨0, 3, 4⟩) (s 0x18 0 0)
    let l := exec (.loop 1 ⟨11, 0, 2⟩) (s 0x20 0 3)
    let a := exec (.addi ⟨11, 11, 1, none⟩) (s 0x38 0 3)
    csrAfter i 0x030 = some 3 ∧ csrAfter i 0x031 = some 0x20 ∧ csrAfter i 0x032 = some 0x38 ∧ pcAfter i = some 0x20 ∧
    csrAfter l 0x033 = some 0 ∧ csrAfter l 0x034 = some 0x28 ∧ csrAfter l 0x035 = some 0x30 ∧ pcAfter l = some 0x38 ∧
    csrAfter a 0x030 = some 2 ∧ pcAfter a = some 0x20 := by decide +kernel

/-- The example under R80: 100 rows of 3,000 columns at EW 16. -/
theorem test_shape :
    let r := exec (.setshape ⟨9, 10, 11, 0⟩) ((abc 100 3000 0).modSelf fun k => k.setCsr 0x000 2)
    csrAfter r 0x001 = some 5 ∧ csrAfter r 0x002 = some 3000 ∧ regAfter r 9 = some 15000 := by decide +kernel

/-- The example under R121. -/
theorem test_port : portOf 0x12_3456_7890 = (13, 0x6117_2090) := by decide +kernel

/-- The worked KC2 decode under R69. -/
theorem test_codebook :
    (List.range 8).map (kc2Weight (codebookEntry 0x5A) 0x5A0B) =
      [(true, 1), (false, 7), (true, 1), (false, 7), (false, 7), (false, 3), (false, 7), (false, 3)] := by decide +kernel

/-- Elements of a vector register. -/
def elems (r w : Nat) (l : List Nat) (k : Core) : Core :=
  { k with vec := k.vec.setBits r (l.foldr (fun e v => e + 2 ^ w * v) 0) }

/-- The replies that the instruction leaves. -/
def repliesAfter (r : Out) : List Reply :=
  match r with
  | .next t => t.self.replies
  | _ => []

/-- The example under R243: a sum by a tree, 2^24 + 4. -/
theorem test_reduction :
    let s := runsOn 0 fun k => elems 3 32 [0x4B80_0000, 0x3F80_0000, 0x3F80_0000, 0x3F80_0000, 0x3F80_0000, 0x3F80_0000]
      (((k.setCsr 0x000 3).setCsr 0x001 1).setCsr 0x002 6)
    repliesAfter (exec (.vred .add ⟨76, 3, 0, 0, 0, 0, 1, 0, 0, .f32⟩) s) = [⟨[(12, 0x4B80_0002)]⟩] := by decide +kernel

/-- The example under R246. -/
theorem test_push :
    let s := runsOn 0 fun k => elems 3 32 [7, 7, 7, 7] (elems 2 32 [2, 0, 2, 5] (elems 1 32 [10, 11, 12, 13]
      (((k.setCsr 0x000 3).setCsr 0x001 1).setCsr 0x002 4)))
    (match exec (.vpush ⟨3, 1, 2, 0, 0, 0, 1, 1, 0, .u32⟩) s with
      | .next t => elemsOf 32 (t.self.vec.bitsOf 3) 4
      | _ => []) = [11, 7, 12, 7] := by decide +kernel

/-- The example under R250: the scale of a block of 32 FP16 values, and their conversion to E4M3. -/
theorem test_scales :
    let s := runsOn 0 fun k => elems 2 8 [0x80] (elems 1 16 [0x63D0, 0x4200, 0xAE66]
      (((k.setCsr 0x000 (toWord (2 + 2 ^ 13))).setCsr 0x001 1).setCsr 0x002 32))
    (match exec (.vscale .f16 ⟨2, 1, 0, 0, 0, 0, 1, 0, 0, .e4m3⟩) s with
      | .next t => elemsOf 8 (t.self.vec.bitsOf 2) 1
      | _ => []) = [0x80] ∧
    (match exec (.vcvtNarrow .f16 ⟨3, 1, 2, 0, 0, 0, 1, 1, 0, .e4m3⟩) s with
      | .next t => elemsOf 8 (t.self.vec.bitsOf 3) 4
      | _ => []) = [0x7E, 0x3C, 0x95, 0] := by decide +kernel

/-- The example under R183: the second and the last claim of 256, and one after the end. -/
theorem test_claim :
    let s := fun (next : Nat) => (holds 16 (next + 1000 * 2 ^ 64) 256).modSelf fun k => { k with replies := [] }
    let r := fun (next : Nat) => exec (.claim ⟨9, 2, 3, 0, 0, 0, 0, none⟩) (s next)
    repliesAfter (r 256) = [⟨[(9, 256)]⟩] ∧ csrAfter (r 256) 0x002 = some 256 ∧
    repliesAfter (r 768) = [⟨[(9, 768)]⟩] ∧ csrAfter (r 768) 0x002 = some 232 ∧ csrAfter (r 1000) 0x002 = some 0 := by
  decide +kernel

/-- The example under R129: addends 2^24, 1.0, 1.0 and 2^24 in that order give 2^25. -/
theorem test_scatter_add :
    let d := fun v => (⟨0x6000, .f32, 0, v, 0⟩ : Addend)
    let ms := { (runs 0).ms with chains := [⟨0x6000 / 8, [d 0x4B80_0000, d 0x3F80_0000, d 0x3F80_0000, d 0x4B80_0000]⟩] }
    (ms.settle 0x6000 4).mem.read 0x6000 4 = 0x4C00_0000 := by decide +kernel

/-- The worked translation: a store of 4 bytes by tenant 5; the level-1 entry receives D. With W cleared, the trap's value. -/
theorem test_translation :
    let s := fun (leaf : Nat) =>
      let m := ((((State.reset.ms.mem.write 0x10_0000 8 0x10_1001).write 0x10_17F0 8 0x10_2001).write 0x10_2240 8 0x10_3001).write
        0x10_3D10 8 leaf)
      { State.reset with ms := { State.reset.ms with mem := m } }.setReg 0 (0x2_0000 + 0x100 * 5) 0x8000_07FF_FF00_0000
    let c : Ctx := { tenant := 5, asid := 0x21, root := 0x100, tdt := 0, user := true, core := 0, who := .thread 0 }
    let r := fun (leaf : Nat) => resolveGlobal c 0x7F12_3456_7890 { kind := 1, n := 4 } anyFormat (s leaf)
    (match r 0x20_4000_049B with
      | .ok h t => (h.pa, t.ms.mem.read 0x10_3D10 8)
      | .error _ _ => (0, 0)) = (0x20_4016_7890, 0x20_4000_04BB) ∧
    (match r 0x20_4000_0499 with
      | .error (.trap c v) _ => (c, v)
      | _ => (0, 0)) = (causePage, 0x2500_7F12_3456_7890) := by decide +kernel

/-- One step of a thread: `add x10, x10, x12` of the kernel under R226, and TRAP, whose entry R352 gives. -/
theorem test_steps :
    regAfter (step (runsOn 0x0028_A300_0000_0000 fun k => (k.wr 10 3).wr 12 4)) 10 = some 7 ∧
    pcAfter (step (runs 0x0028_A300_0000_0000)) = some 8 ∧
    csrAfter (step (runs 0xE000_0001_0000_0005)) 0x100 = some 0x12 ∧
    pcAfter (step (runsOn 0xE000_0001_0000_0005 fun k => k.setCsr 0x104 0x4000)) = some 0x4000 := by decide +kernel

end Sys2Proof.Tests
end

section
/-! The reset state (O56): the default codebook read digit by digit, the windows after reset. -/

namespace Sys2Proof.Proofs
open Sys2Proof.Machine

/-- The number whose digit b in base 2^w is f b, for b below n. -/
def digitSum (w : Nat) (f : Nat → Nat) (n : Nat) : Nat :=
  (List.range n).foldl (fun acc b => acc + f b * 2 ^ (w * b)) 0

theorem digitSum_succ (w : Nat) (f : Nat → Nat) (n : Nat) :
    digitSum w f (n + 1) = digitSum w f n + f n * 2 ^ (w * n) := by
  simp [digitSum, List.range_succ]

theorem digitSum_lt {w : Nat} {f : Nat → Nat} (hf : ∀ b, f b < 2 ^ w) (n : Nat) : digitSum w f n < 2 ^ (w * n) := by
  induction n with
  | zero => simp [digitSum]
  | succ n ih =>
    rw [digitSum_succ, Nat.mul_succ, pow_add]
    have h : (f n + 1) * 2 ^ (w * n) ≤ 2 ^ w * 2 ^ (w * n) := Nat.mul_le_mul_right _ (hf n)
    nlinarith

theorem digitSum_mod {w n m : Nat} {f : Nat → Nat} (hf : ∀ b, f b < 2 ^ w) (hm : w * n = m) :
    digitSum w f n % 2 ^ m = digitSum w f n := by
  subst hm
  exact Nat.mod_eq_of_lt (digitSum_lt hf n)

/-- The digits of a number made of digits. -/
theorem fld_digitSum {w : Nat} {f : Nat → Nat} (hf : ∀ b, f b < 2 ^ w) {i n : Nat} (hi : i < n) :
    fld (digitSum w f n) (w * i) w = f i := by
  induction n with
  | zero => omega
  | succ n ih =>
    rw [fld, digitSum_succ]
    rcases Nat.lt_succ_iff_lt_or_eq.mp hi with h | rfl
    · rw [show w * n = w * i + (w + w * (n - i - 1)) by
        obtain ⟨d, rfl⟩ := Nat.exists_eq_add_of_lt h
        rw [show i + d + 1 - i - 1 = d by omega]; ring]
      rw [pow_add, pow_add, show f n * (2 ^ (w * i) * (2 ^ w * 2 ^ (w * (n - i - 1)))) =
        2 ^ (w * i) * (2 ^ w * (f n * 2 ^ (w * (n - i - 1)))) by ring, Nat.add_mul_div_left _ _ (by positivity),
        Nat.add_mul_mod_self_left]
      exact ih h
    · rw [Nat.add_mul_div_right _ _ (by positivity), Nat.div_eq_of_lt (digitSum_lt hf i), Nat.zero_add,
        Nat.mod_eq_of_lt (hf i)]

/-- Digit j of entry b of the default codebook: a half, and one for bit j (R69). -/
def codebookDigit (b j : Nat) : Nat := 2 + 4 * (b / 2 ^ j % 2)

theorem codebookDigit_lt (b j : Nat) : codebookDigit b j < 2 ^ 4 := by
  have := Nat.mod_lt (b / 2 ^ j) (show 0 < 2 by omega)
  unfold codebookDigit
  omega

theorem codebookEntry_eq (b : Nat) : codebookEntry b = digitSum 4 (codebookDigit b) 8 := by
  simp only [codebookEntry, digitSum, codebookDigit, Nat.pow_mul, Nat.reducePow]

theorem codebookEntry_lt (b : Nat) : codebookEntry b < 2 ^ 32 := by
  rw [codebookEntry_eq]
  exact digitSum_lt (codebookDigit_lt b) 8

theorem codebookReset_toNat : codebookReset.toNat = digitSum 32 codebookEntry 256 := by
  rw [codebookReset, BitVec.toNat_ofNat, ← digitSum, digitSum_mod codebookEntry_lt rfl]

/-- A field of 4 bits inside the entry that stands first in a window of 64 bits. -/
theorem bits_extract_entry (v : BitVec 8192) (b : Nat) {j : Nat} (hj : j < 8) :
    bits (v.extractLsb' (32 * b) 64) (4 * j) 4 = fld (fld v.toNat (32 * b) 32) (4 * j) 4 := by
  simp only [bits, BitVec.extractLsb'_toNat, Nat.shiftRight_eq_div_pow, fld]
  rw [show (64 : Nat) = 4 * j + (64 - 4 * j) by omega, show (32 : Nat) = 4 * j + (32 - 4 * j) by omega]
  rw [pow_add, pow_add, Nat.mod_mul_right_div_self, Nat.mod_mul_right_div_self,
    Nat.mod_mod_of_dvd _ (pow_dvd_pow 2 (by omega)), Nat.mod_mod_of_dvd _ (pow_dvd_pow 2 (by omega))]

theorem codebookReset_digit {b j : Nat} (hb : b < 256) (hj : j < 8) :
    bits (codebookReset.extractLsb' (32 * b) 64) (4 * j) 4 = 2 + 4 * (b / 2 ^ j % 2) := by
  rw [bits_extract_entry _ _ hj, codebookReset_toNat, fld_digitSum codebookEntry_lt hb, codebookEntry_eq,
    fld_digitSum (codebookDigit_lt b) hj, codebookDigit]

theorem core_reset (c : CoreId) : State.reset.core c = Core.reset := by
  simp [State.core, State.reset]

/-- After reset every window of every tenant is 0 (R22). -/
theorem twin_reset {t w : Nat} (ht : t < 64) (hw : w < 16) : State.reset.twin t w = 0 := by
  have h : regReset 0 (0x2_0000 + 0x100 * t + 8 * w) = 0 := by
    unfold regReset
    simp only [Bool.or_eq_true, Bool.and_eq_true, decide_eq_true_eq]
    repeat rw [if_neg (by omega)]
  exact h

/-- Settles O56: the core by its reset values, the codebook digit by digit, the windows from the registers' reset. -/
theorem resetState : Obligations.ResetState := by
  refine ⟨fun c => ?_, fun t ht w hw => twin_reset ht hw, rfl⟩
  rw [core_reset]
  refine ⟨rfl, rfl, rfl, rfl, rfl, rfl, rfl, by decide, fun r => ?_, fun t => ?_, fun b hb j hj => codebookReset_digit hb hj⟩
  · simp [Core.reset, VecUnit.reset]
  · simp [Core.tile, Core.reset, t.isLt]

end Sys2Proof.Proofs
end

section
/-! Events of the host (O51): a delivery of CONF_LOST to a thread that waits for the host. -/

namespace Sys2Proof.Proofs
open Sys2Proof.Machine Sys2Proof.Claim

/-- Core 0 runs a member of a task of tenant 0, whose CONF_LOST is due while its thread waits for a host translation. -/
def awaitingHost : State :=
  { State.reset with ms := { MemSys.reset with atsSeek := [(.thread 0, 1, 0)] } }.modCore 0 fun k =>
    { k with tk := { k.tk with task := some 0, conf := true } }

/-- The accesses that wait for a host translation after an outcome. -/
def seekersAfter : Out → List (Asker × Nat × Nat)
  | .next t => t.ms.atsSeek
  | _ => []

/-- The delivery gives up the access that waited: it is made anew after the handler (R37). -/
theorem awaitingHost_confLost : seekersAfter (exec (.confLostDelivery 0) awaitingHost) = [] := by decide +kernel

/-- Refutes O51: a delivery of CONF_LOST to a thread that waits for a host translation changes more than the core, for the access
that waited leaves the list of those that the host is asked for (R37). -/
theorem not_hostEvents : ¬ Obligations.HostEvents := by
  rintro ⟨-, htenant⟩
  obtain ⟨-, -, -, -, -, -, -, -, -, -, -, -, -, hconf, -⟩ := htenant awaitingHost 0 0
  have hnext := hconf (by decide +kernel) (by decide +kernel) (by decide +kernel) (by decide +kernel) (by decide +kernel)
    (by decide +kernel) (by decide +kernel)
  have hseek := congrArg seekersAfter hnext
  rw [awaitingHost_confLost] at hseek
  cases hseek

end Sys2Proof.Proofs
end

section
/-! Faults of translation (O19): a fetch whose word straddles two lines. -/

namespace Sys2Proof.Proofs
open Sys2Proof.Machine Sys2Proof.Claim

/-- A dirty home line of the bytes from 0x7000 on, whose fourth byte is the opcode of NOP. -/
def nopLine : HomeLine :=
  { key := .addr none 0x70, bank := (0, 0), slot := 0, data := 0xE0 * 2 ^ 24, dirty := lineMask 0 8, poison := 0
    runs := [(0, 256, 0x7000)], root := 0 }

/-- The translation of page 0 onto 0x6000, readable and executable at USER. -/
def mappedPage : TlbEntry := { tenant := 0, asid := 0, level := 0, big := false, vpn := 0, pte := 0x61BF }

/-- Core 0 stands at 0xFFC, four bytes below the end of the one page that is mapped, onto 0x6000. Memory holds a leading word at
0x6FFC; its last byte lies in the next line, which stands dirty at its home and there is that of a NOP. -/
def straddling : State :=
  let s := State.reset.withFetchWord 64 0
  { s with ms := { s.ms with mem := s.ms.mem.write 0x6FFC 8 (0xF0 * 2 ^ 56), homes := [nopLine] } }.modSelf fun k =>
    { k with pc := 0xFFC, cache := { k.cache with tlb := [mappedPage] } }

/-- The leading word that stands in memory. -/
def prefixWord : Word := toWord (0xF0 * 2 ^ 56)

/-- The state after a look at the word that memory holds. -/
def straddlingRead : State :=
  straddling.modSelf fun k => { k with cache := { k.cache with icache := (0x6FFC / 8, prefixWord) :: k.cache.icache } }

theorem straddling_moves : threadMoves straddling := by
  dsimp only [threadMoves]
  decide +kernel

theorem straddling_fetches : fetches straddling straddling.self.pc prefixWord straddlingRead := by
  refine ⟨mappedPage.hit straddling 0xFFC, straddling, ?_, .inr ⟨by decide +kernel, by decide +kernel,
    fun tag => ?_, by decide +kernel, by decide +kernel, by decide +kernel, ?_⟩⟩
  · exact resolveGlobal_tlb (by decide +kernel) rfl (by decide +kernel) (by decide +kernel) (by decide +kernel) (by decide +kernel)
      (by decide +kernel) rfl
  · have hh : straddling.ms.homes = [nopLine] := by decide +kernel
    have hl : lineOf (mappedPage.hit straddling 0xFFC).ga = 0x6F := by decide +kernel
    rw [MemSys.homeAt, hh, hl]
    rfl
  · have ha : (mappedPage.hit straddling 0xFFC).ga / 8 = 0x6FFC / 8 := by decide +kernel
    rw [ha, straddlingRead]

/-- The page after it is not mapped. -/
theorem straddling_fails :
    fails straddlingRead (straddling.self.pc + 8) { kind := 2, n := 8 } anyFormat (5, 0, 0) := by
  refine ⟨by decide +kernel, fun _ => ⟨by decide +kernel, by decide +kernel, by decide +kernel, by decide +kernel, ?_⟩, by decide +kernel⟩
  have hh : straddlingRead.ms.homes = [nopLine] := by decide +kernel
  simp [hh, nopLine]

/-- The privilege of core 0 after an outcome. -/
def privAfter : Out → Option Priv
  | .next t => some (t.core 0).priv
  | _ => none

/-- The fetch writes the line back before it reads (R99, R126), so the thread meets a NOP and stays at USER. -/
theorem straddling_step : privAfter (step straddling) = some .user := by decide +kernel

/-- A core that has trapped is at SUPER (R352), whatever every step brings up to date. -/
theorem privAfter_concluded_trapped {s u : State} {cause : Nat} {v epc : Word} (hh : s.ms.hdm = []) (hc : u.cur = 0) :
    privAfter (s.concluded none (trapped u cause v epc)) = some .super := by
  rw [trapped, concluded_next (held_nothing hh), privAfter, State.tidy_core, State.syncSaved_core, Core.withApend_priv, ← hc]
  exact congrArg (some ·.priv) (State.modSelf_self u _)

/-- Refutes O19: a program counter that is no multiple of 8 lets the word straddle two lines; the second is written back from its
home before the fetch reads, so the leading word that memory held is not the one that the thread meets. -/
theorem not_translationFaults : ¬ Obligations.TranslationFaults := by
  intro h
  obtain ⟨-, -, -, -, hsecond⟩ := h straddling (5, 0, 0)
  obtain ⟨u, ⟨-, -, hcur⟩, hstep⟩ := hsecond straddling_moves prefixWord straddlingRead straddling_fetches (by decide +kernel)
    straddling_fails
  have hsuper := privAfter_concluded_trapped (s := straddling) (u := u) (cause := 5)
    (v := faultValue 0 0 2 (straddling.self.pc + 8)) (epc := straddling.self.pc) (by decide +kernel) (hcur.trans (by decide +kernel))
  rw [← hstep, straddling_step] at hsuper
  cases hsuper

end Sys2Proof.Proofs
end

section
/-! What the proofs below share: inversion of the monad, events, changes of every core, registers after a write, memory at
rest. -/

namespace Sys2Proof.Proofs
open Sys2Proof.Machine Sys2Proof.Claim

/-! ### Steps and events -/

/-- A composed step that succeeds is made of two that do. -/
theorem bind_ok_iff {α β : Type} {m : X α} {f : α → X β} {s t : State} {b : β} :
    (m >>= f) s = .ok b t ↔ ∃ a u, m s = .ok a u ∧ f a u = .ok b t := by
  rw [X.bind_apply]
  constructor
  · intro h
    split at h
    · exact ⟨_, _, ‹_›, h⟩
    · cases h
  · rintro ⟨a, u, hm, hf⟩
    rw [hm]
    exact hf

theorem require_ok_iff {b : Bool} {c : Nat} {v : Word} {s t : State} :
    require b c v s = .ok () t ↔ b = true ∧ t = s := by
  rw [X.require_apply]
  cases b <;> simp [eq_comm]

/-- A condition passed before a step that succeeds. -/
theorem require_bind_ok {α : Type} {b : Bool} {c : Nat} {v : Word} {f : Unit → X α} {s t : State} {a : α} :
    (require b c v >>= f) s = .ok a t ↔ b = true ∧ f () s = .ok a t := by
  rw [bind_ok_iff]
  constructor
  · rintro ⟨⟨⟩, u, h, hf⟩
    obtain ⟨hb, rfl⟩ := require_ok_iff.mp h
    exact ⟨hb, hf⟩
  · rintro ⟨rfl, hf⟩
    exact ⟨(), s, rfl, hf⟩

@[simp] theorem whenever_true (s : State) : whenever true s = .ok () s := rfl
@[simp] theorem whenever_false (s : State) : whenever false s = .error .halt s := rfl
@[simp] theorem notNow_apply {α : Type} (s : State) : (notNow : X α) s = .error .halt s := rfl

/-- A step that does not wait is its own atomic form. -/
theorem atomically_ok {α : Type} {m : X α} {s t : State} {a : α} (h : m s = .ok a t) : atomically m s = .ok a t := by
  simp [atomically, h]

/-- An event that succeeds. -/
theorem event_of_ok {m : X Unit} {s t : State} (h : m s = .ok () t) : event m s = .next t := event_ok (atomically_ok h)

/-- An event whose moment has not come changes nothing. -/
theorem event_halt {m : X Unit} {s t : State} (h : m s = .error .halt t) : event m s = .next s := by
  simp [event, atomically, h]

/-- An event of one core that succeeds. -/
theorem eventOn_ok {m : X Unit} {s t : State} {c : CoreId} (h : m { s with cur := c } = .ok () t) :
    eventOn c m s = .next { t with cur := s.cur } := by
  simp [eventOn, event_of_ok h]

/-! ### What a step keeps -/

/-- A step that succeeds keeps what p reads of the state. -/
def Keeps {α β : Type} (p : State → β) (m : X α) : Prop := ∀ s a t, m s = .ok a t → p t = p s

theorem Keeps.bind {α β γ : Type} {p : State → γ} {m : X α} {f : α → X β} (hm : Keeps p m) (hf : ∀ a, Keeps p (f a)) :
    Keeps p (m >>= f) := by
  intro s b t h
  obtain ⟨a, u, h1, h2⟩ := bind_ok_iff.mp h
  exact (hf a u b t h2).trans (hm s a u h1)

theorem Keeps.pure {α β : Type} {p : State → β} (a : α) : Keeps p (pure a : X α) := by
  intro s b t h
  cases h
  rfl

theorem Keeps.get {β : Type} {p : State → β} : Keeps p (get : X State) := by
  intro s b t h
  cases h
  rfl

theorem Keeps.throw {α β : Type} {p : State → β} (e : Stop) : Keeps p (throw e : X α) := by
  intro s b t h
  cases h

theorem Keeps.modify {β : Type} {p : State → β} {f : State → State} (h : ∀ s, p (f s) = p s) : Keeps p (modify f : X Unit) := by
  intro s b t ht
  cases ht
  exact h s

theorem Keeps.require {β : Type} {p : State → β} (b : Bool) (c : Nat) (v : Word) : Keeps p (require b c v) := by
  intro s u t h
  rw [(require_ok_iff.mp h).2]

theorem Keeps.ite {α β : Type} {p : State → β} {c : Prop} [Decidable c] {m n : X α} (hm : Keeps p m) (hn : Keeps p n) :
    Keeps p (if c then m else n) := by
  split <;> assumption

/-! ### Changes of every core -/

theorem mem_allCores (c : CoreId) : c ∈ allCores :=
  List.mem_map.mpr ⟨c.toNat, List.mem_range.mpr c.isLt, by simp⟩

theorem allCores_nodup : allCores.Nodup := by decide +kernel

/-- A core after a change of the cores of a list, each once. -/
theorem foldl_modCore_core (f : Core → Core) (c : CoreId) (l : List CoreId) (hl : l.Nodup) (s : State) :
    (l.foldl (fun s c => s.modCore c f) s).core c = if c ∈ l then f (s.core c) else s.core c := by
  induction l generalizing s with
  | nil => simp
  | cons d l ih =>
    obtain ⟨hd, hl⟩ := List.nodup_cons.mp hl
    rw [List.foldl_cons, ih hl]
    by_cases h : c = d
    · subst h
      simp [hd]
    · simp [h, State.modCore_core_other s f h]

@[simp] theorem modAll_core (s : State) (f : Core → Core) (c : CoreId) : (s.modAll f).core c = f (s.core c) := by
  rw [State.modAll, foldl_modCore_core f c _ allCores_nodup, if_pos (mem_allCores c)]

theorem modAll_keeps {β : Type} (p : State → β) (hp : ∀ s c f, p (State.modCore s c f) = p s) (s : State) (f : Core → Core) :
    p (s.modAll f) = p s :=
  foldl_keeps p (fun s c => hp s c f) _ _

@[simp] theorem modAll_ms (s : State) (f : Core → Core) : (s.modAll f).ms = s.ms := modAll_keeps (·.ms) (fun _ _ _ => rfl) s f
@[simp] theorem modAll_mmio (s : State) (f : Core → Core) : (s.modAll f).mmio = s.mmio :=
  modAll_keeps (·.mmio) (fun _ _ _ => rfl) s f

/-! ### Registers -/

@[simp] theorem setReg_cores (s : State) (f o : Nat) (v : Word) : (s.setReg f o v).cores = s.cores := rfl
@[simp] theorem setReg_core (s : State) (f o : Nat) (v : Word) (c : CoreId) : (s.setReg f o v).core c = s.core c := rfl
@[simp] theorem setReg_ms (s : State) (f o : Nat) (v : Word) : (s.setReg f o v).ms = s.ms := rfl

/-- A register is what the list of registers says. -/
theorem reg_congr {s t : State} (h : t.mmio = s.mmio) (f o : Nat) : t.reg f o = s.reg f o := by
  unfold State.reg
  rw [h]

theorem find_filter_same (l : List (Nat × Word)) (a : Nat) : (l.filter (·.1 != a)).find? (·.1 == a) = none := by
  simp [List.find?_eq_none]

theorem find_filter_other (l : List (Nat × Word)) {a b : Nat} (h : b ≠ a) :
    (l.filter (·.1 != a)).find? (·.1 == b) = l.find? (·.1 == b) := by
  rw [List.find?_filter]
  congr 1
  funext e
  by_cases he : e.1 = b
  · simp [he, h]
  · simp [he]

/-- A register read after it was written. -/
@[simp] theorem reg_setReg_same (s : State) (f o : Nat) (v : Word) : (s.setReg f o v).reg f o = v := by
  unfold State.reg State.setReg
  by_cases h : v = regReset f o
  · simp only [h, if_true, find_filter_same]
  · simp [h]

theorem find_put_other (l : List (Nat × Word)) {a b : Nat} (v : Word) (p : Prop) [Decidable p] (h : b ≠ a) :
    (if p then l.filter (·.1 != a) else (a, v) :: l.filter (·.1 != a)).find? (·.1 == b) = l.find? (·.1 == b) := by
  have hab : (a == b) = false := beq_eq_false_iff_ne.mpr h.symm
  split
  · exact find_filter_other l h
  · rw [List.find?_cons, hab, find_filter_other l h]

/-- Another register read after one was written. -/
theorem reg_setReg_other (s : State) {f o f' o' : Nat} (v : Word) (h : f' * 2 ^ 24 + o' ≠ f * 2 ^ 24 + o) :
    (s.setReg f o v).reg f' o' = s.reg f' o' := by
  unfold State.reg State.setReg
  dsimp only
  rw [find_put_other _ _ _ h]

/-- Two registers of one block. -/
theorem reg_setReg_block (s : State) {f o o' : Nat} (v : Word) (h : o' ≠ o) : (s.setReg f o v).reg f o' = s.reg f o' :=
  reg_setReg_other s v (by omega)

end Sys2Proof.Proofs
end

section
/-! Walks and the answers of the host (O48). -/

namespace Sys2Proof.Proofs
open Sys2Proof.Machine Sys2Proof.Claim

/-! ### Walks -/

theorem walkLevels_cores (c : Ctx) (va : Word) (kind : Nat) (ls : List Nat) (tbl : Nat) (path : List WalkEntry) :
    Keeps State.cores (walkLevels c va kind ls tbl path) := by
  induction ls generalizing tbl path with
  | nil => exact Keeps.pure _
  | cons lvl rest ih =>
    refine Keeps.bind Keeps.get fun s => Keeps.bind (Keeps.require _ _ _) fun _ => ?_
    refine Keeps.bind (Keeps.modify fun _ => rfl) fun _ => Keeps.bind (Keeps.require _ _ _) fun _ => ?_
    refine Keeps.bind (Keeps.require _ _ _) fun _ => Keeps.bind (Keeps.require _ _ _) fun _ => ?_
    exact Keeps.ite (Keeps.pure _) (ih _ _)

/-- A walk changes no core. -/
theorem walk_cores (c : Ctx) (va : Word) (kind : Nat) : Keeps State.cores (walk c va kind) := by
  refine Keeps.bind Keeps.get fun s => ?_
  dsimp only
  split <;> exact walkLevels_cores _ _ _ _ _ _

/-- A translation by the host changes no core. -/
theorem atsTranslate_cores (c : Ctx) (level : Nat) (va : Word) (pa kind : Nat) :
    Keeps State.cores (atsTranslate c level va pa kind) := by
  intro s a t h
  simp only [atsTranslate, X.bind_apply, X.get_apply, X.ite_apply, X.set_apply, X.trap_apply] at h
  split at h
  · cases h
  · generalize s.ms.atc.find? _ = found at h
    cases found with
    | none => cases h
    | some e =>
      simp only [X.bind_apply, X.ite_apply, X.set_apply, X.pure_apply, X.throw_apply] at h
      split at h
      · cases h
        rfl
      · cases h

/-- The cached form of an entry stands first in the L1 TLB of its core, and nothing else of a core has changed but what the
setting of A and D takes from the L1 data cache. -/
structure Walked (c : Ctx) (va : Word) (h : Hit) (s u : State) : Prop where
  cached : tlbOf c va h.pte h.level ∈ (u.core c.core).cache.tlb
  core : u.core c.core = { s.core c.core with cache := (u.core c.core).cache }

theorem setAD_core {c : Ctx} {l : Leaf} {kind : Nat} {s t : State} {e : Word} (h : setAD c l kind s = .ok e t) :
    t.core c.core = { s.core c.core with cache := (t.core c.core).cache } := by
  simp only [setAD, X.ite_apply, X.bind_apply, X.modify_apply, X.pure_apply] at h
  generalize l.pte ||| 0x10 ||| (if kind == 1 || kind == 3 then 0x20 else 0) = v at h
  split at h
  · cases h
    rfl
  · cases h
    simp only [State.modCore_core_same]
    rfl

theorem core_of_cores {s t : State} (h : t.cores = s.cores) (c : CoreId) : t.core c = s.core c := by
  simp only [State.core, h]

theorem l1Install_walked {c : Ctx} {va : Word} {e : Word} {level pa ga : Nat} {s t : State} {cl : BitVec 6} {die : BitVec 2}
    {es : List WalkEntry} (h : t.core c.core = { s.core c.core with cache := (t.core c.core).cache }) :
    Walked c va ⟨e, level, pa, ga, va⟩ s
      (((t.l1Install c.core (tlbOf c va e level)).l2Install cl (tlbOf c va e level)).pwcInstall die es) := by
  have hcore : (((t.l1Install c.core (tlbOf c va e level)).l2Install cl (tlbOf c va e level)).pwcInstall die es).core c.core =
      (t.l1Install c.core (tlbOf c va e level)).core c.core := rfl
  constructor
  · rw [hcore, State.l1Install, State.modCore_core_same]
    exact List.mem_cons_self
  · rw [hcore, State.l1Install, State.modCore_core_same]
    dsimp only
    rw [h]

/-- The end of a translation by a walk: A and D are set, the entry is cached, FORMAT is checked (R27, R32). -/
theorem installing_walked {c : Ctx} {va : Word} {l : Leaf} {kind pa ga cause : Nat} {b : Bool} {v : Word} {s t u : State} {h : Hit}
    (hc : t.cores = s.cores)
    (hr : (do
      let e ← setAD c l kind
      modify fun s => ((s.l1Install c.core (tlbOf c va e l.level)).l2Install (clusterOf c.core) (tlbOf c va e l.level)).pwcInstall
        (dieOf c.core) l.path
      require b cause v
      pure ⟨e, l.level, pa, ga, va⟩ : X Hit) t = .ok h u) : Walked c va h s u := by
  obtain ⟨e, t1, had, hinstall⟩ := bind_ok_iff.mp hr
  obtain ⟨⟨⟩, t2, hmodify, hformat⟩ := bind_ok_iff.mp hinstall
  obtain ⟨-, hpure⟩ := require_bind_ok.mp hformat
  obtain ⟨-, rfl⟩ := EStateM.Result.ok.inj hmodify
  obtain ⟨rfl, rfl⟩ := EStateM.Result.ok.inj hpure
  refine l1Install_walked ?_
  rw [setAD_core had, core_of_cores hc]

/-- R29, R34: what a translation by a walk leaves. -/
theorem resolveGlobal_walked {c : Ctx} {va : Word} {q : Ask} {ok : Word → Nat → Bool} {s u : State} {h : Hit}
    (hq : q.rewalk = true) (hr : resolveGlobal c va q ok s = .ok h u) : Walked c va h s u := by
  obtain ⟨-, htranslate⟩ := require_bind_ok.mp hr
  simp only [Machine.translate, hq, if_true, pure_bind] at htranslate
  obtain ⟨l, t, hwalk, hchecks⟩ := bind_ok_iff.mp htranslate
  have hcores := walk_cores _ _ _ _ _ _ hwalk
  obtain ⟨-, hwindow⟩ := require_bind_ok.mp hchecks
  obtain ⟨-, hpermit⟩ := require_bind_ok.mp hwindow
  obtain ⟨-, hhost⟩ := require_bind_ok.mp hpermit
  rw [X.ite_apply] at hhost
  split at hhost
  · obtain ⟨ga, w, hats, hend⟩ := bind_ok_iff.mp hhost
    exact installing_walked ((atsTranslate_cores _ _ _ _ _ _ _ _ hats).trans hcores) hend
  · exact installing_walked hcores hhost

/-- R29, R43: a walk answers a read. -/
theorem exec_pageWalk {c : CoreId} {va : BitVec 56} {s u : State} {h : Hit} (ht : (s.core c).tk.task ≠ none)
    (hr : resolveGlobal (s.ctxOf c) (va.signExtend 64) { kind := 0, n := 1, rewalk := true } anyFormat s = .ok h u) :
    exec (.pageWalk c va) s = .next u := by
  have hsome : (s.core c).tk.task.isSome = true := by rwa [Option.isSome_iff_ne_none]
  refine event_of_ok ?_
  simp only [X.bind_apply, X.get_apply, hsome, whenever_true, hr, X.pure_apply]

/-! ### Answers of the host -/

section host
variable {s : State} {func page host : Nat}

theorem atcInstall_empty {ms : MemSys} (h : ms.atc = []) (e : AtcEntry) : ms.atcInstall e = { ms with atc := [e] } := by
  simp [MemSys.atcInstall, h, atcOwn]

theorem exec_ats_granted (hw : (func, page) ∈ s.ms.atsWait) (ha : s.ms.atc = []) (write : Bool) :
    exec (.atsTranslationCompletion func page host true write) s = .next { s with ms := { s.ms with
      atsWait := s.ms.atsWait.filter (· != (func, page)), atc := [⟨func, page, host, write⟩] } } := by
  refine event_of_ok ?_
  simp only [X.bind_apply, X.get_apply, List.contains_iff_mem.mpr hw, whenever_true, if_true, X.set_apply]
  rw [atcInstall_empty (by exact ha)]

theorem exec_ats_denied (hw : (func, page) ∈ s.ms.atsWait) (hp : (func, page) ∉ s.ms.priWait) (write : Bool) :
    exec (.atsTranslationCompletion func page host false write) s = .next { s with ms := { s.ms with
      atsWait := s.ms.atsWait.filter (· != (func, page)), priWait := s.ms.priWait ++ [(func, page)] } } := by
  have hn : s.ms.priWait.contains (func, page) = false := by simpa using hp
  refine event_of_ok ?_
  simp only [X.bind_apply, X.get_apply, List.contains_iff_mem.mpr hw, whenever_true, Bool.false_eq_true, if_false, X.set_apply, hn]

theorem exec_pri_success (hp : (func, page) ∈ (s.ms.priWait.filter (·.1 == func)).take 512) :
    exec (.priResponse func page .success) s = .next { s with ms := { s.ms with
      priWait := s.ms.priWait.filter (· != (func, page)), atsWait := s.ms.atsWait ++ [(func, page)] } } := by
  have hsent : (s.ms.priSent func).contains (func, page) = true := List.contains_iff_mem.mpr hp
  refine event_of_ok ?_
  simp only [X.bind_apply, X.get_apply, hsent, whenever_true, X.set_apply]

theorem exec_pri_refused (hp : (func, page) ∈ (s.ms.priWait.filter (·.1 == func)).take 512) {a : PriAnswer} (ha : a ≠ .success) :
    exec (.priResponse func page a) s = .next { s with ms :=
      { s.ms with priWait := s.ms.priWait.filter (· != (func, page)) }.failSeekers fun a => a.2 == (func, page) } := by
  have hsent : (s.ms.priSent func).contains (func, page) = true := List.contains_iff_mem.mpr hp
  cases a with
  | success => exact absurd rfl ha
  | invalid | failure =>
    refine event_of_ok ?_
    simp only [X.bind_apply, X.get_apply, hsent, whenever_true, X.set_apply]

theorem exec_hostpageTimeout {pre post : List (Asker × Nat × Nat)} {who : Asker}
    (hs : s.ms.atsSeek = pre ++ (who, func, page) :: post) (hpre : ∀ a ∈ pre, a.2 ≠ (func, page)) :
    exec (.hostpageTimeout func page) s = .next { s with ms := s.ms.failSeekers (· == (who, func, page)) } := by
  have hfind : s.ms.atsSeek.find? (fun a => a.2 == (func, page)) = some (who, func, page) := by
    rw [hs, List.find?_append, List.find?_eq_none.mpr (by simpa using hpre), Option.none_or, List.find?_cons_of_pos (by simp)]
  refine event_of_ok ?_
  simp only [X.bind_apply, X.get_apply, hfind, X.set_apply]

end host

/-! ### Pinned reply words -/

/-- Some running copy holds a pin that a condition selects. -/
def pinHeld (s : State) (p : BitVec 6 → CopyOp → ReplyPin → Bool) : Prop :=
  ∃ c : CoreId, ∃ o ∈ (s.core c).eng.copies, ∃ r, o.phase = .running ∧ o.rep = some r ∧ p (s.core c).tk.tenant o r = true

theorem replyHeld_iff (s : State) (p : BitVec 6 → CopyOp → ReplyPin → Bool) : s.replyHeld p = true ↔ pinHeld s p := by
  simp only [State.replyHeld, pinHeld, List.any_eq_true, Bool.and_eq_true, beq_iff_eq, Option.any_eq_true]
  constructor
  · rintro ⟨c, -, o, ho, hphase, r, hr, hp⟩
    exact ⟨c, o, ho, r, hphase, hr, hp⟩
  · rintro ⟨c, o, ho, r, hphase, hr, hp⟩
    exact ⟨c, mem_allCores c, o, ho, hphase, r, hr, hp⟩

theorem replyHeld_false {s : State} {p : BitVec 6 → CopyOp → ReplyPin → Bool} (h : ¬pinHeld s p) : s.replyHeld p = false :=
  Bool.eq_false_iff.mpr fun ht => h ((replyHeld_iff s p).mp ht)

/-- Only the copies of a core change as pins are given up. -/
theorem unpinReplies_eq (k : Core) (p : CopyOp → ReplyPin → Bool) :
    k.unpinReplies p = { k with eng := { k.eng with copies := (k.unpinReplies p).eng.copies } } := by
  unfold Core.unpinReplies
  split <;> rfl

@[simp] theorem unpinReplies_cache (k : Core) (p : CopyOp → ReplyPin → Bool) : (k.unpinReplies p).cache = k.cache := by
  rw [unpinReplies_eq]

/-- No pin that the condition selects is left. -/
theorem unpinReplies_rep {k : Core} {p : CopyOp → ReplyPin → Bool} {o : CopyOp} {r : ReplyPin}
    (ho : o ∈ (k.unpinReplies p).eng.copies) (hr : o.rep = some r) : p o r = false := by
  unfold Core.unpinReplies at ho
  split at ho
  · obtain ⟨a, -, rfl⟩ := List.mem_map.mp ho
    split at hr
    · cases hr
    · rename_i hn
      rw [if_neg hn]
      simpa [hr] using hn
  · rename_i hn
    simp only [List.any_eq_true, Option.any_eq_true, not_exists, not_and, Bool.not_eq_true] at hn
    exact hn o ho r hr

@[simp] theorem unpinReplies_core (s : State) (p : BitVec 6 → CopyOp → ReplyPin → Bool) (c : CoreId) :
    (s.unpinReplies p).core c = (s.core c).unpinReplies (p (s.core c).tk.tenant) := by
  have hd : ∀ (t : State) (d : Dealer), ({ t with dealer := d } : State).core c = t.core c := fun _ _ => rfl
  rw [State.unpinReplies, hd, modAll_core]

@[simp] theorem unpinReplies_ms (s : State) (p : BitVec 6 → CopyOp → ReplyPin → Bool) : (s.unpinReplies p).ms = s.ms := by
  rw [State.unpinReplies, modAll_ms]

@[simp] theorem unpinReplies_mmio (s : State) (p : BitVec 6 → CopyOp → ReplyPin → Bool) : (s.unpinReplies p).mmio = s.mmio := by
  rw [State.unpinReplies, modAll_mmio]

/-- The pins of a function to host pages of a range (R38). -/
def throughPages (func page n : Nat) (t : BitVec 6) (_ : CopyOp) (r : ReplyPin) : Bool :=
  t.toNat + 1 == func && pteHost r.pte && (decide (page ≤ r.pa % 2 ^ 41 / 4096) && decide (r.pa % 2 ^ 41 / 4096 < page + n))

theorem throughPages_iff (func page n : Nat) (t : BitVec 6) (o : CopyOp) (r : ReplyPin) :
    throughPages func page n t o r = true ↔ t.toNat + 1 = func ∧ pteHost r.pte = true ∧ page ≤ r.pa % 2 ^ 41 / 4096 ∧
      r.pa % 2 ^ 41 / 4096 < page + n := by
  simp [throughPages, and_assoc]

/-- The ATC without a function's entries of a range of pages. -/
def withoutPages (ms : MemSys) (func page n : Nat) : MemSys :=
  { ms with atc := ms.atc.filter fun e => !(e.func == func && page ≤ e.page && e.page < page + n) }

theorem exec_invalidation_eq (s : State) (func page n : Nat) : exec (.atsInvalidationRequest func page n) s = event (do
    whenever (!(← get).replyHeld (throughPages func page n))
    modify fun s => { s with ms := withoutPages s.ms func page n }.unpinReplies (throughPages func page n)) s := by
  simp only [withoutPages, Bool.and_assoc]
  rfl

theorem exec_invalidation_held {s : State} {func page n : Nat} (h : pinHeld s (throughPages func page n)) :
    exec (.atsInvalidationRequest func page n) s = .next s := by
  rw [exec_invalidation_eq]
  refine event_halt (t := s) ?_
  simp only [X.bind_apply, X.get_apply, (replyHeld_iff _ _).mpr h, Bool.not_true, whenever_false]

theorem exec_invalidation {s : State} {func page n : Nat} (h : ¬pinHeld s (throughPages func page n)) :
    exec (.atsInvalidationRequest func page n) s =
      .next ({ s with ms := withoutPages s.ms func page n }.unpinReplies (throughPages func page n)) := by
  rw [exec_invalidation_eq]
  refine event_of_ok ?_
  simp only [X.bind_apply, X.get_apply, replyHeld_false h, Bool.not_false, whenever_true, X.modify_apply]

end Sys2Proof.Proofs
end

section
/-! The command register of shootdowns (O48). -/

namespace Sys2Proof.Proofs
open Sys2Proof.Machine Sys2Proof.Claim

/-! ### Shootdown registers -/

/-- TICMD with its command fields taken from a written value (R39). -/
def ticmdMerged (old v : Word) : Word := (old &&& ~~~0x1800_007F_0000_FFFF) ||| (v &&& 0x1800_007F_0000_FFFF)

/-- GO is none of the stored fields. -/
theorem ticmdMerged_go (old v : Word) : ticmdMerged old (v ||| 0x8000_0000_0000_0000) = ticmdMerged old v := by
  simp only [ticmdMerged, BitVec.and_or_distrib_right]
  simp

theorem ticmdMerged_busy (old v : Word) : (ticmdMerged old v).getLsbD 62 = old.getLsbD 62 := by
  simp [ticmdMerged]

/-- A stored field of one bit. -/
theorem ticmdMerged_getLsbD {i : Nat} (old v : Word) (hi : (0x1800_007F_0000_FFFF : Word).getLsbD i = true) :
    (ticmdMerged old v).getLsbD i = v.getLsbD i := by
  simp only [ticmdMerged, BitVec.getLsbD_or, BitVec.getLsbD_and, BitVec.getLsbD_not, hi, Bool.not_true, Bool.and_false,
    Bool.and_true, Bool.false_or]

/-- A stored field. -/
theorem ticmdMerged_extract {lo len : Nat} (old v : Word)
    (hf : (0x1800_007F_0000_FFFF : Word).extractLsb' lo len = BitVec.allOnes len) :
    (ticmdMerged old v).extractLsb' lo len = v.extractLsb' lo len := by
  ext i hi
  have hb : (0x1800_007F_0000_FFFF : Word).getLsbD (lo + i) = true := by
    rw [← BitVec.getElem_extractLsb' hi, hf, BitVec.getElem_allOnes]
  rw [BitVec.getElem_extractLsb', BitVec.getElem_extractLsb', ticmdMerged_getLsbD old v hb]

theorem ticmd_go_bits (v : Word) (h : v.getLsbD 61 = false) :
    (v ||| 0x8000_0000_0000_0000).getLsbD 61 = false ∧ (v ||| 0x8000_0000_0000_0000).getLsbD 63 = true := by
  rw [BitVec.getLsbD_or, BitVec.getLsbD_or, h]
  exact ⟨rfl, Bool.or_true _⟩

theorem exec_ticmdGo {s : State} {func : Nat} (hf : func ≤ 64) (v : Word) :
    exec (.ticmdGo func v) s = .next (s.writeTicmd func (v ||| 0x8000_0000_0000_0000)) := by
  refine event_of_ok ?_
  simp only [X.bind_apply, hf, decide_true, whenever_true, X.modify_apply]

/-- The command that a value of TICMD describes (R40). -/
def goCommand (s : State) (func : Nat) (v : Word) : Shoot :=
  { func := func, target := if func = 0 then bits v 32 7 else func, allAsid := v.getLsbD 60, incg := v.getLsbD 59
    asid := v.extractLsb' 0 16, vpn := bits (s.reg func 0x1_0000) 12 44, pages := bits (s.reg func 0x1_0008) 0 32 }

theorem goCommand_merged (s : State) (func : Nat) (old v : Word) : goCommand s func (ticmdMerged old v) = goCommand s func v := by
  simp only [goCommand, bits]
  rw [ticmdMerged_extract _ _ (by decide), ticmdMerged_extract _ _ (by decide), ticmdMerged_getLsbD _ _ (by decide),
    ticmdMerged_getLsbD _ _ (by decide)]

/-- GO: an error while a command is BUSY, else a command (R39, R40). -/
theorem writeTicmd_go (s : State) (func : Nat) {v : Word} (he : v.getLsbD 61 = false) :
    s.writeTicmd func (v ||| 0x8000_0000_0000_0000) =
      let w := ticmdMerged (s.reg func 0x1_0010) v
      if (s.reg func 0x1_0010).getLsbD 62 then s.setReg func 0x1_0010 (setBits w 61 1 1)
      else { s.setReg func 0x1_0010 (setBits w 62 1 1) with ms := { s.ms with shoots := s.ms.shoots ++ [goCommand s func v] } } := by
  obtain ⟨h61, h63⟩ := ticmd_go_bits v he
  dsimp only
  rw [← ticmdMerged_busy (s.reg func 0x1_0010) v, ← goCommand_merged s func (s.reg func 0x1_0010) v,
    ← ticmdMerged_go (s.reg func 0x1_0010) v]
  unfold State.writeTicmd
  simp only [h61, h63, Bool.false_eq_true, if_false, Bool.not_true]
  rfl

theorem exec_ticmdErrClear (s : State) (func : Nat) :
    exec (.ticmdErrClear func) s = .next (s.setReg func 0x1_0010 (setBits (s.reg func 0x1_0010) 61 1 0)) := event_of_ok rfl

end Sys2Proof.Proofs
end

section
/-! Translations dropped, and tenant windows (O48). -/

namespace Sys2Proof.Proofs
open Sys2Proof.Machine Sys2Proof.Claim

/-! ### Cached translations dropped -/

/-- Nothing under way: a release changes nothing. -/
theorem release_of_chains {s : State} (h : s.ms.chains = []) : s.release = s := by
  have hms : ({ s.ms with chains := [] } : MemSys) = s.ms := by rw [← h]
  simp only [State.release, MemSys.settleAll, h, List.foldl_nil, hms]

/-- A core without the entries of its L1 TLB that a condition selects. -/
def withoutEntries (t : TlbEntry → Bool) (k : Core) : Core :=
  { k with cache := { k.cache with tlb := k.cache.tlb.filter fun e => !t e } }

theorem withoutEntries_eq (t : TlbEntry → Bool) (k : Core) :
    (if k.cache.tlb.any t then withoutEntries t k else k) = withoutEntries t k := by
  split
  · rfl
  · rename_i h
    have hnone : ∀ e ∈ k.cache.tlb, (!t e) = true := by simpa using h
    have hcache : ({ k.cache with tlb := k.cache.tlb } : CoreCache) = k.cache := rfl
    rw [withoutEntries, List.filter_eq_self.mpr hnone, hcache]

section drop
variable (s : State) (t : TlbEntry → Bool) (w : WalkEntry → Bool)

@[simp] theorem dropTranslations_core (c : CoreId) : (s.dropTranslations t w).core c =
    (withoutEntries t (s.core c)).unpinReplies fun o r => t (r.entry (s.core c).tk.tenant o) := by
  have hms : ∀ (u : State) (m : MemSys), ({ u with ms := m } : State).core c = u.core c := fun _ _ => rfl
  rw [State.dropTranslations, unpinReplies_core, hms, modAll_core]
  have he := withoutEntries_eq t (s.core c)
  unfold withoutEntries at he ⊢
  rw [he]

@[simp] theorem dropTranslations_ms : (s.dropTranslations t w).ms =
    { s.ms with l2tlb := s.ms.l2tlb.filter fun e => !t e.2, pwc := s.ms.pwc.filter fun e => !w e } := by
  rw [State.dropTranslations, unpinReplies_ms, modAll_ms]

@[simp] theorem dropTranslations_mmio : (s.dropTranslations t w).mmio = s.mmio := by
  rw [State.dropTranslations, unpinReplies_mmio, modAll_mmio]

theorem mem_dropTranslations_tlb (c : CoreId) (e : TlbEntry) :
    e ∈ ((s.dropTranslations t w).core c).cache.tlb ↔ e ∈ (s.core c).cache.tlb ∧ t e = false := by
  simp [withoutEntries]

end drop

/-! ### Tenant windows -/

theorem writeGroup_twin (s : State) {t w : Nat} (ht : t < 64) (hw : w < 16) (v : Word) :
    s.writeGroup 0 (0x2_0000 + 0x100 * t + 8 * w) v = s.configure (t + 1) fun s => s.writeTwin t w v := by
  have hrow : (0x2_0000 + 0x100 * t + 8 * w) % 0x100 = 8 * w := by omega
  have htenant : (0x2_0000 + 0x100 * t + 8 * w - 0x2_0000) / 0x100 = t := by omega
  have hentry : 8 * w / 8 = w := by omega
  unfold State.writeGroup
  simp only [tiva, tilen, ticmd, ticpl, hrow, htenant, hentry]
  rw [if_neg (by omega), if_neg (by omega), if_neg (by omega), if_neg (by omega), if_neg (by omega), if_neg (by omega),
    if_pos (by omega), if_pos (by simp; omega)]

theorem exec_twinWrite {s : State} {u : BitVec 6} (w : BitVec 4) (v : Word) (hl : s.locked (u.toNat + 1) = false) :
    exec (.twinWrite u w v) s = .next (s.writeTwin u.toNat w.toNat v) := by
  have hu := u.isLt
  have hw := w.isLt
  have hoff : (decide (64 < 0) || decide (2 ^ 24 ≤ 0x2_0000 + 0x100 * u.toNat + 8 * w.toNat) ||
      (0x2_0000 + 0x100 * u.toNat + 8 * w.toNat) % 8 != 0) = false := by
    simp only [Bool.or_eq_false_iff, decide_eq_false_iff_not, bne_eq_false_iff_eq]
    omega
  have hexec : exec (.twinWrite u w v) s = event (modify fun s => s.writeReg 0 (0x2_0000 + 0x100 * u.toNat + 8 * w.toNat) v) s := rfl
  rw [hexec, event_of_ok (X.modify_apply _ _), State.writeReg, hoff, if_neg (by simp), if_neg (by omega), writeGroup_twin s hu hw, State.configure, hl,
    if_neg (by simp)]

theorem writeTwin_eq {s : State} (h : s.ms.chains = []) (t w : Nat) (v : Word) : s.writeTwin t w v =
    (s.setReg 0 (0x2_0000 + 0x100 * t + 8 * w) (v &&& 0x8FFF_FFFF_FFFF_FFFF)).dropTranslations (fun e => e.tenant.toNat == t)
      (fun e => e.tenant.toNat == t) := by
  rw [State.writeTwin, release_of_chains h]

theorem tenant_beq_false (a u : BitVec 6) : (a.toNat == u.toNat) = false ↔ a ≠ u := by
  rw [beq_eq_false_iff_ne, ne_eq, BitVec.toNat_inj]

/-- R22, R24: a window's write, and the translations that go with it. -/
theorem twinWrite_leaves {s : State} {u : BitVec 6} (w : BitVec 4) (v : Word) (hl : s.locked (u.toNat + 1) = false)
    (hc : s.ms.chains = []) : ∃ z, exec (.twinWrite u w v) s = .next z ∧
      z.twin u.toNat w.toNat = v &&& 0x8FFF_FFFF_FFFF_FFFF ∧ z.ms.mem = s.ms.mem ∧
      (∀ c e, e ∈ (z.core c).cache.tlb ↔ e ∈ (s.core c).cache.tlb ∧ e.tenant ≠ u) ∧
      ∀ e, e ∈ z.ms.pwc ↔ e ∈ s.ms.pwc ∧ e.tenant ≠ u := by
  refine ⟨_, exec_twinWrite w v hl, ?_, ?_, fun c e => ?_, fun e => ?_⟩ <;> rw [writeTwin_eq hc]
  · rw [State.twin, reg_congr (dropTranslations_mmio _ _ _), reg_setReg_same]
  · rw [dropTranslations_ms, setReg_ms]
  · rw [mem_dropTranslations_tlb, setReg_core, tenant_beq_false]
  · rw [dropTranslations_ms]
    simp [BitVec.toNat_inj]

end Sys2Proof.Proofs
end

section
/-! Memory at rest, and writes at its ports. -/

namespace Sys2Proof.Proofs
open Sys2Proof.Machine Sys2Proof.Claim

/-! ### Memory at rest -/

theorem settle_of_chains {ms : MemSys} (h : ms.chains = []) (a n : Nat) : ms.settle a n = ms := by
  have hms : ({ ms with chains := [] } : MemSys) = ms := by rw [← h]
  simp only [MemSys.settle, h, List.filter_nil, List.foldl_nil, hms]

/-- No home line of addresses touches the n bytes at a. -/
def noLine (ms : MemSys) (a n : Nat) : Prop :=
  ∀ h ∈ ms.homes, ∀ t l, h.key = .addr t l → l < lineOf a ∨ lineOf (a + n - 1) < l

/-- With no line of them at a home and nothing under way, a recall of bytes changes nothing (R126). -/
theorem recall_atRest {ms : MemSys} {a n : Nat} (hc : ms.chains = []) (hl : noLine ms a n) : ms.recall a n = ms := by
  unfold MemSys.recall
  dsimp only
  rw [(List.filter_eq_nil_iff (l := ms.homes)).mpr]
  · rw [List.foldl_nil, settle_of_chains hc]
  · intro h hh
    cases hk : h.key with
    | addr t l =>
      have := hl h hh t l hk
      simp only [Bool.and_eq_true, decide_eq_true_eq]
      omega
    | tensor => simp

theorem homeAt_none {ms : MemSys} {a n : Nat} (hl : noLine ms a n) (hn : 0 < n) (t : Option (BitVec 6)) : ms.homeAt a t = none := by
  have hle : lineOf a ≤ lineOf (a + n - 1) := Nat.div_le_div_right (by omega)
  unfold MemSys.homeAt
  rw [List.find?_eq_none]
  intro h hh
  cases hk : h.key with
  | addr u l =>
    have := hl h hh u l hk
    simp only [Bool.and_eq_true, beq_iff_eq]
    omega
  | tensor => simp

/-! ### A write at a port -/

section port
variable (ms : MemSys) (a n v : Nat)

theorem snoopOut_eq : ms.snoopOut a n = { ms with hdm := (ms.snoopOut a n).hdm, bisnp := (ms.snoopOut a n).bisnp } := by
  unfold MemSys.snoopOut
  dsimp only
  split <;> rfl

variable {ms a} in
/-- A write at a port of device memory, with nothing under way there. -/
theorem portWrite_device (hc : ms.chains = []) (ha : a < 2 ^ 42) :
    ms.portWrite a n v =
      ({ (ms.cleanse a n).fire a n with mem := ms.mem.write a n v } : MemSys).snoopOut a n := by
  have hh : ¬hostBase ≤ a := by unfold hostBase; omega
  rw [MemSys.portWrite, settle_of_chains hc, MemSys.wr, if_neg hh, if_pos ha, fullMask, Mem.writeMasked_full]
  rfl

variable {ms a} in
theorem portWrite_mem (hc : ms.chains = []) (ha : a < 2 ^ 42) : (ms.portWrite a n v).mem = ms.mem.write a n v := by
  rw [portWrite_device n v hc ha, snoopOut_eq]

variable {ms a} in
theorem portWrite_l2tlb (hc : ms.chains = []) (ha : a < 2 ^ 42) : (ms.portWrite a n v).l2tlb = ms.l2tlb := by
  rw [portWrite_device n v hc ha, snoopOut_eq]
  rfl

variable {ms a} in
theorem portWrite_shoots (hc : ms.chains = []) (ha : a < 2 ^ 42) : (ms.portWrite a n v).shoots = ms.shoots := by
  rw [portWrite_device n v hc ha, snoopOut_eq]
  rfl

end port

/-- A store of hardware to memory at rest is a write at its port (R166). -/
theorem homeStore_atRest {s : State} {a n : Nat} (v : Nat) (hc : s.ms.chains = []) (hl : noLine s.ms a n) (hn : 0 < n) :
    s.homeStore a n v = { s with ms := s.ms.portWrite a n v } := by
  simp only [State.homeStore, Machine.homeStore, X.bind_apply, X.get_apply, homeAt_none hl hn, X.modify_apply, recall_atRest hc hl]

/-! ### Windows -/

/-- Windows and the local form of an address come from registers of the physical function. -/
theorem localize_congr {s t : State} (h : ∀ o, 0x2_0000 ≤ o → o < 2 ^ 24 → t.reg 0 o = s.reg 0 o) (pa : Nat) :
    t.localize pa = s.localize pa := by
  unfold State.localize State.node
  rw [h 0xA_0000 (by omega) (by omega)]

theorem inWindow_congr {s t : State} (h : ∀ o, 0x2_0000 ≤ o → o < 2 ^ 24 → t.reg 0 o = s.reg 0 o) (u : BitVec 6) (pa : Nat) :
    t.inWindow u pa = s.inWindow u pa := by
  have hu := u.isLt
  have htwin : ((List.range 16).any fun w => twinMatch (t.twin u.toNat w) pa (s.localize pa)) =
      (List.range 16).any fun w => twinMatch (s.twin u.toNat w) pa (s.localize pa) := by
    rw [Bool.eq_iff_iff]
    simp only [List.any_eq_true, List.mem_range]
    refine exists_congr fun w => and_congr_right fun hw => ?_
    rw [State.twin, State.twin, h _ (by omega) (by omega)]
  unfold State.inWindow
  rw [localize_congr h, htwin]

theorem inWindows_congr {s t : State} (h : ∀ o, 0x2_0000 ≤ o → o < 2 ^ 24 → t.reg 0 o = s.reg 0 o) (u : BitVec 6) (pa n : Nat) :
    t.inWindows u pa n = s.inWindows u pa n := by
  unfold State.inWindows
  rw [inWindow_congr h, inWindow_congr h]

end Sys2Proof.Proofs
end

section
/-! The end of a shootdown (O48). -/

namespace Sys2Proof.Proofs
open Sys2Proof.Machine Sys2Proof.Claim

/-! ### Completion words of hardware -/

theorem completionStore_outside {s : State} {func pa v : Nat} (h0 : func ≠ 0)
    (hw : s.inWindows (BitVec.ofNat 6 (func - 1)) pa 8 = false) : completionStore func pa v s = .ok false s := by
  simp [completionStore, h0, hw]

theorem completionStore_device {s : State} {func pa v : Nat} (h64 : func ≤ 64)
    (hw : s.inWindows (BitVec.ofNat 6 (func - 1)) pa 8 = true) (hd : inDevice (s.localize pa) = true)
    (hr : atRest s (s.localize pa) 8 none) :
    completionStore func pa v s = .ok true { s with ms := s.ms.portWrite (s.localize pa) 8 v } := by
  obtain ⟨hchains, hhdm, hhomes⟩ := hr
  have hline : noLine s.ms (s.localize pa) 8 := by
    intro h hh t l hk
    by_contra hn
    push Not at hn
    cases hhomes h hh t l hk hn.1 hn.2
  have hfree : s.ms.hdm.find? (fun l => lineOf (s.localize pa) ≤ l && l ≤ lineOf (s.localize pa + 8 - 1)) = none := by
    rw [List.find?_eq_none]
    intro l hl
    have := hhdm l hl
    simp only [Bool.and_eq_true, decide_eq_true_eq]
    omega
  have hcheck : bisnpCheck (s.localize pa) 8 s = .ok () s := by
    simp only [bisnpCheck, X.bind_apply, X.get_apply, hfree, X.pure_apply]
  have hmine : (decide (64 < func) || !(func == 0 || s.inWindows (BitVec.ofNat 6 (func - 1)) pa 8)) = false := by
    simp [hw, h64]
  simp only [completionStore, X.bind_apply, X.get_apply, X.ite_apply, hmine, hd, Bool.false_eq_true, if_false, if_true, hcheck,
    X.modify_apply, X.pure_apply, release_of_chains hchains, homeStore_atRest v hchains hline (by omega)]

/-! ### The end of a shootdown -/

/-- The translations that a shootdown drops, and the command gone (R40, R41). -/
def dropped (s : State) (d : Shoot) : State :=
  { s.dropTranslations d.covers d.coversWalk with ms := { (s.dropTranslations d.covers d.coversWalk).ms with shoots := [] } }

/-- SEQ once more, as a command ends (R40). -/
def seqNext (w : Word) : Nat := (bits w 0 32 + 1) % 2 ^ 32

/-- A shootdown's translations dropped, and SEQ counted. -/
def shotDown (s : State) (d : Shoot) : State := (dropped s d).setReg d.func 0x1_0020 (toWord (seqNext (s.reg d.func 0x1_0020)))

/-- TICMD at the end of a command: BUSY clear, ERR set where the completion word could not be stored (R40). -/
def ticmdEnded (w : Word) (ok : Bool) : Word := if ok then setBits w 62 1 0 else setBits (setBits w 62 1 0) 61 1 1

section shoot
variable {s : State} {d : Shoot}

theorem withMs_core (s : State) (m : MemSys) (c : CoreId) : ({ s with ms := m } : State).core c = s.core c := rfl
theorem withMs_reg (s : State) (m : MemSys) (f o : Nat) : ({ s with ms := m } : State).reg f o = s.reg f o := rfl

theorem dropped_core (c : CoreId) : (dropped s d).core c = (s.dropTranslations d.covers d.coversWalk).core c := by
  rw [dropped, withMs_core]

theorem dropped_reg (f o : Nat) : (dropped s d).reg f o = s.reg f o := by
  rw [dropped, withMs_reg, reg_congr (dropTranslations_mmio _ _ _)]

theorem dropped_ms : (dropped s d).ms = { s.ms with
    l2tlb := s.ms.l2tlb.filter fun e => !d.covers e.2, pwc := s.ms.pwc.filter fun e => !d.coversWalk e, shoots := [] } := by
  rw [dropped, dropTranslations_ms]

theorem shotDown_core (c : CoreId) : (shotDown s d).core c = (s.dropTranslations d.covers d.coversWalk).core c := by
  rw [shotDown, setReg_core, dropped_core]

theorem shotDown_ms : (shotDown s d).ms = { s.ms with
    l2tlb := s.ms.l2tlb.filter fun e => !d.covers e.2, pwc := s.ms.pwc.filter fun e => !d.coversWalk e, shoots := [] } := by
  rw [shotDown, setReg_ms, dropped_ms]

theorem shotDown_reg_seq : (shotDown s d).reg d.func 0x1_0020 = toWord (seqNext (s.reg d.func 0x1_0020)) := by
  rw [shotDown, reg_setReg_same]

theorem shotDown_reg_block {o : Nat} (h : o ≠ 0x1_0020) : (shotDown s d).reg d.func o = s.reg d.func o := by
  rw [shotDown, reg_setReg_block _ _ h, dropped_reg]

theorem shotDown_windows {o : Nat} (h : 0x2_0000 ≤ o) (h' : o < 2 ^ 24) : (shotDown s d).reg 0 o = s.reg 0 o := by
  rw [shotDown, reg_setReg_other _ _ (by omega), dropped_reg]

theorem exec_shootdown_held (hs : s.ms.shoots = [d]) (hp : pinHeld s fun t o r => d.covers (r.entry t o)) :
    exec (.shootdownComplete d.func) s = .next s := by
  have hexec : exec (.shootdownComplete d.func) s = execShootdownComplete d.func s := rfl
  rw [hexec, execShootdownComplete]
  refine event_halt (t := s) ?_
  simp only [X.bind_apply, X.get_apply, hs, List.find?_cons, beq_self_eq_true, (replyHeld_iff _ _).mpr hp, Bool.not_true, whenever_false]

theorem exec_shootdown {u : State} {ok : Bool} (hs : s.ms.shoots = [d]) (hc : s.ms.chains = [])
    (hp : ¬pinHeld s fun t o r => d.covers (r.entry t o))
    (hstore : completionStore d.target (bits (s.reg d.func 0x1_0018) 3 49 * 8) (seqNext (s.reg d.func 0x1_0020)) (shotDown s d) =
      .ok ok u) :
    exec (.shootdownComplete d.func) s = .next (u.setReg d.func 0x1_0010 (ticmdEnded (u.reg d.func 0x1_0010) ok)) := by
  have hexec : exec (.shootdownComplete d.func) s = execShootdownComplete d.func s := rfl
  have hreg : ∀ o, (s.dropTranslations d.covers d.coversWalk).reg d.func o = s.reg d.func o :=
    reg_congr (dropTranslations_mmio _ _ _) _
  have hleft : (s.dropTranslations d.covers d.coversWalk).ms.shoots.filter (·.func != d.func) = [] := by
    simp only [dropTranslations_ms, hs, List.filter_cons, bne_self_eq_false, Bool.false_eq_true, if_false, List.filter_nil]
  have hseq : { s.dropTranslations d.covers d.coversWalk with ms := { (s.dropTranslations d.covers d.coversWalk).ms with
      shoots := (s.dropTranslations d.covers d.coversWalk).ms.shoots.filter (·.func != d.func) } }.setReg d.func 0x1_0020
      (toWord (seqNext (s.reg d.func 0x1_0020))) = shotDown s d := by
    rw [hleft, shotDown, dropped]
  rw [seqNext] at hseq hstore
  rw [hexec, execShootdownComplete]
  refine event_of_ok ?_
  simp only [X.bind_apply, X.get_apply, hs, List.find?_cons, beq_self_eq_true, replyHeld_false hp, Bool.not_false, whenever_true,
    release_of_chains hc, tiseq, ticpl, ticmd, hreg, X.set_apply, hseq, hstore, X.modify_apply]
  rfl

/-- What every shootdown that ends leaves, wherever its completion word goes. -/
structure ShotDown (s u : State) (d : Shoot) (ok : Bool) : Prop where
  shoots : u.ms.shoots = []
  seq : u.reg d.func 0x1_0020 = toWord (seqNext (s.reg d.func 0x1_0020))
  command : u.reg d.func 0x1_0010 = ticmdEnded (s.reg d.func 0x1_0010) ok
  cores : ∀ c, u.core c = (s.dropTranslations d.covers d.coversWalk).core c
  l2tlb : u.ms.l2tlb = s.ms.l2tlb.filter fun e => !d.covers e.2

theorem shotDown_command {u : State} (ok : Bool) (hreg : ∀ f o, u.reg f o = (shotDown s d).reg f o)
    (hcore : ∀ c, u.core c = (shotDown s d).core c) (hms : u.ms.shoots = []) (hl : u.ms.l2tlb = s.ms.l2tlb.filter fun e => !d.covers e.2) :
    ShotDown s (u.setReg d.func 0x1_0010 (ticmdEnded (u.reg d.func 0x1_0010) ok)) d ok where
  shoots := by rw [setReg_ms, hms]
  seq := by
    rw [reg_setReg_block _ _ (by decide), hreg, shotDown_reg_seq]
  command := by
    rw [reg_setReg_same, hreg, shotDown_reg_block (by decide)]
  cores := fun c => by rw [setReg_core, hcore, shotDown_core]
  l2tlb := by rw [setReg_ms, hl]

theorem shootdown_outside (hs : s.ms.shoots = [d]) (h0 : d.target ≠ 0) (hc : s.ms.chains = [])
    (hp : ¬pinHeld s fun t o r => d.covers (r.entry t o))
    (hw : s.inWindows (BitVec.ofNat 6 (d.target - 1)) (bits (s.reg d.func 0x1_0018) 3 49 * 8) 8 = false) :
    ∃ u, exec (.shootdownComplete d.func) s = .next u ∧ ShotDown s u d false ∧ u.ms.mem = s.ms.mem := by
  have hw' := (inWindows_congr (fun o => shotDown_windows (s := s) (d := d)) _ _ _).trans hw
  have hms := shotDown_ms (s := s) (d := d)
  have hleft := shotDown_command (u := shotDown s d) false (fun _ _ => rfl) (fun _ => rfl) (by rw [hms]) (by rw [hms])
  have hmem : (shotDown s d).ms.mem = s.ms.mem := by rw [hms]
  exact ⟨_, exec_shootdown hs hc hp (completionStore_outside h0 hw'), hleft, hmem⟩

theorem shootdown_device {place : Nat} (hs : s.ms.shoots = [d]) (h64 : d.target ≤ 64)
    (hp : ¬pinHeld s fun t o r => d.covers (r.entry t o))
    (hw : s.inWindows (BitVec.ofNat 6 (d.target - 1)) (bits (s.reg d.func 0x1_0018) 3 49 * 8) 8 = true)
    (hplace : s.localize (bits (s.reg d.func 0x1_0018) 3 49 * 8) = place) (hd : inDevice place = true) (hr : atRest s place 8 none) :
    ∃ u, exec (.shootdownComplete d.func) s = .next u ∧ ShotDown s u d true ∧
      u.ms.mem.read place 8 = seqNext (s.reg d.func 0x1_0020) := by
  have hw' := (inWindows_congr (fun o => shotDown_windows (s := s) (d := d)) _ _ _).trans hw
  have hlocal := (localize_congr (fun o => shotDown_windows (s := s) (d := d)) _).trans hplace
  have hms := shotDown_ms (s := s) (d := d)
  have hr' : atRest (shotDown s d) place 8 none := by
    rw [atRest, hms]
    exact hr
  have hchains : (shotDown s d).ms.chains = [] := hr'.1
  have hsmall : place < 2 ^ 42 := by
    have := of_decide_eq_true hd
    unfold deviceEnd at this
    omega
  have hstore := completionStore_device (v := seqNext (s.reg d.func 0x1_0020)) h64 hw' (by rw [hlocal]; exact hd) (by rw [hlocal]; exact hr')
  rw [hlocal] at hstore
  refine ⟨_, exec_shootdown hs hr.1 hp hstore, shotDown_command true (withMs_reg _ _) (withMs_core _ _) ?_ ?_, ?_⟩
  · rw [portWrite_shoots _ _ hchains hsmall, hms]
  · rw [portWrite_l2tlb _ _ hchains hsmall, hms]
  · rw [setReg_ms, portWrite_mem _ _ hchains hsmall, Mem.write_read]
    rw [seqNext]
    omega

end shoot

/-! ### Bits of TICMD -/

theorem ticmdEnded_busy (w : Word) (ok : Bool) : (ticmdEnded w ok).getLsbD 62 = false := by
  cases ok <;> simp [ticmdEnded, setBits]

theorem ticmdEnded_err (w : Word) : (ticmdEnded w false).getLsbD 61 = true := by
  simp [ticmdEnded, setBits]

theorem ticmdEnded_keeps (w : Word) : (ticmdEnded w true).getLsbD 61 = w.getLsbD 61 := by
  simp [ticmdEnded, setBits]

end Sys2Proof.Proofs
end

section
/-! Doorbells, and the events of translation together (O48). -/

namespace Sys2Proof.Proofs
open Sys2Proof.Machine Sys2Proof.Claim

/-! ### Doorbells -/

/-- An interrupt is no write to a register. -/
theorem raise_reg (s : State) (f v f' o : Nat) : (s.raise f v).reg f' o = s.reg f' o := by
  refine reg_congr ?_ f' o
  unfold State.raise
  split <;> rfl

theorem raise_cores (s : State) (f v : Nat) : (s.raise f v).cores = s.cores := by
  unfold State.raise
  split <;> rfl

/-- The error log writes no register of a queue. -/
theorem logIn_reg (s : State) (f cls sev core unit : Nat) (addr detail : Word) {f' o : Nat} (h : 0x10_0000 ≤ o) (h' : o < 2 ^ 24) :
    (s.logIn f cls sev core unit addr detail).reg f' o = s.reg f' o := by
  have hset : ∀ (u : State) (p : Nat) (w : Word), p < 0x10_0000 → (u.setReg f p w).reg f' o = u.reg f' o :=
    fun u p w hp => reg_setReg_other u w (by omega)
  have hstore : ∀ (a v t : Nat), ({ s.homeStore a 32 v with tick := t } : State).reg f' o = s.reg f' o := fun _ _ _ => rfl
  unfold State.logIn
  dsimp only
  split
  · rfl
  split
  · exact hset _ _ _ (by decide)
  split
  · rw [raise_reg, hset _ _ _ (by decide), hstore]
  · rw [hset _ _ _ (by decide), hstore]

theorem elog_reg (s : State) (f cls sev core unit : Nat) (addr detail : Word) {f' o : Nat} (h : 0x10_0000 ≤ o) (h' : o < 2 ^ 24) :
    (s.elog f cls sev core unit addr detail).reg f' o = s.reg f' o := by
  unfold State.elog
  dsimp only
  rw [logIn_reg _ _ _ _ _ _ _ _ h h']
  split
  · rfl
  · rw [logIn_reg _ _ _ _ _ _ _ _ h h']

section doorbell
variable {s : State} {func : Nat}

/-- A doorbell of a queue that the function has. -/
theorem exec_doorbell (h1 : 1 ≤ func) (h64 : func ≤ 64) (hq : s.queues (func - 1) ≠ 0) (v : Word) :
    exec (.wqtailDoorbell func 0 v) s = .next (s.writeWqtail func 0 v) := by
  have hexec : exec (.wqtailDoorbell func 0 v) s = event (modify fun s => s.writeReg func 0x10_0010 v) s := rfl
  have hqueue : s.hasQueue func 0 = true := by
    simp [State.hasQueue, h1, h64, Nat.pos_of_ne_zero hq]
  have hoff : (decide (64 < func) || decide (2 ^ 24 ≤ 0x10_0010) || 0x10_0010 % 8 != 0) = false := by
    simp [h64]
  rw [hexec, event_of_ok (X.modify_apply _ _), State.writeReg, hoff, if_neg (by decide), if_pos (by decide), if_pos hqueue]
  rfl

/-- A doorbell stores TAIL (R380); one that overruns the queue sets ERR, clears EN and is logged. -/
theorem writeWqtail_eq (hr : s.inReset (BitVec.ofNat 6 (func - 1)) = false) (v : Word) :
    s.writeWqtail func 0 v =
      let b := s.reg func 0x10_0000
      let h := s.reg func 0x10_0018
      let t := s.setReg func 0x10_0010 (v &&& 0xFFFF_FFFF)
      if b.getLsbD 63 && 2 ^ bits b 0 5 < (bits v 0 32 + 2 ^ 32 - bits h 0 32) % 2 ^ 32 then
        ((((t.setReg func 0x10_0018 (setBits h 63 1 1)).setReg func 0x10_0000 (setBits b 63 1 0)).elog func 8 1 0xFF 0 0 0).raise func 0)
      else t := by
  have hb := reg_setReg_block (f := func) s (v &&& 0xFFFF_FFFF) (show 0x10_0000 ≠ 0x10_0010 by decide)
  have hh := reg_setReg_block (f := func) s (v &&& 0xFFFF_FFFF) (show 0x10_0018 ≠ 0x10_0010 by decide)
  simp only [State.writeWqtail, hr, Bool.and_false, Bool.false_eq_true, if_false, wqOff, Nat.reduceMul, Nat.reduceAdd, hb, hh]

/-- A doorbell that overruns its queue disables it. -/
theorem doorbell_overrun (hr : s.inReset (BitVec.ofNat 6 (func - 1)) = false) {v : Word}
    (hen : (s.reg func 0x10_0000).getLsbD 63 = true)
    (hover : 2 ^ bits (s.reg func 0x10_0000) 0 5 < (bits v 0 32 + 2 ^ 32 - bits (s.reg func 0x10_0018) 0 32) % 2 ^ 32) :
    (s.writeWqtail func 0 v).reg func 0x10_0018 = setBits (s.reg func 0x10_0018) 63 1 1 ∧
      (s.writeWqtail func 0 v).reg func 0x10_0000 = setBits (s.reg func 0x10_0000) 63 1 0 ∧
      (s.writeWqtail func 0 v).cores = s.cores := by
  rw [writeWqtail_eq hr]
  dsimp only
  rw [hen, Bool.true_and, if_pos (decide_eq_true hover)]
  refine ⟨?_, ?_, ?_⟩
  · rw [raise_reg, elog_reg _ _ _ _ _ _ _ _ (by decide) (by decide), reg_setReg_block _ _ (by decide), reg_setReg_same]
  · rw [raise_reg, elog_reg _ _ _ _ _ _ _ _ (by decide) (by decide), reg_setReg_same]
  · rw [raise_cores, State.elog_cores, setReg_cores, setReg_cores, setReg_cores]

end doorbell

/-! ### The obligation -/

/-- A GO while a command is BUSY, and one while none is (R39, R40). -/
theorem ticmdGo_leaves {s : State} {func : Nat} (hf : func ≤ 64) {v : Word} (he : v.getLsbD 61 = false) :
    let w := ticmdMerged (s.reg func 0x1_0010) v
    ((s.reg func 0x1_0010).getLsbD 62 = true →
      exec (.ticmdGo func v) s = .next (s.setReg func 0x1_0010 (setBits w 61 1 1))) ∧
    ((s.reg func 0x1_0010).getLsbD 62 = false → ∃ u, exec (.ticmdGo func v) s = .next u ∧
      u.reg func 0x1_0010 = setBits w 62 1 1 ∧ u.cores = s.cores ∧
      u.ms = { s.ms with shoots := s.ms.shoots ++ [goCommand s func v] }) := by
  dsimp only
  rw [exec_ticmdGo hf, writeTicmd_go s func he]
  dsimp only
  refine ⟨fun hb => by rw [if_pos hb], fun hb => ⟨_, by rw [if_neg (by rw [hb]; decide)], ?_, ?_, rfl⟩⟩
  · rw [withMs_reg, reg_setReg_same]
  · rfl

/-- The pins that a completed shootdown leaves are none of those it covers. -/
theorem ShotDown.pins {s u : State} {d : Shoot} {ok : Bool} (h : ShotDown s u d ok) {c : CoreId} {o : CopyOp} {r : ReplyPin}
    (ho : o ∈ (u.core c).eng.copies) (hr : o.rep = some r) : ¬d.covers (r.entry (s.core c).tk.tenant o) = true := by
  rw [h.cores, dropTranslations_core] at ho
  rw [unpinReplies_rep ho hr]
  decide

theorem ShotDown.tlb {s u : State} {d : Shoot} {ok : Bool} (h : ShotDown s u d ok) (c : CoreId) (e : TlbEntry) :
    e ∈ (u.core c).cache.tlb ↔ e ∈ (s.core c).cache.tlb ∧ d.covers e = false := by
  rw [h.cores, mem_dropTranslations_tlb]

theorem ShotDown.mem_l2tlb {s u : State} {d : Shoot} {ok : Bool} (h : ShotDown s u d ok) (e) :
    e ∈ u.ms.l2tlb ↔ e ∈ s.ms.l2tlb ∧ d.covers e.2 = false := by
  simp [h.l2tlb]

/-- Settles O48, event by event: a command of ATS, of a page request or of a register is one change of the state; a walk keeps the
cores but for what the set entry leaves in the caches; a shootdown drops what it covers before its completion word goes out. -/
theorem translationEvents : Obligations.TranslationEvents := by
  unfold Obligations.TranslationEvents
  intro s func page host
  dsimp only
  refine ⟨?walk, ?granted, ?denied, ?page, ?timeout, ?invalidation, ?go, exec_ticmdErrClear s func, ?shootdown, ?window, ?doorbell⟩
  case walk =>
    intro c va h u ht hr
    obtain ⟨hcached, hcore⟩ := resolveGlobal_walked rfl hr
    have hpc := congrArg Core.pc hcore
    have hx := congrArg Core.x hcore
    exact ⟨exec_pageWalk ht hr, hcached, hpc, hx⟩
  case granted => exact fun hw ha write => exec_ats_granted hw ha write
  case denied => exact fun hw hp write => exec_ats_denied hw hp write
  case page => exact fun hp => ⟨exec_pri_success hp, fun a ha => exec_pri_refused hp ha⟩
  case timeout => exact fun pre who post hs hpre => exec_hostpageTimeout hs hpre
  case invalidation =>
    intro n
    have hiff : (∃ c : CoreId, ∃ o ∈ (s.core c).eng.copies, ∃ r, o.phase = .running ∧ o.rep = some r ∧
        (s.core c).tk.tenant.toNat + 1 = func ∧ pteHost r.pte = true ∧ page ≤ r.pa % 2 ^ 41 / 4096 ∧
          r.pa % 2 ^ 41 / 4096 < page + n) ↔ pinHeld s (throughPages func page n) := by
      simp only [pinHeld, throughPages_iff]
    rw [hiff]
    refine ⟨exec_invalidation_held, fun h => ⟨_, exec_invalidation h, ?_, fun c => ⟨?_, fun o ho r hr => ?_⟩⟩⟩
    · rw [unpinReplies_ms, withoutPages]
    · rw [unpinReplies_core, withMs_core]
      exact unpinReplies_eq _ _
    · rw [unpinReplies_core, withMs_core] at ho
      rw [← throughPages_iff func page n _ o, unpinReplies_rep ho hr]
      decide
  case go =>
    intro v hf
    exact ⟨fun hb he => (ticmdGo_leaves hf he).1 hb, fun hb he => (ticmdGo_leaves hf he).2 hb⟩
  case shootdown =>
    rintro d hs rfl h0 h64 hc
    refine ⟨exec_shootdown_held hs, fun hfree => ?_⟩
    have hp : ¬pinHeld s fun t o r => d.covers (r.entry t o) := fun ⟨c, o, ho, r, hrun, hr, hcov⟩ => hfree c o ho r hrun hr hcov
    refine ⟨fun hw => ?_, fun ⟨hw, hd, hr⟩ => ?_⟩
    · obtain ⟨u, hexec, hleft, hmem⟩ := shootdown_outside hs h0 hc hp hw
      refine ⟨u, hexec, hleft.shoots, hleft.seq, ?_, fun _ => ⟨?_, hmem⟩, nofun, hleft.tlb, fun _ _ _ ho hr => hleft.pins ho hr,
        hleft.mem_l2tlb⟩ <;> rw [hleft.command]
      · exact ticmdEnded_busy _ _
      · exact ticmdEnded_err _
    · obtain ⟨u, hexec, hleft, hmem⟩ := shootdown_device hs h64 hp hw rfl hd hr
      refine ⟨u, hexec, hleft.shoots, hleft.seq, ?_, nofun, fun _ => ⟨?_, hmem⟩, hleft.tlb, fun _ _ _ ho hr => hleft.pins ho hr,
        hleft.mem_l2tlb⟩ <;> rw [hleft.command]
      · exact ticmdEnded_busy _ _
      · exact ticmdEnded_keeps _
  case window => exact fun u w v hl hc => twinWrite_leaves w v hl hc
  case doorbell =>
    intro h1 h64 hr hq v
    rw [exec_doorbell h1 h64 hq v]
    refine ⟨fun hen => ?_, fun hen hle => ?_, fun hen hover => ⟨_, rfl, doorbell_overrun hr hen hover⟩⟩
    · rw [writeWqtail_eq hr]
      dsimp only
      rw [hen, Bool.false_and, if_neg (by decide)]
    · rw [writeWqtail_eq hr]
      dsimp only
      rw [hen, Bool.true_and, if_neg (by simpa using hle)]

end Sys2Proof.Proofs
end

section
/-! What the end of a FOP leaves of its thread (O60). -/

namespace Sys2Proof.Proofs
open Sys2Proof.Machine Sys2Proof.Claim

/-! ### What the end of a FOP leaves of its thread -/

/-- The thread stands where it stood: its program counter, registers and privilege, and every CSR but those of the vector unit, the
engines and the fabric's positions (below 0x030) and the count of squashed loads (0x041). -/
structure SameThread (k l : Core) : Prop where
  pc : l.pc = k.pc
  x : l.x = k.x
  priv : l.priv = k.priv
  csr : ∀ n, 0x030 ≤ n ∧ n ≠ 0x041 → l.csrAt n = k.csrAt n

namespace SameThread
variable {k l m : Core}

theorem refl (k : Core) : SameThread k k := ⟨rfl, rfl, rfl, fun _ _ => rfl⟩

theorem trans (h : SameThread k l) (h' : SameThread l m) : SameThread k m :=
  ⟨h'.pc.trans h.pc, h'.x.trans h.x, h'.priv.trans h.priv, fun n hn => (h'.csr n hn).trans (h.csr n hn)⟩

theorem setCsr (h : SameThread k l) {n : Nat} (v : Word) (hn : n < 0x030) : SameThread k (l.setCsr n v) :=
  h.trans ⟨rfl, rfl, rfl, fun _ hm => Core.setCsr_csrAt_other l v (by omega)⟩

theorem orFlags (h : SameThread k l) (f : BitVec 7) : SameThread k (l.orFlags f) := h.setCsr _ (by decide)

theorem repage (h : SameThread k l) (p : Option Nat) : SameThread k (l.repage p) := h.trans ⟨rfl, rfl, rfl, fun _ _ => rfl⟩

theorem foldl {α : Type} {f : Core → α → Core} {as : List α} (hf : ∀ l a, a ∈ as → SameThread l (f l a)) (h : SameThread k l) :
    SameThread k (as.foldl f l) := by
  induction as generalizing l with
  | nil => exact h
  | cons a as ih => exact ih (fun l b hb => hf l b (List.mem_cons_of_mem a hb)) (h.trans (hf l a List.mem_cons_self))

theorem outPoison (h : SameThread k l) (g : Grid) (b : Bool) : SameThread k (l.outPoison g b) :=
  foldl (fun _ _ _ => ⟨rfl, rfl, rfl, fun _ _ => rfl⟩) h

theorem positions (h : SameThread k l) (g : Grid) : SameThread k (l.positions g) :=
  foldl (fun l i hi => (refl l).setCsr _ (by have := List.mem_range.mp hi; omega))
    (foldl (fun l i hi => (refl l).setCsr _ (by have := List.mem_range.mp hi; omega)) h)

theorem report (h : SameThread k l) (g : Grid) (port : Nat) (frozen : Bool) : SameThread k (l.report g port frozen) :=
  (((h.positions g).setCsr _ (by decide)).setCsr _ (by decide)).setCsr _ (by decide)

/-- An instruction completes alike at the same place (R225). -/
theorem retire_pc (h : SameThread k l) (n : Nat) : (l.retire n).pc = (k.retire n).pc := by
  simp only [Core.retire, Core.counted_pc, Core.loopEnd, Core.covers, h.pc, h.csr 0x030 (by decide), h.csr 0x031 (by decide),
    h.csr 0x032 (by decide), h.csr 0x033 (by decide), h.csr 0x034 (by decide), h.csr 0x035 (by decide)]
  split
  · split
    · rfl
    · split
      · split <;> rfl
      · rfl
  · split
    · split <;> rfl
    · rfl

end SameThread

theorem SameThread.completed {k l : Core} (h : SameThread k l) (v : VecUnit) (f : Fabric) :
    SameThread k { l.aheadDone with vec := v, fab := f } := h.trans ⟨rfl, rfl, rfl, fun _ _ => rfl⟩

theorem SameThread.stopped {k l : Core} (h : SameThread k l) (w : Wait) (f : Fabric) :
    SameThread k { l with wait := w, fab := f } := h.trans ⟨rfl, rfl, rfl, fun _ _ => rfl⟩

theorem SameThread.withVec {k l : Core} (h : SameThread k l) (v : VecUnit) : SameThread k { l with vec := v } :=
  h.trans ⟨rfl, rfl, rfl, fun _ _ => rfl⟩

theorem fopDone_same (k : Core) (g : Grid) : SameThread k (k.fopDone g) := by
  unfold Core.fopDone
  dsimp only
  refine (SameThread.repage (SameThread.positions (SameThread.orFlags (SameThread.setCsr (SameThread.setCsr (SameThread.setCsr
    (SameThread.setCsr ?_ _ (by decide)) _ (by decide)) _ (by decide)) _ (by decide)) _) _) _).completed _ _
  have hpoison := (SameThread.refl k).outPoison g true
  split
  · exact SameThread.foldl (fun l _ _ => (SameThread.refl l).withVec _) hpoison
  · exact hpoison

theorem freezeFop_same (k : Core) (g : Grid) (port : Nat) (first : Option Nat) : SameThread k (k.freezeFop g port first) := by
  unfold Core.freezeFop
  exact ((((SameThread.refl k).outPoison g false).orFlags g.flags).report g port true).stopped _ _

theorem dropFop_same (k : Core) (g : Grid) : SameThread k (k.dropFop g) := by
  unfold Core.dropFop
  exact (((((SameThread.refl k).outPoison g false).orFlags g.flags).report g 255 false).repage none).stopped _ _

end Sys2Proof.Proofs
end

section
/-! FOPs that complete or stop (O60). -/

namespace Sys2Proof.Proofs
open Sys2Proof.Machine Sys2Proof.Claim

/-! ### Completion and stops of a FOP -/

/-- An event of one core that changes that core alone. -/
theorem eventOn_modSelf {m : X Unit} {s : State} {c : CoreId} {f : Core → Core}
    (h : m { s with cur := c } = .ok () ({ s with cur := c }.modSelf f)) : eventOn c m s = .next (s.setCore c (f (s.core c))) := by
  rw [eventOn_ok h]
  rfl

/-- Output o is not pending where it has ended or is not mapped (R321). -/
theorem finished_of_ended {g : Grid} {k : Core} (hw : g.wants = []) (hf : g.first = none) (he : ∀ h ∈ g.emits, h ∉ k.eng.stream)
    (ho : ∀ o < 4, mapOut g.maps o = 0 ∨ g.ended[o]? = some true) : g.finished k = true := by
  have hall : ((List.range 4).all fun o => mapOut g.maps o == 0 || (g.ended[o]?).getD true) = true := by
    rw [List.all_eq_true]
    intro o h
    rcases ho o (List.mem_range.mp h) with h0 | h1
    · simp [h0]
    · simp [h1]
  simpa [Grid.finished, Grid.performed, Grid.delivered, hall, hw, hf] using he

theorem finished_of_pending {g : Grid} (k : Core) (h : pendingOut g) : g.finished k = false := by
  obtain ⟨o, ho, hmap, hend⟩ := h
  have hall : ((List.range 4).all fun o => mapOut g.maps o == 0 || (g.ended[o]?).getD true) = false := by
    rw [List.all_eq_false]
    exact ⟨o, List.mem_range.mpr ho, by simp [hmap, hend]⟩
  rw [Grid.finished, hall, Bool.false_and, Bool.false_and]

theorem runGrid_finished {wires : List (Src × List Sink)} {ins : Array Item × Array Item} {rewalk : Option Nat} {g : Grid} {s : State}
    (h : g.finished s.self = true) (cycles : Nat) : runGrid wires ins rewalk cycles g s = (.done, g, s) := by
  cases cycles <;> simp [runGrid, h]

section run
variable {s : State} {c : CoreId} {g : Grid}

/-- R321: a FOP whose outputs have all ended completes. -/
theorem exec_fopComplete (hg : (s.core c).fab.grid = some g) (hz : g.frozen = false) (hr : g.reload = []) (hw : g.wants = [])
    (hf : g.first = none) (he : ∀ h ∈ g.emits, h ∉ (s.core c).eng.stream)
    (ho : ∀ o < 4, mapOut g.maps o = 0 ∨ g.ended[o]? = some true) (cycles : Nat) :
    exec (.fopComplete c cycles) s = .next (s.setCore c (((s.core c).fopDone g).retire g.size)) := by
  have hdone : ({ s with cur := c } : State).runFop g cycles = (.done, g, { s with cur := c }) := by
    rw [State.runFop]
    exact runGrid_finished (s := { s with cur := c }) (finished_of_ended hw hf he ho) cycles
  have hg' : ({ s with cur := c } : State).self.fab.grid = some g := hg
  refine eventOn_modSelf (f := fun k => (k.fopDone g).retire g.size) ?_
  simp only [X.bind_apply, X.get_apply, hg', hz, hr, List.isEmpty_nil, Bool.not_false, Bool.and_self, whenever_true, hdone,
    X.set_apply, X.modSelf_apply]

/-- R323: a pre-emption stops a FOP that is not complete. -/
theorem exec_fopStop (hg : (s.core c).fab.grid = some g) (hz : g.frozen = false) (hr : g.reload = []) (hf : g.first = none)
    (ho : pendingOut g) (hp : (s.core c).tk.preempt = .due) :
    exec (.fopStop c 0) s = .next (s.setCore c ((s.core c).freezeFop g 255 none)) := by
  have hmore : ({ s with cur := c } : State).runFop g 0 = (.more, g, { s with cur := c }) := by
    rw [State.runFop, runGrid, finished_of_pending _ ho]
    rfl
  have hg' : ({ s with cur := c } : State).self.fab.grid = some g := hg
  have hpre : ({ s with cur := c } : State).self.preempting = true := by
    have hp' : ({ s with cur := c } : State).self.tk.preempt = .due := hp
    rw [Core.preempting, hp']
    rfl
  refine eventOn_modSelf (f := fun k => k.freezeFop g 255 none) ?_
  simp only [X.bind_apply, X.get_apply, hg', hz, hr, List.isEmpty_nil, Bool.not_false, Bool.and_self, whenever_true, hf,
    Option.isSome_none, Bool.false_eq_true, if_false, hmore, hpre, X.set_apply, X.modSelf_apply]

end run

end Sys2Proof.Proofs
end

section
/-! A grid at rest (O60). -/

namespace Sys2Proof.Proofs
open Sys2Proof.Machine Sys2Proof.Claim

/-! ### A grid in which nothing moves (R324) -/

theorem foldl_fixed_of_mem {α β : Type} {f : β → α → β} {b : β} {l : List α} (h : ∀ a ∈ l, f b a = b) : l.foldl f b = b := by
  induction l with
  | nil => rfl
  | cons a l ih =>
    rw [List.foldl_cons, h a List.mem_cons_self]
    exact ih fun x hx => h x (List.mem_cons_of_mem a hx)

section rest
variable {g : Grid} {ins : Array Item × Array Item} {y : Cycle}

/-- A driver without a token, or with a consumer that has no room, gives nothing up (R309). -/
theorem moveWire_rests {w : Src × List Sink} (h : g.peek ins w.1 = none ∨ ∃ k ∈ w.2, g.hasRoom k = false) : moveWire g ins y w = y := by
  unfold moveWire
  rcases h with h | ⟨k, hk, hroom⟩
  · rw [h, ite_self]
  · have hall : w.2.all g.hasRoom = false := List.all_eq_false.mpr ⟨k, hk, by simp [hroom]⟩
    simp [hall]

/-- An element that is not ready does nothing (R312). -/
theorem fireElem_rests {rewalk : Option Nat} (h : ∀ x ∈ y.g.elems, x.ready y.g.rm = .fire .no) (e : Nat) :
    fireElem rewalk y e = y := by
  unfold fireElem
  cases hx : y.g.el e with
  | none => simp
  | some x => simp [h x (List.mem_of_find?_eq_some hx)]

/-- The cycles that each region has rested for, one more. -/
def rested (v : Vector Nat 16) : Vector Nat 16 :=
  (List.range 16).foldl (fun (v : Vector Nat 16) r => v.setIfInBounds r (min 65536 ((v[r]?).getD 0 + 1))) v

/-- Every region has rested for the 16 cycles after which it may be stalled. -/
def longIdle (v : Vector Nat 16) : Prop := ∀ r < 16, 16 ≤ (v[r]?).getD 0

theorem longIdle_rested {v : Vector Nat 16} (h : longIdle v) : longIdle (rested v) := by
  refine List.foldlRecOn (motive := longIdle) _ _ h fun v hv i hi => ?_
  intro r hr
  by_cases hri : i = r
  · subst hri
    have := hv i hr
    simp only [Vector.getElem?_setIfInBounds_self, hr, if_true, Option.getD_some]
    omega
  · rw [Vector.getElem?_setIfInBounds_ne hri]
    exact hv r hr

/-- The grid with other counts of the cycles that its regions have rested for. -/
def idled (g : Grid) (v : Vector Nat 16) : Grid := { g with idle := v, first := none }

theorem idled_blocked (v : Vector Nat 16) (wires : List (Src × List Sink)) (r : Nat) :
    (idled g v).blocked wires ins r = g.blocked wires ins r := rfl
theorem idled_inputs (v : Vector Nat 16) (k : Core) : (idled g v).inputs k = g.inputs k := rfl
theorem idled_canEscape (v : Vector Nat 16) : (idled g v).canEscape = g.canEscape := rfl
theorem idled_bufferFull (v : Vector Nat 16) : (idled g v).bufferFull = g.bufferFull := rfl

/-- Nothing escapes where no blocked token may move. -/
theorem escapeMove_rests {k : Core} {wires : List (Src × List Sink)} {r : Nat} (v : Vector Nat 16)
    (h : ∀ w ∈ g.blocked wires ins r, g.canEscape w = false) : (idled g v).escapeMove k wires ins r = none := by
  have hfind : (g.blocked wires ins r).find? g.canEscape = none := by
    rw [List.find?_eq_none]
    intro w hw
    simp [h w hw]
  rw [Grid.escapeMove, idled_blocked, idled_canEscape, hfind]

/-- A cycle of a grid at rest only counts itself. -/
theorem gridCycle_rests {rewalk : Option Nat} (s : State) (hr : rests g ins) (hf : g.first = none) :
    gridCycle g.wires ins rewalk g s =
      { g := idled g (rested g.idle), s := s, ports := [], fired := [], busy := false, wait := none, stop := none } := by
  obtain ⟨hidle, hready, hwires, hescape⟩ := hr
  have hge : longIdle g.idle := fun r hr => by
    obtain ⟨n, hn, h16⟩ := hidle r hr
    rw [hn]
    exact h16
  have hsettled : ((List.range 16).any fun r => decide (((rested g.idle)[r]?).getD 0 < 16)) = false := by
    rw [List.any_eq_false]
    intro r hr
    have := longIdle_rested hge r (List.mem_range.mp hr)
    simp
    omega
  let y : Cycle := { g := g, s := s, ports := [], fired := [], busy := false, wait := none, stop := none }
  have hmove : g.order.foldl (fireElem rewalk) (g.wires.foldl (moveWire g ins) y) = y := by
    rw [foldl_fixed_of_mem (fun w hw => moveWire_rests (hwires w hw))]
    exact foldl_fixed_of_mem fun e _ => fireElem_rests hready e
  unfold gridCycle
  simp only [hf]
  rw [hmove]
  dsimp only [y]
  simp only [List.contains_nil, Bool.false_eq_true, if_false, Option.isSome_none, ite_self, Bool.false_or]
  change List.foldl _ ({ g := idled g (rested g.idle), s := s, ports := [], fired := [], wait := none, stop := none
                         busy := (List.range 16).any fun r => decide (((rested g.idle)[r]?).getD 0 < 16) } : Cycle) _ = _
  rw [hsettled]
  refine foldl_fixed_of_mem fun r hr => ?_
  simp only [escapeMove_rests (rested g.idle) (hescape r (List.mem_range.mp hr)), ite_self]

/-- A jammed region stays so while the grid rests. -/
theorem jammed_idled {wires : List (Src × List Sink)} {v : Vector Nat 16} {r : Nat} (hv : longIdle v) (hr : r < 16)
    (h : g.jammed wires ins r = true) : (idled g v).jammed wires ins r = true := by
  obtain ⟨hstalled, hfull⟩ := Bool.and_eq_true_iff.mp h
  obtain ⟨-, hblocked⟩ := Bool.and_eq_true_iff.mp hstalled
  rw [Grid.jammed, Grid.stalled, idled_blocked, idled_bufferFull, hblocked, hfull]
  exact Bool.and_eq_true_iff.mpr ⟨Bool.and_eq_true_iff.mpr ⟨decide_eq_true (hv r hr), rfl⟩, rfl⟩

/-- The blocked tokens of a region stand in output registers of elements of the grid. -/
theorem blocked_output {wires : List (Src × List Sink)} {r : Nat} {w : Src × List Sink} (h : w ∈ g.blocked wires ins r) :
    ∃ e, w.1.output = some e ∧ (g.peek ins w.1).isSome = true := by
  have hsorted : ∀ (p : Src × List Sink → Src × List Sink → Bool) (l : List (Src × List Sink)),
      w ∈ l.foldr (fun w acc => acc.takeWhile (p w) ++ w :: acc.dropWhile (p w)) [] → w ∈ l := by
    intro p l
    induction l with
    | nil => exact id
    | cons v l ih =>
      intro hw
      rw [List.foldr_cons, List.mem_append, List.mem_cons] at hw
      rw [List.mem_cons]
      rcases hw with hw | hw | hw
      · exact .inr (ih ((List.takeWhile_sublist _).mem hw))
      · exact .inl hw
      · exact .inr (ih ((List.dropWhile_sublist _).mem hw))
  have hmem := (List.mem_filter.mp (hsorted _ _ h)).2
  split at hmem
  · simp only [Bool.and_eq_true] at hmem
    exact ⟨_, ‹_›, hmem.1.2⟩
  · cases hmem

/-- The tokens of a jammed region stand in the grid, which is therefore not dry. -/
theorem dry_of_jammed {wires : List (Src × List Sink)} {r : Nat} (h : g.jammed wires ins r = true) : g.dry ins = false := by
  obtain ⟨-, hfull⟩ := Bool.and_eq_true_iff.mp h
  obtain ⟨w, hw, -⟩ := List.any_eq_true.mp hfull
  obtain ⟨e, hout, hpeek⟩ := blocked_output hw
  have hheld : ∃ x ∈ g.elems, x.a.isSome = true ∨ x.b.isSome = true := by
    cases hsrc : w.1 with
    | a e | b e =>
      rw [hsrc, Grid.peek, Option.isSome_bind, Option.any_eq_true] at hpeek
      obtain ⟨x, hx, hsome⟩ := hpeek
      exact ⟨x, List.mem_of_find?_eq_some hx, by simp [hsome]⟩
    | pass e t | port s | scalar p =>
      rw [hsrc] at hout
      cases hout
  obtain ⟨x, hx, hsome⟩ := hheld
  rw [Grid.dry, Bool.and_eq_false_iff, List.all_eq_false]
  refine .inl ⟨x, hx, ?_⟩
  rcases hsome with hsome | hsome <;> simp [Option.isNone_eq_false_iff.mpr hsome]

/-- A quiet grid that is not dry waits, hangs, or cannot let a token escape (R324). -/
theorem quiet_of_not_dry {wires : List (Src × List Sink)} (w : Option Wait) (hd : g.dry ins = false) :
    (∃ v, g.quiet wires ins w = .waits v) ∨ g.quiet wires ins w = .hung ∨ ∃ r, g.quiet wires ins w = .escape r := by
  cases w with
  | some w => exact .inl ⟨w, rfl⟩
  | none =>
    refine .inr ?_
    simp only [Grid.quiet, hd, Bool.false_eq_true, if_false]
    split
    · exact .inl rfl
    · split
      · exact .inr ⟨_, rfl⟩
      · exact .inl rfl

end rest

end Sys2Proof.Proofs
end

section
/-! A full overflow buffer (O60). -/

namespace Sys2Proof.Proofs
open Sys2Proof.Machine Sys2Proof.Claim

/-! ### FABRIC for want of room (R324) -/

/-- Cycles of a grid at rest: the first ends the run. -/
theorem runGrid_rests {g : Grid} {ins : Array Item × Array Item} {rewalk : Option Nat} {s : State} (hr : rests g ins)
    (hf : g.first = none) (hp : g.finished s.self = false) (n : Nat) :
    ∃ w, runGrid g.wires ins rewalk (n + 1) g s =
      ((idled g (rested g.idle)).quiet g.wires ins w, idled g (rested g.idle), s) := by
  rw [runGrid, hp, if_neg (by decide)]
  simp only [gridCycle_rests s hr hf, Bool.false_eq_true, if_false]
  exact ⟨_, rfl⟩

section escape
variable {s : State} {c : CoreId} {g : Grid}

theorem runningGrid_ok (hg : s.self.fab.grid = some g) (hz : g.frozen = false) : runningGrid s = .ok g s := by
  simp only [runningGrid, X.bind_apply, X.self_apply, hg, hz, Bool.false_eq_true, if_false, X.pure_apply]

/-- The core after a FABRIC trap of its FOP (R323, R352). -/
def fabricTrapped (k : Core) (g : Grid) (reason region : Nat) : Core :=
  (k.dropFop g).enterTrap false causeFabric (fabricValue reason region g.slot) k.pc

theorem tf_dropFop (k : Core) (g : Grid) : (k.dropFop g).tf = k.tf := by
  rw [Core.tf, Core.tf, Core.tstatus, Core.tstatus, (dropFop_same k g).csr 0x103 (by decide)]

theorem fabricTrap_ok (ht : s.self.tf = false) (reason region : Nat) :
    fabricTrap g reason region s = .ok () (s.modSelf fun k => fabricTrapped k g reason region) := by
  have htf : ((s.self).dropFop g).tf = false := (tf_dropFop _ g).trans ht
  simp only [fabricTrap, takeTrap, X.bind_apply, X.self_apply, X.modSelf_apply, State.modSelf_self, X.ite_apply, htf,
    Bool.false_eq_true, if_false, State.modSelf_modSelf]
  exact congrArg (EStateM.Result.ok ()) (State.modSelf_congr s (by rw [fabricTrapped]))

/-- R324: a jammed region of a FOP at rest ends it with FABRIC. -/
theorem exec_escapeTimeout {r : BitVec 4} (hg : (s.core c).fab.grid = some g) (hz : g.frozen = false)
    (hf : g.first = none) (ho : pendingOut g) (hr : rests g (g.inputs (s.core c)))
    (hj : g.jammed g.wires (g.inputs (s.core c)) r.toNat = true) (ht : (s.core c).tf = false) :
    exec (.escapeTimeout c r) s =
      .next (s.setCore c (fabricTrapped (s.core c) (idled g (rested g.idle)) 4 r.toNat)) := by
  refine eventOn_modSelf (f := fun k => fabricTrapped k (idled g (rested g.idle)) 4 r.toNat) ?_
  change rests g (g.inputs ({ s with cur := c } : State).self) at hr
  change g.jammed g.wires (g.inputs ({ s with cur := c } : State).self) r.toNat = true at hj
  have hgrid := runningGrid_ok (s := { s with cur := c }) hg hz
  have htrap := fabricTrap_ok (s := { s with cur := c }) (g := idled g (rested g.idle)) ht 4 r.toNat
  generalize ({ s with cur := c } : State) = t at hr hj hgrid htrap ⊢
  have hlong : longIdle g.idle := fun i hi => by
    obtain ⟨n, hn, h16⟩ := hr.1 i hi
    rw [hn]
    exact h16
  have hjam := jammed_idled (longIdle_rested hlong) r.isLt hj
  obtain ⟨w, hrun⟩ : ∃ w, t.runFop g 65536 =
      ((idled g (rested g.idle)).quiet g.wires (g.inputs t.self) w, idled g (rested g.idle), t) :=
    runGrid_rests hr hf (finished_of_pending _ ho) 65535
  rw [X.bind_apply, hgrid]
  rcases quiet_of_not_dry (wires := g.wires) w (dry_of_jammed hjam) with ⟨v, hq⟩ | hq | ⟨v, hq⟩
  all_goals
    rw [hq] at hrun
    simp only [X.bind_apply, X.get_apply, hrun, idled_inputs, hjam, Bool.true_and, whenever_true, X.set_apply, htrap]

theorem dropFop_grid (k : Core) : (k.dropFop g).fab.grid = none := by
  rw [Core.dropFop]

end escape

/-! ### Trap entry (R352) -/

/-- The parts of a core that a trap entry replaces beside its CSRs. -/
def entered (k : Core) (f : Vector Word 7) (p : Word) : Core := { k with frame := f, priv := .super, pc := p, wait := .none }

theorem entered_x (k : Core) (f : Vector Word 7) (p : Word) : (entered k f p).x = k.x := rfl
theorem entered_fab (k : Core) (f : Vector Word 7) (p : Word) : (entered k f p).fab = k.fab := rfl
theorem entered_priv (k : Core) (f : Vector Word 7) (p : Word) : (entered k f p).priv = .super := rfl
theorem entered_pc (k : Core) (f : Vector Word 7) (p : Word) : (entered k f p).pc = p := rfl
theorem entered_csrAt (k : Core) (f : Vector Word 7) (p : Word) (n : Nat) : (entered k f p).csrAt n = k.csrAt n := rfl

section entry
variable (k : Core) (async : Bool) (cause : Nat) (tval epc : Word)

/-- The CSRs of a core after a trap entry (R352). -/
def trapCsrs : Core :=
  ((((((k.setCsr 0x103 (trapStatus k.tstatus k.priv)).setCsr 0x100 (causeWord async cause)).setCsr 0x101 tval).setCsr 0x102
    (addrField epc)).setCsr 0x030 0).setCsr 0x033 0).setCsr 0x003 0

theorem enterTrap_eq : k.enterTrap async cause tval epc =
    entered (trapCsrs k async cause tval epc) k.frameNow (canon56 ((trapCsrs k async cause tval epc).csrAt 0x104)) := by
  rw [Core.enterTrap, entered, trapCsrs]

theorem trapCsrs_csrAt {n : Nat} (h : n ∉ [0x103, 0x100, 0x101, 0x102, 0x030, 0x033, 0x003]) :
    (trapCsrs k async cause tval epc).csrAt n = k.csrAt n := by
  simp only [List.mem_cons, List.not_mem_nil, or_false, not_or] at h
  obtain ⟨h1, h2, h3, h4, h5, h6, h7⟩ := h
  rw [trapCsrs, Core.setCsr_csrAt_other _ _ (Ne.symm h7), Core.setCsr_csrAt_other _ _ (Ne.symm h6),
    Core.setCsr_csrAt_other _ _ (Ne.symm h5), Core.setCsr_csrAt_other _ _ (Ne.symm h4), Core.setCsr_csrAt_other _ _ (Ne.symm h3),
    Core.setCsr_csrAt_other _ _ (Ne.symm h2), Core.setCsr_csrAt_other _ _ (Ne.symm h1)]

theorem trapCsrs_x : (trapCsrs k async cause tval epc).x = k.x := by
  simp only [trapCsrs, Core.setCsr_x]

theorem trapCsrs_fab : (trapCsrs k async cause tval epc).fab = k.fab := by
  simp only [trapCsrs, Core.setCsr_fab]

theorem trapCsrs_cause : (trapCsrs k async cause tval epc).csrAt 0x100 = causeWord async cause := by
  rw [trapCsrs]
  iterate 5 rw [Core.setCsr_csrAt_other _ _ (by decide)]
  rw [Core.setCsr_csrAt_same _ _ (by decide)]

theorem trapCsrs_tval : (trapCsrs k async cause tval epc).csrAt 0x101 = tval := by
  rw [trapCsrs]
  iterate 4 rw [Core.setCsr_csrAt_other _ _ (by decide)]
  rw [Core.setCsr_csrAt_same _ _ (by decide)]

/-- R352: what a trap entry leaves. -/
theorem enterTrap_leaves : let t := k.enterTrap async cause tval epc
    t.priv = .super ∧ t.csrAt 0x100 = causeWord async cause ∧ t.csrAt 0x101 = tval ∧ t.pc = canon56 (k.csrAt 0x104) ∧ t.x = k.x ∧
      t.fab = k.fab := by
  dsimp only
  rw [enterTrap_eq, entered_priv, entered_csrAt, entered_csrAt, entered_pc, entered_x, entered_fab, trapCsrs_cause, trapCsrs_tval,
    trapCsrs_csrAt _ _ _ _ _ (n := 0x104) (by decide), trapCsrs_x, trapCsrs_fab]
  exact ⟨rfl, rfl, rfl, rfl, rfl, rfl⟩

end entry


end Sys2Proof.Proofs
end

section
/-! Parts of a number read from memory (O60). -/

namespace Sys2Proof.Proofs
open Sys2Proof.Machine Sys2Proof.Claim

/-! ### Numbers read piece by piece -/

/-- A part of what n bytes hold. -/
theorem read_part (m : Mem) {a n i l : Nat} (h : i + l ≤ n) : m.read (a + i) l = fld (m.read a n) (8 * i) (8 * l) := by
  have htail : ∀ (n a l : Nat), l ≤ n → m.read a l = m.read a n % 2 ^ (8 * l) := by
    intro n
    induction n with
    | zero =>
      intro a l hl
      obtain rfl : l = 0 := by omega
      rfl
    | succ n ih =>
      intro a l hl
      cases l with
      | zero => simp [Mem.read, Nat.mod_one]
      | succ l =>
        rw [Mem.read, Mem.read, ih (a + 1) l (by omega)]
        have hb := (m.get a).isLt
        have hlow : ((m.get a).toNat + 256 * m.read (a + 1) n) % 2 ^ 8 = (m.get a).toNat := by omega
        have hhigh : ((m.get a).toNat + 256 * m.read (a + 1) n) / 2 ^ 8 = m.read (a + 1) n := by omega
        rw [show 8 * (l + 1) = 8 + 8 * l by ring, Nat.pow_add, Nat.mod_mul, hlow, hhigh]
  have hskip : ∀ (i n a : Nat), i ≤ n → m.read (a + i) (n - i) = m.read a n / 2 ^ (8 * i) := by
    intro i
    induction i with
    | zero => intro n a _; simp
    | succ i ih =>
      intro n a hi
      obtain ⟨n, rfl⟩ : ∃ k, n = k + 1 := ⟨n - 1, by omega⟩
      have := ih n (a + 1) (by omega)
      rw [show a + (i + 1) = a + 1 + i by ring, show n + 1 - (i + 1) = n - i by omega, this, Mem.read,
        show 8 * (i + 1) = 8 + 8 * i by ring, Nat.pow_add, ← Nat.div_div_eq_div_mul]
      have hb := (m.get a).isLt
      congr 1
      omega
  rw [fld, ← hskip i n a (by omega), ← htail (n - i) (a + i) l (by omega)]

theorem fld_fld {v lo len a n : Nat} (h : a + n ≤ len) : fld (fld v lo len) a n = fld v (lo + a) n := by
  simp only [fld]
  rw [Nat.pow_add, ← Nat.div_div_eq_div_mul]
  obtain ⟨k, rfl⟩ : ∃ k, len = a + (n + k) := ⟨len - a - n, by omega⟩
  rw [Nat.pow_add, Nat.mod_mul_right_div_self, Nat.pow_add, Nat.mod_mul_right_mod]

/-- A field made of two that meet. -/
theorem fld_add (v lo a b : Nat) : fld v lo (a + b) = fld v lo a + fld v (lo + a) b * 2 ^ a := by
  simp only [fld]
  rw [Nat.pow_add, Nat.mod_mul, Nat.pow_add, ← Nat.div_div_eq_div_mul]
  ring

/-- A piece of [a, a + n) lies in it, behind o, is not empty and crosses no multiple of q. -/
theorem mem_cutAt {q a n : Nat} (hq : 0 < q) {fuel o : Nat} {p : Nat × Nat} (h : p ∈ cutAt q a n fuel o) :
    o ≤ p.1 ∧ p.1 + p.2 ≤ n ∧ 0 < p.2 ∧ (a + p.1) % q + p.2 ≤ q := by
  induction fuel generalizing o with
  | zero => cases h
  | succ fuel ih =>
    rw [cutAt] at h
    have hlt := Nat.mod_lt (a + o) hq
    split at h
    · cases h
    · rcases List.mem_cons.mp h with rfl | h
      · dsimp only
        omega
      · obtain ⟨h1, h2⟩ := ih h
        exact ⟨by omega, h2⟩

/-- The pieces of a number put together again, d bytes up. -/
theorem foldl_cutAt {q a n : Nat} (hq : 0 < q) (v d : Nat) {fuel o : Nat} (acc : Nat) (hf : n < o + fuel) (ho : o ≤ n) :
    (cutAt q a n fuel o).foldl (fun acc p => acc + fld v (8 * p.1) (8 * p.2) * 2 ^ (8 * (d + p.1))) acc =
      acc + fld v (8 * o) (8 * (n - o)) * 2 ^ (8 * (d + o)) := by
  induction fuel generalizing o acc with
  | zero => omega
  | succ fuel ih =>
    rw [cutAt]
    have hlt := Nat.mod_lt (a + o) hq
    split
    · obtain rfl : o = n := by omega
      simp [fld, Nat.mod_one]
    · have hlen : 0 < min (n - o) (q - (a + o) % q) := by omega
      have hle : min (n - o) (q - (a + o) % q) ≤ n - o := Nat.min_le_left _ _
      generalize min (n - o) (q - (a + o) % q) = len at hlen hle ⊢
      dsimp only
      rw [List.foldl_cons, ih _ (by omega) (by omega), show 8 * (n - o) = 8 * len + 8 * (n - (o + len)) by omega, fld_add,
        show 8 * (o + len) = 8 * o + 8 * len by ring, show 8 * (d + (o + len)) = 8 * (d + o) + 8 * len by ring, Nat.pow_add]
      ring

/-- The pieces of a number of n bytes put together. -/
theorem foldl_cutAt_whole {q a n v : Nat} (hq : 0 < q) (hv : v < 2 ^ (8 * n)) (d acc : Nat) :
    (cutAt q a n (n + 1) 0).foldl (fun acc p => acc + fld v (8 * p.1) (8 * p.2) * 2 ^ (8 * (d + p.1))) acc =
      acc + v * 2 ^ (8 * d) := by
  rw [foldl_cutAt hq _ _ _ (by omega) (by omega)]
  simp [fld, Nat.mod_eq_of_lt hv]

theorem fld_lt (v lo len : Nat) : fld v lo len < 2 ^ len := Nat.mod_lt _ (Nat.two_pow_pos len)

theorem read_lt (m : Mem) (a n : Nat) : m.read a n < 2 ^ (8 * n) := by
  have := read_part m (a := a) (i := 0) (l := n) (Nat.zero_add n).le
  rw [Nat.add_zero] at this
  rw [this]
  exact fld_lt _ _ _

end Sys2Proof.Proofs
end

section
/-! Reads of memory at rest (O60). -/

namespace Sys2Proof.Proofs
open Sys2Proof.Machine Sys2Proof.Claim

/-! ### Memory that nothing stands before -/

theorem noLine_of_homes {ms : MemSys} (h : ms.homes = []) (a n : Nat) : noLine ms a n := by
  intro g hg
  rw [h] at hg
  cases hg

theorem recall_calm {s : State} (h : calm s) (a n : Nat) : s.ms.recall a n = s.ms :=
  recall_atRest h.2.1 (noLine_of_homes h.1 a n)

theorem poisoned_calm {s : State} (h : calm s) (a n : Nat) : s.ms.poisoned a n = false := by
  obtain ⟨-, -, hp, -⟩ := h
  rw [MemSys.poisoned, hp, List.any_nil]

theorem rd_device {ms : MemSys} {a : Nat} (h : a < 2 ^ 42) (n : Nat) : ms.rd a n = ms.mem.read a n := by
  rw [MemSys.rd, if_neg (by unfold hostBase; omega), if_pos h]

theorem notRemote {a : Nat} (h : a < 2 ^ 42) : (decide (2 ^ 42 ≤ a) && decide (a < hostBase)) = false := by
  simp only [Bool.and_eq_false_iff, decide_eq_false_iff_not]
  exact .inl (by omega)

theorem l1DropAddr_empty {k : Core} (h : k.cache.l1d = []) (a n : Nat) : k.l1DropAddr a n = k := by
  unfold Core.l1DropAddr
  rw [h, List.filter_nil, ← h]

/-- R99, R152: an uncached read of calm device memory takes its bytes and changes nothing. -/
theorem spotRead_calm {c : Ctx} {h : Hit} {s : State} (hs : calm s) (hl : (s.core c.core).cache.l1d = []) (hm : mmioOf h.pa = none)
    (hr : h.ga < 2 ^ 42) (hb : s.ms.bypass h = true) (n kind addr : Nat) :
    spotRead c (.plain h) n kind addr s = .ok (s.ms.mem.read h.ga n) s := by
  have hsame : (({ s with ms := s.ms } : State).modCore c.core fun k => k.l1DropAddr h.ga n) = s := by
    change s.setCore c.core ((s.core c.core).l1DropAddr h.ga n) = s
    rw [l1DropAddr_empty hl, State.setCore_self]
  simp only [spotRead, plainRead, X.bind_apply, X.get_apply, hm, notRemote hr, hb, recall_calm hs, poisoned_calm hs, hsame,
    rd_device hr, Bool.false_eq_true, if_false, if_true, X.set_apply, X.pure_apply, Bool.not_false, X.require_true]

/-! ### Bytes of one page -/

theorem localize_page (s : State) (a : Nat) : s.localize a % 4096 = a % 4096 := by
  unfold State.localize
  split <;> omega

theorem leafAddr_page (s : State) (e : Word) (level : Nat) (va : Word) : s.leafAddr e level va % 4096 = va.toNat % 4096 := by
  rw [State.leafAddr, localize_page, leafRaw]
  have hmod : va.toNat % (leafPages e level * 4096) % 4096 = va.toNat % 4096 := Nat.mod_mul_left_mod _ _ _
  omega

theorem homeBank_page {pa i : Nat} (h : pa % 4096 + i < 4096) (hl : Nat) : homeBank (pa + i) hl = homeBank pa hl := by
  have hfold : homeFold (pa + i) = homeFold pa := by
    rw [homeFold, homeFold, show (pa + i) / 4096 = pa / 4096 by omega]
  unfold homeBank
  rw [hfold]

theorem mmioOf_page {pa i : Nat} (h : pa % 4096 + i < 4096) (hm : mmioOf pa = none) : mmioOf (pa + i) = none := by
  unfold mmioOf at hm ⊢
  split at hm
  · cases hm
  · rename_i hout
    simp only [Bool.and_eq_true, decide_eq_true_eq] at hout
    rw [if_neg]
    simp only [Bool.and_eq_true, decide_eq_true_eq]
    omega

/-! ### What a copy reads -/

/-- A fold whose steps all answer without a change. -/
theorem foldlM_steady {α β : Type} {f : β → α → X β} {g : β → α → β} {s : State} {l : List α}
    (h : ∀ a ∈ l, ∀ b, f b a s = .ok (g b a) s) (b : β) : l.foldlM f b s = .ok (l.foldl g b) s := by
  induction l generalizing b with
  | nil => rfl
  | cons a l ih =>
    rw [List.foldlM_cons, X.bind_apply, h a List.mem_cons_self]
    exact ih (fun x hx => h x (List.mem_cons_of_mem _ hx)) _

/-- One page's part of a plain read by a copy. -/
def copyPage (x : Ctx) (va : Word) (fmtOk : Word → Nat → Bool) (acc : Nat) (p : Nat × Nat) : X Nat := do
  let a := va + toWord p.1
  let h ← resolveGlobal x a (copyAsk 0 p.2 false) fmtOk
  let one := fun (spot : Spot) (o len : Nat) (acc : Nat) => do
    let v ← spotRead x spot len 0 (bits (a + toWord o) 0 56)
    return acc + patchOld [] (h.ga + o) len v * 2 ^ (8 * (p.1 + o))
  if pteTb h.pte then
    (List.range p.2).foldlM (fun (acc : Nat) j => do one (← tbMap x (bits (a + toWord j) 0 56) 1 0) j 1 acc) acc
  else (cutAt 256 h.pa p.2 (p.2 + 1) 0).foldlM (fun (acc : Nat) q => one (.plain (h.plus q.1)) q.1 q.2 acc) acc

theorem copyRead_eq (x : Ctx) (va : Word) (n : Nat) (fmtOk : Word → Nat → Bool) :
    copyRead x [] va n fmtOk false = (cutAt 4096 va.toNat n (n + 1) 0).foldlM (copyPage x va fmtOk) 0 := rfl

theorem toNat_add_page (va : Word) (o : Nat) : (va + toWord o).toNat % 4096 = (va.toNat + o) % 4096 := by
  simp only [toWord, BitVec.toNat_add, BitVec.toNat_ofNat]
  omega

/-- A page's part is read where it stands in uncached memory. -/
theorem copyPage_stands {s : State} {va : Word} {p : Nat × Nat} {e : TlbEntry} {x : Nat} (hs : calm s)
    (hl : s.self.cache.l1d = []) (hp : (va.toNat + p.1) % 4096 + p.2 ≤ 4096)
    (hm : mapped s (va + toWord p.1) { kind := 0, n := p.2, noMmio := true } e) (hf : pteFmt e.pte = 0)
    (hu : uncached s e (s.leafAddr e.pte e.level (va + toWord p.1)) = true)
    (hx : s.ms.mem.read (s.leafAddr e.pte e.level (va + toWord p.1)) p.2 = x) (acc : Nat) :
    copyPage (s.ctxOf s.cur) va (fun e _ => pteFmt e == 0) acc p s = .ok (acc + x * 2 ^ (8 * p.1)) s := by
  obtain ⟨hcanon, hfind, hwin, hperm, hfmt, hhost, htb, hmmio, hdev, -⟩ := hm
  have hpage := leafAddr_page s e.pte e.level (va + toWord p.1)
  rw [toNat_add_page] at hpage
  have hres : resolveGlobal (s.ctxOf s.cur) (va + toWord p.1) (copyAsk 0 p.2 false) (fun e _ => pteFmt e == 0) s =
      .ok (e.hit s (va + toWord p.1)) s :=
    resolveGlobal_tlb hcanon rfl hfind hwin hperm hhost hfmt (by simp [hf])
  have hpte : (e.hit s (va + toWord p.1)).pte = e.pte := rfl
  have hpa : (e.hit s (va + toWord p.1)).pa = s.leafAddr e.pte e.level (va + toWord p.1) := rfl
  have hga : (e.hit s (va + toWord p.1)).ga = s.leafAddr e.pte e.level (va + toWord p.1) := rfl
  generalize s.leafAddr e.pte e.level (va + toWord p.1) = pa at *
  have hpieces : ∀ q ∈ cutAt 256 pa p.2 (p.2 + 1) 0, ∀ acc : Nat, (do
      let v ← spotRead (s.ctxOf s.cur) (.plain ((e.hit s (va + toWord p.1)).plus q.1)) q.2 0
        (bits (va + toWord p.1 + toWord q.1) 0 56)
      return acc + patchOld [] ((e.hit s (va + toWord p.1)).ga + q.1) q.2 v * 2 ^ (8 * (p.1 + q.1)) : X Nat) s =
        .ok (acc + fld x (8 * q.1) (8 * q.2) * 2 ^ (8 * (p.1 + q.1))) s := by
    intro q hq acc
    obtain ⟨-, hend, hsome, -⟩ := mem_cutAt (by decide) hq
    have hin : pa % 4096 + q.1 < 4096 := by omega
    have hplus : ((e.hit s (va + toWord p.1)).plus q.1).pa = pa + q.1 ∧ ((e.hit s (va + toWord p.1)).plus q.1).ga = pa + q.1 := by
      rw [Hit.plus, hpa, hga]
      exact ⟨rfl, rfl⟩
    have hbypass : s.ms.bypass ((e.hit s (va + toWord p.1)).plus q.1) = true := by
      rw [MemSys.bypass, Hit.bank, hplus.1, Hit.plus, hpte, homeBank_page hin]
      exact hu
    have hread := spotRead_calm (c := s.ctxOf s.cur) hs hl (by rw [hplus.1]; exact mmioOf_page hin hmmio)
      (by rw [hplus.2]; omega) hbypass q.2 0 (bits (va + toWord p.1 + toWord q.1) 0 56)
    rw [X.bind_apply, hread, hplus.2, read_part s.ms.mem hend, hx]
    rfl
  rw [copyPage]
  dsimp only
  rw [X.bind_apply, hres]
  dsimp only
  rw [hpte, htb, if_neg (by decide), hpa]
  refine (foldlM_steady hpieces acc).trans ?_
  rw [foldl_cutAt_whole (by decide) (hx ▸ read_lt _ _ _)]

theorem copyRead_stands {s : State} {img o n v : Nat} (hs : calm s) (hl : s.self.cache.l1d = []) (hv : standsAt s img o n v) :
    copyRead (s.ctxOf s.cur) [] (canon56 (toWord (img + o))) n (fun e _ => pteFmt e == 0) false s =
      .ok (fld v (8 * o) (8 * n)) s := by
  unfold standsAt at hv
  rw [copyRead_eq]
  generalize canon56 (toWord (img + o)) = va at hv ⊢
  have hpages : ∀ p ∈ cutAt 4096 va.toNat n (n + 1) 0, ∀ acc : Nat,
      copyPage (s.ctxOf s.cur) va (fun e _ => pteFmt e == 0) acc p s =
        .ok (acc + fld (fld v (8 * o) (8 * n)) (8 * p.1) (8 * p.2) * 2 ^ (8 * (0 + p.1))) s := by
    intro p hp acc
    obtain ⟨-, hend, -, hpage⟩ := mem_cutAt (by decide) hp
    obtain ⟨e, hm, hf, hu, hx⟩ := hv p hp
    rw [copyPage_stands hs hl hpage hm hf hu hx, fld_fld (by omega), Nat.zero_add, show 8 * (o + p.1) = 8 * o + 8 * p.1 by ring]
  refine (foldlM_steady hpages 0).trans ?_
  rw [foldl_cutAt_whole (by decide) (fld_lt _ _ _)]
  simp

end Sys2Proof.Proofs
end

section
/-! FBIND of an image that stands in memory (O60). -/

namespace Sys2Proof.Proofs
open Sys2Proof.Machine Sys2Proof.Claim

/-! ### FBIND (R320) -/

/-- What a good read of an image comes to: its status, and the plane it fills. -/
def imageResult (img v : Nat) : Nat × Option Plane :=
  if (headerOk v && wordsOk v) = false then (3, none)
  else if signaturesOk v = false then (2, none)
  else (0, some (planeOf img v))

theorem fld_whole {v n : Nat} (h : v < 2 ^ n) : fld v 0 n = v := by
  rw [fld, pow_zero, Nat.div_one, Nat.mod_eq_of_lt h]

theorem readImage_stands {s : State} {img v : Nat} (hs : calm s) (hl : s.self.cache.l1d = []) (hv : standsAt s img 0 imageBytes v)
    (hlt : v < 2 ^ (8 * imageBytes)) : readImage (s.ctxOf s.cur) img s = .ok (imageResult img v) s := by
  have hread := copyRead_stands hs hl hv
  rw [Nat.add_zero, Nat.mul_zero, fld_whole hlt] at hread
  unfold readImage imageResult
  simp only [hread]
  cases headerOk v && wordsOk v
  · rfl
  · cases signaturesOk v <;> rfl

/-- The core after FBIND bound what it read. -/
def bindImage (slot : BitVec 6) (img : Nat) (r : Nat × Option Plane) (k : Core) : Core :=
  { k with fab := match r.2 with
      | some p => { k.fab.fillPlane (k.fab.victim true) img r.2 with
          slots := (k.fab.fillPlane (k.fab.victim true) img r.2).slots.set slot.toNat (some p.bound) }
      | none => k.fab.fillPlane (k.fab.victim true) img r.2 }

theorem bindSlot_ok (slot : BitVec 6) (img : Nat) (r : Nat × Option Plane) (s : State) :
    bindSlot slot img r s = .ok () (s.modSelf (bindImage slot img r)) := rfl

/-- A frozen FOP discarded (R323). -/
def thawed (k : Core) : Core :=
  { k.setCsr 0x024 (setBits (k.csrAt 0x024) 63 1 0) with fab := { k.fab with grid := none } }

theorem thawSlot_cases (k : Core) (slot : BitVec 6) : k.thawSlot slot = k ∨ k.thawSlot slot = thawed k := by
  cases hg : k.fab.grid with
  | none => exact .inl (by simp only [Core.thawSlot, hg, Option.any_none, Bool.false_eq_true, if_false])
  | some g =>
    simp only [Core.thawSlot, Core.thaw, hg, Option.any_some, thawed]
    cases g.frozen
    · exact .inl rfl
    · split
      · exact .inr rfl
      · exact .inl rfl

theorem thawSlot_same (k : Core) (slot : BitVec 6) : SameThread k (k.thawSlot slot) := by
  rcases thawSlot_cases k slot with h | h <;> rw [h]
  · exact SameThread.refl k
  · rw [thawed]
    exact ((SameThread.refl k).setCsr _ (by decide)).trans ⟨rfl, rfl, rfl, fun _ _ => rfl⟩

theorem thawSlot_replies (k : Core) (slot : BitVec 6) : (k.thawSlot slot).replies = k.replies := by
  rcases thawSlot_cases k slot with h | h
  · rw [h]
  · rw [h, thawed, Core.setCsr_replies]

/-- The core after FBIND. -/
def fbindDone (f : EN) (a : Word) (r : Nat × Option Plane) (k : Core) : Core :=
  (replying f.xd (toWord r.1) (bindImage (EN.slot f) (imageName a) r (k.thawSlot (EN.slot f)))).retire 8

theorem fbindDone_leaves (f : EN) (a : Word) (r : Nat × Option Plane) (k : Core) :
    (fbindDone f a r k).replies = k.replies ++ [⟨[(f.xd, toWord r.1)]⟩] ∧ (fbindDone f a r k).x = k.x ∧
      (fbindDone f a r k).pc = (k.retire 8).pc := by
  have hsame : SameThread k (replying f.xd (toWord r.1) (bindImage (EN.slot f) (imageName a) r (k.thawSlot (EN.slot f)))) :=
    (thawSlot_same k _).trans ⟨rfl, rfl, rfl, fun _ _ => rfl⟩
  refine ⟨?_, ?_, hsame.retire_pc 8⟩
  · rw [fbindDone, Core.retire_replies, replying, bindImage, thawSlot_replies]
  · rw [fbindDone, Core.retire_x, hsame.x]

theorem exec_fbind {f : EN} {s : State} {v : Nat} (hr : ready s [f.xa]) (hf : slotFree s f.xd)
    (ha : (s.self.rd f.xa).toNat % 256 = 0) (hc : canonical (s.self.rd f.xa) = true) (hl : s.self.cache.l1d = []) (hs : calm s)
    (hv : standsAt s (imageName (s.self.rd f.xa)) 0 imageBytes v) (hlt : v < 2 ^ (8 * imageBytes)) :
    exec (.fbind f) s =
      .next (s.modSelf (fbindDone f (s.self.rd f.xa) (imageResult (imageName (s.self.rd f.xa)) v))) := by
  have halign : (bits (s.self.rd f.xa) 0 8 == 0) = true := by
    rw [beq_iff_eq, bits, BitVec.extractLsb'_toNat, Nat.shiftRight_zero]
    exact ha
  have hread := readX_ok (hr f.xa List.mem_cons_self)
  have hreserve : reserveReply [f.xd] s = .ok () s := reserveReply_ok hf.1 (by simp [hf.2])
  have himage := readImage_stands hs hl hv hlt
  generalize imageResult (imageName (s.self.rd f.xa)) v = r at himage ⊢
  generalize s.self.rd f.xa = a at *
  have hexec : exec (.fbind f) s = execFbind f s := rfl
  rw [hexec, execFbind]
  refine (finish_ok (t := s.modSelf fun k =>
    replying f.xd (toWord r.1) (bindImage (EN.slot f) (imageName a) r (k.thawSlot (EN.slot f)))) ?_).trans ?_
  · simp only [X.bind_apply, hread, hreserve, halign, hc, X.require_true, selfCtx, X.get_apply, X.pure_apply, himage,
      X.modSelf_apply, bindSlot_ok, reply_apply, State.modSelf_modSelf]
    rfl
  · rw [State.modSelf_modSelf]
    rfl

end Sys2Proof.Proofs
end

section
/-! A region reloaded (O60). -/

namespace Sys2Proof.Proofs
open Sys2Proof.Machine Sys2Proof.Claim

/-! ### Region reload (R325) -/

/-- A map whose steps all answer without a change. -/
theorem mapM_steady {α β : Type} {f : α → X β} {g : α → β} {s : State} {l : List α} (h : ∀ a ∈ l, f a s = .ok (g a) s) :
    l.mapM f s = .ok (l.map g) s := by
  induction l with
  | nil => rfl
  | cons a l ih =>
    rw [List.mapM_cons, X.bind_apply, h a List.mem_cons_self]
    dsimp only
    rw [X.bind_apply, ih fun x hx => h x (List.mem_cons_of_mem _ hx)]
    rfl

/-- The element of row i and column j of a region (R308). -/
def regionElem (region i j : Nat) : Nat := (16 * (region / 4) + i) * 64 + 16 * (region % 4) + j

/-- The words of a region of an image, with their elements. -/
def regionWords (v region : Nat) : List (Nat × Nat) :=
  ((List.range 16).map fun i => (List.range 16).map fun j =>
    (regionElem region i j, fld v (8 * (128 + 12 * regionElem region i j)) 96)).flatten

theorem regionWords_values (v region : Nat) : (regionWords v region).map (·.2) =
    (List.range 16).flatMap fun i => (List.range 16).map fun j => fld v (8 * (128 + 12 * regionElem region i j)) 96 := by
  rw [regionWords, List.map_flatten, List.map_map, List.flatMap_def]
  congr 1

/-- The header and the parts of a region that its signature covers pass (R317). -/
def reloadPasses (v region : Nat) : Prop :=
  hdrUses (imgDword v 0) region = false ∨
    signatureOf (fld v 0 1024) ((regionWords v region).map (·.2)) = fld v (8 * (49280 + 8 * region)) 64

section reload
variable {s : State} {img v region : Nat}

theorem reloadParts_stands (hs : calm s) (hl : s.self.cache.l1d = []) (hh : standsAt s img 0 128 v)
    (hw : ∀ i < 16, standsAt s img (128 + 12 * regionElem region i 0) 192 v) (hsig : standsAt s img (49280 + 8 * region) 8 v) :
    reloadParts (s.ctxOf s.cur) img region s =
      .ok (fld v 0 1024, regionWords v region, fld v (8 * (49280 + 8 * region)) 64) s := by
  have hrow : ∀ i ∈ List.range 16, (do
      let e0 := (16 * (region / 4) + i) * 64 + 16 * (region % 4)
      let v ← copyRead (s.ctxOf s.cur) [] (canon56 (toWord (img + (128 + 12 * e0)))) 192 (fun e _ => pteFmt e == 0) false
      return (List.range 16).map fun j => (e0 + j, fld v (96 * j) 96) : X (List (Nat × Nat))) s =
      .ok ((List.range 16).map fun j => (regionElem region i j, fld v (8 * (128 + 12 * regionElem region i j)) 96)) s := by
    intro i hi
    rw [X.bind_apply, show (16 * (region / 4) + i) * 64 + 16 * (region % 4) = regionElem region i 0 from rfl,
      copyRead_stands hs hl (hw i (List.mem_range.mp hi))]
    refine congrArg (EStateM.Result.ok · s) (List.map_congr_left fun j hj => ?_)
    have hj := List.mem_range.mp hj
    rw [fld_fld (by omega), show regionElem region i 0 + j = regionElem region i j from rfl,
      show 8 * (128 + 12 * regionElem region i 0) + 96 * j = 8 * (128 + 12 * regionElem region i j) by
        rw [show regionElem region i j = regionElem region i 0 + j from rfl]; ring]
  unfold reloadParts
  dsimp only
  rw [X.bind_apply, copyRead_stands hs hl hh]
  dsimp only
  rw [X.bind_apply, mapM_steady hrow]
  dsimp only
  rw [X.bind_apply, copyRead_stands hs hl hsig]
  rfl

theorem reloadWords_stands (hs : calm s) (hl : s.self.cache.l1d = []) (hh : standsAt s img 0 128 v)
    (hw : ∀ i < 16, standsAt s img (128 + 12 * regionElem region i 0) 192 v) (hsig : standsAt s img (49280 + 8 * region) 8 v)
    (hp : reloadPasses v region) : ∃ ws, reloadWords (s.ctxOf s.cur) img region s = .ok (some ws) s := by
  have hparts := reloadParts_stands hs hl hh hw hsig
  have hdword : imgDword (fld v 0 1024) 0 = imgDword v 0 := by
    rw [imgDword, imgDword, fld_fld (by decide), Nat.zero_add]
  have hpass : (!hdrUses (imgDword (fld v 0 1024) 0) region || decide (signatureOf (fld v 0 1024)
      ((regionWords v region).map (·.2)) = fld v (8 * (49280 + 8 * region)) 64)) = true := by
    rw [hdword, Bool.or_eq_true, Bool.not_eq_true', decide_eq_true_eq]
    exact hp
  unfold reloadWords
  simp only [hparts]
  exact ⟨_, if_pos hpass⟩

end reload

/-! ### The reload's count, and its entry in the log -/

theorem raise_reloads (s : State) (f v : Nat) : (s.raise f v).root.reloads = s.root.reloads := by
  unfold State.raise
  split <;> rfl

theorem logIn_reloads (s : State) (f cls sev core unit : Nat) (addr detail : Word) :
    (s.logIn f cls sev core unit addr detail).root.reloads = s.root.reloads := by
  have hset : ∀ (u : State) (f o : Nat) (w : Word), (u.setReg f o w).root = u.root := fun _ _ _ _ => rfl
  have hstore : ∀ (a v t : Nat), ({ s.homeStore a 32 v with tick := t } : State).root = s.root := fun _ _ _ => rfl
  unfold State.logIn
  dsimp only
  split
  · rfl
  split
  · rw [hset]
  split
  · rw [raise_reloads, hset, hstore]
  · rw [hset, hstore]

theorem elogCore_reloads (s : State) (c : CoreId) (cls sev unit : Nat) (addr detail : Word) :
    (s.elogCore c cls sev unit addr detail).root.reloads = s.root.reloads := by
  unfold State.elogCore State.elog
  dsimp only
  rw [logIn_reloads]
  split
  · rfl
  · rw [logIn_reloads]

/-- The fabric with a region of its running plane reloaded (R325). -/
def reloadedFab (a : BitVec 2) (p : Plane) (g : Grid) (r : BitVec 4) (more : List (BitVec 4)) (ws : List (Nat × BitVec 96))
    (k : Core) : Core :=
  { k with fab := { k.fab with
      planes := k.fab.planes.set a.toNat (some (p.reload r.toNat ws))
      grid := some { g.reloaded r.toNat ws with reload := more } } }

/-- R325: a region is reloaded. -/
theorem exec_regionReloadDone {s : State} {c : CoreId} {g : Grid} {r : BitVec 4} {more : List (BitVec 4)} {a : BitVec 2} {p : Plane}
    {ws : List (Nat × BitVec 96)} (hg : (s.core c).fab.grid = some g) (hz : g.frozen = false) (hl : g.reload = r :: more)
    (ha : (s.core c).fab.active = some a) (hp : (s.core c).fab.planes[a.toNat] = some p)
    (hw : reloadWords (({ s with cur := c } : State).ctxOf c) p.img r.toNat { s with cur := c } = .ok (some ws) { s with cur := c }) :
    ∃ t, exec (.regionReloadDone c) s = .next t ∧ t.root.reloads = s.root.reloads + 1 ∧
      t.core c = reloadedFab a p g r more ws (s.core c) := by
  let u : State := ({ s with cur := c } : State).modSelf (reloadedFab a p g r more ws)
  let v : State := { u with root := { u.root with reloads := u.root.reloads + 1 } }
  have hgrid := runningGrid_ok (s := { s with cur := c }) hg hz
  refine ⟨{ v.elogCore c 5 0 r.toNat (toWord p.img) 0 with cur := s.cur }, eventOn_ok ?_, elogCore_reloads _ _ _ _ _ _ _, ?_⟩
  · have hactive : (({ s with cur := c } : State).self.fab.active.bind fun a =>
        (({ s with cur := c } : State).self.fab.plane a).map fun p => (a, p)) = some (a, p) := by
      change ((s.core c).fab.active.bind fun a => ((s.core c).fab.plane a).map fun p => (a, p)) = some (a, p)
      rw [ha, Option.bind_some, Fabric.plane, hp]
      rfl
    simp only [X.bind_apply, hgrid, hl, X.self_apply, hactive, selfCtx, X.get_apply, X.pure_apply, hw, modFab, X.modSelf_apply,
      X.modify_apply]
    rfl
  · rw [State.core, State.elogCore, State.elog_cores]
    exact State.modCore_core_same { s with cur := c } c _


end Sys2Proof.Proofs
end

section
/-! The forms of the fabric together (O60). -/

namespace Sys2Proof.Proofs
open Sys2Proof.Machine Sys2Proof.Claim

/-! ### The fabric's instructions and events -/

theorem freezeFop_grid {k : Core} {g : Grid} (port : Nat) (hf : g.first = none) :
    (k.freezeFop g port none).fab.grid = some { g with frozen := true, flags := 0 } := by
  rw [← hf]
  rfl

theorem fopDone_grid (k : Core) (g : Grid) : (k.fopDone g).fab.grid = none := by
  rw [Core.fopDone]

theorem modSelf_const (s : State) (f : Core → Core) : s.modSelf f = s.modSelf fun _ => f s.self := State.modSelf_congr s rfl

theorem imageResult_status (img v : Nat) : toWord (imageResult img v).1 =
    if (headerOk v && wordsOk v) = false then 3 else if signaturesOk v = false then 2 else 0 := by
  unfold imageResult
  split
  · rfl
  · split <;> rfl

/-- R350, R352: what a FABRIC trap leaves. -/
theorem fabricTrapped_leaves (k : Core) (g : Grid) (reason region : Nat) : let u := fabricTrapped k g reason region
    u.fab.grid = none ∧ u.priv = .super ∧ u.csrAt 0x100 = causeWord false causeFabric ∧
      u.csrAt 0x101 = fabricValue reason region g.slot ∧ u.pc = canon56 (k.csrAt 0x104) ∧ u.x = k.x := by
  have hsame := dropFop_same k g
  have hleft := enterTrap_leaves (k.dropFop g) false causeFabric (fabricValue reason region g.slot) k.pc
  dsimp only at hleft ⊢
  rw [fabricTrapped]
  obtain ⟨hpriv, hcause, htval, hpc, hx, hfab⟩ := hleft
  rw [hpriv, hcause, htval, hpc, hx, hfab, hsame.x, hsame.csr 0x104 (by decide), dropFop_grid]
  exact ⟨rfl, rfl, rfl, rfl, rfl, rfl⟩

theorem idled_slot (g : Grid) (v : Vector Nat 16) : (idled g v).slot = g.slot := rfl

theorem fabricCompletes : Sys2Proof.Claim.FabricCompletes := by
  unfold Sys2Proof.Claim.FabricCompletes
  intro c f s g
  dsimp only
  refine ⟨?bind, ?complete, ?stop, ?escape, ?reload⟩
  case bind =>
    intro v hr hf ha hc hl hs hv hlt
    obtain ⟨hreplies, hx, hpc⟩ := fbindDone_leaves f (s.self.rd f.xa) (imageResult (imageName (s.self.rd f.xa)) v) s.self
    refine ⟨_, _, (exec_fbind hr hf ha hc hl hs hv hlt).trans (congrArg _ (modSelf_const s _)), hreplies, hx, hpc, ?_⟩
    exact imageResult_status _ _
  case complete =>
    rintro ⟨hg, hz⟩ hr hw hf he ho cycles
    have hsame := fopDone_same (s.core c) g
    refine ⟨_, exec_fopComplete hg hz hr hw hf he ho cycles, ?_, hsame.retire_pc g.size, ?_⟩
    · rw [Core.retire_fab, fopDone_grid]
    · rw [Core.retire_x, hsame.x]
  case stop =>
    rintro ⟨hg, hz⟩ hr hf ho hp
    have hsame := freezeFop_same (s.core c) g 255 none
    exact ⟨_, exec_fopStop hg hz hr hf ho hp, freezeFop_grid 255 hf, hsame.pc, hsame.x⟩
  case escape =>
    rintro r ⟨hg, hz⟩ - hf ho hr hj ht
    have hleft := fabricTrapped_leaves (s.core c) (idled g (rested g.idle)) 4 r.toNat
    rw [idled_slot] at hleft
    exact ⟨_, exec_escapeTimeout hg hz hf ho hr hj ht, hleft⟩
  case reload =>
    rintro r more q p v ⟨hg, hz⟩ hl ha hp hd hs hh hw hsig hpass
    have hpasses : reloadPasses v r.toNat := by
      rw [reloadPasses, regionWords_values]
      exact hpass
    obtain ⟨ws, hws⟩ := reloadWords_stands (s := { s with cur := c }) (region := r.toNat) hs hd hh hw hsig hpasses
    obtain ⟨t, hexec, hcount, hcore⟩ := exec_regionReloadDone hg hz hl ha hp hws
    refine ⟨t, hexec, hcount, ?_, ?_, ⟨{ g.reloaded r.toNat ws with reload := more }, ?_, rfl, rfl⟩⟩
    · rw [hcore, reloadedFab]
    · rw [hcore, reloadedFab]
    · rw [hcore, reloadedFab]

end Sys2Proof.Proofs
end

section
/-! Walks over memory at rest (O60). -/

namespace Sys2Proof.Proofs
open Sys2Proof.Machine Sys2Proof.Claim

/-! ### Walks through calm memory -/

theorem inDevice_lt {a : Nat} (h : inDevice a = true) : a < 2 ^ 42 := by
  have := of_decide_eq_true h
  unfold deviceEnd at this
  omega

/-- R156: hardware reads calm device memory as it stands. -/
theorem homeRead_calm {s : State} (hs : calm s) {a : Nat} (ha : a < 2 ^ 42) {n : Nat} (hn : 0 < n) (t : Option (BitVec 6)) :
    s.ms.homeRead a n t = (s.ms, s.ms.mem.read a n, false) := by
  simp only [MemSys.homeRead, homeAt_none (noLine_of_homes hs.1 a n) hn t, recall_calm hs, rd_device ha, poisoned_calm hs]

/-- A table entry of a walk, as the walk reads it. -/
theorem entry_read {s : State} (hs : calm s) {t : BitVec 6} {va : Word} {lvl table : Nat}
    (ht : s.inTables t (table + 8 * walkIndex va lvl) 8 = true) :
    ∃ v, s.ms.homeRead (s.localize (table + 8 * walkIndex va lvl)) 8 (some t) = (s.ms, v, false) ∧
      toWord v = entryAt s va lvl table := by
  have hdev : inDevice (s.localize (table + 8 * walkIndex va lvl)) = true := by
    rw [State.inTables, Bool.and_eq_true, Bool.and_eq_true] at ht
    exact ht.1.1
  exact ⟨_, homeRead_calm hs (inDevice_lt hdev) (by decide) _, rfl⟩

/-- A walk that reaches a leaf changes nothing. -/
theorem walkLevels_walks {s : State} {c : Ctx} {va : Word} {pte : Word} {level : Nat} (hs : calm s) (kind : Nat) {ls : List Nat}
    {table : Nat} (hw : walks s c.tenant va ls table pte level) (path : List WalkEntry) :
    ∃ a p, walkLevels c va kind ls table path s = .ok ⟨pte, level, a, p⟩ s := by
  induction ls generalizing table path with
  | nil => exact hw.elim
  | cons lvl rest ih =>
    obtain ⟨htables, hreserved, hvalid, hnext⟩ := hw
    obtain ⟨v, hread, hentry⟩ := entry_read hs htables
    have hres : (bits (toWord v) 61 3 == 0) = true := by rw [hentry, hreserved]; rfl
    have hval : pteV (toWord v) = true := by rw [hentry]; exact hvalid
    simp only [walkLevels, X.bind_apply, X.get_apply, htables, X.require_true, hread, X.modify_apply, Bool.not_false, hres, hval,
      X.ite_apply, X.pure_apply]
    split at hnext
    · rename_i hleaf
      obtain ⟨rfl, rfl⟩ := hnext
      rw [if_pos (by simpa [hentry] using hleaf), hentry]
      exact ⟨_, _, rfl⟩
    · rename_i hleaf
      rw [if_neg (by simpa [hentry] using hleaf), hentry]
      exact ih hnext _

theorem walk_walks {s : State} {c : Ctx} {va : Word} {pte : Word} {level : Nat} (hs : calm s) (hp : s.ms.pwc = []) (kind : Nat)
    (hw : walks s c.tenant va [4, 3, 2, 1, 0] (c.root * 4096) pte level) :
    ∃ a p, walk c va kind s = .ok ⟨pte, level, a, p⟩ s := by
  obtain ⟨a, p, h⟩ := walkLevels_walks hs kind hw []
  refine ⟨a, p, ?_⟩
  simp only [walk, X.bind_apply, X.get_apply, hp, List.find?_nil, h]

/-- A read sets no bit of an entry that has A (R32). -/
theorem setAD_accessed {c : Ctx} {l : Leaf} {s : State} (h : pteA l.pte = true) : setAD c l 0 s = .ok l.pte s := by
  have hsame : l.pte ||| 0x10 ||| (if (0 == 1 || 0 == 3) = true then 0x20 else 0) = l.pte := by
    have hbit : (0x10 : Word) = BitVec.twoPow 64 4 := rfl
    ext i hi
    by_cases hi4 : i = 4
    · subst hi4
      have : l.pte[4] = true := h
      simp [this]
    · simp [hbit, BitVec.getElem_twoPow, hi4]
  rw [setAD, hsame, if_pos rfl]
  rfl

/-- The state after a walk: the page in the L1 TLB of the core and the L2 TLB of its cluster, the path in the page-walk cache of its
die (R34). -/
def walkCached (s : State) (c : Ctx) (t : TlbEntry) (path : List WalkEntry) : State :=
  ((s.l1Install c.core t).l2Install (clusterOf c.core) t).pwcInstall (dieOf c.core) path

theorem resolveGlobal_walks {s : State} {c : Ctx} {va : Word} {q : Ask} {pte : Word} {level : Nat} (hq : q.kind = 0)
    (hw : walked s c va q pte level) (b : Bool) :
    ∃ path, resolveGlobal c va { q with rewalk := b } anyFormat s =
      .ok ⟨pte, level, s.leafAddr pte level va, s.leafAddr pte level va, va⟩ (walkCached s c (tlbOf c va pte level) path) := by
  obtain ⟨hcanon, htlb, hl2, hpwc, hs, hwalks, hleaf, hwin, hperm, hfmt, hhost, htb, ha, hmmio, hdev⟩ := hw
  obtain ⟨at_, path, hwalk⟩ := walk_walks hs hpwc q.kind hwalks
  have hmiss : tlbLookup c va q.kind s = .ok none s := by simp [tlbLookup, htlb, hl2]
  have hwin' : s.leafWindow c pte (leafRaw pte level va) { q with rewalk := b } = true := hwin
  have hfmt' : formatOk pte (s.leafAddr pte level va) { q with rewalk := b } = true := hfmt
  have had : setAD c ⟨pte, level, at_, path⟩ q.kind s = .ok pte s := by
    rw [hq]
    exact setAD_accessed ha
  refine ⟨path, ?_⟩
  cases b <;>
    simp only [resolveGlobal, X.bind_apply, hcanon, X.require_true, Machine.translate, hmiss, hwalk, X.get_apply, hleaf, hwin', hperm,
      hhost, Bool.false_eq_true, if_false, if_true, X.pure_apply, had, X.modify_apply, hfmt', anyFormat, Bool.and_self] <;>
    rfl

end Sys2Proof.Proofs
end

section
/-! A page walk, and a blocked head read again (O60). -/

namespace Sys2Proof.Proofs
open Sys2Proof.Machine Sys2Proof.Claim

/-! ### A page walk (R29, R34) -/

/-- The caches of translations, and of the core that walks, are all that a walk changes. -/
theorem walkCached_eq (s : State) (c : Ctx) (t : TlbEntry) (path : List WalkEntry) : walkCached s c t path =
    { s with cores := (walkCached s c t path).cores, ms := { s.ms with
        l2tlb := (walkCached s c t path).ms.l2tlb, pwc := (walkCached s c t path).ms.pwc } } := rfl

theorem walkCached_other (s : State) (c : Ctx) (t : TlbEntry) (path : List WalkEntry) {d : CoreId} (h : d ≠ c.core) :
    (walkCached s c t path).core d = s.core d := by
  change (s.l1Install c.core t).core d = s.core d
  exact State.modCore_core_other s _ h

theorem pageWalk_completes {c : CoreId} {va : BitVec 56} {s : State} {pte : Word} {level : Nat} (ht : (s.core c).tk.task ≠ none)
    (hw : walked s (s.ctxOf c) (va.signExtend 64) { kind := 0, n := 1, rewalk := true } pte level) : ∃ t,
    exec (.pageWalk c va) s = .next t ∧ tlbOf (s.ctxOf c) (va.signExtend 64) pte level ∈ (t.core c).cache.tlb ∧
      t.ms.mem = s.ms.mem ∧ t = { s with cores := t.cores, ms := t.ms } ∧
      t.core c = { s.core c with cache := (t.core c).cache } ∧ ∀ d, d ≠ c → t.core d = s.core d := by
  obtain ⟨path, hres⟩ := resolveGlobal_walks rfl hw true
  obtain ⟨hcached, hcore⟩ := resolveGlobal_walked rfl hres
  have heq := walkCached_eq s (s.ctxOf c) (tlbOf (s.ctxOf c) (va.signExtend 64) pte level) path
  refine ⟨_, exec_pageWalk ht hres, hcached, ?_, ?_, hcore, fun d hd => walkCached_other s _ _ path hd⟩
  · rw [heq]
  · rw [heq]

/-! ### The Dealer's look at a counter (R384) -/

/-- Nothing has changed but cores and the caches of translations. -/
def onlyTranslations (s u : State) : Prop :=
  u = { s with cores := u.cores, ms := { s.ms with l2tlb := u.ms.l2tlb, pwc := u.ms.pwc } }

/-- A quiet step that changes nothing else changes nothing. -/
theorem quiet_ok {α : Type} {m : X α} {s u : State} {a : α} (h : m s = .ok a u) (hu : onlyTranslations s u) :
    quiet m s = .ok a s := by
  rw [onlyTranslations] at hu
  simp only [quiet, h]
  rw [hu]

theorem fire_calm {ms : MemSys} (h : ms.monitors = []) (a n : Nat) : ms.fire a n = ms := by
  rw [MemSys.fire, h, List.map_nil, ← h]

/-- A read at the MSU of calm device memory, in the Dealer's name. -/
theorem msuOp_calm {c : Ctx} {h : Hit} {t : BitVec 6} {s : State} (hs : calm s) (hc : c.who = .dealer t) (hr : h.ga < 2 ^ 42)
    (n : Nat) :
    msuOp c h n (fun _ => none) true s =
      .ok (s.ms.mem.read h.ga n) (s.modCore c.core fun k => k.l1DropAddr h.ga n) := by
  have hhost : ¬hostBase ≤ h.ga := by unfold hostBase; omega
  have hsquash : ∀ w, squashAhead c w n s = .ok () s := fun w => by rw [squashAhead, hc]; rfl
  have hfree : s.ms.hdm.find? (fun l => lineOf h.ga ≤ l && l ≤ lineOf (h.ga + n - 1)) = none := by
    obtain ⟨-, -, -, hhdm, -⟩ := hs
    rw [hhdm, List.find?_nil]
  have hmon : s.ms.fire h.ga n = s.ms := fire_calm hs.2.2.2.2 _ _
  simp only [msuOp, X.bind_apply, if_true, hsquash, notRemote hr, Bool.false_eq_true, if_false, bisnpCheck, X.get_apply, hfree,
    X.pure_apply, hhost, decide_false, Bool.false_and, MemSys.msuRead, recall_calm hs, rd_device hr, poisoned_calm hs, X.set_apply,
    Bool.not_false, X.require_true, X.modify_apply, State.modCore_ms, hmon]
  rfl

theorem dealerMsu_walked {s : State} {t : BitVec 6} {va : Word} {pte : Word} {level : Nat}
    (hw : walked s (s.dealerCtx t) va { kind := 0, n := 8, msu := true } pte level) :
    dealerMsu t 0 va (fun _ => none) s = .ok (some (s.ms.mem.read (s.leafAddr pte level va) 8)) s := by
  obtain ⟨path, hres⟩ := resolveGlobal_walks rfl hw true
  obtain ⟨-, -, -, -, hs, -, -, -, -, -, -, htb, -, -, hdev⟩ := hw
  have heq := walkCached_eq s (s.dealerCtx t) (tlbOf (s.dealerCtx t) va pte level) path
  have hcalm : calm (walkCached s (s.dealerCtx t) (tlbOf (s.dealerCtx t) va pte level) path) := by
    rw [calm, heq]
    exact hs
  have hmem : (walkCached s (s.dealerCtx t) (tlbOf (s.dealerCtx t) va pte level) path).ms.mem = s.ms.mem := by rw [heq]
  have hmsu := msuOp_calm (c := s.dealerCtx t) (h := ⟨pte, level, s.leafAddr pte level va, s.leafAddr pte level va, va⟩) (t := t)
    hcalm rfl hdev 8
  generalize walkCached s (s.dealerCtx t) (tlbOf (s.dealerCtx t) va pte level) path = u at *
  have hread : (do
      let h ← resolveGlobal (s.dealerCtx t) va { kind := 0, n := 8, msu := true, rewalk := true } anyFormat
      require (!(pteTb h.pte)) causeAccess 0
      msuOp (s.dealerCtx t) h 8 (fun _ => none) : X Nat) s = .ok (s.ms.mem.read (s.leafAddr pte level va) 8)
        (u.modCore (s.dealerCtx t).core fun k => k.l1DropAddr (s.leafAddr pte level va) 8) := by
    rw [X.bind_apply, hres]
    simp only [X.bind_apply, htb, Bool.not_false, X.require_true, hmsu, hmem]
  have honly : onlyTranslations s (u.modCore (s.dealerCtx t).core fun k => k.l1DropAddr (s.leafAddr pte level va) 8) := by
    rw [onlyTranslations]
    conv_lhs => rw [heq]
    rfl
  simp only [dealerMsu, quiet_ok hread honly]

/-! ### A blocked head read again -/

section head
variable {s : State} {t : Task} {u : BitVec 6} {g : Nat} {v : Nat}

theorem readCounters_one (hn : t.ndep = 1) (hm : dealerMsu t.tenant 0 (t.waitAt 0) (fun _ => none) s = .ok (some v) s) :
    readCounters t s = .ok (some (v == 0)) s := by
  rw [readCounters, hn]
  simp only [List.range_one, List.foldlM_cons, List.foldlM_nil, X.bind_apply, hm, X.pure_apply, Bool.true_and]

theorem setBlk_ring (hq : t.q = .ring u g) (s : State) (b : Bool) : s.setBlk t b = s := by
  rw [State.setBlk, hq]

/-- The one task replaced. -/
theorem putTask_one (h : s.dealer.tasks = [t]) {t' : Task} (hid : t'.id = t.id) :
    s.putTask t' = { s with dealer := { s.dealer with tasks := [t'] } } := by
  rw [State.putTask, h, List.map_singleton, hid, beq_self_eq_true, if_pos rfl]

theorem judgeHead_ready (ht : s.dealer.tasks = [t]) (hq : t.q = .ring u g) (hr : readCounters t s = .ok (some true) s) :
    judgeHead t s = .ok () { s with dealer := { s.dealer with
      clock := s.dealer.clock + 1
      tasks := [{ t with st := .ready, since := s.dealer.clock + 1, age := 0, polled := 0, due := false }] } } := by
  simp only [judgeHead, X.bind_apply, hr, X.modify_apply, setBlk_ring hq]
  exact congrArg (EStateM.Result.ok ()) (putTask_one (t := t) (by exact ht) (by rfl))

theorem judgeHead_blocked (ht : s.dealer.tasks = [t]) (hq : t.q = .ring u g) (hb : t.st = .blocked)
    (hr : readCounters t s = .ok (some false) s) :
    judgeHead t s = .ok () { s with dealer := { s.dealer with tasks := [{ t with polled := 0, due := false }] } } := by
  have hstill : ({ t with st := .blocked, polled := 0, due := false } : Task) = { t with polled := 0, due := false } := by rw [hb]
  simp only [judgeHead, X.bind_apply, hr, X.modify_apply, setBlk_ring hq, hstill]
  exact congrArg (EStateM.Result.ok ()) (putTask_one (t := t) (by exact ht) (by rfl))

theorem exec_reread (ht : s.dealer.tasks = [t]) (hb : t.st = .blocked) (hd : t.due = true ∨ 16 ≤ t.polled) {w : State}
    (hj : judgeHead t s = .ok () w) : exec (.blockedHeadReread t.q) s = .next w := by
  have hdue : (t.due || decide (16 ≤ t.polled)) = true := by simpa using hd
  refine event_of_ok ?_
  simp only [X.bind_apply, X.get_apply, ht, List.find?_cons, beq_self_eq_true, hb, Bool.and_self, hdue, whenever_true, hj]

end head

end Sys2Proof.Proofs
end

section
/-! A copy suspended (O60). -/

namespace Sys2Proof.Proofs
open Sys2Proof.Machine Sys2Proof.Claim

/-! ### A copy whose reply page is missing (R301) -/

theorem canonical_canon56 (a : Word) : canonical (canon56 a) = true := by
  rw [canonical, beq_iff_eq, canon56, canon56]
  congr 1
  ext i hi
  simp only [BitVec.getElem_extractLsb', BitVec.getLsbD_signExtend, BitVec.getLsbD_extractLsb']
  simp [show i < 56 from hi, show i < 64 by omega]

section missing
variable {s : State} {x : Ctx} {va : Word} {q : Ask}

/-- A walk whose first entry is not valid. -/
theorem walk_notValid (hs : calm s) (hp : s.ms.pwc = []) (kind : Nat)
    (ht : s.inTables x.tenant (x.root * 4096 + 8 * walkIndex va 4) 8 = true) (hr : bits (entryAt s va 4 (x.root * 4096)) 61 3 = 0)
    (hv : pteV (entryAt s va 4 (x.root * 4096)) = false) :
    walk x va kind s = .error (.trap causePage (syndrome 0 4 kind va.toNat)) s := by
  obtain ⟨v, hread, hentry⟩ := entry_read hs ht
  have hres : (bits (toWord v) 61 3 == 0) = true := by rw [hentry, hr]; rfl
  have hval : pteV (toWord v) = false := by rw [hentry]; exact hv
  simp only [walk, X.bind_apply, X.get_apply, hp, List.find?_nil, walkLevels, ht, X.require_true, hread, X.modify_apply,
    Bool.not_false, hres, hval, X.require_false]

theorem resolveGlobal_notValid (hc : canonical va = true) (hs : calm s) (htlb : (s.core x.core).cache.tlb = [])
    (hl2 : s.ms.l2tlb = []) (hp : s.ms.pwc = [])
    (ht : s.inTables x.tenant (x.root * 4096 + 8 * walkIndex va 4) 8 = true) (hr : bits (entryAt s va 4 (x.root * 4096)) 61 3 = 0)
    (hv : pteV (entryAt s va 4 (x.root * 4096)) = false) (ok : Word → Nat → Bool) :
    resolveGlobal x va q ok s = .error (.trap causePage (syndrome 0 4 q.kind va.toNat)) s := by
  have hmiss : tlbLookup x va q.kind s = .ok none s := by simp [tlbLookup, htlb, hl2]
  have hwalk := walk_notValid hs hp q.kind ht hr hv
  cases hb : q.rewalk <;>
    simp only [resolveGlobal, X.bind_apply, hc, X.require_true, Machine.translate, hb, hmiss, hwalk, Bool.false_eq_true, if_false, if_true,
      X.pure_apply]

end missing

/-- The core after the suspension of its one copy for a fault (R90, R301). -/
def copySuspended (o : CopyOp) (status : BitVec 4) (syn : Word) (k : Core) : Core :=
  let p := { o with phase := .suspended, resumed := false }
  let k := k.suspendSides p
  let k := { k with eng := { k.eng with copies := k.eng.copies.map fun (q : CopyOp) => if q.h == o.h then p else q } }
  (k.setHandle o.h { (k.handle o.h) with status := status, detail := BitVec.ofNat 32 p.u }).postEngine o.h status 0 syn

theorem suspendSides_eq (k : Core) (o : CopyOp) : ∃ ts, k.suspendSides o = { k with tiles := ts } := by
  unfold Core.suspendSides
  cases o.dstTile <;> cases o.srcTile <;> cases o.keep <;> exact ⟨_, rfl⟩

/-- R301: what a suspension leaves. -/
theorem copySuspended_leaves (k : Core) {o : CopyOp} (ho : k.eng.copies = [o]) (hu : o.u = 0) (status : BitVec 4) (syn : Word) :
    let u := copySuspended o status syn k
    u.eng.copies = [{ o with phase := .suspended, resumed := false }] ∧ u.eng.events = k.eng.events ++ [⟨o.h, status, 0, syn⟩] ∧
      u.handle o.h = { (k.handle o.h) with status := status, detail := 0 } ∧ u.x = k.x ∧ u.pc = k.pc ∧ u.vec = k.vec := by
  obtain ⟨ts, hts⟩ := suspendSides_eq k { o with phase := .suspended, resumed := false }
  unfold copySuspended
  dsimp only
  rw [hts]
  dsimp only
  refine ⟨?_, rfl, ?_, rfl, rfl, rfl⟩
  · simp only [Core.postEngine, Core.setHandle, ho, List.map_singleton, beq_self_eq_true, if_true]
  · simp only [Core.postEngine, Core.setHandle, Core.handle, hu, Vector.getElem_set_self]
    rfl

section suspend
variable {s : State} {c : CoreId} {o : CopyOp}

theorem exec_copySuspend {status : BitVec 4} {syn : Word} (ho : (s.core c).eng.copies = [o]) (hp : o.phase = .running)
    (hrun : copyRun (o.ctx (s.core c).tk.tenant c) o { s with cur := c } = (.fault status syn, o, { s with cur := c })) :
    exec (.copySuspend c o.h) s = .next (s.setCore c (copySuspended o status syn (s.core c))) := by
  have hcopy : ({ s with cur := c } : State).self.runningCopy o.h = some o := by
    change (s.core c).runningCopy o.h = some o
    rw [Core.runningCopy, ho, List.find?_cons_of_pos (by simp [hp])]
  have htenant : ({ s with cur := c } : State).self.tk.tenant = (s.core c).tk.tenant := rfl
  refine eventOn_modSelf (f := copySuspended o status syn) ?_
  simp only [X.bind_apply, X.self_apply, hcopy, X.get_apply, htenant, hrun, X.set_apply, X.modSelf_apply]
  rfl

/-- The reply's translation comes first (R298). -/
theorem copyRun_notValid {x : Ctx} (hr : o.reply ≠ 0) (ha : o.reply.toNat % 8 = 0) (hn : o.rep = none) {e : Stop}
    (hres : resolveGlobal x (canon56 o.reply) { kind := 1, n := 8, noMmio := true, rewalk := o.resumed } anyFormat s = .error e s) :
    copyRun x o s = (copyStop o.u e, o, s) := by
  have halign : (bits o.reply 0 3 == 0) = true := by
    rw [beq_iff_eq, bits, BitVec.extractLsb'_toNat, Nat.shiftRight_zero]
    exact ha
  have hreplies : (!o.replies || o.rep.isSome) = false := by
    rw [CopyOp.replies, halign, hn]
    simpa using hr
  have hpin : copyPin o x s = .error e s := by
    simp only [copyPin, hreplies, Bool.false_eq_true, if_false, X.bind_apply, hres]
  simp only [copyRun, hpin]

/-- A copy whose reply page is not valid is suspended with the fault (R301, R46). -/
theorem copySuspend_completes (ho : (s.core c).eng.copies = [o]) (hp : o.phase = .running) (hr : o.reply ≠ 0)
    (ha : o.reply.toNat % 8 = 0) (hn : o.rep = none) (htlb : (s.core c).cache.tlb = []) (hl2 : s.ms.l2tlb = [])
    (hpwc : s.ms.pwc = []) (hs : calm s)
    (ht : s.inTables (s.core c).tk.tenant (o.ptroot * 4096 + 8 * walkIndex (canon56 o.reply) 4) 8 = true)
    (hres : bits (entryAt s (canon56 o.reply) 4 (o.ptroot * 4096)) 61 3 = 0)
    (hv : pteV (entryAt s (canon56 o.reply) 4 (o.ptroot * 4096)) = false) :
    exec (.copySuspend c o.h) s =
      .next (s.setCore c (copySuspended o stPAGE (syndrome 0 4 1 (canon56 o.reply).toNat) (s.core c))) := by
  have hfault := resolveGlobal_notValid (s := { s with cur := c }) (x := o.ctx (s.core c).tk.tenant c)
    (q := { kind := 1, n := 8, noMmio := true, rewalk := o.resumed }) (canonical_canon56 o.reply) hs htlb hl2 hpwc ht hres hv anyFormat
  have hrun := copyRun_notValid hr ha hn hfault
  exact exec_copySuspend ho hp hrun

end suspend

end Sys2Proof.Proofs
end

section
/-! A flush with nothing dirty (O60). -/

namespace Sys2Proof.Proofs
open Sys2Proof.Machine Sys2Proof.Claim

/-! ### The generation counted up (R111) -/

/-- The low 16 bits of the eight bytes at an address replaced. -/
def bumped (m : Mem) (a g : Nat) : Mem := m.write a 8 (putFld (m.read a 8) 0 16 g)

theorem bumped_read (m : Mem) (a g : Nat) : (bumped m a g).read a 2 = g % 2 ^ 16 := by
  have hpart := read_part (bumped m a g) (a := a) (i := 0) (l := 2) (n := 8) (by decide)
  have hmod := fld_mod (w := 16) (v := putFld (m.read a 8) 0 16 g) (j := 0) (n := 4) (by decide)
  rw [Nat.add_zero] at hpart
  rw [hpart, bumped, Mem.write_read, show (256 : Nat) ^ 8 = 2 ^ (4 * 16) by norm_num]
  exact hmod.trans (fld_putFld_same _ _ _ _)

theorem read_byte (m : Mem) (a : Nat) : m.read a 1 = (m.get a).toNat := by
  rw [Mem.read, Mem.read, Nat.mul_zero, Nat.add_zero]

theorem bumped_get (m : Mem) (a g : Nat) {b : Nat} (h : b < a ∨ a + 2 ≤ b) : (bumped m a g).get b = m.get b := by
  by_cases hin : b < a ∨ a + 8 ≤ b
  · exact Mem.write_get_other m a 8 _ hin
  · obtain ⟨i, rfl⟩ : ∃ i, b = a + i := ⟨b - a, by omega⟩
    refine BitVec.eq_of_toNat_eq ?_
    rw [← read_byte, ← read_byte, read_part _ (show i + 1 ≤ 8 by omega), read_part m (show i + 1 ≤ 8 by omega), bumped,
      Mem.write_read, show (256 : Nat) ^ 8 = 2 ^ (8 * 8) by norm_num]
    exact (fld_mod (by omega)).trans (fld_putFld_above (by omega))

section bump
variable {s : State} {x : Ctx} {tid : Nat} {tdt : Word}

/-- R111: with nothing at a home and memory calm the generation is counted up. -/
theorem genBump_calm (hs : calm s) (ha : s.localize (descAddr tdt tid) < 2 ^ 42) :
    ∃ g t, genBump x tid tdt s = .ok g t ∧ t.ms.mem = bumped s.ms.mem (s.localize (descAddr tdt tid))
      ((s.ms.mem.read (s.localize (descAddr tdt tid)) 8 % 2 ^ 16 + 1) % 2 ^ 16) := by
  generalize hplace : s.localize (descAddr tdt tid) = a at ha ⊢
  have hgen : ∀ g, s.ms.hasGen x.tenant x.asid (BitVec.ofNat 16 tid) g = false := fun g => by
    rw [MemSys.hasGen, hs.1, List.any_nil]
  have hmem := portWrite_mem 8 (putFld (s.ms.mem.read a 8) 0 16 ((s.ms.mem.read a 8 % 2 ^ 16 + 1) % 2 ^ 16)) hs.2.1 ha
  simp only [genBump, X.bind_apply, X.get_apply, hplace, MemSys.msuRead, recall_calm hs, rd_device ha, poisoned_calm hs, Bool.not_false,
    X.require_true, hgen, Bool.false_eq_true, if_false, X.set_apply, X.pure_apply]
  exact ⟨_, _, rfl, hmem⟩

end bump

/-! ### A flush with nothing dirty (R112) -/

theorem tryCatch_ok {α : Type} {m : X α} {f : Stop → X α} {s t : State} {a : α} (h : m s = .ok a t) : tryCatch m f s = .ok a t := by
  change EStateM.tryCatch m f s = _
  simp only [EStateM.tryCatch, h]

/-- The core whose one flush has completed. -/
def flushDone (h : BitVec 8) (k : Core) : Core :=
  ({ k with eng := { k.eng with flushes := k.eng.flushes.filter (·.h != h) } }).completeHandle h 0 0

/-- The context of a flush's accesses. -/
def flushCtx (o : FlushOp) (c : CoreId) : Ctx :=
  { tenant := o.tenant, asid := o.asid, root := o.root, tdt := o.tdt, user := !o.super, core := c, who := .thread c }

section flush
variable {s : State} {c : CoreId} {o : FlushOp}

theorem flushLines_calm {u : State} (hs : calm u) (t : BitVec 6) (a i g : BitVec 16) : flushLines t a i g u = .ok 0 u := by
  simp only [flushLines, X.bind_apply, X.get_apply, hs.1, List.filter_nil, List.foldlM_nil, X.pure_apply]

theorem exec_tflushComplete (hf : (s.core c).eng.flushes = [o]) (ha : o.active = true) (hs : calm s) (hn : s.ms.flushFail = [])
    (hp : s.localize (descAddr o.tdt o.tid.toNat) < 2 ^ 42) :
    ∃ t, exec (.tflushComplete c o.h) s = .next t ∧ (∃ u : State, t.core c = flushDone o.h (u.core c) ∧
      (u.core c).x = (s.core c).x ∧ (u.core c).pc = (s.core c).pc ∧ (u.core c).eng = (s.core c).eng) ∧
      t.ms.mem = bumped s.ms.mem (s.localize (descAddr o.tdt o.tid.toNat))
        ((s.ms.mem.read (s.localize (descAddr o.tdt o.tid.toNat)) 8 % 2 ^ 16 + 1) % 2 ^ 16) := by
  have hs' : calm ({ s with cur := c } : State) := hs
  obtain ⟨g, t, hbump, hmem⟩ := genBump_calm (s := { s with cur := c }) (x := flushCtx o c) hs' hp
  have hcores := genBump_cores hbump
  have hfind : ({ s with cur := c } : State).self.eng.flushes.find? (fun p => p.h == o.h && p.active) = some o := by
    change (s.core c).eng.flushes.find? (fun p => p.h == o.h && p.active) = some o
    rw [hf, List.find?_cons_of_pos (by simp [ha])]
  have hsame : ({ s with cur := c, ms := { s.ms with flushFail := [] } } : State) = { s with cur := c } := by rw [← hn]
  have hcur : t.cur = c := by
    rw [hcores]
    rfl
  have hcore : t.core c = ((s.core c).l1DropAddr (s.localize (descAddr o.tdt o.tid.toNat)) 8).l1DropTensor o.tenant o.asid
      (BitVec.ofNat 16 o.tid.toNat) := by
    rw [hcores]
    exact State.modCore_core_same _ _ _
  have hstatus : ∀ f, tryCatch (do let _ ← genBump (flushCtx o c) o.tid.toNat o.tdt; return BitVec.ofNat 4 0 : X (BitVec 4)) f
      { s with cur := c } = .ok 0 t := fun f => tryCatch_ok (by rw [X.bind_apply, hbump]; rfl)
  refine ⟨{ t.modSelf (flushDone o.h) with cur := s.cur }, eventOn_ok ?_, ⟨t, ?_, ?_, ?_, ?_⟩, hmem⟩
  · simp only [X.bind_apply, X.self_apply, hfind, X.get_apply, flushLines_calm hs', hn, List.find?_nil, List.filter_nil, X.set_apply,
      hsame]
    rw [← flushCtx, hstatus]
    rfl
  · exact (congrArg (t.modSelf (flushDone o.h)).core hcur.symm).trans (State.modSelf_self t _ |>.trans (by rw [State.self, hcur]))
  · rw [hcore]
    rfl
  · rw [hcore]
    rfl
  · rw [hcore]
    rfl

end flush

end Sys2Proof.Proofs
end

section
/-! Home lines that keep their places (O60). -/

namespace Sys2Proof.Proofs
open Sys2Proof.Machine Sys2Proof.Claim

/-! ### Home lines that stay where they are (R109) -/

/-- The lines of a bank's set in one of its data entries. -/
def places (ms : MemSys) (bank : Nat × Nat) (set slot : Nat) : Nat :=
  ms.homes.countP (fun h => h.slot == slot && (h.bank == bank && lineSet h.key bank == set)) +
    ms.replicas.countP (fun r => r.slot == slot && (bank == (0, r.cluster.toNat) && lineSet r.key bank == set))

theorem paired_iff (ms : MemSys) (h : HomeLine) : ms.paired h = true ↔ 1 < places ms h.bank (lineSet h.key h.bank) h.slot := by
  rw [MemSys.paired, decide_eq_true_iff, MemSys.inSet, List.filter_append, List.length_append, List.filter_map, List.filter_map,
    List.length_map, List.length_map, List.filter_filter, List.filter_filter, ← List.countP_eq_length_filter,
    ← List.countP_eq_length_filter]
  rfl

/-- Every line has kept its home, bank and data entry, and none has come to another's. -/
structure SamePlaces (m n : MemSys) : Prop where
  gated : n.gated = m.gated
  home : ∀ {key h}, m.home key = some h → ∃ g, n.home key = some g ∧ g.bank = h.bank ∧ g.slot = h.slot
  places : ∀ bank set slot, places n bank set slot ≤ places m bank set slot

/-- The line of a key is resident and alone in its data entry. -/
def alone (ms : MemSys) (key : LineKey) : Prop := ∃ h, ms.home key = some h ∧ ms.paired h = false

theorem home_key {ms : MemSys} {key : LineKey} {h : HomeLine} (hh : ms.home key = some h) : h.key = key := by
  have := List.find?_some hh
  simpa using this

namespace SamePlaces
variable {m n p : MemSys}

theorem refl (m : MemSys) : SamePlaces m m := ⟨rfl, fun h => ⟨_, h, rfl, rfl⟩, fun _ _ _ => le_refl _⟩

theorem trans (h : SamePlaces m n) (h' : SamePlaces n p) : SamePlaces m p where
  gated := h'.gated.trans h.gated
  home := fun hm => by
    obtain ⟨g, hg, hb, hs⟩ := h.home hm
    obtain ⟨f, hf, hb', hs'⟩ := h'.home hg
    exact ⟨f, hf, hb'.trans hb, hs'.trans hs⟩
  places := fun b s e => (h'.places b s e).trans (h.places b s e)

theorem alone (h : SamePlaces m n) {key : LineKey} (ha : alone m key) : alone n key := by
  obtain ⟨l, hl, hp⟩ := ha
  obtain ⟨g, hg, hb, hs⟩ := h.home hl
  refine ⟨g, hg, Bool.eq_false_iff.mpr fun ht => Bool.eq_false_iff.mp hp ?_⟩
  rw [paired_iff] at ht ⊢
  rw [home_key hg, hb, hs] at ht
  rw [home_key hl]
  exact ht.trans_le (h.places _ _ _)

/-- A resident line written in place. -/
theorem putHome {key : LineKey} {h g : HomeLine} (hh : m.home key = some h) (hk : g.key = h.key) (hb : g.bank = h.bank)
    (hs : g.slot = h.slot) : SamePlaces m (m.putHome g) where
  gated := rfl
  home := fun {key' f} hf => by
    have hkey := home_key hh
    by_cases hsame : key' = key
    · subst hsame
      obtain rfl : f = h := Option.some.inj (hf.symm.trans hh)
      refine ⟨g, ?_, hb, hs⟩
      exact List.find?_cons_of_pos (by simp [hk, hkey])
    · refine ⟨f, ?_, rfl, rfl⟩
      have hne : (g.key == key') = false := by
        rw [hk, hkey]
        exact beq_eq_false_iff_ne.mpr (Ne.symm hsame)
      rw [MemSys.home, MemSys.putHome, List.find?_cons, hne, List.find?_filter]
      dsimp only
      rw [← hf, MemSys.home]
      congr 1
      funext e
      by_cases he : e.key = key'
      · simp [he, hk, hkey, hsame]
      · simp [he]
  places := fun bank set slot => by
    refine Nat.add_le_add_right ?_ _
    have hsplit := List.countP_eq_countP_filter_add m.homes
      (fun h => h.slot == slot && (h.bank == bank && lineSet h.key bank == set)) (fun f => f.key != g.key)
    rw [MemSys.putHome, List.countP_cons, hsplit]
    refine Nat.add_le_add_left ?_ _
    split
    · rename_i hin
      refine List.countP_pos_iff.mpr ⟨h, List.mem_filter.mpr ⟨List.mem_of_find?_eq_some hh, by simp [hk]⟩, ?_⟩
      rwa [hk, hb, hs] at hin
    · exact Nat.zero_le _

theorem dropReplica (m : MemSys) (cl : BitVec 6) (key : LineKey) : SamePlaces m (m.dropReplica cl key) where
  gated := rfl
  home := fun h => ⟨_, h, rfl, rfl⟩
  places := fun _ _ _ => Nat.add_le_add_left (List.Sublist.countP_le List.filter_sublist) _

theorem storeBytes {key : LineKey} {h : HomeLine} (hh : m.home key = some h) (off n v : Nat) :
    SamePlaces m (m.storeBytes h off n v) := putHome hh rfl rfl rfl

end SamePlaces

/-- A line alone in its data entry stays there whatever it takes (R109). -/
theorem settleEntry_alone {h : HomeLine} {s : State} (hp : s.ms.paired h = false) (data : BitVec 2048) :
    settleEntry h data s = .ok h s := by
  have hmove : s.ms.mustMove h data = false := by rw [MemSys.mustMove, hp, Bool.and_false]
  simp only [settleEntry, X.bind_apply, X.get_apply, hmove, Bool.false_eq_true, if_false, X.pure_apply]

end Sys2Proof.Proofs
end

section
/-! Stores to resident lines (O60). -/

namespace Sys2Proof.Proofs
open Sys2Proof.Machine Sys2Proof.Claim

/-! ### What the lines of a TST leave of its core (R271) -/

/-- The thread stands, and so do the vector unit, the tiles and the scratchpad. -/
structure SameOperands (k l : Core) : Prop extends SameThread k l where
  vec : l.vec = k.vec
  tiles : l.tiles = k.tiles
  scratch : l.scratch = k.scratch
  clean : l.scratchPoison = k.scratchPoison

namespace SameOperands

theorem refl (k : Core) : SameOperands k k := ⟨SameThread.refl k, rfl, rfl, rfl, rfl⟩

theorem trans {k l m : Core} (h : SameOperands k l) (h' : SameOperands l m) : SameOperands k m :=
  ⟨h.toSameThread.trans h'.toSameThread, h'.vec.trans h.vec, h'.tiles.trans h.tiles, h'.scratch.trans h.scratch, h'.clean.trans h.clean⟩

theorem withCache (k : Core) (c : CoreCache) : SameOperands k { k with cache := c } :=
  ⟨⟨rfl, rfl, rfl, fun _ _ => rfl⟩, rfl, rfl, rfl, rfl⟩

/-- Squashed loads are counted in DRPL alone (R144). -/
theorem squash (k : Core) (w : Store × Nat) (n : Nat) : SameOperands k (k.squash w n) := by
  unfold Core.squash
  dsimp only
  split
  · exact refl k
  · exact ⟨⟨rfl, rfl, rfl, fun m hm => Core.setCsr_csrAt_other k _ (Ne.symm hm.2)⟩, rfl, rfl, rfl, rfl⟩

end SameOperands

/-- A state of a TST's lines: the same core moves, its operands stand, and every line keeps its place. -/
structure Lines (s u : State) : Prop where
  cur : u.cur = s.cur
  core : SameOperands s.self u.self
  places : SamePlaces s.ms u.ms

namespace Lines
variable {s u w : State}

theorem refl (s : State) : Lines s s := ⟨rfl, SameOperands.refl _, SamePlaces.refl _⟩

theorem trans (h : Lines s u) (h' : Lines u w) : Lines s w :=
  ⟨h'.cur.trans h.cur, h.core.trans h'.core, h.places.trans h'.places⟩

/-- A core's cache changed. -/
theorem modCore (h : Lines s u) (c : CoreId) {f : Core → Core} (hf : ∀ k, SameOperands k (f k)) : Lines s (u.modCore c f) := by
  refine h.trans ⟨rfl, ?_, SamePlaces.refl _⟩
  by_cases hc : u.cur = c
  · subst hc
    have hself : (u.modCore u.cur f).self = f u.self := State.modCore_core_same u u.cur f
    exact hself ▸ hf _
  · have hself : (u.modCore c f).self = u.self := State.modCore_core_other u f hc
    exact hself ▸ SameOperands.refl _

theorem modCluster (h : Lines s u) (cl : BitVec 6) {f : Core → Core} (hf : ∀ k, SameOperands k (f k)) : Lines s (u.modCluster cl f) :=
  (((h.modCore _ hf).modCore _ hf).modCore _ hf).modCore _ hf

theorem withMs (h : Lines s u) {ms : MemSys} (hm : SamePlaces u.ms ms) : Lines s { u with ms := ms } :=
  h.trans ⟨rfl, SameOperands.refl _, hm⟩

end Lines

/-- An action that completes and leaves the lines and the operands in place. -/
def Steady (s : State) (m : X Unit) : Prop := ∀ u, Lines s u → ∃ w, m u = .ok () w ∧ Lines s w

theorem Steady.forM {α : Type} {s : State} {f : α → X Unit} {l : List α} (h : ∀ a ∈ l, Steady s (f a)) : Steady s (l.forM f) := by
  induction l with
  | nil => exact fun u hu => ⟨u, rfl, hu⟩
  | cons a l ih =>
    intro u hu
    obtain ⟨w, hw, hl⟩ := h a List.mem_cons_self u hu
    obtain ⟨z, hz, hlz⟩ := ih (fun b hb => h b (List.mem_cons_of_mem a hb)) w hl
    refine ⟨z, ?_, hlz⟩
    change (f a >>= fun _ => l.forM f) u = .ok () z
    simp only [X.bind_apply, hw, hz]

theorem Steady.bind {s : State} {m : X Unit} {f : Unit → X Unit} (hm : Steady s m) (hf : Steady s (f ())) : Steady s (m >>= f) := by
  intro u hu
  obtain ⟨w, hw, hl⟩ := hm u hu
  obtain ⟨z, hz, hlz⟩ := hf w hl
  exact ⟨z, by simp only [X.bind_apply, hw, hz], hlz⟩

/-- A resident line is found at its home (R105). -/
theorem tensorFill_resident {c : Ctx} {d : Desc} {tid n : Nat} {h : HomeLine} {s : State} (hh : s.ms.home (d.key c tid n) = some h)
    (kind : Nat) (addr : Option Nat) (pre : Bool) (first : Option Nat) :
    tensorFill c d tid n kind addr pre first s = .ok h { s with ms := s.ms.putHome h } := by
  simp only [tensorFill, X.bind_apply, X.get_apply, hh, X.modify_apply, X.pure_apply]

theorem home_putHome {ms : MemSys} {key : LineKey} {h : HomeLine} (hh : ms.home key = some h) : (ms.putHome h).home key = some h :=
  List.find?_cons_of_pos (by simp [home_key hh])

/-- A store to a resident line that is alone in its data entry completes (R99, R109). -/
theorem tensorWrite_steady {c : Ctx} {d : Desc} {tid n : Nat} {s : State} (ha : alone s.ms (d.key c tid n)) (hg : s.ms.gated = [])
    (off len v kind : Nat) (addr : Option Nat) : Steady s (tensorWrite c d tid n off len v kind addr) := by
  intro u hu
  obtain ⟨h, hh, -⟩ := hu.places.alone ha
  have hput : SamePlaces u.ms (u.ms.putHome h) := SamePlaces.putHome hh rfl rfl rfl
  have hthere := home_putHome hh
  obtain ⟨g, hgh, hp⟩ := (hu.places.trans hput).alone ha
  obtain rfl : g = h := Option.some.inj (hgh.symm.trans hthere)
  have hfill := tensorFill_resident hh kind addr false none
  by_cases hr : g.inRun off = true
  · have hwritten : SamePlaces u.ms (((u.ms.putHome g).storeBytes g off len v).dropReplica (clusterOf c.core) (d.key c tid n)) :=
      (hput.trans (SamePlaces.storeBytes hthere off len v)).trans (SamePlaces.dropReplica _ _ _)
    have hdone := ((hu.withMs hwritten).modCluster (clusterOf c.core) (f := fun k => k.l1DropReplica (d.key c tid n))
      (fun k => SameOperands.withCache k _)).modCore c.core (f := fun k => k.l1Store (d.key c tid n) off len v)
      (fun k => SameOperands.withCache k _)
    refine ⟨_, ?_, hdone⟩
    have hopen := hdone.places.gated.trans hg
    simp only [tensorWrite, X.bind_apply, hfill, hr, Bool.not_true, Bool.false_eq_true, if_false]
    rw [settleEntry_alone (by exact hp)]
    simp only [X.modify_apply, X.get_apply, MemSys.isGated, hopen, List.any_nil, Bool.and_false, Bool.false_eq_true, if_false, X.pure_apply]
  · refine ⟨_, ?_, hu.withMs hput⟩
    simp only [tensorWrite, X.bind_apply, hfill, hr, Bool.not_false, if_true, X.pure_apply]

theorem squashAhead_steady {s : State} (who : CoreId) (w : Store × Nat) (n : Nat) :
    Steady s (squashAhead (s.ctxOf who) w n) := fun u hu =>
  ⟨u.modCore who fun k => k.squash w n, rfl, hu.modCore who fun k => SameOperands.squash k w n⟩

end Sys2Proof.Proofs
end

section
/-! The lines of a TST (O60). -/

namespace Sys2Proof.Proofs
open Sys2Proof.Machine Sys2Proof.Claim

/-! ### TST line by line (R270, R271) -/

section lines
variable {s : State} {a : LineArgs}

/-- A line of a writable tensor, its home in place, is stored (R271). -/
theorem lineStore_steady {k : Nat} {get : X Nat} (hc : a.c = s.ctxOf s.cur) (hin : a.n + k < a.d.tiles) (hro : a.d.ro = false)
    (hg : s.ms.gated = []) (ha : alone s.ms (a.d.key a.c a.tid (a.n + k)))
    (hget : ∀ u, Lines s u → ∃ v, get u = .ok v u) : Steady s (lineStore a k get) := by
  intro u hu
  obtain ⟨h, hh, -⟩ := hu.places.alone ha
  have hput := hu.withMs (SamePlaces.putHome hh rfl rfl rfl)
  obtain ⟨v, hv⟩ := hget _ hput
  obtain ⟨w, hw, hl⟩ := Steady.forM (l := a.d.runs (a.d.tileCoords (a.n + k))) (f := fun r => do
    squashAhead a.c (.line (a.d.key a.c a.tid (a.n + k)), r.1) r.2.1
    tensorWrite a.c a.d a.tid (a.n + k) r.1 r.2.1 (fld (a.d.cleanLine a.bytes v) (8 * r.1) (8 * r.2.1)) 1 none)
    (fun r _ => (hc ▸ squashAhead_steady s.cur _ _).bind (tensorWrite_steady ha hg _ _ _ _ _)) _ hput
  refine ⟨w, ?_, hl⟩
  simp only [lineStore, lineInside, X.bind_apply, hin, decide_true, X.require_true, hro, Bool.not_false,
    tensorFill_resident hh, hv]
  exact hw

theorem lineLoop_steady {body : Nat → X Unit} (fuel k : Nat) (h : ∀ j, j < k + fuel → Steady s (body j)) {u : State} (hu : Lines s u) :
    ∃ w, lineLoop body fuel k u = (none, w) ∧ Lines s w := by
  induction fuel generalizing k u with
  | zero => exact ⟨u, rfl, hu⟩
  | succ fuel ih =>
    obtain ⟨w, hw, hl⟩ := h k (by omega) u hu
    obtain ⟨z, hz, hlz⟩ := ih (k + 1) (fun j hj => h j (by omega)) hl
    exact ⟨z, by simp only [lineLoop, hw, hz], hlz⟩

/-- Every line from the first (R270): VSTART ends zero. -/
theorem lineForm_steady {body : Nat → X Unit} {count : Nat} (per : Nat) (h0 : s.self.vstart = 0)
    (h : ∀ j, j < count → Steady s (body j)) :
    ∃ w, lineForm count per body (fun _ k => k) s = .ok () (w.modSelf (·.setCsr 0x003 0)) ∧ Lines s w := by
  obtain ⟨w, hw, hl⟩ := lineLoop_steady count 0 (by simpa using h) (Lines.refl s)
  refine ⟨w, ?_, hl⟩
  simp only [lineForm, h0, Nat.zero_div, Nat.sub_zero, hw]

end lines

/-! ### What TST names (R269) -/

theorem descFetch_cached {s : State} {tid : Nat} {d : Desc} (h : described s tid d) (kind addr : Nat) :
    descFetch (s.ctxOf s.cur) tid kind addr s = .ok d s := by
  obtain ⟨ht, -, e, he, rfl⟩ := h
  have hok : tidOk s.self.tdtroot tid = true := by simpa [tidOk] using ht
  have hlive : ((s.core (s.ctxOf s.cur).core).tdtroot == (s.ctxOf s.cur).tdt) = true := beq_self_eq_true _
  have hfind : s.ms.desc.find? (fun e => true && e.cluster == clusterOf (s.ctxOf s.cur).core && e.tenant == (s.ctxOf s.cur).tenant &&
      e.asid == (s.ctxOf s.cur).asid && e.tid.toNat == tid) = some e := by
    simp only [Bool.true_and]
    exact he
  simp only [descFetch, X.bind_apply, X.get_apply, hlive, hfind]
  rw [show tidOk (s.ctxOf s.cur).tdt tid = true from hok]
  rfl

theorem descWell_described {s : State} {tid : Nat} {d : Desc} (h : described s tid d) (kind addr : Nat) :
    descWell (s.ctxOf s.cur) tid kind addr s = .ok d s := by
  obtain ⟨-, hok, -⟩ := id h
  simp only [descWell, X.bind_apply, descFetch_cached h, show d.ok tid (bits (s.ctxOf s.cur).tdt 56 8) = true from hok,
    X.require_true, X.pure_apply]

theorem lineArgs_named {s : State} {f : TT} {d : Desc} {first : Nat} (h : namesLines s f d first) (kind : Nat) :
    lineArgs f kind s = .ok (some ⟨s.ctxOf s.cur, d, bits (s.self.rd f.xa) 48 16, first, f.uvalue, d.tileSize, d.tileBytes⟩) s := by
  obtain ⟨hready, ⟨hd, hin, rfl⟩, -, hcount⟩ := h
  have hgrid : d.inGrid (tileCoordsOf (s.self.rd f.xb) (s.self.rd f.xc)) = true := by
    simpa [Desc.inGrid] using hin
  simp only [lineArgs, X.bind_apply, readX_ok (hready f.xa (by simp)), readX_ok (hready f.xb (by simp)),
    readX_ok (hready f.xc (by simp)), if_neg hcount.ne', selfCtx, X.get_apply, X.pure_apply, tileNamed, descWell_described hd, hgrid,
    X.require_true]

end Sys2Proof.Proofs
end

section
/-! TST from a register and from a tile (O60). -/

namespace Sys2Proof.Proofs
open Sys2Proof.Machine Sys2Proof.Claim

/-! ### TST of resident lines (R270, R271) -/

/-- Completion in sequence leaves VSTART (R225). -/
theorem retire_vstart (k : Core) (n : Nat) : (k.retire n).csrAt 0x003 = k.csrAt 0x003 := by
  have hloop : (k.loopEnd n).csrAt 0x003 = k.csrAt 0x003 := by
    unfold Core.loopEnd
    dsimp only
    split
    · split
      · exact Core.setCsr_csrAt_other k _ (by decide)
      · split
        · split
          · exact (Core.setCsr_csrAt_other _ _ (by decide)).trans (Core.setCsr_csrAt_other k _ (by decide))
          · exact (Core.setCsr_csrAt_other _ _ (by decide)).trans (Core.setCsr_csrAt_other k _ (by decide))
        · exact Core.setCsr_csrAt_other k _ (by decide)
    · split
      · split
        · exact Core.setCsr_csrAt_other k _ (by decide)
        · exact Core.setCsr_csrAt_other k _ (by decide)
      · rfl
  exact (Core.setCsr_csrAt_other (k.loopEnd n) _ (by decide)).trans hloop

/-- What a TST that completes leaves: its core past it, VSTART zero, and its operands (R270). -/
def tstLeaves (f : TT) (k l : Core) : Prop :=
  l.pc = (k.retire (extSize f.ext)).pc ∧ l.csrAt 0x003 = 0 ∧ l.x = k.x ∧ l.vec = k.vec ∧ l.tiles = k.tiles ∧ l.scratch = k.scratch

theorem tstLeaves_retire {f : TT} {k l : Core} (h : SameOperands k l) : tstLeaves f k ((l.setCsr 0x003 0).retire (extSize f.ext)) :=
  ⟨(h.toSameThread.setCsr 0 (by decide)).retire_pc _, (retire_vstart _ _).trans (Core.setCsr_csrAt_same _ _ (by decide)),
    by simpa using h.x, by simpa using h.vec, by simpa using h.tiles, by simpa using h.scratch⟩

theorem exec_tst_of_lines {f : TT} {s w : State} {m : X Unit} (he : exec (.tst f) s = finish (extSize f.ext) (atomically m) s)
    (hm : m s = .ok () (w.modSelf (·.setCsr 0x003 0))) (hw : Lines s w) :
    ∃ z, exec (.tst f) s = .next z ∧ tstLeaves f s.self z.self := by
  refine ⟨_, he.trans (finish_ok (atomically_ok hm)), ?_⟩
  simp only [State.modSelf_self]
  exact tstLeaves_retire hw.core

section tst
variable {s : State} {f : TT} {d : Desc} {first : Nat}

/-- The lines that TST names are in place. -/
def inPlace (s : State) (f : TT) (d : Desc) (first : Nat) : Prop := ∀ j < f.uvalue,
  ∃ h, s.ms.home (d.key (s.ctxOf s.cur) (bits (s.self.rd f.xa) 48 16) (first + j)) = some h ∧ s.ms.paired h = false

/-- What TST looks at once its operands are read (R270). -/
def tstArgs (s : State) (f : TT) (d : Desc) (first : Nat) : LineArgs :=
  ⟨s.ctxOf s.cur, d, bits (s.self.rd f.xa) 48 16, first, f.uvalue, d.tileSize, d.tileBytes⟩

theorem tstLine_steady (hn : namesLines s f d first) (hro : d.ro = false) (hg : s.ms.gated = []) (hp : inPlace s f d first) {j : Nat}
    (hj : j < f.uvalue) {get : X Nat} (hget : ∀ u, Lines s u → ∃ v, get u = .ok v u) :
    Steady s (lineStore (tstArgs s f d first) j get) := by
  obtain ⟨-, -, htiles, -⟩ := hn
  exact lineStore_steady rfl (show first + j < d.tiles by omega) hro hg (hp j hj) hget

/-- From a vector register. -/
theorem exec_tst_register (hn : namesLines s f d first) (hro : d.ro = false) (h0 : s.self.vstart = 0) (hc : s.self.vec.poison = [])
    (hg : s.ms.gated = []) (hp : inPlace s f d first) (hmode : f.mode.getLsbD 0 = false) (hew : s.self.ew ≤ 4)
    (hw : ewWidth s.self.ew = d.w) (hfull : s.self.vec.state f.t.toNat = .full)
    (hfit : f.uvalue * d.tileSize ≤ s.self.capacity f.t.toNat d.w) :
    ∃ z, exec (.tst f) s = .next z ∧ tstLeaves f s.self z.self := by
  have hline : ∀ j, j < f.uvalue → Steady s (do
      let me ← self
      lineStore (tstArgs s f d first) j (do
        match (List.range d.tileSize).flatMap fun p => me.badSources [(f.t.toNat, f.t.toNat, d.w, id)] (j * d.tileSize + p) with
        | c :: _ => trap causeMemUE (regUE c.1 c.2)
        | [] => return fld (me.vec.bitsOf f.t.toNat) (d.w * (j * d.tileSize)) (d.w * d.tileSize))) := by
    intro j hj u hu
    have hclean : u.self.vec.poison = [] := by rw [hu.core.vec, hc]
    refine tstLine_steady hn hro hg hp hj
      (fun v _ => ⟨fld (u.self.vec.bitsOf f.t.toNat) (d.w * (j * d.tileSize)) (d.w * d.tileSize), ?_⟩) u hu
    simp only [Core.badSources_none hclean, List.flatMap_eq_nil_iff.mpr fun _ _ => rfl]
    rfl
  obtain ⟨w, hform, hl⟩ := lineForm_steady d.tileSize h0 hline
  refine exec_tst_of_lines rfl ?_ hl
  have hreg : lineRegister f (tstArgs s f d first) s = .ok () s := by
    simp only [lineRegister, tstArgs, X.bind_apply, X.self_apply, hew, hw, hfit, decide_true, beq_self_eq_true, Bool.and_self,
      X.require_true]
  have hstates : checkStates { word := 0, ew := none, et := 0, srcs := [(f.t.toNat, f.t.toNat, true)], dsts := [] } s = .ok () s := by
    simp [checkStates, hfull, show (RegState.full == RegState.empty) = false from rfl]
  simp only [X.bind_apply, lineArgs_named hn, hmode, Bool.false_eq_true, if_false]
  rw [show lineRegister f ⟨s.ctxOf s.cur, d, bits (s.self.rd f.xa) 48 16, first, f.uvalue, d.tileSize, d.tileBytes⟩ s = .ok () s from hreg]
  simp only [hstates]
  exact hform

/-- From a tile. -/
theorem exec_tst_tile (hn : namesLines s f d first) (hro : d.ro = false) (h0 : s.self.vstart = 0) (hc : s.self.scratchPoison = [])
    (hg : s.ms.gated = []) (hp : inPlace s f d first) (hmode : f.mode.getLsbD 0 = true) (hv : (s.self.tile f.t.toNat).v = true)
    (ht : (s.self.tile f.t.toNat).tenant = s.self.tk.tenant) (hfit : f.uvalue * d.tileBytes ≤ (s.self.tile f.t.toNat).bytes)
    (hst : (s.self.tile f.t.toNat).st = .ready) (hr : (s.self.tile f.t.toNat).readers.toNat < 255) :
    ∃ z, exec (.tst f) s = .next z ∧ tstLeaves f s.self z.self := by
  have hline : ∀ j, j < f.uvalue →
      Steady s (lineStore (tstArgs s f d first) j (namedBytes f.t.toNat (j * d.tileBytes) d.tileBytes)) := by
    intro j hj
    refine tstLine_steady hn hro hg hp hj fun v hl =>
      ⟨v.self.scratchRead ((v.self.tile f.t.toNat).start + j * d.tileBytes) d.tileBytes, ?_⟩
    have hclean : v.self.scratchPoison = [] := by rw [hl.core.clean, hc]
    have hbad : ∀ o n, v.self.scratchBad o n = false := fun o n => by rw [Core.scratchBad, hclean, List.any_nil]
    simp only [namedBytes, X.bind_apply, X.self_apply, X.ite_apply, hbad, Bool.false_eq_true, if_false, X.pure_apply]
  obtain ⟨w, hform, hl⟩ := lineForm_steady d.tileSize h0 hline
  refine exec_tst_of_lines rfl ?_ hl
  have hnamed : namedTile f.t.toNat s = .ok (s.self.tile f.t.toNat) s := by
    simp only [namedTile, X.bind_apply, X.self_apply, hv, ht, beq_self_eq_true, Bool.and_self, if_true, X.pure_apply]
  have hread : namedRead f.t.toNat (s.self.tile f.t.toNat) s = .ok () s := by
    simp only [namedRead, tileLocal, hst, Bool.false_and, Bool.false_eq_true, if_false, X.pure_apply]
  simp only [X.bind_apply, lineArgs_named hn, hmode, if_true, hnamed, hfit, decide_true, X.require_true, hread, hr, X.awaiting_true]
  exact hform

end tst

end Sys2Proof.Proofs
end

section
/-! The forms of the engines together (O60). -/

namespace Sys2Proof.Proofs
open Sys2Proof.Machine Sys2Proof.Claim

/-! ### The engines' forms together (O60) -/

theorem flushDone_flushes {o : FlushOp} {k : Core} (h : k.eng.flushes = [o]) : (flushDone o.h k).eng.flushes = [] := by
  simp [flushDone, Core.completeHandle, Core.setHandle, h]

theorem flushDone_handle (h : BitVec 8) (k : Core) :
    (flushDone h k).handle h = { (k.handle h) with st := .done, status := 0, detail := 0 } := by
  simp only [flushDone, Core.completeHandle, Core.setHandle, Core.handle, Vector.getElem_set_self]
  rfl

/-- A flush that finds nothing dirty completes its handle and counts the generation up (R111, R112). -/
theorem flush_completes {s : State} {c : CoreId} {o : FlushOp} (hf : (s.core c).eng.flushes = [o]) (ha : o.active = true) (hs : calm s)
    (hn : s.ms.flushFail = []) (hp : s.localize (descAddr o.tdt o.tid.toNat) + 8 < 2 ^ 42) :
    ∃ t, exec (.tflushComplete c o.h) s = .next t ∧ (t.core c).eng.flushes = [] ∧
      (t.core c).handle o.h = { ((s.core c).handle o.h) with st := .done, status := 0, detail := 0 } ∧ (t.core c).x = (s.core c).x ∧
      (t.core c).pc = (s.core c).pc ∧ t.ms.mem.read (s.localize (descAddr o.tdt o.tid.toNat)) 2 =
        (s.ms.mem.read (s.localize (descAddr o.tdt o.tid.toNat)) 8 % 2 ^ 16 + 1) % 2 ^ 16 ∧
      ∀ b, b < s.localize (descAddr o.tdt o.tid.toNat) ∨ s.localize (descAddr o.tdt o.tid.toNat) + 2 ≤ b →
        t.ms.mem.get b = s.ms.mem.get b := by
  obtain ⟨t, hexec, ⟨u, hcore, hx, hpc, heng⟩, hmem⟩ := exec_tflushComplete hf ha hs hn (by omega)
  refine ⟨t, hexec, ?_, ?_, ?_, ?_, ?_, ?_⟩
  · rw [hcore, flushDone_flushes (heng ▸ hf)]
  · rw [hcore, flushDone_handle, Core.handle, heng, ← Core.handle]
  · rw [hcore]
    exact hx
  · rw [hcore]
    exact hpc
  · rw [hmem, bumped_read, Nat.mod_mod]
  · intro b hb
    rw [hmem, bumped_get _ _ _ hb]

theorem enginesComplete : Sys2Proof.Claim.EnginesComplete := by
  unfold Sys2Proof.Claim.EnginesComplete
  intro c s
  dsimp only
  refine ⟨?walk, ?flush, ?suspend, ?head, ?tst⟩
  case walk => exact fun va pte level ht hw => pageWalk_completes ht hw
  case flush => exact fun o hf ha hs hn hp => flush_completes hf ha hs hn hp
  case suspend =>
    intro o ho hp hr ha hn hu htlb hl2 hpwc hs ht hres hv
    exact ⟨_, copySuspend_completes ho hp hr ha hn htlb hl2 hpwc hs ht hres hv, copySuspended_leaves (s.core c) ho hu _ _⟩
  case head =>
    intro t u g pte level ht hb hd hq hn hw
    have hcount := readCounters_one hn (dealerMsu_walked hw)
    refine ⟨fun hv => exec_reread ht hb hd (judgeHead_blocked ht hq hb ?_), fun hv => exec_reread ht hb hd (judgeHead_ready ht hq ?_)⟩
    · rwa [beq_eq_false_iff_ne.mpr hv] at hcount
    · rwa [hv, beq_self_eq_true] at hcount
  case tst =>
    intro f d first hn hro h0 hvec hscratch hg hp hfrom
    obtain ⟨hmode, -, hew, hw, -, hfull, hfit⟩ | ⟨hmode, hv, ht, hfit, hst, hr⟩ := hfrom
    · exact exec_tst_register hn hro h0 hvec hg hp hmode hew hw hfull hfit
    · exact exec_tst_tile hn hro h0 hscratch hg hp hmode hv ht hfit hst hr

/-- Settles O60, form by form: the fabric's, each run step by step on its grid, and the engines', over memory at rest. -/
theorem engineFormsComplete : Obligations.EngineFormsComplete := ⟨fabricCompletes, enginesComplete⟩

end Sys2Proof.Proofs
end

section
/-! The rounding of a scaled integer (R53): m / 2^n is its quotient q and its remainder r, and a mode decides only whether
the next integer above q is taken. -/

namespace Sys2Proof.Proofs

open Sys2Proof.Machine

/-- Whether a mode takes the magnitude q + 1 for q + r / d (R53). -/
def roundsUp (rm : BitVec 2) (neg : Bool) (q r d : Nat) : Bool :=
  match rm with
  | 0 => d < 2 * r || (2 * r == d && q % 2 == 1)
  | 1 => false
  | 2 => !neg && r != 0
  | _ => neg && r != 0

variable {rm : BitVec 2} {neg : Bool} {q r d m n : Nat}

theorem roundsUp_nearest : roundsUp 0 neg q r d = true ↔ d < 2 * r ∨ 2 * r = d ∧ q % 2 = 1 := by
  simp [roundsUp]

theorem roundsUp_towardsZero : roundsUp 1 neg q r d = false := rfl

theorem roundsUp_up : roundsUp 2 neg q r d = true ↔ neg = false ∧ r ≠ 0 := by
  simp [roundsUp]

theorem roundsUp_down : roundsUp 3 neg q r d = true ↔ neg = true ∧ r ≠ 0 := by
  simp [roundsUp]

/-- Below half of the unit only the directed modes leave zero. -/
theorem roundsUp_of_small (h0 : r ≠ 0) (h : 2 * r < d) :
    roundsUp rm neg 0 r d = ((rm = 2 && !neg) || (rm = 3 && neg)) := by
  obtain rfl | rfl | rfl | rfl : rm = 0 ∨ rm = 1 ∨ rm = 2 ∨ rm = 3 := by revert rm; decide
  · simp [roundsUp, h.le]
  · rfl
  · simp [roundsUp, h0]
  · simp [roundsUp, h0]

/-- A number of at most n - 1 bits is below half of 2^n. -/
theorem two_mul_lt_of_log2 (h : Nat.log2 m + 2 ≤ n) : 2 * m < 2 ^ n :=
  calc 2 * m < 2 * 2 ^ (Nat.log2 m + 1) := by have := Nat.lt_log2_self (n := m); omega
    _ = 2 ^ (Nat.log2 m + 2) := (Nat.pow_succ' ..).symm
    _ ≤ 2 ^ n := Nat.pow_le_pow_right two_pos h

/-- The quotient or the integer above it, and whether a remainder is left: the model's shortcut for a small m agrees. -/
theorem roundShift_eq (hn : 0 < n) : roundShift rm neg m n =
    (if roundsUp rm neg (m / 2 ^ n) (m % 2 ^ n) (2 ^ n) then m / 2 ^ n + 1 else m / 2 ^ n, m % 2 ^ n != 0) := by
  unfold roundShift
  rw [if_neg (by omega), Int.toNat_natCast]
  dsimp only
  split
  next h =>
    obtain ⟨hlog, hm⟩ : Nat.log2 m + 2 ≤ n ∧ m ≠ 0 := by simpa using h
    have hsmall := two_mul_lt_of_log2 hlog
    rw [Nat.div_eq_of_lt (by omega), Nat.mod_eq_of_lt (by omega), roundsUp_of_small hm hsmall, bne_iff_ne.mpr hm]
  next => rfl

theorem roundShift_inexact (hn : 0 < n) : (roundShift rm neg m n).2 = true ↔ m % 2 ^ n ≠ 0 := by
  rw [roundShift_eq hn, bne_iff_ne]

/-- What was rounded away and what was added balance, so each bound on the result is a bound on the remainder. -/
theorem roundShift_scaled (hn : 0 < n) : (roundShift rm neg m n).1 * 2 ^ n + m % 2 ^ n =
    m + if roundsUp rm neg (m / 2 ^ n) (m % 2 ^ n) (2 ^ n) then 2 ^ n else 0 := by
  have hm := Nat.div_add_mod' m (2 ^ n)
  rw [roundShift_eq hn]
  split
  · rw [Nat.succ_mul]
    omega
  · exact hm

/-- A magnitude that is not rounded up is the greatest multiple of the unit that is not above m. -/
theorem roundShift_floor (hn : 0 < n) (h : roundsUp rm neg (m / 2 ^ n) (m % 2 ^ n) (2 ^ n) = false) :
    (roundShift rm neg m n).1 * 2 ^ n ≤ m ∧ m < (roundShift rm neg m n).1 * 2 ^ n + 2 ^ n := by
  have hs := roundShift_scaled (rm := rm) (neg := neg) (m := m) hn
  have hr := Nat.mod_lt m (Nat.two_pow_pos n)
  rw [h, if_neg Bool.false_ne_true] at hs
  omega

/-- A magnitude that is rounded up wherever a remainder is left is the least multiple of the unit that is not below m. -/
theorem roundShift_ceil (hn : 0 < n) (h : roundsUp rm neg (m / 2 ^ n) (m % 2 ^ n) (2 ^ n) = true ↔ m % 2 ^ n ≠ 0) :
    m ≤ (roundShift rm neg m n).1 * 2 ^ n ∧ (roundShift rm neg m n).1 * 2 ^ n < m + 2 ^ n := by
  have hs := roundShift_scaled (rm := rm) (neg := neg) (m := m) hn
  have hr := Nat.mod_lt m (Nat.two_pow_pos n)
  simp only [h] at hs
  split at hs <;> omega

theorem roundShift_nearest (hn : 0 < n) :
    2 * m ≤ 2 * ((roundShift 0 neg m n).1 * 2 ^ n) + 2 ^ n ∧ 2 * ((roundShift 0 neg m n).1 * 2 ^ n) ≤ 2 * m + 2 ^ n := by
  have hs := roundShift_scaled (rm := 0) (neg := neg) (m := m) hn
  have hr := Nat.mod_lt m (Nat.two_pow_pos n)
  simp only [roundsUp_nearest] at hs
  split at hs <;> omega

/-- On a tie the quotient is kept where it is even and left where it is odd. -/
theorem roundShift_tie_even (hn : 0 < n) (h : 2 * (m % 2 ^ n) = 2 ^ n) : (roundShift 0 neg m n).1 % 2 = 0 := by
  have hup := roundsUp_nearest (neg := neg) (q := m / 2 ^ n) (r := m % 2 ^ n) (d := 2 ^ n)
  rw [roundShift_eq hn]
  simp only [hup]
  split <;> omega

/-- Rounding up in value takes a negative magnitude down. -/
theorem roundShift_up (hn : 0 < n) :
    if neg then (roundShift 2 neg m n).1 * 2 ^ n ≤ m ∧ m < (roundShift 2 neg m n).1 * 2 ^ n + 2 ^ n
    else m ≤ (roundShift 2 neg m n).1 * 2 ^ n ∧ (roundShift 2 neg m n).1 * 2 ^ n < m + 2 ^ n := by
  cases neg
  case true => exact roundShift_floor hn rfl
  case false => exact roundShift_ceil hn (roundsUp_up.trans (and_iff_right rfl))

/-- Rounding down in value takes a negative magnitude up. -/
theorem roundShift_down (hn : 0 < n) :
    if neg then m ≤ (roundShift 3 neg m n).1 * 2 ^ n ∧ (roundShift 3 neg m n).1 * 2 ^ n < m + 2 ^ n
    else (roundShift 3 neg m n).1 * 2 ^ n ≤ m ∧ m < (roundShift 3 neg m n).1 * 2 ^ n + 2 ^ n := by
  cases neg
  case true => exact roundShift_ceil hn (roundsUp_down.trans (and_iff_right rfl))
  case false => exact roundShift_floor hn rfl

/-- Settles O7, mode by mode. -/
theorem roundingModes : Obligations.RoundingModes := by
  intro neg m n hn
  exact ⟨fun _ => roundShift_inexact hn, roundShift_nearest hn, roundShift_tie_even hn,
    roundShift_floor hn roundsUp_towardsZero, roundShift_up hn, roundShift_down hn⟩

end Sys2Proof.Proofs
end

section
/-! Poison consumed (O36): a fetch of a poisoned word while a trap frame is live. -/

namespace Sys2Proof.Proofs
open Sys2Proof.Machine Sys2Proof.Claim

/-- Core 0 stands at address 0, mapped onto 0x6000, with a live trap frame (TSTATUS.TF = 1); the segment of memory that holds its
next word is poisoned. -/
def fetchingPoisonInHandler : State :=
  let s := State.reset.withFetchWord 64 0
  { s with ms := { s.ms with poison := [0x6000 / 64] } }.modSelf fun k =>
    { k.setCsr 0x103 0x100 with cache := { k.cache with tlb := [mappedPage] } }

theorem fetchingPoisonInHandler_moves : threadMoves fetchingPoisonInHandler := by
  dsimp only [threadMoves]
  decide +kernel

theorem fetchingPoisonInHandler_resolves :
    resolveGlobal (fetchingPoisonInHandler.ctxOf fetchingPoisonInHandler.cur) fetchingPoisonInHandler.self.pc { kind := 2, n := 8 }
      anyFormat fetchingPoisonInHandler = .ok (mappedPage.hit fetchingPoisonInHandler 0) fetchingPoisonInHandler := by
  exact resolveGlobal_tlb (by decide +kernel) rfl (by decide +kernel) (by decide +kernel) (by decide +kernel) (by decide +kernel)
    (by decide +kernel) rfl

/-- The fetch is a double trap (R355): the thread is not in its handler, so it stays at USER. -/
theorem fetchingPoisonInHandler_step : privAfter (step fetchingPoisonInHandler) = some .user := by decide +kernel

/-- Refutes O36: its clause on a fetch of a poisoned word does not ask that TSTATUS.TF is 0; with a trap frame live the MEM_UE is a
double trap, which ends the task and enters no handler (R355). -/
theorem not_poisonConsumed : ¬ Obligations.PoisonConsumed := by
  rintro ⟨hthread, -, -⟩
  obtain ⟨-, -, -, hfetch⟩ := hthread fetchingPoisonInHandler
  obtain ⟨hword, -⟩ := hfetch fetchingPoisonInHandler_moves
  have hstep := hword _ _ fetchingPoisonInHandler_resolves (by decide +kernel) (by decide +kernel)
    (fun t => by
      have hh : fetchingPoisonInHandler.ms.homes = [] := by decide +kernel
      rw [MemSys.homeAt, hh]
      rfl)
    (by decide +kernel) (by decide +kernel) (by decide +kernel)
  have hsuper := privAfter_concluded_trapped (s := fetchingPoisonInHandler) (u := fetchingPoisonInHandler) (cause := 0x0B)
    (v := memoryValue false 7 2 fetchingPoisonInHandler.self.pc) (epc := fetchingPoisonInHandler.self.pc) (by decide +kernel) rfl
  rw [← hstep, fetchingPoisonInHandler_step] at hsuper
  cases hsuper

end Sys2Proof.Proofs
end

section
/-! How an instruction ends, in the words of the statements, and the operations on tiles that the tile forms share. -/

namespace Sys2Proof.Proofs
open Sys2Proof.Machine Sys2Proof.Claim

/-! ### How an instruction ends -/

theorem finish_did {n : Nat} {m : X Unit} {s : State} {f : Core → Core} (h : m s = .ok () (s.modSelf f)) :
    finish n m s = did s n f := by
  rw [finish_ok h, State.modSelf_modSelf, did]

theorem finish_unchanged {n : Nat} {m : X Unit} {s : State} (h : m s = .ok () s) : finish n m s = did s n id := finish_ok h

theorem finish_waitsFor {n : Nat} {m : X Unit} {s : State} {w : Wait} (h : m s = .error (.wait w) s) :
    finish n m s = waitsFor s w := finish_wait h

/-- A trap is taken at the instruction, but for SYSCALL and BREAK (R353). -/
theorem finish_trapped {n c : Nat} {v : Word} {m : X Unit} {s : State} (h : m s = .error (.trap c v) s) (hf : s.self.tf = false)
    (hc : resumeAt c s.self.pc n = s.self.pc) : finish n m s = trapped s c v s.self.pc := by
  rw [finish_trap h hf, hc, trapped]

theorem ready_empty {s : State} {rs : List (BitVec 6)} (h : ready s rs) {r : BitVec 6} (hr : r ∈ rs) : s.self.empty r = false :=
  h r hr

theorem reserveReply_slotFree {s : State} {r : BitVec 6} (h : slotFree s r) : reserveReply [r] s = .ok () s :=
  reserveReply_ok h.1 (by simp [h.2])

/-! ### Tiles -/

theorem setTile_tile_same (k : Core) {t : Nat} (ht : t < 256) (e : Tile) : (k.setTile t e).tile t = e := by
  simp [Core.tile, Core.setTile, Vector.getElem?_setIfInBounds_self_of_lt ht]

theorem setTile_tile_other (k : Core) {t c : Nat} (h : c ≠ t) (e : Tile) : (k.setTile t e).tile c = k.tile c := by
  simp [Core.tile, Core.setTile, Vector.getElem?_setIfInBounds_ne (Ne.symm h)]

/-- A tile that is allocated with the issuer's tenant is named (R266). -/
theorem namedTile_mine {s : State} {t : Nat} (hv : (s.self.tile t).v = true) (ht : (s.self.tile t).tenant = s.self.tk.tenant) :
    namedTile t s = .ok (s.self.tile t) s := by
  simp [namedTile, hv, ht]

/-- One that is not traps TILE_STATE (R92, R266). -/
theorem namedTile_other {s : State} {t : Nat} (h : ¬((s.self.tile t).v = true ∧ (s.self.tile t).tenant = s.self.tk.tenant)) :
    namedTile t s = .error (.trap causeTileState (noTileValue 0)) s := by
  simp [namedTile, h]

/-- Without a suspended copy there is none to end. -/
theorem endSuspended_none {s : State} {t : Nat} (h : ∀ o ∈ s.self.eng.copies, o.phase ≠ .suspended) :
    endSuspended t s = .ok () s := by
  have hf : s.self.eng.copies.find? (fun o => decide (o.phase = .suspended) &&
      (o.dstTile == some (BitVec.ofNat 8 t) || (o.srcTile == some (BitVec.ofNat 8 t) && !o.keep))) = none :=
    List.find?_eq_none.mpr fun o ho => by simp [h o ho]
  simp only [endSuspended, X.bind_apply, X.get_apply, hf, X.pure_apply]

end Sys2Proof.Proofs
end

section
/-! Tiles allocated, freed, read and waited for (O31). -/

namespace Sys2Proof.Proofs
open Sys2Proof.Machine Sys2Proof.Claim

/-! ### The search for a free run (R267) -/

/-- No unit of the run of a size from c is taken. -/
def clearRun (taken : Nat → Bool) (size c : Nat) : Prop := ∀ v, c ≤ v → v < c + size → taken v = false

/-- What the search has found out when it stands at unit u: its answer is the lowest clear run that ends by the last unit. -/
def answersLowest (taken : Nat → Bool) (size last : Nat) : Option Nat → Prop
  | some b => clearRun taken size b ∧ b + size ≤ last ∧ ∀ c < b, ¬clearRun taken size c
  | none => ∀ c, c + size ≤ last → ¬clearRun taken size c

/-- The search keeps: the run units before u are clear, and no clear run begins before them. -/
theorem findRun_answersLowest {taken : Nat → Bool} {size : Nat} : ∀ {fuel u run : Nat}, run ≤ u → run < size →
    (∀ v, u - run ≤ v → v < u → taken v = false) → (∀ c < u - run, ¬clearRun taken size c) →
    answersLowest taken size (u + fuel) (findRun taken size fuel u run)
  | 0, u, run, _, hlt, _, hlow => fun c hc => hlow c (by omega)
  | fuel + 1, u, run, hle, hlt, hclear, hlow => by
    rw [findRun, show u + (fuel + 1) = u + 1 + fuel by omega]
    split
    next htaken =>
      refine findRun_answersLowest (by omega) (by omega) (fun v h1 h2 => by omega) fun c hc hrun => ?_
      by_cases hcu : c < u - run
      · exact hlow c hcu hrun
      · have := hrun u (by omega) (by omega)
        rw [htaken] at this
        cases this
    next hfree =>
      have hclear' : ∀ v, u - run ≤ v → v < u + 1 → taken v = false := fun v h1 h2 => by
        rcases Nat.lt_succ_iff_lt_or_eq.mp h2 with h | rfl
        · exact hclear v h1 h
        · simpa using hfree
      split
      next hend =>
        exact ⟨fun v h1 h2 => hclear' v (by omega) (by omega), by omega, fun c hc => hlow c (by omega)⟩
      next =>
        exact findRun_answersLowest (by omega) (by omega) (fun v h1 h2 => hclear' v (by omega) h2) fun c hc => hlow c (by omega)

theorem unitTaken_false_iff (k : Core) (u : Nat) : k.unitTaken u = false ↔
    ∀ e ∈ k.tiles.toList, e.v = true → u < e.base.toNat ∨ e.base.toNat + e.size.toNat ≤ u := by
  simp only [Core.unitTaken, List.any_eq_false, Bool.and_eq_true, decide_eq_true_eq, not_and, not_lt]
  refine forall_congr' fun e => forall_congr' fun _ => ?_
  constructor
  · intro h hv
    by_cases hb : e.base.toNat ≤ u
    · exact .inr (h ⟨hv, hb⟩)
    · exact .inl (by omega)
  · rintro h ⟨hv, hb⟩
    have := h hv
    omega

theorem freeRun_iff (k : Core) (b size : Nat) : freeRun k b size ↔ b + size ≤ 2048 ∧ clearRun k.unitTaken size b := by
  simp only [freeRun, clearRun, unitTaken_false_iff]

/-- The lowest free run, or none. -/
theorem findRun_lowest {k : Core} {size b : Nat} (hsize : 1 ≤ size) (hfree : freeRun k b size)
    (hlow : ∀ c < b, ¬freeRun k c size) : findRun k.unitTaken size 2048 0 0 = some b := by
  have h := findRun_answersLowest (taken := k.unitTaken) (size := size) (fuel := 2048) (u := 0) (run := 0) le_rfl hsize
    (fun v _ hv => by omega) fun c hc => by omega
  obtain ⟨hend, hclear⟩ := (freeRun_iff k b size).mp hfree
  rw [Nat.zero_add] at h
  cases hr : findRun k.unitTaken size 2048 0 0 with
  | none =>
    rw [hr] at h
    exact absurd hclear (h b hend)
  | some a =>
    rw [hr] at h
    obtain ⟨ha, hae, hal⟩ := h
    rcases Nat.lt_trichotomy a b with hab | rfl | hab
    · exact absurd ((freeRun_iff k a size).mpr ⟨hae, ha⟩) (hlow a hab)
    · rfl
    · exact absurd hclear (hal b hab)

theorem findRun_none {k : Core} {size : Nat} (hsize : 1 ≤ size) (h : ∀ b, ¬freeRun k b size) :
    findRun k.unitTaken size 2048 0 0 = none := by
  have hr := findRun_answersLowest (taken := k.unitTaken) (size := size) (fuel := 2048) (u := 0) (run := 0) le_rfl hsize
    (fun v _ hv => by omega) fun c hc => by omega
  cases hf : findRun k.unitTaken size 2048 0 0 with
  | none => rfl
  | some a =>
    rw [hf] at hr
    exact absurd ((freeRun_iff k a size).mpr ⟨by simpa using hr.2.1, hr.1⟩) (h a)

/-- The check of the run that TALLOC.FIX names. -/
theorem fixedRun_iff (k : Core) (b size : Nat) :
    (decide (b + size ≤ 2048) && (List.range size).all fun j => !k.unitTaken (b + j)) = true ↔ freeRun k b size := by
  rw [freeRun_iff, Bool.and_eq_true, decide_eq_true_eq, List.all_eq_true, clearRun]
  refine and_congr_right fun _ => ⟨fun h v h1 h2 => ?_, fun h j hj => ?_⟩
  · have := h (v - b) (List.mem_range.mpr (by omega))
    rw [show b + (v - b) = v by omega] at this
    simpa using this
  · have := List.mem_range.mp hj
    simp [h (b + j) (by omega) (by omega)]

/-! ### TALLOC and TALLOC.FIX (R267) -/

section talloc
variable {f : TT} {s : State}

/-- The size that the forms ask for. -/
def tallocSize (f : TT) (s : State) : Nat := (s.self.rd f.xa + f.value).toNat

/-- The unit at which the forms place the tile, if there is one. -/
def tallocBase (f : TT) (fixed : Bool) (s : State) : Option Nat :=
  let at_ := bits (s.self.rd f.xb) 0 11
  if fixed then
    if at_ + tallocSize f s ≤ 2048 && (List.range (tallocSize f s)).all fun j => !s.self.unitTaken (at_ + j) then some at_ else none
  else findRun s.self.unitTaken (tallocSize f s) 2048 0 0

theorem tallocBase_fixed (h : freeRun s.self (bits (s.self.rd f.xb) 0 11) (tallocSize f s)) :
    tallocBase f true s = some (bits (s.self.rd f.xb) 0 11) := by
  rw [tallocBase, if_pos rfl, if_pos ((fixedRun_iff ..).mpr h)]

theorem tallocBase_fixed_none (h : ¬freeRun s.self (bits (s.self.rd f.xb) 0 11) (tallocSize f s)) : tallocBase f true s = none := by
  rw [tallocBase, if_pos rfl, if_neg (mt (fixedRun_iff ..).mp h)]

theorem tallocBase_lowest {b : Nat} (h1 : 1 ≤ tallocSize f s) (hfree : freeRun s.self b (tallocSize f s))
    (hlow : ∀ c < b, ¬freeRun s.self c (tallocSize f s)) : tallocBase f false s = some b := by
  rw [tallocBase, if_neg Bool.false_ne_true, findRun_lowest h1 hfree hlow]

theorem tallocBase_none (h1 : 1 ≤ tallocSize f s) (h : ∀ b, ¬freeRun s.self b (tallocSize f s)) : tallocBase f false s = none := by
  rw [tallocBase, if_neg Bool.false_ne_true, findRun_none h1 h]

/-- The unit that they are granted: SPQUOTA admits the size beside what the core holds (R171). -/
def tallocGrant (f : TT) (fixed : Bool) (s : State) : Option Nat :=
  (tallocBase f fixed s).filter fun _ => s.self.unitsHeld + tallocSize f s ≤ s.quota s.self

/-- A core with the tile allocated at unit b; with .z its units read as zero and none of their words is poisoned. -/
def withTile (f : TT) (s : State) (b : Nat) (k : Core) : Core :=
  let zero := f.mode.getLsbD 0
  let k' := k.setTile f.t.toNat (allocated s.self zero b (tallocSize f s))
  if zero then
    { k' with
      scratch := k'.scratch.filter fun c => !(b * 4096 ≤ c.1 && c.1 < (b + tallocSize f s) * 4096)
      scratchPoison := k'.scratchPoison.filter fun g => !(b * 512 ≤ g && g < (b + tallocSize f s) * 512) }
  else k'

/-- The core after the reply of a grant, or of none. -/
def tallocDone (f : TT) (s : State) (k : Core) : Option Nat → Core
  | some b => replying f.xc (toWord b) (withTile f s b k)
  | none => replying f.xc 0xFFFF_FFFF_FFFF_FFFF k

variable {fixed : Bool}

/-- The end of the forms: the tile placed where a unit is found that SPQUOTA admits, and the reply. -/
def tallocReply (f : TT) (s : State) : Option Nat → X Unit
  | some b =>
    if s.self.unitsHeld + tallocSize f s ≤ s.quota s.self then do
      modSelf (withTile f s b)
      reply [(f.xc, toWord b)]
    else reply [(f.xc, BitVec.allOnes 64)]
  | none => reply [(f.xc, BitVec.allOnes 64)]

theorem tallocReply_apply : tallocReply f s (tallocBase f fixed s) s =
    .ok () (s.modSelf fun k => tallocDone f s k (tallocGrant f fixed s)) := by
  rw [tallocGrant]
  cases tallocBase f fixed s with
  | none => rfl
  | some b =>
    rw [tallocReply, X.ite_apply, Option.filter_some]
    split
    next hq =>
      simp only [hq, decide_true, if_true, X.bind_apply, X.modSelf_apply, reply_apply, State.modSelf_modSelf]
      rfl
    next hq =>
      simp only [hq, decide_false, Bool.false_eq_true, if_false]
      rfl

/-- What the forms do once their registers are read: the checks of the size and of the entry, then the reply. -/
theorem tallocForm_apply (hr : ready s [f.xa, f.xb]) (hf : slotFree s f.xc) : tallocForm f fixed s =
    if !(1 ≤ tallocSize f s && tallocSize f s ≤ 2048) then .error (.trap causeShape (toWord (tallocSize f s))) s
    else if (s.self.tile f.t.toNat).v then
      .error (.trap causeTileState (tileValue f.t.toNat (s.self.tile f.t.toNat) 0)) s
    else .ok () (s.modSelf fun k => tallocDone f s k (tallocGrant f fixed s)) := by
  have ha := readX_ok (ready_empty hr (r := f.xa) (by simp))
  have hb := readX_ok (ready_empty hr (r := f.xb) (by simp))
  have hc := reserveReply_slotFree hf
  have hz : (s.self.rd f.xa + f.value).toNat = tallocSize f s := rfl
  by_cases hsize : (1 ≤ tallocSize f s && tallocSize f s ≤ 2048) = true
  · by_cases hv : (s.self.tile f.t.toNat).v = true
    · cases fixed <;> simp only [tallocForm, X.bind_apply, ha, hb, hc, hz, hsize, hv, X.require_true, X.get_apply, tileTrap,
        X.trap_apply, X.pure_apply, if_true, if_false, Bool.false_eq_true, Bool.not_true]
    · rw [hsize, Bool.not_true, if_neg Bool.false_ne_true, if_neg hv, ← tallocReply_apply]
      cases fixed <;> simp only [tallocForm, X.bind_apply, ha, hb, hc, hz, hsize, hv, X.require_true, X.get_apply, X.pure_apply,
        tallocBase, if_true, if_false, Bool.false_eq_true]
      case false =>
        cases findRun s.self.unitTaken (tallocSize f s) 2048 0 0 <;> rfl
      case true =>
        split <;> rfl
  · cases fixed <;> simp only [tallocForm, X.bind_apply, ha, hb, hc, hz, hsize, X.require_false, X.pure_apply, if_true, if_false,
      Bool.false_eq_true, Bool.not_false]

theorem talloc_grants {b : Nat} (hr : ready s [f.xa, f.xb]) (hf : slotFree s f.xc) (h1 : 1 ≤ tallocSize f s)
    (h2 : tallocSize f s ≤ 2048) (hv : (s.self.tile f.t.toNat).v = false) (hb : tallocBase f fixed s = some b)
    (hq : s.self.unitsHeld + tallocSize f s ≤ s.quota s.self) :
    finish (extSize f.ext) (tallocForm f fixed) s = did s (extSize f.ext) fun k => replying f.xc (toWord b) (withTile f s b k) := by
  refine finish_did ?_
  rw [tallocForm_apply hr hf, tallocGrant, hb, Option.filter_some]
  simp [h1, h2, hv, hq, tallocDone]

/-- Without a run, or beyond SPQUOTA, the forms return all ones (R267). -/
theorem talloc_refuses (hr : ready s [f.xa, f.xb]) (hf : slotFree s f.xc) (h1 : 1 ≤ tallocSize f s)
    (h2 : tallocSize f s ≤ 2048) (hv : (s.self.tile f.t.toNat).v = false)
    (h : tallocBase f fixed s = none ∨ ¬s.self.unitsHeld + tallocSize f s ≤ s.quota s.self) :
    finish (extSize f.ext) (tallocForm f fixed) s = replied s (extSize f.ext) f.xc 0xFFFF_FFFF_FFFF_FFFF := by
  have hgrant : tallocGrant f fixed s = none := by
    rw [tallocGrant]
    rcases h with h | h
    · rw [h]
      rfl
    · simp [h]
  refine finish_did ?_
  rw [tallocForm_apply hr hf, hgrant]
  simp [h1, h2, hv, tallocDone, replying]

theorem talloc_shape (hr : ready s [f.xa, f.xb]) (hf : slotFree s f.xc) (htf : s.self.tf = false)
    (h : tallocSize f s = 0 ∨ 2048 < tallocSize f s) :
    finish (extSize f.ext) (tallocForm f fixed) s = trapped s 8 (toWord (tallocSize f s)) s.self.pc := by
  have hsize : (1 ≤ tallocSize f s && tallocSize f s ≤ 2048) = false := by
    rw [Bool.and_eq_false_iff, decide_eq_false_iff_not, decide_eq_false_iff_not]
    omega
  refine finish_trapped ?_ htf rfl
  rw [tallocForm_apply hr hf, hsize]
  rfl

theorem talloc_allocated (hr : ready s [f.xa, f.xb]) (hf : slotFree s f.xc) (htf : s.self.tf = false) (h1 : 1 ≤ tallocSize f s)
    (h2 : tallocSize f s ≤ 2048) (hv : (s.self.tile f.t.toNat).v = true) :
    finish (extSize f.ext) (tallocForm f fixed) s =
      trapped s 9 (tileValue f.t.toNat (s.self.tile f.t.toNat) 0) s.self.pc := by
  refine finish_trapped ?_ htf rfl
  rw [tallocForm_apply hr hf]
  simp [h1, h2, hv, causeTileState]

end talloc

/-! ### The core with the tile -/

theorem Mem.get_filter (p : Nat → Bool) (m : Mem) (a : Nat) :
    Mem.get (m.filter fun c => p c.1) a = if p a then m.get a else Mem.blank := by
  induction m with
  | nil => simp [Mem.get]
  | cons c rest ih =>
    rw [List.filter_cons]
    by_cases hp : p c.1 = true <;> by_cases ha : c.1 = a <;> simp_all [Mem.get]

section withTile
variable {f : TT} {s : State} {b : Nat}

theorem withTile_plain (hz : f.mode.getLsbD 0 = false) (k : Core) :
    withTile f s b k = k.setTile f.t.toNat (allocated s.self false b (tallocSize f s)) := by
  simp only [withTile, hz, Bool.false_eq_true, if_false]

theorem withTile_tile (k : Core) (c : Nat) :
    (withTile f s b k).tile c = (k.setTile f.t.toNat (allocated s.self (f.mode.getLsbD 0) b (tallocSize f s))).tile c := by
  rw [withTile]
  split <;> rfl

theorem withTile_sameThread (k : Core) : SameThread k (withTile f s b k) := by
  rw [withTile]
  split <;> exact ⟨rfl, rfl, rfl, fun _ _ => rfl⟩

theorem withTile_replies (k : Core) : (withTile f s b k).replies = k.replies := by
  rw [withTile]
  split <;> rfl

theorem withTile_scratch (hz : f.mode.getLsbD 0 = true) (k : Core) (a : Nat) : (withTile f s b k).scratch.get a =
    if b * 4096 ≤ a ∧ a < (b + tallocSize f s) * 4096 then 0 else k.scratch.get a := by
  have h := Mem.get_filter (fun a => !(decide (b * 4096 ≤ a) && decide (a < (b + tallocSize f s) * 4096))) k.scratch a
  simp only [withTile, hz, if_true]
  refine h.trans ?_
  by_cases hin : b * 4096 ≤ a ∧ a < (b + tallocSize f s) * 4096
  · simp [hin, Mem.blank]
  · rw [if_neg hin, if_pos (by simp only [Bool.not_eq_true', Bool.and_eq_false_iff, decide_eq_false_iff_not]; omega)]

/-- What the statement says of the core after a grant with .z. -/
theorem withTile_zeroed (hz : f.mode.getLsbD 0 = true) :
    ∃ u : Core, did s (extSize f.ext) (fun k => replying f.xc (toWord b) (withTile f s b k)) = .next (s.modSelf fun _ => u) ∧
      u.tile f.t.toNat = allocated s.self true b (tallocSize f s) ∧ u.x = s.self.x ∧
      (∀ c < 256, c ≠ f.t.toNat → u.tile c = s.self.tile c) ∧ u.replies = s.self.replies ++ [⟨[(f.xc, toWord b)]⟩] ∧
      u.pc = (s.self.retire (extSize f.ext)).pc ∧
      ∀ a, u.scratch.get a = if b * 4096 ≤ a ∧ a < (b + tallocSize f s) * 4096 then 0 else s.self.scratch.get a := by
  have htile : ∀ c, ((replying f.xc (toWord b) (withTile f s b s.self)).retire (extSize f.ext)).tile c =
      (s.self.setTile f.t.toNat (allocated s.self true b (tallocSize f s))).tile c := fun c => by
    have h := withTile_tile (f := f) (s := s) (b := b) s.self c
    rw [hz] at h
    rw [← h, Core.tile, Core.retire_tiles]
    rfl
  refine ⟨(replying f.xc (toWord b) (withTile f s b s.self)).retire (extSize f.ext), congrArg Host.Outcome.next (State.modSelf_congr s rfl),
    (htile _).trans (setTile_tile_same _ f.t.isLt _), ?_, fun c _ hc => (htile c).trans (setTile_tile_other _ hc _), ?_, ?_, fun a => ?_⟩
  · rw [Core.retire_x]
    exact (withTile_sameThread s.self).x
  · rw [Core.retire_replies]
    exact congrArg (· ++ _) (withTile_replies s.self)
  · have hreply : SameThread (withTile f s b s.self) (replying f.xc (toWord b) (withTile f s b s.self)) :=
      ⟨rfl, rfl, rfl, fun _ _ => rfl⟩
    exact ((withTile_sameThread s.self).trans hreply).retire_pc _
  · rw [Core.retire_scratch]
    exact withTile_scratch hz s.self a

end withTile

/-! ### TFREE (R267, R90) -/

section tfree
variable {f : TT} {s : State}

theorem exec_tfree_free (hv : (s.self.tile f.t.toNat).v = false) : exec (.tfree f) s = did s 8 id := by
  refine finish_unchanged (m := _) ?_
  simp only [X.bind_apply, X.self_apply, hv, Bool.not_false, if_true, X.pure_apply]

theorem exec_tfree_freed (hv : (s.self.tile f.t.toNat).v = true)
    (h : (s.self.tile f.t.toNat).st = .empty ∨
      ((s.self.tile f.t.toNat).st = .ready ∨ (s.self.tile f.t.toNat).st = .poisoned) ∧ (s.self.tile f.t.toNat).readers = 0) :
    exec (.tfree f) s = did s 8 fun k => k.setTile f.t.toNat Tile.free := by
  refine finish_did (m := _) ?_
  rcases h with hst | ⟨hst | hst, hreaders⟩ <;> simp [*]

theorem exec_tfree_waits (hv : (s.self.tile f.t.toNat).v = true)
    (h : ((s.self.tile f.t.toNat).st = .ready ∨ (s.self.tile f.t.toNat).st = .poisoned) ∧ (s.self.tile f.t.toNat).readers ≠ 0 ∨
      ((s.self.tile f.t.toNat).st = .filling ∧ (s.self.tile f.t.toNat).pot = false ∨ (s.self.tile f.t.toNat).st = .draining) ∧
        (s.self.tile f.t.toNat).susp = false) :
    exec (.tfree f) s = waitsFor s .resource := by
  refine finish_waitsFor (m := _) ?_
  rcases h with ⟨hst, hreaders⟩ | ⟨⟨hst, hpot⟩ | hst, hsusp⟩
  · have hr : ((s.self.tile f.t.toNat).readers == 0#8) = false := beq_eq_false_iff_ne.mpr hreaders
    rcases hst with hst | hst <;> simp [hv, hst, hr]
  · simp [hv, hst, hpot, hsusp]
  · simp [hv, hst, hsusp]

theorem exec_tfree_pot (hv : (s.self.tile f.t.toNat).v = true) (hst : (s.self.tile f.t.toNat).st = .filling)
    (hpot : (s.self.tile f.t.toNat).pot = true) (htf : s.self.tf = false) :
    exec (.tfree f) s = trapped s 9 (tileValue f.t.toNat (s.self.tile f.t.toNat) 0) s.self.pc := by
  refine finish_trapped (m := _) ?_ htf rfl
  simp [hv, hst, hpot, tileTrap, causeTileState]

theorem exec_tfree_suspended (hv : (s.self.tile f.t.toNat).v = true)
    (hst : (s.self.tile f.t.toNat).st = .filling ∧ (s.self.tile f.t.toNat).pot = false ∨ (s.self.tile f.t.toNat).st = .draining)
    (hsusp : (s.self.tile f.t.toNat).susp = true) (hc : ∀ o ∈ s.self.eng.copies, o.phase ≠ .suspended) :
    exec (.tfree f) s = did s 8 fun k => k.setTile f.t.toNat Tile.free := by
  have hend := endSuspended_none (t := f.t.toNat) hc
  refine finish_did (m := _) ?_
  rcases hst with ⟨hst, hpot⟩ | hst <;> simp [*]

end tfree

/-- Tile allocation and release, form by form. -/
theorem tileAllocation : Sys2Proof.Claim.TileAllocation := by
  intro f s k n t e size at_ fits z lowest takes none_
  have hgrants : ∀ {i : Instr} {fixed b}, exec i s = finish n (tallocForm f fixed) s → ready s [f.xa, f.xb] → slotFree s f.xc →
      1 ≤ size → size ≤ 2048 → e.v = false → tallocBase f fixed s = some b → fits → takes i b := by
    intro i fixed b he hr hf h1 h2 hv hb hq
    have hdone := he.trans (talloc_grants hr hf h1 h2 hv hb hq)
    refine ⟨fun hz => hdone.trans (congrArg Host.Outcome.next (State.modSelf_congr s ?_)), fun hz => ?_⟩
    · show (replying f.xc (toWord b) (withTile f s b s.self)).retire n = _
      rw [withTile_plain (f := f) hz]
      rfl
    · rw [hdone]
      exact withTile_zeroed hz
  refine ⟨fun hr hf h1 h2 hv => ⟨fun b hb hq => ?_, fun h => ?_, fun hb hq => ?_, fun h => ?_⟩, fun hr hf htf => ⟨fun h => ?_, fun h1 h2 hv => ?_⟩,
    exec_tfree_free, fun hv => ⟨exec_tfree_freed hv, exec_tfree_waits hv, exec_tfree_pot hv, exec_tfree_suspended hv⟩⟩
  · exact hgrants (fixed := false) rfl hr hf h1 h2 hv (tallocBase_lowest h1 hb.1 hb.2) hq
  · exact talloc_refuses (fixed := false) hr hf h1 h2 hv (h.imp_left (tallocBase_none h1))
  · exact hgrants (fixed := true) rfl hr hf h1 h2 hv (tallocBase_fixed hb) hq
  · exact talloc_refuses (fixed := true) hr hf h1 h2 hv (h.imp_left tallocBase_fixed_none)
  · exact ⟨talloc_shape (fixed := false) hr hf htf h, talloc_shape (fixed := true) hr hf htf h⟩
  · exact ⟨talloc_allocated (fixed := false) hr hf htf h1 h2 hv, talloc_allocated (fixed := true) hr hf htf h1 h2 hv⟩

/-! ### TSTAT, TWAIT and the handle forms (R181, R268) -/

section status
variable {f : TT} {s : State}

theorem exec_tstat (hf : slotFree s f.xc) : exec (.tstat f) s = replied s 8 f.xc (s.self.tile f.t.toNat).word := by
  refine finish_did (m := _) ?_
  simp only [X.bind_apply, reserveReply_slotFree hf, X.self_apply, reply_apply]

/-- A fill or a drain that is not suspended holds the tile (R90). -/
def tileBusy (e : Tile) : Bool := (e.st == .filling || e.st == .draining) && !e.susp

theorem tileBusy_iff (e : Tile) : tileBusy e = true ↔ (e.st = .filling ∨ e.st = .draining) ∧ e.susp = false := by
  rw [tileBusy, Bool.and_eq_true, Bool.or_eq_true, beq_iff_eq, beq_iff_eq, Bool.not_eq_true']

theorem readersAwaited_iff (m : BitVec 6) (e : Tile) : (m.getLsbD 1 && e.readers != 0) = true ↔ m.getLsbD 1 = true ∧ e.readers ≠ 0 := by
  rw [Bool.and_eq_true, bne_iff_ne]

/-- What a TWAIT of a tile of its tenant does: it waits for a fill or a drain, then for the readers, then replies. -/
theorem exec_twait (hf : slotFree s f.xc) (hv : (s.self.tile f.t.toNat).v = true)
    (ht : (s.self.tile f.t.toNat).tenant = s.self.tk.tenant) : exec (.twait f) s = finish 8 (do
      awaiting (!tileBusy (s.self.tile f.t.toNat))
      awaiting (!(f.mode.getLsbD 1 && (s.self.tile f.t.toNat).readers != 0))
      reply [(f.xc, (s.self.tile f.t.toNat).word)]) s := by
  show finish 8 _ s = _
  simp only [finish, State.run, X.bind_apply, reserveReply_slotFree hf, namedTile_mine hv ht, tileBusy]

theorem exec_twait_done (hf : slotFree s f.xc) (hv : (s.self.tile f.t.toNat).v = true)
    (ht : (s.self.tile f.t.toNat).tenant = s.self.tk.tenant) (hbusy : tileBusy (s.self.tile f.t.toNat) = false)
    (hread : (f.mode.getLsbD 1 && (s.self.tile f.t.toNat).readers != 0) = false) :
    exec (.twait f) s = replied s 8 f.xc (s.self.tile f.t.toNat).word := by
  rw [exec_twait hf hv ht]
  refine finish_did ?_
  simp only [X.bind_apply, hbusy, hread, Bool.not_false, X.awaiting_true, reply_apply]

theorem exec_twait_waits (hf : slotFree s f.xc) (hv : (s.self.tile f.t.toNat).v = true)
    (ht : (s.self.tile f.t.toNat).tenant = s.self.tk.tenant)
    (h : tileBusy (s.self.tile f.t.toNat) = true ∨ (f.mode.getLsbD 1 && (s.self.tile f.t.toNat).readers != 0) = true) :
    exec (.twait f) s = waitsFor s .resource := by
  rw [exec_twait hf hv ht]
  refine finish_waitsFor ?_
  cases hbusy : tileBusy (s.self.tile f.t.toNat) with
  | true => simp only [X.bind_apply, Bool.not_true, X.awaiting_false]
  | false =>
    have hread := h.resolve_left (by simp [hbusy])
    simp only [X.bind_apply, hread, Bool.not_false, Bool.not_true, X.awaiting_true, X.awaiting_false]

theorem exec_twait_other (hf : slotFree s f.xc)
    (h : ¬((s.self.tile f.t.toNat).v = true ∧ (s.self.tile f.t.toNat).tenant = s.self.tk.tenant)) (htf : s.self.tf = false) :
    exec (.twait f) s = trapped s 9 (toWord (2 ^ 52)) s.self.pc := by
  refine finish_trapped (m := _) ?_ htf rfl
  simp only [X.bind_apply, reserveReply_slotFree hf, namedTile_other h]
  rfl

/-- A handle register that names an entry of the kind (R181). -/
theorem validHandle_some_iff (k : Core) (x : Word) (kind : BitVec 3) (e : Handle) :
    k.validHandle x kind = some e ↔ names k x kind e := by
  simp only [Core.validHandle, names]
  by_cases hx : x.toNat < 256
  · simp only [hx, if_true, true_and]
    split
    next h =>
      simp only [Bool.or_eq_true, beq_iff_eq, bne_iff_ne] at h
      constructor
      · intro h'
        cases h'
      · rintro ⟨rfl, hst, hk⟩
        exact absurd hk (h.resolve_left hst)
    next h =>
      simp only [Bool.or_eq_true, beq_iff_eq, bne_iff_ne, not_or, not_not] at h
      rw [Option.some_inj]
      constructor
      · rintro rfl
        exact ⟨rfl, h⟩
      · exact And.left
  · simp [hx]

theorem validHandle_none {k : Core} {x : Word} {kind : BitVec 3} (h : ∀ e, ¬names k x kind e) : k.validHandle x kind = none :=
  Option.eq_none_iff_forall_ne_some.mpr fun e he => h e ((validHandle_some_iff k x kind e).mp he)

theorem statusForm_of_statusOf {i : Instr} {size : Nat} {xd xa : BitVec 6} {kind : BitVec 3}
    (he : exec i s = finish size (statusOf xd xa kind) s) : statusForm s i size xd xa kind := by
  intro hr hf
  have ha := readX_ok (ready_empty hr List.mem_cons_self)
  refine ⟨fun e hn => he.trans (finish_did ?_), fun hn => he.trans (finish_did ?_)⟩
  · simp only [statusOf, X.bind_apply, ha, reserveReply_slotFree hf, X.self_apply, (validHandle_some_iff ..).mpr hn, reply_apply]
  · simp only [statusOf, X.bind_apply, ha, reserveReply_slotFree hf, X.self_apply, validHandle_none hn, reply_apply]
    rfl

theorem waitForm_of_waitOn {i : Instr} {size : Nat} {xd xa : BitVec 6} {kind : BitVec 3}
    (he : exec i s = finish size (waitOn xd xa kind) s) : waitForm s i size xd xa kind := by
  intro hr hf
  have ha := readX_ok (ready_empty hr List.mem_cons_self)
  refine ⟨fun e hn => ⟨fun hst => he.trans (finish_did ?_), fun hst => he.trans (finish_waitsFor ?_)⟩,
    fun hn => he.trans (finish_did ?_)⟩
  · simp only [waitOn, X.bind_apply, ha, reserveReply_slotFree hf, X.self_apply, (validHandle_some_iff ..).mpr hn, hst, if_true,
      X.modSelf_apply, reply_apply, State.modSelf_modSelf]
    rfl
  · simp only [waitOn, X.bind_apply, ha, reserveReply_slotFree hf, X.self_apply, (validHandle_some_iff ..).mpr hn, hst,
      reduceCtorEq, if_false, X.throw_apply]
  · simp only [waitOn, X.bind_apply, ha, reserveReply_slotFree hf, X.self_apply, validHandle_none hn, reply_apply]
    rfl

end status

theorem bits_toWord (n lo len : Nat) : bits (toWord n) lo len = fld (n % 2 ^ 64) lo len := by
  simp [bits, fld, toWord, Nat.shiftRight_eq_div_pow]

theorem ite_pow (b : Bool) (n : Nat) : (if b then 2 ^ n else 0) = (if b then 1 else 0) * 2 ^ n := by
  cases b <;> simp

/-- The fields of a tile-table entry as TSTAT returns it (R89). -/
theorem tileWord_fields (e : Tile) :
    bits e.word 63 1 = (if e.v then 1 else 0) ∧ bits e.word 60 3 = e.st.code ∧ bits e.word 59 1 = (if e.pk then 1 else 0) ∧
    bits e.word 54 5 = e.p.toNat ∧ bits e.word 49 5 = e.et.toNat ∧ bits e.word 48 1 = (if e.pot then 1 else 0) ∧
    bits e.word 40 8 = e.readers.toNat ∧ bits e.word 34 6 = e.tenant.toNat ∧ bits e.word 33 1 = (if e.conf then 1 else 0) ∧
    bits e.word 32 1 = (if e.susp then 1 else 0) ∧ bits e.word 12 11 = e.base.toNat ∧ bits e.word 0 12 = e.size.toNat := by
  have hbit : ∀ b : Bool, (if b then 1 else 0) < 2 := by decide
  have hst : e.st.code < 8 := by cases e.st <;> decide
  have hp := e.p.isLt
  have het := e.et.isLt
  have hr := e.readers.isLt
  have ht := e.tenant.isLt
  have hb := e.base.isLt
  have hs := e.size.isLt
  have hv := hbit e.v
  have hpk := hbit e.pk
  have hpot := hbit e.pot
  have hconf := hbit e.conf
  have hsusp := hbit e.susp
  simp only [Tile.word, bits_toWord, ite_pow, fld]
  refine ⟨?_, ?_, ?_, ?_, ?_, ?_, ?_, ?_, ?_, ?_, ?_, ?_⟩ <;> omega

theorem tileStatus : Sys2Proof.Claim.TileStatus := by
  intro f s k e busy read mine
  refine ⟨fun hf => ⟨exec_tstat hf, fun hm hb hr => ?_, fun hm h => ?_, exec_twait_other hf⟩, statusForm_of_statusOf rfl,
    waitForm_of_waitOn rfl, tileWord_fields e⟩
  · exact exec_twait_done hf hm.1 hm.2 (Bool.eq_false_iff.mpr (mt (tileBusy_iff e).mp hb))
      (Bool.eq_false_iff.mpr (mt (readersAwaited_iff f.mode e).mp hr))
  · exact exec_twait_waits hf hm.1 hm.2 (h.imp (tileBusy_iff e).mpr (readersAwaited_iff f.mode e).mpr)

/-- Settles O31, form by form: TALLOC by what its search keeps, TFREE by the state of the entry, TSTAT and TWAIT by their checks. -/
theorem tiles : Obligations.Tiles := ⟨tileAllocation, tileStatus⟩

end Sys2Proof.Proofs
end

section
/-! The fields of a group record (O33). -/

namespace Sys2Proof.Proofs
open Sys2Proof.Machine Sys2Proof.Claim

/-! ### Group records (R94) -/

/-- One bit of each entry of a list as a number, the first entry least significant. -/
def planeNumber {α : Type} (f : α → Bool) (l : List α) : Nat := l.foldr (fun q acc => (if f q then 1 else 0) + 2 * acc) 0

theorem planeNumber_cons {α : Type} (f : α → Bool) (q : α) (l : List α) :
    planeNumber f (q :: l) = (f q).toNat + 2 * planeNumber f l := by
  cases h : f q <;> simp [planeNumber, h]

theorem planeNumber_lt {α : Type} (f : α → Bool) (l : List α) : planeNumber f l < 2 ^ l.length := by
  induction l with
  | nil => exact Nat.one_pos
  | cons q l ih =>
    rw [planeNumber_cons, List.length_cons, Nat.pow_succ]
    have := (f q).toNat_le
    omega

theorem planeNumber_testBit {α : Type} (f : α → Bool) (l : List α) {j : Nat} (h : j < l.length) :
    (planeNumber f l).testBit j = f l[j] := by
  induction l generalizing j with
  | nil => exact absurd h (Nat.not_lt_zero j)
  | cons q l ih =>
    rw [planeNumber_cons]
    cases j with
    | zero => cases hq : f q <;> simp [Nat.testBit_zero, hq, Nat.add_mod]
    | succ j =>
      have hhalf : ((f q).toNat + 2 * planeNumber f l) / 2 = planeNumber f l := by
        have := (f q).toNat_lt
        omega
      rw [Nat.testBit_succ, hhalf, List.getElem_cons_succ]
      exact ih _

/-- Word b of a group record: the exponent, the signs, the planes (R94). -/
def recordWord (g : Int × List (Nat × Bool × Bool)) : Nat → Nat
  | 0 => wrap 16 g.1
  | 1 => planeNumber (fun q => q.2.1) g.2
  | p + 2 => planeNumber (fun q => q.1.testBit p) g.2

/-- The first two digits of a number apart. -/
theorem digitSum_add_two (w : Nat) (f : Nat → Nat) (n : Nat) : digitSum w f (n + 2) =
    f 0 + f 1 * 2 ^ w + (List.range n).foldl (fun acc p => acc + f (p + 2) * 2 ^ (w * (p + 2))) 0 := by
  induction n with
  | zero => simp [digitSum, List.range_succ]
  | succ n ih =>
    rw [show n + 1 + 2 = n + 2 + 1 from rfl, digitSum_succ, ih, List.range_succ, List.foldl_append, List.foldl_cons, List.foldl_nil,
      Nat.add_assoc]

theorem groupRecord_eq (planes : Nat) (g : Int × List (Nat × Bool × Bool)) :
    groupRecord planes g = digitSum 32 (recordWord g) (planes + 2) := (digitSum_add_two 32 (recordWord g) planes).symm

theorem wrap_lt (n : Nat) (v : Int) : wrap n v < 2 ^ n := by
  have h0 : (0 : Int) ≤ v % 2 ^ n := Int.emod_nonneg v (by positivity)
  have h1 : v % 2 ^ n < 2 ^ n := Int.emod_lt_of_pos v (by positivity)
  exact_mod_cast (Int.toNat_of_nonneg h0).trans_lt h1

theorem recordWord_lt {g : Int × List (Nat × Bool × Bool)} (hg : g.2.length = 32) (b : Nat) : recordWord g b < 2 ^ 32 := by
  match b with
  | 0 => exact (wrap_lt ..).trans (by decide)
  | 1 => exact hg ▸ planeNumber_lt ..
  | p + 2 => exact hg ▸ planeNumber_lt ..

theorem fld_groupRecord {planes b : Nat} {g : Int × List (Nat × Bool × Bool)} (hg : g.2.length = 32) (hb : b < planes + 2) :
    fld (groupRecord planes g) (32 * b) 32 = recordWord g b := by
  rw [groupRecord_eq, fld_digitSum (recordWord_lt hg) hb]

theorem testBit_fld (v a w j : Nat) (h : j < w) : (fld v a w).testBit j = v.testBit (a + j) := by
  rw [fld, Nat.testBit_mod_two_pow, Nat.testBit_div_two_pow, decide_eq_true h, Bool.true_and, Nat.add_comm]

theorem testBit_groupRecord {planes b j : Nat} {g : Int × List (Nat × Bool × Bool)} (hg : g.2.length = 32) (hb : b < planes + 2)
    (hj : j < 32) : (groupRecord planes g).testBit (32 * b + j) = (recordWord g b).testBit j := by
  rw [← fld_groupRecord hg hb, testBit_fld _ _ _ _ hj]

theorem groupRecords : GroupRecords := by
  intro planes g hg _ _ r
  have hfirst : fld r 0 32 = wrap 16 g.1 := fld_groupRecord hg (by omega : 0 < planes + 2)
  have hlow : r % 2 ^ 32 = wrap 16 g.1 := by simpa [fld] using hfirst
  have hexp : wrap 16 g.1 < 2 ^ 16 := wrap_lt ..
  refine ⟨?_, ?_, ?_, fun j hj => ⟨?_, fun p hp => ?_⟩⟩
  · simp only [fld]
    omega
  · simp only [fld]
    omega
  · exact (groupRecord_eq planes g).trans_lt (digitSum_lt (recordWord_lt hg) _)
  · exact (testBit_groupRecord hg (by omega : 1 < planes + 2) (hg ▸ hj)).trans (planeNumber_testBit _ _ hj)
  · exact (testBit_groupRecord hg (by omega) (hg ▸ hj)).trans (planeNumber_testBit _ _ hj)

end Sys2Proof.Proofs
end

section
/-! What a form that writes a tile at its issue leaves: CSRs, records in the scratchpad, flags raised (O33). -/

namespace Sys2Proof.Proofs
open Sys2Proof.Machine Sys2Proof.Claim

/-! ### Completion and the CSRs (R225) -/

/-- The end checks write the two loop counts alone (R225). -/
theorem loopEnd_csrAt (k : Core) (n : Nat) {m : Nat} (h : 0x030 ≠ m ∧ 0x033 ≠ m) : (k.loopEnd n).csrAt m = k.csrAt m := by
  have hset : ∀ (l : Core) (v : Word), (l.setCsr 0x030 v).csrAt m = l.csrAt m ∧ (l.setCsr 0x033 v).csrAt m = l.csrAt m :=
    fun l v => ⟨Core.setCsr_csrAt_other l v h.1, Core.setCsr_csrAt_other l v h.2⟩
  unfold Core.loopEnd
  dsimp only
  split
  · split
    · exact (hset k _).2
    · split
      · split
        · exact (hset _ _).1.trans (hset k _).2
        · exact (hset _ _).1.trans (hset k _).2
      · exact (hset k _).2
  · split
    · split
      · exact (hset k _).1
      · exact (hset k _).1
    · rfl

theorem onlyCsrs_retire {k l : Core} {ns : List Nat} (h : onlyCsrs k l ns) (n : Nat) : onlyCsrs k (l.retire n) ns := by
  intro m hm hne
  have hmem : 0x030 ≠ m ∧ 0x033 ≠ m ∧ 0x051 ≠ m := by
    simp only [List.mem_cons, List.not_mem_nil, or_false, not_or] at hne
    omega
  obtain ⟨h30, h33, h51⟩ := hmem
  calc (l.retire n).csrAt m = (l.loopEnd n).csrAt m := Core.setCsr_csrAt_other _ _ h51
    _ = l.csrAt m := loopEnd_csrAt l n ⟨h30, h33⟩
    _ = k.csrAt m := h m hm hne

/-! ### Flags raised by a whole-register form (R233) -/

/-- The core after a recording form has raised these flags (R62). -/
def raiseRecorded (fl : List (Nat × Flags)) (k : Core) : Core :=
  fl.foldl (fun k f => (k.orFlags f.2).vfxRecord f.2 f.1) k.vfxClear

theorem wholeRaise_recorded (fl : List (Nat × Flags)) (s : State) :
    wholeRaise true fl s = .ok () (s.modSelf (raiseRecorded fl)) := rfl

/-- Raising flags changes no field but the CSRs. -/
theorem raiseRecorded_beside {γ : Type} (p : Core → γ) (hp : ∀ k n v, p (Core.setCsr k n v) = p k) (fl : List (Nat × Flags))
    (k : Core) : p (raiseRecorded fl k) = p k :=
  (foldl_keeps p (fun k _ => ((hp _ _ _).trans (hp _ _ _)).trans (hp k _ _)) fl _).trans ((hp _ _ _).trans (hp k _ _))

theorem raiseRecorded_csrAt (fl : List (Nat × Flags)) (k : Core) {m : Nat} (hm : m ∉ [0x008, 0x00A, 0x00B]) :
    (raiseRecorded fl k).csrAt m = k.csrAt m := by
  simp only [List.mem_cons, List.not_mem_nil, or_false, not_or] at hm
  obtain ⟨h8, hA, hB⟩ := hm
  have hset : ∀ (l : Core) (v w : Word), ((l.setCsr 0x00A v).setCsr 0x00B w).csrAt m = l.csrAt m := fun l v w =>
    (Core.setCsr_csrAt_other _ _ (Ne.symm hB)).trans (Core.setCsr_csrAt_other _ _ (Ne.symm hA))
  exact (foldl_keeps (·.csrAt m) (fun l f => (hset _ _ _).trans (Core.setCsr_csrAt_other l _ (Ne.symm h8))) fl _).trans (hset k _ _)

theorem raiseRecorded_sameThread (fl : List (Nat × Flags)) (k : Core) : SameThread k (raiseRecorded fl k) :=
  SameThread.foldl (fun l _ _ => (((SameThread.refl l).orFlags _).setCsr _ (by decide)).setCsr _ (by decide))
    (((SameThread.refl k).setCsr _ (by decide)).setCsr _ (by decide))

/-! ### Checks of a whole-register form (R233) -/

theorem vWhole_ok {q : Issue} {s : State} (h : Issues s.self q) (hv : s.self.vstart = 0) :
    vWhole q s = .ok (s.self.vrows * s.self.vcols) s := by
  simp only [vWhole, X.bind_apply, vIssue_ok h, X.self_apply, hv, beq_self_eq_true, Bool.or_true, X.require_true, X.pure_apply]

theorem wholePoison_ok {n : Nat} {bad : Core → Nat → List (Nat × Nat)} {s : State} (hp : s.self.vec.poison = []) :
    wholePoison n bad s = .ok () s := by
  simp only [wholePoison, X.bind_apply, X.self_apply, hp, List.isEmpty_nil, if_true, X.pure_apply]

theorem wholeTrap_ok {fl : List (Nat × Flags)} {s : State} (hf : ∀ f ∈ fl, s.self.trapping f.2 = false) :
    wholeTrap fl s = .ok () s := by
  have hnone : fl.find? (fun f => s.self.trapping f.2) = none := List.find?_eq_none.mpr fun f h => by simp [hf f h]
  simp only [wholeTrap, X.bind_apply, X.self_apply, hnone, X.pure_apply]

theorem wholeCheck_ok {n : Nat} {bad : Core → Nat → List (Nat × Nat)} {fl : List (Nat × Flags)} {g : Core → Core} {s : State}
    (hp : s.self.vec.poison = []) (hf : ∀ f ∈ fl, s.self.trapping f.2 = false) :
    wholeCheck n bad fl (onTrap g) s = .ok () s := by
  simp only [wholeCheck, X.bind_apply, X.self_apply, onTrap, wholePoison_ok hp, wholeTrap_ok hf]

/-! ### Records in the scratchpad -/

/-- n numbers of b bytes each, stored one after another from a place of the scratchpad. -/
def storeRecords (k : Core) (place b : Nat) (v : Nat → Nat) (n : Nat) : Core :=
  (List.range n).foldl (fun k i => k.scratchWrite (place + i * b) b (v i)) k

theorem storeRecords_succ (k : Core) (place b : Nat) (v : Nat → Nat) (n : Nat) :
    storeRecords k place b v (n + 1) = (storeRecords k place b v n).scratchWrite (place + n * b) b (v n) := by
  simp only [storeRecords, List.range_succ, List.foldl_append, List.foldl_cons, List.foldl_nil]

/-- Storing records changes no field but the scratchpad and its poison. -/
theorem storeRecords_beside {γ : Type} (p : Core → γ) (hp : ∀ k off m v, p (Core.scratchWrite k off m v) = p k) (k : Core)
    (place b : Nat) (v : Nat → Nat) (n : Nat) : p (storeRecords k place b v n) = p k :=
  foldl_keeps p (fun k _ => hp k _ _ _) _ k

theorem storeRecords_sameThread (k : Core) (place b : Nat) (v : Nat → Nat) (n : Nat) :
    SameThread k (storeRecords k place b v n) :=
  SameThread.foldl (fun _ _ _ => ⟨rfl, rfl, rfl, fun _ _ => rfl⟩) (.refl k)

theorem storeRecords_read (k : Core) (place b : Nat) (v : Nat → Nat) {n i : Nat} (h : i < n) :
    (storeRecords k place b v n).scratch.read (place + i * b) b = v i % 256 ^ b := by
  induction n with
  | zero => exact absurd h (Nat.not_lt_zero i)
  | succ n ih =>
    rw [storeRecords_succ]
    rcases Nat.lt_succ_iff_lt_or_eq.mp h with hlt | rfl
    · have hbelow : (i + 1) * b ≤ n * b := Nat.mul_le_mul_right b hlt
      exact (Mem.write_read_other _ _ _ _ _ _ (.inl (by rw [Nat.succ_mul] at hbelow; omega))).trans (ih hlt)
    · exact Mem.write_read ..

theorem storeRecords_get_other (k : Core) (place b : Nat) (v : Nat → Nat) {n a : Nat} (h : a < place ∨ place + n * b ≤ a) :
    (storeRecords k place b v n).scratch.get a = k.scratch.get a := by
  induction n with
  | zero => rfl
  | succ n ih =>
    rw [Nat.succ_mul] at h
    rw [storeRecords_succ]
    exact (Mem.write_get_other _ _ _ _ (by rcases h with h | h <;> omega)).trans (ih (by omega))

end Sys2Proof.Proofs
end

section
/-! VPLN (O33). -/

namespace Sys2Proof.Proofs
open Sys2Proof.Machine Sys2Proof.Claim

/-! ### The parts of VPLN (R272, R280) -/

/-- The number of planes that VPLN packs (R272). -/
def vplnPlanes (f : TT) : Nat := f.uvalue % 32 + 1

/-- The register of its source (R272). -/
def vplnReg (f : TT) : Nat := fld f.uvalue 5 5

theorem vplnReg_lt (f : TT) : vplnReg f < 32 := Nat.mod_lt _ (by decide)

/-- Column c of row r of the source, zero beyond the columns (R280). -/
def vplnValue (f : TT) (src : ET) (k : Core) (r c : Nat) : FVal :=
  if c < k.vcols then elemVal src (elem k (vplnReg f) (ETwidth src) (r * k.vcols + c)) else .num false 0 0

/-- Group g of row r packed (R280). -/
def vplnGroup (f : TT) (src : ET) (k : Core) (r g : Nat) : Int × List (Nat × Bool × Bool) :=
  packGroup (vplnPlanes f) (topExponent src) ((List.range 32).map fun j => vplnValue f src k r (32 * g + j))

/-- A value that is not a finite number (R280). -/
def notFinite : FVal → Bool
  | .num .. => false
  | _ => true

/-- The flags of row r, column c: NX for an inexact magnitude, NV for an infinity or NaN (R280). -/
def vplnFlags (f : TT) (src : ET) (k : Core) (r c : Nat) : Flags :=
  flagIf (((vplnGroup f src k r (c / 32)).2[c % 32]?).any fun q => q.2.2) flagNX ||| flagIf (notFinite (vplnValue f src k r c)) flagNV

/-- The groups of a row. -/
def vplnGroups (k : Core) : Nat := cdiv k.vcols 32

/-- The group that VPLN packs in place rg of its tile, row by row. -/
def vplnRecord (f : TT) (src : ET) (k : Core) (rg : Nat) : Int × List (Nat × Bool × Bool) :=
  vplnGroup f src k (rg / vplnGroups k) (rg % vplnGroups k)

/-- What VPLN sets in its tile beside the state (R272). -/
def packedTile (f : TT) (src : ET) (e : Tile) : Tile :=
  { e with pk := true, p := BitVec.ofNat 5 (vplnPlanes f), et := BitVec.ofNat 5 src.code, conf := false, pot := false }

/-- The tile a fill goes on with its packing. -/
def samePacking (f : TT) (src : ET) (k : Core) : Prop :=
  k.rd f.xb = 0 ∨ (k.tile f.t.toNat).pk = true ∧ (k.tile f.t.toNat).p.toNat = vplnPlanes f ∧
    (k.tile f.t.toNat).et.toNat = src.code

/-- VPLN goes on with a tile of another packing. -/
def repacks (f : TT) (src : ET) (k : Core) : Bool :=
  k.rd f.xb != 0 && !((k.tile f.t.toNat).pk && (k.tile f.t.toNat).p.toNat == vplnPlanes f && (k.tile f.t.toNat).et.toNat == src.code)

theorem repacks_iff {f : TT} {src : ET} {k : Core} : repacks f src k = true ↔ ¬samePacking f src k := by
  simp only [repacks, samePacking, Bool.and_eq_true, Bool.not_eq_true', bne_iff_ne, Bool.and_eq_false_iff, beq_eq_false_iff_ne,
    not_or, not_and_or, Bool.not_eq_true, ne_eq, or_assoc]

/-- The bytes of the tile up to the last record (R272). -/
def vplnNeed (f : TT) (k : Core) : Nat := ((k.rd f.xb).toNat + k.vrows * vplnGroups k) * recordBytes (vplnPlanes f)

/-- VPLN of records from index `first` of a tile on (R272): flags raised, records stored, the tile READY. -/
def storePlanes (f : TT) (src : ET) (fl : List (Nat × Flags)) (k : Core) : Core :=
  let t := f.t.toNat
  let b := recordBytes (vplnPlanes f)
  let filling := k.setTile t { packedTile f src (k.tile t) with st := .filling, susp := false }
  (storeRecords (raiseRecorded fl filling) ((k.tile t).start + (k.rd f.xb).toNat * b) b
    (fun i => groupRecord (vplnPlanes f) (vplnRecord f src k i)) (k.vrows * vplnGroups k)).modTile t fun e => { e with st := .ready }

theorem storeRecords_zip (k : Core) (start first b : Nat) (rec : α → Nat) (P : Nat → α) (n : Nat) :
    ((List.range ((List.range n).map P).length).zip ((List.range n).map P)).foldl
      (fun k g => k.scratchWrite (start + (first + g.1) * b) b (rec g.2)) k =
    storeRecords k (start + first * b) b (fun i => rec (P i)) n := by
  have hzip : (List.range n).zip ((List.range n).map P) = (List.range n).map fun i => (i, P i) := by
    simpa only [List.map_id, id] using List.zip_map' (l := List.range n) (f := id) (g := P)
  rw [List.length_map, List.length_range, hzip, List.foldl_map, storeRecords]
  simp only [Nat.add_mul, Nat.add_assoc]

/-! ### VPLN checked -/

theorem ETew_le {t : ET} (h : t ≠ .wac) : ETew t ≤ 4 := by
  cases t with
  | wac => exact absurd rfl h
  | _ => decide

/-- The issue checks of VPLN. -/
def vplnIssue (f : TT) (src : ET) : Issue :=
  { word := Instr.word (.vpln f), ew := some (ETew src), et := src.code, srcs := [(vplnReg f, vplnReg f, true)], dsts := [] }

theorem vplnIssue_issues {f : TT} {src : ET} {s : State} (h : admits s (ETew src) [BitVec.ofNat 7 (vplnReg f)]) (hsrc : src ≠ .wac) :
    Issues s.self (vplnIssue f src) := by
  obtain ⟨hew, hscope, hshape, -, -, hreg⟩ := h
  have hlt := vplnReg_lt f
  have hcode : (BitVec.ofNat 7 (vplnReg f)).toNat = vplnReg f := by
    rw [BitVec.toNat_ofNat]
    omega
  have hvec : (BitVec.ofNat 7 (vplnReg f)).getLsbD 6 = false := by
    rw [BitVec.getLsbD_ofNat, Nat.testBit_lt_two_pow (Nat.lt_of_lt_of_le hlt (by decide)), Bool.and_false]
  have hfull := (hreg _ (List.mem_singleton.mpr rfl) hvec).1
  rw [hcode] at hfull
  exact { ew := hew ▸ (ETew_le hsrc).trans (by decide), scope := hscope, width := .inr (congrArg some hew.symm), shape := hshape
          small := .inr ⟨by simpa [vplnIssue] using hlt, by simp [vplnIssue]⟩
          srcs := by simpa [vplnIssue] using hfull, dsts := by simp [vplnIssue] }

/-- What VPLN meets at its issue. -/
theorem vpln_issues {f : TT} {src : ET} {s : State} (hsrc : src ≠ .wac) (hready : ready s [f.xb])
    (hw : wholes s (ETew src) [BitVec.ofNat 7 (vplnReg f)]) : s.self.empty f.xb = false ∧ s.self.ew ≤ 4 ∧
      vWhole (vplnIssue f src) s = .ok (s.self.vrows * s.self.vcols) s := by
  obtain ⟨⟨hadm, -⟩, hstart, -⟩ := hw
  exact ⟨ready_empty hready (List.mem_singleton.mpr rfl), hadm.1 ▸ ETew_le hsrc, vWhole_ok (vplnIssue_issues hadm hsrc) hstart⟩

theorem fillAccepts_ok {t : Nat} {e : Tile} {s : State}
    (h : e.st = .empty ∨ (e.st = .ready ∨ e.st = .poisoned) ∧ e.readers = 0) : fillAccepts t e s = .ok () s := by
  rcases h with h | ⟨h | h, hr⟩
  · simp only [fillAccepts, h, X.pure_apply]
  · simp only [fillAccepts, h, hr, beq_self_eq_true, X.awaiting_true]
  · simp only [fillAccepts, h, hr, beq_self_eq_true, X.awaiting_true]

theorem fillStart_ok {t : Nat} {g : Tile → Tile} {s : State}
    (h : (s.self.tile t).st = .empty ∨ ((s.self.tile t).st = .ready ∨ (s.self.tile t).st = .poisoned) ∧ (s.self.tile t).readers = 0) :
    fillStart t g s = .ok () (s.modSelf fun k => k.setTile t { g (s.self.tile t) with st := .filling, susp := false }) := by
  simp only [fillStart, X.bind_apply, X.self_apply, fillAccepts_ok h, X.modSelf_apply]

/-- The group of a place among the packed records. -/
theorem vplnRecord_at (f : TT) (src : ET) (k : Core) {r g : Nat} (hg : g < vplnGroups k) :
    vplnRecord f src k (r * vplnGroups k + g) = vplnGroup f src k r g := by
  have hpos := Nat.zero_lt_of_lt hg
  rw [vplnRecord, Nat.mul_comm, Nat.mul_add_div hpos, Nat.div_eq_of_lt hg, Nat.mul_add_mod, Nat.mod_eq_of_lt hg, Nat.add_zero]

/-- The magnitude at column c of the packed record i was inexact. -/
def inexactAt (packed : List (Int × List (Nat × Bool × Bool))) (i c : Nat) : Bool :=
  match packed[i]? with
  | some g => ((g.2[c]?).getD (0, false, false)).2.2
  | none => false

theorem inexactAt_of_getElem {packed : List (Int × List (Nat × Bool × Bool))} {i : Nat} {g : Int × List (Nat × Bool × Bool)}
    (h : packed[i]? = some g) (c : Nat) : inexactAt packed i c = (g.2[c]?).any fun q => q.2.2 := by
  simp only [inexactAt, h]
  cases g.2[c]? <;> rfl

/-- Group g of row r is among the records. -/
theorem record_lt {k : Core} {r g : Nat} (hr : r < k.vrows) (hg : g < vplnGroups k) :
    r * vplnGroups k + g < k.vrows * vplnGroups k := by
  have hrow := Nat.mul_le_mul_right (vplnGroups k) hr
  rw [Nat.succ_mul] at hrow
  omega

/-- Of the listed records, the one of row r and group g. -/
theorem getElem_vplnRecords (f : TT) (src : ET) (k : Core) {r g : Nat} (hr : r < k.vrows) (hg : g < vplnGroups k) :
    ((List.range (k.vrows * vplnGroups k)).map (vplnRecord f src k))[r * vplnGroups k + g]? = some (vplnGroup f src k r g) := by
  rw [List.getElem?_map, List.getElem?_range (record_lt hr hg), Option.map_some, vplnRecord_at f src k hg]

theorem group_lt {k : Core} {c : Nat} (hc : c < k.vcols) : c / 32 < vplnGroups k := by
  rw [vplnGroups, cdiv]
  omega

/-- Element i of the shape is column i % VCOLS of row i / VCOLS: its flags, read from the listed records. -/
theorem vplnFlags_at (f : TT) (src : ET) (k : Core) {i : Nat} (hi : i < k.vrows * k.vcols) :
    i / k.vcols < k.vrows ∧ i % k.vcols < k.vcols ∧
    flagIf (inexactAt ((List.range (k.vrows * vplnGroups k)).map (vplnRecord f src k))
      (i / k.vcols * vplnGroups k + i % k.vcols / 32) (i % k.vcols % 32)) flagNX |||
        flagIf (notFinite (vplnValue f src k (i / k.vcols) (i % k.vcols))) flagNV =
      vplnFlags f src k (i / k.vcols) (i % k.vcols) := by
  have hpos : 0 < k.vcols := Nat.pos_of_mul_pos_left (Nat.zero_lt_of_lt hi)
  have hrow : i / k.vcols < k.vrows := Nat.div_lt_of_lt_mul (Nat.mul_comm k.vrows k.vcols ▸ hi)
  have hcol : i % k.vcols < k.vcols := Nat.mod_lt i hpos
  exact ⟨hrow, hcol, by rw [inexactAt_of_getElem (getElem_vplnRecords f src k hrow (group_lt hcol)), vplnFlags]⟩

/-! ### VPLN executed -/

theorem finish_did_exists {α : Type} {n : Nat} {m : X Unit} {s : State} {g : α → Core → Core}
    (h : ∃ a, m s = .ok () (s.modSelf (g a))) : ∃ a, finish n m s = did s n (g a) := h.imp fun _ => finish_did

section
variable {f : TT} {src : ET} {s : State} (hcode : ET.ofCode f.mode.toNat = some src) (hsrc : src ≠ .wac)
  (hready : ready s [f.xb]) (hw : wholes s (ETew src) [BitVec.ofNat 7 (vplnReg f)])
  (hv : (s.self.tile f.t.toNat).v = true) (hten : (s.self.tile f.t.toNat).tenant = s.self.tk.tenant)
  (hneed : vplnNeed f s.self ≤ (s.self.tile f.t.toNat).bytes)
include hcode hsrc hready hw hv hten hneed

/-- A later record does not go into a tile packed otherwise (R272). -/
theorem exec_vpln_otherwise (hsame : ¬samePacking f src s.self) (hf : s.self.tf = false) :
    exec (.vpln f) s = trapped s 9 (tileValue f.t.toNat (s.self.tile f.t.toNat) 0) s.self.pc := by
  obtain ⟨hx, hew, hissue⟩ := vpln_issues hsrc hready hw
  obtain ⟨-, -, hn⟩ := hw
  have hpk := repacks_iff.mpr hsame
  refine finish_trapped (m := _) ?_ hf rfl
  simp only [vplnIssue, vplnReg, vplnNeed, vplnGroups, vplnPlanes, repacks] at hissue hneed hpk
  simp only [X.bind_apply, readX_ok hx, X.self_apply, hew, decide_true, X.require_true, hcode,
    hissue, if_neg hn, namedTile_mine hv hten, hneed, hpk, if_true, tileTrap, X.trap_apply]
  rfl

/-- Where nothing traps VPLN is one write of the core (R272); the flags it lists are left open. -/
theorem exec_vpln_same (hsame : samePacking f src s.self)
    (hflags : ∀ r < s.self.vrows, ∀ c < s.self.vcols, s.self.trapping (vplnFlags f src s.self r c) = false)
    (hst : (s.self.tile f.t.toNat).st = .empty ∨ ((s.self.tile f.t.toNat).st = .ready ∨ (s.self.tile f.t.toNat).st = .poisoned) ∧
      (s.self.tile f.t.toNat).readers = 0) :
    ∃ fl, exec (.vpln f) s = did s (extSize f.ext) (storePlanes f src fl) := by
  obtain ⟨hx, hew, hissue⟩ := vpln_issues hsrc hready hw
  obtain ⟨⟨-, hp⟩, -, hn⟩ := hw
  have hpk : repacks f src s.self = false := Bool.eq_false_iff.mpr fun h => repacks_iff.mp h hsame
  refine finish_did_exists (m := _) ?_
  simp only [vplnIssue, vplnReg, vplnNeed, vplnGroups, vplnPlanes, repacks] at hissue hneed hpk
  simp only [X.bind_apply, readX_ok hx, X.self_apply, hew, decide_true, X.require_true, hcode,
    hissue, if_neg hn, namedTile_mine hv hten, hneed, hpk, Bool.false_eq_true, if_false, fillAccepts_ok hst]
  rw [wholeCheck_ok hp]
  · simp only [fillStart_ok hst, wholeRaise_recorded, X.modSelf_apply, State.modSelf_modSelf]
    exact ⟨_, congrArg _ (State.modSelf_congr s (congrArg (fun k => Core.modTile k f.t.toNat _)
      (storeRecords_zip _ _ _ _ (groupRecord (vplnPlanes f)) (vplnRecord f src s.self) _)))⟩
  · intro entry hentry
    obtain ⟨i, hi, rfl⟩ := List.mem_map.mp hentry
    obtain ⟨hrow, hcol, hfl⟩ := vplnFlags_at f src s.self (List.mem_range.mp hi)
    exact (congrArg s.self.trapping hfl).trans (hflags _ hrow _ hcol)

end

end Sys2Proof.Proofs
end

section
/-! What VPLN leaves, and the records it writes (O33). -/

namespace Sys2Proof.Proofs
open Sys2Proof.Machine Sys2Proof.Claim

/-! ### What VPLN leaves (R272) -/

section
variable (f : TT) (src : ET) (fl : List (Nat × Flags)) (k : Core)

/-- A field that no CSR, no tile and no byte of the scratchpad belongs to is left. -/
theorem storePlanes_beside {γ : Type} (p : Core → γ) (hcsr : ∀ k n v, p (Core.setCsr k n v) = p k)
    (hscratch : ∀ k off m v, p (Core.scratchWrite k off m v) = p k) (htile : ∀ k t e, p (Core.setTile k t e) = p k) :
    p (storePlanes f src fl k) = p k :=
  (htile _ _ _).trans ((storeRecords_beside p hscratch _ _ _ _ _).trans ((raiseRecorded_beside p hcsr _ _).trans (htile _ _ _)))

theorem storePlanes_sameThread : SameThread k (storePlanes f src fl k) :=
  have hfilling : ∀ (l : Core) e, SameThread l (l.setTile f.t.toNat e) := fun _ _ => ⟨rfl, rfl, rfl, fun _ _ => rfl⟩
  (((hfilling k _).trans (raiseRecorded_sameThread _ _)).trans (storeRecords_sameThread _ _ _ _ _)).trans (hfilling _ _)

theorem storePlanes_onlyCsrs : onlyCsrs k (storePlanes f src fl k) [0x008, 0x00A, 0x00B] := fun m hm _ =>
  (storeRecords_beside (·.csrAt m) (fun _ _ _ _ => rfl) _ _ _ _ _).trans (raiseRecorded_csrAt fl _ hm)

/-- Flags and records leave the tiles. -/
theorem storeRecords_raised_tile (l : Core) (place b : Nat) (v : Nat → Nat) (n c : Nat) :
    (storeRecords (raiseRecorded fl l) place b v n).tile c = l.tile c :=
  (storeRecords_beside (·.tile c) (fun _ _ _ _ => rfl) _ _ _ _ _).trans (raiseRecorded_beside (·.tile c) (fun _ _ _ => rfl) _ _)

theorem storePlanes_tile_same : (storePlanes f src fl k).tile f.t.toNat =
    { packedTile f src (k.tile f.t.toNat) with st := .ready, susp := false } := by
  rw [storePlanes, Core.modTile, setTile_tile_same _ f.t.isLt, storeRecords_raised_tile, setTile_tile_same _ f.t.isLt]

theorem storePlanes_tile_other {c : Nat} (h : c ≠ f.t.toNat) : (storePlanes f src fl k).tile c = k.tile c := by
  rw [storePlanes, Core.modTile, setTile_tile_other _ h, storeRecords_raised_tile, setTile_tile_other _ h]

theorem storePlanes_record {r g : Nat} (hr : r < k.vrows) (hg : g < vplnGroups k) :
    (storePlanes f src fl k).scratch.read
      ((k.tile f.t.toNat).start + ((k.rd f.xb).toNat + r * vplnGroups k + g) * recordBytes (vplnPlanes f)) (recordBytes (vplnPlanes f)) =
    groupRecord (vplnPlanes f) (vplnGroup f src k r g) % 2 ^ (8 * recordBytes (vplnPlanes f)) := by
  have hread := storeRecords_read (raiseRecorded fl
      (k.setTile f.t.toNat { packedTile f src (k.tile f.t.toNat) with st := .filling, susp := false }))
    ((k.tile f.t.toNat).start + (k.rd f.xb).toNat * recordBytes (vplnPlanes f)) (recordBytes (vplnPlanes f))
    (fun i => groupRecord (vplnPlanes f) (vplnRecord f src k i)) (record_lt hr hg)
  rw [vplnRecord_at f src k hg, show 256 = 2 ^ 8 from rfl, ← Nat.pow_mul, Nat.add_assoc, ← Nat.add_mul, ← Nat.add_assoc] at hread
  exact hread

theorem storePlanes_get_other {a : Nat} (h : a < (k.tile f.t.toNat).start + (k.rd f.xb).toNat * recordBytes (vplnPlanes f) ∨
    (k.tile f.t.toNat).start + vplnNeed f k ≤ a) : (storePlanes f src fl k).scratch.get a = k.scratch.get a := by
  rw [vplnNeed, Nat.add_mul, ← Nat.add_assoc] at h
  exact (storeRecords_get_other _ _ _ _ h).trans
    (congrArg (Mem.get · a) (raiseRecorded_beside (·.scratch) (fun _ _ _ => rfl) fl _))

end

theorem planePacking : PlanePacking := by
  intro f s src hcode hsrc k t e planes vn w first groups b value packed raised held same hready hw hv hten hheld
  refine ⟨exec_vpln_otherwise hcode hsrc hready hw hv hten hheld, fun hsame hflags hst => ?_⟩
  obtain ⟨fl, hexec⟩ := exec_vpln_same hcode hsrc hready hw hv hten hheld hsame hflags hst
  have hthread := storePlanes_sameThread f src fl k
  have htiles : ∀ c, ((storePlanes f src fl k).retire (extSize f.ext)).tile c = (storePlanes f src fl k).tile c := fun c => by
    rw [Core.tile, Core.retire_tiles, Core.tile]
  refine ⟨(storePlanes f src fl k).retire (extSize f.ext), hexec.trans (congrArg Host.Outcome.next (State.modSelf_congr s rfl)), ?_, ?_,
    hthread.retire_pc _, onlyCsrs_retire (storePlanes_onlyCsrs f src fl k) _, (htiles t).trans (storePlanes_tile_same f src fl k),
    fun c _ hc => (htiles c).trans (storePlanes_tile_other f src fl k hc), fun r hr g hg => ?_, fun a ha => ?_⟩
  · rw [Core.retire_vec]
    exact storePlanes_beside f src fl k (·.vec) (fun _ _ _ => rfl) (fun _ _ _ _ => rfl) fun _ _ _ => rfl
  · rw [Core.retire_x]
    exact hthread.x
  · rw [Core.retire_scratch]
    exact storePlanes_record f src fl k hr hg
  · rw [Core.retire_scratch]
    exact storePlanes_get_other f src fl k ha

/-- Settles O33: VPLN reduces to one write of the core (`exec_vpln_same`) whose fields are read off one by one; a group record is a number
of 32-bit digits. -/
theorem packedPlanes : Obligations.PackedPlanes := ⟨planePacking, groupRecords⟩

end Sys2Proof.Proofs
end

section
/-! What changes the caches of cores and the memory system alone (O35). -/

namespace Sys2Proof.Proofs
open Sys2Proof.Machine Sys2Proof.Claim

/-! ### Caches and the memory system -/

/-- Between two states only the memory system and the caches of cores differ. -/
structure CachesOnly (s t : State) : Prop where
  state : t = { s with cores := t.cores, ms := t.ms }
  core : ∀ c, t.core c = { s.core c with cache := (t.core c).cache }

/-- A change of a core's caches alone. -/
def OfCache (f : Core → Core) : Prop := ∀ k, f k = { k with cache := (f k).cache }

namespace CachesOnly
variable {s t u : State}

theorem refl (s : State) : CachesOnly s s := ⟨rfl, fun _ => rfl⟩

theorem trans (h : CachesOnly s t) (h' : CachesOnly t u) : CachesOnly s u where
  state := h'.state.trans (by rw [h.state])
  core c := (h'.core c).trans (by rw [h.core c])

theorem withMs (s : State) (ms : MemSys) : CachesOnly s { s with ms := ms } := ⟨rfl, fun _ => rfl⟩

theorem modCore (s : State) (c : CoreId) {f : Core → Core} (hf : OfCache f) : CachesOnly s (s.modCore c f) where
  state := rfl
  core d := by
    by_cases h : d = c
    · subst h
      rw [State.modCore_core_same]
      exact hf _
    · rw [State.modCore_core_other s f h]

theorem modSelf (s : State) {f : Core → Core} (hf : OfCache f) : CachesOnly s (s.modSelf f) := modCore s s.cur hf

theorem modCluster (s : State) (cl : BitVec 6) {f : Core → Core} (hf : OfCache f) : CachesOnly s (s.modCluster cl f) :=
  (((modCore _ _ hf).trans (modCore _ _ hf)).trans (modCore _ _ hf)).trans (modCore _ _ hf)

theorem cur (h : CachesOnly s t) : t.cur = s.cur := by rw [h.state]

theorem self (h : CachesOnly s t) : t.self = { s.self with cache := t.self.cache } := by
  unfold State.self
  rw [h.cur]
  exact h.core s.cur

end CachesOnly

/-- A core with other caches. -/
def withCache (c : CoreCache) (k : Core) : Core := { k with cache := c }

/-- A core completes alike whatever its caches hold (R225). -/
theorem retire_withCache (c : CoreCache) (k : Core) (n : Nat) : (withCache c k).retire n = withCache c (k.retire n) := by
  have hloop : (withCache c k).loopEnd n = withCache c (k.loopEnd n) := by
    unfold Core.loopEnd
    simp only [apply_ite (withCache c)]
    rfl
  rw [Core.retire, hloop]
  rfl

/-- The instruction that has changed caches and memory alone completes with f done to its core. -/
theorem CachesOnly.onlyCaches {s t : State} (h : CachesOnly s t) (n : Nat) {f : Core → Core}
    (hf : ∀ k c, f (withCache c k) = withCache c (f k)) :
    onlyCaches s (t.modSelf fun k => (f k).retire n) n f := by
  have hself : t.self = withCache t.self.cache s.self := h.self
  refine ⟨?_, fun c hc => ?_, ?_⟩
  · rw [State.modSelf_self, hself, hf, retire_withCache]
    rfl
  · rw [State.modSelf_core_other t _ (h.cur ▸ hc)]
    exact h.core c
  · exact congrArg (fun u : State => { u with cores := (t.modSelf fun k => (f k).retire n).cores, ms := t.ms }) h.state

/-! ### Steps that change caches and the memory system alone -/

/-- The state in which a step ends. -/
def endState {α : Type} : EStateM.Result Stop State α → State
  | .ok _ t => t
  | .error _ t => t

/-- A step that changes caches and the memory system alone, however it ends. -/
def Caching {α : Type} (m : X α) : Prop := ∀ s, CachesOnly s (endState (m s))

namespace Caching
variable {α β : Type}

theorem bind {m : X α} {f : α → X β} (hm : Caching m) (hf : ∀ a, Caching (f a)) : Caching (m >>= f) := by
  intro s
  have h := hm s
  rw [X.bind_apply]
  cases hr : m s with
  | ok a t =>
    rw [hr] at h
    exact h.trans (hf a t)
  | error e t =>
    rw [hr] at h
    exact h

theorem pure (a : α) : Caching (pure a : X α) := fun s => CachesOnly.refl s
theorem throw (e : Stop) : Caching (throw e : X α) := fun s => CachesOnly.refl s
theorem get : Caching (get : X State) := fun s => CachesOnly.refl s

theorem require (b : Bool) (c : Nat) (v : Word) : Caching (Machine.require b c v) := by
  cases b <;> exact fun s => CachesOnly.refl s

theorem modify {f : State → State} (h : ∀ s, CachesOnly s (f s)) : Caching (modify f : X Unit) := h

/-- A step that reads the state and goes on from it. -/
theorem get_bind {f : State → X α} (h : ∀ s, CachesOnly s (endState (f s s))) : Caching (MonadState.get >>= f : X α) := h

theorem ite {p : Prop} [Decidable p] {m n : X α} (hm : Caching m) (hn : Caching n) : Caching (if p then m else n) := by
  split <;> assumption

/-- Either of two steps, then a third. -/
theorem ite_bind {p : Prop} [Decidable p] {m n : X α} {f : α → X β} (hm : Caching m) (hn : Caching n) (hf : ∀ a, Caching (f a)) :
    Caching (if p then m >>= f else n >>= f) := ite (bind hm hf) (bind hn hf)

theorem mapM {f : α → X β} (h : ∀ a, Caching (f a)) (l : List α) : Caching (l.mapM f) := by
  induction l with
  | nil => exact pure _
  | cons a l ih =>
    rw [List.mapM_cons]
    exact bind (h a) fun _ => bind ih fun _ => pure _

theorem retag {m : X α} (h : Caching m) (kind : Nat) (addr : Option Nat) : Caching (Machine.retag kind addr m) := by
  intro s
  have hs := h s
  unfold Machine.retag
  cases hr : m s with
  | ok a t =>
    rw [hr] at hs
    exact hs
  | error e t =>
    rw [hr] at hs
    cases e <;> exact hs

theorem quiet {m : X α} (h : Caching m) : Caching (Machine.quiet m) := by
  have hback : ∀ {s t : State}, CachesOnly s t →
      CachesOnly s { t with cores := s.cores, ms := { t.ms with l2tlb := s.ms.l2tlb, pwc := s.ms.pwc } } := by
    intro s t ht
    refine ⟨?_, fun _ => rfl⟩
    conv_lhs => rw [ht.state]
  intro s
  have hs := h s
  unfold Machine.quiet
  cases hr : m s <;>
  · rw [hr] at hs
    exact hback hs

end Caching

/-! ### Translation -/

theorem l1Install_cachesOnly (s : State) (c : CoreId) (e : TlbEntry) : CachesOnly s (s.l1Install c e) :=
  CachesOnly.modCore s c fun _ => rfl

theorem tlbLookup_caching (c : Ctx) (va : Word) (kind : Nat) : Caching (tlbLookup c va kind) := by
  refine Caching.get_bind fun s => ?_
  cases (s.core c.core).cache.tlb.find? (·.serves c va kind) with
  | some e => exact CachesOnly.refl s
  | none =>
    cases s.ms.l2tlb.find? fun o => o.1 == clusterOf c.core && o.2.serves c va kind with
    | some e => exact l1Install_cachesOnly s _ _
    | none => exact CachesOnly.refl s

theorem walkLevels_caching (c : Ctx) (va : Word) (kind : Nat) (ls : List Nat) (tbl : Nat) (path : List WalkEntry) :
    Caching (walkLevels c va kind ls tbl path) := by
  induction ls generalizing tbl path with
  | nil => exact Caching.pure _
  | cons lvl rest ih =>
    refine Caching.bind Caching.get fun s => Caching.bind (Caching.require _ _ _) fun _ => ?_
    refine Caching.bind (Caching.modify fun t => CachesOnly.withMs t _) fun _ => Caching.bind (Caching.require _ _ _) fun _ => ?_
    refine Caching.bind (Caching.require _ _ _) fun _ => Caching.bind (Caching.require _ _ _) fun _ => ?_
    exact Caching.ite (Caching.pure _) (ih _ _)

theorem walk_caching (c : Ctx) (va : Word) (kind : Nat) : Caching (walk c va kind) := by
  refine Caching.bind Caching.get fun s => ?_
  dsimp only
  split <;> exact walkLevels_caching _ _ _ _ _ _

theorem setAD_caching (c : Ctx) (l : Leaf) (kind : Nat) : Caching (setAD c l kind) := by
  unfold setAD
  refine Caching.ite (Caching.pure _) (Caching.bind (Caching.modify fun s => ?_) fun _ => Caching.pure _)
  exact (CachesOnly.withMs s _).trans (CachesOnly.modCore _ _ fun _ => rfl)

theorem atsTranslate_caching (c : Ctx) (level : Nat) (va : Word) (pa kind : Nat) :
    Caching (atsTranslate c level va pa kind) := by
  refine Caching.get_bind fun s => ?_
  simp only [X.ite_apply, X.bind_apply, X.set_apply, X.trap_apply]
  split
  · exact CachesOnly.withMs s _
  · generalize s.ms.atc.find? _ = found
    cases found with
    | none => exact CachesOnly.withMs s _
    | some e =>
      simp only [X.ite_apply, X.bind_apply, X.set_apply, X.throw_apply, X.pure_apply]
      split <;> exact CachesOnly.withMs s _

theorem translate_caching (c : Ctx) (va : Word) (q : Ask) (ok : Word → Nat → Bool) : Caching (translate c va q ok) := by
  unfold Machine.translate
  extract_lets served
  have hserved : ∀ cached, Caching (served cached) := by
    intro cached
    cases cached with
    | some t =>
      refine Caching.bind Caching.get fun s => Caching.bind (Caching.require _ _ _) fun _ => ?_
      refine Caching.bind (Caching.require _ _ _) fun _ => ?_
      refine Caching.ite_bind (atsTranslate_caching _ _ _ _ _) (Caching.pure _) fun ga => ?_
      exact Caching.bind (Caching.require _ _ _) fun _ => Caching.pure _
    | none =>
      refine Caching.bind (walk_caching _ _ _) fun l => Caching.bind Caching.get fun s => ?_
      refine Caching.bind (Caching.require _ _ _) fun _ => Caching.bind (Caching.require _ _ _) fun _ => ?_
      refine Caching.bind (Caching.require _ _ _) fun _ => ?_
      refine Caching.ite_bind (atsTranslate_caching _ _ _ _ _) (Caching.pure _) fun ga => ?_
      refine Caching.bind (setAD_caching _ _ _) fun e => Caching.bind (Caching.modify fun u => ?_) fun _ => ?_
      · exact (l1Install_cachesOnly u _ _).trans ((CachesOnly.withMs _ _).trans (CachesOnly.withMs _ _))
      · exact Caching.bind (Caching.require _ _ _) fun _ => Caching.pure _
  exact Caching.ite_bind (Caching.pure _) (tlbLookup_caching _ _ _) hserved

theorem runAddr_caching (c : Ctx) (va n kind : Nat) : Caching (runAddr c va n kind) :=
  Caching.bind (translate_caching _ _ _ _) fun _ => Caching.pure _

/-! ### Descriptors and tensor lines -/

theorem descFetch_caching (c : Ctx) (tid kind addr : Nat) : Caching (descFetch c tid kind addr) := by
  refine Caching.bind Caching.get fun s => Caching.bind (Caching.require _ _ _) fun _ => ?_
  split
  · exact Caching.pure _
  · refine Caching.bind (Caching.require _ _ _) fun _ => Caching.bind (Caching.modify fun u => CachesOnly.withMs u _) fun _ => ?_
    refine Caching.bind (Caching.require _ _ _) fun _ => Caching.bind (Caching.modify fun u => ?_) fun _ => Caching.pure _
    dsimp only
    split
    · exact CachesOnly.refl u
    · exact CachesOnly.withMs u _

theorem descWell_caching (c : Ctx) (tid kind addr : Nat) : Caching (descWell c tid kind addr) :=
  Caching.bind (descFetch_caching _ _ _ _) fun _ => Caching.bind (Caching.require _ _ _) fun _ => Caching.pure _

/-! ### Steps of the memory system that never fail -/

/-- A step that never fails and changes the memory system alone. -/
def Evicting {α : Type} (m : X α) : Prop := ∀ s, ∃ a ms, m s = .ok a { s with ms := ms }

namespace Evicting
variable {α β : Type}

theorem pure (a : α) : Evicting (pure a : X α) := fun s => ⟨a, s.ms, rfl⟩

theorem bind {m : X α} {f : α → X β} (hm : Evicting m) (hf : ∀ a, Evicting (f a)) : Evicting (m >>= f) := by
  intro s
  obtain ⟨a, ms, h⟩ := hm s
  obtain ⟨b, ms', h'⟩ := hf a { s with ms := ms }
  exact ⟨b, ms', by rw [X.bind_apply, h]; exact h'⟩

theorem get_bind {f : State → X α} (h : ∀ s, ∃ a ms, f s s = .ok a { s with ms := ms }) : Evicting (MonadState.get >>= f : X α) := h

theorem modify (f : State → MemSys) : Evicting (modify fun s => { s with ms := f s } : X Unit) := fun s => ⟨(), f s, rfl⟩

theorem caching {m : X α} (h : Evicting m) : Caching m := by
  intro s
  obtain ⟨a, ms, hm⟩ := h s
  rw [hm]
  exact CachesOnly.withMs s ms

end Evicting

/-- A write-back that cannot be translated is noted, and is no failure (R110, R112). -/
theorem writeBackTensor_evicting (h : HomeLine) : Evicting (writeBackTensor h) := by
  intro s
  have hq := Caching.quiet (Caching.mapM (fun r : Nat × Nat × Nat => runAddr_caching h.ctx r.2.2 r.2.1 1)
    (h.runs.filter fun r => fld h.dirty.toNat r.1 r.2.1 != 0)) s
  have hcores : (endState (Machine.quiet ((h.runs.filter fun r => fld h.dirty.toNat r.1 r.2.1 != 0).mapM
      fun r => runAddr h.ctx r.2.2 r.2.1 1) s)).cores = s.cores := by
    unfold Machine.quiet
    split <;> rfl
  have hstate : ∀ t : State, CachesOnly s t → t.cores = s.cores → ∀ ms, { t with ms := ms } = { s with ms := ms } := by
    intro t ht hc ms
    exact (congrArg (fun u : State => { u with ms := ms }) ht.state).trans (by rw [hc])
  unfold writeBackTensor
  dsimp only
  split <;>
  · rename_i heq
    rw [heq] at hq hcores
    exact ⟨_, _, congrArg _ (hstate _ hq hcores _)⟩

/-- An eviction never fails (R110, R111). -/
theorem evictHome_evicting (key : LineKey) : Evicting (evictHome key) := by
  refine Evicting.get_bind fun s => ?_
  generalize s.ms.home key = found
  cases found with
  | none => exact ⟨(), s.ms, rfl⟩
  | some h =>
    dsimp only
    rw [X.ite_apply]
    split
    · exact ⟨(), _, rfl⟩
    · cases key with
      | addr t l => exact ⟨(), _, rfl⟩
      | tensor t a i g n => exact (writeBackTensor_evicting h).bind (fun st => Evicting.modify _) s

/-- Room is made, or not, without a failure (R110). -/
theorem makeRoom_evicting (bank : Nat × Nat) (set : Nat) (own : LineKey) (half : MemSys → Bool) (prefetch : Bool) (fuel : Nat) :
    Evicting (makeRoom bank set own half prefetch fuel) := by
  induction fuel with
  | zero => exact Evicting.pure false
  | succ fuel ih =>
    refine Evicting.get_bind fun s => ?_
    rw [X.ite_apply]
    split
    · exact Evicting.pure true s
    · generalize s.ms.victim bank set own prefetch = victim
      cases victim with
      | none => exact Evicting.pure false s
      | some v =>
        cases v with
        | home key => exact (evictHome_evicting key).bind (fun _ => ih) s
        | replica cl key => exact (Evicting.modify _).bind (fun _ => ih) s

theorem tensorFill_caching (c : Ctx) (d : Desc) (tid n kind : Nat) (addr : Option Nat) (prefetch : Bool) (first : Option Nat) :
    Caching (tensorFill c d tid n kind addr prefetch first) := by
  refine Caching.bind Caching.get fun s => ?_
  split
  · exact Caching.bind (Caching.modify fun u => CachesOnly.withMs u _) fun _ => Caching.pure _
  · have hruns : Caching ((d.runs (d.tileCoords n)).mapM fun r => runAddr c r.2.2 r.2.1 0) :=
      Caching.mapM (fun _ => runAddr_caching _ _ _ _) _
    refine Caching.bind (Caching.retag ?_ _ _) fun pas => ?_
    · cases first with
      | some p => exact Caching.bind (translate_caching _ _ _ _) fun _ => hruns
      | none => exact hruns
    · refine Caching.bind (Caching.modify fun u => CachesOnly.withMs u _) fun _ =>
        Caching.bind (makeRoom_evicting _ _ _ _ _ _).caching fun room => ?_
      dsimp only
      split
      · exact Caching.throw _
      · refine Caching.bind Caching.get fun v => ?_
        exact Caching.bind (Caching.modify fun u => CachesOnly.withMs u _) fun _ => Caching.pure _

theorem tensorRead_caching (c : Ctx) (d : Desc) (tid n off len kind : Nat) (addr : Option Nat) (prefetch : Bool) :
    Caching (tensorRead c d tid n off len kind addr prefetch) := by
  refine Caching.bind Caching.get fun s => ?_
  dsimp only
  split
  · exact Caching.pure _
  · split
    · exact Caching.bind
        (Caching.modify fun u => (CachesOnly.withMs u _).trans (CachesOnly.modCore _ _ fun _ => rfl))
        fun _ => Caching.pure _
    · refine Caching.bind (tensorFill_caching _ _ _ _ _ _ _ _) fun h => Caching.bind (Caching.modify fun u => ?_) fun _ => Caching.pure _
      split
      · exact CachesOnly.withMs u _
      · split
        · exact CachesOnly.modCore _ _ fun _ => rfl
        · exact CachesOnly.refl u

/-! ### Prefetches -/

theorem attempt_ok {α : Type} {m : X α} {s t : State} {a : α} (h : m s = .ok a t) : attempt m s = .ok (some a) t := by
  simp only [attempt, h]

theorem attempt_none {α : Type} {m : X α} {s : State} (h : ∀ a t, m s ≠ .ok a t) : attempt m s = .ok none s := by
  unfold attempt
  cases hm : m s with
  | ok a t => exact absurd hm (h a t)
  | error e t => rfl

/-- A step that never fails and changes caches and the memory system alone. -/
def Prefetching {α : Type} (m : X α) : Prop := ∀ s, ∃ a t, m s = .ok a t ∧ CachesOnly s t

namespace Prefetching
variable {α β : Type}

theorem pure (a : α) : Prefetching (pure a : X α) := fun s => ⟨a, s, rfl, CachesOnly.refl s⟩
theorem get : Prefetching (get : X State) := fun s => ⟨s, s, rfl, CachesOnly.refl s⟩

theorem bind {m : X α} {f : α → X β} (hm : Prefetching m) (hf : ∀ a, Prefetching (f a)) : Prefetching (m >>= f) := by
  intro s
  obtain ⟨a, t, h, ht⟩ := hm s
  obtain ⟨b, u, h', hu⟩ := hf a t
  exact ⟨b, u, by rw [X.bind_apply, h]; exact h', ht.trans hu⟩

theorem modify {f : State → State} (h : ∀ s, CachesOnly s (f s)) : Prefetching (modify f : X Unit) := fun s => ⟨(), f s, rfl, h s⟩

theorem ite {p : Prop} [Decidable p] {m n : X α} (hm : Prefetching m) (hn : Prefetching n) :
    Prefetching (if p then m else n) := by
  split <;> assumption

theorem of_evicting {m : X α} (h : Evicting m) : Prefetching m := by
  intro s
  obtain ⟨a, ms, hm⟩ := h s
  exact ⟨a, _, hm, CachesOnly.withMs s ms⟩

theorem attempt {m : X α} (h : Caching m) : Prefetching (attempt m) := by
  intro s
  have hs := h s
  cases hr : m s with
  | ok a t =>
    rw [hr] at hs
    exact ⟨_, t, attempt_ok hr, hs⟩
  | error e t => exact ⟨_, s, attempt_none fun a u => by rw [hr]; nofun, CachesOnly.refl s⟩

theorem forM {f : α → X Unit} (h : ∀ a, Prefetching (f a)) (l : List α) : Prefetching (l.forM f) := by
  induction l with
  | nil => exact pure _
  | cons a l ih => exact bind (h a) fun _ => ih

end Prefetching

end Sys2Proof.Proofs
end

section
/-! TNBR and THALO (O35). -/

namespace Sys2Proof.Proofs
open Sys2Proof.Machine Sys2Proof.Claim

/-! ### Completion with caches and memory changed -/

/-- An instruction whose reply follows steps that change caches and memory alone. -/
theorem finish_caches {n : Nat} {m : X Unit} {s u : State} {f : Core → Core} (h : m s = .ok () (u.modSelf f)) :
    finish n m s = .next (u.modSelf fun k => (f k).retire n) := by
  rw [finish_ok h, State.modSelf_modSelf]

theorem onlyCaches_replying {s u : State} (h : CachesOnly s u) (n : Nat) (r : BitVec 6) (v : Word) :
    onlyCaches s (u.modSelf fun k => (replying r v k).retire n) n (replying r v) := h.onlyCaches n fun _ _ => rfl

/-! ### Lines at their homes (R99) -/

/-- Home lines and replicas in another order of use; each home line as it was. -/
structure Reordered (m n : MemSys) : Prop where
  rest : n = { m with homes := n.homes, replicas := n.replicas }
  home : ∀ key, n.home key = m.home key

theorem Reordered.refl (m : MemSys) : Reordered m m := ⟨rfl, fun _ => rfl⟩

theorem Reordered.trans {m n p : MemSys} (h : Reordered m n) (h' : Reordered n p) : Reordered m p where
  rest := h'.rest.trans (by rw [h.rest])
  home key := (h'.home key).trans (h.home key)

theorem Reordered.gated {m n : MemSys} (h : Reordered m n) : n.gated = m.gated := by rw [h.rest]

/-- A home line used again is found as before, and so is every other. -/
theorem home_putHome_found {ms : MemSys} {key : LineKey} {h : HomeLine} (hh : ms.home key = some h) (key' : LineKey) :
    (ms.putHome h).home key' = ms.home key' := by
  have hkey := home_key hh
  by_cases hsame : key' = key
  · rw [hsame, home_putHome hh, hh]
  · have hne : ¬(h.key == key') = true := fun he => hsame ((beq_iff_eq.mp he).symm.trans hkey)
    refine (List.find?_cons_of_neg (p := fun g : HomeLine => g.key == key') hne).trans ?_
    rw [List.find?_filter, MemSys.home]
    congr 1
    funext e
    by_cases he : e.key = key'
    · simp [he, hkey, hsame]
    · simp [he]

theorem putHome_reordered {ms : MemSys} {key : LineKey} {h : HomeLine} (hh : ms.home key = some h) : Reordered ms (ms.putHome h) :=
  ⟨rfl, home_putHome_found hh⟩

/-- A read of a line that stands at its home changes the order of use alone (R114, R115). -/
theorem tensorRead_resident {c : Ctx} {d : Desc} {tid n : Nat} {h : HomeLine} {s : State} (hh : s.ms.home (d.key c tid n) = some h)
    (hg : s.ms.gated = []) (off len kind : Nat) (addr : Option Nat) (pre : Bool) :
    ∃ a t, tensorRead c d tid n off len kind addr pre s = .ok a t ∧ Reordered s.ms t.ms := by
  have hopen : (s.ms.putHome h).isGated h.bank = false := by
    have hgated : (s.ms.putHome h).gated = [] := hg
    rw [MemSys.isGated, hgated, List.any_nil, Bool.and_false]
  simp only [tensorRead, X.bind_apply, X.get_apply]
  cases (s.core c.core).l1Line (d.key c tid n) with
  | some l => exact ⟨_, s, rfl, Reordered.refl _⟩
  | none =>
    cases s.replica c.core (d.key c tid n) with
    | some r => exact ⟨_, _, rfl, rfl, fun _ => rfl⟩
    | none =>
      simp only [X.bind_apply, tensorFill_resident hh, X.modify_apply, hopen, Bool.false_eq_true, if_false, X.pure_apply]
      refine ⟨_, _, rfl, ?_⟩
      split <;> exact putHome_reordered hh

/-! ### TNBR (R273, R274) -/

section tnbr
variable {f : TT} {s : State}

/-- The prefetch of one neighbour. -/
def neighbour (c : Ctx) (d : Desc) (tid : Nat) (t : List Nat) : X Unit := do
  let _ ← attempt (tensorRead c d tid (d.tileNumber t) 0 1 0 none true)

theorem neighbour_prefetching (c : Ctx) (d : Desc) (tid : Nat) (t : List Nat) : Prefetching (neighbour c d tid t) :=
  Prefetching.bind (Prefetching.attempt (tensorRead_caching _ _ _ _ _ _ _ _ _)) fun _ => Prefetching.pure _

/-- Neighbours that stand at their homes are reordered alone. -/
theorem neighbours_resident {c : Ctx} {d : Desc} {tid : Nat} {l : List (List Nat)} {s t : State} (hg : s.ms.gated = [])
    (hl : ∀ u ∈ l, s.ms.home (d.key c tid (d.tileNumber u)) ≠ none) (h : l.forM (neighbour c d tid) s = .ok () t) :
    Reordered s.ms t.ms := by
  induction l generalizing s with
  | nil =>
    cases h
    exact Reordered.refl _
  | cons u l ih =>
    obtain ⟨line, hline⟩ := Option.ne_none_iff_exists'.mp (hl u List.mem_cons_self)
    obtain ⟨a, w, hread, hw⟩ := tensorRead_resident hline hg 0 1 0 none true
    have hfirst : neighbour c d tid u s = .ok () w := by
      simp only [neighbour, X.bind_apply, attempt_ok hread, X.pure_apply]
    obtain ⟨⟨⟩, w', hw', hrest⟩ := bind_ok_iff.mp (show (neighbour c d tid u >>= fun _ => l.forM (neighbour c d tid)) s = _ from h)
    obtain rfl : w = w' := by
      rw [hfirst] at hw'
      cases hw'
      rfl
    refine hw.trans (ih (hw.gated.trans hg) (fun v hv => ?_) hrest)
    rw [hw.home]
    exact hl v (List.mem_cons_of_mem u hv)

variable (f s) in
/-- What TNBR prefetches once the descriptor has been looked for. -/
def neighbours : Option Desc → X Unit
  | none => pure ()
  | some d => (tilesAround d (tileCoordsOf (s.self.rd f.xb) (s.self.rd f.xc)) f.mode (fun _ => f.value.toNat) 256).forM
      (neighbour (s.ctxOf s.cur) d (bits (s.self.rd f.xa) 48 16))

theorem neighbours_prefetching (found : Option Desc) : Prefetching (neighbours f s found) := by
  cases found with
  | none => exact Prefetching.pure _
  | some d => exact Prefetching.forM (neighbour_prefetching _ _ _) _

theorem exec_tnbr_eq (hr : ready s [f.xa, f.xb, f.xc]) : exec (.tnbr f) s = finish (extSize f.ext)
    (attempt (descWell (s.ctxOf s.cur) (bits (s.self.rd f.xa) 48 16) 0 0) >>= neighbours f s) s := by
  show finish _ _ s = _
  simp only [finish, State.run, X.bind_apply, readX_ok (hr f.xa (by simp)), readX_ok (hr f.xb (by simp)),
    readX_ok (hr f.xc (by simp)), selfCtx, X.get_apply, X.pure_apply]
  rfl

theorem exec_tnbr (hr : ready s [f.xa, f.xb, f.xc]) : ∃ t, exec (.tnbr f) s = .next t ∧ onlyCaches s t (extSize f.ext) id ∧
    ∀ d, described s (bits (s.self.rd f.xa) 48 16) d → s.ms.gated = [] →
      (∀ u ∈ tilesAround d (tileCoordsOf (s.self.rd f.xb) (s.self.rd f.xc)) f.mode (fun _ => f.value.toNat) 256,
        s.ms.home (d.key (s.ctxOf s.cur) (bits (s.self.rd f.xa) 48 16) (d.tileNumber u)) ≠ none) → Reordered s.ms t.ms := by
  obtain ⟨⟨⟩, u, hu, hcaches⟩ := Prefetching.bind
    (Prefetching.attempt (descWell_caching (s.ctxOf s.cur) (bits (s.self.rd f.xa) 48 16) 0 0)) (neighbours_prefetching (f := f) (s := s)) s
  refine ⟨u.modSelf (·.retire (extSize f.ext)), (exec_tnbr_eq hr).trans (finish_ok hu), hcaches.onlyCaches _ fun _ _ => rfl, ?_⟩
  intro d hd hg hl
  rw [X.bind_apply, attempt_ok (descWell_described hd 0 0)] at hu
  have hreordered : Reordered s.ms u.ms := neighbours_resident hg hl hu
  exact hreordered

theorem exec_tnbr_undescribed (hr : ready s [f.xa, f.xb, f.xc])
    (hd : ∀ x t, descWell (s.ctxOf s.cur) (bits (s.self.rd f.xa) 48 16) 0 0 s ≠ .ok x t) :
    exec (.tnbr f) s = did s (extSize f.ext) id := by
  refine (exec_tnbr_eq hr).trans (finish_unchanged ?_)
  rw [X.bind_apply, attempt_none hd]
  rfl

end tnbr

/-! ### THALO (R273, R274) -/

theorem removeReplica_prefetching (c : Ctx) (key : LineKey) : Prefetching (removeReplica c key) :=
  Prefetching.modify fun s => (CachesOnly.withMs s _).trans (CachesOnly.modCluster _ _ fun _ => rfl)

theorem putReplica_prefetching (c : Ctx) (key : LineKey) (data : BitVec 2048) (level : Nat) :
    Prefetching (putReplica c key data level) := by
  refine Prefetching.bind Prefetching.get fun s => Prefetching.bind (removeReplica_prefetching c key) fun _ => ?_
  refine Prefetching.bind (Prefetching.of_evicting (makeRoom_evicting _ _ _ _ _ _)) fun room => ?_
  exact Prefetching.ite (Prefetching.modify fun u => (CachesOnly.withMs u _).trans (CachesOnly.modCore _ _ fun _ => rfl))
    (Prefetching.pure _)

theorem haloTile_prefetching (c : Ctx) (d : Desc) (tid : Nat) (t : List Nat) : Prefetching (haloTile c d tid t) := by
  unfold haloTile
  dsimp only
  split
  next =>
    refine Prefetching.bind Prefetching.get fun s => ?_
    refine Prefetching.bind (Prefetching.attempt (tensorFill_caching _ _ _ _ _ _ _ _)) fun filled => ?_
    cases filled with
    | none => exact removeReplica_prefetching _ _
    | some h =>
      have hevict : Prefetching (do if (← get).ms.isGated h.bank then evictHome (d.key c tid (d.tileNumber t))) :=
        Prefetching.bind Prefetching.get fun _ =>
          Prefetching.ite (Prefetching.of_evicting (evictHome_evicting _)) (Prefetching.pure _)
      dsimp only
      split
      · exact Prefetching.bind (putReplica_prefetching _ _ _ _) fun _ => hevict
      · exact Prefetching.bind (removeReplica_prefetching _ _) fun _ => hevict
  next => exact Prefetching.pure _

/-- Without replicas THALO has nothing to fetch. -/
theorem haloTile_unreplicated {c : Ctx} {d : Desc} {tid : Nat} {t : List Nat} (h : d.repl = false) :
    haloTile c d tid t = pure () := by
  unfold haloTile
  rw [h]

theorem haloTiles_unreplicated {c : Ctx} {d : Desc} {tid : Nat} (h : d.repl = false) (l : List (List Nat)) (s : State) :
    l.forM (haloTile c d tid) s = .ok () s := by
  induction l with
  | nil => rfl
  | cons t l ih =>
    change (haloTile c d tid t >>= fun _ => l.forM (haloTile c d tid)) s = .ok () s
    rw [haloTile_unreplicated h, X.bind_apply]
    exact ih

/-- A tile of a described tensor is named without a change (R269). -/
theorem tileNamed_named {s : State} {f : TT} {d : Desc} {n : Nat} (h : namesTile s f d n) (kind : Nat) :
    tileNamed (s.ctxOf s.cur) (bits (s.self.rd f.xa) 48 16) (tileCoordsOf (s.self.rd f.xb) (s.self.rd f.xc)) kind s = .ok (d, n) s := by
  obtain ⟨hd, hin, rfl⟩ := h
  have hgrid : d.inGrid (tileCoordsOf (s.self.rd f.xb) (s.self.rd f.xc)) = true := by
    simpa [Desc.inGrid] using hin
  simp only [tileNamed, X.bind_apply, descWell_described hd, hgrid, X.require_true, X.pure_apply]

/-- The halo tiles held are those of which the cluster holds a replica that the core may read. -/
theorem haloHeld_eq_countP {s : State} {c : Ctx} (hc : c.core = s.cur) (d : Desc) (tid : Nat) (ts : List (List Nat)) :
    s.haloHeld c d tid ts = ts.countP fun t => s.ms.replicas.any fun r =>
      r.cluster == clusterOf s.cur && r.key == d.key c tid (d.tileNumber t) && ((s.self.cache.floors[r.level]?).getD 0 ≤ r.epoch) := by
  rw [State.haloHeld, ← List.countP_eq_length_filter]
  refine List.countP_congr fun t _ => ?_
  rw [State.replica, List.find?_isSome, List.any_eq_true, hc]
  rfl

section thalo
variable {f : TT} {s : State} {d : Desc} {n : Nat}

theorem exec_thalo (hr : ready s [f.xa, f.xb]) (hf : slotFree s f.xc) (hn : namesTile s f d n) : ∃ u,
    (haloTiles d (tileCoordsOf (s.self.rd f.xb) (s.self.rd f.xc)) f.mode).forM
      (haloTile (s.ctxOf s.cur) d (bits (s.self.rd f.xa) 48 16)) s = .ok () u ∧ CachesOnly s u ∧
    exec (.thalo f) s = .next (u.modSelf fun k => (replying f.xc (toWord (u.haloHeld (s.ctxOf s.cur) d (bits (s.self.rd f.xa) 48 16)
      (haloTiles d (tileCoordsOf (s.self.rd f.xb) (s.self.rd f.xc)) f.mode))) k).retire 8) := by
  obtain ⟨⟨⟩, u, hu, hcaches⟩ := Prefetching.forM (haloTile_prefetching (s.ctxOf s.cur) d (bits (s.self.rd f.xa) 48 16))
    (haloTiles d (tileCoordsOf (s.self.rd f.xb) (s.self.rd f.xc)) f.mode) s
  refine ⟨u, hu, hcaches, finish_caches (m := _) ?_⟩
  simp only [X.bind_apply, readX_ok (hr f.xa (by simp)), readX_ok (hr f.xb (by simp)), readX_ok hf.2, reserveReply_slotFree hf,
    selfCtx, X.get_apply, X.pure_apply, tileNamed_named hn, hu, reply_apply]
  rfl

end thalo

theorem neighboursAndHalos : Sys2Proof.Claim.NeighboursAndHalos := by
  intro f s d n k c tid coords
  refine ⟨fun hr => ?_, exec_tnbr_undescribed, fun hr hf hn => ?_⟩
  · obtain ⟨t, hexec, hcaches, hresident⟩ := exec_tnbr hr
    exact ⟨t, hexec, hcaches, fun hd hg hl => ⟨(hresident d hd hg hl).rest, (hresident d hd hg hl).home⟩⟩
  · obtain ⟨u, hloop, hcaches, hexec⟩ := exec_thalo hr hf hn
    refine ⟨_, _, hexec, onlyCaches_replying hcaches _ _ _, ?_, fun hrepl => ?_⟩
    · have hfilter : haloTiles d coords f.mode = (tilesAround d coords f.mode d.halo (15 * 31 ^ 5)).filter (· ≠ coords) :=
        List.filter_congr fun t _ => by rw [Bool.eq_iff_iff]; simp
      rw [haloHeld_eq_countP hcaches.cur.symm, State.modSelf_self, Core.retire_cache, hcaches.cur]
      exact congrArg _ hfilter
    · rw [haloTiles_unreplicated hrepl] at hloop
      cases hloop
      rfl

end Sys2Proof.Proofs
end

section
/-! TINV, TFLUSH and TPROBE (O35). -/

namespace Sys2Proof.Proofs
open Sys2Proof.Machine Sys2Proof.Claim

/-! ### Memory at rest around an address -/

/-- Memory at rest without a line at any home. -/
theorem atRest_noLine {s : State} {a n : Nat} (h : atRest s a n none) : noLine s.ms a n := by
  obtain ⟨-, -, hhomes⟩ := h
  intro g hg t l hk
  by_contra hn
  push Not at hn
  cases hhomes g hg t l hk hn.1 hn.2

/-- No line of bytes is none of some of them. -/
theorem noLine_part {ms : MemSys} {a n i m : Nat} (h : noLine ms a n) (hm : 0 < m) (hi : i + m ≤ n) : noLine ms (a + i) m := by
  intro g hg t l hk
  have hlow : lineOf a ≤ lineOf (a + i) := Nat.div_le_div_right (by omega)
  have hhigh : lineOf (a + i + m - 1) ≤ lineOf (a + n - 1) := Nat.div_le_div_right (by omega)
  have := h g hg t l hk
  omega

theorem poisoned_clean {ms : MemSys} (h : ms.poison = []) (a n : Nat) : ms.poisoned a n = false := by
  rw [MemSys.poisoned, h, List.any_nil]

/-- R156: hardware reads device memory at rest as it stands. -/
theorem homeRead_atRest {ms : MemSys} {a n : Nat} (hc : ms.chains = []) (hl : noLine ms a n) (hp : ms.poison = []) (ha : a < 2 ^ 42)
    (hn : 0 < n) (t : Option (BitVec 6)) : ms.homeRead a n t = (ms, ms.mem.read a n, false) := by
  simp only [MemSys.homeRead, homeAt_none hl hn t, recall_atRest hc hl, rd_device ha, poisoned_clean hp]

theorem msuRead_atRest {ms : MemSys} {a n : Nat} (hc : ms.chains = []) (hl : noLine ms a n) (hp : ms.poison = []) (ha : a < 2 ^ 42) :
    ms.msuRead a n = (ms, ms.mem.read a n, false) := by
  simp only [MemSys.msuRead, recall_atRest hc hl, rd_device ha, poisoned_clean hp]

/-- Bytes of which the host caches no line are written without a wait (R400). -/
theorem bisnpCheck_atRest {s : State} {a n : Nat} (h : ∀ l ∈ s.ms.hdm, l < lineOf a ∨ lineOf (a + n - 1) < l) :
    bisnpCheck a n s = .ok () s := by
  have hfree : s.ms.hdm.find? (fun l => lineOf a ≤ l && l ≤ lineOf (a + n - 1)) = none := by
    rw [List.find?_eq_none]
    intro l hl
    have := h l hl
    simp only [Bool.and_eq_true, decide_eq_true_eq]
    omega
  simp only [bisnpCheck, X.bind_apply, X.get_apply, hfree, X.pure_apply]

/-! ### TINV (R111) -/

/-- A tensor's cached descriptor is gone from every cluster (R104). -/
theorem descDrop_gone (ms : MemSys) (t : BitVec 6) (a i : BitVec 16) :
    ∀ x ∈ (ms.descDrop t a i).desc, ¬(x.tenant = t ∧ x.asid = a ∧ x.tid = i) := by
  rintro x hx ⟨h1, h2, h3⟩
  have hkept := (List.mem_filter.mp hx).2
  simp [h1, h2, h3] at hkept

theorem portWrite_homes {ms : MemSys} {a : Nat} (n v : Nat) (hc : ms.chains = []) (ha : a < 2 ^ 42) :
    (ms.portWrite a n v).homes = ms.homes := by
  rw [portWrite_device n v hc ha, snoopOut_eq]
  rfl

/-- The generation that follows the one in an entry (R111). -/
def nextGen (s : State) (place : Nat) : BitVec 16 := BitVec.ofNat 16 (s.ms.mem.read place 8 % 2 ^ 16 + 1)

/-- What a bump of the generation leaves (R111). -/
structure Bumped (s t : State) (c : Ctx) (tid place : Nat) : Prop where
  caches : CachesOnly s t
  mem : t.ms.mem = bumped s.ms.mem place (nextGen s place).toNat
  gone : ∀ x ∈ t.ms.desc, ¬(x.tenant = c.tenant ∧ x.asid = c.asid ∧ x.tid = BitVec.ofNat 16 tid)
  retired : ∀ h ∈ s.ms.homes, ∀ g m, h.key = .tensor c.tenant c.asid (BitVec.ofNat 16 tid) g m → g ≠ nextGen s place →
    (c.tenant, c.asid, BitVec.ofNat 16 tid, g) ∈ t.ms.retired

theorem genBump_atRest {s : State} {c : Ctx} {tid : Nat} {tdt : Word} {place : Nat} (hplace : s.localize (descAddr tdt tid) = place)
    (ha : place < 2 ^ 42) (hr : atRest s place 8 none) (hp : s.ms.poison = [])
    (hnew : ∀ h ∈ s.ms.homes, ∀ m, h.key ≠ .tensor c.tenant c.asid (BitVec.ofNat 16 tid) (nextGen s place) m) :
    ∃ t, genBump c tid tdt s = .ok (nextGen s place) t ∧ Bumped s t c tid place := by
  have hread := msuRead_atRest hr.1 (atRest_noLine hr) hp ha
  have hgen : s.ms.hasGen c.tenant c.asid (BitVec.ofNat 16 tid) (BitVec.ofNat 16 (s.ms.mem.read place 8 % 2 ^ 16 + 1)) = false := by
    rw [MemSys.hasGen, List.any_eq_false]
    intro h hh
    cases hk : h.key with
    | addr => simp
    | tensor t a i g m =>
      simp only [Bool.and_eq_true, beq_iff_eq]
      rintro ⟨⟨⟨rfl, rfl⟩, rfl⟩, rfl⟩
      exact hnew h hh m hk
  have hbump := portWrite_mem 8 (putFld (s.ms.mem.read place 8) 0 16 (nextGen s place).toNat) hr.1 ha
  have hhomes := portWrite_homes 8 (putFld (s.ms.mem.read place 8) 0 16 (nextGen s place).toNat) hr.1 ha
  simp only [genBump, X.bind_apply, X.get_apply, hplace, hread, Bool.not_false, X.require_true, hgen, Bool.false_eq_true, if_false,
    X.set_apply, X.pure_apply]
  refine ⟨_, rfl, (CachesOnly.withMs s _).trans (CachesOnly.modCore _ _ fun _ => rfl), hbump, descDrop_gone _ _ _ _, ?_⟩
  intro h hh g m hk hg
  refine List.mem_dedup.mpr (List.mem_append_left _ (List.mem_filterMap.mpr ⟨h, ?_, ?_⟩))
  · exact hhomes.symm ▸ hh
  · rw [hk]
    simpa [nextGen] using hg

section tinv
variable {f : TT} {s : State} {d : Desc}

theorem exec_tinv {t : State} {g : BitVec 16} (hr : ready s [f.xa]) (hf : slotFree s f.xc)
    (hd : described s (bits (s.self.rd f.xa) 48 16) d)
    (hh : ∀ l ∈ s.ms.hdm, l < lineOf (s.localize (descAddr s.self.tdtroot (bits (s.self.rd f.xa) 48 16))) ∨
      lineOf (s.localize (descAddr s.self.tdtroot (bits (s.self.rd f.xa) 48 16)) + 8 - 1) < l)
    (hb : genBump (s.ctxOf s.cur) (bits (s.self.rd f.xa) 48 16) s.self.tdtroot s = .ok g t) :
    exec (.tinv f) s = .next (t.modSelf fun k => (replying f.xc (g.setWidth 64) k).retire 8) := by
  refine finish_caches (m := _) ?_
  simp only [X.bind_apply, readX_ok (hr f.xa (by simp)), reserveReply_slotFree hf, selfCtx, X.get_apply, X.pure_apply,
    descWell_described hd, bisnpCheck_atRest hh, hb, reply_apply]
  rfl

end tinv

/-! ### TFLUSH (R112, R180) -/

section handles
variable {k : Core}

/-- The lowest FREE entry is the one taken (R180). -/
theorem freeHandle_lowest {h : BitVec 8} (hh : (k.handle h).st = .free)
    (hlow : ∀ g < h.toNat, (k.handle (BitVec.ofNat 8 g)).st ≠ .free) : k.freeHandle = some h := by
  have hfind : (List.range 256).find? (fun i => (k.handle (BitVec.ofNat 8 i)).st == .free) = some h.toNat := by
    rw [List.find?_range_eq_some]
    refine ⟨?_, List.mem_range.mpr h.isLt, fun g hg => ?_⟩
    · simpa using hh
    · simpa using hlow g hg
  rw [Core.freeHandle, hfind]
  simp

theorem freeHandle_none (hn : ∀ h : BitVec 8, (k.handle h).st ≠ .free) : k.freeHandle = none := by
  rw [Core.freeHandle, List.find?_eq_none.mpr fun i _ => by simpa using hn (BitVec.ofNat 8 i)]
  rfl

theorem handlesAllDone_iff : k.handlesAllDone = true ↔ ∀ h : BitVec 8, (k.handle h).st = .done := by
  rw [Core.handlesAllDone, List.all_eq_true]
  refine ⟨fun h i => ?_, fun h i _ => by simpa using h (BitVec.ofNat 8 i)⟩
  have := h i.toNat (List.mem_range.mpr i.isLt)
  simpa using this

end handles

section allocHandle
variable {s : State} {kind : BitVec 3}

theorem allocHandle_free {h : BitVec 8} (hh : s.self.freeHandle = some h) :
    allocHandle kind s = .ok h (s.modSelf fun k => k.setHandle h ⟨.busy, kind, 0, 0⟩) := by
  simp only [allocHandle, X.bind_apply, X.self_apply, hh, X.modSelf_apply, X.pure_apply]

theorem allocHandle_done (hn : ∀ h : BitVec 8, (s.self.handle h).st = .done) :
    allocHandle kind s = .error (.trap 0x0E (toWord (2 ^ 63))) s := by
  have hnone := freeHandle_none (k := s.self) fun h => by rw [hn h]; decide
  simp only [allocHandle, X.bind_apply, X.self_apply, hnone, handlesAllDone_iff.mpr hn, if_true, X.trap_apply, causeEngine]

theorem allocHandle_busy (hn : ∀ h : BitVec 8, (s.self.handle h).st ≠ .free) (hb : ∃ h : BitVec 8, (s.self.handle h).st = .busy) :
    allocHandle kind s = .error (.wait .resource) s := by
  have hdone : s.self.handlesAllDone = false := by
    obtain ⟨h, hh⟩ := hb
    rw [Bool.eq_false_iff, ne_eq, handlesAllDone_iff]
    intro hall
    rw [hall h] at hh
    cases hh
  simp only [allocHandle, X.bind_apply, X.self_apply, freeHandle_none hn, hdone, Bool.false_eq_true, if_false, X.throw_apply]

/-- An instruction that goes on once it has its handle allocates as R180 says. -/
theorem allocates_of_allocHandle {i : Instr} {size : Nat} {m : BitVec 8 → X Unit} {f : BitVec 8 → Core → Core}
    (he : exec i s = finish size (allocHandle kind >>= m) s)
    (hm : ∀ h u, m h u = .ok () (u.modSelf (f h))) : allocates s i size kind f := by
  refine ⟨fun h hh hlow => ?_, fun hdone htf => ?_, fun hn hb => ?_⟩
  · refine he.trans (finish_did ?_)
    rw [X.bind_apply, allocHandle_free (freeHandle_lowest hh hlow)]
    exact (hm _ _).trans (by rw [State.modSelf_modSelf])
  · refine he.trans (finish_trapped ?_ htf rfl)
    rw [X.bind_apply, allocHandle_done hdone]
  · refine he.trans (finish_waitsFor ?_)
    rw [X.bind_apply, allocHandle_busy hn hb]

end allocHandle

/-- The flush that TFLUSH posts (R112). -/
def flushOf (c : Ctx) (tid : Nat) (h : BitVec 8) (k : Core) : FlushOp :=
  ⟨h, c.tenant, c.asid, BitVec.ofNat 16 tid, k.tdtroot, k.ptroot, !c.user, false⟩

/-- The core with its flush posted. -/
def postFlush (c : Ctx) (tid : Nat) (h : BitVec 8) (k : Core) : Core :=
  ({ k with eng := { k.eng with flushes := k.eng.flushes ++ [flushOf c tid h k] } }).enterStream h

theorem tflush_allocates {f : TT} {s : State} {d : Desc} (hr : ready s [f.xa]) (hf : slotFree s f.xc)
    (hd : described s (bits (s.self.rd f.xa) 48 16) d) : allocates s (.tflush f) 8 2 fun h k =>
      replying f.xc (h.setWidth 64) (postFlush (s.ctxOf s.cur) (bits (s.self.rd f.xa) 48 16) h k) := by
  refine allocates_of_allocHandle (m := fun h => do
    modSelf (postFlush (s.ctxOf s.cur) (bits (s.self.rd f.xa) 48 16) h)
    reply [(f.xc, h.setWidth 64)]) ?_ fun h u => ?_
  · show finish _ _ s = _
    simp only [finish, State.run, X.bind_apply, readX_ok (hr f.xa (by simp)), reserveReply_slotFree hf, selfCtx, X.get_apply,
      X.pure_apply, descWell_described hd]
    rfl
  · rw [X.bind_apply, X.modSelf_apply]
    exact congrArg _ (State.modSelf_modSelf u _ _)

/-! ### TPROBE (R275) -/

theorem getLsbD_toWord {n i : Nat} (hi : i < 64) : (toWord n).getLsbD i = decide (n / 2 ^ i % 2 = 1) := by
  rw [toWord, BitVec.getLsbD_ofNat, Nat.testBit_eq_decide_div_mod_eq, decide_eq_true hi, Bool.true_and]

/-- A generation above four flags, as TPROBE returns them. -/
theorem flagWord_bits (g : BitVec 16) (b3 b2 b1 b0 : Bool) {w : Word}
    (hw : w = toWord (g.toNat * 2 ^ 16 + (if b3 then 2 ^ 3 else 0) + (if b2 then 2 ^ 2 else 0) + (if b1 then 2 ^ 1 else 0) +
      (if b0 then 2 ^ 0 else 0))) :
    w.getLsbD 0 = b0 ∧ w.getLsbD 1 = b1 ∧ w.getLsbD 2 = b2 ∧ w.getLsbD 3 = b3 ∧
      bits w 16 16 = g.toNat ∧ w.getLsbD 63 = false := by
  subst hw
  have hbit : ∀ b : Bool, (if b then 1 else 0) < 2 := by decide
  have hread : ∀ (b : Bool) (x : Nat), x = (if b then 1 else 0) → decide (x = 1) = b := by
    rintro b x rfl
    cases b <;> rfl
  have hg := g.isLt
  have h0 := hbit b0
  have h1 := hbit b1
  have h2 := hbit b2
  have h3 := hbit b3
  simp only [ite_pow, bits_toWord, fld]
  refine ⟨?_, ?_, ?_, ?_, by omega, ?_⟩
  · exact (getLsbD_toWord (by decide)).trans (hread b0 _ (by omega))
  · exact (getLsbD_toWord (by decide)).trans (hread b1 _ (by omega))
  · exact (getLsbD_toWord (by decide)).trans (hread b2 _ (by omega))
  · exact (getLsbD_toWord (by decide)).trans (hread b3 _ (by omega))
  · exact (getLsbD_toWord (by decide)).trans (decide_eq_false (by omega))

section tprobe
variable {f : TT} {s : State} {d : Desc} {n : Nat}

/-- What a probe word says of its tile (R275). -/
theorem probeWord_bits (s : State) (c : Ctx) (d : Desc) (tid n : Nat) :
    (s.probeWord c d tid n).getLsbD 0 = (s.ms.home (d.key c tid n)).isSome ∧
    (s.probeWord c d tid n).getLsbD 1 = (s.replica c.core (d.key c tid n)).isSome ∧
    (s.probeWord c d tid n).getLsbD 2 = ((s.core c.core).l1Line (d.key c tid n)).isSome ∧
    (s.probeWord c d tid n).getLsbD 3 = (s.ms.home (d.key c tid n)).any (·.dirty != 0) ∧
    bits (s.probeWord c d tid n) 16 16 = d.gen.toNat ∧ (s.probeWord c d tid n).getLsbD 63 = false :=
  flagWord_bits d.gen _ _ _ _ rfl

variable (f s) in
/-- What TPROBE answers once the tile has been looked for (R275). -/
def probeReply : Option (Desc × Nat) → Word
  | none => toWord (2 ^ 63)
  | some (d, n) => s.probeWord (s.ctxOf s.cur) d (bits (s.self.rd f.xa) 48 16) n

theorem exec_tprobe (hr : ready s [f.xa, f.xb]) (hf : slotFree s f.xc) {found : Option (Desc × Nat)}
    (ht : attempt (tileNamed (s.ctxOf s.cur) (bits (s.self.rd f.xa) 48 16) (tileCoordsOf (s.self.rd f.xb) (s.self.rd f.xc)) 0) s =
      .ok found s) : exec (.tprobe f) s = replied s 8 f.xc (probeReply f s found) := by
  refine finish_did (m := _) ?_
  simp only [X.bind_apply, readX_ok (hr f.xa (by simp)), readX_ok (hr f.xb (by simp)), readX_ok hf.2, reserveReply_slotFree hf,
    selfCtx, X.get_apply, X.pure_apply, ht]
  cases found <;> rfl

end tprobe

theorem tensorGenerations : Sys2Proof.Claim.TensorGenerations := by
  intro f s d n k c tid coords place gen next
  refine ⟨fun hr hf hd ha hrest hp hnew => ?_, tflush_allocates, fun hr hf => ⟨fun hno => ?_, fun hn => ?_⟩⟩
  · obtain ⟨t, hbump, hb⟩ := genBump_atRest (c := c) (tid := tid) (tdt := k.tdtroot) (place := place) rfl (by omega) hrest hp hnew
    refine ⟨_, exec_tinv hr hf hd hrest.2.1 hbump, onlyCaches_replying hb.caches _ _ _, ?_, fun a ha => ?_, hb.gone, hb.retired⟩
    · show t.ms.mem.read place 2 = next.toNat
      rw [hb.mem, bumped_read]
      exact Nat.mod_eq_of_lt next.isLt
    · show t.ms.mem.get a = _
      rw [hb.mem, bumped_get _ _ _ ha]
  · have hexec := exec_tprobe hr hf (attempt_none hno)
    exact hexec
  · obtain ⟨h0, h1, h2, h3, hgen, h63⟩ := probeWord_bits s c d tid n
    have hexec := exec_tprobe hr hf (attempt_ok (tileNamed_named hn 0))
    refine ⟨s.probeWord c d tid n, hexec, ?_, ?_, ?_, ?_, hgen, h63⟩
    · rw [h0, Option.isSome_iff_ne_none]
    · rw [h1, Option.isSome_iff_ne_none]
      rfl
    · rw [h2, Option.isSome_iff_ne_none]
      rfl
    · rw [h3, Option.any_eq_true]
      simp

/-- Settles O35: TNBR and THALO are made of steps that never fail and change caches and memory alone (`Prefetching`), TINV is a bump of
the generation over memory at rest, TFLUSH an allocation of a handle, and TPROBE's word is a number of five fields. -/
theorem tensorCacheForms : Obligations.TensorCacheForms := ⟨neighboursAndHalos, tensorGenerations⟩

end Sys2Proof.Proofs
end

section
/-! TDESC and TDESC.RF (O34). -/

namespace Sys2Proof.Proofs
open Sys2Proof.Machine Sys2Proof.Claim

/-! ### Lines dropped from the L1 data cache -/

/-- The state with these lines in the L1 data cache of the core that moves. -/
def withL1 (s : State) (l : List L1Line) : State := s.modSelf fun k => { k with cache := { k.cache with l1d := l } }

theorem withL1_same (s : State) : withL1 s s.self.cache.l1d = s := State.modSelf_of_eq s rfl

theorem withL1_cachesOnly (s : State) (l : List L1Line) : CachesOnly s (withL1 s l) :=
  CachesOnly.modSelf s fun _ => rfl

theorem withL1_cur (s : State) (l : List L1Line) : (withL1 s l).cur = s.cur := rfl

theorem withL1_self (s : State) (l : List L1Line) :
    (withL1 s l).self = { s.self with cache := { s.self.cache with l1d := l } } := State.modSelf_self _ _

theorem withL1_drop (s : State) (l : List L1Line) (a n : Nat) :
    ∃ l', ((withL1 s l).modSelf fun k => k.l1DropAddr a n) = withL1 s l' :=
  ⟨_, State.modSelf_modSelf s _ _⟩

/-- Steps of a list that leave lines of the L1 data cache dropped. -/
theorem mapM_withL1 {α β : Type} {f : α → X β} {g : α → β} {s : State} {as : List α}
    (h : ∀ a ∈ as, ∀ l, ∃ l', f a (withL1 s l) = .ok (g a) (withL1 s l')) (l : List L1Line) :
    ∃ l', as.mapM f (withL1 s l) = .ok (as.map g) (withL1 s l') := by
  induction as generalizing l with
  | nil => exact ⟨l, rfl⟩
  | cons a as ih =>
    obtain ⟨l1, h1⟩ := h a List.mem_cons_self l
    obtain ⟨l2, h2⟩ := ih (fun b hb => h b (List.mem_cons_of_mem a hb)) l1
    exact ⟨l2, by simp only [List.mapM_cons, X.bind_apply, h1, h2, X.pure_apply, List.map_cons]⟩

/-- R99, R152: an uncached read of memory at rest takes its bytes and drops the core's older copies. -/
theorem spotRead_uncached {c : Ctx} {h : Hit} {n : Nat} {s : State} (hc : s.ms.chains = []) (hl : noLine s.ms h.ga n)
    (hp : s.ms.poison = []) (hm : mmioOf h.pa = none) (hr : h.ga < 2 ^ 42) (hb : s.ms.bypass h = true) (kind addr : Nat) :
    spotRead c (.plain h) n kind addr s = .ok (s.ms.mem.read h.ga n) (s.modCore c.core fun k => k.l1DropAddr h.ga n) := by
  simp only [spotRead, plainRead, X.bind_apply, X.get_apply, hm, notRemote hr, hb, recall_atRest hc hl, poisoned_clean hp,
    rd_device hr, Bool.false_eq_true, if_false, if_true, X.set_apply, X.pure_apply, Bool.not_false, X.require_true]

/-! ### What TDESC reads (R273) -/

/-- One dword of the descriptor that TDESC reads. -/
def dwordRead (c : Ctx) (b : Word) (i : Nat) : X Nat := do
  let p ← resolveG c (b + toWord (8 * i)) { kind := 0, n := 8, noMmio := true } (rawReadOk 8)
  spotRead c p 8 0 (bits (b + toWord (8 * i)) 0 56)

/-- TDESC once it has read its operands and the dwords. -/
def tdescWrite (f : TT) (c : Ctx) (tid : Nat) (dw : List Word) : X Unit := do
  match ← descPlace tid with
  | none => reply [(f.xc, 2)]
  | some a =>
    let s ← get
    require (s.inTables c.tenant (descAddr s.self.tdtroot tid) 128) causeAccess (syndrome 4 7 1 0)
    let (ms, v, bad) := s.ms.homeRead a 8 (some c.tenant)
    set { s with ms := ms }
    require (!bad) causeMemUE (memUE false 7 1 0)
    let dw := setBits ((dw[0]?).getD 0) 0 16 (v % 2 ^ 16) :: dw.drop 1
    if (Desc.mk dw).ok tid (bits (← self).tdtroot 56 8) then
      bisnpCheck a 128
      waitSends
      modify fun s =>
        (s.release.homeStore a 128 (dw.foldr (fun (w : Word) (acc : Nat) => w.toNat + 2 ^ 64 * acc) 0) (some c.tenant)).modSelf
          fun k => k.l1DropAddr a 128
      dropDesc c tid
      reply [(f.xc, 0)]
    else reply [(f.xc, 1)]

theorem exec_tdesc_eq (f : TT) (s : State) : exec (.tdesc f) s = finish 8 (do
    let tid := bits (← readX f.xa) 48 16
    let xb ← readX f.xb
    reserveReply [f.xc]
    require (xb.toNat % 128 == 0) causeMisalign xb
    let c ← selfCtx
    let dw ← (List.range 16).mapM (dwordRead c xb)
    tdescWrite f c tid (dw.map toWord)) s := rfl

section reads
variable {f : TT} {s : State} {e : TlbEntry} {dw : List Word} {b : Word} {pa : Nat}

/-- The 16 dwords dw stand, uncached and at rest, where the TLB entry e translates b (R273). -/
structure Stands (s : State) (b : Word) (pa : Nat) (e : TlbEntry) (dw : List Word) : Prop where
  aligned : pa % 128 = 0
  length : dw.length = 16
  mapped : ∀ i < 16, mapped s (b + toWord (8 * i)) { kind := 0, n := 8, noMmio := true } e ∧
    s.leafAddr e.pte e.level (b + toWord (8 * i)) = pa + 8 * i ∧ (dw[i]?).getD 0 = toWord (s.ms.mem.read (pa + 8 * i) 8)
  uncached : uncached s e pa = true
  plain : pteFmt e.pte = 0
  rest : atRest s pa 128 none
  clean : s.ms.poison = []

theorem dwordRead_stands (h : Stands s b pa e dw) {i : Nat} (hi : i < 16) (l : List L1Line) :
    ∃ l', dwordRead (s.ctxOf s.cur) b i (withL1 s l) = .ok (s.ms.mem.read (pa + 8 * i) 8) (withL1 s l') := by
  obtain ⟨⟨hcanon, hfind, hwin, hperm, hfmt, hhost, htb, hmmio, hdev, hwalk⟩, haddr, -⟩ := h.mapped i hi
  have hself : (withL1 s l).core s.cur = (withL1 s l).self := rfl
  have hfind' : ((withL1 s l).core s.cur).cache.tlb.find? (·.serves (s.ctxOf s.cur) (b + toWord (8 * i)) 0) = some e := by
    rw [hself, withL1_self]
    exact hfind
  have hres : resolveGlobal (s.ctxOf s.cur) (b + toWord (8 * i)) { kind := 0, n := 8, noMmio := true } (rawReadOk 8) (withL1 s l) =
      .ok (e.hit s (b + toWord (8 * i))) (withL1 s l) :=
    resolveGlobal_tlb hcanon hwalk hfind' hwin hperm hhost hfmt (by simp [rawReadOk, h.plain])
  have hga : (e.hit s (b + toWord (8 * i))).ga = pa + 8 * i := haddr
  have hbypass : s.ms.bypass (e.hit s (b + toWord (8 * i))) = true := by
    have hpage := h.aligned
    have hbank : homeBank (e.hit s (b + toWord (8 * i))).pa (pteHl e.pte) = homeBank pa (pteHl e.pte) :=
      (congrArg (homeBank · _) haddr).trans (homeBank_page (by omega) _)
    rw [MemSys.bypass, Hit.bank]
    exact (congrArg (fun bank => pteNc e.pte || s.ms.isGated bank) hbank).trans h.uncached
  have hread := spotRead_uncached (c := s.ctxOf s.cur) (h := e.hit s (b + toWord (8 * i))) (n := 8) (s := withL1 s l) h.rest.1
    (hga ▸ noLine_part (atRest_noLine h.rest) (by decide) (by omega)) h.clean hmmio (show _ < 2 ^ 42 from hdev) hbypass 0
    (bits (b + toWord (8 * i)) 0 56)
  obtain ⟨l', hdrop⟩ := withL1_drop s l (pa + 8 * i) 8
  refine ⟨l', ?_⟩
  rw [dwordRead, X.bind_apply, resolveG_plain hres htb]
  refine hread.trans ?_
  rw [hga]
  exact congrArg _ hdrop

theorem dwords_stand (h : Stands s b pa e dw) :
    (List.range 16).map (fun i => toWord (s.ms.mem.read (pa + 8 * i) 8)) = dw := by
  refine List.ext_getElem (by simp [h.length]) fun i h1 h2 => ?_
  obtain ⟨-, -, hi⟩ := h.mapped i (by simpa using h1)
  rw [List.getElem?_eq_getElem h2, Option.getD_some] at hi
  simp [hi]

/-- TDESC of a descriptor that stands in memory is what follows its reads. -/
theorem exec_tdesc_of_write {v : Word} {P : State → Prop} (hr : ready s [f.xa, f.xb]) (hf : slotFree s f.xc)
    (hb : (s.self.rd f.xb).toNat % 128 = 0) (h : Stands s (s.self.rd f.xb) pa e dw)
    (hw : ∀ l, ∃ u, tdescWrite f (s.ctxOf s.cur) (bits (s.self.rd f.xa) 48 16) dw (withL1 s l) =
      .ok () (u.modSelf (replying f.xc v)) ∧ P u) :
    ∃ u, exec (.tdesc f) s = .next (u.modSelf fun k => (replying f.xc v k).retire 8) ∧ P u := by
  obtain ⟨l, hreads⟩ := mapM_withL1 (f := dwordRead (s.ctxOf s.cur) (s.self.rd f.xb)) (as := List.range 16)
    (fun i hi l => dwordRead_stands h (List.mem_range.mp hi) l) s.self.cache.l1d
  rw [withL1_same] at hreads
  obtain ⟨u, hu, hP⟩ := hw l
  refine ⟨u, (exec_tdesc_eq f s).trans (finish_caches ?_), hP⟩
  have halign : ((s.self.rd f.xb).toNat % 128 == 0) = true := by rw [hb]; rfl
  have hdw : ((List.range 16).map fun i => s.ms.mem.read (pa + 8 * i) 8).map toWord = dw :=
    List.map_map.trans (dwords_stand h)
  simp only [X.bind_apply, readX_ok (hr f.xa (by simp)), readX_ok (hr f.xb (by simp)), reserveReply_slotFree hf, halign,
    X.require_true, selfCtx, X.get_apply, X.pure_apply, hreads, hdw]
  exact hu

end reads

theorem exec_tdesc_misaligned {f : TT} {s : State} (hf : slotFree s f.xc) (hr : ready s [f.xa, f.xb])
    (hb : (s.self.rd f.xb).toNat % 128 ≠ 0) (htf : s.self.tf = false) :
    exec (.tdesc f) s = trapped s 4 (s.self.rd f.xb) s.self.pc := by
  refine (exec_tdesc_eq f s).trans (finish_trapped ?_ htf rfl)
  simp only [X.bind_apply, readX_ok (hr f.xa (by simp)), readX_ok (hr f.xb (by simp)), reserveReply_slotFree hf,
    beq_eq_false_iff_ne.mpr hb, X.require_false, causeMisalign]

/-! ### What TDESC writes (R104, R273) -/

/-- The words of a list as one number, the first lowest. -/
def wordsNumber (l : List Word) : Nat := l.foldr (fun (w : Word) (acc : Nat) => w.toNat + 2 ^ 64 * acc) 0

theorem fld_wordsNumber (l : List Word) (i : Nat) : fld (wordsNumber l) (64 * i) 64 = ((l[i]?).getD 0).toNat := by
  induction l generalizing i with
  | nil => simp [wordsNumber, fld]
  | cons w l ih =>
    have hw := w.isLt
    have hcons : wordsNumber (w :: l) = w.toNat + 2 ^ 64 * wordsNumber l := rfl
    cases i with
    | zero =>
      rw [hcons, fld]
      simp only [Nat.mul_zero, Nat.pow_zero, Nat.div_one, List.getElem?_cons_zero, Option.getD_some]
      omega
    | succ i =>
      have hskip : wordsNumber (w :: l) / 2 ^ 64 = wordsNumber l := by omega
      rw [List.getElem?_cons_succ, ← ih i, fld, fld, show 64 * (i + 1) = 64 + 64 * i by ring, Nat.pow_add, ← Nat.div_div_eq_div_mul,
        hskip]

/-- The words of a number of 128 bytes that was written. -/
theorem write_words_read (m : Mem) (a : Nat) (l : List Word) {i : Nat} (hi : i < 16) :
    (m.write a 128 (wordsNumber l)).read (a + 8 * i) 8 = ((l[i]?).getD 0).toNat := by
  rw [read_part _ (show 8 * i + 8 ≤ 128 by omega), Mem.write_read,
    show (256 : Nat) ^ 128 = 2 ^ (16 * 64) by rw [show 16 * 64 = 8 * 128 from rfl, pow_mul]; rfl,
    show 8 * (8 * i) = 64 * i by ring]
  exact (fld_mod hi).trans (fld_wordsNumber l i)

theorem descPlace_apply (tid : Nat) (s : State) : descPlace tid s =
    .ok (if tidOk s.self.tdtroot tid then some (s.localize (descAddr s.self.tdtroot tid)) else none) s := rfl

theorem tidOk_iff (root : Word) (tid : Nat) : tidOk root tid = true ↔ tid < 2 ^ bits root 0 5 := decide_eq_true_iff

/-- A store in a tenant's name to memory at rest is a write at its port (R166). -/
theorem homeStore_tenant {s : State} {a n : Nat} (v : Nat) (t : Option (BitVec 6)) (hc : s.ms.chains = []) (hl : noLine s.ms a n)
    (hn : 0 < n) : s.homeStore a n v t = { s with ms := s.ms.portWrite a n v } := by
  simp only [State.homeStore, Machine.homeStore, X.bind_apply, X.get_apply, homeAt_none hl hn, X.modify_apply, recall_atRest hc hl]

section writes
variable {f : TT} {s : State} {tid place : Nat} {dw : List Word} {l : List L1Line}

theorem tdescWrite_beyond (hn : ¬tid < 2 ^ bits s.self.tdtroot 0 5) :
    tdescWrite f (s.ctxOf s.cur) tid dw (withL1 s l) = .ok () ((withL1 s l).modSelf (replying f.xc 2)) := by
  have hok : tidOk (withL1 s l).self.tdtroot tid = false := by
    rw [withL1_self, Bool.eq_false_iff, ne_eq, tidOk_iff]
    exact hn
  simp only [tdescWrite, X.bind_apply, descPlace_apply, hok, Bool.false_eq_true, if_false, reply_apply]
  rfl

/-- The entry of the table that TDESC writes, in memory at rest (R101, R273). -/
structure Entry (s : State) (tid place : Nat) : Prop where
  inside : tid < 2 ^ bits s.self.tdtroot 0 5
  address : s.localize (descAddr s.self.tdtroot tid) = place
  tables : s.inTables s.self.tk.tenant (descAddr s.self.tdtroot tid) 128 = true
  device : place + 128 < 2 ^ 42
  rest : atRest s place 128 none
  clean : s.ms.poison = []

/-- The descriptor that TDESC makes of the dwords it has read: under the entry's own generation (R273). -/
def madeOf (s : State) (place : Nat) (dw : List Word) : Desc :=
  ⟨setBits ((dw[0]?).getD 0) 0 16 (s.ms.mem.read place 8 % 2 ^ 16) :: dw.drop 1⟩

theorem Entry.homeRead (h : Entry s tid place) (t : Option (BitVec 6)) :
    s.ms.homeRead place 8 t = (s.ms, s.ms.mem.read place 8, false) := by
  have hdev := h.device
  exact homeRead_atRest h.rest.1 (noLine_part (i := 0) (atRest_noLine h.rest) (by decide) (by decide)) h.clean (by omega) (by decide) t

/-- What TDESC does with an entry of the table: it writes a well-formed descriptor, and answers MALFORMED to another. -/
theorem tdescWrite_inside (h : Entry s tid place) : tdescWrite f (s.ctxOf s.cur) tid dw (withL1 s l) = (do
    if (madeOf s place dw).ok tid (bits s.self.tdtroot 56 8) then
      bisnpCheck place 128
      waitSends
      modify fun t => (t.release.homeStore place 128 (wordsNumber (madeOf s place dw).dw) (some s.self.tk.tenant)).modSelf
        fun k => k.l1DropAddr place 128
      dropDesc (s.ctxOf s.cur) tid
      reply [(f.xc, 0)]
    else reply [(f.xc, 1)] : X Unit) (withL1 s l) := by
  have hroot : (withL1 s l).self.tdtroot = s.self.tdtroot := by rw [withL1_self]; rfl
  have hok : tidOk s.self.tdtroot tid = true := (tidOk_iff _ _).mpr h.inside
  have hplace : (withL1 s l).localize (descAddr s.self.tdtroot tid) = place := h.address
  have htables : (withL1 s l).inTables (s.ctxOf s.cur).tenant (descAddr s.self.tdtroot tid) 128 = true := h.tables
  have hread : (withL1 s l).ms.homeRead place 8 (some (s.ctxOf s.cur).tenant) = ((withL1 s l).ms, s.ms.mem.read place 8, false) :=
    h.homeRead _
  have hsame : { withL1 s l with ms := (withL1 s l).ms } = withL1 s l := rfl
  simp only [tdescWrite, X.bind_apply, descPlace_apply, hroot, hok, if_true, hplace, X.get_apply, htables, X.require_true, hread,
    X.set_apply, hsame, Bool.not_false, X.self_apply]
  rfl

theorem tdescWrite_malformed (h : Entry s tid place) (hd : (madeOf s place dw).ok tid (bits s.self.tdtroot 56 8) = false) :
    tdescWrite f (s.ctxOf s.cur) tid dw (withL1 s l) = .ok () ((withL1 s l).modSelf (replying f.xc 1)) := by
  rw [tdescWrite_inside h, hd]
  rfl

/-- What TDESC leaves of the caches and the memory system when it has written a descriptor (R104, R273). -/
structure DescWritten (s u : State) (tid place : Nat) (d : Desc) : Prop where
  caches : CachesOnly s u
  mem : u.ms.mem = s.ms.mem.write place 128 (wordsNumber d.dw)
  gone : ∀ x ∈ u.ms.desc, ¬(x.tenant = s.self.tk.tenant ∧ x.asid = s.self.asid ∧ x.tid = BitVec.ofNat 16 tid)

theorem tdescWrite_wellFormed (h : Entry s tid place) (hd : (madeOf s place dw).ok tid (bits s.self.tdtroot 56 8) = true)
    (hs : s.sending s.cur = false) : ∃ u, tdescWrite f (s.ctxOf s.cur) tid dw (withL1 s l) = .ok () (u.modSelf (replying f.xc 0)) ∧
      DescWritten s u tid place (madeOf s place dw) := by
  have hdev := h.device
  have hsends : waitSends (withL1 s l) = .ok () (withL1 s l) := by
    have hidle : (withL1 s l).sending (withL1 s l).cur = false := by
      have hself : (withL1 s l).core s.cur = (withL1 s l).self := rfl
      rw [← hs, State.sending, withL1_cur, hself, withL1_self]
      rfl
    simp only [waitSends, X.bind_apply, X.get_apply, hidle, Bool.not_false, X.awaiting_true]
  have hchains : (withL1 s l).ms.chains = [] := h.rest.1
  have hline : noLine (withL1 s l).ms place 128 := atRest_noLine h.rest
  have hmem := portWrite_mem 128 (wordsNumber (madeOf s place dw).dw) h.rest.1 (show place < 2 ^ 42 by omega)
  rw [tdescWrite_inside h, if_pos hd]
  simp only [X.bind_apply, bisnpCheck_atRest (s := withL1 s l) h.rest.2.1, hsends, X.modify_apply, release_of_chains hchains,
    homeStore_tenant _ _ hchains hline (show 0 < 128 by decide), dropDesc, reply_apply]
  refine ⟨_, rfl, ?_, hmem, descDrop_gone _ _ _ _⟩
  exact (((withL1_cachesOnly s l).trans (CachesOnly.withMs _ _)).trans (CachesOnly.modSelf _ fun _ => rfl)).trans
    (CachesOnly.withMs _ _)

end writes

/-! ### TDESC.RF (R104, R273) -/

section tdescRf
variable {f : TT} {s : State}

theorem exec_tdescRf_beyond (hf : slotFree s f.xc) (hr : ready s [f.xa])
    (hn : ¬bits (s.self.rd f.xa) 48 16 < 2 ^ bits s.self.tdtroot 0 5) : exec (.tdescRf f) s = replied s 8 f.xc 2 := by
  have hok : tidOk s.self.tdtroot (bits (s.self.rd f.xa) 48 16) = false := by
    rw [Bool.eq_false_iff, ne_eq, tidOk_iff]
    exact hn
  refine finish_did (m := _) ?_
  simp only [X.bind_apply, readX_ok (hr f.xa (by simp)), reserveReply_slotFree hf, selfCtx, X.get_apply, X.pure_apply, descPlace_apply,
    hok, Bool.false_eq_true, if_false, reply_apply]

theorem exec_tdescRf_inside (hf : slotFree s f.xc) (hr : ready s [f.xa])
    (hn : bits (s.self.rd f.xa) 48 16 < 2 ^ bits s.self.tdtroot 0 5) : exec (.tdescRf f) s =
      .next (({ s with ms := s.ms.descDrop s.self.tk.tenant s.self.asid (BitVec.ofNat 16 (bits (s.self.rd f.xa) 48 16)) } : State).modSelf
        fun k => (replying f.xc 0 k).retire 8) := by
  have hok := (tidOk_iff _ _).mpr hn
  refine finish_caches (m := _) ?_
  simp only [X.bind_apply, readX_ok (hr f.xa (by simp)), reserveReply_slotFree hf, selfCtx, X.get_apply, X.pure_apply, descPlace_apply,
    hok, if_true, dropDesc, X.modify_apply, reply_apply]
  rfl

end tdescRf

/-- Settles O34: TDESC reads its dwords one by one, each leaving only L1 lines dropped, and what follows depends on its entry alone. -/
theorem descriptorForms : Obligations.DescriptorForms := by
  intro f s e dw k tid b inTable entry place pa gen new copies answers hf
  have hanswers : ∀ {v : Word},
      (∀ l, tdescWrite f (s.ctxOf s.cur) tid dw (withL1 s l) = .ok () ((withL1 s l).modSelf (replying f.xc v))) →
      ready s [f.xa, f.xb] → b.toNat % 128 = 0 → Stands s b pa e dw → answers v := by
    intro v hw hr hb hstands
    obtain ⟨u, hexec, l, rfl⟩ := exec_tdesc_of_write (P := fun u => ∃ l, u = withL1 s l) hr hf hb hstands
      fun l => ⟨_, hw l, l, rfl⟩
    exact ⟨_, hexec, rfl, onlyCaches_replying (withL1_cachesOnly s l) _ _ _⟩
  refine ⟨fun hr hb htf => ?_, fun hr hn => exec_tdescRf_beyond hf hr hn, fun hr hn => ?_,
    fun hr hb hlen hmapped hu hplain hrest hp => ?_⟩
  · exact exec_tdesc_misaligned hf hr hb htf
  · refine ⟨_, exec_tdescRf_inside hf hr hn, descDrop_gone _ _ _ _, rfl, List.filter_sublist, ?_⟩
    exact onlyCaches_replying (CachesOnly.withMs s _) _ _ _
  · have hpage : pa % 4096 = b.toNat % 4096 := leafAddr_page s e.pte e.level b
    have hstands : Stands s b pa e dw := ⟨by omega, hlen, hmapped, hu, hplain, hrest, hp⟩
    refine ⟨fun hn => hanswers (fun l => tdescWrite_beyond hn) hr hb hstands, fun hn htables hdev hrest' => ?_⟩
    have hentry : Entry s tid place := ⟨hn, rfl, htables, hdev, hrest', hp⟩
    have hnew : new = madeOf s place dw := by
      simp only [new, gen, hentry.homeRead none, madeOf]
    refine ⟨fun hd => hanswers (fun l => tdescWrite_malformed hentry (hnew ▸ hd)) hr hb hstands, fun hd hs => ?_⟩
    obtain ⟨u, hexec, hwritten⟩ := exec_tdesc_of_write hr hf hb hstands fun l => tdescWrite_wellFormed (l := l) hentry (hnew ▸ hd) hs
    refine ⟨_, hexec, hwritten.gone, onlyCaches_replying hwritten.caches _ _ _, fun i hi => ?_, fun a ha => ?_⟩
    · show u.ms.mem.read _ _ = _
      rw [hwritten.mem, write_words_read _ _ _ hi, ← hnew]
      rfl
    · show u.ms.mem.get a = _
      rw [hwritten.mem]
      exact Mem.write_get_other _ _ _ _ ha

end Sys2Proof.Proofs
end

section
/-! Operations at the memory of an object (O43): one that meets a load run ahead of it. -/

namespace Sys2Proof.Proofs
open Sys2Proof.Machine Sys2Proof.Claim

/-- DRPL of the core that moves after an outcome (R144). -/
def replaysAfter : Out → Option Word
  | .next t => some (t.self.csrAt 0x041)
  | _ => none

/-- An instruction that changes memory, and of its core not DRPL, leaves DRPL as it was. -/
theorem replaysAfter_onlyMemory {s t : State} {size : Nat} {f : Core → Core} (h : onlyMemory s t size f)
    (hf : (f s.self).csrAt 0x041 = s.self.csrAt 0x041) : replaysAfter (.next t) = some (s.self.csrAt 0x041) := by
  obtain ⟨hself, -⟩ := h
  have hretire : ((f s.self).retire size).csrAt 0x041 = (f s.self).csrAt 0x041 :=
    onlyCsrs_retire (k := f s.self) (ns := []) (fun _ _ _ => rfl) size 0x041 (by decide) (by decide)
  calc replaysAfter (.next t) = some (((f s.self).retire size).csrAt 0x041) := by rw [replaysAfter, hself]; rfl
    _ = some (s.self.csrAt 0x041) := by rw [hretire, hf]

theorem replying_csrAt (xd : BitVec 6) (v : Word) (k : Core) (n : Nat) : (replying xd v k).csrAt n = k.csrAt n := rfl

/-- CLAIM x1, x2, x3, plain. -/
def plainClaim : SM := { xd := 1, xa := 2, xb := 3, ord := 0, scope := 0, size := 0, imm := 0, ext := none }

/-- Core 0 is to claim 3 of an object at address 0, of which 5 to 20 are left; the vector load at address 8 has run ahead and read
NEXT (R143). -/
def claimingBehindLoad : State :=
  let s := State.reset.withFetchWord 64 0
  { s with ms := { s.ms with mem := s.ms.mem.write 0x6000 16 (5 + 20 * 2 ^ 64) } }.modSelf fun k =>
    { k.wr 3 3 with cache := { k.cache with tlb := [mappedPage], ahead := [⟨8, [(.mem, 0x6000, 8)]⟩] } }

/-- Memory is at rest where no line stands at a home, none is the host's and nothing is under way. -/
theorem atRest_of_empty {s : State} (hc : s.ms.chains = []) (hd : s.ms.hdm = []) (hh : s.ms.homes = []) (a n : Nat) (l : Option LineKey) :
    atRest s a n l := ⟨hc, by simp [hd], by simp [hh]⟩

theorem claimingBehindLoad_object : object claimingBehindLoad (claimingBehindLoad.self.rd 2 + plainClaim.value) 16 3 mappedPage := by
  refine ⟨by decide +kernel, ?_, atRest_of_empty ?_ ?_ ?_ _ _ _, ?_⟩
  · dsimp only [mapped, mappedFor]
    decide +kernel
  all_goals decide +kernel

/-- The claim squashes the load, and DRPL counts it (R143, R144). -/
theorem claimingBehindLoad_replays : replaysAfter (exec (.claim plainClaim) claimingBehindLoad) = some 1 := by decide +kernel

/-- Refutes O43: a CLAIM whose object a run-ahead load has read squashes that load and DRPL rises by one (R143, R144), where
the clause on the count granted has DRPL kept. -/
theorem not_synchronisationObjects : ¬ Obligations.SynchronisationObjects := by
  rintro ⟨hclaim, -⟩
  have hready : ready claimingBehindLoad [2, 3] := by unfold ready; decide +kernel
  have hslot : slotFree claimingBehindLoad 1 := by unfold slotFree; decide +kernel
  obtain ⟨-, -, -, hgrants⟩ := hclaim plainClaim claimingBehindLoad mappedPage hready hslot
  obtain ⟨t, hnext, -, honly⟩ := hgrants (by decide +kernel) claimingBehindLoad_object (fun h => absurd h (by decide)) 5 20
    (by decide) (by decide) (by decide +kernel)
  have hkept := replaysAfter_onlyMemory honly (by simp [replying_csrAt])
  rw [← hnext, claimingBehindLoad_replays] at hkept
  exact absurd hkept (by decide +kernel)

end Sys2Proof.Proofs
end

section
/-! The oldest engine event delivered (O47): to a thread that waits for the host. -/

namespace Sys2Proof.Proofs
open Sys2Proof.Machine Sys2Proof.Claim

/-- Core 0 runs a member of a task of tenant 0 whose thread waits for a host translation, and holds the event of a copy that has
failed. -/
def failedCopyWhileAwaitingHost : State :=
  { State.reset with ms := { MemSys.reset with atsSeek := [(.thread 0, 1, 0)] } }.modCore 0 fun k =>
    { k with tk := { k.tk with task := some 0 }, wait := .ats 1 0
             eng := { k.eng with events := [{ h := 0, status := 2, kind := 0, event := 0 }] } }

/-- The trap gives up the access that waited: it is made anew after the handler (R37). -/
theorem failedCopyWhileAwaitingHost_delivered :
    seekersAfter (exec (.engineTrapDelivery 0) failedCopyWhileAwaitingHost) = [] := by decide +kernel

/-- Refutes O47: the delivery of an engine event to a thread that waits for a host translation changes more than the core, for the
access that waited leaves the list of those that the host is asked for (R37). -/
theorem not_engineEvents : ¬ Obligations.EngineEvents := by
  intro h
  obtain ⟨-, -, -, -, -, hdelivery, -⟩ := h 0 failedCopyWhileAwaitingHost
  have hnext := hdelivery { h := 0, status := 2, kind := 0, event := 0 } [] (by decide +kernel) (by decide +kernel) (by decide +kernel)
    (by decide +kernel) (by decide +kernel) (by decide +kernel) (by decide +kernel) (by decide +kernel)
  have hseek := congrArg seekersAfter hnext
  rw [failedCopyWhileAwaitingHost_delivered] at hseek
  cases hseek

end Sys2Proof.Proofs
end

section
/-! Events of pre-emption (O50): PREEMPT delivered to a thread that waits for the host. -/

namespace Sys2Proof.Proofs
open Sys2Proof.Machine Sys2Proof.Claim

/-- Core 0 runs a member of a task of tenant 0 whose thread waits for a host translation, and whose PREEMPT is due. -/
def preemptDueWhileAwaitingHost : State :=
  { State.reset with ms := { MemSys.reset with atsSeek := [(.thread 0, 1, 0)] } }.modCore 0 fun k =>
    { k with tk := { k.tk with task := some 0, preempt := .due }, wait := .ats 1 0 }

/-- The trap gives up the access that waited: it is made anew after the handler (R37). -/
theorem preemptDueWhileAwaitingHost_delivered :
    seekersAfter (exec (.preemptDelivery 0) preemptDueWhileAwaitingHost) = [] := by decide +kernel

/-- Refutes O50: PREEMPT delivered to a thread that waits for a host translation changes more than the core, for the access that
waited leaves the list of those that the host is asked for (R37). -/
theorem not_dealerEvents : ¬ Obligations.DealerEvents := by
  rintro ⟨-, hpreemption⟩
  obtain ⟨-, hdelivery, -⟩ := hpreemption preemptDueWhileAwaitingHost 0 placeTask
  have hboundary : atBoundary (preemptDueWhileAwaitingHost.core 0) := by
    unfold atBoundary
    decide +kernel
  have hnext := hdelivery hboundary (by decide +kernel) (by decide +kernel)
  have hseek := congrArg seekersAfter hnext
  rw [preemptDueWhileAwaitingHost_delivered] at hseek
  cases hseek

end Sys2Proof.Proofs
end

section
/-! Copies that convert (O37): what type the tile of a PACK copy takes. -/

namespace Sys2Proof.Proofs
open Sys2Proof.Machine Sys2Proof.Claim

/-- The translation of page 0 onto 0x6000, a page of BF16 elements (FMT 8). -/
def bf16Page : TlbEntry := { mappedPage with pte := 0x0080_0000_0000_61BF }

/-- A PACK copy of one element from address 0 into tile 0, in one plane; its descriptor names the type FP32. -/
def packingCopy : CopyOp :=
  { h := 0, kind := 0, src := 0, dst := 0, srcTile := none, dstTile := some 0, keep := false, d0 := 0x800A_0000_0100_0001, d1 := 0
    reply := 0, ctr := 0, rm := 0, asid := 0, ptroot := 0, tdt := 0, super := true, phase := .running, u := 0
    prevSrc := Tile.free, prevDst := Tile.free, conf := false, refused := none, rep := none, auth := none, resumed := false
    fmt := none, old := [] }

/-- Core 0 performs that copy for tenant 0, which has a window over the lowest 2 MiB. -/
def packing : State := (State.reset.setReg 0 0x2_0000 0x8000_0000_0000_0000).modCore 0 fun k =>
  { k with cache := { k.cache with tlb := [bf16Page] }, eng := { k.eng with copies := [packingCopy] } }

/-- The element type of tile 0 of core 0 after an outcome. -/
def tileTypeAfter : Out → Option (BitVec 5)
  | .next t => some ((t.core 0).tile 0).et
  | _ => none

/-- The tile takes the native type of the page, BF16, and not the descriptor's (R298). -/
theorem packing_type : tileTypeAfter (exec (.copyComplete 0 packingCopy.h) packing) = some (BitVec.ofNat 5 ET.bf16.code) := by
  decide +kernel

/-! ### The page of that copy -/

theorem canonical_of_lt {a : Word} (h : a.toNat < 2 ^ 55) : canonical a = true := by
  have hmsb : (a.extractLsb' 0 56).msb = false := by
    rw [BitVec.msb_eq_false_iff_two_mul_lt, BitVec.extractLsb'_toNat]
    omega
  rw [canonical, canon56, beq_iff_eq, BitVec.signExtend_eq_setWidth_of_msb_false hmsb]
  apply BitVec.eq_of_toNat_eq
  simp only [BitVec.toNat_setWidth, BitVec.extractLsb'_toNat]
  omega

/-- The low addresses are their own local form, lie in the window and in no register block. -/
theorem packing_low {a : Nat} (h : a < 2 ^ 21) : packing.localize a = a ∧ packing.inWindow 0 a = true ∧ mmioOf a = none := by
  have hlocal : packing.localize a = a := by
    rw [State.localize, Nat.mod_eq_of_lt (by omega : a < 2 ^ 42), ite_self]
  have htwin : packing.twin (0 : BitVec 6).toNat 0 = 0x8000_0000_0000_0000 := by decide +kernel
  have hunit : fld a 21 21 = 0 := by rw [fld, Nat.div_eq_of_lt h, Nat.zero_mod]
  have hdevice : inDevice a = true := by rw [inDevice, deviceEnd, decide_eq_true_eq]; omega
  refine ⟨hlocal, ?_, ?_⟩
  · rw [State.inWindow, Bool.or_eq_true, List.any_eq_true]
    refine .inl ⟨0, by decide, ?_⟩
    have hbits : bits 0x8000_0000_0000_0000 0 24 = 0 ∧ bits 0x8000_0000_0000_0000 24 24 = 0 ∧ bits 0x8000_0000_0000_0000 58 2 = 0 := by
      decide
    rw [hlocal, htwin, twinMatch, hunit, hbits.1, hbits.2.1, hbits.2.2]
    exact hdevice
  · rw [mmioOf, if_neg]
    simp only [Bool.and_eq_true, decide_eq_true_eq]
    omega

theorem bf16Page_raw {a : Word} (h : a.toNat < 4096) : leafRaw bf16Page.pte bf16Page.level a = 0x6000 + a.toNat := by
  have hpages : leafPages bf16Page.pte bf16Page.level = 1 := by decide
  have hppn : ptePpn bf16Page.pte = 6 := by decide
  rw [leafRaw, hpages, hppn, Nat.mod_eq_of_lt (by omega)]

theorem bf16Page_serves {c : Ctx} {a : Word} (hc : c.tenant = 0 ∧ c.asid = 0) (h : a.toNat < 4096) : bf16Page.serves c a 0 = true := by
  have hpage : bits a 12 44 = 0 := by
    rw [bits, BitVec.extractLsb'_toNat]
    omega
  rw [TlbEntry.serves, hpage, hc.1, hc.2]
  decide

/-- Any n bytes of the page are translated by the entry, as the copy reads them. -/
theorem packing_mapped {a : Word} {m : Nat} (hm : 0 < m) (h : a.toNat + m ≤ 4096) :
    mappedFor packing (packingCopy.ctx (packing.core 0).tk.tenant 0) a { kind := 0, n := m, noMmio := true } bf16Page := by
  have hctx : packingCopy.ctx (packing.core 0).tk.tenant 0 = packingCopy.ctx 0 0 := by decide +kernel
  have hraw := bf16Page_raw (show a.toNat < 4096 by omega)
  obtain ⟨hlocal, hwindow, hmmio⟩ := packing_low (show 0x6000 + a.toNat < 2 ^ 21 by omega)
  have hlast := (packing_low (show 0x6000 + a.toNat + (m - 1) < 2 ^ 21 by omega)).2.1
  have hleaf : packing.leafAddr bf16Page.pte bf16Page.level a = 0x6000 + a.toNat := by rw [State.leafAddr, hraw, hlocal]
  have htlb : (packing.core 0).cache.tlb = [bf16Page] := by decide +kernel
  rw [hctx]
  refine ⟨canonical_of_lt (by omega), ?_, ?_, rfl, rfl, by decide, by decide, ?_, ?_, rfl⟩
  · exact (congrArg (List.find? _) htlb).trans (List.find?_cons_of_pos (bf16Page_serves ⟨rfl, rfl⟩ (by omega)))
  · rw [State.leafWindow, hraw, hlocal, hmmio, State.inWindows]
    show (packing.inWindow 0 _ && packing.inWindow 0 _ && _ && _ && _) = true
    rw [hwindow, hlast]
    rfl
  · rw [hleaf, hmmio]
  · rw [hleaf]
    omega

/-- The page is not cached (NC = 1). -/
theorem packing_uncached (pa : Nat) : uncached packing bf16Page pa = true := rfl

theorem packing_inPage : inPage packing 0 packingCopy 0 0 4096 8 bf16Page := by
  refine ⟨by decide, by decide, fun i m hm hi => ?_, fun i hi => ⟨?_, fun hu => ?_⟩⟩
  · have hadd : ((0 : Word) + toWord i).toNat = i := by
      rw [show (0 : Word) + toWord i = toWord i from BitVec.zero_add _, BitVec.toNat_ofNat, Nat.mod_eq_of_lt (by omega)]
    exact packing_mapped hm (by omega)
  · rw [placedFor, if_pos (packing_uncached _)]
    exact atRest_of_empty (by decide +kernel) (by decide +kernel) (by decide +kernel) _ _ _
  · rw [packing_uncached] at hu
    cases hu

theorem packing_copying : copying packing 0 packingCopy := by
  have hhomes : packing.ms.homes = [] := by decide +kernel
  refine ⟨?_, by decide +kernel, by decide +kernel, by rw [hhomes]; exact fun _ h => absurd h List.not_mem_nil⟩
  unfold Claim.alone
  decide +kernel

/-- Refutes O37: its clause on PACK gives the tile the type that the descriptor names, also from a page that has a native type; there the
tile takes the page's (R298). -/
theorem not_copiesAndHandles : ¬ Obligations.CopiesAndHandles := by
  rintro ⟨-, -, -, hconverts, -⟩
  obtain ⟨-, hpack⟩ := hconverts 0 packing packingCopy bf16Page 8 0 packing_copying (by decide) rfl rfl (by decide) packing_inPage
    (by decide) (by decide) (by decide)
  obtain ⟨t, ⟨hnext, -, htile, -⟩, -⟩ := hpack (by decide) (by decide) (by decide) (by decide +kernel) (by decide)
  have htype : tileTypeAfter (.next t) = some (BitVec.ofNat 5 packingCopy.packET.code) :=
    congrArg (fun e : Tile => some e.et) htile
  rw [← hnext, packing_type] at htype
  exact absurd htype (by decide)

end Sys2Proof.Proofs
end

section
/-! The execute stream, and operations of the matrix engine issued (O38). -/

namespace Sys2Proof.Proofs
open Sys2Proof.Machine Sys2Proof.Claim

/-! ### The execute stream (R180) -/

/-- With the stream empty, a command that enters it stays there only while the inbox of its engine is full (R180). -/
theorem enterStream_empty {k : Core} (hs : k.eng.stream = []) (h : BitVec 8) :
    k.enterStream h = if ((k.eng.issued (k.handle h).kind.toNat).filter (· ≠ h)).length < inboxSize (k.handle h).kind.toNat then k
      else { k with eng := { k.eng with stream := [h] } } := by
  have hinbox : ({ k.eng with stream := [h] } : Engines).inbox (k.handle h).kind.toNat =
      (k.eng.issued (k.handle h).kind.toNat).filter (· ≠ h) := by
    have hissued : ({ k.eng with stream := [h] } : Engines).issued (k.handle h).kind.toNat =
        k.eng.issued (k.handle h).kind.toNat := rfl
    rw [Engines.inbox, hissued]
    exact List.filter_congr fun g _ => by simp
  have hk : ({ k with eng := { k.eng with stream := [] } } : Core) = k := by rw [← hs]
  have hfeed : k.enterStream h = { k with eng := ({ k.eng with stream := [h] } : Engines).feed 1 } := by
    rw [Core.enterStream, hs]
    rfl
  have hone : ({ k.eng with stream := [h] } : Engines).feed 1 =
      if (({ k.eng with stream := [h] } : Engines).inbox (k.handle h).kind.toNat).length < inboxSize (k.handle h).kind.toNat then
        { k.eng with stream := [] } else { k.eng with stream := [h] } := rfl
  rw [hfeed, hone, hinbox]
  split
  · exact hk
  · rfl

theorem inboxSize_eq (kind : Nat) : inboxSize kind = if kind = 0 then 32 else if kind = 1 then 4 else 16 := by
  rcases kind with _ | _ | _ <;> rfl

/-! ### Claims before a handle (R180, R291) -/

theorem bind_of_ok {α β : Type} {m : X α} {f : α → X β} {s t : State} {a : α} (h : m s = .ok a t) : (m >>= f) s = f a t := by
  rw [X.bind_apply, h]

theorem bind_of_error {α β : Type} {m : X α} {f : α → X β} {s t : State} {e : Stop} (h : m s = .error e t) :
    (m >>= f) s = .error e t := by
  rw [X.bind_apply, h]

theorem atomically_congr {α : Type} {m n : X α} {s : State} (h : m s = n s) : atomically m s = atomically n s := by
  rw [atomically, atomically, h]

theorem finish_congr {n : Nat} {m m' : X Unit} {s : State} (h : m s = m' s) : finish n m s = finish n m' s := by
  rw [finish, finish, State.run, State.run, h]

/-- A wait that has sent no request leaves the state as it was. -/
theorem atomically_wait {α : Type} {m : X α} {s t : State} {w : Wait} (h : m s = .error (.wait w) t) (hms : t.ms = s.ms) :
    atomically m s = .error (.wait w) s := by
  simp only [atomically, h, hms]
  rfl

theorem atomically_trap {α : Type} {m : X α} {s t : State} {c : Nat} {v : Word} (h : m s = .error (.trap c v) t) :
    atomically m s = .error (.trap c v) t := by
  simp only [atomically, h]

theorem wholly_ok {α : Type} {m : X α} {s t : State} {a : α} (h : m s = .ok a t) : wholly m s = .ok a t := by
  simp only [wholly, h]

theorem wholly_wait {α : Type} {m : X α} {s t : State} {w : Wait} (h : m s = .error (.wait w) t) :
    wholly m s = .error (.wait w) t := by
  simp only [wholly, h]

/-- A trap gives up what was claimed before it. -/
theorem wholly_trap {α : Type} {m : X α} {s t : State} {c : Nat} {v : Word} (h : m s = .error (.trap c v) t) :
    wholly m s = .error (.trap c v) s := by
  simp only [wholly, h]

section claim
variable {s : State} {i : Instr} {size : Nat} {kind : BitVec 3} {claim : X Unit} {g : Core → Core} {post : BitVec 8 → X Unit}
  {f : BitVec 8 → Core → Core}

/-- An instruction that makes claims on its core, beside the engines, then takes a handle, allocates as R180 says: without a handle
the claims are given up. -/
theorem allocates_of_claim
    (he : exec i s = finish size (atomically (wholly (claim >>= fun _ => allocHandle kind) >>= post)) s)
    (hclaim : claim s = .ok () (s.modSelf g)) (heng : (g s.self).eng = s.self.eng)
    (hpost : ∀ h, post h (s.modSelf fun k => (g k).setHandle h ⟨.busy, kind, 0, 0⟩) =
      .ok () (s.modSelf fun k => f h (k.setHandle h ⟨.busy, kind, 0, 0⟩))) : allocates s i size kind f := by
  have hhandle : ∀ h, (s.modSelf g).self.handle h = s.self.handle h := fun h => by
    rw [State.modSelf_self, Core.handle, heng, Core.handle]
  have hissue : ∀ {r}, allocHandle kind (s.modSelf g) = r → (claim >>= fun _ => allocHandle kind) s = r :=
    fun h => (bind_of_ok hclaim).trans h
  refine ⟨fun h hh hlow => ?_, fun hdone htf => ?_, fun hn ⟨h, hb⟩ => ?_⟩
  · have hfree : (s.modSelf g).self.freeHandle = some h :=
      freeHandle_lowest (by rw [hhandle]; exact hh) fun j hj => by rw [hhandle]; exact hlow j hj
    refine he.trans (finish_did (atomically_ok ((bind_of_ok (wholly_ok (hissue (allocHandle_free hfree)))).trans ?_)))
    rw [State.modSelf_modSelf]
    exact hpost h
  · have halloc := allocHandle_done (kind := kind) (s := s.modSelf g) fun h => by rw [hhandle, hdone h]
    exact he.trans (finish_trapped (atomically_trap (bind_of_error (wholly_trap (hissue halloc)))) htf rfl)
  · have halloc := allocHandle_busy (kind := kind) (s := s.modSelf g) (fun j => by rw [hhandle]; exact hn j)
      ⟨h, by rw [hhandle, hb]⟩
    exact he.trans (finish_waitsFor (atomically_wait (bind_of_error (wholly_wait (hissue halloc))) rfl))

end claim

/-! ### Readers of tiles (R90) -/

/-- A tile of the core's tenant that is READY, with fewer than n readers. -/
def readableTile (k : Core) (n : Nat) (t : BitVec 8) : Prop :=
  (k.tile t.toNat).v = true ∧ (k.tile t.toNat).tenant = k.tk.tenant ∧ (k.tile t.toNat).st = .ready ∧
    (k.tile t.toNat).readers.toNat < n

/-- A tile with a reader more. -/
def addReader (k : Core) (t : BitVec 8) : Core := k.modTile t.toNat fun e => { e with readers := e.readers + 1 }

theorem addReader_readableTile {k : Core} {n : Nat} {t u : BitVec 8} (hn : n ≤ 255) (h : readableTile k n u) :
    readableTile (addReader k t) (n + 1) u := by
  obtain ⟨hv, htenant, hst, hreaders⟩ := h
  by_cases htu : u = t
  · subst htu
    rw [readableTile, addReader, Core.modTile, setTile_tile_same k u.isLt]
    refine ⟨hv, htenant, hst, ?_⟩
    show ((k.tile u.toNat).readers + 1).toNat < n + 1
    bv_omega
  · rw [readableTile, addReader, Core.modTile, setTile_tile_other k fun h => htu (BitVec.eq_of_toNat_eq h)]
    exact ⟨hv, htenant, hst, by omega⟩

theorem namedRead_ready {s : State} {t : Nat} {e : Tile} (h : e.st = .ready) : namedRead t e s = .ok () s := by
  simp [namedRead, tileLocal, h]

theorem forM_namedRead {s : State} {n : Nat} {l : List (BitVec 8)} (h : ∀ t ∈ l, readableTile s.self n t) :
    (l.forM fun t => do namedRead t.toNat (← namedTile t.toNat)) s = .ok () s := by
  induction l with
  | nil => rfl
  | cons t l ih =>
    obtain ⟨hv, htenant, hst, -⟩ := h t List.mem_cons_self
    refine (bind_of_ok ((bind_of_ok (namedTile_mine hv htenant)).trans (namedRead_ready hst))).trans ?_
    exact ih fun u hu => h u (List.mem_cons_of_mem t hu)

theorem readerStart_readable {s : State} {t : BitVec 8} (h : readableTile s.self 255 t) :
    readerStart t.toNat s = .ok () (s.modSelf (addReader · t)) := by
  obtain ⟨hv, htenant, hst, hreaders⟩ := h
  simp only [readerStart, X.bind_apply, namedTile_mine hv htenant, namedRead_ready hst, hreaders, decide_true, X.awaiting_true,
    X.modSelf_apply]
  rfl

theorem forM_readerStart {l : List (BitVec 8)} {s : State} {n : Nat} (h : ∀ t ∈ l, readableTile s.self n t)
    (hn : n + l.length ≤ 256) :
    (l.forM fun t => readerStart t.toNat) s = .ok () (s.modSelf fun k => l.foldl addReader k) := by
  induction l generalizing s n with
  | nil => exact congrArg _ (State.modSelf_of_eq s rfl).symm
  | cons t l ih =>
    rw [List.length_cons] at hn
    obtain ⟨hv, htenant, hst, hreaders⟩ := h t List.mem_cons_self
    refine (bind_of_ok (readerStart_readable ⟨hv, htenant, hst, by omega⟩)).trans ?_
    refine (ih (n := n + 1) (fun u hu => ?_) (by omega)).trans ?_
    · rw [State.modSelf_self]
      exact addReader_readableTile (by omega) (h u (List.mem_cons_of_mem t hu))
    · rw [State.modSelf_modSelf]
      rfl

theorem foldl_addReader_eng (l : List (BitVec 8)) (k : Core) : (l.foldl addReader k).eng = k.eng :=
  foldl_keeps (f := addReader) (·.eng) (fun _ _ => rfl) l k

theorem foldl_addReader_replies (l : List (BitVec 8)) (k : Core) : (l.foldl addReader k).replies = k.replies :=
  foldl_keeps (f := addReader) (·.replies) (fun _ _ => rfl) l k

theorem foldl_addReader_setHandle (l : List (BitVec 8)) (k : Core) (h : BitVec 8) (e : Handle) :
    l.foldl addReader (k.setHandle h e) = (l.foldl addReader k).setHandle h e := by
  induction l generalizing k with
  | nil => rfl
  | cons t l ih => exact ih (addReader k t)

/-! ### Operations posted (R283, R284, R291) -/

section issue
variable {s : State} {i : Instr} {xd : BitVec 6} {o : MatOp} {regs : List Nat}

/-- A register is EMPTY by the replies that are on their way alone (R178). -/
theorem empty_of_replies {k l : Core} (h : l.replies = k.replies) (r : BitVec 6) : l.empty r = k.empty r := by
  rw [Core.empty, Core.empty, h]

theorem enterStream_replies (k : Core) (h : BitVec 8) : (k.enterStream h).replies = k.replies := rfl

theorem cleanC_unpoisoned (h : s.self.vec.poison = []) : o.cleanC s = .ok () s := by
  rw [MatOp.cleanC]
  split
  · rfl
  · simp [h]

/-- An operation joins the execute stream: with nothing refused its registers of C are EMPTY. -/
def postMatrix (o : MatOp) (fail : Option (BitVec 8)) (regs : List Nat) (h : BitVec 8) (k : Core) : Core :=
  let k := if fail.isNone then
      { k with vec := { k.vec with st := regs.foldl (fun v r => v.setIfInBounds r .empty) k.vec.st } } else k
  ({ k with eng := { k.eng with mats := k.eng.mats ++
    [{ o with h := h, fail := fail, claims := if fail.isNone then o.tiles else [] }] } }).enterStream h

theorem postMatrix_replies (fail : Option (BitVec 8)) (h : BitVec 8) (k : Core) :
    (postMatrix o fail regs h k).replies = k.replies := by
  rw [postMatrix, enterStream_replies]
  split <;> rfl

/-- What is left of an issue whose tiles and registers of C are as it needs them: the claims, the handle, the operation. -/
theorem matrixIssue_checked (hfree : s.self.empty xd = false) (htiles : ∀ t ∈ o.tiles, readableTile s.self 250 t)
    (hregs : (if o.kind = 3 then [] else o.cRegs) = regs) (hfull : ∀ r ∈ regs, s.self.vec.state r = .full)
    (hpoison : s.self.vec.poison = []) :
    matrixIssue xd o s = atomically (wholly ((if (o.refused s.self).isNone then o.tiles.forM fun t => readerStart t.toNat else pure ())
        >>= fun _ => allocHandle 1) >>= fun h => do
      modSelf (postMatrix o (o.refused s.self) regs h)
      writeX xd (h.setWidth 64)) s := by
  have hall : (regs.all fun r => s.self.vec.state r == .full) = true := List.all_eq_true.mpr fun r hr => by simp [hfull r hr]
  have hawait : awaiting (regs.all fun r => s.self.vec.state r == .full) s = .ok () s := by rw [hall, X.awaiting_true]
  subst hregs
  refine atomically_congr ?_
  refine (bind_of_ok (freeX_ok hfree)).trans ?_
  refine (bind_of_ok (forM_namedRead htiles)).trans ?_
  refine (bind_of_ok (X.self_apply s)).trans ?_
  refine (bind_of_ok hawait).trans ?_
  refine (bind_of_ok (cleanC_unpoisoned hpoison)).trans ?_
  cases o.refused s.self <;> rfl

/-- The claims of an issue: of each of its tiles a reader, unless a check refuses it (R291). -/
theorem matrixClaim_ok (htiles : ∀ t ∈ o.tiles, readableTile s.self 250 t) (fail : Option (BitVec 8)) :
    (if fail.isNone then o.tiles.forM fun t => readerStart t.toNat else pure ()) s =
      .ok () (s.modSelf fun k => (if fail.isNone then o.tiles else []).foldl addReader k) := by
  have hlen : o.tiles.length ≤ 3 := by
    unfold MatOp.tiles
    split <;> simp
  cases fail with
  | none => exact forM_readerStart htiles (by omega)
  | some t => exact congrArg _ (State.modSelf_of_eq s rfl).symm

/-- A change of the core that sends no reply, then the result register. -/
theorem modSelf_writeX_ok {p : Core → Core} (hp : ∀ k, (p k).replies = k.replies) (hfree : s.self.empty xd = false) (v : Word) :
    (do modSelf p; writeX xd v) s = .ok () (s.modSelf fun k => (p k).wr xd v) := by
  have hempty : (s.modSelf p).self.empty xd = false := by rw [State.modSelf_self, empty_of_replies (hp _), hfree]
  rw [bind_of_ok (X.modSelf_apply p s), writeX_ok hempty, State.modSelf_modSelf]

theorem posts_of_matrixIssue {m : X Unit} (he : exec i s = finish 8 m s) (hm : m s = matrixIssue xd o s)
    (hfree : s.self.empty xd = false) (hregs : (if o.kind = 3 then [] else o.cRegs) = regs) (hclaims : o.claims = [])
    (hfail : o.fail = none) : posts s i xd o regs := by
  intro htiles hfull hpoison
  have hreadable : ∀ t ∈ o.tiles, readableTile s.self 250 t := htiles
  have hallocates := allocates_of_claim (f := fun h k => (postMatrix o (o.refused s.self) regs h
      ((if (o.refused s.self).isNone then o.tiles else []).foldl addReader k)).wr xd (h.setWidth 64))
    (he.trans (finish_congr (hm.trans (matrixIssue_checked hfree hreadable hregs hfull hpoison))))
    (matrixClaim_ok hreadable _) (foldl_addReader_eng _ _) fun h => by
      refine (modSelf_writeX_ok (postMatrix_replies _ h) ?_ _).trans (congrArg _ ?_)
      · rw [State.modSelf_self, ← hfree]
        exact empty_of_replies (foldl_addReader_replies _ _) xd
      · rw [State.modSelf_modSelf]
        exact State.modSelf_congr s (by rw [foldl_addReader_setHandle])
  refine ⟨fun hr => ?_, fun t hr => ?_⟩
  · rw [hr] at hallocates
    rw [hfail]
    exact hallocates
  · rw [hr] at hallocates
    rw [hclaims]
    exact hallocates

theorem mmaForm_issues {f : EN} {kind : BitVec 2} (ha : s.self.empty f.xa = false) (hb : s.self.empty f.xb = false)
    (hc : kind = 1 → s.self.empty f.xc = false) : mmaForm f kind s = matrixIssue f.xd (issuedMatrix s.self f kind) s := by
  refine (bind_of_ok (readX_ok ha)).trans ?_
  refine (bind_of_ok (readX_ok hb)).trans ?_
  by_cases hk : kind = 1
  · rw [if_pos hk, issuedMatrix, if_pos hk]
    exact bind_of_ok (readX_ok (hc hk))
  · rw [if_neg hk, issuedMatrix, if_neg hk]
    rfl

/-- A multiply posts its operation as its fields give it (R282, R283). -/
theorem mma_posts {f : EN} {kind : BitVec 2} (he : exec i s = finish 8 (mmaForm f kind) s) (hk : kind ≠ 3)
    (hr : ready s [f.xa, f.xb, f.xd]) (hc : kind = 1 → s.self.empty f.xc = false) :
    posts s i f.xd (issuedMatrix s.self f kind) (issuedMatrix s.self f kind).cRegs :=
  posts_of_matrixIssue he (mmaForm_issues (hr _ (by simp)) (hr _ (by simp)) hc) (hr _ (by simp)) (if_neg hk) rfl rfl

end issue

/-- Settles O38: a form reads its registers, its checks leave claims, handle and operation, and those are one change of the core; the stream
delivers a command at once while its inbox has room. -/
theorem matrixIssue : Obligations.MatrixIssue := by
  intro f s op
  refine ⟨fun hr => ⟨?_, ?_⟩, fun hr => ?_, fun hr => ?_, fun k h hs => ?_⟩
  · exact mma_posts rfl (by decide) hr fun h => absurd h (by decide)
  · exact mma_posts rfl (by decide) hr fun h => absurd h (by decide)
  · exact mma_posts rfl (by decide) (fun r hm => hr r (by simp at hm ⊢; tauto)) fun _ => hr _ (by simp)
  · exact posts_of_matrixIssue rfl (bind_of_ok (readX_ok (hr _ (by simp)))) (hr _ (by simp)) rfl rfl rfl
  · rw [enterStream_empty hs, inboxSize_eq]

end Sys2Proof.Proofs
end

section
/-! Words and their fields (O54): what each format writes, its reader finds again, and what the reader finds makes up the word. -/

namespace Sys2Proof.Proofs

/-! ### Extension words (R190) -/

/-- A form that takes k extension bits stands alone, or behind an EXT56 that fits them; a form that takes none stands alone. -/
def takes (k : Nat) (e : Option (BitVec 56)) : Prop := ∀ x ∈ e, k ≠ 0 ∧ x.toNat < 2 ^ k

@[simp] theorem takes_none (k : Nat) : takes k none := by simp [takes]

theorem takes_zero {e : Option (BitVec 56)} (h : takes 0 e) : e = none :=
  Option.eq_none_iff_forall_not_mem.2 fun x hx => (h x hx).1 rfl

theorem takes.mono {k m : Nat} {e : Option (BitVec 56)} (h : takes k e) (hkm : k ≤ m) : takes m e := fun x hx =>
  ⟨by have := (h x hx).1; omega, (h x hx).2.trans_le (Nat.pow_le_pow_right (by omega) hkm)⟩

theorem takes_iff (k : Nat) (e : Option (BitVec 56)) :
    e.any (fun x => k == 0 || x.toNat >>> k != 0) = false ↔ takes k e := by
  cases e with
  | none => simp
  | some x => simp [takes, Nat.shiftRight_eq_div_pow, Nat.div_eq_zero_iff]

/-- The EXT56 that carries a short extension. -/
theorem takes_widened {k : Nat} (hk : k ≠ 0 ∧ k ≤ 56) (e : Option (BitVec k)) : takes k (e.map (·.setWidth 56)) := by
  simp only [takes, Option.mem_def, Option.map_eq_some_iff]
  rintro _ ⟨y, -, rfl⟩
  exact ⟨hk.1, by rw [BitVec.toNat_setWidth_of_le hk.2]; exact y.isLt⟩

theorem narrowed_widened {k : Nat} (hk : k ≤ 56) (e : Option (BitVec k)) :
    (e.map (·.setWidth 56)).map (·.setWidth k) = e := by
  rw [Option.map_map]
  refine (Option.map_congr fun x _ => ?_).trans Option.map_id'
  simp [BitVec.setWidth_setWidth_of_le x hk]

theorem widened_narrowed {k : Nat} {e : Option (BitVec 56)} (h : takes k e) : (e.map (·.setWidth k)).map (·.setWidth 56) = e := by
  rw [Option.map_map]
  refine (Option.map_congr fun x hx => ?_).trans Option.map_id'
  refine BitVec.eq_of_toNat_eq ?_
  have hx : x.toNat < 2 ^ k := (h x hx).2
  simp only [Function.comp_apply, BitVec.toNat_setWidth, Nat.mod_eq_of_lt hx, Nat.mod_eq_of_lt x.isLt]

/-! ### The instruction word of the formats that an extension word may precede (R186) -/

/-- The instruction word of an SI form. -/
def siWord (f : SI) (op : BitVec 8) (fn : BitVec 4) : Word := op ++ f.xd ++ f.xa ++ fn ++ f.imm
/-- The instruction word of an SM form. -/
def smWord (f : SM) (op : BitVec 8) : Word := op ++ f.xd ++ f.xa ++ f.xb ++ f.ord ++ f.scope ++ f.size ++ f.imm
/-- The instruction word of a VM form. -/
def vmWord (f : VM) (op : BitVec 8) : Word :=
  op ++ f.vd ++ f.xa ++ f.idx ++ f.msk ++ f.mz ++ f.wa ++ f.ord ++ BitVec.ofNat 5 f.et.code ++ f.disp
/-- The instruction word of a TT form. -/
def ttWord (f : TT) (op : BitVec 8) : Word := op ++ f.t ++ f.xa ++ f.xb ++ f.xc ++ f.mode ++ 0#12 ++ f.imm
/-- The instruction word of an FX form. -/
def fxWord (f : FX) (op : BitVec 8) : Word := op ++ f.slot ++ f.vd ++ f.va ++ f.vb ++ f.xl ++ f.msk ++ f.flags ++ f.imm
/-- The instruction word of an SY form. -/
def syWord (f : SY) (op : BitVec 8) (fn : BitVec 12) : Word := op ++ f.xd ++ f.xa ++ fn ++ f.imm

theorem SI.words_eq (f : SI) (op : BitVec 8) (fn : BitVec 4) :
    f.words op fn = extWords (f.ext.map (·.setWidth 56)) ++ [siWord f op fn] := rfl
theorem SM.words_eq (f : SM) (op : BitVec 8) : f.words op = extWords (f.ext.map (·.setWidth 56)) ++ [smWord f op] := rfl
theorem VM.words_eq (f : VM) (op : BitVec 8) : f.words op = extWords (f.ext.map (·.setWidth 56)) ++ [vmWord f op] := rfl
theorem TT.words_eq (f : TT) (op : BitVec 8) : f.words op = extWords (f.ext.map (·.setWidth 56)) ++ [ttWord f op] := rfl
theorem FX.words_eq (f : FX) (op : BitVec 8) : f.words op = extWords (f.ext.map (·.setWidth 56)) ++ [fxWord f op] := rfl
theorem SY.words_eq (f : SY) (op : BitVec 8) (fn : BitVec 12) :
    f.words op fn = extWords (f.ext.map (·.setWidth 56)) ++ [syWord f op fn] := rfl

/-! ### Codes (R48, R189, R196, R241) -/

@[simp] theorem CC.ofCode_code (c : CC) : CC.ofCode c.code = some c := by cases c <;> rfl
@[simp] theorem ET.ofCode_code (t : ET) : ET.ofCode t.code = some t := by cases t <;> rfl
@[simp] theorem FFmt.ofCode_code (t : FFmt) : FFmt.ofCode t.code = some t := by cases t <;> rfl
@[simp] theorem RedOp.ofCode_code (r : RedOp) : RedOp.ofCode r.code = some r := by cases r <;> rfl

theorem CC.code_lt (c : CC) : c.code < 10 := by cases c <;> decide
theorem ET.code_lt (t : ET) : t.code < 21 := by cases t <;> decide
theorem FFmt.code_lt (t : FFmt) : t.code < 4 := by cases t <;> decide
theorem RedOp.code_lt (r : RedOp) : r.code < 6 := by cases r <;> decide

theorem CC.code_of_ofCode {n : Nat} {c : CC} (h : CC.ofCode n = some c) : c.code = n := by
  unfold CC.ofCode at h
  split at h <;> cases h <;> rfl

theorem ET.code_of_ofCode {n : Nat} {t : ET} (h : ET.ofCode n = some t) : t.code = n := by
  unfold ET.ofCode at h
  split at h <;> cases h <;> rfl

theorem FFmt.code_of_ofCode {n : Nat} {t : FFmt} (h : FFmt.ofCode n = some t) : t.code = n := by
  unfold FFmt.ofCode at h
  split at h <;> cases h <;> rfl

theorem RedOp.code_of_ofCode {n : Nat} {r : RedOp} (h : RedOp.ofCode n = some r) : r.code = n := by
  unfold RedOp.ofCode at h
  split at h <;> cases h <;> rfl

/-! Codes fit the fields that hold them. -/

@[simp] theorem CC.code_mod_16 (c : CC) : c.code % 16 = c.code := Nat.mod_eq_of_lt ((CC.code_lt c).trans (by decide))
@[simp] theorem CC.code_mod_4096 (c : CC) : c.code % 4096 = c.code := Nat.mod_eq_of_lt ((CC.code_lt c).trans (by decide))
@[simp] theorem ET.code_mod_32 (t : ET) : t.code % 32 = t.code := Nat.mod_eq_of_lt ((ET.code_lt t).trans (by decide))

theorem ET.field_of_ofCode {x : BitVec 5} {t : ET} (h : ET.ofCode x.toNat = some t) : BitVec.ofNat 5 t.code = x := by
  rw [ET.code_of_ofCode h, BitVec.ofNat_toNat, BitVec.setWidth_eq]

/-! ### What a format writes, its reader finds (R186) -/

@[simp] theorem SA.fields_word (f : SA) (op : BitVec 8) (fn : BitVec 12) :
    SA.ofWord (f.word op fn) = f ∧ field (f.word op fn) 56 8 = op ∧ field (f.word op fn) 20 12 = fn ∧
      field (f.word op fn) 0 20 = 0#20 := by
  unfold SA.ofWord field Sys2Proof.SA.word
  simp (disch := decide) only [BitVec.extractLsb'_append_eq_of_le, BitVec.extractLsb'_append_eq_of_add_le,
    BitVec.extractLsb'_eq_self, Nat.reduceSub, and_self]

@[simp] theorem SB.fields_word (f : SB) (op : BitVec 8) (cond : BitVec 4) :
    SB.ofWord (f.word op cond) = f ∧ field (f.word op cond) 56 8 = op ∧ field (f.word op cond) 52 4 = cond := by
  unfold SB.ofWord field Sys2Proof.SB.word
  simp (disch := decide) only [BitVec.extractLsb'_append_eq_of_le, BitVec.extractLsb'_append_eq_of_add_le,
    BitVec.extractLsb'_eq_self, Nat.reduceSub, and_self]

@[simp] theorem VA.fields_word (f : VA) (op : BitVec 8) (fn : BitVec 12) :
    VA.ofWord (f.word op fn) f.et = f ∧ field (f.word op fn) 56 8 = op ∧ field (f.word op fn) 16 5 = BitVec.ofNat 5 f.et.code ∧
      field (f.word op fn) 4 12 = fn ∧ field (f.word op fn) 0 4 = 0#4 := by
  unfold VA.ofWord field Sys2Proof.VA.word
  simp (disch := decide) only [BitVec.extractLsb'_append_eq_of_le, BitVec.extractLsb'_append_eq_of_add_le,
    BitVec.extractLsb'_eq_self, Nat.reduceSub, and_self]

@[simp] theorem EN.fields_word (f : EN) (op : BitVec 8) : EN.ofWord (f.word op) = f ∧ field (f.word op) 56 8 = op := by
  unfold EN.ofWord field Sys2Proof.EN.word
  simp (disch := decide) only [BitVec.extractLsb'_append_eq_of_le, BitVec.extractLsb'_append_eq_of_add_le,
    BitVec.extractLsb'_eq_self, Nat.reduceSub, and_self]

@[simp] theorem SI.fields_word (f : SI) (op : BitVec 8) (fn : BitVec 4) :
    SI.ofWord (siWord f op fn) (f.ext.map (·.setWidth 56)) = f ∧ field (siWord f op fn) 56 8 = op ∧
      field (siWord f op fn) 40 4 = fn := by
  unfold SI.ofWord field siWord
  simp (disch := decide) only [BitVec.extractLsb'_append_eq_of_le, BitVec.extractLsb'_append_eq_of_add_le,
    BitVec.extractLsb'_eq_self, Nat.reduceSub, and_self, narrowed_widened]

@[simp] theorem SM.fields_word (f : SM) (op : BitVec 8) :
    SM.ofWord (smWord f op) (f.ext.map (·.setWidth 56)) = f ∧ field (smWord f op) 56 8 = op := by
  unfold SM.ofWord field smWord
  simp (disch := decide) only [BitVec.extractLsb'_append_eq_of_le, BitVec.extractLsb'_append_eq_of_add_le,
    BitVec.extractLsb'_eq_self, Nat.reduceSub, and_self, narrowed_widened]

@[simp] theorem VM.fields_word (f : VM) (op : BitVec 8) :
    VM.ofWord (vmWord f op) f.et (f.ext.map (·.setWidth 56)) = f ∧ field (vmWord f op) 56 8 = op ∧
      field (vmWord f op) 24 5 = BitVec.ofNat 5 f.et.code := by
  unfold VM.ofWord field vmWord
  simp (disch := decide) only [BitVec.extractLsb'_append_eq_of_le, BitVec.extractLsb'_append_eq_of_add_le,
    BitVec.extractLsb'_eq_self, Nat.reduceSub, and_self, narrowed_widened]

@[simp] theorem TT.fields_word (f : TT) (op : BitVec 8) :
    TT.ofWord (ttWord f op) (f.ext.map (·.setWidth 56)) = f ∧ field (ttWord f op) 56 8 = op ∧
      field (ttWord f op) 12 12 = 0#12 := by
  unfold TT.ofWord field ttWord
  simp (disch := decide) only [BitVec.extractLsb'_append_eq_of_le, BitVec.extractLsb'_append_eq_of_add_le,
    BitVec.extractLsb'_eq_self, Nat.reduceSub, and_self, narrowed_widened]

@[simp] theorem FX.fields_word (f : FX) (op : BitVec 8) :
    FX.ofWord (fxWord f op) (f.ext.map (·.setWidth 56)) = f ∧ field (fxWord f op) 56 8 = op := by
  unfold FX.ofWord field fxWord
  simp (disch := decide) only [BitVec.extractLsb'_append_eq_of_le, BitVec.extractLsb'_append_eq_of_add_le,
    BitVec.extractLsb'_eq_self, Nat.reduceSub, and_self, narrowed_widened]

@[simp] theorem SY.fields_word (f : SY) (op : BitVec 8) (fn : BitVec 12) :
    SY.ofWord (syWord f op fn) (f.ext.map (·.setWidth 56)) = f ∧ field (syWord f op fn) 56 8 = op ∧
      field (syWord f op fn) 32 12 = fn := by
  unfold SY.ofWord field syWord
  simp (disch := decide) only [BitVec.extractLsb'_append_eq_of_le, BitVec.extractLsb'_append_eq_of_add_le,
    BitVec.extractLsb'_eq_self, Nat.reduceSub, and_self, narrowed_widened]

/-! ### What a reader finds makes up the word (R186) -/

theorem SA.word_ofWord {w : Word} (h : field w 0 20 = 0#20) : (SA.ofWord w).word (field w 56 8) (field w 20 12) = w := by
  simp (disch := decide) only [SA.ofWord, Sys2Proof.SA.word, ← h, field,
    BitVec.extractLsb'_append_extractLsb'_eq_extractLsb', BitVec.extractLsb'_eq_self]

theorem SB.word_ofWord {w : Word} : (SB.ofWord w).word (field w 56 8) (field w 52 4) = w := by
  simp (disch := decide) only [SB.ofWord, Sys2Proof.SB.word, field,
    BitVec.extractLsb'_append_extractLsb'_eq_extractLsb', BitVec.extractLsb'_eq_self]

theorem VA.word_ofWord {w : Word} {t : ET} (h : field w 0 4 = 0#4) (ht : BitVec.ofNat 5 t.code = field w 16 5) :
    (VA.ofWord w t).word (field w 56 8) (field w 4 12) = w := by
  simp (disch := decide) only [VA.ofWord, Sys2Proof.VA.word, ← h, ht, field,
    BitVec.extractLsb'_append_extractLsb'_eq_extractLsb', BitVec.extractLsb'_eq_self]

theorem EN.word_ofWord {w : Word} : (EN.ofWord w).word (field w 56 8) = w := by
  simp (disch := decide) only [EN.ofWord, Sys2Proof.EN.word, field,
    BitVec.extractLsb'_append_extractLsb'_eq_extractLsb', BitVec.extractLsb'_eq_self]

theorem SI.word_ofWord {w : Word} {e : Option (BitVec 56)} : siWord (SI.ofWord w e) (field w 56 8) (field w 40 4) = w := by
  simp (disch := decide) only [SI.ofWord, siWord, field,
    BitVec.extractLsb'_append_extractLsb'_eq_extractLsb', BitVec.extractLsb'_eq_self]

theorem SM.word_ofWord {w : Word} {e : Option (BitVec 56)} : smWord (SM.ofWord w e) (field w 56 8) = w := by
  simp (disch := decide) only [SM.ofWord, smWord, field,
    BitVec.extractLsb'_append_extractLsb'_eq_extractLsb', BitVec.extractLsb'_eq_self]

theorem VM.word_ofWord {w : Word} {e : Option (BitVec 56)} {t : ET} (ht : BitVec.ofNat 5 t.code = field w 24 5) :
    vmWord (VM.ofWord w t e) (field w 56 8) = w := by
  simp (disch := decide) only [VM.ofWord, vmWord, ht, field,
    BitVec.extractLsb'_append_extractLsb'_eq_extractLsb', BitVec.extractLsb'_eq_self]

theorem TT.word_ofWord {w : Word} {e : Option (BitVec 56)} (h : field w 12 12 = 0#12) :
    ttWord (TT.ofWord w e) (field w 56 8) = w := by
  simp (disch := decide) only [TT.ofWord, ttWord, ← h, field,
    BitVec.extractLsb'_append_extractLsb'_eq_extractLsb', BitVec.extractLsb'_eq_self]

theorem FX.word_ofWord {w : Word} {e : Option (BitVec 56)} : fxWord (FX.ofWord w e) (field w 56 8) = w := by
  simp (disch := decide) only [FX.ofWord, fxWord, field,
    BitVec.extractLsb'_append_extractLsb'_eq_extractLsb', BitVec.extractLsb'_eq_self]

theorem SY.word_ofWord {w : Word} {e : Option (BitVec 56)} : syWord (SY.ofWord w e) (field w 56 8) (field w 32 12) = w := by
  simp (disch := decide) only [SY.ofWord, syWord, field,
    BitVec.extractLsb'_append_extractLsb'_eq_extractLsb', BitVec.extractLsb'_eq_self]

end Sys2Proof.Proofs
end

section
/-! When an instruction word decodes (O54). -/

namespace Sys2Proof.Proofs

/-! ### Decoding an instruction word (R195) -/

/-- The form that the word selects takes the extension before it and makes the instruction. -/
def Selects (w : Word) (e : Option (BitVec 56)) (i : Instr) : Prop :=
  ∃ form, formOf w = some form ∧ takes form.k e ∧ form.make e = some i

/-- A word other than UDF decodes when its major is assigned to instructions and what it selects is well formed. -/
theorem decodeWord_eq_ok_iff {w : Word} {e : Option (BitVec 56)} {i : Instr} (hudf : opOf w ≠ 0xFF) :
    decodeWord .b0 e w = .ok i ↔
      majorAssigned (opOf w) = true ∧ opOf w ≠ extOp ∧ Selects w e i ∧ i.wellFormed = true := by
  unfold decodeWord Selects
  simp only [beq_iff_eq, hudf, if_false, Bool.not_eq_true']
  by_cases ha : majorAssigned (opOf w) = true
  swap
  · simp [ha]
  rw [if_neg (by simp [ha])]
  by_cases hx : opOf w = extOp
  · simp [hx]
  rw [if_neg hx, if_neg (by simp)]
  cases formOf w with
  | none => simp
  | some form =>
    by_cases ht : takes form.k e
    swap
    · simp [ht, eq_true_of_ne_false (mt (takes_iff form.k e).1 ht)]
    simp only [(takes_iff form.k e).2 ht, Bool.false_eq_true, if_false]
    cases hm : form.make e with
    | none => simp [hm]
    | some j =>
      by_cases hj : j.wellFormed = true
      · simpa [ha, hx, ht, hm, hj] using fun h : j = i => h ▸ hj
      · have hj : j.wellFormed = false := by simpa using hj
        simpa [ha, hx, ht, hm, hj] using fun h : j = i => h ▸ hj
end Sys2Proof.Proofs
end

section
/-! What a form makes is encoded by the word that selects it (O54), format by format. -/

namespace Sys2Proof.Proofs

/-- What the form makes is encoded by the word, behind the extension that the form takes. -/
def Writes (form : Form) (w : Word) : Prop :=
  ∀ e i, takes form.k e → form.make e = some i → encode i = extWords e ++ [w]

theorem writes_plain {o : Option Instr} {w : Word} (h : ∀ i, o = some i → encode i = [w]) : Writes (.plain o) w := by
  intro e i he hm
  rw [takes_zero he]
  exact h i hm

/-- An entry of a list of sub-functions is encoded as its place in the list says. -/
theorem encode_of_getElem? {l : List Instr} {g : Nat → List Word} (hl : l.map encode = (List.range l.length).map g) {n : Nat}
    {i : Instr} (h : l[n]? = some i) : encode i = g n := by
  have hn : n < l.length := (List.getElem?_eq_some_iff.1 h).1
  have he : (l.map encode)[n]? = some (encode i) := by simp [h]
  rw [hl, List.getElem?_map, List.getElem?_range hn] at he
  exact (Option.some.inj he).symm

theorem writes_one {i : Instr} {form : Form} (h : some (Form.plain (some i)) = some form) {w : Word} (he : encode i = [w]) :
    Writes form w := by
  cases h
  exact writes_plain fun j hj => Option.some.inj hj ▸ he

theorem writes_pick {l : List Instr} {n : Nat} {form : Form} (h : pick l n = some form) {g : Nat → List Word}
    (hl : l.map encode = (List.range l.length).map g) {w : Word} (hg : g n = [w]) : Writes form w := by
  obtain ⟨i, hi, hform⟩ := Option.map_eq_some_iff.1 h
  exact writes_one (congrArg some hform) ((encode_of_getElem? hl hi).trans hg)

/-- A number is read back from a field that holds it. -/
theorem ofNat_of_eq_toNat {n m : Nat} {x : BitVec n} (h : m = x.toNat) : BitVec.ofNat n m = x := by
  rw [h, BitVec.ofNat_toNat, BitVec.setWidth_eq]

/-- The major opcode of a word stands in its highest byte (R185). -/
theorem ofNat_of_opOf {w : Word} {n : Nat} (h : opOf w = n) : BitVec.ofNat 8 n = field w 56 8 := ofNat_of_eq_toNat h.symm

/-- Bits a to a + n - 1 of a field. -/
theorem toNat_field_add {w : Word} {lo m a n : Nat} (h : a + n ≤ m) :
    (field w (lo + a) n).toNat = (field w lo m).toNat / 2 ^ a % 2 ^ n := by
  simp only [field, BitVec.extractLsb'_toNat, Nat.shiftRight_eq_div_pow]
  conv_rhs => rw [show m = a + (m - a) by omega, pow_add, Nat.mod_mul_right_div_self,
    Nat.mod_mod_of_dvd _ (pow_dvd_pow 2 (show n ≤ m - a by omega)), Nat.div_div_eq_div_mul, ← pow_add]

/-- A field inside a field. -/
theorem field_add {w : Word} {lo m a n : Nat} (h : a + n ≤ m) : field w (lo + a) n = (field w lo m).extractLsb' a n := by
  refine BitVec.eq_of_toNat_eq ?_
  rw [toNat_field_add h, BitVec.extractLsb'_toNat, Nat.shiftRight_eq_div_pow]

/-! ### Format SA -/

theorem saForm_writes {w : Word} {form : Form} (h : saForm (opOf w) w = some form) : Writes form w := by
  by_cases h0 : field w 0 20 = 0#20
  swap
  · have hnot : (field w 0 20 == 0) = false := by simpa using h0
    simp only [saForm, hnot, Bool.false_eq_true, if_false] at h
    obtain ⟨_, -, rfl⟩ := Option.map_eq_some_iff.1 h
    exact writes_plain fun i hi => by cases hi
  have hword {n m : Nat} (hop : opOf w = n) (hm : m = (field w 20 12).toNat) :
      [(SA.ofWord w).word (BitVec.ofNat 8 n) (BitVec.ofNat 12 m)] = [w] := by
    rw [ofNat_of_opOf hop, ofNat_of_eq_toNat hm, SA.word_ofWord h0]
  simp only [saForm, h0, BitVec.ofNat_eq_ofNat, beq_self_eq_true, if_true] at h
  generalize SA.ofWord w = f at h hword
  split at h
  next hop => exact writes_pick h (g := fun m => [f.word 0x00#8 (BitVec.ofNat 12 m)]) rfl (hword hop rfl)
  next hop => exact writes_pick h (g := fun m => [f.word 0x01#8 (BitVec.ofNat 12 m)]) rfl (hword hop rfl)
  next hop =>
    split at h
    next cc hcc => exact writes_one h (hword hop (CC.code_of_ofCode hcc))
    next =>
      obtain ⟨hsel, hform⟩ := Option.ite_none_right_eq_some.1 h
      exact writes_one hform (hword hop (beq_iff_eq.1 hsel).symm)
  next hop =>
    split_ifs at h
    · exact writes_pick h (g := fun m => [f.word 0x03#8 (BitVec.ofNat 12 m)]) rfl (hword hop rfl)
    · exact writes_pick h (g := fun m => [f.word 0x03#8 (BitVec.ofNat 12 (m + 0x18))]) rfl (hword hop (by omega))
    · exact writes_pick h (g := fun m => [f.word 0x03#8 (BitVec.ofNat 12 (m + 0x10))]) rfl (hword hop (by omega))
  next hop =>
    split at h
    next t ht =>
      have hc := FFmt.code_of_ofCode ht
      exact writes_pick h (g := fun m => [f.word 0x28#8 (BitVec.ofNat 12 (t.code * 256 + m))]) rfl (hword hop (by omega))
    next => cases h
  next hop =>
    split at h
    next t ht =>
      have hc := FFmt.code_of_ofCode ht
      simp only [beq_iff_eq] at h
      split_ifs at h with hmv hcl
      · exact writes_one h (hword hop hmv.symm)
      · exact writes_one h (hword hop (m := t.code * 256 + 16) (by omega))
      · exact writes_pick h (g := fun m => [f.word 0x29#8 (BitVec.ofNat 12 (t.code * 256 + m))]) rfl (hword hop (by omega))
    next => cases h
  next hop =>
    obtain ⟨hz, hform⟩ := Option.ite_none_right_eq_some.1 h
    cases hform
    refine writes_plain fun i hi => ?_
    split at hi
    next d s hd hs =>
      cases hi
      have hd := ET.code_of_ofCode hd
      have hs := ET.code_of_ofCode hs
      have hz := beq_iff_eq.1 hz
      exact hword hop (m := d.code * 32 + s.code) (by omega)
    next => cases hi
  next hop => exact writes_pick h (g := fun m => [f.word 0x40#8 (BitVec.ofNat 12 m)]) rfl (hword hop rfl)
  next hop => exact writes_pick h (g := fun m => [f.word 0x42#8 (BitVec.ofNat 12 m)]) rfl (hword hop rfl)
  next hop => exact writes_pick h (g := fun m => [f.word 0x43#8 (BitVec.ofNat 12 m)]) rfl (hword hop rfl)
  next => cases h

/-! ### Format SI -/

theorem SI.words_ofWord {w : Word} {e : Option (BitVec 56)} (he : takes 24 e) {n m : Nat} (hop : opOf w = n)
    (hm : m = (field w 40 4).toNat) : (SI.ofWord w e).words (BitVec.ofNat 8 n) (BitVec.ofNat 4 m) = extWords e ++ [w] := by
  rw [ofNat_of_opOf hop, ofNat_of_eq_toNat hm, SI.words_eq, SI.word_ofWord]
  exact congrArg (extWords · ++ [w]) (widened_narrowed he)

/-- A list of sub-functions of format SI, each encoded as its place says. -/
theorem siList_writes {w : Word} {form : Form} {n : Nat} (hop : opOf w = n) {l : SI → List Instr}
    (hl : ∀ f, (l f).map encode = (List.range (l f).length).map fun m => f.words (BitVec.ofNat 8 n) (BitVec.ofNat 4 m))
    (h : (if (field w 40 4).toNat < (l (SI.ofWord w none)).length then
      some { k := 24, make := fun e => (l (SI.ofWord w e))[(field w 40 4).toNat]? : Form } else none) = some form) :
    Writes form w := by
  obtain ⟨-, hform⟩ := Option.ite_none_right_eq_some.1 h
  cases hform
  exact fun e i he hi => (encode_of_getElem? (hl _) hi).trans (SI.words_ofWord he hop rfl)

theorem siForm_writes {w : Word} {form : Form} (h : siForm (opOf w) w = some form) : Writes form w := by
  simp only [siForm] at h
  split at h
  next hop => exact siList_writes (l := fun f => [.addi f, .andi f, .ori f, .xori f, .shli f, .shri f, .srai f]) hop (fun _ => rfl) h
  next hop => exact siList_writes (l := fun f => [.li f, .lix f]) hop (fun _ => rfl) h
  next hop =>
    split at h
    next cc hcc =>
      cases h
      intro e i he hi
      cases hi
      exact SI.words_ofWord he hop (CC.code_of_ofCode hcc)
    next => cases h
  next hop =>
    exact siList_writes (l := fun f => [.setcfg f, .setcfgEw f, .setcfgScope f, .setcfgSpace f, .setcfgRm f]) hop (fun _ => rfl) h
  next => cases h

/-! ### Format SB -/

theorem sbForm_writes {w : Word} {form : Form} (h : sbForm (opOf w) w = some form) : Writes form w := by
  have hword {n m : Nat} (hop : opOf w = n) (hm : m = (field w 52 4).toNat) :
      [(SB.ofWord w).word (BitVec.ofNat 8 n) (BitVec.ofNat 4 m)] = [w] := by
    rw [ofNat_of_opOf hop, ofNat_of_eq_toNat hm, SB.word_ofWord]
  have hloop {n : Nat} (hop : opOf w = n) (hc : (field w 52 4).toNat < 2) :
      [(SB.ofWord w).word (BitVec.ofNat 8 n) ((field w 52 1).setWidth 4)] = [w] := by
    have hk : (field w 52 1).toNat = (field w 52 4).toNat / 2 ^ 0 % 2 ^ 1 := toNat_field_add (a := 0) (by decide)
    rw [← BitVec.ofNat_toNat]
    exact hword hop (by omega)
  simp only [sbForm] at h
  split at h
  next hop =>
    obtain ⟨cc, hcc, rfl⟩ := Option.map_eq_some_iff.1 h
    exact writes_one rfl (hword hop (CC.code_of_ofCode hcc))
  next hop => exact writes_pick h (g := fun m => [(SB.ofWord w).word 0x21#8 (BitVec.ofNat 4 m)]) rfl (hword hop rfl)
  next hop => exact writes_pick h (g := fun m => [(SB.ofWord w).word 0x22#8 (BitVec.ofNat 4 m)]) rfl (hword hop rfl)
  next hop => exact writes_pick h (g := fun m => [(SB.ofWord w).word 0x23#8 (BitVec.ofNat 4 m)]) rfl (hword hop rfl)
  next hop =>
    obtain ⟨hc, hform⟩ := Option.ite_none_right_eq_some.1 h
    exact writes_one hform (hloop hop hc)
  next hop =>
    obtain ⟨hc, hform⟩ := Option.ite_none_right_eq_some.1 h
    exact writes_one hform (hloop hop hc)
  next => cases h

/-! ### Format SM -/

theorem SM.words_ofWord {w : Word} {e : Option (BitVec 56)} (he : takes 26 e) {n : Nat} (hop : opOf w = n) :
    (SM.ofWord w e).words (BitVec.ofNat 8 n) = extWords e ++ [w] := by
  rw [ofNat_of_opOf hop, SM.words_eq, SM.word_ofWord]
  exact congrArg (extWords · ++ [w]) (widened_narrowed he)

/-- A form of format SM with a whole immediate. -/
theorem smOne_writes {w : Word} {form : Form} {mk : SM → Instr} {n : Nat} (hop : opOf w = n)
    (h : some { k := 26, make := fun e => some (mk (SM.ofWord w e)) : Form } = some form)
    (hmk : ∀ f, encode (mk f) = f.words (BitVec.ofNat 8 n)) : Writes form w := by
  cases h
  intro e i he hi
  cases hi
  exact (hmk _).trans (SM.words_ofWord he hop)

theorem smForm_writes {w : Word} {form : Form} (h : smForm (opOf w) w = some form) : Writes form w := by
  have hword {n : Nat} (hop : opOf w = n) : (SM.ofWord w none).words (BitVec.ofNat 8 n) = [w] := SM.words_ofWord (takes_none _) hop
  simp only [smForm] at h
  split at h
  case h_3 hop =>
    exact writes_pick (Option.ite_none_right_eq_some.1 h).2 (g := fun _ => (SM.ofWord w none).words 0x32#8) rfl (hword hop)
  case h_5 hop =>
    exact writes_pick (Option.ite_none_left_eq_some.1 h).2 (g := fun _ => (SM.ofWord w none).words 0x34#8) rfl (hword hop)
  case h_7 hop => exact writes_pick h (g := fun _ => (SM.ofWord w none).words 0xA9#8) rfl (hword hop)
  case h_13 => cases h
  case h_1 hop | h_2 hop | h_4 hop => exact smOne_writes hop (Option.ite_none_right_eq_some.1 h).2 fun _ => rfl
  all_goals next hop => exact smOne_writes hop h fun _ => rfl

/-! ### Format VA -/

theorem vaList_writes {w : Word} {form : Form} {l : VA → List Instr} {n : Nat} {g : VA → Nat → List Word}
    (hl : ∀ f, (l f).map encode = (List.range (l f).length).map (g f))
    (hg : ∀ t, (VA.ofWord w t).word (field w 56 8) (field w 4 12) = w → g (VA.ofWord w t) n = [w])
    (h : (if n < (l (VA.ofWord w .i8)).length then
      some (Form.plain (match ET.ofCode (field w 16 5).toNat with
        | some t => if field w 0 4 == 0 then (l (VA.ofWord w t))[n]? else none
        | none => none)) else none) = some form) : Writes form w := by
  obtain ⟨-, hform⟩ := Option.ite_none_right_eq_some.1 h
  cases hform
  refine writes_plain fun i hi => ?_
  split at hi
  next t ht =>
    obtain ⟨h0, hi⟩ := Option.ite_none_right_eq_some.1 hi
    exact (encode_of_getElem? (hl _) hi).trans (hg t (VA.word_ofWord (beq_iff_eq.1 h0) (ET.field_of_ofCode ht)))
  next => cases hi

theorem vaForm_writes {w : Word} {form : Form} (h : vaForm (opOf w) w = some form) : Writes form w := by
  have hword {n m : Nat} (hop : opOf w = n) (hm : m = (field w 4 12).toNat) (t : ET)
      (ht : (VA.ofWord w t).word (field w 56 8) (field w 4 12) = w) :
      [(VA.ofWord w t).word (BitVec.ofNat 8 n) (BitVec.ofNat 12 m)] = [w] := by
    rw [ofNat_of_opOf hop, ofNat_of_eq_toNat hm, ht]
  simp only [vaForm] at h
  split at h
  next hop =>
    exact vaList_writes (l := fun f => [.vadd f, .vsub f, .vmul f, .vmulh f, .vdiv f, .vmin f, .vmax f])
      (g := fun f m => [f.word 0x50#8 (BitVec.ofNat 12 m)]) (fun _ => rfl) (hword hop rfl) h
  next hop =>
    exact vaList_writes (l := fun f => [.vfma f, .vfms f, .vfnma f]) (g := fun f m => [f.word 0x51#8 (BitVec.ofNat 12 m)])
      (fun _ => rfl) (hword hop rfl) h
  next hop =>
    exact vaList_writes (l := fun f => [.vabs f, .vneg f, .vnot f, .vsqrt f, .vrcp f, .vrsq f, .vclz f, .vpopc f])
      (g := fun f m => [f.word 0x52#8 (BitVec.ofNat 12 m)]) (fun _ => rfl) (hword hop rfl) h
  next hop =>
    exact vaList_writes (l := fun f => [.vand f, .vor f, .vxor f, .vshl f, .vshr f, .vsra f])
      (g := fun f m => [f.word 0x53#8 (BitVec.ofNat 12 m)]) (fun _ => rfl) (hword hop rfl) h
  next hop =>
    split at h
    next cc hcc =>
      exact vaList_writes (l := fun f => [.vcmpCc cc f]) (n := 0) (g := fun f _ => [f.word 0x54#8 (BitVec.ofNat 12 cc.code)])
        (fun _ => rfl) (hword hop (CC.code_of_ofCode hcc)) h
    next =>
      obtain ⟨hsel, hform⟩ := Option.ite_none_right_eq_some.1 h
      exact vaList_writes (l := fun f => [.vsel f]) (n := 0) (g := fun f _ => [f.word 0x54#8 0x10#12])
        (fun _ => rfl) (hword hop (beq_iff_eq.1 hsel).symm) hform
  next hop =>
    exact vaList_writes (l := fun f => [.vmov f, .vbcast f, .viota f, .vmvx f, .vmvs f])
      (g := fun f m => [f.word 0x55#8 (BitVec.ofNat 12 m)]) (fun _ => rfl) (hword hop rfl) h
  next hop =>
    exact vaList_writes (l := fun f => [.vexp2 f, .vlog2 f, .vsin f, .vcos f])
      (g := fun f m => [f.word 0x56#8 (BitVec.ofNat 12 m)]) (fun _ => rfl) (hword hop rfl) h
  next hop =>
    split at h
    next r hr =>
      have hc := RedOp.code_of_ofCode hr
      exact vaList_writes (l := fun f => [.vred r f, .vredx r f, .vscan r f])
        (g := fun f m => [f.word 0x57#8 (BitVec.ofNat 12 (m * 16 + r.code))]) (fun _ => rfl) (hword hop (by omega)) h
    next => cases h
  next hop =>
    exact vaList_writes (l := fun f => [.vslideUp f, .vslideDn f, .vperm f, .vpush f, .vtrans f])
      (g := fun f m => [f.word 0x58#8 (BitVec.ofNat 12 m)]) (fun _ => rfl) (hword hop rfl) h
  next hop =>
    exact vaList_writes (l := fun f => [.mand f, .mor f, .mxor f, .mnot f, .mpopc f, .mfirst f])
      (g := fun f m => [f.word 0x59#8 (BitVec.ofNat 12 m)]) (fun _ => rfl) (hword hop rfl) h
  next hop =>
    obtain ⟨hz, h⟩ := Option.ite_none_right_eq_some.1 h
    have hz := beq_iff_eq.1 hz
    split at h
    next src hsrc =>
      have hc := ET.code_of_ofCode hsrc
      exact vaList_writes
        (l := fun f => [.vcvt src f, .vcvtNarrow src f, .vcvtWiden src f, .vcvtF32E2m1 src f, .vscale src f])
        (g := fun f m => [f.word 0x5A#8 (BitVec.ofNat 12 (m * 256 + src.code))]) (fun _ => rfl) (hword hop (by omega)) h
    next =>
      obtain ⟨-, hform⟩ := Option.ite_none_right_eq_some.1 h
      cases hform
      exact writes_plain fun i hi => by cases hi
  next hop =>
    exact vaList_writes (l := fun f => [.vaddWac f, .vcvtWac f, .vcvtFwac f])
      (g := fun f m => [f.word 0x5B#8 (BitVec.ofNat 12 m)]) (fun _ => rfl) (hword hop rfl) h
  next hop =>
    exact vaList_writes (l := fun f => [.vmeta f]) (g := fun f m => [f.word 0x5C#8 (BitVec.ofNat 12 m)])
      (fun _ => rfl) (hword hop rfl) h
  next hop =>
    exact vaList_writes (l := fun f => [.vshuf f]) (g := fun f m => [f.word 0x5D#8 (BitVec.ofNat 12 m)])
      (fun _ => rfl) (hword hop rfl) h
  next hop =>
    exact vaList_writes (l := fun f => [.vtopk f]) (g := fun f m => [f.word 0xE8#8 (BitVec.ofNat 12 m)])
      (fun _ => rfl) (hword hop rfl) h
  next => cases h

/-! ### Format VM -/

theorem VM.words_ofWord {w : Word} {e : Option (BitVec 56)} (he : takes 32 e) {n : Nat} (hop : opOf w = n) {t : ET}
    (ht : ET.ofCode (field w 24 5).toNat = some t) : (VM.ofWord w t e).words (BitVec.ofNat 8 n) = extWords e ++ [w] := by
  rw [ofNat_of_opOf hop, VM.words_eq, VM.word_ofWord (ET.field_of_ofCode ht)]
  exact congrArg (extWords · ++ [w]) (widened_narrowed he)

theorem vmOne_writes {w : Word} {form : Form} {k : Nat} {mk : VM → Instr} {n : Nat} (hop : opOf w = n) (hk : k ≤ 32)
    (h : some { k := k, make := fun e => (ET.ofCode (field w 24 5).toNat).map fun t => mk (VM.ofWord w t e) : Form } = some form)
    (hmk : ∀ f, encode (mk f) = f.words (BitVec.ofNat 8 n)) : Writes form w := by
  cases h
  intro e i he hi
  obtain ⟨t, ht, rfl⟩ := Option.map_eq_some_iff.1 hi
  exact (hmk _).trans (VM.words_ofWord (he.mono hk) hop ht)

theorem vmForm_writes {w : Word} {form : Form} (h : vmForm (opOf w) w = some form) : Writes form w := by
  simp only [vmForm] at h
  split at h
  case h_8 hop => exact vmOne_writes hop (by decide) (Option.ite_none_right_eq_some.1 h).2 fun _ => rfl
  case h_11 => cases h
  all_goals next hop => exact vmOne_writes hop (by decide) h fun _ => rfl

/-! ### Format TT -/

theorem TT.words_ofWord {w : Word} {e : Option (BitVec 56)} (he : takes 44 e) {n : Nat} (hop : opOf w = n)
    (h0 : field w 12 12 = 0#12) : (TT.ofWord w e).words (BitVec.ofNat 8 n) = extWords e ++ [w] := by
  rw [ofNat_of_opOf hop, TT.words_eq, TT.word_ofWord h0]
  exact congrArg (extWords · ++ [w]) (widened_narrowed he)

theorem ttOne_writes {w : Word} {form : Form} {k : Nat} {mk : TT → Instr} {n : Nat} (hop : opOf w = n) (hk : k ≤ 44)
    (h : some { k := k, make := fun e => if field w 12 12 == 0 then some (mk (TT.ofWord w e)) else none : Form } = some form)
    (hmk : ∀ f, encode (mk f) = f.words (BitVec.ofNat 8 n)) : Writes form w := by
  cases h
  intro e i he hi
  obtain ⟨h0, hi⟩ := Option.ite_none_right_eq_some.1 hi
  cases hi
  exact (hmk _).trans (TT.words_ofWord (he.mono hk) hop (beq_iff_eq.1 h0))

/-- A major of format TT that holds two forms, told apart by a bit of their mode. -/
theorem ttTwo_writes {w : Word} {form : Form} {k : Nat} {mk mk' : TT → Instr} {n : Nat} (hop : opOf w = n) (hk : k ≤ 44) {b : Bool}
    (h : (if b then some { k := k, make := fun e => if field w 12 12 == 0 then some (mk (TT.ofWord w e)) else none : Form }
      else some { k := k, make := fun e => if field w 12 12 == 0 then some (mk' (TT.ofWord w e)) else none : Form }) = some form)
    (hmk : ∀ f, encode (mk f) = f.words (BitVec.ofNat 8 n)) (hmk' : ∀ f, encode (mk' f) = f.words (BitVec.ofNat 8 n)) :
    Writes form w := by
  cases b
  · exact ttOne_writes hop hk h hmk'
  · exact ttOne_writes hop hk h hmk

theorem ttForm_writes {w : Word} {form : Form} (h : ttForm (opOf w) w = some form) : Writes form w := by
  simp only [ttForm] at h
  split at h
  case h_1 hop | h_3 hop | h_4 hop | h_8 hop => exact ttTwo_writes hop (by decide) h (fun _ => rfl) fun _ => rfl
  case h_14 => cases h
  all_goals next hop => exact ttOne_writes hop (by decide) h fun _ => rfl

/-! ### Formats EN, FX and SY -/

theorem enForm_writes {w : Word} {form : Form} (h : enForm (opOf w) w = some form) : Writes form w := by
  have hword {n : Nat} (hop : opOf w = n) : [(EN.ofWord w).word (BitVec.ofNat 8 n)] = [w] := by
    rw [ofNat_of_opOf hop, EN.word_ofWord]
  simp only [enForm] at h
  split at h
  case h_16 hop | h_17 hop => split at h <;> exact writes_one h (hword hop)
  case h_21 => cases h
  all_goals next hop => exact writes_one h (hword hop)

theorem fx_writes {w : Word} (hop : opOf w = 0xC0) : Writes { k := 48, make := fun e => some (.fop (FX.ofWord w e)) } w := by
  intro e i he hi
  cases hi
  change (FX.ofWord w e).words (BitVec.ofNat 8 0xC0) = _
  rw [ofNat_of_opOf hop, FX.words_eq, FX.word_ofWord]
  exact congrArg (extWords · ++ [w]) (widened_narrowed he)

theorem SY.words_ofWord {w : Word} {e : Option (BitVec 56)} (he : takes 32 e) {n m : Nat} (hop : opOf w = n)
    (hm : m = (field w 32 12).toNat) : (SY.ofWord w e).words (BitVec.ofNat 8 n) (BitVec.ofNat 12 m) = extWords e ++ [w] := by
  rw [ofNat_of_opOf hop, ofNat_of_eq_toNat hm, SY.words_eq, SY.word_ofWord]
  exact congrArg (extWords · ++ [w]) (widened_narrowed he)

theorem syOne_writes {w : Word} {form : Form} {k : Nat} {mk : SY → Instr} {n m : Nat} (hop : opOf w = n)
    (hm : m = (field w 32 12).toNat) (hk : k ≤ 32)
    (h : some { k := k, make := fun e => some (mk (SY.ofWord w e)) : Form } = some form)
    (hmk : ∀ f, encode (mk f) = f.words (BitVec.ofNat 8 n) (BitVec.ofNat 12 m)) : Writes form w := by
  cases h
  intro e i he hi
  cases hi
  exact (hmk _).trans (SY.words_ofWord (he.mono hk) hop hm)

theorem syForm_writes {w : Word} {form : Form} (h : syForm (opOf w) w = some form) : Writes form w := by
  have hcsr : BitVec.ofNat 12 (field w 32 12).toNat = field w 32 12 := ofNat_of_eq_toNat rfl
  simp only [syForm] at h
  split at h
  case h_2 hop | h_3 hop | h_4 hop | h_5 hop => exact syOne_writes hop rfl (by decide) h fun f => by rw [hcsr]; rfl
  next hop =>
    split at h
    case h_7 => cases h
    all_goals next hm => exact syOne_writes hop hm.symm (by decide) h fun _ => rfl
  next hop =>
    obtain ⟨hm, hform⟩ := Option.ite_none_right_eq_some.1 h
    exact syOne_writes hop (beq_iff_eq.1 hm).symm (by decide) hform fun _ => rfl
  next hop =>
    split at h
    case h_4 => cases h
    all_goals next hm => exact syOne_writes hop hm.symm (by decide) h fun _ => rfl
  next hop =>
    obtain ⟨hm, h⟩ := Option.ite_none_right_eq_some.1 h
    have hm := (beq_iff_eq.1 hm).symm
    split at h
    case h_4 =>
      cases h
      exact fun e i he hi => by cases hi
    all_goals exact syOne_writes hop hm (by decide) h fun _ => rfl
  next => cases h

/-! ### Every form -/

/-- Where a form is selected, the word is the encoding of what the form makes. -/
theorem formOf_writes {w : Word} {form : Form} (h : formOf w = some form) : Writes form w := by
  simp only [formOf] at h
  split_ifs at h with hsa hsi hsb hsm hva hvm htt hen hfx
  · exact saForm_writes h
  · exact siForm_writes h
  · exact sbForm_writes h
  · exact smForm_writes h
  · exact vaForm_writes h
  · exact vmForm_writes h
  · exact ttForm_writes h
  · exact enForm_writes h
  · cases h
    exact fx_writes (beq_iff_eq.1 hfx)
  · exact syForm_writes h

theorem encode_of_selects {w : Word} {e : Option (BitVec 56)} {i : Instr} (h : Selects w e i) : encode i = extWords e ++ [w] := by
  obtain ⟨form, hform, ht, hm⟩ := h
  exact formOf_writes hform e i ht hm
end Sys2Proof.Proofs
end

section
/-! Every well-formed instruction decodes from its words (O54), format by format. -/

namespace Sys2Proof.Proofs

/-- The words of an instruction are an instruction word, alone or behind an extension word, that decodes to it. -/
def Decodes (i : Instr) : Prop := ∃ e w, encode i = extWords e ++ [w] ∧ decodeWord .b0 e w = .ok i

/-! ### The majors of each format (R193, R196) -/

def saMajors : List Nat := [0x00, 0x01, 0x02, 0x03, 0x28, 0x29, 0x2A, 0x40, 0x42, 0x43]
def siMajors : List Nat := [0x10, 0x11, 0x12, 0x41]
def sbMajors : List Nat := [0x20, 0x21, 0x22, 0x23, 0x24, 0x25]
def smMajors : List Nat := [0x30, 0x31, 0x32, 0x33, 0x34, 0xA8, 0xA9, 0xAA, 0xAB, 0xAC, 0xAD, 0xAE]
def vaMajors : List Nat := [0x50, 0x51, 0x52, 0x53, 0x54, 0x55, 0x56, 0x57, 0x58, 0x59, 0x5A, 0x5B, 0x5C, 0x5D, 0xE8]
def vmMajors : List Nat := [0x70, 0x71, 0x72, 0x73, 0x74, 0x75, 0x76, 0x77, 0x78, 0x79]
def ttMajors : List Nat := [0x80, 0x81, 0x82, 0x83, 0x84, 0x85, 0x86, 0x87, 0x88, 0x89, 0x8A, 0x8B, 0x8C]
def enMajors : List Nat :=
  [0x90, 0x91, 0x92, 0x93, 0x94, 0x98, 0x99, 0x9A, 0x9B, 0x9C, 0x9D, 0xA0, 0xA1, 0xA2, 0xA3, 0xA4, 0xA5, 0xB0, 0xB1, 0xB2]
def syMajors : List Nat := [0xE0, 0xE1, 0xE2, 0xE3, 0xE4, 0xE5, 0xE6, 0xE7]

/-- The major n is one of the format with forms F. -/
def MajorOf (F : Nat → Word → Option Form) (n : Nat) : Prop :=
  (majorAssigned n = true ∧ n ≠ extOp ∧ n ≠ 0xFF) ∧ ∀ w, opOf w = n → formOf w = F n w

theorem sa_major {n : Nat} (h : n ∈ saMajors) : MajorOf saForm n :=
  ⟨by revert n; decide, fun w ho => by rw [formOf, ho]; fin_cases h <;> rfl⟩

theorem si_major {n : Nat} (h : n ∈ siMajors) : MajorOf siForm n :=
  ⟨by revert n; decide, fun w ho => by rw [formOf, ho]; fin_cases h <;> rfl⟩

theorem sb_major {n : Nat} (h : n ∈ sbMajors) : MajorOf sbForm n :=
  ⟨by revert n; decide, fun w ho => by rw [formOf, ho]; fin_cases h <;> rfl⟩

theorem sm_major {n : Nat} (h : n ∈ smMajors) : MajorOf smForm n :=
  ⟨by revert n; decide, fun w ho => by rw [formOf, ho]; fin_cases h <;> rfl⟩

theorem va_major {n : Nat} (h : n ∈ vaMajors) : MajorOf vaForm n :=
  ⟨by revert n; decide, fun w ho => by rw [formOf, ho]; fin_cases h <;> rfl⟩

theorem vm_major {n : Nat} (h : n ∈ vmMajors) : MajorOf vmForm n :=
  ⟨by revert n; decide, fun w ho => by rw [formOf, ho]; fin_cases h <;> rfl⟩

theorem tt_major {n : Nat} (h : n ∈ ttMajors) : MajorOf ttForm n :=
  ⟨by revert n; decide, fun w ho => by rw [formOf, ho]; fin_cases h <;> rfl⟩

theorem en_major {n : Nat} (h : n ∈ enMajors) : MajorOf enForm n :=
  ⟨by revert n; decide, fun w ho => by rw [formOf, ho]; fin_cases h <;> rfl⟩

theorem sy_major {n : Nat} (h : n ∈ syMajors) : MajorOf syForm n :=
  ⟨by revert n; decide, fun w ho => by rw [formOf, ho]; fin_cases h <;> rfl⟩

/-- An instruction whose word its format's form makes again decodes from it. -/
theorem decodes_of_form {F : Nat → Word → Option Form} {i : Instr} {n : Nat} {e : Option (BitVec 56)} {w : Word} {form : Form}
    (hn : MajorOf F n) (ho : opOf w = n) (he : encode i = extWords e ++ [w]) (hf : F n w = some form) (ht : takes form.k e)
    (hm : form.make e = some i) (hw : i.wellFormed = true) : Decodes i := by
  obtain ⟨⟨ha, hx, hudf⟩, hform⟩ := hn
  subst ho
  exact ⟨e, w, he, (decodeWord_eq_ok_iff hudf).2 ⟨ha, hx, ⟨form, (hform w rfl).trans hf, ht, hm⟩, hw⟩⟩

/-- As `decodes_of_form`, where the form takes the extension that the instruction holds, or the instruction holds none. -/
theorem decodes_of_ext {F : Nat → Word → Option Form} {i : Instr} {n m k : Nat} {x : Option (BitVec m)} {w : Word}
    (hn : MajorOf F n) (ho : opOf w = n) (he : encode i = extWords (x.map (·.setWidth 56)) ++ [w]) (hm : m ≠ 0 ∧ m ≤ 56)
    (hk : k = m ∨ x = none) (hform : ∃ form, F n w = some form ∧ form.k = k ∧ form.make (x.map (·.setWidth 56)) = some i)
    (hw : i.wellFormed = true) : Decodes i := by
  obtain ⟨form, hf, rfl, hmake⟩ := hform
  refine decodes_of_form hn ho he hf ?_ hmake hw
  rcases hk with rfl | rfl
  · exact takes_widened hm x
  · exact takes_none _

/-! ### Format SA -/

theorem sa_decodes {i : Instr} {f : SA} {op : BitVec 8} {fn : BitVec 12} (he : encode i = [f.word op fn])
    (hop : op.toNat ∈ saMajors) (hform : saForm op.toNat (f.word op fn) = some (.plain (some i))) (hw : i.wellFormed = true) :
    Decodes i :=
  decodes_of_form (e := none) (sa_major hop) (Laws.SA.opOf_word f op fn) he hform (takes_none _) rfl hw

/-- A number below the size of its field is read back. -/
theorem toNat_code {n m : Nat} (h : m < 2 ^ n) : (BitVec.ofNat n m).toNat = m := by
  rw [BitVec.toNat_ofNat, Nat.mod_eq_of_lt h]

/-- The sub-function of the arithmetic of a scalar format: the format above, the operation below (R196). -/
theorem toNat_fp (t : FFmt) {m : Nat} (h : m < 256) : (BitVec.ofNat 12 (t.code * 256 + m)).toNat = t.code * 256 + m :=
  toNat_code (by have := FFmt.code_lt t; omega)

theorem saForm_arith {f : SA} {t : FFmt} {m : Nat} (h : m < 8) :
    saForm 0x28 (f.word 0x28#8 (BitVec.ofNat 12 (t.code * 256 + m))) =
      pick [.fadd t f, .fsub t f, .fmul t f, .ffma t f, .fdiv t f, .fsqrt t f, .fmin t f, .fmax t f] m := by
  have hq : (t.code * 256 + m) / 256 = t.code := by omega
  have hr : (t.code * 256 + m) % 256 = m := by omega
  simp only [saForm, SA.fields_word, toNat_fp t (by omega : m < 256), hq, hr, FFmt.ofCode_code, BitVec.ofNat_eq_ofNat,
    beq_self_eq_true, if_true]

theorem saForm_compare {f : SA} {t : FFmt} {m : Nat} (h : m < 4) :
    saForm 0x29 (f.word 0x29#8 (BitVec.ofNat 12 (t.code * 256 + m))) =
      pick [.fcmpEq t f, .fcmpLt t f, .fcmpLe t f, .fcmpUn t f] m := by
  have hq : (t.code * 256 + m) / 256 = t.code := by omega
  have hr : (t.code * 256 + m) % 256 = m := by omega
  have hmv : (t.code * 256 + m == 0x20) = false := by simp; omega
  have hcl : (m == 0x10) = false := by simp; omega
  simp only [saForm, SA.fields_word, toNat_fp t (by omega : m < 256), hq, hr, hmv, hcl, FFmt.ofCode_code, BitVec.ofNat_eq_ofNat,
    beq_self_eq_true, if_true, Bool.false_eq_true, if_false]

theorem saForm_class {f : SA} {t : FFmt} :
    saForm 0x29 (f.word 0x29#8 (BitVec.ofNat 12 (t.code * 256 + 16))) = some (.plain (some (.fclass t f))) := by
  have hq : (t.code * 256 + 16) / 256 = t.code := by omega
  have hr : (t.code * 256 + 16) % 256 = 16 := by omega
  have hmv : (t.code * 256 + 16 == 0x20) = false := by simp; omega
  simp only [saForm, SA.fields_word, toNat_fp t (by decide : 16 < 256), hq, hr, hmv, FFmt.ofCode_code, BitVec.ofNat_eq_ofNat,
    beq_self_eq_true, if_true, Bool.false_eq_true, if_false]

theorem saForm_convert {f : SA} {d s : ET} (h : d.code < 32) :
    saForm 0x2A (f.word 0x2A#8 (BitVec.ofNat 12 (d.code * 32 + s.code))) = some (.plain (some (.fcvt d s f))) := by
  have hs := ET.code_lt s
  have hn : (BitVec.ofNat 12 (d.code * 32 + s.code)).toNat = d.code * 32 + s.code := toNat_code (by omega)
  have hz : (d.code * 32 + s.code) / 1024 = 0 := by omega
  have hd : (d.code * 32 + s.code) / 32 % 32 = d.code := by omega
  have hr : (d.code * 32 + s.code) % 32 = s.code := by omega
  simp only [saForm, SA.fields_word, hn, hz, hd, hr, ET.ofCode_code, BitVec.ofNat_eq_ofNat, beq_self_eq_true, if_true]

/-! ### Formats SI and SB -/

theorem si_decodes {i : Instr} {f : SI} {op : BitVec 8} {fn : BitVec 4} (he : encode i = f.words op fn)
    (hop : op.toNat ∈ siMajors)
    (hform : ∃ form, siForm op.toNat (siWord f op fn) = some form ∧ form.k = 24 ∧ form.make (f.ext.map (·.setWidth 56)) = some i)
    (hw : i.wellFormed = true) : Decodes i :=
  decodes_of_ext (si_major hop) (congrArg BitVec.toNat (SI.fields_word f op fn).2.1) he (by decide) (.inl rfl) hform hw

theorem sb_decodes {i : Instr} {f : SB} {op : BitVec 8} {cond : BitVec 4} (he : encode i = [f.word op cond])
    (hop : op.toNat ∈ sbMajors) (hform : sbForm op.toNat (f.word op cond) = some (.plain (some i))) (hw : i.wellFormed = true) :
    Decodes i :=
  decodes_of_form (e := none) (sb_major hop) (Laws.SB.opOf_word f op cond) he hform (takes_none _) rfl hw

/-- The loop that a loop form counts stands in the lowest bit of its sub-function. -/
theorem SB.loop_word (f : SB) (op : BitVec 8) (k : BitVec 1) :
    field (f.word op (k.setWidth 4)) 52 1 = k ∧ (field (f.word op (k.setWidth 4)) 52 4).toNat < 2 := by
  have hc : (field (f.word op (k.setWidth 4)) 52 4).toNat = k.toNat := by
    rw [(SB.fields_word f op _).2.2, BitVec.toNat_setWidth_of_le (by decide)]
  refine ⟨BitVec.eq_of_toNat_eq ?_, hc ▸ k.isLt⟩
  rw [toNat_field_add (a := 0) (m := 4) (by decide), hc]
  have := k.isLt
  omega

/-! ### Format SM -/

/-- The word alone, read without its extension. -/
@[simp] theorem SM.ofWord_none (f : SM) (op : BitVec 8) : SM.ofWord (smWord f op) none = { f with ext := none } :=
  (SM.fields_word { f with ext := none } op).1

theorem sm_decodes {i : Instr} {f : SM} {op : BitVec 8} (he : encode i = f.words op)
    (hop : op.toNat ∈ smMajors) {k : Nat} (hk : k = 26 ∨ f.ext = none)
    (hform : ∃ form, smForm op.toNat (smWord f op) = some form ∧ form.k = k ∧ form.make (f.ext.map (·.setWidth 56)) = some i)
    (hw : i.wellFormed = true) : Decodes i :=
  decodes_of_ext (sm_major hop) (congrArg BitVec.toNat (SM.fields_word f op).2) he (by decide) hk hform hw

theorem SM.ok_iff (f : SM) (xb : Bool) (sizes ords : List Nat) : f.ok xb sizes ords = true ↔
    (xb = true ∨ f.xb = 0) ∧ f.size.toNat ∈ sizes ∧ f.ord.toNat ∈ ords ∧ f.scope.toNat ≤ 5 := by
  simp [SM.ok, and_assoc]

/-- A form whose immediate holds its operation takes no extension (R196). -/
theorem SM.opIs_iff (f : SM) (n : Nat) : f.opIs n = true ↔ f.imm.toNat = n ∧ f.ext = none := by simp [SM.opIs]

/-- The size codes of 4 and 8 bytes. -/
theorem SM.size_of_ok {f : SM} {xb : Bool} {ords : List Nat} (h : f.ok xb [2, 3] ords = true) :
    f.size = 2#3 ∨ f.size = 3#3 := by
  obtain ⟨-, hsize, -, -⟩ := (SM.ok_iff ..).1 h
  simpa [← BitVec.toNat_inj] using hsize

/-- The entry of a list of operations that the immediate names. -/
theorem smPick_decodes {f : SM} {op : BitVec 8} {n : Nat} {i : Instr} {l : SM → List Instr} (he : encode i = f.words op)
    (hop : op.toNat ∈ smMajors) (hform : smForm op.toNat (smWord f op) = pick (l { f with ext := none }) n)
    (hext : f.ext = none) (hi : (l f)[n]? = some i) (hw : i.wellFormed = true) : Decodes i := by
  have hf : { f with ext := none } = f := by rw [← hext]
  rw [hf, pick, hi] at hform
  exact sm_decodes he hop (.inr hext) ⟨_, hform, rfl, rfl⟩ hw

theorem amo_decodes {f : SM} {n : Nat} {i : Instr} (hok : (f.ok true [2, 3] [0, 1, 2, 3] && f.opIs n) = true)
    (he : encode i = f.words 0x32#8) (hw : i.wellFormed = true)
    (hi : [Instr.amoAdd f, .amoAnd f, .amoOr f, .amoXor f, .amoMin f, .amoMax f, .amoMinu f, .amoMaxu f, .amoSwap f, .amoIncb f][n]? =
      some i) : Decodes i := by
  obtain ⟨hf, hn⟩ := Bool.and_eq_true_iff.1 hok
  obtain ⟨himm, hext⟩ := (SM.opIs_iff f n).1 hn
  refine smPick_decodes (l := fun f => [.amoAdd f, .amoAnd f, .amoOr f, .amoXor f, .amoMin f, .amoMax f, .amoMinu f, .amoMaxu f,
    .amoSwap f, .amoIncb f]) he (by decide) ?_ hext hi hw
  have hs := SM.size_of_ok hf
  simp only [BitVec.toNat_ofNat, Nat.reducePow, Nat.reduceMod, smForm, SM.ofWord_none, BitVec.ofNat_eq_ofNat,
    Bool.or_eq_true, beq_iff_eq, hs, if_true, himm]

theorem deck_decodes {f : SM} {n : Nat} {i : Instr} (hok : (f.ok true [0] [0, 1, 2, 3] && f.opIs n) = true)
    (he : encode i = f.words 0xA9#8) (hw : i.wellFormed = true)
    (hi : [Instr.deckPush f, .deckPop f, .deckSteal f][n]? = some i) : Decodes i := by
  obtain ⟨himm, hext⟩ := (SM.opIs_iff f n).1 (Bool.and_eq_true_iff.1 hok).2
  refine smPick_decodes (l := fun f => [.deckPush f, .deckPop f, .deckSteal f]) he (by decide) ?_ hext hi hw
  simp only [BitVec.toNat_ofNat, Nat.reducePow, Nat.reduceMod, smForm, SM.ofWord_none, himm]

theorem fence_decodes {f : SM} {n : Nat} {i : Instr} (hok : f.fenceOk (n + 1) = true)
    (he : encode i = f.words 0x34#8) (hw : i.wellFormed = true)
    (hi : [Instr.fenceAcq f, .fenceRel f, .fenceFull f][n]? = some i) : Decodes i := by
  simp only [SM.fenceOk, Bool.and_eq_true, beq_iff_eq, Option.isNone_iff_eq_none] at hok
  obtain ⟨⟨⟨-, hext⟩, hord⟩, -⟩ := hok
  refine smPick_decodes (l := fun f => [.fenceAcq f, .fenceRel f, .fenceFull f]) he (by decide) ?_ hext hi hw
  have h0 : f.ord ≠ 0 := by rw [ne_eq, ← BitVec.toNat_inj, hord]; simp
  simp only [BitVec.toNat_ofNat, Nat.reducePow, Nat.reduceMod, smForm, SM.ofWord_none, beq_iff_eq, hord, h0, if_false,
    Nat.add_sub_cancel]

/-! ### Format VA -/

theorem va_decodes {i : Instr} {f : VA} {op : BitVec 8} {fn : BitVec 12} (he : encode i = [f.word op fn])
    (hop : op.toNat ∈ vaMajors) (hform : vaForm op.toNat (f.word op fn) = some (.plain (some i))) (hw : i.wellFormed = true) :
    Decodes i :=
  decodes_of_form (e := none) (va_major hop) (Laws.VA.opOf_word f op fn) he hform (takes_none _) rfl hw

/-- A conversion's sub-function: its kind above, its source type below (R196, R248). -/
theorem vaForm_convert {f : VA} {src : ET} {m : Nat} (h : m < 5) :
    vaForm 0x5A (f.word 0x5A#8 (BitVec.ofNat 12 (m * 256 + src.code))) =
      some (.plain [.vcvt src f, .vcvtNarrow src f, .vcvtWiden src f, .vcvtF32E2m1 src f, .vscale src f][m]?) := by
  have hs := ET.code_lt src
  have hn : (BitVec.ofNat 12 (m * 256 + src.code)).toNat = m * 256 + src.code := toNat_code (by omega)
  have hz : (m * 256 + src.code) / 32 % 8 = 0 := by omega
  have hq : (m * 256 + src.code) / 256 = m := by omega
  have hr : (m * 256 + src.code) % 32 = src.code := by omega
  simp [vaForm, hn, hz, hq, hr, h]

/-- A reduction's sub-function: its kind above, its operation below (R196, R241). -/
theorem vaForm_reduce {f : VA} {r : RedOp} {m : Nat} (h : m < 3) :
    vaForm 0x57 (f.word 0x57#8 (BitVec.ofNat 12 (m * 16 + r.code))) =
      some (.plain [.vred r f, .vredx r f, .vscan r f][m]?) := by
  have hs := RedOp.code_lt r
  have hn : (BitVec.ofNat 12 (m * 16 + r.code)).toNat = m * 16 + r.code := toNat_code (by omega)
  have hq : (m * 16 + r.code) / 16 = m := by omega
  have hr : (m * 16 + r.code) % 16 = r.code := by omega
  simp [vaForm, hn, hq, hr, h]

/-! ### Format VM -/

theorem vm_decodes {i : Instr} {f : VM} {op : BitVec 8} (he : encode i = f.words op)
    (hop : op.toNat ∈ vmMajors) {k : Nat} (hk : k = 32 ∨ f.ext = none)
    (hform : ∃ form, vmForm op.toNat (vmWord f op) = some form ∧ form.k = k ∧ form.make (f.ext.map (·.setWidth 56)) = some i)
    (hw : i.wellFormed = true) : Decodes i :=
  decodes_of_ext (vm_major hop) (congrArg BitVec.toNat (VM.fields_word f op).2.1) he (by decide) hk hform hw

theorem VM.ext_of_spillOk {f : VM} {ords : List Nat} (h : f.spillOk ords = true) : f.ext = none := by
  simp only [VM.spillOk, Bool.and_eq_true, Option.isNone_iff_eq_none] at h
  exact h.1.2

/-- The displacement of a VM word. -/
@[simp] theorem VM.disp_word (f : VM) (op : BitVec 8) : field (vmWord f op) 0 24 = f.disp :=
  congrArg VM.disp (VM.fields_word f op).1

/-! ### Format TT -/

theorem tt_decodes {i : Instr} {f : TT} {op : BitVec 8} (he : encode i = f.words op)
    (hop : op.toNat ∈ ttMajors) {k : Nat} (hk : k = 44 ∨ f.ext = none)
    (hform : ∃ form, ttForm op.toNat (ttWord f op) = some form ∧ form.k = k ∧ form.make (f.ext.map (·.setWidth 56)) = some i)
    (hw : i.wellFormed = true) : Decodes i :=
  decodes_of_ext (tt_major hop) (congrArg BitVec.toNat (TT.fields_word f op).2.1) he (by decide) hk hform hw

theorem TT.ext_of_ok {f : TT} {t xa xb xc mode : Bool} (h : f.ok t xa xb xc mode false = true) : f.ext = none := by
  simp only [TT.ok, Bool.and_eq_true, Bool.false_or, Option.isNone_iff_eq_none] at h
  exact h.2.2

theorem TT.mode_of_ok {f : TT} {t xa xb xc mode imm : Bool} (h : f.ok t xa xb xc mode imm = true) : mode = true := by
  simp only [TT.ok, Bool.and_eq_true] at h
  exact h.1.2

/-- The two low bits of the mode, which tell the forms of one major apart (R266). -/
@[simp] theorem TT.mode0_word (f : TT) (op : BitVec 8) : field (ttWord f op) 24 1 = f.mode.extractLsb' 0 1 :=
  (field_add (by decide)).trans (congrArg (fun g : TT => g.mode.extractLsb' 0 1) (TT.fields_word f op).1)

@[simp] theorem TT.mode1_word (f : TT) (op : BitVec 8) : field (ttWord f op) 25 1 = f.mode.extractLsb' 1 1 :=
  (field_add (lo := 24) (by decide)).trans (congrArg (fun g : TT => g.mode.extractLsb' 1 1) (TT.fields_word f op).1)

theorem mode1_of_le {m : BitVec 6} (h : m.toNat ≤ 1) : m.extractLsb' 1 1 = 0#1 := by
  revert m
  decide

theorem mode1_of_two_or_three {m : BitVec 6} (h : m.toNat = 2 ∨ m.toNat = 3) : m.extractLsb' 1 1 = 1#1 := by
  revert m
  decide

/-! ### Formats EN, FX and SY -/

theorem en_decodes {i : Instr} {f : EN} {op : BitVec 8} (he : encode i = [f.word op]) (hop : op.toNat ∈ enMajors)
    (hform : enForm op.toNat (f.word op) = some (.plain (some i))) (hw : i.wellFormed = true) : Decodes i :=
  decodes_of_form (e := none) (en_major hop) (Laws.EN.opOf_word f op) he hform (takes_none _) rfl hw

theorem EN.flags_of_ok {f : EN} {xd xa xb xc opA opB flags fn : Bool} (h : f.ok xd xa xb xc opA opB flags fn = true) :
    flags = true := by
  simp only [EN.ok, Bool.and_eq_true] at h
  exact h.1.2

/-- J, the lowest flag (R336). -/
@[simp] theorem EN.flag0_word (f : EN) (op : BitVec 8) : field (f.word op) 8 1 = f.flags.extractLsb' 0 1 :=
  (field_add (by decide)).trans (congrArg (fun g : EN => g.flags.extractLsb' 0 1) (EN.fields_word f op).1)

theorem fop_decodes {f : FX} (hw : (Instr.fop f).wellFormed = true) : Decodes (.fop f) := by
  have ho : opOf (fxWord f 0xC0#8) = 0xC0 := congrArg BitVec.toNat (FX.fields_word f _).2
  have hmajor : MajorOf (fun _ w => some { k := 48, make := fun e => some (.fop (FX.ofWord w e)) }) 0xC0 :=
    ⟨by decide, fun w ho => by simp [formOf, ho]⟩
  exact decodes_of_ext hmajor ho (FX.words_eq f 0xC0#8) (by decide) (.inl rfl) ⟨_, rfl, rfl, by simp⟩ hw

theorem sy_decodes {i : Instr} {f : SY} {op : BitVec 8} {fn : BitVec 12} (he : encode i = f.words op fn)
    (hop : op.toNat ∈ syMajors) {k : Nat} (hk : k = 32 ∨ f.ext = none)
    (hform : ∃ form, syForm op.toNat (syWord f op fn) = some form ∧ form.k = k ∧ form.make (f.ext.map (·.setWidth 56)) = some i)
    (hw : i.wellFormed = true) : Decodes i :=
  decodes_of_ext (sy_major hop) (congrArg BitVec.toNat (SY.fields_word f op fn).2.1) he (by decide) hk hform hw

theorem SY.ext_of_ok {f : SY} {xd xa : Bool} (h : f.ok xd xa false = true) : f.ext = none := by
  simp only [SY.ok, Bool.and_eq_true, Bool.false_or, Option.isNone_iff_eq_none] at h
  exact h.2.2

/-- An immediate without a sign: its low bits are those of the field, whatever the extension adds above. -/
theorem SY.value_mod (f : SY) : f.value.toNat % 2 ^ 32 = f.imm.toNat := by
  have h : f.value.extractLsb' 0 32 = f.imm := by
    unfold SY.value
    cases f.ext with
    | none =>
      rw [BitVec.signExtend_eq_append_of_le (by decide), BitVec.extractLsb'_cast]
      exact BitVec.extractLsb'_append_eq_right
    | some e => exact BitVec.extractLsb'_append_eq_right
  have ht := congrArg BitVec.toNat h
  rwa [BitVec.extractLsb'_toNat, Nat.shiftRight_zero] at ht

theorem SY.bits_word (f : SY) (op : BitVec 8) (fn : BitVec 12) : (field (syWord f op fn) 8 2).toNat = f.value.toNat / 256 % 4 := by
  have hm : field (syWord f op fn) 0 32 = f.imm := congrArg SY.imm (SY.fields_word f op fn).1
  rw [show (8 : Nat) = 0 + 8 from rfl, toNat_field_add (m := 32) (by decide), hm, ← SY.value_mod]
  omega

/-- The operation of KEYSEL stands in bits 9 to 6 of its immediate; the decoder looks at bits 9 and 8 (R365). -/
theorem keysel_decodes {f : SY} {n : Nat} {i : Instr}
    (hok : (f.ok true true true && decide (f.value.toNat < 1024) && f.value.toNat / 64 == 4 * n) = true)
    (he : encode i = f.words 0xE7#8 0x0#12) (hw : i.wellFormed = true)
    (hi : [Instr.keyselBind f, .keyselUnbind f, .keyselQry f][n]? = some i) : Decodes i := by
  simp only [Bool.and_eq_true, decide_eq_true_eq, beq_iff_eq] at hok
  have hn : (field (syWord f 0xE7#8 0x0#12) 8 2).toNat = n := by
    have hlt : n < 3 := (List.getElem?_eq_some_iff.1 hi).1
    rw [SY.bits_word]
    omega
  refine sy_decodes he (by decide) (k := 32) (.inl rfl) ?_ hw
  match n, hi with
  | 0, hi => simpa [syForm, hn] using hi
  | 1, hi => simpa [syForm, hn] using hi
  | 2, hi => simpa [syForm, hn] using hi

theorem udf_decodes (bits : BitVec 56) : Decodes (.udf bits) := by
  have ho : opOf (0xFF#8 ++ bits) = 0xFF := Laws.opOf_udf bits
  refine ⟨none, 0xFF#8 ++ bits, rfl, ?_⟩
  have hb : field (0xFF#8 ++ bits) 0 56 = bits := BitVec.extractLsb'_append_eq_right
  unfold decodeWord
  simp only [ho, hb, beq_self_eq_true, if_true]

/-! ### Every instruction -/

/-- Every instruction that has words decodes from them. -/
theorem decodes_of_wellFormed {i : Instr} (hw : i.wellFormed = true) (hne : encode i ≠ []) : Decodes i := by
  cases i with
  | add f | sub f | and f | or f | xor f | andn f | shl f | shr f | sra f | rotr f | min f | max f | minu f | maxu f | mul f | mulh f
  | mulhU f | mulhSu f | div f | divu f | rem f | remu f | sel f | clz f | ctz f | popc f | brev f | bfxU f | bfxS f | bfi f | sextB f
  | sextH f | sextW f | zextB f | zextH f | zextW f | fmv f | setshape f | vqlen f | settile f =>
    exact sa_decodes rfl (by decide) (by simp [saForm, pick, CC.ofCode, FFmt.ofCode]) hw
  | cmpCc cc f => exact sa_decodes rfl (by decide) (by simp [saForm]) hw
  | fadd t f | fsub t f | fmul t f | ffma t f | fdiv t f | fsqrt t f | fmin t f | fmax t f =>
    exact sa_decodes rfl (by decide) (saForm_arith (by decide)) hw
  | fcmpEq t f | fcmpLt t f | fcmpLe t f | fcmpUn t f => exact sa_decodes rfl (by decide) (saForm_compare (by decide)) hw
  | fclass t f => exact sa_decodes rfl (by decide) saForm_class hw
  | fcvt d s f => exact sa_decodes rfl (by decide) (saForm_convert ((ET.code_lt d).trans (by decide))) hw
  | addi f | andi f | ori f | xori f | shli f | shri f | srai f | li f | lix f | setcfg f | setcfgEw f | setcfgScope f
  | setcfgSpace f | setcfgRm f => exact si_decodes rfl (by decide) (by simp [siForm]) hw
  | cmpi cc f => exact si_decodes rfl (by decide) (by simp [siForm]) hw
  | brCc cc f => exact sb_decodes rfl (by decide) (by simp [sbForm]) hw
  | jmp f | jal f | jr f => exact sb_decodes rfl (by decide) (by simp [sbForm, pick]) hw
  | loop k f | loopi k f =>
    obtain ⟨hk, hc⟩ := SB.loop_word f _ k
    exact sb_decodes rfl (by decide) ((if_pos hc).trans (by rw [hk, (SB.fields_word ..).1])) hw
  | ld f =>
    obtain ⟨-, hs, -, -⟩ := (SM.ok_iff ..).1 hw
    have hs : f.size.toNat ≤ 6 := (by decide : ∀ n ∈ [0, 1, 2, 3, 4, 5, 6], n ≤ 6) _ hs
    exact sm_decodes rfl (by decide) (.inl rfl) (by simp [smForm, hs]) hw
  | st f =>
    obtain ⟨-, hs, -, -⟩ := (SM.ok_iff ..).1 hw
    have hs : f.size.toNat ≤ 3 := (by decide : ∀ n ∈ [0, 1, 2, 3], n ≤ 3) _ hs
    exact sm_decodes rfl (by decide) (.inl rfl) (by simp [smForm, hs]) hw
  | cas f => exact sm_decodes rfl (by decide) (.inl rfl) (by simp [smForm, SM.size_of_ok hw]) hw
  | amoAdd f | amoAnd f | amoOr f | amoXor f | amoMin f | amoMax f | amoMinu f | amoMaxu f | amoSwap f | amoIncb f =>
    exact amo_decodes hw rfl hw rfl
  | fenceAcq f | fenceRel f | fenceFull f => exact fence_decodes hw rfl hw rfl
  | deckPush f | deckPop f | deckSteal f => exact deck_decodes hw rfl hw rfl
  | claim f | claspInit f | claspArrive f | claspDrop f | claspWait f | waita f =>
    exact sm_decodes rfl (by decide) (.inl rfl) (by simp [smForm]) hw
  | vadd f | vsub f | vmul f | vmulh f | vdiv f | vmin f | vmax f | vfma f | vfms f | vfnma f | vand f | vor f | vxor f | vshl f
  | vshr f | vsra f | vabs f | vneg f | vnot f | vsqrt f | vrcp f | vrsq f | vclz f | vpopc f | vsel f | vmov f | vbcast f
  | viota f | vmvx f | vmvs f | vexp2 f | vlog2 f | vsin f | vcos f | vslideUp f | vslideDn f | vperm f | vpush f | vtrans f
  | vshuf f | mand f | mor f | mxor f | mnot f | mpopc f | mfirst f | vaddWac f | vcvtWac f | vcvtFwac f | vmeta f | vtopk f =>
    exact va_decodes rfl (by decide) (by simp [vaForm, CC.ofCode]) hw
  | vcmpCc cc f => exact va_decodes rfl (by decide) (by simp [vaForm]) hw
  | vred r f | vredx r f | vscan r f => exact va_decodes rfl (by decide) (vaForm_reduce (by decide)) hw
  | vcvt s f | vcvtNarrow s f | vcvtWiden s f | vcvtF32E2m1 s f | vscale s f =>
    exact va_decodes rfl (by decide) (vaForm_convert (by decide)) hw
  | vldUnit f | vldStrided f | vldx f | vstUnit f | vstStrided f | vstx f | vsadd f =>
    exact vm_decodes rfl (by decide) (.inl rfl) (by simp [vmForm]) hw
  | vamo f =>
    have hok : f.disp.toNat ≤ 9 ∧ f.ext = none := by
      obtain ⟨hrest, hext⟩ := Bool.and_eq_true_iff.1 hw
      exact ⟨of_decide_eq_true (Bool.and_eq_true_iff.1 hrest).2, Option.isNone_iff_eq_none.1 hext⟩
    exact vm_decodes (k := 0) rfl (by decide) (.inr hok.2) (by simp [vmForm, hok.1]) hw
  | vspill f | vfill f => exact vm_decodes (k := 0) rfl (by decide) (.inr (VM.ext_of_spillOk hw)) (by simp [vmForm]) hw
  | tfree f | thalo f | tinv f | tflush f | tprobe f =>
    exact tt_decodes (k := 0) rfl (by decide) (.inr (TT.ext_of_ok hw)) (by simp [ttForm]) hw
  | tld f | tst f | vpln f | tnbr f => exact tt_decodes rfl (by decide) (.inl rfl) (by simp [ttForm]) hw
  | talloc f =>
    have hm : f.mode.toNat ≤ 1 := of_decide_eq_true (TT.mode_of_ok hw)
    exact tt_decodes rfl (by decide) (.inl rfl) (by simp [ttForm, mode1_of_le hm]) hw
  | tallocFix f =>
    have hm : f.mode.toNat = 2 ∨ f.mode.toNat = 3 := by simpa using TT.mode_of_ok hw
    exact tt_decodes rfl (by decide) (.inl rfl) (by simp [ttForm, mode1_of_two_or_three hm]) hw
  | tstat f | tdesc f =>
    have hm : f.mode = 0 := beq_iff_eq.1 (TT.mode_of_ok hw)
    exact tt_decodes (k := 0) rfl (by decide) (.inr (TT.ext_of_ok hw)) (by simp [ttForm, hm]) hw
  | twait f =>
    have hm : f.mode = 0 ∨ f.mode = 2 := by simpa using TT.mode_of_ok hw
    exact tt_decodes (k := 0) rfl (by decide) (.inr (TT.ext_of_ok hw))
      (by rcases hm with hm | hm <;> simp [ttForm, hm]) hw
  | tstatH f | twaitH f | tdescRf f =>
    have hm : f.mode = 1 := beq_iff_eq.1 (TT.mode_of_ok hw)
    exact tt_decodes (k := 0) rfl (by decide) (.inr (TT.ext_of_ok hw)) (by simp [ttForm, hm]) hw
  | copy f | copyDec f | copyEnc f | cwait f | cstat f | mma f | mmaSp f | mmaCb f | cbld f | mwait f | mstat f | potOpen f | potJoin f
  | potSend f | potWait f | fbind f | funbind f | fqry f => exact en_decodes rfl (by decide) (by simp [enForm]) hw
  | potClose f | potStat f | potCloseJ f | potStatJ f =>
    have hf := beq_iff_eq.1 (EN.flags_of_ok hw)
    exact en_decodes rfl (by decide) (by simp [enForm, hf]) hw
  | fop f => exact fop_decodes hw
  | nop f | bkpt f | yield f | eret f | fetchb f =>
    exact sy_decodes (k := 0) rfl (by decide) (.inr (SY.ext_of_ok hw)) (by simp [syForm]) hw
  | csrrd csr f =>
    exact sy_decodes (k := 0) rfl (by decide) (.inr (SY.ext_of_ok (Bool.and_eq_true_iff.1 hw).2)) (by simp [syForm]) hw
  | trap f | done f | csrwr csr f | csrset csr f | csrclr csr f | enq f | dcwb f | icinv f =>
    exact sy_decodes rfl (by decide) (.inl rfl) (by simp [syForm]) hw
  | keyselBind f => exact keysel_decodes (n := 0) hw rfl hw rfl
  | keyselUnbind f => exact keysel_decodes (n := 1) hw rfl hw rfl
  | keyselQry f => exact keysel_decodes (n := 2) hw rfl hw rfl
  | udf bits => exact udf_decodes bits
  | _ => exact absurd rfl hne
end Sys2Proof.Proofs
end

section
/-! The round trip (O54), in bytes. -/

namespace Sys2Proof.Proofs

/-! ### Words in memory (R185) -/

@[simp] theorem bytesOf_length (n v : Nat) : (bytesOf n v).length = n := by
  induction n generalizing v with
  | zero => rfl
  | succ n ih => simp [bytesOf, ih]

theorem wordOfBytes_bytesOf (n v : Nat) : wordOfBytes (bytesOf n v) = v % 256 ^ n := by
  induction n generalizing v with
  | zero => simp [bytesOf, wordOfBytes, Nat.mod_one]
  | succ n ih =>
    rw [bytesOf, wordOfBytes, ih, BitVec.toNat_ofNat, pow_succ' 256 n, Nat.mod_mul]

@[simp] theorem ofNat_wordOfBytes (w : Word) : BitVec.ofNat 64 (wordOfBytes (bytesOf 8 w.toNat)) = w := by
  rw [wordOfBytes_bytesOf, show 256 ^ 8 = 2 ^ 64 by norm_num, Nat.mod_eq_of_lt w.isLt, BitVec.ofNat_toNat, BitVec.setWidth_eq]

/-! ### One word, or two -/

/-- The extension word: its opcode, and EXT56 below it (R190). -/
theorem extWord_fields (x : BitVec 56) : opOf (extWord x) = extOp ∧ field (extWord x) 0 56 = x :=
  ⟨congrArg BitVec.toNat (BitVec.extractLsb'_append_eq_left (a := 0xF0#8) (b := x)), BitVec.extractLsb'_append_eq_right⟩

/-- A word is its major opcode above the 56 bits that remain. -/
theorem opcode_append {w : Word} {n : Nat} (h : opOf w = n) : (BitVec.ofNat 8 n ++ field w 0 56 : Word) = w := by
  simp (disch := decide) only [ofNat_of_opOf h, field, BitVec.extractLsb'_append_extractLsb'_eq_extractLsb',
    BitVec.extractLsb'_eq_self]

theorem extWord_field {w : Word} (h : opOf w = extOp) : extWord (field w 0 56) = w := opcode_append h

theorem opOf_ne_extOp_of_decodeWord {e : Option (BitVec 56)} {w : Word} {i : Instr} (h : decodeWord .b0 e w = .ok i) :
    opOf w ≠ extOp := by
  by_cases hudf : opOf w = 0xFF
  · rw [hudf]
    decide
  · exact ((decodeWord_eq_ok_iff hudf).1 h).2.1

/-- The bytes of a word that decodes, behind those of its extension, decode alike, and leave what follows. -/
theorem decodeBytes_of_decodeWord {e : Option (BitVec 56)} {w : Word} {i : Instr} (h : decodeWord .b0 e w = .ok i)
    (rest : List Byte) :
    decodeBytes .b0 ((extWords e ++ [w]).flatMap (fun w => bytesOf 8 w.toNat) ++ rest) = .ok (i, rest) := by
  have hw : (opOf w == extOp) = false := beq_false_of_ne (opOf_ne_extOp_of_decodeWord h)
  cases e with
  | none =>
    simp [decodeBytes, extWords, decode, hw, h, Except.map]
  | some x =>
    obtain ⟨hx, hf⟩ := extWord_fields x
    simp [decodeBytes, extWords, decode, hx, hf, h, Except.map, List.drop_append]

/-- A word that decodes is the encoding of what it decodes to, behind its extension, and that is well formed. -/
theorem encode_of_decodeWord {e : Option (BitVec 56)} {w : Word} {i : Instr} (h : decodeWord .b0 e w = .ok i) :
    encode i = extWords e ++ [w] ∧ i.wellFormed = true := by
  by_cases hudf : opOf w = 0xFF
  · cases e with
    | some x => simp [decodeWord, hudf] at h
    | none =>
      have hi : Instr.udf (field w 0 56) = i := by simpa [decodeWord, hudf] using h
      subst hi
      exact ⟨congrArg (fun v => [v]) (opcode_append hudf), rfl⟩
  · obtain ⟨-, -, hsel, hw⟩ := (decodeWord_eq_ok_iff hudf).1 h
    exact ⟨encode_of_selects hsel, hw⟩

/-- Settles O54: the form that an instruction's word selects makes it again, and what a word's form makes has that word, format by
format. -/
theorem decodeEncodeRoundTrip : Obligations.DecodeEncodeRoundTrip := by
  refine ⟨fun i rest hw hne => ?_, fun w0 w1 i h => ?_⟩
  · obtain ⟨e, w, he, hd⟩ := decodes_of_wellFormed hw hne
    rw [he]
    exact decodeBytes_of_decodeWord hd rest
  · unfold decode at h
    by_cases hx : opOf w0 = extOp
    · rw [if_pos (beq_iff_eq.2 hx)] at h
      rw [if_pos hx]
      obtain ⟨he, hw⟩ := encode_of_decodeWord h
      exact ⟨by rw [he, extWords, Option.map_some, extWord_field hx]; rfl, hw⟩
    · rw [if_neg (by simpa using hx)] at h
      rw [if_neg hx]
      exact encode_of_decodeWord h

/-- Settles O53: the decoder evaluated on each word. -/
theorem decodeWords : Obligations.DecodeWords := by
  unfold Obligations.DecodeWords
  decide +kernel

end Sys2Proof.Proofs
end

section
/-! The step of a thread (O55): the second half of a fetched word, dirty at its home. -/

namespace Sys2Proof.Proofs
open Sys2Proof.Machine Sys2Proof.Claim

/-- A word of a reserved major. -/
def reservedWord : Word := toWord (0x04 * 2 ^ 56)

/-- As `straddling`, but what memory holds at the program counter is a word of a reserved major. -/
def straddlingReserved : State :=
  { straddling with ms := { straddling.ms with mem := straddling.ms.mem.write 0x6FFC 8 (0x04 * 2 ^ 56) } }

/-- The state after a look at the word that memory holds. -/
def straddlingReservedRead : State :=
  straddlingReserved.modSelf fun k =>
    { k with cache := { k.cache with icache := (0x6FFC / 8, reservedWord) :: k.cache.icache } }

theorem straddlingReserved_moves : threadMoves straddlingReserved := by
  dsimp only [threadMoves]
  decide +kernel

theorem straddlingReserved_fetches :
    fetches straddlingReserved straddlingReserved.self.pc reservedWord straddlingReservedRead := by
  refine ⟨mappedPage.hit straddlingReserved 0xFFC, straddlingReserved, ?_, .inr ⟨by decide +kernel, by decide +kernel,
    fun tag => ?_, by decide +kernel, by decide +kernel, by decide +kernel, ?_⟩⟩
  · exact resolveGlobal_tlb (by decide +kernel) rfl (by decide +kernel) (by decide +kernel) (by decide +kernel) (by decide +kernel)
      (by decide +kernel) rfl
  · have hh : straddlingReserved.ms.homes = [nopLine] := by decide +kernel
    have hl : lineOf (mappedPage.hit straddlingReserved 0xFFC).ga = 0x6F := by decide +kernel
    rw [MemSys.homeAt, hh, hl]
    rfl
  · have ha : (mappedPage.hit straddlingReserved 0xFFC).ga / 8 = 0x6FFC / 8 := by decide +kernel
    rw [ha, straddlingReservedRead]

/-- The fetch writes the second line back before it reads (R99, R126), so the thread meets a NOP and stays at USER. -/
theorem straddlingReserved_step : privAfter (step straddlingReserved) = some .user := by decide +kernel

/-- Refutes O55: a program counter that is no multiple of 8 lets the word straddle two lines; the second is written back from its
home before the fetch reads, so the thread meets a NOP where memory held a word of a reserved major, and takes no trap. -/
theorem not_stepRunsDecoded : ¬ Obligations.StepRunsDecoded := by
  intro h
  obtain ⟨hrun, -⟩ := h straddlingReserved
  obtain ⟨-, hrefused⟩ := hrun straddlingReserved_moves reservedWord straddlingReservedRead straddlingReserved_fetches
    (by decide +kernel)
  obtain ⟨hop, -⟩ := hrefused (by decide +kernel) 0
  have hstep := hop (by decide +kernel)
  have hsuper := privAfter_concluded_trapped (s := straddlingReserved) (u := straddlingReservedRead) (cause := 1) (v := reservedWord)
    (epc := straddlingReserved.self.pc) (by decide +kernel) (by decide +kernel)
  rw [← hstep, straddlingReserved_step] at hsuper
  cases hsuper

end Sys2Proof.Proofs
end

section
/-! The two-operand integer forms, the products and the divisions (O1, O2): what the model computes on numbers, as an
operation on words. -/

namespace Sys2Proof.Proofs
open Sys2Proof.Machine Sys2Proof.Claim

/-! ### How the forms end -/

section forms
variable {i : Instr} {s : State}

/-- The form xd := op xa xb. -/
theorem exec_sa2 {f : SA} {op : Word → Word → Word} {v : Word} (he : exec i s = finish 8 (sa2 f op) s)
    (hr : ready s [f.xa, f.xb, f.xd]) (hv : op (s.self.rd f.xa) (s.self.rd f.xb) = v) : exec i s = wrote s 8 f.xd v := by
  rw [he, ← hv]
  exact finish_wr (sa2_ok (hr _ (by simp)) (hr _ (by simp)) (hr _ (by simp)))

/-- The form xd := op xa. -/
theorem exec_sa1 {f : SA} {op : Word → Word} {v : Word} (he : exec i s = finish 8 (sa1 f op) s) (hr : ready s [f.xa, f.xd])
    (hv : op (s.self.rd f.xa) = v) : exec i s = wrote s 8 f.xd v := by
  rw [he, ← hv]
  exact finish_wr (sa1_ok (hr _ (by simp)) (hr _ (by simp)))

/-- The form xd := op xa xb xc. -/
theorem exec_sa3 {f : SA} {op : Word → Word → Word → Word} {v : Word} (he : exec i s = finish 8 (sa3 f op) s)
    (hr : ready s [f.xa, f.xb, f.xc, f.xd]) (hv : op (s.self.rd f.xa) (s.self.rd f.xb) (s.self.rd f.xc) = v) :
    exec i s = wrote s 8 f.xd v := by
  rw [he, ← hv]
  exact finish_wr (sa3_ok (hr _ (by simp)) (hr _ (by simp)) (hr _ (by simp)) (hr _ (by simp)))

/-- The form xd := op xa imm. -/
theorem exec_si1 {f : SI} {op : Word → Word → Word} {v : Word} (he : exec i s = finish (extSize f.ext) (si1 f op) s)
    (hr : ready s [f.xa, f.xd]) (hv : op (s.self.rd f.xa) f.value = v) : exec i s = wrote s (extSize f.ext) f.xd v := by
  rw [he, ← hv]
  exact finish_wr (si1_ok (hr _ (by simp)) (hr _ (by simp)))

end forms

/-! ### Minima, maxima and products (R210, R211) -/

/-- Between equal numbers either choice is the same. -/
theorem ite_le_eq_ite_lt {α β : Type} [LinearOrder β] {x y : β} {c d : α} (h : x = y → c = d) :
    (if x ≤ y then c else d) = if x < y then c else d := by
  rcases lt_trichotomy x y with hl | he | hg
  · rw [if_pos hl.le, if_pos hl]
  · rw [h he, ite_self, ite_self]
  · rw [if_neg hg.not_ge, if_neg hg.not_gt]

theorem sminW_eq (a b : Word) : sminW a b = if a.slt b then a else b := by
  simpa only [sminW, BitVec.slt_iff_toInt_lt] using ite_le_eq_ite_lt BitVec.toInt_inj.mp

theorem smaxW_eq (a b : Word) : smaxW a b = if a.slt b then b else a := by
  simpa only [smaxW, BitVec.slt_iff_toInt_lt] using ite_le_eq_ite_lt fun h => (BitVec.toInt_inj.mp h).symm

theorem uminW_eq (a b : Word) : uminW a b = if a.ult b then a else b := by
  simpa only [uminW, BitVec.ult_iff_lt, BitVec.lt_def] using ite_le_eq_ite_lt BitVec.toNat_inj.mp

theorem umaxW_eq (a b : Word) : umaxW a b = if a.ult b then b else a := by
  simpa only [umaxW, BitVec.ult_iff_lt, BitVec.lt_def] using ite_le_eq_ite_lt fun h => (BitVec.toNat_inj.mp h).symm

/-- The high half of a 128-bit number. -/
theorem highHalf_eq (v : Int) : highHalf v = (BitVec.ofInt 128 v).extractLsb' 64 64 := by
  apply BitVec.eq_of_toNat_eq
  simp only [highHalf, BitVec.toNat_ofInt, BitVec.extractLsb'_toNat, Nat.shiftRight_eq_div_pow]
  omega

/-- The high half of a product of two words, each widened with or without its sign. -/
theorem highHalf_mul (x y : Int) : highHalf (x * y) = (BitVec.ofInt 128 x * BitVec.ofInt 128 y).extractLsb' 64 64 := by
  rw [highHalf_eq, BitVec.ofInt_mul]

theorem ofInt_toNat (a : Word) (n : Nat) : BitVec.ofInt n a.toNat = a.setWidth n := by
  rw [BitVec.ofInt_natCast, BitVec.ofNat_toNat]

/-! ### Divisions (R212) -/

theorem sdivW_zero (a : Word) : sdivW a 0 = -1 := rfl
theorem sremW_zero (a : Word) : sremW a 0 = a := rfl
theorem udivW_zero (a : Word) : udivW a 0 = 0xFFFF_FFFF_FFFF_FFFF := rfl
theorem uremW_zero (a : Word) : uremW a 0 = a := rfl

theorem sdivW_eq (a : Word) {b : Word} (h : b ≠ 0) : sdivW a b = a.sdiv b := by
  rw [sdivW, if_neg h, ← BitVec.toInt_inj, BitVec.toInt_ofInt, BitVec.toInt_sdiv]

theorem sremW_eq (a : Word) {b : Word} (h : b ≠ 0) : sremW a b = a.srem b := by
  rw [sremW, if_neg h, ← BitVec.toInt_srem, BitVec.ofInt_toInt]

theorem udivW_eq (a : Word) {b : Word} (h : b ≠ 0) : udivW a b = a / b := by
  rw [udivW, if_neg h, BitVec.udiv_def]

theorem uremW_eq (a : Word) {b : Word} (h : b ≠ 0) : uremW a b = a % b := by
  rw [uremW, if_neg h, BitVec.umod_def]

section divisions
variable {i : Instr} {f : SA} {op : Word → Word → Word} {v : Word} {s : State}

theorem exec_saDiv (he : exec i s = finish 8 (saDiv (Instr.word i) f op) s) (hr : ready s [f.xa, f.xb, f.xd])
    (h0 : s.self.rd f.xb ≠ 0) (hv : op (s.self.rd f.xa) (s.self.rd f.xb) = v) : exec i s = wrote s 8 f.xd v := by
  rw [he, ← hv]
  exact finish_wr (saDiv_ok (hr _ (by simp)) (hr _ (by simp)) (hr _ (by simp)) h0)

theorem exec_saDiv_zero (he : exec i s = finish 8 (saDiv (Instr.word i) f op) s) (hr : ready s [f.xa, f.xb, f.xd])
    (h0 : s.self.rd f.xb = 0) (hen : (s.self.csrAt 0x110).getLsbD 0 = false) (hv : op (s.self.rd f.xa) 0 = v) :
    exec i s = .next (s.modSelf fun k => ((k.orFlags flagIDZ).wr f.xd v).retire 8) := by
  rw [he, ← hv, ← h0]
  exact finish_did (saDiv_zero (hr _ (by simp)) (hr _ (by simp)) (hr _ (by simp)) h0 hen)

theorem exec_saDiv_trap (he : exec i s = finish 8 (saDiv (Instr.word i) f op) s) (hr : ready s [f.xa, f.xb, f.xd])
    (h0 : s.self.rd f.xb = 0) (hen : (s.self.csrAt 0x110).getLsbD 0 = true) (hf : s.self.tf = false) :
    exec i s = trapped (s.modSelf (·.orFlags flagIDZ)) 0x0D (Instr.word i) s.self.pc := by
  have hf' : (s.modSelf (·.orFlags flagIDZ)).self.tf = false := by
    simpa [Core.tf, Core.tstatus, Core.orFlags] using hf
  rw [he, finish_trap (saDiv_trap (hr _ (by simp)) (hr _ (by simp)) (hr _ (by simp)) h0 hen) hf']
  rfl

end divisions

/-! ### The obligations -/

theorem integerTwoOperandForms : Sys2Proof.Claim.IntegerTwoOperandForms := by
  intro f s hr
  exact ⟨exec_sa2 rfl hr rfl, exec_sa2 rfl hr rfl, exec_sa2 rfl hr rfl, exec_sa2 rfl hr rfl, exec_sa2 rfl hr rfl,
    exec_sa2 rfl hr rfl, exec_sa2 rfl hr rfl, exec_sa2 rfl hr rfl, exec_sa2 rfl hr rfl, exec_sa2 rfl hr rfl,
    exec_sa2 rfl hr (sminW_eq _ _), exec_sa2 rfl hr (smaxW_eq _ _), exec_sa2 rfl hr (uminW_eq _ _),
    exec_sa2 rfl hr (umaxW_eq _ _)⟩

theorem integerProducts : Sys2Proof.Claim.IntegerProducts := by
  intro f s hr a b
  have hss : highHalf (a.toInt * b.toInt) = (a.signExtend 128 * b.signExtend 128).extractLsb' 64 64 := highHalf_mul _ _
  have huu : highHalf ((a.toNat * b.toNat : Nat) : Int) = (a.setWidth 128 * b.setWidth 128).extractLsb' 64 64 := by
    rw [Nat.cast_mul, highHalf_mul, ofInt_toNat, ofInt_toNat]
  have hsu : highHalf (a.toInt * b.toNat) = (a.signExtend 128 * b.setWidth 128).extractLsb' 64 64 := by
    rw [highHalf_mul, ofInt_toNat, BitVec.signExtend]
  exact ⟨exec_sa2 rfl hr rfl, exec_sa2 rfl hr hss, exec_sa2 rfl hr huu, exec_sa2 rfl hr hsu⟩

/-- Settles O1, form by form: each is one write of xd with the form's operation on the two words read. -/
theorem integerArithmetic : Obligations.IntegerArithmetic := ⟨integerTwoOperandForms, integerProducts⟩

/-- Settles O2, by the divisor and by IDZT.EN. -/
theorem integerDivision : Obligations.IntegerDivision := by
  intro f s hr a b byZero idivZero
  refine ⟨fun h0 => ?_, fun h0 hen => ?_, fun h0 hen hf => ?_⟩
  · exact ⟨exec_saDiv rfl hr h0 (sdivW_eq a h0), exec_saDiv rfl hr h0 (sremW_eq a h0), exec_saDiv rfl hr h0 (udivW_eq a h0),
      exec_saDiv rfl hr h0 (uremW_eq a h0)⟩
  · exact ⟨exec_saDiv_zero rfl hr h0 hen (sdivW_zero a), exec_saDiv_zero rfl hr h0 hen (sremW_zero a),
      exec_saDiv_zero rfl hr h0 hen (udivW_zero a), exec_saDiv_zero rfl hr h0 hen (uremW_zero a)⟩
  · exact ⟨exec_saDiv_trap rfl hr h0 hen hf, exec_saDiv_trap rfl hr h0 hen hf, exec_saDiv_trap rfl hr h0 hen hf,
      exec_saDiv_trap rfl hr h0 hen hf⟩

end Sys2Proof.Proofs
end

section
/-! Comparisons, selection and the immediate forms (O4). -/

namespace Sys2Proof.Proofs
open Sys2Proof.Machine Sys2Proof.Claim

/-- The conditions of R189, as the statements name them. -/
theorem ccHolds_eq_condition (cc : CC) (a b : Word) : ccHolds cc a b = condition cc a b := by
  have hs (x y : Word) : decide (x.toInt ≤ y.toInt) = !(y.slt x) := by simp [BitVec.slt, ← decide_not]
  have hu (x y : Word) : decide (x.toNat ≤ y.toNat) = !(y.ult x) := by simp [BitVec.ult, ← decide_not]
  cases cc with
  | eq | ne | lt | ltu | gt | gtu => rfl
  | ge | le => exact hs _ _
  | geu | leu => exact hu _ _

theorem bitWord_ccHolds (cc : CC) (a b : Word) : bitWord (ccHolds cc a b) = if condition cc a b then 1 else 0 := by
  rw [ccHolds_eq_condition, bitWord]

/-- Below 64 the amount of a shift is the whole word (R216). -/
theorem shamt_of_le {v : Word} (h : v.toNat ≤ 63) : shamt v = v.toNat := by
  rw [shamt, bits, BitVec.extractLsb'_toNat, Nat.shiftRight_zero, Nat.mod_eq_of_lt (by omega)]

/-- The low n bits of a word, as a mask gives them. -/
theorem zextW_eq_and {n : Nat} (hn : n < 64) (a : Word) : zextW n a = a &&& toWord (2 ^ n - 1) := by
  have hm : 2 ^ n - 1 < 2 ^ 64 := (Nat.sub_le _ _).trans_lt (Nat.pow_lt_pow_right (by decide) hn)
  apply BitVec.eq_of_toNat_eq
  rw [zextW, BitVec.toNat_setWidth, BitVec.toNat_setWidth, BitVec.toNat_and, BitVec.toNat_ofNat, Nat.mod_eq_of_lt hm,
    Nat.and_two_pow_sub_one_eq_mod]
  exact Nat.mod_eq_of_lt ((Nat.mod_le _ _).trans_lt a.isLt)

/-- LIX puts the immediate above the low 40 bits of xa (R217). -/
theorem append_low40 (v a : Word) : (v.setWidth 24 ++ a.setWidth 40 : BitVec 64) = (v <<< 40) ||| (a &&& 0xFF_FFFF_FFFF) := by
  rw [show (0xFF_FFFF_FFFF : Word) = toWord (2 ^ 40 - 1) from rfl, ← zextW_eq_and (by decide), zextW]
  apply BitVec.eq_of_getLsbD_eq
  intro i hi
  rw [BitVec.getLsbD_append, BitVec.getLsbD_or, BitVec.getLsbD_shiftLeft]
  simp only [BitVec.getLsbD_setWidth]
  by_cases h : i < 40
  · simp [h, hi]
  · simp [h, hi, show i - 40 < 24 by omega]

theorem compareAndSelect : Sys2Proof.Claim.CompareAndSelect := by
  intro cc f g s v
  refine ⟨fun hr => exec_sa2 rfl hr (bitWord_ccHolds cc _ _), fun hr => exec_sa3 rfl hr ?_,
    fun hr => exec_si1 rfl hr (bitWord_ccHolds cc _ _)⟩
  exact (ite_not ..).symm

theorem immediateForms : Sys2Proof.Claim.ImmediateForms := by
  intro f s hr a v n
  refine ⟨exec_si1 rfl hr rfl, exec_si1 rfl hr rfl, exec_si1 rfl hr rfl, exec_si1 rfl hr rfl, fun h => ?_, ?_,
    fun _ => exec_si1 rfl hr (append_low40 v a)⟩
  · have hv : shamt f.value = v.toNat := shamt_of_le h
    exact ⟨exec_si1 rfl hr (by rw [hv]), exec_si1 rfl hr (by rw [hv]), exec_si1 rfl hr (by rw [hv])⟩
  · exact finish_wr (writeX_ok (hr _ (by simp)))

/-- Settles O4, form by form. -/
theorem compareAndImmediateForms : Obligations.CompareAndImmediateForms := ⟨compareAndSelect, immediateForms⟩

end Sys2Proof.Proofs
end

section
/-! The unary bit forms and the bit fields (O3): each function of the model by the bits of its result. -/

namespace Sys2Proof.Proofs
open Sys2Proof.Machine Sys2Proof.Claim

/-! ### Counting and reversing (R214) -/

theorem trailingZeros_le (n v : Nat) : trailingZeros n v ≤ n := by
  induction n generalizing v with
  | zero => rfl
  | succ n ih =>
    have := ih (v / 2)
    rw [trailingZeros]
    split <;> omega

/-- Below the count every bit is clear. -/
theorem testBit_of_lt_trailingZeros {n v i : Nat} (h : i < trailingZeros n v) : v.testBit i = false := by
  induction n generalizing v i with
  | zero => exact absurd h (Nat.not_lt_zero i)
  | succ n ih =>
    rw [trailingZeros] at h
    split at h
    · exact absurd h (Nat.not_lt_zero i)
    next heven =>
      cases i with
      | zero => rw [Nat.testBit_zero, decide_eq_false heven]
      | succ i => rw [Nat.testBit_add_one, ih (by omega)]

/-- At the count stands a set bit, unless all of the number is clear. -/
theorem testBit_trailingZeros {n v : Nat} (h : trailingZeros n v < n) : v.testBit (trailingZeros n v) = true := by
  induction n generalizing v with
  | zero => exact absurd h (Nat.not_lt_zero _)
  | succ n ih =>
    rw [trailingZeros] at h ⊢
    split
    next hodd => rw [Nat.testBit_zero, decide_eq_true hodd]
    next heven =>
      rw [if_neg heven] at h
      rw [Nat.add_comm, Nat.testBit_add_one, ih (by omega)]

/-- The leading zeros of a number below 2^n: those above its logarithm. -/
theorem leadingZeros_of_ne_zero {n v : Nat} (h : v ≠ 0) : leadingZeros n v = n - 1 - Nat.log2 v := if_neg h

theorem leadingZeros_le (n v : Nat) : leadingZeros n v ≤ n := by
  unfold leadingZeros
  split <;> omega

theorem testBit_of_lt_leadingZeros {n v i : Nat} (h : i < leadingZeros n v) : v.testBit (n - 1 - i) = false := by
  by_cases h0 : v = 0
  · rw [h0, Nat.zero_testBit]
  · rw [leadingZeros_of_ne_zero h0] at h
    exact Nat.testBit_lt_two_pow ((Nat.log2_lt h0).mp (by omega))

theorem testBit_leadingZeros {n v : Nat} (hv : v < 2 ^ n) (h : leadingZeros n v < n) :
    v.testBit (n - 1 - leadingZeros n v) = true := by
  have h0 : v ≠ 0 := fun h0 => by simp [leadingZeros, h0] at h
  have hlog := (Nat.log2_lt h0).mpr hv
  rw [leadingZeros_of_ne_zero h0, show n - 1 - (n - 1 - v.log2) = v.log2 by omega, Nat.testBit_log2 h0]

theorem popCount_eq_countP (n v : Nat) : popCount n v = (List.range n).countP v.testBit := by
  induction n generalizing v with
  | zero => rfl
  | succ n ih =>
    have hshift : v.testBit ∘ Nat.succ = (v / 2).testBit := funext fun i => Nat.testBit_add_one v i
    rw [popCount, ih, List.range_succ_eq_map, List.countP_cons, List.countP_map, hshift, Nat.testBit_zero]
    rcases Nat.mod_two_eq_zero_or_one v with h | h <;> simp [h, Nat.add_comm]

theorem reverseBits_lt (n v : Nat) : reverseBits n v < 2 ^ n := by
  induction n generalizing v with
  | zero => exact Nat.one_pos
  | succ n ih =>
    have hrest := ih (v / 2)
    have hbit : v % 2 * 2 ^ n ≤ 1 * 2 ^ n := Nat.mul_le_mul_right _ (by omega)
    rw [reverseBits, Nat.pow_succ]
    omega

theorem testBit_reverseBits {n i : Nat} (v : Nat) (hi : i < n) : (reverseBits n v).testBit (n - 1 - i) = v.testBit i := by
  induction n generalizing v i with
  | zero => exact absurd hi (Nat.not_lt_zero i)
  | succ n ih =>
    rw [reverseBits, Nat.mul_comm, Nat.testBit_two_pow_mul_add _ (reverseBits_lt n _)]
    cases i with
    | zero =>
      rw [if_neg (by omega), Nat.sub_zero, Nat.add_sub_cancel, Nat.sub_self, Nat.testBit_zero, Nat.testBit_zero, Nat.mod_mod]
    | succ i =>
      rw [if_pos (by omega), Nat.testBit_add_one, ← ih (v / 2) (by omega), show n + 1 - 1 - (i + 1) = n - 1 - i by omega]

/-! ### Extensions (R214) -/

theorem sextW_eq_extract {n : Nat} (hn : n ≤ 64) (a : Word) : sextW n a = (a.extractLsb' 0 n).signExtend 64 := by
  rw [sextW, BitVec.setWidth_eq_extractLsb' hn]

theorem bitOperations : Sys2Proof.Claim.BitOperations := by
  intro f s hr a
  refine ⟨⟨leadingZeros 64 a.toNat, leadingZeros_le _ _, fun i hi => ?_, fun h => ?_, exec_sa1 rfl hr rfl⟩,
    ⟨trailingZeros 64 a.toNat, trailingZeros_le _ _, fun i hi => ?_, fun h => ?_, exec_sa1 rfl hr rfl⟩,
    exec_sa1 rfl hr (congrArg toWord (popCount_eq_countP 64 a.toNat)),
    ⟨toWord (reverseBits 64 a.toNat), fun i hi => ?_, exec_sa1 rfl hr rfl⟩,
    exec_sa1 rfl hr (sextW_eq_extract (by decide) a), exec_sa1 rfl hr (sextW_eq_extract (by decide) a),
    exec_sa1 rfl hr (sextW_eq_extract (by decide) a), exec_sa1 rfl hr (zextW_eq_and (by decide) a),
    exec_sa1 rfl hr (zextW_eq_and (by decide) a), exec_sa1 rfl hr (zextW_eq_and (by decide) a)⟩
  · exact testBit_of_lt_leadingZeros hi
  · exact testBit_leadingZeros a.isLt h
  · exact testBit_of_lt_trailingZeros hi
  · exact testBit_trailingZeros h
  · rw [BitVec.getLsbD_ofNat, decide_eq_true (by omega), Bool.true_and]
    exact testBit_reverseBits a.toNat hi

/-! ### Bit fields (R215) -/

/-- A field of a word, zero-extended, bit by bit. -/
theorem getLsbD_field (a : Word) (o w : Nat) {i : Nat} (hi : i < 64) :
    (toWord (a.toNat / 2 ^ o % 2 ^ w)).getLsbD i = (decide (i < w) && a.getLsbD (o + i)) := by
  rw [BitVec.getLsbD_ofNat, decide_eq_true hi, Bool.true_and, Nat.testBit_mod_two_pow, Nat.testBit_div_two_pow, Nat.add_comm i o,
    BitVec.testBit_toNat]

/-- The signed value of a number's low bits is that of the word of this width. -/
theorem signed_eq_toInt (w v : Nat) : signed w v = (BitVec.ofNat w v).toInt := by
  rw [BitVec.toInt_eq_toNat_cond, BitVec.toNat_ofNat, signed]
  norm_cast

/-- A field of a word, sign-extended, bit by bit. -/
theorem getLsbD_signedField (a : Word) (o : Nat) {w i : Nat} (hw : 0 < w) (hi : i < 64) :
    (BitVec.ofInt 64 (signed w (a.toNat / 2 ^ o % 2 ^ w))).getLsbD i = a.getLsbD (o + min i (w - 1)) := by
  have hbit : ∀ j < w, (BitVec.ofNat w (a.toNat / 2 ^ o % 2 ^ w)).getLsbD j = a.getLsbD (o + j) := fun j hj => by
    rw [BitVec.getLsbD_ofNat, Nat.testBit_mod_two_pow, decide_eq_true hj, Bool.true_and, Bool.true_and, Nat.testBit_div_two_pow,
      Nat.add_comm j o, BitVec.testBit_toNat]
  rw [signed_eq_toInt, ← BitVec.signExtend, BitVec.getLsbD_signExtend, decide_eq_true hi, Bool.true_and, BitVec.msb_eq_getLsbD_last]
  split
  next h => rw [hbit i h, Nat.min_eq_left (by omega)]
  next h => rw [hbit (w - 1) (by omega), Nat.min_eq_right (by omega)]

/-- A word with a field replaced, bit by bit. -/
theorem getLsbD_setBits (d : Word) {o w : Nat} (v : Nat) (hw : w ≤ 64) {i : Nat} (hi : i < 64) :
    (setBits d o w v).getLsbD i = if o ≤ i ∧ i < o + w then v.testBit (i - o) else d.getLsbD i := by
  have hmask : (((BitVec.allOnes w).setWidth 64 : Word) <<< o).getLsbD i = decide (o ≤ i ∧ i < o + w) := by
    rw [BitVec.getLsbD_shiftLeft, BitVec.getLsbD_setWidth, BitVec.getLsbD_allOnes]
    by_cases h : o ≤ i
    · simp [hi, h, show i - o < 64 by omega, show (i - o < w ↔ i < o + w) by omega]
    · simp [h, Nat.lt_of_not_le h]
  simp only [setBits, BitVec.getLsbD_or, BitVec.getLsbD_and, BitVec.getLsbD_not, hmask, BitVec.getLsbD_shiftLeft,
    BitVec.getLsbD_ofNat]
  split
  next h => simp [h, hi, show ¬i < o by omega, show i - o < 64 by omega]
  next h => simp [h, hi]

/-- The field that an offset and a width name, on their numbers. -/
theorem bitField_eq (off wid : Word) : bitField off wid =
    if wid.toNat = 0 ∨ 64 ≤ off.toNat then none else some (off.toNat, min wid.toNat (64 - off.toNat)) := by
  simp [bitField, ← BitVec.toNat_inj]

/-- BFI also reads xd. -/
theorem exec_bfi {f : SA} {s : State} {v : Word} (hr : ready s [f.xa, f.xb, f.xc, f.xd])
    (hv : bfInsert (s.self.rd f.xd) (s.self.rd f.xa) (s.self.rd f.xb) (s.self.rd f.xc) = v) :
    exec (.bfi f) s = wrote s 8 f.xd v := by
  have hd : readX f.xd s = .ok (s.self.rd f.xd) s := readX_ok (hr _ (by simp))
  refine (finish_wr ?_ : exec (.bfi f) s = _)
  rw [X.bind_apply, hd, ← hv]
  exact sa3_ok (hr _ (by simp)) (hr _ (by simp)) (hr _ (by simp)) (hr _ (by simp))

theorem bitFieldForms : Sys2Proof.Claim.BitFieldForms := by
  intro f s hr a d off wid w
  split
  next h =>
    have hnone : bitField (s.self.rd f.xb) (s.self.rd f.xc) = none := (bitField_eq _ _).trans (if_pos h)
    exact ⟨exec_sa3 rfl hr (by rw [bfx, hnone]), exec_sa3 rfl hr (by rw [bfx, hnone]), exec_bfi hr (by rw [bfInsert, hnone])⟩
  next h =>
    have hsome : bitField (s.self.rd f.xb) (s.self.rd f.xc) = some (off, w) := (bitField_eq _ _).trans (if_neg h)
    obtain ⟨hpos, hw⟩ : 0 < w ∧ w ≤ 64 := by omega
    exact ⟨_, _, _, fun i hi => getLsbD_field a off w hi, exec_sa3 rfl hr (by rw [bfx, hsome]; rfl),
      fun i hi => getLsbD_signedField a off hpos hi, exec_sa3 rfl hr (by rw [bfx, hsome]; rfl),
      fun i hi => getLsbD_setBits d a.toNat hw hi, exec_bfi hr (by rw [bfInsert, hsome])⟩

/-- Settles O3, form by form, from the bits of each result. -/
theorem bitForms : Obligations.BitForms := ⟨bitOperations, bitFieldForms⟩

end Sys2Proof.Proofs
end

section
/-! The scalar floating-point instructions (O5, O6): what each delivers and which flags it raises; how it ends is `fpDone`'s. -/

namespace Sys2Proof.Proofs
open Sys2Proof.Machine Sys2Proof.Claim

/-! ### How a form ends (R218, R358) -/

/-- An instruction that comes to its last part with a result and flags ends as R218 and R358 say. -/
theorem fpEnds_of_fpDone {i : Instr} {s : State} {m : X Unit} {xd : BitVec 6} {v : Word} {fl : Flags}
    (he : exec i s = finish 8 m s) (hd : s.self.empty xd = false) (hm : m s = fpDone xd (v, fl) s) : fpEnds s i xd v fl := by
  refine ⟨fun ht => he.trans (finish_did (f := fun k => (k.orFlags fl).wr xd v) ?_),
    fun ht hf => he.trans (finish_trapped ?_ hf rfl)⟩
  · rw [hm, fpDone_ok (r := (v, fl)) hd ht]
  · rw [hm, fpDone_trap (r := (v, fl)) hd ht]
    rfl

section forms
variable {i : Instr} {fmt : FFmt} {f : SA} {s : State}

/-- The form of two operands. -/
theorem fpEnds_fp2 {op : FpFmt → BitVec 2 → Nat → Nat → Nat × Flags} {r : Nat × Flags}
    (he : exec i s = finish 8 (fp2 fmt f op) s) (ha : s.self.empty f.xa = false) (hb : s.self.empty f.xb = false)
    (hd : s.self.empty f.xd = false)
    (hr : op (FFmtfmt fmt) s.self.frm (fmtBits fmt (s.self.rd f.xa)) (fmtBits fmt (s.self.rd f.xb)) = r) :
    fpEnds s i f.xd (toWord r.1) r.2 := by
  subst hr
  exact fpEnds_of_fpDone he hd (fp2_apply ha hb)

theorem fpEnds_ffma (ha : s.self.empty f.xa = false) (hb : s.self.empty f.xb = false) (hc : s.self.empty f.xc = false)
    (hd : s.self.empty f.xd = false) :
    let r := (FFmtfmt fmt).fma s.self.frm false false (fmtBits fmt (s.self.rd f.xa)) (fmtBits fmt (s.self.rd f.xb))
      (fmtBits fmt (s.self.rd f.xc))
    fpEnds s (.ffma fmt f) f.xd (toWord r.1) r.2 := by
  refine fpEnds_of_fpDone rfl hd ?_
  simp only [X.bind_apply, readX_ok ha, readX_ok hb, readX_ok hc, X.self_apply]

theorem fpEnds_fsqrt (ha : s.self.empty f.xa = false) (hd : s.self.empty f.xd = false) :
    let r := (FFmtfmt fmt).sqrt s.self.frm (fmtBits fmt (s.self.rd f.xa))
    fpEnds s (.fsqrt fmt f) f.xd (toWord r.1) r.2 := by
  refine fpEnds_of_fpDone rfl hd ?_
  simp only [X.bind_apply, readX_ok ha, X.self_apply]

end forms

/-- Settles O5, form by form: the arithmetic is the model's by definition, and each form ends through `fpDone`. -/
theorem scalarFloatArithmetic : Obligations.ScalarFloatArithmetic := by
  intro fmt f s hr
  have ha : s.self.empty f.xa = false := hr _ (by simp)
  have hb : s.self.empty f.xb = false := hr _ (by simp)
  have hc : s.self.empty f.xc = false := hr _ (by simp)
  have hd : s.self.empty f.xd = false := hr _ (by simp)
  exact ⟨fpEnds_fp2 rfl ha hb hd rfl, fpEnds_fp2 rfl ha hb hd rfl, fpEnds_fp2 rfl ha hb hd rfl, fpEnds_ffma ha hb hc hd,
    fpEnds_fp2 rfl ha hb hd rfl, fpEnds_fsqrt ha hd, fpEnds_fp2 rfl ha hb hd rfl, fpEnds_fp2 rfl ha hb hd rfl⟩

/-! ### Comparisons (R220) -/

/-- Only a NaN signals. -/
theorem isNaN_of_signals {v : FVal} (h : v.signals = true) : v.isNaN = true := by
  cases v with
  | nan => rfl
  | inf | num => cases h

/-- A signalling operand is a NaN, so all NaNs together are the operands that are NaNs. -/
theorem signals_or_isNaN (a b : FVal) : (a.signals || b.signals || (a.isNaN || b.isNaN)) = (a.isNaN || b.isNaN) := by
  cases ha : a.signals with
  | true => simp [isNaN_of_signals ha]
  | false =>
    cases hb : b.signals with
    | true => simp [isNaN_of_signals hb]
    | false => rfl

section compare
variable {i : Instr} {fmt : FFmt} {f : SA} {s : State}

/-- A comparison: a condition of the order, false or true of a NaN, and the flags of the operands that signal or are NaNs. -/
theorem fpEnds_fpCompare {quietNV : Bool} {op : Option Ordering → Bool} {v : Bool} {fl : Flags}
    (he : exec i s = finish 8 (fpCompare fmt f quietNV op) s) (hr : ready s [f.xa, f.xb, f.xd]) :
    let a := (FFmtfmt fmt).decode (fmtBits fmt (s.self.rd f.xa))
    let b := (FFmtfmt fmt).decode (fmtBits fmt (s.self.rd f.xb))
    op (if a.isNaN || b.isNaN then none else some (a.cmp b)) = v →
    flagIf (a.signals || b.signals || (quietNV && (a.isNaN || b.isNaN))) flagNV = fl →
    fpEnds s i f.xd (if v then 1 else 0) fl := by
  intro a b hv hfl
  refine fpEnds_of_fpDone he (hr _ (by simp)) ?_
  simp only [fpCompare, X.bind_apply, readX_ok (hr f.xa (by simp)), readX_ok (hr f.xb (by simp)), FpFmt.compare, ← hv, ← hfl]
  rfl

end compare

/-- A condition that fails without an order holds where neither operand is a NaN and their order satisfies it. -/
theorem condition_of_order (nan : Bool) (o : Ordering) {op : Option Ordering → Bool} {c : Bool} (hnone : op none = false)
    (hsome : op (some o) = c) : op (if nan then none else some o) = (!nan && c) := by
  cases nan with
  | true => exact hnone
  | false => exact hsome

/-! ### Classes (R220) -/

/-- The number of the one bit that FCLASS sets. -/
def classBit (F : FpFmt) : FVal → Nat
  | .inf neg => if neg then 0 else 7
  | .nan sig => if sig then 8 else 9
  | .num neg m _ =>
    if m = 0 then (if neg then 3 else 4)
    else if m < 2 ^ F.fbits then (if neg then 2 else 5)
    else (if neg then 1 else 6)

theorem class_eq_two_pow (F : FpFmt) (a : Nat) : F.class a = 2 ^ classBit F (F.decode a) := by
  rw [FpFmt.class]
  cases F.decode a with
  | inf neg => cases neg <;> rfl
  | nan sig => cases sig <;> rfl
  | num neg m e =>
    simp only [classBit]
    split
    · cases neg <;> rfl
    · split <;> cases neg <;> rfl

/-- What the bit says of the value: quiet and signalling NaNs, and the two zeros. -/
theorem classBit_spec (F : FpFmt) (v : FVal) : classBit F v < 10 ∧ (classBit F v = 8 ∨ classBit F v = 9 ↔ v.isNaN = true) ∧
    (classBit F v = 8 ↔ v.signals = true) ∧ (classBit F v = 3 ∨ classBit F v = 4 ↔ v.isZero = true) := by
  cases v with
  | inf neg => cases neg <;> simp [classBit, FVal.isNaN, FVal.signals, FVal.isZero]
  | nan sig => cases sig <;> simp [classBit, FVal.isNaN, FVal.signals, FVal.isZero]
  | num neg m e =>
    simp only [classBit, FVal.isNaN, FVal.signals, FVal.isZero]
    split
    next h => cases neg <;> simp [h]
    next h => split <;> cases neg <;> simp [h]

theorem scalarFloatCompareClass : Sys2Proof.Claim.ScalarFloatCompareClass := by
  intro fmt f s hr F a b nan sig any ends
  have hsig : flagIf (a.signals || b.signals || (false && (a.isNaN || b.isNaN))) flagNV = sig := by
    rw [Bool.false_and, Bool.or_false]
  have hany : flagIf (a.signals || b.signals || (true && (a.isNaN || b.isNaN))) flagNV = any := by
    rw [Bool.true_and, signals_or_isNaN]
  have hle : (some (a.cmp b) == some .lt || some (a.cmp b) == some .eq) = (a.cmp b != .gt) := by
    cases a.cmp b <;> rfl
  have hun : ((if nan then none else some (a.cmp b)) == none) = nan := by cases nan <;> rfl
  have hone : ready s [f.xa, f.xd] := fun r h => hr r (by
    simp only [List.mem_cons] at h ⊢
    tauto)
  obtain ⟨hlt, hnan, hsignals, hzero⟩ := classBit_spec F a
  exact ⟨fpEnds_fpCompare rfl hr (condition_of_order (op := (· == some .eq)) nan _ rfl rfl) hsig,
    fpEnds_fpCompare rfl hr (condition_of_order (op := (· == some .lt)) nan _ rfl rfl) hany,
    fpEnds_fpCompare rfl hr (condition_of_order (op := fun o => o == some .lt || o == some .eq) nan _ rfl hle) hany,
    fpEnds_fpCompare rfl hr hun hsig,
    ⟨classBit F a, hlt, exec_sa1 rfl hone (congrArg toWord (class_eq_two_pow F _)), hnan, hsignals, hzero⟩,
    exec_sa1 rfl hone rfl⟩

/-! ### Conversions (R221) -/

theorem ETwidth_eq (t : ET) : ETwidth t = t.width := by cases t <;> rfl
theorem ETsigned_eq (t : ET) : ETsigned t = t.isSigned := by cases t <;> rfl

theorem extendElem_eq (t : ET) (v : Nat) : extendElem t v =
    if t.isInt && t.isSigned then BitVec.ofInt 64 (signed t.width v) else toWord (v % 2 ^ t.width) := by
  rw [extendElem, ETwidth_eq, ETsigned_eq]

theorem scalarConversion : Sys2Proof.Claim.ScalarConversion := by
  intro dst src f s hr k r
  refine fpEnds_of_fpDone rfl (hr _ (by simp)) ?_
  simp only [X.bind_apply, readX_ok (hr f.xa (by simp)), X.self_apply, ETwidth_eq, extendElem_eq]
  rfl

/-- Settles O6: the comparisons by the order of their operands, FCLASS by the bit it sets, FCVT through `fpDone`. -/
theorem scalarFloatCompareConvert : Obligations.ScalarFloatCompareConvert := ⟨scalarFloatCompareClass, scalarConversion⟩

end Sys2Proof.Proofs
end

section
/-! Branches and jumps (O8), the hardware loops: their entry and their end checks (O9). -/

namespace Sys2Proof.Proofs
open Sys2Proof.Machine Sys2Proof.Claim

/-! ### Branches and jumps (R222) -/

theorem branchTarget_eq (pc : Word) (off : BitVec 40) : branchTarget pc off = pc + off.signExtend 64 * 8 := by
  rw [branchTarget, BitVec.shiftLeft_eq_mul_twoPow]
  rfl

theorem bits_beq_zero_iff (w : Word) (lo len : Nat) : (bits w lo len == 0) = true ↔ w.extractLsb' lo len = 0 := by
  rw [beq_iff_eq, bits, ← BitVec.toNat_inj, BitVec.ofNat_eq_ofNat, BitVec.toNat_ofNat, Nat.zero_mod]

theorem exec_brCc {cc : CC} {f : SB} {s : State} (hr : ready s [f.xa, f.xb]) : exec (.brCc cc f) s =
    if condition cc (s.self.rd f.xa) (s.self.rd f.xb) then .next (s.modSelf (·.jump (s.self.pc + f.off.signExtend 64 * 8)))
    else .next (s.modSelf (·.retire 8)) := by
  have hreads (m : Word → Word → X Unit) : (readX f.xa >>= fun a => readX f.xb >>= fun b => m a b) s =
      m (s.self.rd f.xa) (s.self.rd f.xb) s := by
    rw [X.bind_apply, readX_ok (hr f.xa (by simp))]
    simp only [X.bind_apply, readX_ok (hr f.xb (by simp))]
  rw [← branchTarget_eq, ← ccHolds_eq_condition]
  split
  next h => exact finish_goto ((hreads _).trans (by rw [if_pos h]; rfl))
  next h => exact finish_ok ((hreads _).trans (by rw [if_neg h]; rfl))

theorem exec_jmp (f : SB) (s : State) :
    exec (.jmp f) s = .next (s.modSelf (·.jump (s.self.pc + f.off.signExtend 64 * 8))) := by
  rw [← branchTarget_eq]
  exact finish_goto rfl

theorem exec_jal {f : SB} {s : State} (hr : ready s [1]) : exec (.jal f) s =
    .next (s.modSelf fun k => (k.wr 1 (s.self.pc + 8)).jump (s.self.pc + f.off.signExtend 64 * 8)) := by
  have hw : writeX 1 (s.self.pc + 8) s = .ok () (s.modSelf (·.wr 1 (s.self.pc + 8))) := writeX_ok (hr 1 (by simp))
  rw [← branchTarget_eq]
  refine (finish_goto (t := s.modSelf (·.wr 1 (s.self.pc + 8))) ?_).trans (by rw [State.modSelf_modSelf])
  simp only [X.bind_apply, X.self_apply, hw, X.throw_apply]

section jr
variable {f : SB} {s : State}

/-- JR to a multiple of 8. -/
theorem exec_jr (hr : ready s [f.xa]) (h : (s.self.rd f.xa + f.off.signExtend 64 * 8).extractLsb' 0 3 = 0) :
    exec (.jr f) s = .next (s.modSelf (·.jump (s.self.rd f.xa + f.off.signExtend 64 * 8))) := by
  refine finish_goto ?_
  simp only [X.bind_apply, readX_ok (hr f.xa (by simp)), branchTarget_eq, (bits_beq_zero_iff _ 0 3).mpr h, X.require_true,
    X.throw_apply]

/-- JR to any other address. -/
theorem exec_jr_misaligned (hr : ready s [f.xa]) (h : (s.self.rd f.xa + f.off.signExtend 64 * 8).extractLsb' 0 3 ≠ 0)
    (hf : s.self.tf = false) :
    exec (.jr f) s = trapped s 4 (s.self.rd f.xa + f.off.signExtend 64 * 8) s.self.pc := by
  have hbits := Bool.eq_false_iff.mpr (mt (bits_beq_zero_iff _ 0 3).mp h)
  refine finish_trapped (c := causeMisalign) ?_ hf rfl
  simp only [X.bind_apply, readX_ok (hr f.xa (by simp)), branchTarget_eq, hbits, X.require_false]

end jr

/-- Settles O8, form by form. -/
theorem branchesAndJumps : Obligations.BranchesAndJumps := fun _ f s =>
  ⟨exec_brCc, exec_jmp f s, exec_jal, exec_jr, exec_jr_misaligned⟩

/-! ### Entering a loop (R224) -/

section entry
variable {l : BitVec 1} {off : BitVec 40} {n : Word} {s : State}

/-- A loop entered with its body to run. -/
theorem enterLoop_body (h : n ≠ 0) : enterLoop l off n s = .error (.goto (s.self.pc + 8))
    (s.modSelf (·.enterLoop l n (s.self.pc + 8) (branchTarget s.self.pc off))) := by
  simp only [enterLoop, X.bind_apply, X.self_apply, if_neg h, X.pure_apply, X.modSelf_apply, X.throw_apply]

/-- A loop with nothing to run, once the word at its end is known. -/
theorem enterLoop_past {ext : Bool} (h : n = 0) (hx : isExtAt (branchTarget s.self.pc off) s = .ok ext s) :
    enterLoop l off n s = .error (.goto (branchTarget s.self.pc off + if ext then 16 else 8))
      (s.modSelf (·.enterLoop l n (s.self.pc + 8) (branchTarget s.self.pc off))) := by
  simp only [enterLoop, X.bind_apply, X.self_apply, if_pos h, hx, X.modSelf_apply, X.throw_apply]

/-- A loop with nothing to run, while the word at its end must be waited for. -/
theorem enterLoop_wait {w : Wait} {t : State} (h : n = 0) (hx : isExtAt (branchTarget s.self.pc off) s = .error (.wait w) t) :
    enterLoop l off n s = .error (.wait w) t := by
  simp only [enterLoop, X.bind_apply, X.self_apply, if_pos h, hx]

/-- What an entry leaves, in the three cases. -/
theorem exec_enterLoop {i : Instr} (he : exec i s = finish 8 (enterLoop l off n) s) :
    let last := branchTarget s.self.pc off
    let enters := fun target : Word => Host.Outcome.next (s.modSelf fun k => (k.enterLoop l n (s.self.pc + 8) last).jump target)
    (n ≠ 0 → exec i s = enters (s.self.pc + 8)) ∧
    (n = 0 → ∀ ext, isExtAt last s = .ok ext s → exec i s = enters (last + if ext then 16 else 8)) ∧
    (n = 0 → ∀ w t, isExtAt last s = .error (.wait w) t → t.cur = s.cur →
      exec i s = .next (t.modSelf fun k => { k with wait := w })) := by
  refine ⟨fun h => ?_, fun h ext hx => ?_, fun h w t hx _ => ?_⟩
  · rw [he, finish_goto (enterLoop_body h), State.modSelf_modSelf]
  · rw [he, finish_goto (enterLoop_past h hx), State.modSelf_modSelf]
  · rw [he, finish_wait (enterLoop_wait h hx)]

end entry

/-- A word that is fetched and not poisoned is judged by its major opcode (R191). -/
theorem isExtAt_fetched {a w : Word} {s t : State} (h : fetchWord a s = .ok (w, false) t) :
    isExtAt a s = .ok (w.extractLsb' 56 8 == 0xF0#8) s := by
  have hop : (opOf w == extOp) = (w.extractLsb' 56 8 == 0xF0#8) := Bool.eq_iff_iff.mpr <| by
    rw [beq_iff_eq, beq_iff_eq, ← BitVec.toNat_inj]
    rfl
  simp only [isExtAt, h, Bool.not_false, Bool.true_and, hop]

/-- COUNT12 of LOOPI: xa above xb. -/
theorem append_toWord (x y : BitVec 6) : ((x ++ y : BitVec 12).setWidth 64 : Word) = toWord (x.toNat * 64 + y.toNat) := by
  apply BitVec.eq_of_toNat_eq
  have hx := x.isLt
  have hy := y.isLt
  rw [BitVec.toNat_setWidth, BitVec.toNat_append, BitVec.toNat_ofNat, ← Nat.shiftLeft_add_eq_or_of_lt hy, Nat.shiftLeft_eq]

theorem loopEntry : Sys2Proof.Claim.LoopEntry := by
  intro l f s pc last b enters entered
  have hlast : branchTarget s.self.pc f.off = last := branchTarget_eq _ _
  have henters {i : Instr} {n : Word} (he : exec i s = finish 8 (enterLoop l f.off n) s) : entered i n := by
    have h := exec_enterLoop he
    rw [hlast] at h
    exact h
  refine ⟨fun w t => isExtAt_fetched, fun hr => henters (finish_congr ?_), henters (finish_congr ?_)⟩
  · simp only [X.bind_apply, readX_ok (hr f.xa (by simp))]
  · rw [append_toWord]

/-! ### End checks (R225) -/

/-- The instruction ends a run of loop i: the loop counts, and the instruction covers its end address. -/
def endsRun (k : Core) (size i : Nat) : Prop :=
  k.csrAt (0x030 + 3 * i) ≠ 0 ∧ (k.csrAt (0x032 + 3 * i) = addrField k.pc ∨
    size = 16 ∧ k.csrAt (0x032 + 3 * i) = addrField (k.pc + 8))

theorem covers_iff (k : Core) (size : Nat) (e : Word) :
    k.covers size e = true ↔ e = addrField k.pc ∨ size = 16 ∧ e = addrField (k.pc + 8) := by
  simp only [Core.covers, Bool.or_eq_true, Bool.and_eq_true, beq_iff_eq]

theorem inner_check_iff (k : Core) (size : Nat) :
    (k.covers size (k.csrAt 0x035) && k.csrAt 0x033 != 0) = true ↔ endsRun k size 1 := by
  rw [Bool.and_eq_true, covers_iff, bne_iff_ne, and_comm]
  rfl

theorem outer_check_iff (k : Core) (size : Nat) :
    (k.covers size (k.csrAt 0x032) && k.csrAt 0x030 != 0) = true ↔ endsRun k size 0 := by
  rw [Bool.and_eq_true, covers_iff, bne_iff_ne, and_comm]
  rfl

/-- The check of the outer loop and the next address, after the inner loop's check of core k has left k1. -/
def outerEnd (k : Core) (size : Nat) (k1 : Core) : Core :=
  if k.covers size (k.csrAt 0x032) && k.csrAt 0x030 != 0 then
    if 1 < (k.csrAt 0x030).toNat then { k1.setCsr 0x030 (k.csrAt 0x030 - 1) with pc := canon56 (k.csrAt 0x031) }
    else { k1.setCsr 0x030 0 with pc := k.pc + toWord size }
  else { k1 with pc := k.pc + toWord size }

section outer
variable {k : Core} {size : Nat} (k1 : Core)

theorem outerEnd_again (h : endsRun k size 0) (h1 : 1 < (k.csrAt 0x030).toNat) :
    (outerEnd k size k1).csrAt 0x030 = k.csrAt 0x030 - 1 ∧ (outerEnd k size k1).pc = canon56 (k.csrAt 0x031) := by
  rw [outerEnd, if_pos ((outer_check_iff k size).mpr h), if_pos h1]
  exact ⟨Core.setCsr_csrAt_same k1 _ (by decide), rfl⟩

theorem outerEnd_last (h : endsRun k size 0) (h1 : (k.csrAt 0x030).toNat = 1) :
    (outerEnd k size k1).csrAt 0x030 = 0 ∧ (outerEnd k size k1).pc = k.pc + toWord size := by
  rw [outerEnd, if_pos ((outer_check_iff k size).mpr h), if_neg (by omega)]
  exact ⟨Core.setCsr_csrAt_same k1 _ (by decide), rfl⟩

theorem outerEnd_elsewhere (h : ¬endsRun k size 0) :
    (outerEnd k size k1).csrAt 0x030 = k1.csrAt 0x030 ∧ (outerEnd k size k1).pc = k.pc + toWord size := by
  rw [outerEnd, if_neg (mt (outer_check_iff k size).mp h)]
  exact ⟨rfl, rfl⟩

/-- The outer check leaves the inner loop's count. -/
theorem outerEnd_inner : (outerEnd k size k1).csrAt 0x033 = k1.csrAt 0x033 := by
  unfold outerEnd
  split
  · split <;> exact Core.setCsr_csrAt_other k1 _ (by decide)
  · rfl

end outer

section inner
variable {k : Core} {size : Nat}

/-- The inner loop runs again: its count falls, and no other check is made. -/
theorem loopEnd_again (h : endsRun k size 1) (h1 : 1 < (k.csrAt 0x033).toNat) :
    k.loopEnd size = { k.setCsr 0x033 (k.csrAt 0x033 - 1) with pc := canon56 (k.csrAt 0x034) } := by
  rw [Core.loopEnd, if_pos ((inner_check_iff k size).mpr h), if_pos h1]

/-- The inner loop does not run again: the outer check follows, and the inner count is 0 where its last run has ended. -/
theorem loopEnd_passed (h : endsRun k size 1 → (k.csrAt 0x033).toNat = 1) :
    ∃ k1, k.loopEnd size = outerEnd k size k1 ∧ k1.csrAt 0x030 = k.csrAt 0x030 ∧
      (endsRun k size 1 → k1.csrAt 0x033 = 0) ∧ (¬endsRun k size 1 → k1.csrAt 0x033 = k.csrAt 0x033) := by
  by_cases he : endsRun k size 1
  · have h1 := h he
    refine ⟨k.setCsr 0x033 0, ?_, Core.setCsr_csrAt_other k _ (by decide), fun _ => Core.setCsr_csrAt_same k _ (by decide),
      fun hn => absurd he hn⟩
    rw [Core.loopEnd, if_pos ((inner_check_iff k size).mpr he), if_neg (by omega)]
    rfl
  · refine ⟨k, ?_, rfl, fun hp => absurd hp he, fun _ => rfl⟩
    rw [Core.loopEnd, if_neg (mt (inner_check_iff k size).mp he)]
    rfl

/-- Beside INSTRET, the CSRs after completion are those the end checks leave. -/
theorem retire_csrAt {n : Nat} (h : 0x051 ≠ n) : (k.retire size).csrAt n = (k.loopEnd size).csrAt n :=
  Core.setCsr_csrAt_other _ _ h

theorem retire_instret : (k.retire size).csrAt 0x051 = k.csrAt 0x051 + 1 := by
  rw [Core.retire, Core.counted]
  exact (Core.setCsr_csrAt_same _ _ (by decide)).trans (by rw [loopEnd_csrAt k size (by decide)])

end inner

theorem loopEndChecks : Sys2Proof.Claim.LoopEndChecks := by
  intro k size _ lc ls ends t
  have hpc : t.pc = (k.loopEnd size).pc := rfl
  have houter : t.csrAt 0x030 = (k.loopEnd size).csrAt 0x030 := retire_csrAt (by decide)
  have hinner : t.csrAt 0x033 = (k.loopEnd size).csrAt 0x033 := retire_csrAt (by decide)
  rw [hpc, houter, hinner]
  refine ⟨fun he h1 => ?_, fun h => ?_, fun n h30 h33 h51 => ?_, retire_instret⟩
  · rw [loopEnd_again he h1]
    exact ⟨Core.setCsr_csrAt_same k _ (by decide), Core.setCsr_csrAt_other k _ (by decide), rfl⟩
  · obtain ⟨k1, hend, hk1, hzero, hkept⟩ := loopEnd_passed h
    rw [hend, outerEnd_inner]
    refine ⟨hzero, hkept, outerEnd_again k1, outerEnd_last k1, fun h0 => ?_⟩
    obtain ⟨hcount, hnext⟩ := outerEnd_elsewhere k1 h0
    exact ⟨hcount.trans hk1, hnext⟩
  · exact (retire_csrAt h51.symm).trans (loopEnd_csrAt k size ⟨h30.symm, h33.symm⟩)

/-- Settles O9: an entry by its three cases, the end checks by whether the inner loop runs again. -/
theorem hardwareLoops : Obligations.HardwareLoops := ⟨loopEntry, loopEndChecks⟩

end Sys2Proof.Proofs
end

section
/-! Element-wise vector forms (R231, R232): the loop that an element stops, and what every form leaves, completed or stopped,
whatever its destination. -/

namespace Sys2Proof.Proofs
open Sys2Proof.Machine Sys2Proof.Claim

/-! ### The loop that an element stops (R232) -/

/-- How an element stops its form: the cause, the value and the flags of its trap. -/
def stopOf (k : Core) (j : Nat) : ElemOut → Option (Nat × Word × Flags)
  | .trap c v f => some (c, v, f)
  | .val _ f => if k.trapping f then some (causeFpTrap, fpTrapValue f j true, 0) else none

/-- A loop goes on where its first elements have left it. -/
theorem elemLoop_add {k : Core} {active : Nat → Bool} {mz : Bool} {op : Nat → ElemOut} {l' : Loop} (b : Nat) :
    ∀ (a i : Nat) (l : Loop), elemLoop k active mz op a i l = (l', none) →
      elemLoop k active mz op (a + b) i l = elemLoop k active mz op b (i + a) l'
  | 0, i, l, h => by
    cases h
    rw [Nat.zero_add, Nat.add_zero]
  | a + 1, i, l, h => by
    rw [Nat.add_right_comm]
    rw [elemLoop] at h ⊢
    rw [show i + (a + 1) = i + 1 + a by omega]
    split at h
    next hactive =>
      rw [if_pos hactive]
      split at h
      · cases h
      · split at h
        · cases h
        next hquiet =>
          rw [if_neg hquiet]
          exact elemLoop_add b a (i + 1) _ h
    next hactive =>
      rw [if_neg hactive]
      exact elemLoop_add b a (i + 1) _ h

/-- An active element that stops ends the loop, and its own result is not kept. -/
theorem elemLoop_head {k : Core} {active : Nat → Bool} {mz : Bool} {op : Nat → ElemOut} {j c : Nat} {v : Word} {own : Flags}
    (ha : active j = true) (hstop : stopOf k j (op j) = some (c, v, own)) (fuel : Nat) (l : Loop) :
    elemLoop k active mz op (fuel + 1) j l = (l, some (j, c, v, own)) := by
  rw [elemLoop, if_pos ha]
  cases hop : op j with
  | trap c' v' f' =>
    rw [hop] at hstop
    cases hstop
    rfl
  | val v' f' =>
    rw [hop, stopOf] at hstop
    split at hstop
    next ht =>
      simp only [Option.some.injEq, Prod.mk.injEq] at hstop
      obtain ⟨rfl, rfl, rfl⟩ := hstop
      simp only [ht, if_true]
    · cases hstop

/-! ### What a stopped form leaves -/

/-- A CSR other than FFLAGS written before and after flags are raised. -/
theorem setCsr_orFlags_setCsr (k : Core) (f : BitVec 7) {n : Nat} (u v : Word) (h : n ≠ 0x008) :
    ((k.setCsr n u).orFlags f).setCsr n v = (k.orFlags f).setCsr n v := by
  unfold Core.orFlags Core.fflags
  rw [Core.setCsr_csrAt_other _ _ h]
  refine congrArg (fun c => { k with csr := c }) (Vector.ext fun i hi => ?_)
  simp only [Core.setCsr, Vector.getElem_setIfInBounds]
  by_cases hn : n = i
  · simp only [hn, if_true]
  · simp only [hn, if_false]

/-- The core at the trap of element j (R232): the elements below it done, its flags raised, VSTART naming it. -/
def elementsStopped (record : Bool) (active : Nat → Bool) (mz : Bool) (d : Dst) (val : Nat → Nat × Flags) (j : Nat) (own : Flags)
    (k : Core) : Core :=
  ((k.elementsDone record j active mz d false val).orFlags own).setCsr 0x003 (toWord j)

section stopped
variable (record : Bool) (active : Nat → Bool) (mz : Bool) (d : Dst) (val : Nat → Nat × Flags) (j : Nat) (own : Flags) (k : Core)

theorem elementsStopped_vec : (elementsStopped record active mz d val j own k).vec =
    (k.elementsDone record j active mz d false val).vec := rfl

theorem elementsStopped_vstart : (elementsStopped record active mz d val j own k).csrAt 0x003 = toWord j :=
  Core.setCsr_csrAt_same _ _ (by decide)

theorem elementsStopped_csrAt {m : Nat} (h : m ≠ 0x003 ∧ m ≠ 0x008 ∧ m ≠ 0x00A ∧ m ≠ 0x00B) :
    (elementsStopped record active mz d val j own k).csrAt m = k.csrAt m := by
  rw [elementsStopped, Core.setCsr_csrAt_other _ _ h.1.symm, Core.orFlags, Core.setCsr_csrAt_other _ _ h.2.1.symm,
    Core.elementsDone_csrAt h]

theorem elementsStopped_fflags : (elementsStopped record active mz d val j own k).csrAt 0x008 =
    (k.elementsDone record j active mz d false val).fflags ||| own.setWidth 64 := by
  rw [elementsStopped, Core.setCsr_csrAt_other _ _ (by decide), Core.orFlags, Core.setCsr_csrAt_same _ _ (by decide)]

end stopped

/-- An element-wise form whose lowest element that stops is j. -/
theorem vElements_stop {record : Bool} {n : Nat} {active : Nat → Bool} {mz : Bool} {d : Dst} {tail : Bool}
    {srcs : List (Nat × Nat × Nat × (Nat → Nat))} {op : Nat → ElemOut} {val : Nat → Nat × Flags} {s : State} {j c : Nat} {v : Word}
    {own : Flags} (hp : s.self.vec.poison = []) (hfrom : s.self.vstart ≤ j) (hn : j < n) (ha : active j = true)
    (hbelow : ∀ m, s.self.vstart ≤ m → m < j → active m = true →
      op m = .val (val m).1 (val m).2 ∧ s.self.trapping (val m).2 = false)
    (hstop : stopOf s.self j (op j) = some (c, v, own)) :
    vElements record n active mz d tail srcs op s =
      .error (.trap c v) (s.modSelf (elementsStopped record active mz d val j own)) := by
  have hloop := fun l => (elemLoop_add (n - j) (j - s.self.vstart) s.self.vstart l
    (elemLoop_ok (mz := mz) (j - s.self.vstart) s.self.vstart l fun m h1 h2 => hbelow m h1 (by omega)))
  have hfuel : j - s.self.vstart + (n - j) = n - s.self.vstart := by omega
  have hat : s.self.vstart + (j - s.self.vstart) = j := by omega
  obtain ⟨fuel, hrest⟩ : ∃ fuel, n - j = fuel + 1 := ⟨n - j - 1, by omega⟩
  rw [hfuel, hat, hrest] at hloop
  simp only [elemLoop_head ha hstop] at hloop
  simp only [vElements, X.bind_apply, X.self_apply, Core.badSources_none hp, hloop]
  cases record with
  | false =>
    simp only [Bool.false_and, Bool.false_eq_true, if_false, X.modSelf_apply, List.append_nil, X.trap_apply]
    refine congrArg (EStateM.Result.error _) (State.modSelf_congr s (Eq.symm ?_))
    exact setCsr_orFlags_setCsr _ _ _ _ (by decide)
  | true =>
    by_cases h0 : s.self.vstart = 0
    · simp only [Bool.true_and, h0, beq_self_eq_true, if_true, X.modSelf_apply, List.append_nil, X.trap_apply]
      refine congrArg (EStateM.Result.error _) (State.modSelf_congr s (Eq.symm ?_))
      simp only [elementsStopped, Core.elementsDone, h0]
      exact setCsr_orFlags_setCsr _ _ _ _ (by decide)
    · have h0' : (s.self.vstart == 0) = false := beq_eq_false_iff_ne.mpr h0
      simp only [Bool.true_and, h0', if_true, Bool.false_eq_true, if_false, X.modSelf_apply, List.append_nil, X.trap_apply]
      refine congrArg (EStateM.Result.error _) (State.modSelf_congr s (Eq.symm ?_))
      simp only [elementsStopped, Core.elementsDone, Bool.true_and, h0']
      exact setCsr_orFlags_setCsr _ _ _ _ (by decide)

/-! ### What every form leaves -/

theorem loopEnd_eq (k : Core) (n : Nat) : k.loopEnd n = { k with csr := (k.loopEnd n).csr, pc := (k.loopEnd n).pc } := by
  unfold Core.loopEnd
  dsimp only
  split
  · split
    · rfl
    · split
      · split <;> rfl
      · rfl
  · split
    · split <;> rfl
    · rfl

/-- Completion changes CSRs, the program counter and the wait (R225). -/
theorem retire_eq (k : Core) (n : Nat) :
    k.retire n = { k with csr := (k.retire n).csr, pc := (k.retire n).pc, wait := .none } := by
  conv_lhs => rw [Core.retire, loopEnd_eq]
  rfl

/-- A change of the vector unit and of CSRs, completed, is one of the vector unit alone. -/
theorem onlyVector_retire {s : State} {g : Core → Core} {v : VecUnit} {c : Vector Word 518}
    (h : g s.self = { s.self with vec := v, csr := c }) : onlyVector s (s.modSelf fun k => (g k).retire 8) := by
  refine ⟨State.modSelf_congr s (by rw [State.modSelf_self]), ?_⟩
  rw [State.modSelf_self, h, Core.retire_vec, Core.retire_wait]
  exact retire_eq _ 8

theorem onlyFlagCsrs_retire {k l : Core} (h : ∀ m, m ≠ 0x003 ∧ m ≠ 0x008 ∧ m ≠ 0x00A ∧ m ≠ 0x00B → l.csrAt m = k.csrAt m) :
    onlyFlagCsrs k (l.retire 8) := by
  intro m hm
  simp only [List.mem_cons, List.not_mem_nil, or_false, not_or] at hm
  refine onlyCsrs_retire (ns := [0x003, 0x008, 0x00A, 0x00B]) (fun n hn _ => h n ?_) 8 m ?_ ?_
  · simpa only [List.mem_cons, List.not_mem_nil, or_false, not_or] using hn
  · simp only [List.mem_cons, List.not_mem_nil, or_false, not_or]
    tauto
  · simp only [List.mem_cons, List.not_mem_nil, or_false, not_or]
    tauto

theorem retire_csrAt_low {k : Core} {n m : Nat} (h : m < 0x030) : (k.retire n).csrAt m = k.csrAt m :=
  (retire_csrAt (by omega)).trans (loopEnd_csrAt k n (by omega))

theorem getLsbD_flagWord (f : Flags) (b : Nat) : (f.setWidth 64).getLsbD b = f.getLsbD b := by
  rw [BitVec.getLsbD_setWidth]
  by_cases hb : b < 64
  · simp only [hb, decide_true, Bool.true_and]
  · simp only [hb, decide_false, Bool.false_and]
    exact (BitVec.getLsbD_of_ge f b (by omega)).symm

section done
variable (k : Core) (record : Bool) (n : Nat) (active : Nat → Bool) (mz : Bool) (d : Dst) (tail : Bool) (val : Nat → Nat × Flags)

/-- The core whose destination an element-wise form writes: its vector unit is that of the start. -/
theorem elementsDone_write : ∃ l : Core, l.vec = k.vec ∧ (k.elementsDone record n active mz d tail val).vec =
    (l.vwrite d ((List.range' k.vstart (n - k.vstart)).filterMap (elemEntry active mz val)).reverse
      (if tail && k.tailz then some n else none)).vec :=
  ⟨_, by rw [Core.setCsr_vec, Core.setCsr_vec, Core.orFlags_vec], Core.setCsr_vec ..⟩

theorem elementsDone_eq : k.elementsDone record n active mz d tail val =
    { k with vec := (k.elementsDone record n active mz d tail val).vec
             csr := (k.elementsDone record n active mz d tail val).csr } := by
  unfold Core.elementsDone
  dsimp only
  rw [Core.vwrite_eq]
  rfl

theorem elementsDone_sameThread : SameThread k (k.elementsDone record n active mz d tail val) where
  pc := by rw [elementsDone_eq]
  x := by rw [elementsDone_eq]
  priv := by rw [elementsDone_eq]
  csr := fun _ _ => Core.elementsDone_csrAt (by omega)

theorem elementsStopped_fields (j : Nat) (own : Flags) :
    ∃ u cs, elementsStopped record active mz d val j own k = { k with vec := u, csr := cs } := by
  obtain ⟨u, cs, h⟩ : ∃ u cs, k.elementsDone record j active mz d false val = { k with vec := u, csr := cs } :=
    ⟨_, _, elementsDone_eq ..⟩
  rw [elementsStopped, h]
  exact ⟨u, _, rfl⟩

/-- FFLAGS gains the flags of the active elements from VSTART on, below n. -/
theorem elementsDone_flag (b : Nat) : (k.elementsDone record n active mz d tail val).fflags.getLsbD b = true ↔
    k.fflags.getLsbD b = true ∨ ∃ j, k.vstart ≤ j ∧ j < n ∧ active j = true ∧ (val j).2.getLsbD b = true := by
  rw [Core.elementsDone_fflags, BitVec.getLsbD_or, Bool.or_eq_true, getLsbD_flagWord, elemFlags_getLsbD]
  refine or_congr_right ⟨?_, ?_⟩
  · rintro (h | ⟨j, hj, hactive, hflag⟩)
    · simp at h
    · rw [List.mem_range'_1] at hj
      exact ⟨j, hj.1, by omega, hactive, hflag⟩
  · rintro ⟨j, hfrom, hn, hactive, hflag⟩
    exact .inr ⟨j, List.mem_range'_1.mpr (by omega), hactive, hflag⟩

end done

/-! ### Destinations -/

/-- How a form's destination is read back (R80, R83): get reads element j of it, dec is what a result written there reads as,
kept says what a write leaves of the other registers. -/
structure Destination {α : Type} (d : Dst) (n : Nat) (tail : Bool) (get : VecUnit → Nat → α) (dec : Nat → α) (zero : α)
    (kept : VecUnit → VecUnit → Prop) : Prop where
  dec_zero : dec 0 = zero
  refl : ∀ u, kept u u
  beside : ∀ (l : Core) res tl, kept l.vec (l.vwrite d res tl).vec
  read : ∀ (l : Core) res tl j, j < n → tl = none ∨ tail = true ∧ tl = some n →
    get (l.vwrite d res tl).vec j = (res.reverse.find? (·.1 == j)).elim (get l.vec j) fun r => dec r.2

section destination
variable {α : Type} {d : Dst} {n m : Nat} {tail : Bool} {get : VecUnit → Nat → α} {dec : Nat → α} {zero : α}
  {kept : VecUnit → VecUnit → Prop} (D : Destination d n tail get dec zero kept) {k : Core} {record mz : Bool} {active : Nat → Bool}
  {val : Nat → Nat × Flags}
include D

theorem Destination.kept_done {tl : Bool} : kept k.vec (k.elementsDone record m active mz d tl val).vec := by
  obtain ⟨l, hl, hw⟩ := elementsDone_write k record m active mz d tl val
  rw [hw, ← hl]
  exact D.beside _ _ _

/-- An element of the destination once those from VSTART to m are done: its result, zero for an inactive one under mz,
or what it was. -/
theorem Destination.get_done {tl : Bool} {j : Nat} (hj : j < n) (htl : tl = false ∨ tl = tail ∧ m = n) :
    get (k.elementsDone record m active mz d tl val).vec j =
      if k.vstart ≤ j ∧ j < m then if active j = true then dec (val j).1 else if mz = true then zero else get k.vec j
      else get k.vec j := by
  obtain ⟨l, hl, hw⟩ := elementsDone_write k record m active mz d tl val
  have htail : (if (tl && k.tailz) = true then some m else none) = none ∨
      tail = true ∧ (if (tl && k.tailz) = true then some m else none) = some n := by
    rcases htl with rfl | ⟨rfl, rfl⟩
    · exact .inl rfl
    · cases tl <;> cases k.tailz <;> simp
  rw [hw, D.read _ _ _ _ hj htail, List.reverse_reverse, find_elemEntry _ _ _ _ _ List.nodup_range', hl]
  have hmem : j ∈ List.range' k.vstart (m - k.vstart) ↔ k.vstart ≤ j ∧ j < m := by
    rw [List.mem_range'_1]
    omega
  simp only [hmem]
  split
  · rw [elemEntry, ← D.dec_zero]
    cases active j <;> cases mz <;> rfl
  · rfl

end destination

/-! ### At the trap of an element (R352) -/

section entry
variable (k : Core) (c : Nat) (tval epc : Word)

theorem enterTrap_csrAt {n : Nat} (h : n ∉ [0x103, 0x100, 0x101, 0x102, 0x030, 0x033, 0x003]) :
    (k.enterTrap false c tval epc).csrAt n = k.csrAt n := by
  rw [enterTrap_eq, entered_csrAt, trapCsrs_csrAt _ _ _ _ _ h]

/-- A trap entry changes CSRs, the frame, the privilege, the program counter and the wait (R352). -/
theorem enterTrap_fields : ∃ cs f pc, k.enterTrap false c tval epc =
    { k with csr := cs, frame := f, priv := .super, pc := pc, wait := .none } := by
  have hset : ∀ (l : Core), (∃ cs, l = { k with csr := cs }) → ∀ n w, ∃ cs, l.setCsr n w = { k with csr := cs } := by
    rintro _ ⟨cs, rfl⟩ n w
    exact ⟨_, rfl⟩
  obtain ⟨cs, hcs⟩ : ∃ cs, trapCsrs k false c tval epc = { k with csr := cs } :=
    hset _ (hset _ (hset _ (hset _ (hset _ (hset _ (hset k ⟨k.csr, rfl⟩ _ _) _ _) _ _) _ _) _ _) _ _) _ _
  rw [enterTrap_eq]
  generalize canon56 _ = pc
  rw [hcs]
  exact ⟨cs, k.frameNow, pc, rfl⟩

theorem enterTrap_epc : (k.enterTrap false c tval epc).csrAt 0x102 = addrField epc := by
  rw [enterTrap_eq, entered_csrAt, trapCsrs]
  iterate 3 rw [Core.setCsr_csrAt_other _ _ (by decide)]
  exact Core.setCsr_csrAt_same _ _ (by decide)

theorem enterTrap_vstart : (k.enterTrap false c tval epc).csrAt 0x003 = 0 := by
  rw [enterTrap_eq, entered_csrAt, trapCsrs]
  exact Core.setCsr_csrAt_same _ _ (by decide)

theorem enterTrap_tf : (k.enterTrap false c tval epc).tf = true := by
  have hstatus : (k.enterTrap false c tval epc).tstatus = trapStatus k.tstatus k.priv := by
    rw [Core.tstatus, enterTrap_eq, entered_csrAt, trapCsrs]
    iterate 6 rw [Core.setCsr_csrAt_other _ _ (by decide)]
    exact Core.setCsr_csrAt_same _ _ (by decide)
  rw [Core.tf, hstatus, trapStatus, setBits]
  simp

/-- R35, R232: a handler entered with VSTART naming element j. -/
theorem stoppedAt_enterTrap {s : State} {g : Core → Core} {j : Nat} (hv : (g s.self).csrAt 0x003 = toWord j)
    (hvec : (g s.self).csrAt 0x104 = s.self.csrAt 0x104) :
    stoppedAt s (s.modSelf fun k => (g k).enterTrap false c tval k.pc) j c tval := by
  obtain ⟨hpriv, hcause, htval, hpc, -, -⟩ := enterTrap_leaves (g s.self) false c tval s.self.pc
  unfold stoppedAt
  rw [State.modSelf_self]
  refine ⟨hcause.trans ?_, htval, enterTrap_epc .., ?_, enterTrap_vstart .., enterTrap_tf .., hpriv, hpc.trans (by rw [hvec])⟩
  · exact congrArg toWord (Nat.zero_add c)
  · rw [← hv]
    rfl

end entry

/-! ### Element-wise instructions -/

/-- The instruction is the loop over its elements once it has issued: nothing at all where the shape holds none. -/
def RunsElements (s : State) (i : Instr) (f : VA) (record : Bool) (d : Dst) (tail : Bool) (op : Nat → ElemOut) : Prop :=
  ∃ m srcs, exec i s = finish 8 m s ∧ m s = if s.self.vrows * s.self.vcols = 0 then .ok () s else
    vElements record (s.self.vrows * s.self.vcols) (s.self.activeBit f.msk) (f.mz == 1) d tail srcs op s

/-- The core of an element-wise instruction that no element stops. -/
def allDone (f : VA) (record : Bool) (d : Dst) (tail : Bool) (val : Nat → Nat × Flags) (k : Core) : Core :=
  k.elementsDone record (k.vrows * k.vcols) (k.activeBit f.msk) (f.mz == 1) d tail val

theorem trapsAt_instruction {c : Nat} (h : c = causeFpTrap ∨ c = causeIdivZero) (pc : Word) : resumeAt c pc 8 = pc := by
  rcases h with rfl | rfl <;> rfl

section runs
variable {s : State} {i : Instr} {f : VA} {record tail : Bool} {d : Dst} {op : Nat → ElemOut} {val : Nat → Nat × Flags}

/-- No element stops it. -/
theorem RunsElements.exec_done (h : RunsElements s i f record d tail op) (hp : s.self.vec.poison = [])
    (hn : s.self.vrows * s.self.vcols ≠ 0)
    (hop : ∀ j, live s.self f.msk j → op j = .val (val j).1 (val j).2 ∧ s.self.trapping (val j).2 = false) :
    exec i s = .next (s.modSelf fun k => (allDone f record d tail val k).retire 8) := by
  obtain ⟨m, srcs, he, hm⟩ := h
  rw [if_neg hn] at hm
  rw [he, finish_ok (hm.trans (vElements_ok hp fun j h1 h2 h3 => hop j ⟨h1, h2, h3⟩)), State.modSelf_modSelf]
  exact congrArg Host.Outcome.next (State.modSelf_congr s rfl)

theorem RunsElements.exec_empty (h : RunsElements s i f record d tail op) (hn : s.self.vrows * s.self.vcols = 0) :
    exec i s = .next (s.modSelf (·.retire 8)) := by
  obtain ⟨m, srcs, he, hm⟩ := h
  rw [if_pos hn] at hm
  rw [he, finish_ok hm]

/-- Element j is the lowest that stops it. -/
theorem RunsElements.exec_stopped {j c : Nat} {v : Word} {own : Flags} (h : RunsElements s i f record d tail op)
    (hp : s.self.vec.poison = []) (htf : s.self.tf = false) (hj : live s.self f.msk j)
    (hbelow : ∀ m < j, live s.self f.msk m → op m = .val (val m).1 (val m).2 ∧ s.self.trapping (val m).2 = false)
    (hstop : stopOf s.self j (op j) = some (c, v, own)) (hc : c = causeFpTrap ∨ c = causeIdivZero) :
    exec i s = .next (s.modSelf fun k =>
      (elementsStopped record (k.activeBit f.msk) (f.mz == 1) d val j own k).enterTrap false c v k.pc) := by
  obtain ⟨m, srcs, he, hm⟩ := h
  obtain ⟨hfrom, hlt, hactive⟩ := hj
  rw [if_neg (by omega)] at hm
  have hend := hm.trans (vElements_stop hp hfrom hlt hactive (fun m h1 h2 h3 => hbelow m h2 ⟨h1, h2.trans hlt, h3⟩) hstop)
  rw [he, finish_trap hend, State.modSelf_modSelf, trapsAt_instruction hc]
  · exact congrArg Host.Outcome.next (State.modSelf_congr s rfl)
  · rw [State.modSelf_self, Core.tf, Core.tstatus, elementsStopped_csrAt _ _ _ _ _ _ _ _ (by decide)]
    exact htf

variable {α : Type} {get : VecUnit → Nat → α} {dec : Nat → α} {zero : α} {kept : VecUnit → VecUnit → Prop}

/-- R231: what an instruction leaves that no element stops. -/
theorem RunsElements.completes (h : RunsElements s i f record d tail op)
    (D : Destination d (s.self.vrows * s.self.vcols) tail get dec zero kept) (hp : s.self.vec.poison = [])
    (hop : ∀ j, live s.self f.msk j → op j = .val (val j).1 (val j).2 ∧ s.self.trapping (val j).2 = false) :
    let k := s.self
    ∃ t, exec i s = .next t ∧ onlyVector s t ∧ onlyFlagCsrs k t.self ∧ kept k.vec t.self.vec ∧ gainsFlags k t.self f.msk val ∧
      t.self.pc = (k.retire 8).pc ∧ (k.vrows * k.vcols ≠ 0 → t.self.csrAt 0x003 = 0) ∧
      ∀ j < k.vrows * k.vcols,
        (live k f.msk j → get t.self.vec j = dec (val j).1) ∧
        (¬live k f.msk j → get t.self.vec j = if f.mz = 1 ∧ k.vstart ≤ j then zero else get k.vec j) := by
  intro k
  by_cases hn : k.vrows * k.vcols = 0
  · have hnone : ∀ j, ¬live k f.msk j := fun j hj => absurd hj.2.1 (by omega)
    refine ⟨_, h.exec_empty hn, onlyVector_retire (g := id) rfl, ?_⟩
    rw [State.modSelf_self]
    refine ⟨onlyFlagCsrs_retire fun _ _ => rfl, ?_, fun b => ?_, rfl, fun h0 => absurd hn h0, fun j hj => absurd hj (by omega)⟩
    · rw [Core.retire_vec]
      exact D.refl _
    · rw [Core.fflags, retire_csrAt_low (by decide)]
      exact ⟨.inl, fun hb => hb.resolve_right fun ⟨j, hj, _⟩ => hnone j hj⟩
  · refine ⟨_, h.exec_done hp hn hop, onlyVector_retire (elementsDone_eq ..), ?_⟩
    rw [State.modSelf_self]
    refine ⟨onlyFlagCsrs_retire fun m hm => Core.elementsDone_csrAt hm, ?_, fun b => ?_,
      (elementsDone_sameThread ..).retire_pc 8, fun _ => (retire_csrAt_low (by decide)).trans Core.elementsDone_vstart, fun j hj => ?_⟩
    · rw [Core.retire_vec]
      exact D.kept_done
    · rw [Core.fflags, retire_csrAt_low (by decide)]
      refine (elementsDone_flag ..).trans (or_congr_right (exists_congr fun j => ?_))
      rw [live, and_assoc, and_assoc]
      rfl
    · rw [Core.retire_vec, allDone, D.get_done hj (.inr ⟨rfl, rfl⟩)]
      refine ⟨fun hl => ?_, fun hl => ?_⟩
      · rw [if_pos ⟨hl.1, hj⟩]
        exact if_pos hl.2.2
      · by_cases hfrom : k.vstart ≤ j
        · rw [if_pos ⟨hfrom, hj⟩]
          refine (if_neg fun ha => hl ⟨hfrom, hj, ha⟩).trans ?_
          simp only [beq_iff_eq, hfrom, and_true]
          rfl
        · rw [if_neg fun hc => hfrom hc.1, if_neg fun hc => hfrom hc.2]

/-- R232: what an instruction leaves that element j stops. -/
theorem RunsElements.stops {j c : Nat} {v : Word} {own : Flags} (h : RunsElements s i f record d tail op)
    (D : Destination d (s.self.vrows * s.self.vcols) tail get dec zero kept) (hp : s.self.vec.poison = [])
    (htf : s.self.tf = false) (hj : live s.self f.msk j)
    (hbelow : ∀ m < j, live s.self f.msk m → op m = .val (val m).1 (val m).2 ∧ s.self.trapping (val m).2 = false)
    (hstop : stopOf s.self j (op j) = some (c, v, own)) (hc : c = causeFpTrap ∨ c = causeIdivZero) :
    stops s i f (fun k => get k.vec) zero (fun m => (dec (val m).1, (val m).2)) (fun k l => kept k.vec l.vec) j c v own := by
  have hflags := elementsDone_flag s.self record j (s.self.activeBit f.msk) (f.mz == 1) d false val
  obtain ⟨u, cs', hcore⟩ := elementsStopped_fields s.self record (s.self.activeBit f.msk) (f.mz == 1) d val j own
  refine ⟨_, h.exec_stopped hp htf hj hbelow hstop hc,
    stoppedAt_enterTrap _ _ (elementsStopped_vstart ..) (elementsStopped_csrAt _ _ _ _ _ _ _ _ (by decide)),
    State.modSelf_congr s (by rw [State.modSelf_self]), ?_⟩
  rw [State.modSelf_self]
  obtain ⟨cs, fr, pc, hentry⟩ := enterTrap_fields (elementsStopped record (s.self.activeBit f.msk) (f.mz == 1) d val j own s.self) c v
    s.self.pc
  beta_reduce
  refine ⟨?_, ?_, fun b => ?_, fun m hm => ?_⟩
  · rw [hentry]
    exact D.kept_done
  · rw [hentry, hcore]
  · rw [Core.fflags, enterTrap_csrAt _ _ _ _ (by decide), elementsStopped_fflags, BitVec.getLsbD_or, Bool.or_eq_true,
      getLsbD_flagWord, hflags, or_assoc, or_comm (b := own.getLsbD b = true)]
    refine or_congr_right (or_congr_right (exists_congr fun m => ?_))
    refine ⟨fun ⟨h1, h2, h3, h4⟩ => ⟨h2, ⟨h1, h2.trans hj.2.1, h3⟩, h4⟩, fun ⟨h1, h2, h3⟩ => ⟨h2.1, h1, h2.2.2, h3⟩⟩
  · rw [hentry]
    have hget := D.get_done (k := s.self) (record := record) (m := j) (active := s.self.activeBit f.msk) (mz := f.mz == 1) (val := val)
      (tl := false) hm (.inl rfl)
    rw [← elementsStopped_vec (own := own)] at hget
    rw [hget]
    refine ⟨fun hlt hl => ?_, fun hlt hl => ?_, fun hge => if_neg fun hc => absurd hc.2 (by omega)⟩
    · rw [if_pos ⟨hl.1, hlt⟩]
      exact if_pos hl.2.2
    · by_cases hfrom : s.self.vstart ≤ m
      · rw [if_pos ⟨hfrom, hlt⟩]
        refine (if_neg fun ha => hl ⟨hfrom, hm, ha⟩).trans ?_
        simp only [beq_iff_eq, hfrom, and_true]
      · rw [if_neg fun hc => hfrom hc.1, if_neg fun hc => hfrom hc.2]

end runs

end Sys2Proof.Proofs
end

section
/-! The destinations of element-wise forms read back, and the issue checks from what the statements say of the operands. -/

namespace Sys2Proof.Proofs
open Sys2Proof.Machine Sys2Proof.Claim

/-! ### A register (R80) -/

/-- Element j of width w of a register. -/
def regElem (code w : Nat) (u : VecUnit) (j : Nat) : Nat := fld (u.bitsOf code) (w * j) w

/-- No register but this one differs, and no mask. -/
def onlyReg (code : Nat) (u v : VecUnit) : Prop := (∀ c, c ≠ code → c < 42 → v.bitsOf c = u.bitsOf c) ∧ v.m = u.m

theorem onlyRegister_iff (k l : Core) (code : Nat) : onlyRegister k l code ↔ onlyReg code k.vec l.vec := Iff.rfl

theorem writeReg_m (u : VecUnit) (sl code w tag : Nat) (res : List (Nat × Nat)) (tl : Option Nat) :
    (u.writeReg sl code w tag res tl).m = u.m := by
  unfold VecUnit.writeReg VecUnit.wrote VecUnit.setBits
  dsimp only
  split <;> rfl

theorem onlyReg_vwrite (l : Core) (code w off : Nat) (res : List (Nat × Nat)) (tl : Option Nat) :
    onlyReg code l.vec (l.vwrite (.vec code w off) res tl).vec :=
  ⟨fun _ hc _ => VecUnit.writeReg_bitsOf_other hc, writeReg_m ..⟩

/-- An element of a register written (R80), the tail cleared from n on or not at all. -/
theorem regElem_writeReg {u : VecUnit} {sl code w tag j : Nat} {res : List (Nat × Nat)} {tl : Option Nat} (hc : code < 42)
    (hj : w * j + w ≤ codeBits code) (ht : ∀ n, tl = some n → j < n) :
    regElem code w (u.writeReg sl code w tag res tl) j =
      (res.reverse.find? (·.1 == j)).elim (regElem code w u j) fun r => r.2 % 2 ^ w := by
  rw [regElem, VecUnit.writeReg_elem hc hj ht]
  cases res.reverse.find? (·.1 == j) <;> rfl

/-- An entry moved by an offset is found at the moved index. -/
theorem find_moved (off j : Nat) (res : List (Nat × Nat)) :
    (res.map fun r => (r.1 + off, r.2)).find? (·.1 == off + j) = (res.find? (·.1 == j)).map fun r => (r.1 + off, r.2) := by
  rw [List.find?_map]
  congr 2
  funext r
  simp only [Function.comp_apply, Bool.beq_eq_decide_eq]
  exact decide_eq_decide.mpr (by omega)

theorem destination_vec {code w off n : Nat} {tail : Bool} (hc : code < 42) (hfit : ∀ j < n, w * (off + j) + w ≤ codeBits code)
    (hoff : tail = true → off = 0) :
    Destination (.vec code w off) n tail (fun u j => regElem code w u (off + j)) (· % 2 ^ w) 0 (onlyReg code) where
  dec_zero := Nat.zero_mod _
  refl := fun _ => ⟨fun _ _ _ => rfl, rfl⟩
  beside := fun l => onlyReg_vwrite l code w off
  read := by
    intro l res tl j hj htl
    have hcut : ∀ m, tl = some m → off + j < m := by
      intro m hm
      rcases htl with rfl | ⟨ht, rfl⟩
      · cases hm
      · cases hm
        rw [hoff ht]
        omega
    refine (regElem_writeReg hc (hfit j hj) hcut).trans ?_
    rw [← List.map_reverse, find_moved]
    cases res.reverse.find? (·.1 == j) <;> rfl

/-! ### A mask (R83) -/

/-- No register differs, and no mask but this one. -/
def onlyMask (m : Nat) (u v : VecUnit) : Prop :=
  (∀ c, c < 42 → v.bitsOf c = u.bitsOf c) ∧ ∀ d < 8, d ≠ m → v.m[d]? = u.m[d]?

/-- What a number written to a bit reads as. -/
def bitOf (v : Nat) : Bool := decide (v % 2 = 1)

theorem maskBit_eq_fld (u : VecUnit) {m : Nat} (hm : 0 < m) (j : Nat) :
    u.maskBit m j = bitOf (fld ((u.m[m]?).getD 0).toNat (1 * j) 1) := by
  have h0 : (m == 0) = false := beq_eq_false_iff_ne.mpr (by omega)
  rw [VecUnit.maskBit, h0, Bool.false_or, BitVec.getLsbD, Nat.testBit_eq_decide_div_mod_eq, bitOf, fld, Nat.one_mul, pow_one,
    Nat.mod_mod]

theorem onlyMask_vwrite (l : Core) (m : Nat) (res : List (Nat × Nat)) (tl : Option Nat) :
    onlyMask m l.vec (l.vwrite (.mask m) res tl).vec :=
  ⟨fun _ _ => rfl, fun _ _ hd => Vector.getElem?_setIfInBounds_ne (Ne.symm hd)⟩

/-- A bit at or above a bound does not survive it. -/
theorem fld_mod_above {v j n : Nat} (h : n ≤ j) : fld (v % 2 ^ n) (1 * j) 1 = 0 := by
  have hlt : v % 2 ^ n < 2 ^ (1 * j) :=
    (Nat.mod_lt _ (Nat.two_pow_pos n)).trans_le (Nat.pow_le_pow_right (by decide) (by omega))
  rw [fld, Nat.div_eq_of_lt hlt, Nat.zero_mod]

/-- A bit of a number of bits that holds its place. -/
theorem fld_ofNat {v j N : Nat} (h : j < N) : fld (BitVec.ofNat N v).toNat (1 * j) 1 = fld v (1 * j) 1 := by
  have hmod := fld_mod (v := v) (w := 1) h
  rwa [Nat.mul_one, ← BitVec.toNat_ofNat] at hmod

/-- A bit of a mask written: the entry that names it, else what it was; nothing from n on where the tail is cleared. -/
theorem maskBit_writeMask {u : VecUnit} {sl cols m j : Nat} {res : List (Nat × Nat)} {tl : Option Nat} (hm : 0 < m) (h8 : m < 8)
    (hj : j < 65536) :
    (u.writeMask sl cols m res tl).maskBit m j =
      ((res.reverse.find? (·.1 == j)).elim (u.maskBit m j) (fun r => bitOf r.2) && tl.all (j < ·)) := by
  have hplain : bitOf (fld (putElems 1 ((u.m[m]?).getD 0).toNat res) (1 * j) 1) =
      (res.reverse.find? (·.1 == j)).elim (u.maskBit m j) fun r => bitOf r.2 := by
    rw [fld_putElems, maskBit_eq_fld u hm]
    cases res.reverse.find? (·.1 == j) with
    | none => rfl
    | some r => simp only [Option.elim_some, bitOf, pow_one, Nat.mod_mod]
  have hread : ∀ v, (u.writeMask sl cols m res tl).m[m]? = some (BitVec.ofNat 65536 v) →
      (u.writeMask sl cols m res tl).maskBit m j = bitOf (fld v (1 * j) 1) := by
    intro v hv
    rw [maskBit_eq_fld _ hm, hv, Option.getD_some, fld_ofNat hj]
  cases tl with
  | none =>
    rw [hread _ (Vector.getElem?_setIfInBounds_self_of_lt h8), hplain, Option.all_none, Bool.and_true]
  | some n =>
    rw [hread _ (Vector.getElem?_setIfInBounds_self_of_lt h8), Option.all_some]
    by_cases hn : j < n
    · have hbelow := fld_mod (v := putElems 1 ((u.m[m]?).getD 0).toNat res) (w := 1) hn
      rw [Nat.mul_one] at hbelow
      rw [hbelow, hplain, decide_eq_true hn, Bool.and_true]
    · rw [fld_mod_above (by omega), decide_eq_false hn, Bool.and_false]
      rfl

theorem destination_mask {m n : Nat} {tail : Bool} (hm : 0 < m) (h8 : m < 8) (hn : n ≤ 65536) :
    Destination (.mask m) n tail (·.maskBit m) bitOf false (onlyMask m) where
  dec_zero := rfl
  refl := fun _ => ⟨fun _ _ => rfl, fun _ _ _ => rfl⟩
  beside := fun l => onlyMask_vwrite l m
  read := by
    intro l res tl j hj htl
    have hall : tl.all (j < ·) = true := by
      rcases htl with rfl | ⟨-, rfl⟩
      · rfl
      · exact decide_eq_true hj
    exact (maskBit_writeMask hm h8 (by omega)).trans (by rw [hall, Bool.and_true])

/-! ### A WAC96 group (R66, R80) -/

/-- Element j of the group of three registers from a code on. -/
def groupElem (code : Nat) (u : VecUnit) (j : Nat) : Int :=
  signed 96 (regElem code 32 u j + 2 ^ 32 * regElem (code + 1) 32 u j + 2 ^ 64 * regElem (code + 2) 32 u j)

/-- No register differs but the three of the group, and no mask. -/
def onlyGroup (code : Nat) (u v : VecUnit) : Prop :=
  v.m = u.m ∧ ∀ c, c < 42 → c < code ∨ code + 2 < c → v.bitsOf c = u.bitsOf c

theorem signed_mod (n v : Nat) : signed n (v % 2 ^ n) = signed n v := by
  simp only [signed, Nat.mod_mod]

/-- The three limbs of a number make it up modulo 2^96. -/
theorem limbs_eq (v : Nat) : fld v (32 * 0) 32 + 2 ^ 32 * fld v (32 * 1) 32 + 2 ^ 64 * fld v (32 * 2) 32 = v % 2 ^ 96 := by
  simp only [fld]
  omega

theorem regElem_writeReg_other {u : VecUnit} {sl code w tag c v j : Nat} {res : List (Nat × Nat)} {tl : Option Nat} (h : c ≠ code) :
    regElem c v (u.writeReg sl code w tag res tl) j = regElem c v u j := by
  rw [regElem, VecUnit.writeReg_bitsOf_other h, regElem]

/-- A limb of an element of a group written. -/
theorem regElem_writeLimb {u : VecUnit} {sl code tag j i : Nat} {res : List (Nat × Nat)} {tl : Option Nat} (hc : code < 32)
    (hj : 32 * j + 32 ≤ 262144) (ht : ∀ n, tl = some n → j < n) :
    regElem code 32 (u.writeReg sl code 32 tag (res.map fun r => (r.1, fld r.2 (32 * i) 32)) tl) j =
      (res.reverse.find? (·.1 == j)).elim (regElem code 32 u j) fun r => fld r.2 (32 * i) 32 := by
  rw [regElem_writeReg (by omega) (by rwa [codeBits, if_pos hc]) ht, ← List.map_reverse, List.find?_map]
  have hkey : ((fun r : Nat × Nat => r.1 == j) ∘ fun r : Nat × Nat => (r.1, fld r.2 (32 * i) 32)) =
      fun r => r.1 == j := rfl
  rw [hkey]
  cases res.reverse.find? (·.1 == j) with
  | none => rfl
  | some r => exact Nat.mod_mod _ _

theorem destination_group {code n : Nat} {tail : Bool} (hc : code ≤ 29) (hn : 32 * n ≤ 262144) :
    Destination (.wac code) n tail (groupElem code) (signed 96) 0 (onlyGroup code) where
  dec_zero := rfl
  refl := fun _ => ⟨rfl, fun _ _ _ => rfl⟩
  beside := by
    intro l res tl
    refine ⟨(writeReg_m ..).trans ((writeReg_m ..).trans (writeReg_m ..)), fun c hlt hout => ?_⟩
    exact (VecUnit.writeReg_bitsOf_other (by omega)).trans
      ((VecUnit.writeReg_bitsOf_other (by omega)).trans (VecUnit.writeReg_bitsOf_other (by omega)))
  read := by
    intro l res tl j hj htl
    have hcut : ∀ m, tl = some m → j < m := by
      intro m hm
      rcases htl with rfl | ⟨-, rfl⟩
      · cases hm
      · cases hm
        exact hj
    have hfit : 32 * j + 32 ≤ 262144 := by omega
    simp only [groupElem, Core.vwrite]
    rw [regElem_writeReg_other (c := code) (by omega), regElem_writeReg_other (c := code) (by omega),
      regElem_writeReg_other (c := code + 1) (by omega), regElem_writeLimb (code := code + 1) (by omega) hfit hcut,
      regElem_writeLimb (code := code + 2) (by omega) hfit hcut, regElem_writeReg_other (c := code + 1) (by omega),
      regElem_writeReg_other (c := code + 2) (by omega), regElem_writeReg_other (c := code + 2) (by omega)]
    rw [Nat.add_zero, regElem_writeLimb (code := code) (by omega) hfit hcut]
    cases res.reverse.find? (·.1 == j) with
    | none => rfl
    | some r =>
      simp only [Option.elim_some]
      rw [limbs_eq, signed_mod]

/-! ### Issue checks (R230) -/

/-- A vector register that an operand code of the list names. -/
def named (codes : List (BitVec 7)) (r : Nat) : Prop := ∃ c ∈ codes, c.getLsbD 6 = false ∧ c.toNat = r

theorem named_srcOf {codes : List (BitVec 7)} {c : BitVec 7} {w : BitVec 1} (h : c ∈ codes) :
    ∀ r ∈ srcOf c w, r.1 ≤ r.2.1 ∧ named codes r.2.1 := by
  intro r hr
  rw [srcOf] at hr
  split at hr
  · cases hr
  next hv =>
    rw [List.mem_singleton] at hr
    subst hr
    exact ⟨le_rfl, c, h, Bool.eq_false_iff.mpr hv, rfl⟩

theorem named_dstOf {codes : List (BitVec 7)} {c : BitVec 7} (h : c ∈ codes) : ∀ r ∈ dstOf c, named codes r := by
  intro r hr
  rw [dstOf] at hr
  split at hr
  · cases hr
  next hv =>
    rw [List.mem_singleton] at hr
    subst hr
    exact ⟨c, h, Bool.eq_false_iff.mpr hv, rfl⟩

/-- A code of a register file, of at most 41, is no scalar's. -/
theorem getLsbD_six {c : BitVec 7} (h : c.toNat < 64) : c.getLsbD 6 = false := by
  rw [BitVec.getLsbD, Nat.testBit_lt_two_pow (by simpa using h)]

/-- The three registers of a group. -/
theorem named_group {codes : List (BitVec 7)} {c : BitVec 7} (hc : c.toNat ≤ 29) (h : ∀ x ∈ group c, x ∈ codes) {j : Nat}
    (hj : j < 3) :
    named codes (c.toNat + j) := by
  have hv : c.getLsbD 6 = false := getLsbD_six (by omega)
  rw [group, hv, if_neg Bool.false_ne_true] at h
  have hadd : ∀ i : Nat, i < 3 → (c + BitVec.ofNat 7 i).toNat = c.toNat + i := by
    intro i hi
    rw [BitVec.toNat_add, BitVec.toNat_ofNat]
    omega
  have hmem : c + BitVec.ofNat 7 j ∈ codes := by
    obtain rfl | rfl | rfl : j = 0 ∨ j = 1 ∨ j = 2 := by omega
    · exact h _ (by simp)
    · exact h _ (by simp)
    · exact h _ (by simp)
  exact ⟨_, hmem, getLsbD_six (by rw [hadd j hj]; omega), hadd j hj⟩

theorem named_srcOf96 {codes : List (BitVec 7)} {c : BitVec 7} {w : BitVec 1} (hc : groups c) (h : ∀ x ∈ group c, x ∈ codes) :
    ∀ r ∈ srcOf96 c w, r.1 ≤ r.2.1 ∧ named codes r.2.1 := by
  intro r hr
  rw [srcOf96] at hr
  split at hr
  · cases hr
  next hv =>
    obtain ⟨j, hj, rfl⟩ := List.mem_map.mp hr
    exact ⟨Nat.le_add_right _ _, named_group (hc.resolve_right hv) h (List.mem_range.mp hj)⟩

theorem named_dstOf96 {codes : List (BitVec 7)} {c : BitVec 7} (hc : c.toNat ≤ 29) (h : ∀ x ∈ group c, x ∈ codes) :
    ∀ r ∈ dstOf96 c, named codes r := by
  intro r hr
  obtain ⟨j, hj, rfl⟩ := List.mem_map.mp hr
  exact named_group hc h (List.mem_range.mp hj)

section admits
variable {s : State} {ew : Nat} {codes : List (BitVec 7)} (h : admits s ew codes)
include h

theorem admits_named {r : Nat} (hr : named codes r) :
    s.self.vec.state r = .full ∧ r < 42 ∧ (r < 32 ∨ s.self.vrows * s.self.vcols ≤ 1024) := by
  obtain ⟨c, hc, hv, rfl⟩ := hr
  obtain ⟨-, -, -, -, -, hreg⟩ := h
  exact hreg c hc hv

/-- The issue checks pass: the registers they look at are among the operands. -/
theorem issues_of_admits {q : Issue} (hew : ew ≤ 5) (hq : q.ew = none ∨ q.ew = some ew)
    (hsrcs : ∀ r ∈ q.srcs, r.1 ≤ r.2.1 ∧ named codes r.2.1) (hdsts : ∀ d ∈ q.dsts, named codes d) : Issues s.self q := by
  have hreg := fun {r} => admits_named h (r := r)
  obtain ⟨hewc, hscope, hshape, -⟩ := h
  refine { ew := hewc ▸ hew, scope := hscope, width := hewc ▸ hq, shape := hshape, small := ?_
           srcs := fun r hr => (hreg (hsrcs r hr).2).1, dsts := fun d hd => (hreg (hdsts d hd)).1 }
  by_cases hn : s.self.vrows * s.self.vcols ≤ 1024
  · exact .inl hn
  · exact .inr ⟨fun r hr => (hsrcs r hr).1.trans_lt ((hreg (hsrcs r hr).2).2.2.resolve_right hn),
      fun d hd => (hreg (hdsts d hd)).2.2.resolve_right hn⟩

/-- The shape fits the registers (R79, R230). -/
theorem admits_shape : s.self.vrows * s.self.vcols * shapeWidth ew ≤ 262144 := by
  obtain ⟨rfl, -, hshape, hcap, -⟩ := h
  simp only [Core.shapeOk, Bool.and_eq_true, decide_eq_true_eq] at hshape
  exact hshape.2.trans hcap

/-- The elements of the shape lie inside every register of the operands. -/
theorem admits_fits {w r : Nat} (hr : named codes r) (hw : w ≤ shapeWidth ew) (h64 : w ≤ 64) :
    ∀ j < s.self.vrows * s.self.vcols, w * j + w ≤ codeBits r := by
  intro j hj
  have hshape := admits_shape h
  rw [← Nat.mul_succ, codeBits]
  split
  · calc w * (j + 1) ≤ shapeWidth ew * (s.self.vrows * s.self.vcols) := Nat.mul_le_mul hw hj
      _ ≤ 262144 := by rwa [Nat.mul_comm]
  next hr32 =>
    calc w * (j + 1) ≤ 64 * 1024 := Nat.mul_le_mul h64 ((Nat.succ_le_of_lt hj).trans ((admits_named h hr).2.2.resolve_left hr32))
      _ = 65536 := rfl

theorem admits_readOpnd {c : BitVec 7} (hc : c ∈ codes) : readOpnd c s = .ok (s.self.opnd c) s :=
  readOpnd_ok (h.2.2.2.2.1 c hc)

end admits

theorem shapeWidth_ETew {t : ET} (h : t ≠ .wac) : shapeWidth (ETew t) = ETwidth t := by
  cases t with
  | wac => exact absurd rfl h
  | _ => rfl

theorem ETwidth_le {t : ET} (h : t ≠ .wac) : ETwidth t ≤ 64 := by
  cases t with
  | wac => exact absurd rfl h
  | _ => decide

/-- Element j of a source operand at issue. -/
theorem opnd_elem (k : Core) (c : BitVec 7) (w j : Nat) : (k.opnd c).elem w j = source k c w j := by
  rw [Core.opnd, source]
  split <;> rfl

end Sys2Proof.Proofs
end

section
/-! The arithmetic, bitwise and one-source vector forms (O10, O11): each is `vForm` with the operation of its statement. -/

namespace Sys2Proof.Proofs
open Sys2Proof.Machine Sys2Proof.Claim

/-! ### The ordinary form (R231) -/

theorem ETew_le_five (t : ET) : ETew t ≤ 5 := by cases t <;> decide

/-- The operand codes of the sources of a form. -/
def sourceCodes (f : VA) (arity : Nat) : List (BitVec 7) := (vaSources f arity).map (·.1)

section vform
variable {s : State} {i : Instr} {f : VA} {arity : Nat} {word : Word} {op : Core → Nat → Nat → Nat → ElemOut}

theorem vForm_issues (h : issues s (ETew f.et) (f.vd :: sourceCodes f arity)) :
    Issues s.self (vaIssue word f ((vaSources f arity).flatMap fun q => srcOf q.1 q.2) (dstOf f.vd)) := by
  refine issues_of_admits h.1 (ETew_le_five _) (.inr rfl) (fun r hr => ?_) (named_dstOf List.mem_cons_self)
  obtain ⟨q, hq, hr⟩ := List.mem_flatMap.mp hr
  exact named_srcOf (List.mem_cons_of_mem _ (List.mem_map_of_mem hq)) r hr

/-- A form of one, two or three sources is the loop over its elements; a source it lacks is 0. -/
theorem vForm_runs (he : exec i s = finish 8 (vForm word f arity op) s) (h : issues s (ETew f.et) (f.vd :: sourceCodes f arity))
    (ha : arity = 1 ∨ arity = 2 ∨ arity = 3) :
    RunsElements s i f (ETflt f.et) (.vec f.vd.toNat (ETwidth f.et) 0) true fun j =>
      op s.self (source s.self f.va (ETwidth f.et) j) (if 2 ≤ arity then source s.self f.vb (ETwidth f.et) j else 0)
        (if 3 ≤ arity then source s.self f.vc (ETwidth f.et) j else 0) := by
  have hq := vForm_issues (word := word) h
  have hread : ∀ c ∈ sourceCodes f arity, readOpnd c s = .ok (s.self.opnd c) s := fun c hc =>
    admits_readOpnd h.1 (List.mem_cons_of_mem _ hc)
  refine ⟨vForm word f arity op, plainSources (sourceCodes f arity) (ETwidth f.et) ++ maskSource f.msk, he, ?_⟩
  have hzero : ∀ j, (Opnd.bcast 0).elem (ETwidth f.et) j = 0 := fun _ => Nat.zero_mod _
  rcases ha with rfl | rfl | rfl
  · have hva := hread f.va (by simp [sourceCodes, vaSources])
    simp only [vForm, X.bind_apply, X.pure_apply, hva, vIssue_ok hq, X.self_apply, X.ite_apply, opnd_elem, hzero,
      Nat.reduceLeDiff, if_false]
    rfl
  · have hva := hread f.va (by simp [sourceCodes, vaSources])
    have hvb := hread f.vb (by simp [sourceCodes, vaSources])
    simp only [vForm, X.bind_apply, X.pure_apply, hva, hvb, vIssue_ok hq, X.self_apply, X.ite_apply, opnd_elem, hzero,
      Nat.reduceLeDiff, le_refl, if_true, if_false]
    rfl
  · have hva := hread f.va (by simp [sourceCodes, vaSources])
    have hvb := hread f.vb (by simp [sourceCodes, vaSources])
    have hvc := hread f.vc (by simp [sourceCodes, vaSources])
    simp only [vForm, X.bind_apply, X.pure_apply, hva, hvb, hvc, vIssue_ok hq, X.self_apply, X.ite_apply, opnd_elem,
      Nat.reduceLeDiff, le_refl, if_true]
    rfl

end vform

/-! ### Element-wise forms that write a register (R231, R232) -/

section register
variable {s : State} {i : Instr} {f : VA} {record tail : Bool} {op : Nat → ElemOut} {val : Nat → Nat × Flags} {w off : Nat}
  {codes : List (BitVec 7)}

/-- An element whose flags are enabled stops its form with FP_TRAP (R358). -/
theorem stopOf_val {k : Core} {j v : Nat} {fl : Flags} (h : k.trapping fl = true) :
    stopOf k j (.val v fl) = some (0x0C, toWord ((fl.extractLsb' 0 5).toNat + j % 2 ^ 16 * 2 ^ 16 + 2 ^ 63), 0) := by
  rw [stopOf, if_pos h, fpTrapValue, if_pos rfl]
  rfl

/-- Below the lowest element that raises an enabled flag none stops. -/
theorem RunsElements.stopsOnFlags {α : Type} {get : VecUnit → Nat → α} {dec : Nat → α} {zero : α} {kept : VecUnit → VecUnit → Prop}
    {d : Dst} (h : RunsElements s i f record d tail op) (D : Destination d (s.self.vrows * s.self.vcols) tail get dec zero kept)
    (hp : s.self.vec.poison = []) (hop : ∀ j, live s.self f.msk j → op j = .val (val j).1 (val j).2) :
    stopsOnFlags s i f (fun k => get k.vec) zero (fun m => (dec (val m).1, (val m).2)) fun k l => kept k.vec l.vec := by
  intro j htf hj ht hbelow
  exact h.stops D hp htf hj (fun m hm hl => ⟨hop m hl, hbelow m hm hl⟩) (by rw [hop j hj, stopOf_val ht]) (.inl rfl)

theorem destination_register (h : admits s (ETew f.et) codes) (hvd : f.vd ∈ codes) (hv : f.vd.getLsbD 6 = false) (hw : f.et ≠ .wac) :
    Destination (.vec f.vd.toNat (ETwidth f.et) 0) (s.self.vrows * s.self.vcols) true
      (fun u j => regElem f.vd.toNat (ETwidth f.et) u (0 + j)) (· % 2 ^ ETwidth f.et) 0 (onlyReg f.vd.toNat) :=
  have hn : named codes f.vd.toNat := ⟨_, hvd, hv, rfl⟩
  destination_vec (admits_named h hn).2.1
    (fun j hj => by rw [Nat.zero_add]; exact admits_fits h hn (by rw [shapeWidth_ETew hw]) (ETwidth_le hw) j hj) fun _ => rfl

/-- A form that is the loop over its elements, each with a value, is element-wise. -/
theorem elementwise_of_runs (hw : f.et ≠ .wac)
    (hrun : issues s (ETew f.et) (f.vd :: codes) → RunsElements s i f record (.vec f.vd.toNat (ETwidth f.et) 0) true op)
    (hop : ∀ j, live s.self f.msk j → op j = .val (val j).1 (val j).2) : elementwise s i f codes val := by
  intro hi hv
  have D := destination_register hi.1 List.mem_cons_self hv hw
  simp only [Nat.zero_add] at D
  exact ⟨fun ht => (hrun hi).completes D hi.2 fun j hj => ⟨hop j hj, ht j hj⟩, (hrun hi).stopsOnFlags D hi.2 hop⟩

end register

section forms
variable {s : State} {i : Instr} {f : VA} {word : Word} {op : Core → Nat → Nat → Nat → ElemOut} {val : Nat → Nat × Flags}

theorem elementwise_one (hw : f.et ≠ .wac) (he : exec i s = finish 8 (vForm word f 1 op) s)
    (hop : ∀ j, op s.self (source s.self f.va (ETwidth f.et) j) 0 0 = .val (val j).1 (val j).2) :
    elementwise s i f [f.va] val :=
  elementwise_of_runs hw (fun hi => vForm_runs he hi (.inl rfl)) fun j _ => hop j

theorem elementwise_two (hw : f.et ≠ .wac) (he : exec i s = finish 8 (vForm word f 2 op) s)
    (hop : ∀ j, op s.self (source s.self f.va (ETwidth f.et) j) (source s.self f.vb (ETwidth f.et) j) 0 =
      .val (val j).1 (val j).2) : elementwise s i f [f.va, f.vb] val :=
  elementwise_of_runs hw (fun hi => vForm_runs he hi (.inr (.inl rfl))) fun j _ => hop j

theorem elementwise_three (hw : f.et ≠ .wac) (he : exec i s = finish 8 (vForm word f 3 op) s)
    (hop : ∀ j, op s.self (source s.self f.va (ETwidth f.et) j) (source s.self f.vb (ETwidth f.et) j)
      (source s.self f.vc (ETwidth f.et) j) = .val (val j).1 (val j).2) : elementwise s i f [f.va, f.vb, f.vc] val :=
  elementwise_of_runs hw (fun hi => vForm_runs he hi (.inr (.inr rfl))) fun j _ => hop j

end forms

/-! ### Arithmetic (R234, R235) -/

theorem numOp_eq (t : ET) (iop : Int → Int → Int → Int) (fop : FpFmt → BitVec 2 → Nat → Nat → Nat → Nat × Flags) (k : Core)
    (a b c : Nat) : numOp t iop fop k a b c =
      let r := num t (iop (intVal t a) (intVal t b) (intVal t c)) fun F => fop F k.rm a b c
      .val r.1 r.2 := by
  unfold numOp num
  cases ETfmt t <;> rfl

/-- No integer type has a format. -/
theorem ETfmt_of_int {t : ET} (h : ETint t = true) : ETfmt t = none := by
  revert h
  cases t <;> decide

theorem ETfmt_of_flt {t : ET} (h : ETflt t = true) : ∃ F, ETfmt t = some F := by
  refine Option.isSome_iff_exists.mp ?_
  revert h
  cases t <;> decide

theorem ne_wac_of_num {t : ET} (h : ETint t = true ∨ ETflt t = true) : t ≠ .wac := by
  rintro rfl
  simp [ETint, ETflt] at h

/-- FPEN enables floating-point flags alone (R358). -/
theorem trapping_of_fields {k : Core} {fl : Flags} (h : fl.extractLsb' 0 5 = 0#5) : k.trapping fl = false := by
  rw [Core.trapping, h, BitVec.zero_and]
  rfl

theorem trapping_zero (k : Core) : k.trapping 0 = false := trapping_of_fields rfl
theorem trapping_IDZ (k : Core) : k.trapping flagIDZ = false := trapping_of_fields rfl

section division
variable {f : VA} {s : State}

/-- The quotient of element j and its flags (R235). -/
def quotient (f : VA) (s : State) (j : Nat) : Nat × Flags :=
  let w := ETwidth f.et
  let a := source s.self f.va w j
  let b := source s.self f.vb w j
  if ETint f.et = true ∧ b = 0 then (2 ^ w - 1, flagIDZ)
  else num f.et ((intVal f.et a).tdiv (intVal f.et b)) fun F => F.div s.self.rm a b

/-- The operation of VDIV (R235). -/
def divOp (f : VA) (k : Core) (a b c : Nat) : ElemOut :=
  if ETint f.et then divElem (Instr.word (.vdiv f)) f.et k a b
  else numOp f.et (fun a _ _ => a) (fun F rm a b _ => F.div rm a b) k a b c

theorem vdiv_runs (h : issues s (ETew f.et) [f.vd, f.va, f.vb]) :
    RunsElements s (.vdiv f) f (ETflt f.et) (.vec f.vd.toNat (ETwidth f.et) 0) true fun j =>
      divOp f s.self (source s.self f.va (ETwidth f.et) j) (source s.self f.vb (ETwidth f.et) j) 0 :=
  vForm_runs (i := .vdiv f) (arity := 2) (op := divOp f) rfl h (.inr (.inl rfl))

/-- An element that VDIV does not divide by zero under IDZT.EN = 1 takes its quotient. -/
theorem divOp_eq {j : Nat} (hf : ETint f.et = true ∨ ETflt f.et = true)
    (h : ¬(ETint f.et = true ∧ (s.self.csrAt 0x110).getLsbD 0 = true) ∨ source s.self f.vb (ETwidth f.et) j ≠ 0) :
    divOp f s.self (source s.self f.va (ETwidth f.et) j) (source s.self f.vb (ETwidth f.et) j) 0 =
      .val (quotient f s j).1 (quotient f s j).2 := by
  rw [divOp, quotient]
  by_cases hint : ETint f.et = true
  · simp only [hint, if_true, true_and]
    by_cases hb : source s.self f.vb (ETwidth f.et) j = 0
    · have hen : ¬(s.self.csrAt 0x110).getLsbD 0 = true := fun he => (h.resolve_right (· hb)) ⟨hint, he⟩
      rw [divElem, if_pos hb, if_neg hen, if_pos hb]
    · rw [divElem, if_neg hb, if_neg hb, num, ETfmt_of_int hint]
  · obtain ⟨F, hF⟩ := ETfmt_of_flt (hf.resolve_left hint)
    simp only [hint, if_false, false_and, Bool.false_eq_true, numOp, num, hF]
    rfl

/-- A division by zero under IDZT.EN = 1 stops the form before it is written (R232). -/
theorem stopOf_divOp {j a b : Nat} (hint : ETint f.et = true) (hen : (s.self.csrAt 0x110).getLsbD 0 = true) (hb : b = 0) :
    stopOf s.self j (divOp f s.self a b 0) = some (0x0D, Instr.word (.vdiv f), flagIDZ) := by
  rw [divOp, if_pos hint, divElem, if_pos hb, if_pos hen]
  rfl

/-- An integer quotient raises no flag that FPEN enables. -/
theorem trapping_quotient (hint : ETint f.et = true) (j : Nat) : s.self.trapping (quotient f s j).2 = false := by
  rw [quotient, num, ETfmt_of_int hint]
  dsimp only
  split
  · exact trapping_IDZ _
  · exact trapping_zero _

end division

/-- Settles O10: each form is the loop of `vForm` with the operation of the statement; what an element that stops leaves is
that of the loop up to it, and VDIV by zero is the one stop that is not of a flag. -/
theorem vectorArithmetic : Obligations.VectorArithmetic := by
  intro f s hf _ k w a b c v two three
  have hw := ne_wac_of_num hf
  refine ⟨elementwise_two hw rfl fun _ => numOp_eq .., elementwise_two hw rfl fun _ => numOp_eq ..,
    elementwise_two hw rfl fun _ => numOp_eq .., fun _ => elementwise_two hw rfl fun _ => numOp_eq ..,
    elementwise_two hw rfl fun _ => numOp_eq .., elementwise_two hw rfl fun _ => numOp_eq ..,
    elementwise_three hw rfl fun _ => numOp_eq .., elementwise_three hw rfl fun _ => numOp_eq ..,
    elementwise_three hw rfl fun _ => numOp_eq .., fun h => ?_, fun j hz htf hi hv hj hb hbelow => ?_⟩
  · exact elementwise_of_runs hw vdiv_runs fun j hj => divOp_eq hf (h.imp_right fun hz => hz j hj)
  · have D := destination_register hi.1 List.mem_cons_self hv hw
    simp only [Nat.zero_add] at D
    exact (vdiv_runs hi).stops D hi.2 htf hj
      (fun m hm hl => ⟨divOp_eq hf (.inr (hbelow m hm hl)), trapping_quotient hz.1 m⟩) (stopOf_divOp hz.1 hz.2 hb) (.inr rfl)

/-! ### Bitwise, shift, counting and one-source forms (R235, R236) -/

/-- Results are taken modulo 2^w. -/
theorem elementwise_low {s : State} {i : Instr} {f : VA} {codes : List (BitVec 7)} {val : Nat → Nat × Flags} :
    elementwise s i f codes (low (ETwidth f.et) val) ↔ elementwise s i f codes val := by
  have hlow : low (ETwidth f.et) (low (ETwidth f.et) val) = low (ETwidth f.et) val := funext fun j =>
    Prod.ext (Nat.mod_mod _ _) rfl
  have hmod : ∀ j, (low (ETwidth f.et) val j).1 % 2 ^ ETwidth f.et = (val j).1 % 2 ^ ETwidth f.et := fun j => Nat.mod_mod _ _
  have hflags : ∀ j, (low (ETwidth f.et) val j).2 = (val j).2 := fun _ => rfl
  simp only [elementwise, gainsFlags, hlow, hmod, hflags]

section bits
variable {s : State} {i : Instr} {f : VA} {word : Word}

theorem elementwise_congr {codes : List (BitVec 7)} {val val' : Nat → Nat × Flags}
    (he : elementwise s i f codes val) (h : ∀ j, (val j).1 % 2 ^ ETwidth f.et = (val' j).1 % 2 ^ ETwidth f.et)
    (hf : ∀ j, (val j).2 = (val' j).2) : elementwise s i f codes val' := by
  have hlow : low (ETwidth f.et) val = low (ETwidth f.et) val' := funext fun j => Prod.ext (h j) (hf j)
  exact elementwise_low.mp (hlow ▸ elementwise_low.mpr he)

/-- A form on the bits of two elements. -/
theorem elementwise_bits_two (op : Nat → Nat → Nat → Nat) (hw : f.et ≠ .wac)
    (he : exec i s = finish 8 (vForm word f 2 (bitOp f.et op)) s) :
    elementwise s i f [f.va, f.vb] fun j =>
      (op (ETwidth f.et) (source s.self f.va (ETwidth f.et) j) (source s.self f.vb (ETwidth f.et) j), 0) := by
  have h := elementwise_two hw he (val := fun j =>
    (op (ETwidth f.et) (source s.self f.va (ETwidth f.et) j) (source s.self f.vb (ETwidth f.et) j) % 2 ^ ETwidth f.et, 0)) fun _ => rfl
  exact elementwise_congr h (fun _ => Nat.mod_mod _ _) fun _ => rfl

/-- A form on the bits of one element. -/
theorem elementwise_bits_one (op : Nat → Nat → Nat → Nat) (hw : f.et ≠ .wac)
    (he : exec i s = finish 8 (vForm word f 1 (bitOp f.et op)) s) :
    elementwise s i f [f.va] fun j => (op (ETwidth f.et) (source s.self f.va (ETwidth f.et) j) 0, 0) := by
  have h := elementwise_one hw he (val := fun j =>
    (op (ETwidth f.et) (source s.self f.va (ETwidth f.et) j) 0 % 2 ^ ETwidth f.et, 0)) fun _ => rfl
  exact elementwise_congr h (fun _ => Nat.mod_mod _ _) fun _ => rfl

/-- A form over floating-point types alone: what its operation would do with an integer does not matter. -/
theorem elementwise_flt {iop : Int → Int → Int → Int} {int : Nat → Int} {fop : FpFmt → BitVec 2 → Nat → Nat → Nat → Nat × Flags}
    (hflt : ETflt f.et = true) (he : exec i s = finish 8 (vForm word f 1 (numOp f.et iop fop)) s) :
    elementwise s i f [f.va] fun j =>
      num f.et (int j) fun F => fop F s.self.rm (source s.self f.va (ETwidth f.et) j) 0 0 := by
  obtain ⟨F, hF⟩ := ETfmt_of_flt hflt
  refine elementwise_one (ne_wac_of_num (.inr hflt)) he fun j => ?_
  rw [numOp_eq, num, num, hF]

end bits

/-- Settles O11: the forms of O10 with the operations on bits, and the arithmetic of one source. -/
theorem vectorBitAndUnaryForms : Obligations.VectorBitAndUnaryForms := by
  intro f s _ k w a b v bits one
  refine ⟨fun hint => ?_, fun hf => ?_, fun hflt => ?_⟩
  · have hw := ne_wac_of_num (.inl hint)
    exact ⟨elementwise_bits_two (fun _ a b => a &&& b) hw rfl, elementwise_bits_two (fun _ a b => a ||| b) hw rfl,
      elementwise_bits_two (fun _ a b => a ^^^ b) hw rfl, elementwise_bits_two (fun w a b => a * 2 ^ (b % w)) hw rfl,
      elementwise_bits_two (fun w a b => a / 2 ^ (b % w)) hw rfl,
      elementwise_bits_two (fun w a b => wrap w (signed w a / 2 ^ (b % w))) hw rfl,
      elementwise_bits_one (fun w a _ => 2 ^ w - 1 - a) hw rfl, elementwise_bits_one (fun w a _ => leadingZeros w a) hw rfl,
      elementwise_bits_one (fun w a _ => popCount w a) hw rfl⟩
  · have hw := ne_wac_of_num hf
    exact ⟨elementwise_one hw rfl fun _ => numOp_eq .., elementwise_one hw rfl fun _ => numOp_eq ..⟩
  · exact ⟨elementwise_flt (fop := fun F rm a _ _ => F.sqrt rm a) hflt rfl,
      elementwise_flt (fop := fun F rm a _ _ => F.div rm F.one a) hflt rfl,
      elementwise_flt (fop := fun F rm a _ _ => F.rsqrt rm a) hflt rfl⟩

end Sys2Proof.Proofs
end

section
/-! Vector comparisons (O14): the truth of a condition, and the mask that takes it. -/

namespace Sys2Proof.Proofs
open Sys2Proof.Machine Sys2Proof.Claim

/-! ### The truth of a condition (R237) -/

theorem toInt_ofInt_signed {w : Nat} (hw : w ≤ 64) (v : Nat) : (BitVec.ofInt 64 (signed w v)).toInt = signed w v := by
  rw [signed_eq_toInt]
  exact BitVec.toInt_signExtend_of_le hw

/-- Elements of one width are equal when their signed values are. -/
theorem signed_inj {w a b : Nat} (ha : a < 2 ^ w) (hb : b < 2 ^ w) : signed w a = signed w b ↔ a = b := by
  refine ⟨fun h => ?_, congrArg _⟩
  rw [signed_eq_toInt, signed_eq_toInt, BitVec.toInt_inj] at h
  have hn := congrArg BitVec.toNat h
  rwa [BitVec.toNat_ofNat, BitVec.toNat_ofNat, Nat.mod_eq_of_lt ha, Nat.mod_eq_of_lt hb] at hn

theorem toNat_toWord_mod {w v : Nat} (hw : w ≤ 64) (hv : v < 2 ^ w) : (toWord (v % 2 ^ w)).toNat = v := by
  rw [Nat.mod_eq_of_lt hv, BitVec.toNat_ofNat, Nat.mod_eq_of_lt (hv.trans_le (Nat.pow_le_pow_right (by decide) hw))]

/-- Integers, compared as signed or unsigned numbers by the code. -/
theorem cmpElem_int {t : ET} {cc : CC} {a b : Nat} (ht : ETfmt t = none) (hw : ETwidth t ≤ 64) (ha : a < 2 ^ ETwidth t)
    (hb : b < 2 ^ ETwidth t) : cmpElem t cc a b = (if (compared t cc a b).1 then 1 else 0, (compared t cc a b).2) := by
  have hsigned := fun v => toInt_ofInt_signed hw v
  have ha' := toNat_toWord_mod hw ha
  have hb' := toNat_toWord_mod hw hb
  have heq : (BitVec.ofInt 64 (signed (ETwidth t) a) == BitVec.ofInt 64 (signed (ETwidth t) b)) = (a == b) := by
    rw [Bool.eq_iff_iff, beq_iff_eq, beq_iff_eq, ← BitVec.toInt_inj, hsigned, hsigned, signed_inj ha hb]
  cases cc with
  | eq => simp only [cmpElem, compared, ht, ccHolds, heq, Bool.false_eq_true, if_false]
  | ne => simp only [cmpElem, compared, ht, ccHolds, bne, heq, Bool.false_eq_true, if_false]
  | lt | ge | gt | le => simp only [cmpElem, compared, ht, ccHolds, hsigned, Bool.false_eq_true, if_false]
  | ltu | geu | gtu | leu => simp only [cmpElem, compared, ht, ccHolds, ha', hb', if_true]

/-- Values, by their order. -/
theorem cmpElem_flt {t : ET} {cc : CC} {a b : Nat} {F : FpFmt} (ht : ETfmt t = some F)
    (hcc : cc ≠ .ltu ∧ cc ≠ .geu ∧ cc ≠ .gtu ∧ cc ≠ .leu) :
    cmpElem t cc a b = (if (compared t cc a b).1 then 1 else 0, (compared t cc a b).2) := by
  have hsig : ∀ v : FVal, v.signals = true ↔ v = .nan true := by
    rintro (sig | neg | ⟨neg, m, e⟩) <;> simp [FVal.signals]
  obtain ⟨h1, h2, h3, h4⟩ := hcc
  have hloud : flagIf ((F.decode a).signals || (F.decode b).signals) flagNV =
      if F.decode a = .nan true ∨ F.decode b = .nan true then flagNV else 0 := by
    simp only [flagIf, Bool.or_eq_true, hsig]
  cases hn : (F.decode a).isNaN || (F.decode b).isNaN <;> cases ho : (F.decode a).cmp (F.decode b) <;> cases cc with
  | ltu | geu | gtu | leu => contradiction
  | eq | ne =>
    simp only [cmpElem, compared, ht, FpFmt.compare, hn, ho, hloud, true_or, or_true, if_true]
    rfl
  | lt | ge | gt | le =>
    simp only [cmpElem, compared, ht, FpFmt.compare, hn, ho]
    rfl

theorem cmpElem_eq {t : ET} {cc : CC} {a b : Nat} (ht : ETint t = true ∨ ETflt t = true)
    (hcc : ETflt t = true → cc ≠ .ltu ∧ cc ≠ .geu ∧ cc ≠ .gtu ∧ cc ≠ .leu) (ha : a < 2 ^ ETwidth t) (hb : b < 2 ^ ETwidth t) :
    cmpElem t cc a b = (if (compared t cc a b).1 then 1 else 0, (compared t cc a b).2) := by
  rcases ht with hint | hflt
  · exact cmpElem_int (ETfmt_of_int hint) (ETwidth_le (ne_wac_of_num (.inl hint))) ha hb
  · obtain ⟨F, hF⟩ := ETfmt_of_flt hflt
    exact cmpElem_flt hF (hcc hflt)

/-! ### VCMP (R237) -/

theorem source_lt (k : Core) (code : BitVec 7) (w j : Nat) : source k code w j < 2 ^ w := by
  have hpos := Nat.two_pow_pos w
  rw [source]
  split
  · exact Nat.mod_lt _ hpos
  · exact Nat.mod_lt _ hpos

/-- The bits of a shape of elements of eight bits and more lie inside a mask. -/
theorem shape_le_mask {s : State} {t : ET} {codes : List (BitVec 7)} (h : admits s (ETew t) codes) (hw : t ≠ .wac)
    (h8 : 8 ≤ ETwidth t) : s.self.vrows * s.self.vcols ≤ 65536 := by
  have hshape := admits_shape h
  rw [shapeWidth_ETew hw] at hshape
  have hle := (Nat.mul_le_mul_left (s.self.vrows * s.self.vcols) h8).trans hshape
  omega

theorem eight_le_ETwidth {t : ET} (h : ETint t = true ∨ ETflt t = true) (h4 : t ≠ .i4) : 8 ≤ ETwidth t := by
  revert h h4
  cases t <;> decide

/-- A bit of a mask destination beyond the shape: cleared under TAILZ, else as it was (R80). -/
theorem elementsDone_maskBit_beyond {k : Core} {record mz : Bool} {n m j : Nat} {active : Nat → Bool} {val : Nat → Nat × Flags}
    (hm : 0 < m) (h8 : m < 8) (hn : n ≤ j) (hj : j < 65536) :
    (k.elementsDone record n active mz (.mask m) true val).vec.maskBit m j = (!k.tailz && k.vec.maskBit m j) := by
  obtain ⟨l, hl, hw⟩ := elementsDone_write k record n active mz (.mask m) true val
  have hnot : j ∉ List.range' k.vstart (n - k.vstart) := by
    rw [List.mem_range'_1]
    omega
  rw [hw, ← hl]
  refine (maskBit_writeMask hm h8 hj).trans ?_
  rw [List.reverse_reverse, find_elemEntry _ _ _ _ _ List.nodup_range', if_neg hnot, Option.elim_none, Bool.true_and]
  cases k.tailz with
  | false => rw [if_neg Bool.false_ne_true, Option.all_none, Bool.and_true, Bool.not_false, Bool.true_and]
  | true => rw [if_pos rfl, Option.all_some, decide_eq_false (by omega), Bool.and_false, Bool.not_true, Bool.false_and]

theorem onlyMask_maskBit {m d : Nat} {u v : VecUnit} (h : onlyMask m u v) (h8 : d < 8) (hd : d ≠ m) (j : Nat) :
    v.maskBit d j = u.maskBit d j := by
  rw [VecUnit.maskBit, h.2 d h8 hd, VecUnit.maskBit]

section vcmp
variable {cc : CC} {f : VA} {s : State}

/-- The number that VCMP writes to bit j, and its flags. -/
def truthBit (cc : CC) (f : VA) (s : State) (j : Nat) : Nat × Flags :=
  let r := compared f.et cc (source s.self f.va (ETwidth f.et) j) (source s.self f.vb (ETwidth f.et) j)
  (if r.1 then 1 else 0, r.2)

theorem bitOf_truthBit (cc : CC) (f : VA) (s : State) (j : Nat) : bitOf (truthBit cc f s j).1 =
    (compared f.et cc (source s.self f.va (ETwidth f.et) j) (source s.self f.vb (ETwidth f.et) j)).1 := by
  rw [truthBit]
  cases (compared f.et cc (source s.self f.va (ETwidth f.et) j) (source s.self f.vb (ETwidth f.et) j)).1 <;> rfl

theorem vcmp_runs (hf : ETint f.et = true ∨ ETflt f.et = true)
    (hcc : ETflt f.et = true → cc ≠ .ltu ∧ cc ≠ .geu ∧ cc ≠ .gtu ∧ cc ≠ .leu) (h : issues s (ETew f.et) [f.va, f.vb]) :
    RunsElements s (.vcmpCc cc f) f (ETflt f.et) (.mask f.vd.toNat) true fun j => plainOp (truthBit cc f s j) := by
  have hq : Issues s.self (vaIssue (Instr.word (.vcmpCc cc f)) f (srcOf f.va f.wa ++ srcOf f.vb f.wb) []) :=
    issues_of_admits h.1 (ETew_le_five _) (.inr rfl) (fun r hr => (List.mem_append.mp hr).elim (named_srcOf (by simp) r)
      (named_srcOf (by simp) r)) (by simp [vaIssue])
  have hval := fun j => cmpElem_eq hf hcc (source_lt s.self f.va (ETwidth f.et) j) (source_lt s.self f.vb (ETwidth f.et) j)
  refine ⟨_, plainSources [f.va, f.vb] (ETwidth f.et) ++ maskSource f.msk, rfl, ?_⟩
  simp only [X.bind_apply, X.pure_apply, admits_readOpnd h.1 (c := f.va) (by simp), admits_readOpnd h.1 (c := f.vb) (by simp),
    vIssue_ok hq, X.self_apply, X.ite_apply, opnd_elem, hval, truthBit]

end vcmp

/-- Settles O14: VCMP is the loop over its elements with a mask for destination; beside what every form does, its tail. -/
theorem vectorCompare : Obligations.VectorCompare := by
  intro cc f s hf h4 k w n r hcc hi hlo h8 hn
  have hrun := vcmp_runs hf hcc hi
  have hshape := shape_le_mask hi.1 (ne_wac_of_num hf) (eight_le_ETwidth hf h4)
  have D := destination_mask (tail := true) hlo h8 hshape
  have hval : ∀ j, plainOp (truthBit cc f s j) = .val (truthBit cc f s j).1 (truthBit cc f s j).2 := fun _ => rfl
  have hbit : ∀ j, bitOf (truthBit cc f s j).1 = (r j).1 := bitOf_truthBit cc f s
  refine ⟨fun ht => ?_, ?_⟩
  · have hop := fun j (hj : live k f.msk j) => And.intro (hval j) (ht j hj)
    obtain ⟨t, hexec, honly, hcsrs, hkept, hflags, hpc, hstart, hbits⟩ := hrun.completes D hi.2 hop
    refine ⟨t, hexec, honly, hcsrs, hkept.1, hflags, hpc, hstart hn, fun m j hm hm0 hj => ?_⟩
    by_cases hmd : m = f.vd.toNat
    · rw [if_neg (not_not.mpr hmd), hmd]
      by_cases hjn : n ≤ j
      · have ht := (hrun.exec_done hi.2 hn hop).symm.trans hexec
        cases ht
        rw [if_pos hjn, State.modSelf_self, Core.retire_vec, allDone]
        exact elementsDone_maskBit_beyond hlo h8 hjn hj
      · obtain ⟨hlive, hdead⟩ := hbits j (Nat.lt_of_not_le hjn)
        rw [if_neg hjn]
        split
        next ha => rw [hlive ⟨ha.1, Nat.lt_of_not_le hjn, ha.2⟩, hbit]
        next ha => exact hdead fun hl => ha ⟨hl.1, hl.2.2⟩
    · rw [if_pos hmd]
      exact onlyMask_maskBit hkept hm hmd j
  · have hstop := hrun.stopsOnFlags D hi.2 fun j _ => hval j
    simp only [hbit] at hstop
    exact hstop

end Sys2Proof.Proofs
end

section
/-! The configuration instructions (O21). -/

namespace Sys2Proof.Proofs
open Sys2Proof.Machine Sys2Proof.Claim

/-! ### SETSHAPE and VQLEN (R227, R229) -/

theorem ewWidth_eq {ew : Nat} (h : ew ≤ 5) : ewWidth ew = if ew = 5 then 96 else shapeWidth ew := by
  interval_cases ew <;> rfl

/-- A register written after the core has changed elsewhere. -/
theorem writeX_modSelf {s : State} {g : Core → Core} {r : BitVec 6} {v : Word} (hg : (g s.self).replies = s.self.replies)
    (hr : s.self.empty r = false) : writeX r v (s.modSelf g) = .ok () (s.modSelf fun k => (g k).wr r v) := by
  rw [writeX_ok, State.modSelf_modSelf]
  rw [State.modSelf_self, Core.empty, hg]
  exact hr

section config
variable {f : SA} {s : State}

/-- The grant of a shape: columns, and rows by what is left (R79). -/
theorem grantShape_eq (most a b : Nat) : grantShape most a b =
    (if a = 0 ∨ b = 0 then 0 else min (min a 64) (most / (if a = 0 ∨ b = 0 then 0 else min b most)),
      if a = 0 ∨ b = 0 then 0 else min b most) := by
  simp only [grantShape, Bool.or_eq_true, decide_eq_true_eq]
  split <;> rfl

theorem exec_setshape (hr : ready s [f.xa, f.xb, f.xd]) (hew : s.self.ew ≤ 5) :
    let g := grantShape (s.self.maxCols (shapeWidth s.self.ew)) (s.self.rd f.xa).toNat (s.self.rd f.xb).toNat
    exec (.setshape f) s = did s 8 fun k =>
      (((k.setCsr 0x001 (toWord g.1)).setCsr 0x002 (toWord g.2)).setCsr 0x003 0).wr f.xd (toWord (g.1 * g.2)) := by
  intro g
  have hd : s.self.empty f.xd = false := hr _ (by simp)
  refine finish_did (m := _) ?_
  simp only [X.bind_apply, readX_ok (hr f.xa (by simp)), readX_ok (hr f.xb (by simp)), freeX_ok hd, X.self_apply, hew, decide_true,
    X.require_true, X.modSelf_apply]
  exact writeX_modSelf rfl hd

theorem exec_setshape_reserved (hr : ready s [f.xa, f.xb, f.xd]) (hew : 5 < s.self.ew) (htf : s.self.tf = false) :
    exec (.setshape f) s = trapped s 2 (Instr.word (.setshape f)) s.self.pc := by
  refine finish_trapped (m := _) ?_ htf rfl
  simp only [X.bind_apply, readX_ok (hr f.xa (by simp)), readX_ok (hr f.xb (by simp)), freeX_ok (hr f.xd (by simp)), X.self_apply,
    decide_eq_false (Nat.not_le_of_lt hew), X.require_false]
  rfl

theorem exec_vqlen (hd : s.self.empty f.xd = false) (hew : s.self.ew ≤ 5) : exec (.vqlen f) s =
    did s 8 fun k => k.wr f.xd (toWord (frameBytes k.vrows k.vcols (ewWidth k.ew))) := by
  refine (finish_wr (m := _) (v := toWord (frameBytes s.self.vrows s.self.vcols (ewWidth s.self.ew))) ?_).trans
    (congrArg Host.Outcome.next (State.modSelf_congr s rfl))
  · simp only [X.bind_apply, X.self_apply, hew, decide_true, X.require_true, writeX_ok hd]

theorem exec_vqlen_reserved (hew : 5 < s.self.ew) (htf : s.self.tf = false) :
    exec (.vqlen f) s = trapped s 2 (Instr.word (.vqlen f)) s.self.pc := by
  refine finish_trapped (m := _) ?_ htf rfl
  simp only [X.bind_apply, X.self_apply, decide_eq_false (Nat.not_le_of_lt hew), X.require_false]
  rfl

/-! ### SETTILE (R282) -/

theorem exec_settile (hr : ready s [f.xa, f.xb, f.xc]) :
    let g := grantTile s.self.capBits (s.self.rd f.xa).toNat (s.self.rd f.xb).toNat (s.self.rd f.xc).toNat
    exec (.settile f) s = did s 8 fun k =>
      ((((((k.setCsr 0x010 (toWord g.1)).setCsr 0x011 (toWord g.2.1)).setCsr 0x012 (toWord g.2.2)).wr f.xa (toWord g.1)).wr f.xb
        (toWord g.2.1)).wr f.xc (toWord g.2.2)) := by
  intro g
  refine finish_did (m := _) ?_
  simp only [X.bind_apply, readX_ok (hr f.xa (by simp)), readX_ok (hr f.xb (by simp)), readX_ok (hr f.xc (by simp)), X.self_apply,
    X.modSelf_apply, State.modSelf_modSelf]
  rfl

/-- The grant of a tile shape (R282). -/
theorem grantTile_eq (cap a b c : Nat) : grantTile cap a b c =
    let n := min b 128
    let zero := min a 64 = 0 ∨ n = 0 ∨ min c 4096 = 0
    (if zero then 0 else min (min a 64) (cap / 32 / n), if zero then 0 else n, if zero then 0 else min c 4096) := by
  simp only [grantTile, Bool.or_eq_true, decide_eq_true_eq, or_assoc]
  split <;> rfl

end config

/-! ### SETCFG (R228) -/

theorem exec_setConfig {i : Instr} {g : SI} {s : State} {lo len : Nat} (mask : Word)
    (he : exec i s = finish (extSize g.ext) (setConfig g lo len) s) (hr : ready s [g.xa, g.xd])
    (hmask : (BitVec.allOnes len).setWidth 64 = mask) :
    let old := s.self.csrAt 0x000
    let v := s.self.rd g.xa + g.value
    exec i s = did s (extSize g.ext) fun k =>
      (k.setCsr 0x000 (((old &&& ~~~(mask <<< lo)) ||| ((v &&& mask) <<< lo)) &&& 0x37FF)).wr g.xd old := by
  intro old v
  have hd : s.self.empty g.xd = false := hr _ (by simp)
  have hfield : setBits old lo len v.toNat = (old &&& ~~~(mask <<< lo)) ||| ((v &&& mask) <<< lo) := by
    rw [setBits, hmask, BitVec.ofNat_toNat, BitVec.setWidth_eq, BitVec.shiftLeft_and_distrib]
  refine he.trans (finish_did ?_)
  simp only [setConfig, X.bind_apply, readX_ok (hr g.xa (by simp)), freeX_ok hd, X.self_apply, X.modSelf_apply]
  rw [← hfield]
  exact writeX_modSelf rfl hd

/-- Settles O21, instruction by instruction. -/
theorem configuration : Obligations.Configuration := by
  intro f g s k a b c w live cap cols rows
  have hw : k.ew ≤ 5 → shapeWidth k.ew = w := fun hew => by
    dsimp only [w]
    generalize k.ew = e at hew ⊢
    interval_cases e <;> rfl
  refine ⟨fun hr hew => ?_, exec_setshape_reserved, fun hr hew => ?_, exec_vqlen_reserved, fun hr => ?_, fun hr => ?_⟩
  · have hg : grantShape (k.maxCols (shapeWidth k.ew)) a b = (rows, cols) := by
      rw [grantShape_eq, Core.maxCols, hw hew]
    have h := exec_setshape hr hew
    rw [hg] at h
    exact h
  · have hbytes : ewWidth k.ew = if k.ew = 5 then 96 else w := by rw [ewWidth_eq hew, hw hew]
    exact (exec_vqlen (hr _ (by simp)) hew).trans (congrArg Host.Outcome.next (State.modSelf_congr s
      (congrArg (fun w => (k.wr f.xd (toWord (frameBytes k.vrows k.vcols w))).retire 8) hbytes)))
  · have h := exec_settile hr
    rw [grantTile_eq] at h
    exact h
  · exact ⟨exec_setConfig _ rfl hr rfl, exec_setConfig _ rfl hr rfl, exec_setConfig _ rfl hr rfl, exec_setConfig _ rfl hr rfl,
      exec_setConfig _ rfl hr rfl⟩

end Sys2Proof.Proofs
end

section
/-! The wide accumulator forms (O27). -/

namespace Sys2Proof.Proofs
open Sys2Proof.Machine Sys2Proof.Claim

/-! ### Issue with a further limit (R230) -/

/-- A further limit that the number of elements meets changes nothing. -/
theorem vIssue_extra {q : Issue} {s : State} {extra : Nat → X Unit} (h : Issues s.self q)
    (he : s.self.vrows * s.self.vcols ≠ 0 → extra (s.self.vrows * s.self.vcols) s = .ok () s) :
    vIssue q extra s = .ok (s.self.vrows * s.self.vcols) s := by
  have hplain := vIssue_ok h
  rw [vIssue, X.bind_apply, X.self_apply] at hplain ⊢
  dsimp only at hplain ⊢
  rw [require_bind_ok, require_bind_ok] at hplain ⊢
  by_cases hn : s.self.vrows * s.self.vcols = 0
  · rw [if_pos hn] at hplain ⊢
    exact hplain
  · rw [if_neg hn, require_bind_ok, require_bind_ok, X.bind_apply] at hplain ⊢
    rw [he hn]
    exact hplain

/-! ### Operands of 96 bits (R66) -/

/-- The value of a WAC96 operand at issue. -/
def opnd96 (k : Core) (code : BitVec 7) : Opnd96 :=
  if code.getLsbD 6 then .bcast (k.rd (code.setWidth 6))
  else .group code.toNat (k.vec.bitsOf code.toNat) (k.vec.bitsOf (code.toNat + 1)) (k.vec.bitsOf (code.toNat + 2))

theorem readOpnd96_ok {s : State} {code : BitVec 7} (h : code.getLsbD 6 = true → s.self.empty (code.setWidth 6) = false) :
    readOpnd96 code s = .ok (opnd96 s.self code) s := by
  unfold readOpnd96 opnd96
  by_cases hc : code.getLsbD 6 = true
  · simp only [hc, if_true, X.bind_apply, readX_ok (h hc), X.pure_apply]
  · rw [if_neg hc, if_neg hc]
    rfl

theorem opnd96_elem (k : Core) (code : BitVec 7) (j : Nat) : (opnd96 k code).elem j = wac k code j := by
  rw [opnd96, wac]
  split
  · rfl
  · simp only [Opnd96.elem, elem, Nat.mul_comm]

theorem mem_group (c : BitVec 7) : c ∈ group c := by
  rw [group]
  split <;> simp

theorem admits_readOpnd96 {s : State} {ew : Nat} {codes : List (BitVec 7)} (h : admits s ew codes) {c : BitVec 7}
    (hc : ∀ x ∈ group c, x ∈ codes) : readOpnd96 c s = .ok (opnd96 s.self c) s :=
  readOpnd96_ok (h.2.2.2.2.1 c (hc c (mem_group c)))

/-- A group is read limb by limb. -/
theorem wac_group {c : BitVec 7} (hc : c.toNat ≤ 29) (k : Core) (j : Nat) : wac k c j = groupElem c.toNat k.vec j := by
  rw [wac, getLsbD_six (by omega), if_neg Bool.false_ne_true]
  simp only [elem, groupElem, regElem]

/-! ### Forms that write a group (R251) -/

theorem accumulates_of_runs {s : State} {i : Instr} {f : VA} {record : Bool} {srcs : List (BitVec 7)} {op : Nat → ElemOut}
    {val : Nat → Int × Flags}
    (hrun : issues s 5 (group f.vd ++ srcs) → f.vd.toNat ≤ 29 → RunsElements s i f record (.wac f.vd.toNat) true op)
    (hop : ∀ j, op j = .val (wrap 96 (val j).1) (val j).2) : accumulates s i f srcs val := by
  intro hi hvd
  have hshape : 32 * (s.self.vrows * s.self.vcols) ≤ 262144 := by
    have h := admits_shape hi.1
    rwa [Nat.mul_comm] at h
  have D := destination_group (tail := true) hvd hshape
  have hget : (fun (k : Core) j => wac k f.vd j) = fun k => groupElem f.vd.toNat k.vec :=
    funext fun k => funext fun j => wac_group hvd k j
  refine ⟨fun ht => ?_, ?_⟩
  · obtain ⟨t, hexec, honly, hcsrs, hkept, hflags, hpc, -, hget⟩ := (hrun hi hvd).completes
      (val := fun j => (wrap 96 (val j).1, (val j).2)) D hi.2 fun j hj => ⟨hop j, ht j hj⟩
    refine ⟨t, hexec, honly, hcsrs, hkept, hflags, hpc, fun j hj => ?_⟩
    rw [wac_group hvd, wac_group hvd]
    exact hget j hj
  · have h := (hrun hi hvd).stopsOnFlags (val := fun j => (wrap 96 (val j).1, (val j).2)) D hi.2 fun j _ => hop j
    rw [← hget] at h
    exact h

theorem mem_left {xs ys : List (BitVec 7)} : ∀ x ∈ xs, x ∈ xs ++ ys := fun _ h => List.mem_append_left _ h

section forms
variable {f : VA} {s : State}

/-- The saturated sum (R67). -/
theorem wacSat_eq (q : Int) : wacSat q =
    if 2 ^ 95 ≤ q then ((2 : Int) ^ 95 - 1, flagOV) else if q < -2 ^ 95 then (-(2 : Int) ^ 95, flagOV) else (q, 0) := by
  have h : wacMax < q ↔ 2 ^ 95 ≤ q := by
    rw [wacMax]
    omega
  simp only [wacSat, h]
  rfl

theorem vaddWac_runs (ha : groups f.va) (hb : groups f.vb) (h : issues s 5 (group f.vd ++ (group f.va ++ group f.vb)))
    (hvd : f.vd.toNat ≤ 29) : RunsElements s (.vaddWac f) f true (.wac f.vd.toNat) true fun j =>
      let r := wacSat (wac s.self f.va j + wac s.self f.vb j)
      .val (wrap 96 r.1) r.2 := by
  have hva : ∀ x ∈ group f.va, x ∈ group f.vd ++ (group f.va ++ group f.vb) := fun x hx => by simp [hx]
  have hvb : ∀ x ∈ group f.vb, x ∈ group f.vd ++ (group f.va ++ group f.vb) := fun x hx => by simp [hx]
  have hq : Issues s.self (wacIssue (Instr.word (.vaddWac f)) f (srcOf96 f.va f.wa ++ srcOf96 f.vb f.wb) (dstOf96 f.vd)) :=
    issues_of_admits h.1 le_rfl (.inr rfl)
      (fun r hr => (List.mem_append.mp hr).elim (named_srcOf96 ha hva r) (named_srcOf96 hb hvb r)) (named_dstOf96 hvd mem_left)
  refine ⟨_, groupSources f.va ++ groupSources f.vb ++ maskSource f.msk, rfl, ?_⟩
  simp only [X.bind_apply, X.pure_apply, admits_readOpnd96 h.1 hva, admits_readOpnd96 h.1 hvb, vIssue_ok hq, X.self_apply,
    X.ite_apply, opnd96_elem]

/-- The limit of a form with an FP64 operand (R251). -/
theorem wacLimit_ok (h : f.et = .f64 → s.self.vrows * s.self.vcols ≤ s.self.capBits / 64) :
    wacLimit f.et (s.self.vrows * s.self.vcols) s = .ok () s := by
  rw [wacLimit]
  by_cases he : f.et = .f64
  · simp only [he, if_true, X.bind_apply, X.self_apply, h he, decide_true, X.require_true]
  · rw [if_neg he]
    rfl

theorem vcvtWac_runs (hl : f.et = .f64 → s.self.vrows * s.self.vcols ≤ s.self.capBits / 64)
    (h : issues s 5 (group f.vd ++ [f.va])) (hvd : f.vd.toNat ≤ 29) :
    RunsElements s (.vcvtWac f) f true (.wac f.vd.toNat) true fun j =>
      let r := toWac (wacExp s.self.wace) (elemVal f.et (source s.self f.va (ETwidth f.et) j))
      .val (wrap 96 r.1) r.2 := by
  have hva : f.va ∈ group f.vd ++ [f.va] := by simp
  have hq : Issues s.self (wacIssue (Instr.word (.vcvtWac f)) f (srcOf f.va f.wa) (dstOf96 f.vd)) :=
    issues_of_admits h.1 le_rfl (.inr rfl) (named_srcOf hva) (named_dstOf96 hvd mem_left)
  refine ⟨_, plainSources [f.va] (ETwidth f.et) ++ maskSource f.msk, rfl, ?_⟩
  simp only [X.bind_apply, X.pure_apply, admits_readOpnd h.1 hva, vIssue_extra hq fun _ => wacLimit_ok hl, X.self_apply,
    X.ite_apply, opnd_elem]

theorem vcvtFwac_runs {F : FpFmt} (hF : ETfmt f.et = some F) (ha : groups f.va)
    (hl : f.et = .f64 → s.self.vrows * s.self.vcols ≤ s.self.capBits / 64)
    (h : issues s 5 (f.vd :: group f.va)) : RunsElements s (.vcvtFwac f) f true (.vec f.vd.toNat (ETwidth f.et) 0) true fun j =>
      plainOp (F.round 0 false (wac s.self f.va j < 0) (wac s.self f.va j).natAbs s.self.wace.toInt) := by
  have hva : ∀ x ∈ group f.va, x ∈ f.vd :: group f.va := fun x hx => List.mem_cons_of_mem _ hx
  have hq : Issues s.self (wacIssue (Instr.word (.vcvtFwac f)) f (srcOf96 f.va f.wa) (dstOf f.vd)) :=
    issues_of_admits h.1 le_rfl (.inr rfl) (named_srcOf96 ha hva) (named_dstOf List.mem_cons_self)
  refine ⟨_, groupSources f.va ++ maskSource f.msk, rfl, ?_⟩
  simp only [X.bind_apply, X.pure_apply, admits_readOpnd96 h.1 hva, vIssue_extra hq fun _ => wacLimit_ok hl, X.self_apply,
    X.ite_apply, opnd96_elem, hF]
  rfl

theorem vmovWac_runs (he : f.et = .wac) (ha : groups f.va) (h : issues s 5 (group f.vd ++ group f.va)) (hvd : f.vd.toNat ≤ 29) :
    RunsElements s (.vmov f) f false (.wac f.vd.toNat) true fun j => .val (wrap 96 (wac s.self f.va j)) 0 := by
  have hva : ∀ x ∈ group f.va, x ∈ group f.vd ++ group f.va := fun x hx => by simp [hx]
  have hq : Issues s.self (vaIssue (Instr.word (.vmov f)) f (srcOf96 f.va f.wa) (dstOf96 f.vd)) :=
    issues_of_admits h.1 le_rfl (.inr (by rw [vaIssue, he]; rfl)) (named_srcOf96 ha hva) (named_dstOf96 hvd mem_left)
  refine ⟨_, groupSources f.va ++ maskSource f.msk, rfl, ?_⟩
  rw [if_pos he]
  simp only [X.bind_apply, X.pure_apply, admits_readOpnd96 h.1 hva, vIssue_ok hq, X.self_apply, X.ite_apply, opnd96_elem]

end forms

/-! ### Forms that write a register from an index on (R231) -/

/-- Elements of width w from index off on lie inside a register that holds them. -/
theorem capacity_fits {s : State} {ew : Nat} {codes : List (BitVec 7)} {r w off n : Nat} (h : admits s ew codes)
    (h64 : w ≤ 64) (hcap : off + n ≤ if r < 32 then s.self.capBits / w else 1024) :
    ∀ j < n, w * (off + j) + w ≤ codeBits r := by
  intro j hj
  rw [← Nat.mul_succ, codeBits]
  split at hcap
  next h32 =>
    rw [if_pos h32]
    calc w * (off + j + 1) ≤ w * (s.self.capBits / w) := Nat.mul_le_mul_left w (by omega)
      _ ≤ s.self.capBits := Nat.mul_div_le _ _
      _ ≤ 262144 := h.2.2.2.1
  next h32 =>
    rw [if_neg h32]
    calc w * (off + j + 1) ≤ 64 * 1024 := Nat.mul_le_mul h64 (by omega)
      _ = 65536 := rfl

theorem elementwiseAt_of_runs {s : State} {i : Instr} {f : VA} {ew w off : Nat} {srcs : List (BitVec 7)} {record tail : Bool}
    {op : Nat → ElemOut} {val : Nat → Nat × Flags} (h64 : w ≤ 64) (hoff : tail = true → off = 0)
    (hrun : issues s ew (f.vd :: srcs) → f.vd.getLsbD 6 = false →
      off + s.self.vrows * s.self.vcols ≤ (if f.vd.toNat < 32 then s.self.capBits / w else 1024) →
      RunsElements s i f record (.vec f.vd.toNat w off) tail op)
    (hop : ∀ j, op j = .val (val j).1 (val j).2) : elementwiseAt s i f ew w off srcs val := by
  intro hi hv hcap
  have hn : named (f.vd :: srcs) f.vd.toNat := ⟨_, List.mem_cons_self, hv, rfl⟩
  have D := destination_vec (tail := tail) (admits_named hi.1 hn).2.1 (capacity_fits hi.1 h64 hcap) hoff
  exact ⟨fun ht => (hrun hi hv hcap).completes D hi.2 fun j hj => ⟨hop j, ht j hj⟩,
    (hrun hi hv hcap).stopsOnFlags D hi.2 fun j _ => hop j⟩

/-- Settles O27: three loops with a group for destination, and one that writes a register. -/
theorem wideAccumulator : Obligations.WideAccumulator := by
  intro f s k n exact limit a ha
  refine ⟨fun hb => ?_, fun hl hflt => ?_, fun F hF hf hl => ?_, fun he => ?_⟩
  · exact accumulates_of_runs (vaddWac_runs ha hb) fun j => by rw [wacSat_eq]
  · exact accumulates_of_runs (vcvtWac_runs hl) fun _ => rfl
  · have hw : ETwidth f.et ≤ 64 := by rcases hf with hf | hf <;> rw [hf] <;> decide
    exact elementwiseAt_of_runs hw (fun _ => rfl) (fun hi _ _ => vcvtFwac_runs hF ha hl hi) fun _ => rfl
  · exact accumulates_of_runs (vmovWac_runs he ha) fun _ => rfl

end Sys2Proof.Proofs
end

section
/-! Conversions and scaled conversions (O26). -/

namespace Sys2Proof.Proofs
open Sys2Proof.Machine Sys2Proof.Claim

/-! ### Conversions (R248, R249) -/

/-- The start of the index range that a conversion is given (R249). -/
def cvtOffset (f : VA) (k : Core) : Word := if f.vc.getLsbD 6 then k.rd (scalarOf f.vc) else 0

/-- The operand codes of a conversion beside its destination. -/
def cvtCodes (f : VA) : List (BitVec 7) :=
  f.va :: ((if f.vb = 0 then [] else [f.vb]) ++ if f.vc.getLsbD 6 then [f.vc] else [])

/-- An element converted, with the scale of the block of element j where one is given (R249). -/
def cvtElem (src : ET) (f : VA) (divide : Bool) (k : Core) (x j : Nat) : Nat × Flags :=
  if f.vb = 0 then convertElem f.et src k.rm k.satf k.sati x
  else scaleConvert f.et src divide k.rm k.satf (source k f.vb 8 (j / blockSize src f.et)) x

/-- The issue of a conversion. -/
def cvtIssue (word : Word) (f : VA) (gov : ET) : Issue :=
  { word := word, ew := some (ETew gov), et := f.et.code
    srcs := srcOf f.va f.wa ++ (if f.vb != 0 then srcOf f.vb f.wb else []), dsts := dstOf f.vd }

section conversion
variable {src gov : ET} {f : VA} {s : State} {i : Instr} {word : Word} {divide wide : Bool}

theorem mem_cvtCodes_vb (h : f.vb ≠ 0) : f.vb ∈ f.vd :: cvtCodes f := by
  rw [cvtCodes, if_neg h]
  simp
theorem mem_cvtCodes_vc (h : f.vc.getLsbD 6 = true) : f.vc ∈ f.vd :: cvtCodes f := by simp [cvtCodes, h]

theorem cvtIssue_issues (h : admits s (ETew gov) (f.vd :: cvtCodes f)) : Issues s.self (cvtIssue word f gov) := by
  refine issues_of_admits h (ETew_le_five _) (.inr rfl) (fun r hr => ?_) (named_dstOf List.mem_cons_self)
  rcases List.mem_append.mp hr with hr | hr
  · exact named_srcOf (by simp [cvtCodes]) r hr
  · by_cases hb : f.vb = 0
    · simp [hb] at hr
    · simp only [bne_iff_ne.mpr hb, if_true] at hr
      exact named_srcOf (mem_cvtCodes_vb hb) r hr

theorem readScale_ok (h : admits s (ETew gov) (f.vd :: cvtCodes f)) :
    (if (f.vb != 0) = true then readOpnd f.vb else pure (.bcast 0)) s =
      .ok (if (f.vb != 0) = true then s.self.opnd f.vb else .bcast 0) s := by
  split
  next hb => exact admits_readOpnd h (mem_cvtCodes_vb (bne_iff_ne.mp hb))
  · rfl

theorem readOffset_ok (h : admits s (ETew gov) (f.vd :: cvtCodes f)) :
    (if f.vc.getLsbD 6 = true then readX (scalarOf f.vc) else pure 0) s = .ok (cvtOffset f s.self) s := by
  rw [cvtOffset]
  split
  next hc => exact readX_ok (h.2.2.2.2.1 _ (mem_cvtCodes_vc hc) hc)
  · rfl

/-- The limit of a form with an offset (R249). -/
def cvtLimit (src : ET) (f : VA) (wide : Bool) (start : Nat) : Nat → X Unit := fun n =>
  if f.vc.getLsbD 6 && !(if wide then f.va else f.vd).getLsbD 6 then
    self >>= fun k => require
      (start + n ≤ k.capacity (if wide then f.va else f.vd).toNat (if wide then ETwidth src else ETwidth f.et))
      causeShape (toWord (start + n))
  else pure ()

theorem cvtLimit_ok {start n : Nat} (hcap : f.vc.getLsbD 6 = true → (if wide then f.va else f.vd).getLsbD 6 = false →
    start + n ≤ s.self.capacity (if wide then f.va else f.vd).toNat (if wide then ETwidth src else ETwidth f.et)) :
    cvtLimit src f wide start n s = .ok () s := by
  unfold cvtLimit
  by_cases h : (f.vc.getLsbD 6 && !(if wide then f.va else f.vd).getLsbD 6) = true
  · have hfit := h
    rw [Bool.and_eq_true, Bool.not_eq_true'] at hfit
    rw [if_pos h]
    simp only [X.bind_apply, X.self_apply, hcap hfit.1 hfit.2, decide_true, X.require_true]
  · rw [if_neg h]
    rfl

/-- A choice made before one continuation. -/
theorem bind_of_ite {α β : Type} {c : Prop} [Decidable c] (x y : X α) (g : α → X β) :
    (if c then x >>= g else y >>= g) = (if c then x else y) >>= g := by split <;> rfl

/-- The words that a conversion reads, its source read from index start on. -/
def cvtSources (src : ET) (f : VA) (start : Nat) : List (Nat × Nat × Nat × (Nat → Nat)) :=
  ((plainSources [f.va] (ETwidth src)).map fun q => (q.1, q.2.1, q.2.2.1, (· + start))) ++
    (if f.vb != 0 then (plainSources [f.vb] 8).map fun q => (q.1, q.2.1, q.2.2.1, (· / blockSize src f.et)) else []) ++
    maskSource f.msk

/-- A conversion is the loop over its elements. -/
theorem conversion_runs (he : exec i s = finish 8 (conversion word src f gov divide wide) s)
    (h : issues s (ETew gov) (f.vd :: cvtCodes f))
    (hcap : f.vc.getLsbD 6 = true → (if wide then f.va else f.vd).getLsbD 6 = false →
      (cvtOffset f s.self).toNat + s.self.vrows * s.self.vcols ≤
        s.self.capacity (if wide then f.va else f.vd).toNat (if wide then ETwidth src else ETwidth f.et)) :
    RunsElements s i f (cvtRecords src f.et)
      (.vec f.vd.toNat (ETwidth f.et) (if wide then 0 else (cvtOffset f s.self).toNat)) (wide || !f.vc.getLsbD 6) fun j =>
      plainOp (cvtElem src f divide s.self
        (source s.self f.va (ETwidth src) (j + if wide then (cvtOffset f s.self).toNat else 0)) j) := by
  have hissue := vIssue_extra (extra := cvtLimit src f wide (cvtOffset f s.self).toNat) (cvtIssue_issues (word := word) h.1)
    fun _ => cvtLimit_ok hcap
  unfold cvtIssue cvtLimit at hissue
  have hva := admits_readOpnd h.1 (c := f.va) (by simp [cvtCodes])
  refine ⟨_, cvtSources src f (if wide then (cvtOffset f s.self).toNat else 0), he, ?_⟩
  unfold conversion cvtSources cvtElem
  simp only [bind_of_ite]
  simp only [X.bind_apply, X.pure_apply, hva, readScale_ok h.1, readOffset_ok h.1, hissue, X.self_apply, X.ite_apply, opnd_elem]
  by_cases hb : f.vb = 0
  · simp only [hb, bne_self_eq_false, Bool.false_eq_true, if_false, if_true]
  · simp only [hb, bne_iff_ne, ne_eq, not_false_eq_true, if_true, if_false, opnd_elem]

/-- A form that writes from the offset on (R249). -/
theorem narrows (hd : f.et ≠ .wac) (he : exec i s = finish 8 (conversion word src f gov true false) s) :
    elementwiseAt s i f (ETew gov) (ETwidth f.et) (cvtOffset f s.self).toNat (cvtCodes f) fun j =>
      cvtElem src f true s.self (source s.self f.va (ETwidth src) j) j := by
  refine elementwiseAt_of_runs (record := cvtRecords src f.et) (tail := !f.vc.getLsbD 6) (ETwidth_le hd) (fun h => ?_)
    (fun hi _ hcap => ?_) fun _ => rfl
  · rw [cvtOffset, if_neg (by simpa using h)]
    rfl
  · exact conversion_runs (wide := false) he hi fun _ _ => hcap

/-- A form that reads from the offset on (R249). -/
theorem widens (hd : f.et ≠ .wac) (he : exec i s = finish 8 (conversion word src f gov false true) s)
    (hcap : f.va.getLsbD 6 = false → (cvtOffset f s.self).toNat + s.self.vrows * s.self.vcols ≤
      if f.va.toNat < 32 then s.self.capBits / ETwidth src else 1024) :
    elementwiseAt s i f (ETew gov) (ETwidth f.et) 0 (cvtCodes f) fun j =>
      cvtElem src f false s.self (source s.self f.va (ETwidth src) (j + (cvtOffset f s.self).toNat)) j :=
  elementwiseAt_of_runs (record := cvtRecords src f.et) (tail := true) (ETwidth_le hd) (fun _ => rfl)
    (fun hi _ _ => conversion_runs (wide := true) he hi fun _ hva => hcap hva) fun _ => rfl

end conversion

/-- The offset as a number. -/
theorem cvtOffset_toNat (f : VA) (k : Core) :
    (cvtOffset f k).toNat = if f.vc.getLsbD 6 then (k.rd (scalarOf f.vc)).toNat else 0 := by
  rw [cvtOffset]
  split <;> rfl

/-- The conversions (R248, R249). -/
theorem vectorConversions : VectorConversions := by
  intro src f s hs hd k ws wd n block off scale converted srcs plain
  have hoff : (cvtOffset f s.self).toNat = off := cvtOffset_toNat f s.self
  have hval : ∀ (divide : Bool) (x j : Nat), cvtElem src f divide s.self x j = converted divide x j := fun divide x j => by
    simp only [cvtElem, converted, scale, block, blockSize, Bool.or_eq_true, decide_eq_true_eq]
    rfl
  have hnarrow : ∀ {i : Instr} {word : Word} {gov : ET}, exec i s = finish 8 (conversion word src f gov true false) s →
      elementwiseAt s i f (ETew gov) wd off srcs fun j => converted true (plain j) j := fun he => by
    have h := narrows hd he
    simp only [hval, hoff] at h
    exact h
  refine ⟨fun hc => ?_, hnarrow rfl, hnarrow rfl, fun hcap => ?_⟩
  · have hzero : off = 0 := by simp [off, hc]
    exact hzero ▸ hnarrow (i := .vcvt src f) rfl
  · rw [← hoff] at hcap
    have h := widens (i := .vcvtWiden src f) hd rfl hcap
    simp only [hval, hoff] at h
    exact h

/-! ### Scaled values (R63, R249) -/

theorem scaledValues : ScaledValues := by
  intro dst src F rm satf x b hF mx scaled
  refine ⟨fun hx divide => ?_, fun hx divide neg m e hv => ⟨?_, ?_⟩, fun hx divide v hv hnum => ?_⟩
  · simp only [scaleConvert, hx, if_true, hF]
  · have hdst : dst ≠ .i8 := by
      rintro rfl
      cases hF
    have he : e + ((if divide then -((x : Int) - 127) else x - 127) - (if src = .i8 then 6 else 0) + 0) = scaled divide e := by
      cases divide <;> simp only [scaled, mx, if_true, Bool.false_eq_true, if_false] <;> ring
    simp only [scaleConvert, Nat.ne_of_lt hx, if_false, hv, hF, hdst, he]
  · have he : e + ((if divide then -((x : Int) - 127) else x - 127) - (if src = .i8 then 6 else 0) + 6) =
        scaled divide e + 6 := by
      cases divide <;> simp only [scaled, mx, if_true, Bool.false_eq_true, if_false] <;> ring
    simp only [scaleConvert, Nat.ne_of_lt hx, if_false, if_true, hv, he]
    rfl
  · cases v with
    | num neg m e => exact absurd rfl (hnum neg m e)
    | inf neg => simp only [scaleConvert, Nat.ne_of_lt hx, if_false, hv, hF]
    | nan sig => simp only [scaleConvert, Nat.ne_of_lt hx, if_false, hv, hF]

/-! ### The scale rule (R65) -/

theorem maxLog_cons (v : FVal) (vs : List FVal) : maxLog (v :: vs) = (exponent v).merge max (maxLog vs) := by
  cases v with
  | num neg m e =>
    by_cases hm : m = 0
    · simp only [maxLog, exponent, hm, if_true]
      cases maxLog vs <;> rfl
    · simp only [maxLog, exponent, hm, if_false]
      cases maxLog vs <;> rfl
  | inf neg =>
    simp only [maxLog, exponent]
    cases maxLog vs <;> rfl
  | nan sig =>
    simp only [maxLog, exponent]
    cases maxLog vs <;> rfl

theorem le_maxLog {vs : List FVal} {v : FVal} {e : Int} (hv : v ∈ vs) (he : exponent v = some e) :
    ∃ top, maxLog vs = some top ∧ e ≤ top := by
  induction vs with
  | nil => cases hv
  | cons u vs ih =>
    rw [maxLog_cons]
    rcases List.mem_cons.mp hv with rfl | hv
    · rw [he]
      cases maxLog vs with
      | none => exact ⟨e, rfl, le_rfl⟩
      | some t => exact ⟨_, rfl, le_max_left e t⟩
    · obtain ⟨t, ht, hle⟩ := ih hv
      rw [ht]
      cases exponent u with
      | none => exact ⟨t, rfl, hle⟩
      | some a => exact ⟨_, rfl, hle.trans (le_max_right a t)⟩

theorem exponent_of_maxLog {vs : List FVal} {top : Int} (h : maxLog vs = some top) : ∃ v ∈ vs, exponent v = some top := by
  induction vs generalizing top with
  | nil => cases h
  | cons u vs ih =>
    rw [maxLog_cons] at h
    cases hu : exponent u with
    | none =>
      rw [hu, Option.merge_none_left] at h
      exact (ih h).imp fun v hv => ⟨List.mem_cons_of_mem _ hv.1, hv.2⟩
    | some a =>
      cases hr : maxLog vs with
      | none =>
        rw [hu, hr] at h
        exact ⟨u, List.mem_cons_self, hu.trans h⟩
      | some b =>
        rw [hu, hr] at h
        have hmax : max a b = top := Option.some.inj h
        rcases max_choice a b with hab | hab
        · exact ⟨u, List.mem_cons_self, by rw [hu, ← hmax, hab]⟩
        · exact (ih (hr.trans (by rw [← hmax, hab]))).imp fun v hv => ⟨List.mem_cons_of_mem _ hv.1, hv.2⟩

/-- The largest exponent among values. -/
theorem maxLog_eq_some {vs : List FVal} {top : Int} (hle : ∀ v ∈ vs, ∀ e, exponent v = some e → e ≤ top)
    (hex : ∃ v ∈ vs, exponent v = some top) : maxLog vs = some top := by
  obtain ⟨v, hv, he⟩ := hex
  obtain ⟨t, ht, htop⟩ := le_maxLog hv he
  obtain ⟨u, hu, heu⟩ := exponent_of_maxLog ht
  rw [ht, le_antisymm (hle u hu t heu) htop]

theorem isNaN_of_isZero {v : FVal} (h : v.isZero = true) : v.isNaN = false := by
  cases v with
  | nan sig => cases h
  | _ => rfl

theorem maxLog_eq_none {vs : List FVal} (h : ∀ v ∈ vs, v.isZero = true) : maxLog vs = none := by
  induction vs with
  | nil => rfl
  | cons v vs ih =>
    have hv : exponent v = none := by
      have hz := h v List.mem_cons_self
      cases v with
      | num neg m e => simp [exponent, beq_iff_eq.mp hz]
      | inf neg => cases hz
      | nan sig => rfl
    rw [maxLog_cons, hv, ih fun w hw => h w (List.mem_cons_of_mem _ hw)]
    rfl

theorem scaleRule_nan {t : ET} {vs : List FVal} (h : ∃ v ∈ vs, v.isNaN = true) : scaleRule t vs = 0xFF := by
  rw [scaleRule, if_pos (List.any_eq_true.mpr h)]

theorem scaleRule_of_maxLog {t : ET} {vs : List FVal} (h : ∀ v ∈ vs, v.isNaN = false) : scaleRule t vs =
    (maxLog vs).elim 0 fun l => (max 0 (min 254 (l - scaleEmax t + 127))).toNat := by
  have hnan : ¬vs.any FVal.isNaN = true := by
    rw [List.any_eq_true]
    rintro ⟨v, hv, hn⟩
    exact Bool.false_ne_true ((h v hv).symm.trans hn)
  rw [scaleRule, if_neg hnan]
  cases maxLog vs <;> rfl

theorem scaleRule_lt (t : ET) (vs : List FVal) : scaleRule t vs < 2 ^ 8 := by
  unfold scaleRule
  split
  · decide
  · split
    · decide
    · omega

/-! ### VSCALE (R250) -/

/-- The list of new elements 0 to n - 1. -/
theorem find_listed (v : Nat → Nat) (n j : Nat) :
    ((List.range n).map fun b => (b, v b)).reverse.find? (·.1 == j) = if j < n then some (j, v j) else none := by
  induction n with
  | zero => rfl
  | succ n ih =>
    rw [List.range_succ, List.map_append, List.reverse_append, List.map_singleton, List.reverse_singleton, List.singleton_append,
      List.find?_cons]
    by_cases h : n = j
    · simp [h]
    · have hlt : j < n + 1 ↔ j < n := by omega
      simp only [beq_eq_false_iff_ne.mpr h, ih, hlt]

/-- An element of a register after a write that keeps the tail. -/
theorem regElem_vwrite {k : Core} {code w j : Nat} {res : List (Nat × Nat)} (hc : code < 42) (hj : w * j + w ≤ codeBits code) :
    regElem code w (k.vwrite (.vec code w 0) res none).vec j =
      (res.reverse.find? (·.1 == j)).elim (regElem code w k.vec j) fun r => r.2 % 2 ^ w := by
  have hmap : (res.map fun r => (r.1 + 0, r.2)) = res := List.map_id res
  refine (regElem_writeReg hc hj (fun _ h => (Option.some_ne_none _ h.symm).elim)).trans ?_
  rw [hmap]

/-- The values of block b. -/
def blockValues (block n : Nat) (val : Nat → FVal) (b : Nat) : List FVal :=
  (List.range (min block (n - block * b))).map fun j => val (block * b + j)

theorem mem_blockValues {block n b : Nat} {val : Nat → FVal} {v : FVal} (hb : 0 < block) :
    v ∈ blockValues block n val b ↔ ∃ j < n, j / block = b ∧ val j = v := by
  simp only [blockValues, List.mem_map, List.mem_range]
  constructor
  · rintro ⟨i, hi, rfl⟩
    refine ⟨_, by omega, ?_, rfl⟩
    rw [Nat.mul_add_div hb, Nat.div_eq_of_lt (by omega), Nat.add_zero]
  · rintro ⟨j, hj, rfl, rfl⟩
    have hmod := Nat.mod_lt j hb
    have hdiv := Nat.div_add_mod j block
    exact ⟨j % block, by omega, by rw [hdiv]⟩

theorem vwrite_sameThread {k : Core} {d : Dst} {res : List (Nat × Nat)} {tail : Option Nat} :
    SameThread k (k.vwrite d res tail) := by
  rw [Core.vwrite_eq]
  exact ⟨rfl, rfl, rfl, fun _ _ => rfl⟩

section vscale
variable {src : ET} {f : VA} {s : State}

/-- The value that VSCALE takes for element j: zero for an inactive one (R250). -/
def scaledElem (src : ET) (f : VA) (k : Core) (j : Nat) : FVal :=
  if k.vec.maskBit f.msk.toNat j then elemVal src (source k f.va (ETwidth src) j) else .num false 0 0

/-- The new elements of VSCALE's destination (R250). -/
def newScales (src : ET) (f : VA) (k : Core) (n : Nat) : List (Nat × Nat) :=
  (List.range (cdiv n (blockSize src f.et))).map fun b =>
    (b, scaleRule f.et (blockValues (blockSize src f.et) n (scaledElem src f k) b))

/-- The issue of VSCALE. -/
def scaleIssue (src : ET) (f : VA) : Issue :=
  { word := Instr.word (.vscale src f), ew := some (ETew src), et := f.et.code, srcs := srcOf f.va f.wa, dsts := dstOf f.vd }

theorem exec_vscale (h : wholes s (ETew src) [f.vd, f.va]) :
    exec (.vscale src f) s = did s 8 fun k =>
      k.vwrite (.vec f.vd.toNat 8 0) (newScales src f s.self (s.self.vrows * s.self.vcols)) none := by
  obtain ⟨hi, hstart, hn⟩ := h
  have hq : Issues s.self (scaleIssue src f) :=
    issues_of_admits hi.1 (ETew_le_five _) (.inr rfl) (named_srcOf (by simp)) (named_dstOf List.mem_cons_self)
  have hwhole : vWhole _ s = _ := vWhole_ok hq hstart
  unfold scaleIssue at hwhole
  refine finish_did (m := _) ?_
  simp only [X.bind_apply, admits_readOpnd hi.1 (c := f.va) (by simp), hwhole, X.self_apply, X.ite_apply, if_neg hn,
    wholePoison_ok hi.2, X.modSelf_apply, opnd_elem]
  rfl

/-- The block scales (R250, R65). -/
theorem blockScales : BlockScales := by
  intro src f s hsrc k n block val x hw hv
  have hpos : 0 < block := by
    dsimp only [block]
    split <;> decide
  have hblock : blockSize src f.et = block := by
    simp only [blockSize, Bool.or_eq_true, decide_eq_true_eq]
    rfl
  have hvd : f.vd.toNat < 42 := (admits_named hw.1.1 ⟨_, List.mem_cons_self, hv, rfl⟩).2.1
  refine ⟨⟨_, exec_vscale hw, ?_, ?_, ?_, ?_, fun b hb => ?_⟩, fun b hb => ⟨?_, ?_, ?_⟩⟩
  · exact onlyVector_retire rfl
  · rw [State.modSelf_self]
    exact onlyCsrs_retire (fun m _ _ => Core.vwrite_csrAt ..) 8
  · rw [State.modSelf_self, onlyRegister_iff, Core.retire_vec]
    exact onlyReg_vwrite ..
  · rw [State.modSelf_self]
    exact vwrite_sameThread.retire_pc 8
  · have hfit : 8 * b + 8 ≤ codeBits f.vd.toNat := by
      rw [codeBits]
      split at hb
      next h => rw [if_pos h]; omega
      next h => rw [if_neg h]; omega
    rw [State.modSelf_self, elem, Core.retire_vec]
    refine (regElem_vwrite hvd hfit).trans ?_
    rw [newScales, find_listed, hblock, cdiv]
    by_cases hlt : b < (n + block - 1) / block
    · rw [if_pos hlt, if_pos hlt]
      exact Nat.mod_eq_of_lt (scaleRule_lt _ _)
    · rw [if_neg hlt, if_neg hlt]
      rfl
  · rintro ⟨j, hj, hjb, hn⟩
    exact scaleRule_nan ⟨_, (mem_blockValues hpos).mpr ⟨j, hj, hjb, rfl⟩, hn⟩
  · intro hzero
    have hall : ∀ v ∈ blockValues block n val b, v.isZero = true := fun v hv => by
      obtain ⟨j, hj, hjb, rfl⟩ := (mem_blockValues hpos).mp hv
      exact hzero j hj hjb
    exact (scaleRule_of_maxLog fun v hv => isNaN_of_isZero (hall v hv)).trans (by rw [maxLog_eq_none hall]; rfl)
  · intro top hex hle
    have hall : ∀ v ∈ blockValues block n val b, v.isNaN = false ∧ ∀ e, exponent v = some e → e ≤ top := fun v hv => by
      obtain ⟨j, hj, hjb, rfl⟩ := (mem_blockValues hpos).mp hv
      exact hle j hj hjb
    obtain ⟨j, hj, hjb, htop⟩ := hex
    have hmax := maxLog_eq_some (fun v hv => (hall v hv).2) ⟨_, (mem_blockValues hpos).mpr ⟨j, hj, hjb, rfl⟩, htop⟩
    exact (scaleRule_of_maxLog fun v hv => (hall v hv).1).trans (by rw [hmax]; rfl)

end vscale

/-- Settles O26: two loops over elements, the arithmetic of a scale, and the scale rule on each block. -/
theorem vectorConversionsAndScales : Obligations.VectorConversionsAndScales := ⟨vectorConversions, scaledValues, blockScales⟩

end Sys2Proof.Proofs
end

section
/-! Vector forms that complete under conditions on the state alone (O59). -/

namespace Sys2Proof.Proofs
open Sys2Proof.Machine Sys2Proof.Claim

/-! ### Forms that run over their elements -/

theorem trapping_of_untrapped {k : Core} (h : k.fpen = 0) (fl : Flags) : k.trapping fl = false := by
  simp [Core.trapping, h]

section completion
variable {s : State} {i : Instr} {f : VA}

/-- A loop over elements that each have a value completes when no flag traps. -/
theorem completes_of_runs {record tail : Bool} {d : Dst} {op : Nat → ElemOut} {val : Nat → Nat × Flags} (hfpen : s.self.fpen = 0)
    (hp : s.self.vec.poison = []) (h : RunsElements s i f record d tail op) (hop : ∀ j, op j = .val (val j).1 (val j).2) :
    completes s i := by
  by_cases hn : s.self.vrows * s.self.vcols = 0
  · exact ⟨_, h.exec_empty hn, onlyVector_retire (g := id) rfl, by rw [State.modSelf_self]⟩
  · refine ⟨_, h.exec_done (val := val) hp hn fun j _ => ⟨hop j, trapping_of_untrapped hfpen _⟩,
      onlyVector_retire (elementsDone_eq ..), ?_⟩
    rw [State.modSelf_self]
    exact (elementsDone_sameThread ..).retire_pc 8

/-- A form that writes the vector unit once completes. -/
theorem completes_of_did {g : Core → Core} (h : exec i s = did s 8 g) (hg : g s.self = { s.self with vec := (g s.self).vec }) :
    completes s i := by
  refine ⟨_, h, onlyVector_retire hg, ?_⟩
  have hsame : SameThread s.self (g s.self) := by
    rw [hg]
    exact ⟨rfl, rfl, rfl, fun _ _ => rfl⟩
  rw [State.modSelf_self]
  exact hsame.retire_pc 8

/-! ### Special functions (R240) -/

/-- A special function is the loop over its elements. -/
theorem special_runs {word : Word} {code u : Nat} {fn : FpFmt → FVal → Special} {F : FpFmt} (hF : ETfmt f.et = some F)
    (he : exec i s = finish 8 (vForm word f 1 (specialOp f.et code u fn)) s) (h : issues s (ETew f.et) [f.vd, f.va]) :
    RunsElements s i f (ETflt f.et) (.vec f.vd.toNat (ETwidth f.et) 0) true fun j =>
      plainOp (specialResult f.et F code u (source s.self f.va (ETwidth f.et) j)
        (fn F (F.decode (source s.self f.va (ETwidth f.et) j)))) := by
  have hrun := vForm_runs he h (.inl rfl)
  simp only [specialOp, hF] at hrun
  exact hrun

/-! ### Mask forms (R247) -/

theorem maskIssue_issues {word : Word} (hew : s.self.ew ≤ 5) (h : issues s s.self.ew []) : Issues s.self (maskIssue word) :=
  issues_of_admits h.1 hew (.inl rfl) (fun _ hr => absurd hr List.not_mem_nil) fun _ hd => absurd hd List.not_mem_nil

/-- A mask form is the loop over its bits. -/
theorem maskForm_runs {word : Word} {two : Bool} {op : Bool → Bool → Bool} (he : exec i s = finish 8 (maskForm word f two op) s)
    (hew : s.self.ew ≤ 5) (h : issues s s.self.ew []) : RunsElements s i f false (.mask f.vd.toNat) true fun j =>
      .val (if op (s.self.vec.maskBit f.va.toNat j) (s.self.vec.maskBit f.vb.toNat j) then 1 else 0) 0 := by
  refine ⟨_, maskSource (f.va.setWidth 3) ++ (if two then maskSource (f.vb.setWidth 3) else []) ++ maskSource f.msk, he, ?_⟩
  simp only [maskForm, X.bind_apply, X.pure_apply, vIssue_ok (maskIssue_issues hew h), X.self_apply, X.ite_apply]

theorem maskForm_completes {word : Word} {two : Bool} {op : Bool → Bool → Bool} (hfpen : s.self.fpen = 0)
    (he : exec i s = finish 8 (maskForm word f two op) s) (hew : s.self.ew ≤ 5) (h : issues s s.self.ew []) : completes s i :=
  completes_of_runs (val := fun j => (if op (s.self.vec.maskBit f.va.toNat j) (s.self.vec.maskBit f.vb.toNat j) then 1 else 0, 0))
    hfpen h.2 (maskForm_runs he hew h) fun _ => rfl

/-- A form that returns a count or an index of mask bits completes with a reply. -/
theorem maskCount_answers {word : Word} {res : List Nat → Word} (he : exec i s = finish 8 (maskCount word f res) s)
    (hew : s.self.ew ≤ 5) (h : issues s s.self.ew []) (hn : s.self.vrows * s.self.vcols ≠ 0) (hf : slotFree s (scalarOf f.vd)) :
    answers s i (scalarOf f.vd) := by
  refine ⟨res ((List.range (s.self.vrows * s.self.vcols)).filter fun j =>
    s.self.activeBit f.msk j && s.self.vec.maskBit f.va.toNat j), he.trans (finish_did ?_)⟩
  simp only [maskCount, X.bind_apply, reserveReply_slotFree hf, vIssue_ok (maskIssue_issues hew h), X.ite_apply, if_neg hn,
    X.self_apply, wholePoison_ok h.2, reply_apply]

end completion

/-! ### VTOPK and VMETA (R252, R288) -/

section whole
variable {s : State} {f : VA}

/-- The elements that VTOPK selects, the largest first. -/
def topOf (f : VA) (k : Core) : List (Nat × Nat) :=
  (((List.range (k.vrows * k.vcols)).filter (k.activeBit f.msk)).foldl
    (fun l j => topInsert f.et j (source k f.va (ETwidth f.et) j) l) []).take (k.rd (scalarOf f.vb)).toNat

theorem exec_vtopk (h : wholes s (ETew f.et) [f.vd, f.vd + 1, f.va, f.vb]) (hv : f.vd.toNat ≤ 30) (hb : f.vb.getLsbD 6 = true) :
    exec (.vtopk f) s = did s 8 fun k =>
      (k.vwrite (.vec f.vd.toNat (ETwidth f.et) 0)
        ((List.range (topOf f s.self).length).zip ((topOf f s.self).map (·.2))) none).vwrite
        (.vec (f.vd.toNat + 1) (ETwidth f.et) 0)
        ((List.range (topOf f s.self).length).zip ((topOf f s.self).map fun p => p.1 % 2 ^ ETwidth f.et)) none := by
  obtain ⟨hi, hstart, hn⟩ := h
  have hnext : (f.vd + 1).toNat = f.vd.toNat + 1 := by
    rw [BitVec.toNat_add]
    exact Nat.mod_eq_of_lt (Nat.lt_of_le_of_lt (Nat.succ_le_succ hv) (by decide))
  have hq : Issues s.self (vaIssue (Instr.word (.vtopk f)) f (srcOf f.va f.wa) [f.vd.toNat, f.vd.toNat + 1]) := by
    refine issues_of_admits hi.1 (ETew_le_five _) (.inr rfl) (named_srcOf (by simp)) fun d hd => ?_
    rcases List.mem_pair.mp hd with rfl | rfl
    · exact ⟨f.vd, by simp, getLsbD_six (by omega), rfl⟩
    · exact ⟨f.vd + 1, by simp, getLsbD_six (by omega), hnext⟩
  have hx : readX (scalarOf f.vb) s = _ := readX_ok (hi.1.2.2.2.2.1 f.vb (by simp) hb)
  refine finish_did (m := _) ?_
  simp only [X.bind_apply, admits_readOpnd hi.1 (c := f.va) (by simp), hx, vWhole_ok hq hstart,
    X.self_apply, X.ite_apply, if_neg hn, wholePoison_ok hi.2, X.modSelf_apply, opnd_elem]
  rfl

/-- The issue of VMETA. -/
def metaIssue (f : VA) : Issue :=
  { word := Instr.word (.vmeta f), ew := some 3, et := f.et.code, srcs := [], dsts := dstOf f.vd }

/-- The words of metadata that VMETA writes (R288). -/
def metaWords (f : VA) (k : Core) : List (Nat × Nat) :=
  (List.range (k.vrows * cdiv k.vcols 32)).map fun e =>
    (e, metaWord fun p => decide (32 * (e % cdiv k.vcols 32) + p < k.vcols) &&
      k.vec.maskBit f.va.toNat (e / cdiv k.vcols 32 * k.vcols + 32 * (e % cdiv k.vcols 32) + p))

theorem exec_vmeta (h : wholes s 3 [f.vd]) :
    exec (.vmeta f) s = did s 8 fun k => k.vwrite (.vec f.vd.toNat 32 0) (metaWords f s.self) none := by
  obtain ⟨hi, hstart, hn⟩ := h
  have hq : Issues s.self (metaIssue f) :=
    issues_of_admits hi.1 (by decide) (.inr rfl) (fun _ hr => absurd hr List.not_mem_nil) (named_dstOf List.mem_cons_self)
  have hwhole : vWhole _ s = _ := vWhole_ok hq hstart
  unfold metaIssue at hwhole
  refine finish_did (m := _) ?_
  simp only [X.bind_apply, hwhole, X.self_apply, X.ite_apply, if_neg hn, wholePoison_ok hi.2, X.modSelf_apply]
  exact congrArg (EStateM.Result.ok ()) (State.modSelf_congr s rfl)

end whole

/-! ### The obligation -/

theorem vectorFormsUntrapped : VectorFormsUntrapped := by
  intro cc src f s k n numeric holds offset scaled hfpen hv
  refine ⟨fun hf _ hcc hi _ _ => ?_, fun hf hi => ?_, fun hew hi _ _ => ?_,
    fun hs hd => ⟨fun hc hi => ?_, fun hi hcap => ?_, fun hi hcap => ?_⟩, fun _ hw => ?_,
    fun hvd => ⟨fun ha hb hi => ?_, fun _ hl hi => ?_⟩, fun ha hf hi _ => ?_, fun hw h30 hb _ _ => ?_, fun hw => ?_⟩
  · exact completes_of_runs hfpen hi.2 (vcmp_runs hf hcc hi) fun _ => rfl
  · obtain ⟨F, hF⟩ : ∃ F, ETfmt f.et = some F := by rcases hf with hf | hf | hf <;> rw [hf] <;> exact ⟨_, rfl⟩
    have hall : ∀ {i : Instr} {word : Word} {code u : Nat} {fn : FpFmt → FVal → Special},
        exec i s = finish 8 (vForm word f 1 (specialOp f.et code u fn)) s → completes s i := fun he =>
      completes_of_runs hfpen hi.2 (special_runs hF he hi) fun _ => rfl
    exact ⟨hall rfl, hall rfl, hall rfl, hall rfl⟩
  · exact ⟨maskForm_completes hfpen rfl hew hi, maskForm_completes hfpen rfl hew hi, maskForm_completes hfpen rfl hew hi,
      maskForm_completes hfpen rfl hew hi⟩
  · refine completes_of_runs hfpen hi.2 (conversion_runs (src := src) (wide := false) rfl hi fun hoff => ?_) fun _ => rfl
    rw [hc] at hoff
    exact absurd hoff Bool.false_ne_true
  · have hrun := fun {i : Instr} {word : Word} (he : exec i s = finish 8 (conversion word src f src true false) s) =>
      conversion_runs (wide := false) he hi fun _ _ => (cvtOffset_toNat f s.self).symm ▸ hcap
    exact ⟨completes_of_runs hfpen hi.2 (hrun rfl) fun _ => rfl, completes_of_runs hfpen hi.2 (hrun rfl) fun _ => rfl⟩
  · refine completes_of_runs hfpen hi.2 (conversion_runs (src := src) (wide := true) rfl hi fun _ hva => ?_) fun _ => rfl
    rw [cvtOffset_toNat]
    exact hcap.resolve_left (by simpa using hva)
  · exact completes_of_did (exec_vscale hw) (Core.vwrite_eq ..)
  · let r := fun j => wacSat (wac k f.va j + wac k f.vb j)
    exact completes_of_runs (val := fun j => (wrap 96 (r j).1, (r j).2)) hfpen hi.2 (vaddWac_runs ha hb hi hvd) fun _ => rfl
  · let r := fun j => toWac (wacExp k.wace) (elemVal f.et (source k f.va (ETwidth f.et) j))
    exact completes_of_runs (val := fun j => (wrap 96 (r j).1, (r j).2)) hfpen hi.2 (vcvtWac_runs hl hi hvd) fun _ => rfl
  · obtain ⟨F, hF⟩ : ∃ F, ETfmt f.et = some F := by rcases hf with hf | ⟨hf, -⟩ <;> rw [hf] <;> exact ⟨_, rfl⟩
    have hl : f.et = .f64 → n ≤ k.capBits / 64 := fun h64 => (hf.resolve_left (by simp [h64])).2
    exact completes_of_runs hfpen hi.2 (vcvtFwac_runs hF ha hl hi) fun _ => rfl
  · exact completes_of_did (exec_vtopk hw h30 hb) rfl
  · exact completes_of_did (exec_vmeta hw) rfl

theorem maskQueriesComplete : MaskQueriesComplete := fun _ _ hi hew hn hf =>
  ⟨maskCount_answers rfl hew hi hn hf, maskCount_answers rfl hew hi hn hf⟩

/-- Settles O59: loops over elements that all have a value, single writes of the vector unit, and two replies. -/
theorem vectorFormsComplete : Obligations.VectorFormsComplete := ⟨vectorFormsUntrapped, maskQueriesComplete⟩

end Sys2Proof.Proofs
end

section
/-! The binary formats of the special functions: encodings and exact values (R51, R53). -/

namespace Sys2Proof.Proofs
open Sys2Proof.Machine Sys2Proof.Claim

/-! ### Signed integers -/

theorem sign_natAbs (n : Int) : (if (decide (n < 0) : Bool) then -(n.natAbs : Int) else n.natAbs) = n := by
  simp only [decide_eq_true_eq]
  split <;> omega

/-- An integer with d fraction bits. -/
theorem halves_integer {neg : Bool} {m : Nat} {n : Int} (h : (if neg then -(m : Int) else m) = n) (d : Nat) :
    halves (.num neg (m * 2 ^ d) (-(d : Int))) (2 * n) := by
  refine ⟨neg, _, _, rfl, ?_⟩
  have hsig : (if neg then -((m * 2 ^ d : Nat) : Int) else (m * 2 ^ d : Nat)) = n * 2 ^ d := by
    rw [← h]
    push_cast
    split <;> ring
  rw [hsig]
  cases d with
  | zero => simp [mul_comm]
  | succ d =>
    have h1 : (-((d + 1 : Nat) : Int) + 1).toNat = 0 := by omega
    have h2 : (-(-((d + 1 : Nat) : Int) + 1)).toNat = d := by omega
    rw [h1, h2, pow_succ]
    ring

/-! ### Formats -/

/-- An IEEE format whose exponents reach far enough for small integers and no further than the fixed-point values. -/
structure BinaryFormat (F : FpFmt) : Prop where
  kind : F.kind = .ieee
  top : 2 ^ F.ebits = 2 * F.bias + 2
  wide : 7 ≤ F.fbits
  below : F.fbits < F.bias
  small : F.bias + F.fbits ≤ 150

theorem binaryFormat_of {t : ET} {F : FpFmt} (ht : t = .f16 ∨ t = .bf16 ∨ t = .f32) (hF : ETfmt t = some F) : BinaryFormat F := by
  rcases ht with rfl | rfl | rfl <;> cases hF <;> exact ⟨rfl, by decide, by decide, by decide, by decide⟩

namespace BinaryFormat
variable {F : FpFmt} (B : BinaryFormat F)
include B

theorem emaxField : F.emaxField = 2 * F.bias := by
  rw [FpFmt.emaxField, if_pos B.kind, B.top]
  rfl

theorem maxQuantum : F.maxQuantum = F.bias - F.fbits := by
  rw [FpFmt.maxQuantum, B.emaxField]
  push_cast
  ring

theorem maxSig : F.maxSig = 2 ^ (F.fbits + 1) - 1 := by
  rw [FpFmt.maxSig, if_neg (by rw [B.kind]; decide)]

/-! ### Encodings (R51) -/

/-- A finite encoding by its fields. -/
theorem decode_pack {neg : Bool} {E G : Nat} (hE : E ≤ 2 * F.bias) (hG : G < 2 ^ F.fbits) :
    F.decode (F.pack neg E G) = if E = 0 then .num neg G (1 - (F.bias : Int) - F.fbits)
      else .num neg (G + 2 ^ F.fbits) ((E : Int) - F.bias - F.fbits) := by
  have hlt : E < 2 ^ F.ebits := by
    have := B.top
    omega
  have hpack : F.pack neg E G = G + 2 ^ F.fbits * (E + 2 ^ F.ebits * neg.toNat) := by
    rw [FpFmt.pack, pow_add]
    cases neg <;> simp <;> ring
  have hfrac : fld (F.pack neg E G) 0 F.fbits = G := by
    rw [hpack, fld, pow_zero, Nat.div_one, Nat.add_mul_mod_self_left, Nat.mod_eq_of_lt hG]
  have hhigh : F.pack neg E G / 2 ^ F.fbits = E + 2 ^ F.ebits * neg.toNat := by
    rw [hpack, Nat.add_mul_div_left _ _ (Nat.two_pow_pos _), Nat.div_eq_of_lt hG, Nat.zero_add]
  have hexp : fld (F.pack neg E G) F.fbits F.ebits = E := by
    rw [fld, hhigh, Nat.add_mul_mod_self_left, Nat.mod_eq_of_lt hlt]
  have hneg : decide (fld (F.pack neg E G) (F.ebits + F.fbits) 1 = 1) = neg := by
    rw [fld, Nat.add_comm, pow_add, ← Nat.div_div_eq_div_mul, hhigh, Nat.add_mul_div_left _ _ (Nat.two_pow_pos _),
      Nat.div_eq_of_lt hlt]
    cases neg <;> rfl
  have hfinite : E ≠ 2 ^ F.ebits - 1 := by
    have := B.top
    omega
  rw [FpFmt.decode]
  simp only [hfrac, hexp, hneg, B.kind, hfinite, decide_true, decide_false, Bool.and_false, Bool.false_eq_true, if_false,
    show decide (FpKind.ieee = FpKind.e4m3) = false from rfl, Bool.false_and]

/-- A finite value: its significand and its exponent are those of the format. -/
theorem finite_of_decode {x m : Nat} {neg : Bool} {e : Int} (h : F.decode x = .num neg m e) :
    m < 2 ^ (F.fbits + 1) ∧ 1 - (F.bias : Int) - F.fbits ≤ e ∧ e ≤ F.bias - F.fbits := by
  have hG : fld x 0 F.fbits < 2 ^ F.fbits := fld_lt ..
  have hE : fld x F.fbits F.ebits < 2 ^ F.ebits := fld_lt ..
  have htop := B.top
  have hwide := B.below
  rw [FpFmt.decode] at h
  simp only [B.kind, show decide (FpKind.ieee = FpKind.e4m3) = false from rfl, Bool.false_and, Bool.false_eq_true, if_false,
    decide_true, Bool.true_and, decide_eq_true_eq] at h
  rw [pow_succ]
  split at h
  · split at h <;> cases h
  · split at h
    · cases h
      omega
    · cases h
      omega

/-! ### Exact results (R53) -/

/-- A value that fits the format's significand at its exponent is delivered exact, with no flag. -/
theorem round_exact {neg : Bool} {m : Nat} {e qe : Int} (hm : m ≠ 0)
    (hqe : qe = (if (Nat.log2 m : Int) + e < 1 - F.bias then 1 - (F.bias : Int) else Nat.log2 m + e) - F.fbits) (hle : qe ≤ e)
    (hmax : qe ≤ F.bias - F.fbits) :
    ∃ q, F.round 0 false neg m e = (q, 0) ∧ F.decode q = .num neg (m * 2 ^ (e - qe).toNat) qe := by
  obtain ⟨d, hd⟩ : ∃ d, (e - qe).toNat = d := ⟨_, rfl⟩
  have hlo : 2 ^ (Nat.log2 m + d) ≤ m * 2 ^ d := by
    rw [pow_add]
    exact Nat.mul_le_mul_right _ (Nat.log2_self_le hm)
  have hhi : m * 2 ^ d < 2 ^ (Nat.log2 m + d + 1) := by
    rw [Nat.add_right_comm, pow_add]
    exact Nat.mul_lt_mul_of_pos_right Nat.lt_log2_self (Nat.two_pow_pos d)
  have hshift : roundShift 0 neg m (qe - e) = (m * 2 ^ d, false) := by
    rw [roundShift, if_pos (by omega), neg_sub, hd]
  have hwidth : m * 2 ^ d < 2 ^ (F.fbits + 1) :=
    hhi.trans_le (Nat.pow_le_pow_right (by decide) (by split at hqe <;> omega))
  have hround : F.round 0 false neg m e = if m * 2 ^ d < 2 ^ F.fbits then (F.pack neg 0 (m * 2 ^ d), 0)
      else (F.pack neg (qe + F.bias + F.fbits).toNat (m * 2 ^ d - 2 ^ F.fbits), 0) := by
    have hover : (decide (F.maxQuantum < qe) || decide (qe = F.maxQuantum) && decide (F.maxSig < m * 2 ^ d)) = false := by
      rw [B.maxQuantum, B.maxSig, decide_eq_false (by omega), decide_eq_false (p := _ < m * 2 ^ d) (by omega), Bool.and_false]
      rfl
    rw [FpFmt.round, if_neg hm]
    dsimp only
    rw [← hqe, hshift]
    simp only [hwidth.ne, if_false, hover, Bool.false_eq_true, flagIf, Bool.false_and]
    rfl
  rw [hround, hd]
  by_cases hsub : m * 2 ^ d < 2 ^ F.fbits
  · rw [if_pos hsub]
    refine ⟨_, rfl, ?_⟩
    rw [B.decode_pack (Nat.zero_le _) hsub, if_pos rfl]
    have hqmin : qe = 1 - (F.bias : Int) - F.fbits := by
      split at hqe
      · exact hqe
      · have hd' : Nat.log2 m + d = F.fbits := by omega
        rw [hd'] at hlo
        omega
    rw [hqmin]
  · rw [if_neg hsub]
    refine ⟨_, rfl, ?_⟩
    rw [B.decode_pack (by omega) (by rw [pow_succ] at hwidth; omega), if_neg (by split at hqe <;> omega)]
    congr 1
    · omega
    · split at hqe <;> omega

/-- A power of two in the format's range is delivered exact. -/
theorem round_powerOfTwo {n : Int} (hlo : 1 - (F.bias : Int) - F.fbits ≤ n) (hhi : n ≤ F.bias) :
    ∃ q, F.round 0 false false 1 n = (q, 0) ∧ powerOfTwo (F.decode q) n := by
  have hlog : Nat.log2 1 = 0 := rfl
  have hbelow := B.below
  obtain ⟨q, hq, hdec⟩ := B.round_exact (neg := false) (m := 1) (e := n) one_ne_zero rfl (by rw [hlog]; split <;> omega)
    (by rw [hlog]; split <;> omega)
  refine ⟨q, hq, ?_⟩
  rw [hdec]
  refine ⟨_, _, by rw [one_mul], ?_⟩
  rw [hlog]
  split <;> omega

/-- A small integer is delivered exact. -/
theorem round_integer {n : Int} (h : n.natAbs < 2 ^ (F.fbits + 1)) :
    ∃ q, F.round 0 false (n < 0) n.natAbs 0 = (q, 0) ∧ halves (F.decode q) (2 * n) := by
  by_cases hn : n = 0
  · subst hn
    refine ⟨_, rfl, ?_⟩
    rw [FpFmt.zero, B.decode_pack (Nat.zero_le _) (Nat.two_pow_pos _), if_pos rfl]
    exact ⟨_, _, _, rfl, by simp⟩
  · have hbelow := B.below
    have hlog : Nat.log2 n.natAbs < F.fbits + 1 := (Nat.log2_lt (Int.natAbs_ne_zero.mpr hn)).mpr h
    obtain ⟨q, hq, hdec⟩ := B.round_exact (neg := n < 0) (m := n.natAbs) (e := 0) (qe := Nat.log2 n.natAbs - F.fbits)
      (Int.natAbs_ne_zero.mpr hn) (by rw [if_neg (by omega), add_zero]) (by omega) (by omega)
    have he : (Nat.log2 n.natAbs : Int) - F.fbits = -(F.fbits - Nat.log2 n.natAbs : Nat) := by omega
    rw [he, zero_sub, neg_neg, Int.toNat_natCast] at hdec
    exact ⟨q, hq, hdec ▸ halves_integer (sign_natAbs n) _⟩

end BinaryFormat

end Sys2Proof.Proofs
end

section
/-! The special functions (O12). -/

namespace Sys2Proof.Proofs
open Sys2Proof.Machine Sys2Proof.Claim

/-! ### Fixed-point arguments (R240) -/

/-- A significand with its sign. -/
def signedSig (neg : Bool) (m : Nat) : Int := if neg then -(m : Int) else m

/-- A number of halves as a fixed-point number of b fraction bits. -/
theorem fixed_of_halves {neg : Bool} {m : Nat} {e h : Int} (hv : halves (.num neg m e) h) {b : Nat} (he : -(b : Int) ≤ e) :
    2 * signedSig neg (m * 2 ^ (e + b).toNat) = h * 2 ^ b := by
  obtain ⟨neg, m, e, heq, hv⟩ := hv
  cases heq
  have hsig : signedSig neg (m * 2 ^ (e + b).toNat) = (if neg then -(m : Int) else m) * 2 ^ (e + b).toNat := by
    rw [signedSig]
    push_cast
    split <;> ring
  rw [hsig]
  by_cases h0 : 0 ≤ e + 1
  · have hexp : (e + b).toNat + 1 = (e + 1).toNat + b := by omega
    have hnone : (-(e + 1)).toNat = 0 := by omega
    rw [hnone, pow_zero, mul_one] at hv
    rw [mul_left_comm, ← pow_succ', hexp, pow_add, ← mul_assoc, hv]
  · have hexp : b = (e + b).toNat + 1 + (-(e + 1)).toNat := by omega
    have hnone : (e + 1).toNat = 0 := by omega
    rw [hnone, pow_zero, mul_one] at hv
    rw [hv]
    conv_rhs => rw [hexp]
    rw [pow_add, pow_succ]
    ring

theorem natAbs_signedSig (neg : Bool) (m : Nat) : (signedSig neg m).natAbs = m := by
  rw [signedSig]
  split <;> simp

/-- An integer in fixed-point form. -/
theorem fixed_of_integer {neg : Bool} {m : Nat} {e n : Int} (hv : halves (.num neg m e) (2 * n)) {b : Nat} (he : -(b : Int) ≤ e) :
    signedSig neg (m * 2 ^ (e + b).toNat) = n * 2 ^ b := by
  have h := fixed_of_halves hv he
  rw [mul_assoc] at h
  exact mul_left_cancel₀ two_ne_zero h

theorem significand_of_integer {neg : Bool} {m : Nat} {e n : Int} (hv : halves (.num neg m e) (2 * n)) {b : Nat}
    (he : -(b : Int) ≤ e) : m * 2 ^ (e + b).toNat = n.natAbs * 2 ^ b := by
  have h := congrArg Int.natAbs (fixed_of_integer hv he)
  rwa [natAbs_signedSig, Int.natAbs_mul, Int.natAbs_pow] at h

/-- An integer is at least the power of two of its leading bit. -/
theorem le_natAbs_of_integer {neg : Bool} {m k : Nat} {e n : Int} (hv : halves (.num neg m e) (2 * n)) {b : Nat}
    (he : -(b : Int) ≤ e) (hm : m ≠ 0) (hk : (k : Int) ≤ Nat.log2 m + e) : 2 ^ k ≤ n.natAbs := by
  refine Nat.le_of_mul_le_mul_right ?_ (Nat.two_pow_pos b)
  calc 2 ^ k * 2 ^ b = 2 ^ (k + b) := (pow_add ..).symm
    _ ≤ 2 ^ (Nat.log2 m + (e + b).toNat) := Nat.pow_le_pow_right (by decide) (by omega)
    _ = 2 ^ Nat.log2 m * 2 ^ (e + b).toNat := pow_add ..
    _ ≤ m * 2 ^ (e + b).toNat := Nat.mul_le_mul_right _ (Nat.log2_self_le hm)
    _ = n.natAbs * 2 ^ b := significand_of_integer hv he

section argument
variable {neg : Bool} {m : Nat} {e n : Int}

/-- An integer modulo 2. -/
theorem fixMod2_integer (hv : halves (.num neg m e) (2 * n)) (he : -(fixBits : Int) ≤ e) :
    fixMod2 m e = n.natAbs % 2 * 2 ^ fixBits := by
  rw [fixMod2, significand_of_integer hv he, pow_succ']
  exact Nat.mul_mod_mul_right ..

/-- The half of an odd integer is an odd number of halves from 0. -/
theorem significand_of_half (hv : halves (.num neg m e) (2 * n + 1)) (he : -(fixBits : Int) ≤ e) {half : Nat}
    (hhalf : 2 ^ fixBits = 2 * half) :
    ∃ t : Nat, m * 2 ^ (e + fixBits).toNat = (2 * t + 1) * half ∧ ((n % 2 == 1) = neg ↔ t % 2 = 0) := by
  have hpos : (0 : Int) < half := by
    have := Nat.two_pow_pos fixBits
    omega
  have hone : (2 : Int) ^ fixBits = 2 * half := by exact_mod_cast hhalf
  have h : signedSig neg (m * 2 ^ (e + fixBits).toNat) = (2 * n + 1) * half := by
    have h := fixed_of_halves hv he
    rw [hone, mul_left_comm] at h
    exact mul_left_cancel₀ two_ne_zero h
  generalize m * 2 ^ (e + fixBits).toNat = M at h ⊢
  cases neg with
  | false =>
    have h : (M : Int) = (2 * n + 1) * half := h
    have hn : 0 ≤ 2 * n + 1 := nonneg_of_mul_nonneg_left (h ▸ Int.natCast_nonneg M) hpos
    refine ⟨n.toNat, ?_, ?_⟩
    · zify
      rw [h, Int.toNat_of_nonneg (by omega)]
    · rw [beq_eq_false_iff_ne]
      omega
  | true =>
    have h : -(M : Int) = (2 * n + 1) * half := h
    have hn : 2 * n + 1 ≤ 0 := by
      by_contra hlt
      have := mul_pos (not_le.mp hlt) hpos
      omega
    refine ⟨(-n - 1).toNat, ?_, ?_⟩
    · zify
      rw [← neg_neg (M : Int), h, Int.toNat_of_nonneg (by omega)]
      ring
    · rw [beq_iff_eq]
      omega

/-- The half of an odd integer modulo 2: 1/2 or 3/2. -/
theorem fixMod2_half (hv : halves (.num neg m e) (2 * n + 1)) (he : -(fixBits : Int) ≤ e) {half : Nat}
    (hhalf : 2 ^ fixBits = 2 * half) : fixMod2 m e = if (n % 2 == 1) = neg then half else 3 * half := by
  obtain ⟨t, ht, hpar⟩ := significand_of_half hv he hhalf
  have hmod : (2 * t + 1) * half % (4 * half) = (2 * t + 1) % 4 * half := Nat.mul_mod_mul_right ..
  rw [fixMod2, ht, pow_succ, hhalf, show 2 * half * 2 = 4 * half by omega, hmod]
  simp only [hpar]
  split
  next h => rw [show (2 * t + 1) % 4 = 1 by omega, one_mul]
  next h => rw [show (2 * t + 1) % 4 = 3 by omega]

/-- The half of an odd integer has a fraction bit. -/
theorem exponent_of_half (hv : halves (.num neg m e) (2 * n + 1)) : e < 0 := by
  obtain ⟨neg, m, e, heq, hv⟩ := hv
  cases heq
  by_contra h
  have hexp : (e + 1).toNat = e.toNat + 1 := by omega
  have hnone : (-(e + 1)).toNat = 0 := by omega
  rw [hexp, hnone, pow_zero, mul_one, pow_succ, ← mul_assoc] at hv
  omega

/-- An integer with a positive exponent is even. -/
theorem even_of_exponent (hv : halves (.num neg m e) (2 * n)) (h : 1 ≤ e) : n % 2 = 0 := by
  obtain ⟨neg, m, e, heq, hv⟩ := hv
  cases heq
  have hexp : (e + 1).toNat = (e - 1).toNat + 2 := by omega
  have hnone : (-(e + 1)).toNat = 0 := by omega
  rw [hexp, hnone, pow_zero, mul_one, pow_add, ← mul_assoc] at hv
  omega

end argument

/-! ### Exact cases (R240) -/

section exact
variable {F : FpFmt} (B : BinaryFormat F) {x m : Nat} {neg : Bool} {e n : Int}

theorem sinPiOf_integer (hv : halves (.num neg m e) (2 * n)) (he : -(fixBits : Int) ≤ e) :
    sinPiOf F (.num neg m e) = .exact (F.zero neg) 0 := by
  have hfrac : (if 0 ≤ e then 0 else fixMod2 m e) % 2 ^ fixBits = 0 := by
    split
    · exact Nat.zero_mod _
    · rw [fixMod2_integer hv he, Nat.mul_mod_left]
  simp only [sinPiOf, hfrac, if_true]

theorem cosPiOf_integer (hv : halves (.num neg m e) (2 * n)) (he : -(fixBits : Int) ≤ e) :
    cosPiOf F (.num neg m e) = .exact (F.pack (n % 2 == 1) F.bias 0) 0 := by
  have hpos := Nat.two_pow_pos fixBits
  have hr : (if 1 ≤ e then 0 else fixMod2 m e) = n.natAbs % 2 * 2 ^ fixBits := by
    split
    next h => rw [show n.natAbs % 2 = 0 by have := even_of_exponent hv h; omega, zero_mul]
    next => exact fixMod2_integer hv he
  simp only [cosPiOf, hr]
  generalize 2 ^ fixBits = one at hpos ⊢
  rcases Nat.mod_two_eq_zero_or_one n.natAbs with h | h
  · rw [h, zero_mul, if_neg (Nat.not_lt_zero _), if_pos rfl, show (n % 2 == 1) = false by rw [beq_eq_false_iff_ne]; omega]
  · rw [h, one_mul, if_neg (lt_irrefl _), if_neg hpos.ne', if_pos rfl, show (n % 2 == 1) = true by rw [beq_iff_eq]; omega]

theorem sinPiOf_half (hv : halves (.num neg m e) (2 * n + 1)) (he : -(fixBits : Int) ≤ e) :
    sinPiOf F (.num neg m e) = .exact (F.pack (n % 2 == 1) F.bias 0) 0 := by
  obtain ⟨half, hhalf⟩ : ∃ half, 2 ^ fixBits = 2 * half := ⟨2 ^ (fixBits - 1), (pow_succ' 2 (fixBits - 1))⟩
  have hpos := Nat.two_pow_pos fixBits
  have hr := fixMod2_half hv he hhalf
  simp only [sinPiOf, if_neg (not_le.mpr (exponent_of_half hv)), hr, hhalf] at hpos ⊢
  by_cases h : (n % 2 == 1) = neg
  · simp only [if_pos h]
    rw [Nat.mod_eq_of_lt (by omega), if_neg (by omega), if_pos rfl, decide_eq_false (by omega), h, Bool.bne_false]
  · simp only [if_neg h]
    rw [show 3 * half = half + 2 * half by omega, Nat.add_mod_right, Nat.mod_eq_of_lt (by omega), if_neg (by omega), if_pos rfl,
      decide_eq_true (by omega), Bool.bne_true, Bool.eq_not_of_ne h]

theorem cosPiOf_half (hv : halves (.num neg m e) (2 * n + 1)) (he : -(fixBits : Int) ≤ e) :
    cosPiOf F (.num neg m e) = .exact (F.zero false) 0 := by
  obtain ⟨half, hhalf⟩ : ∃ half, 2 ^ fixBits = 2 * half := ⟨2 ^ (fixBits - 1), (pow_succ' 2 (fixBits - 1))⟩
  have hpos := Nat.two_pow_pos fixBits
  have hexp := exponent_of_half hv
  have hr := fixMod2_half hv he hhalf
  have hfold : (if 2 * half < fixMod2 m e then 2 * (2 * half) - fixMod2 m e else fixMod2 m e) = half := by
    rw [hr]
    split <;> split <;> omega
  simp only [cosPiOf, if_neg (show ¬1 ≤ e by omega), hhalf, hfold] at hpos ⊢
  rw [if_neg (by omega), if_neg (by omega), if_pos trivial]

include B

theorem exp2Of_integer (hv : halves (.num neg m e) (2 * n)) (he : -(fixBits : Int) ≤ e) (hlo : 1 - (F.bias : Int) - F.fbits ≤ n)
    (hhi : n ≤ F.bias) : ∃ q, exp2Of F (.num neg m e) = .exact q 0 ∧ powerOfTwo (F.decode q) n := by
  obtain ⟨q, hq, hpow⟩ := B.round_powerOfTwo hlo hhi
  refine ⟨q, ?_, hpow⟩
  have hfix := fixed_of_integer hv he
  have hfar : (decide (10 ≤ (Nat.log2 m : Int) + e) && m != 0) = false := by
    refine Bool.eq_false_iff.mpr fun hfar => ?_
    rw [Bool.and_eq_true, decide_eq_true_eq, bne_iff_ne] at hfar
    have hbig := le_natAbs_of_integer hv he (k := 10) hfar.2 hfar.1
    have hrange := B.small
    omega
  have hscaled : scaledInt neg m (e + fixBits) 0 = n * 2 ^ fixBits := by
    rw [← hfix, scaledInt, sub_zero, signedSig]
    push_cast
    rfl
  have hpos : (2 : Int) ^ fixBits ≠ 0 := pow_ne_zero _ two_ne_zero
  simp only [exp2Of, ge_iff_le, hfar, hscaled, Int.mul_emod_left, Int.mul_ediv_cancel _ hpos, hq]
  rfl

theorem log2Of_powerOfTwo (hx : powerOfTwo (.num neg m e) n) (hm : m < 2 ^ (F.fbits + 1)) (hlo : 1 - (F.bias : Int) - F.fbits ≤ e)
    (hhi : e ≤ F.bias - F.fbits) : ∃ q, log2Of F (.num neg m e) = .exact q 0 ∧ halves (F.decode q) (2 * n) := by
  obtain ⟨i, e, heq, rfl⟩ := hx
  cases heq
  have hi : i < F.fbits + 1 := (Nat.pow_lt_pow_iff_right (by decide)).mp hm
  have hsmall : (e + i).natAbs < 2 ^ (F.fbits + 1) := by
    have hwide : 2 ^ 8 ≤ 2 ^ (F.fbits + 1) := Nat.pow_le_pow_right (by decide) (Nat.succ_le_succ B.wide)
    have hbelow := B.below
    have hrange := B.small
    omega
  obtain ⟨q, hq, hhalf⟩ := B.round_integer hsmall
  refine ⟨q, ?_, hhalf⟩
  have hne : (2 : Nat) ^ i ≠ 0 := (Nat.two_pow_pos i).ne'
  simp only [log2Of, hne, if_false, Bool.false_eq_true, Nat.log2_two_pow, if_true, add_comm (i : Int) e, hq]

/-- The exact cases of the four functions for a decoded value (R240). -/
theorem exactCases_decode (t : ET) (x : Nat) : let v := F.decode x
    exactCases F v (specialResult t F 0 1 x (exp2Of F v)) (specialResult t F 1 1 x (log2Of F v))
      (specialResult t F 2 2 x (sinPiOf F v)) (specialResult t F 3 2 x (cosPiOf F v)) := by
  intro v
  have hfin : ∀ {neg m e}, v = .num neg m e → -(fixBits : Int) ≤ e := fun h => by
    obtain ⟨-, hlo, -⟩ := B.finite_of_decode h
    have hrange := B.small
    have hfix : fixBits = 440 := rfl
    omega
  refine ⟨fun sig hv => ?_, fun neg hv => ?_, fun n hv => ⟨fun hlo hhi => ?_, fun neg m e heq => ?_, ?_⟩, fun n hv => ?_,
    fun neg e hv => ?_, fun m e hv hm => ?_, fun n hv => ?_⟩
  · rw [hv]
    exact ⟨rfl, rfl, rfl, rfl⟩
  · rw [hv]
    cases neg <;> exact ⟨rfl, rfl, rfl, rfl⟩
  · obtain ⟨neg, m, e, heq, -⟩ := id hv
    rw [heq] at hv ⊢
    obtain ⟨q, hq, hpow⟩ := exp2Of_integer B hv (hfin heq) hlo hhi
    exact ⟨q, by rw [hq]; rfl, hpow⟩
  · rw [heq] at hv ⊢
    rw [sinPiOf_integer hv (hfin heq)]
    rfl
  · obtain ⟨neg, m, e, heq, -⟩ := id hv
    rw [heq] at hv ⊢
    rw [cosPiOf_integer hv (hfin heq)]
    rfl
  · obtain ⟨neg, m, e, heq, -⟩ := id hv
    rw [heq] at hv ⊢
    rw [sinPiOf_half hv (hfin heq), cosPiOf_half hv (hfin heq)]
    exact ⟨rfl, rfl⟩
  · rw [hv, log2Of, if_pos rfl]
    rfl
  · rw [hv, log2Of, if_neg hm, if_pos rfl]
    rfl
  · obtain ⟨i, e, heq, -⟩ := id hv
    obtain ⟨hm, hlo, hhi⟩ := B.finite_of_decode heq
    rw [heq] at hv ⊢
    obtain ⟨q, hq, hhalf⟩ := log2Of_powerOfTwo B hv hm hlo hhi
    exact ⟨q, by rw [hq]; rfl, hhalf⟩

end exact

/-! ### Inexact results (R240) -/

/-- An inexact value is rounded, or in FP32 a result within the form's bound, with NX. -/
theorem specialResult_value (t : ET) (F : FpFmt) (code u x : Nat) (neg : Bool) (m : Nat) (e : Int) :
    let r := specialResult t F code u x (.value neg m e)
    let q := F.round 0 false neg m e
    r = (q.1, q.2 ||| flagNX) ∨ t = .f32 ∧ F.within u neg m e r.1 = true ∧ ∃ fl, r.2 = flagNX ||| fl := by
  intro r q
  by_cases h : (decide (t = .f32) && F.within u neg m e (Config.specialF32 code (BitVec.ofNat 32 x)).toNat) = true
  · have hr : r = _ := if_pos h
    rw [Bool.and_eq_true, decide_eq_true_eq] at h
    rw [hr]
    exact .inr ⟨h.1, h.2, _, rfl⟩
  · exact .inl (if_neg h)

/-- Settles O12: the loop over the elements, and case by case what a function gives for a decoded value. -/
theorem vectorSpecialFunctions : Obligations.VectorSpecialFunctions := by
  intro f s F hf hF a one delivered
  have hw : f.et ≠ .wac := fun h => by simp [h] at hf
  have hone : ∀ {i : Instr} {word : Word} {code u : Nat} {fn : FpFmt → FVal → Special},
      exec i s = finish 8 (vForm word f 1 (specialOp f.et code u fn)) s → one i code u fn := fun he =>
    elementwise_of_runs hw (special_runs hF he) fun _ _ => rfl
  refine ⟨fun x _ => exactCases_decode (binaryFormat_of hf hF) f.et x, hone rfl, hone rfl, hone rfl, hone rfl,
    fun code u x neg m e => ?_⟩
  rcases specialResult_value f.et F code u x neg m e with h | ⟨ht, hwithin, fl, hfl⟩
  · dsimp only
    rw [h]
    exact ⟨by simp [flagNX], fun _ => rfl, fun _ => .inr rfl⟩
  · dsimp only
    rw [hfl]
    exact ⟨by simp [flagNX], fun hne => absurd ht hne, fun _ => .inl hwithin⟩

end Sys2Proof.Proofs
end

section
/-! Scalar stores (O22): one whose line stands in a full set of another bank than its page names. -/

namespace Sys2Proof.Proofs
open Sys2Proof.Machine Sys2Proof.Claim

/-- The translation of page 0 onto 0x6000, cached, whose home bank is one of level 1 (HL 1). -/
def blockPage : TlbEntry := { mappedPage with pte := 0x64BF }

/-- The translation of page 1 onto 0x7000, a page of tensors (TB 1). -/
def tensorPage : TlbEntry := { mappedPage with vpn := 1, pte := 0x0800_0000_0000_70BF }

/-- The line of the bytes from 0x6000 on, resident in bank 6 of level 0: half-size, its second dword alone is far from zero. -/
def compressedLine : HomeLine :=
  { key := .addr none 0x60, bank := (0, 6), slot := 0, data := 2 ^ 104, dirty := 0, poison := 0, runs := [(0, 256, 0x6000)], root := 0 }

/-- A tensor line of the same set in data entry i, whose byte at address 0x1000 + i is dirty. -/
def neighbourLine (i : Nat) : HomeLine :=
  { key := .tensor 0 0 0 0 (0x60 + 4096 * i), bank := (0, 6), slot := i, data := 0x55, dirty := 1, poison := 0
    runs := [(0, 1, 0x1000 + i)], root := 0 }

/-- Core 0 is to store 2^50 at address 0, whose line shares data entry 0 with one of the 16 dirty lines that fill its set. -/
def crowdedStore : State :=
  let s := State.reset.withFetchWord 128 (2 ^ 104)
  { s with ms := { s.ms with homes := compressedLine :: (List.range 16).map neighbourLine } }.modSelf fun k =>
    { k.wr 3 (2 ^ 50) with cache := { k.cache with tlb := [blockPage, tensorPage] } }

/-- ST x3, [x2] of a dword, plain. -/
def plainStore : SM := { xd := 3, xa := 2, xb := 0, ord := 0, scope := 0, size := 3, imm := 0, ext := none }

/-- The byte that memory holds at an address after an outcome (R156). -/
def byteAfter (a : Nat) : Out → Option Nat
  | .next t => some (byteAt t a)
  | _ => none

/-- No line of the bytes stored stands at a home but the line the store uses. -/
theorem crowdedStore_atRest : atRest crowdedStore 0x6000 8 (some (.addr none 0x60)) := by
  have hhomes : crowdedStore.ms.homes = compressedLine :: (List.range 16).map neighbourLine := rfl
  refine ⟨by decide +kernel, ?_, fun h hh t l hkey _ _ => ?_⟩
  · have hhdm : crowdedStore.ms.hdm = [] := by decide +kernel
    simp [hhdm]
  · rw [hhomes, List.mem_cons, List.mem_map] at hh
    obtain rfl | ⟨i, -, rfl⟩ := hh
    · rfl
    · exact absurd hkey (by simp [neighbourLine])

/-- The line grows incompressible and moves: the least recently used of its set gives way, and its dirty byte reaches memory
(R109, R110). -/
theorem crowdedStore_writesBack : byteAfter 0x700F (exec (.st plainStore) crowdedStore) = some 0x55 := by decide +kernel

/-- Refutes O22: a store whose line stands in another bank than its page's HL names, and there makes its half-size line
incompressible, evicts a dirty line of that full set, which changes a byte of memory that is not the store's. -/
theorem not_scalarMemory : ¬ Obligations.ScalarMemory := by
  rintro ⟨-, hstores⟩
  have hready : ready crowdedStore [2, 3] := by unfold ready; decide +kernel
  obtain ⟨-, hstore, -⟩ := hstores plainStore crowdedStore blockPage hready (by decide)
  have hleaf : crowdedStore.leafAddr blockPage.pte blockPage.level (crowdedStore.self.rd plainStore.xa + plainStore.value) = 0x6000 := by
    decide +kernel
  rw [hleaf] at hstore
  have hkey : (if uncached crowdedStore blockPage 0x6000 then none else some (lineKey crowdedStore blockPage 0x6000)) =
      some (.addr none 0x60) := by decide +kernel
  obtain ⟨t, hnext, ⟨-, hothers⟩, -⟩ := hstore (by decide +kernel) (by dsimp only [mapped, mappedFor]; decide +kernel)
    (hkey ▸ crowdedStore_atRest) (fun h => absurd h (by decide)) (fun _ => ⟨0, by decide, by decide +kernel⟩)
  have hkept : byteAfter 0x700F (.next t) = some (byteAt crowdedStore 0x700F) :=
    congrArg some (hothers 0x700F (by decide) (.inr (by decide)))
  rw [← hnext, crowdedStore_writesBack] at hkept
  exact absurd hkept (by decide +kernel)

end Sys2Proof.Proofs
end

section
/-! Scalar atomics (O23): one that meets a load run ahead of it. -/

namespace Sys2Proof.Proofs
open Sys2Proof.Machine Sys2Proof.Claim

/-- AMOADD x1, x2, x3 on a dword, plain. -/
def plainAmo : SM := { plainClaim with size := 3 }

/-- The load that has run ahead of core 0's atomic read the atomic's own dword: it is squashed, and DRPL counts it (R143, R144). -/
theorem claimingBehindLoad_amoReplays : replaysAfter (exec (.amoAdd plainAmo) claimingBehindLoad) = some 1 := by decide +kernel

/-- Refutes O23: an AMOADD whose dword a run-ahead load has read squashes that load and DRPL rises by one (R143, R144), where
the clause on the atomics has DRPL kept. -/
theorem not_atomicsAndFences : ¬ Obligations.AtomicsAndFences := by
  rintro ⟨hatomics, -⟩
  have hready : ready claimingBehindLoad [2, 3] := by unfold ready; decide +kernel
  have hslot : slotFree claimingBehindLoad 1 := by unfold slotFree; decide +kernel
  obtain ⟨-, hamo, -⟩ := hatomics plainAmo claimingBehindLoad mappedPage hready hslot (.inr rfl)
  obtain ⟨⟨t, hnext, -, honly⟩, -⟩ := hamo (by
    refine ⟨by decide +kernel, ?_, atRest_of_empty ?_ ?_ ?_ _ _ _, by decide +kernel, fun h => absurd h (by decide)⟩
    · dsimp only [mapped, mappedFor]
      decide +kernel
    all_goals decide +kernel)
  have hkept := replaysAfter_onlyMemory honly (replying_csrAt _ _ _ _)
  rw [← hnext, claimingBehindLoad_amoReplays] at hkept
  exact absurd hkept (by decide +kernel)

end Sys2Proof.Proofs
end

section
/-! Numbers byte by byte, and the bytes of a tensor line as its elements (R49, O32). -/

namespace Sys2Proof.Proofs
open Sys2Proof.Machine Sys2Proof.Claim

/-! ### Numbers byte by byte -/

/-- Two numbers of n bytes that agree in every byte are equal. -/
theorem eq_of_bytes {n x y : Nat} (hx : x < 2 ^ (8 * n)) (hy : y < 2 ^ (8 * n))
    (h : ∀ i < n, fld x (8 * i) 8 = fld y (8 * i) 8) : x = y := by
  refine Nat.eq_of_testBit_eq fun b => ?_
  by_cases hb : b < 8 * n
  · have hbit : ∀ z, z.testBit b = (fld z (8 * (b / 8)) 8).testBit (b % 8) := fun z => by
      rw [testBit_fld _ _ _ _ (Nat.mod_lt _ (by decide)), Nat.div_add_mod]
    rw [hbit x, hbit y, h (b / 8) (by omega)]
  · have hpow : 2 ^ (8 * n) ≤ 2 ^ b := Nat.pow_le_pow_right (by decide) (by omega)
    rw [Nat.testBit_lt_two_pow (hx.trans_le hpow), Nat.testBit_lt_two_pow (hy.trans_le hpow)]

theorem ofElems_lt (w : Nat) (l : List Nat) : ofElems w l < 2 ^ (w * l.length) := by
  induction l with
  | nil => simp [ofElems]
  | cons v l ih =>
    have hv := Nat.mod_lt v (Nat.two_pow_pos w)
    have hle : 2 ^ w * (ofElems w l + 1) ≤ 2 ^ w * 2 ^ (w * l.length) := Nat.mul_le_mul_left _ ih
    rw [ofElems, List.length_cons, Nat.mul_succ, Nat.add_comm (w * _) w, Nat.pow_add]
    rw [Nat.mul_add, Nat.mul_one] at hle
    omega

/-- An element of a number made of elements. -/
theorem fld_ofElems (w : Nat) (l : List Nat) {i : Nat} (h : i < l.length) : fld (ofElems w l) (w * i) w = l[i] % 2 ^ w := by
  induction l generalizing i with
  | nil => exact absurd h (Nat.not_lt_zero i)
  | cons v l ih =>
    have hlow : (v % 2 ^ w + 2 ^ w * ofElems w l) / 2 ^ w = ofElems w l := by
      rw [Nat.add_mul_div_left _ _ (Nat.two_pow_pos w), Nat.div_eq_of_lt (Nat.mod_lt _ (Nat.two_pow_pos w)), Nat.zero_add]
    cases i with
    | zero => simp [fld, ofElems, Nat.add_mul_mod_self_left]
    | succ i =>
      rw [List.getElem_cons_succ, ← ih (by simpa using h), ofElems, fld, fld, Nat.mul_succ, Nat.add_comm (w * i) w, Nat.pow_add,
        ← Nat.div_div_eq_div_mul, hlow]

theorem elemsOf_length (w v n : Nat) : (elemsOf w v n).length = n := by
  induction n generalizing v with
  | zero => rfl
  | succ n ih => rw [elemsOf, List.length_cons, ih]

theorem elemsOf_getElem (w v : Nat) {n i : Nat} (h : i < (elemsOf w v n).length) : (elemsOf w v n)[i] = fld v (w * i) w := by
  induction n generalizing v i with
  | zero => exact absurd h (Nat.not_lt_zero i)
  | succ n ih =>
    cases i with
    | zero => simp [elemsOf, fld]
    | succ i =>
      simp only [elemsOf, List.getElem_cons_succ]
      rw [ih, fld, fld, Nat.div_div_eq_div_mul, ← Nat.pow_add, Nat.mul_succ, Nat.add_comm w]

/-! ### The bytes of a line as its elements (R49) -/

/-- A byte of a line cleaned. -/
theorem fld_cleanLine (d : Desc) (b x : Nat) {i : Nat} (hi : i < b) : fld (d.cleanLine b x) (8 * i) 8 =
    if d.et = some .e3m2 ∨ d.et = some .e2m3 then fld x (8 * i) 6 else fld x (8 * i) 8 := by
  by_cases h : d.et = some .e3m2 ∨ d.et = some .e2m3
  · have hlen : i < ((elemsOf 8 x b).map fun b => b % 64).length := by rwa [List.length_map, elemsOf_length]
    rw [Desc.cleanLine, if_pos (by simpa using h), if_pos h, fld_ofElems _ _ hlen, List.getElem_map, elemsOf_getElem, fld, fld]
    omega
  · rw [Desc.cleanLine, if_neg (by simpa using h), if_neg h]

theorem cleanLine_lt (d : Desc) {b x : Nat} (hx : x < 2 ^ (8 * b)) : d.cleanLine b x < 2 ^ (8 * b) := by
  rw [Desc.cleanLine]
  split
  · have := ofElems_lt 8 ((elemsOf 8 x b).map fun b => b % 64)
    rwa [List.length_map, elemsOf_length] at this
  · exact hx

/-- What the statements call cleaned is what the model makes of a line, byte by byte. -/
theorem fld_cleanLine_of_cleaned {d : Desc} {b x v : Nat} (h : cleaned d b x v) {i : Nat} (hi : i < b) :
    fld (d.cleanLine b x) (8 * i) 8 = fld v (8 * i) 8 := by rw [fld_cleanLine d b x hi, h.2 i hi]

theorem cleanLine_of_cleaned {d : Desc} {b x v : Nat} (hx : x < 2 ^ (8 * b)) (h : cleaned d b x v) : d.cleanLine b x = v :=
  eq_of_bytes (cleanLine_lt d hx) h.1 fun _ hi => fld_cleanLine_of_cleaned h hi

theorem lineRead_lt (d : BitVec 2048) (off n : Nat) : lineRead d off n < 2 ^ (8 * n) := fld_lt _ _ _

end Sys2Proof.Proofs
end

section
/-! The lines of TLD and TST one after another (R270), and TLD (O32). -/

namespace Sys2Proof.Proofs
open Sys2Proof.Machine Sys2Proof.Claim

/-! ### Lines one after another (R270) -/

/-- Lines that each lead from one state of a chain to the next. -/
theorem lineLoop_chain {body : Nat → X Unit} {σ : Nat → State} (n k : Nat) (h : ∀ j, k ≤ j → j < k + n → body j (σ j) = .ok () (σ (j + 1))) :
    lineLoop body n k (σ k) = (none, σ (k + n)) := by
  induction n generalizing k with
  | zero => rfl
  | succ n ih =>
    rw [lineLoop, h k le_rfl (by omega)]
    exact (ih (k + 1) fun j h1 h2 => h j (by omega) (by omega)).trans (by rw [Nat.add_right_comm, Nat.add_assoc])

theorem lineForm_chain {body : Nat → X Unit} {σ : Nat → State} {count : Nat} (per : Nat) (ended : Option Stop → Core → Core)
    (h0 : (σ 0).self.vstart = 0) (h : ∀ j < count, body j (σ j) = .ok () (σ (j + 1))) :
    lineForm count per body ended (σ 0) = .ok () ((σ count).modSelf fun k => ended none (k.setCsr 0x003 0)) := by
  have hloop := lineLoop_chain count 0 fun j _ hj => h j (by omega)
  simp only [lineForm, h0, Nat.zero_div, Nat.sub_zero, hloop, Nat.zero_add]

/-- The register of a line form: its width is VCFG's, and the lines fit (R270). -/
theorem lineRegister_ok {f : TT} {s : State} {a : LineArgs} (hew : s.self.ew ≤ 4) (hw : ewWidth s.self.ew = a.d.w)
    (hfit : a.count * a.per ≤ s.self.capacity f.t.toNat a.d.w) : lineRegister f a s = .ok () s := by
  simp only [lineRegister, X.bind_apply, X.self_apply, hew, hw, hfit, decide_true, beq_self_eq_true, Bool.and_self, X.require_true]

/-- A tensor line that the L1 data cache holds is read there (R115). -/
theorem tensorRead_l1 {c : Ctx} {d : Desc} {tid n : Nat} {l : L1Line} {s : State} (h : (s.core c.core).l1Line (d.key c tid n) = some l)
    (off len kind : Nat) (addr : Option Nat) (pre : Bool) :
    tensorRead c d tid n off len kind addr pre s = .ok (lineRead l.data off len, false) s := by
  simp only [tensorRead, X.bind_apply, X.get_apply, h, X.pure_apply]

/-! ### The lines of TLD in a register -/

/-- The entries of n numbers written from an offset of a register. -/
theorem find_run (v : Nat → Nat) (off n i : Nat) :
    (((List.range n).map fun b => (b, v b)).map fun r => (r.1 + off, r.2)).reverse.find? (·.1 == i) =
      if off ≤ i ∧ i < off + n then some (i, v (i - off)) else none := by
  by_cases hoff : off ≤ i
  · obtain ⟨j, rfl⟩ := Nat.exists_eq_add_of_le hoff
    rw [← List.map_reverse, find_moved, find_listed]
    by_cases hj : j < n
    · rw [if_pos hj, if_pos (by omega), Option.map_some, Nat.add_sub_cancel_left, Nat.add_comm]
    · rw [if_neg hj, if_neg (by omega), Option.map_none]
  · rw [if_neg (by omega), List.find?_eq_none]
    intro r hr
    obtain ⟨q, -, rfl⟩ := List.mem_map.mp (List.mem_reverse.mp hr)
    simp only [beq_iff_eq]
    omega

/-- The first n lines, of p elements of w bits each, in a register (R270). -/
def fillLines (t w p : Nat) (v : Nat → Nat) (k : Core) (n : Nat) : Core :=
  (List.range n).foldl (fun k j => k.vwrite (.vec t w (j * p)) ((List.range p).map fun i => (i, fld (v j) (w * i) w)) none) k

section fillLines
variable {t w p : Nat} {v : Nat → Nat} {k : Core}

theorem fillLines_succ (n : Nat) : fillLines t w p v k (n + 1) =
    (fillLines t w p v k n).vwrite (.vec t w (n * p)) ((List.range p).map fun i => (i, fld (v n) (w * i) w)) none := by
  simp only [fillLines, List.range_succ, List.foldl_append, List.foldl_cons, List.foldl_nil]

/-- Filling a register changes the vector unit alone. -/
theorem fillLines_eq (n : Nat) : fillLines t w p v k n = { k with vec := (fillLines t w p v k n).vec } := by
  induction n with
  | zero => rfl
  | succ n ih =>
    rw [fillLines_succ, Core.vwrite_eq, ih]

theorem fillLines_onlyReg (n : Nat) : onlyReg t k.vec (fillLines t w p v k n).vec := by
  induction n with
  | zero => exact ⟨fun _ _ _ => rfl, rfl⟩
  | succ n ih =>
    rw [fillLines_succ]
    obtain ⟨hreg, hm⟩ := onlyReg_vwrite (fillLines t w p v k n) t w (n * p) ((List.range p).map fun i => (i, fld (v n) (w * i) w)) none
    exact ⟨fun c hc h42 => (hreg c hc h42).trans (ih.1 c hc h42), hm.trans ih.2⟩

/-- An element of the register: of the line it lies in, else what it was. -/
theorem fillLines_elem (ht : t < 42) (n : Nat) {i : Nat} (hi : w * i + w ≤ codeBits t) :
    regElem t w (fillLines t w p v k n).vec i = if i < n * p then fld (v (i / p)) (w * (i % p)) w else regElem t w k.vec i := by
  induction n with
  | zero => simp [fillLines]
  | succ n ih =>
    rw [fillLines_succ, Nat.succ_mul]
    refine (regElem_writeReg ht hi fun _ h => (Option.some_ne_none _ h.symm).elim).trans ?_
    rw [find_run]
    by_cases hlast : n * p ≤ i ∧ i < n * p + p
    · have hdiv : i / p = n := Nat.div_eq_of_lt_le hlast.1 (by rw [Nat.succ_mul]; exact hlast.2)
      have hmod : i - n * p = i % p := by
        have := Nat.div_add_mod' i p
        rw [hdiv] at this
        omega
      rw [if_pos hlast, if_pos hlast.2, hdiv, hmod]
      exact Nat.mod_eq_of_lt (fld_lt _ _ _)
    · rw [if_neg hlast]
      refine ih.trans ?_
      by_cases hbelow : i < n * p
      · rw [if_pos hbelow, if_pos (by omega)]
      · rw [if_neg hbelow, if_neg (by omega)]

end fillLines

end Sys2Proof.Proofs
end

section
/-! TLD of a register and of a tile (O32). -/

namespace Sys2Proof.Proofs
open Sys2Proof.Machine Sys2Proof.Claim

/-- A change of the vector unit and of CSRs, completed, is one of the vector unit alone, whatever the size. -/
theorem onlyVector_retire_size {s : State} {g : Core → Core} {v : VecUnit} {c : Vector Word 518} (n : Nat)
    (h : g s.self = { s.self with vec := v, csr := c }) : onlyVector s (s.modSelf fun k => (g k).retire n) := by
  refine ⟨State.modSelf_congr s (by rw [State.modSelf_self]), ?_⟩
  rw [State.modSelf_self, h, Core.retire_vec, Core.retire_wait]
  exact retire_eq _ n

section tld
variable {s : State} {f : TT} {d : Desc} {first : Nat} {v : Nat → Nat}

/-- A count of zero lines does nothing (R270). -/
theorem lineArgs_zero (h0 : f.uvalue = 0) (hr : ready s [f.xa, f.xb, f.xc]) (kind : Nat) : lineArgs f kind s = .ok none s := by
  simp only [lineArgs, X.bind_apply, readX_ok (hr f.xa (by simp)), readX_ok (hr f.xb (by simp)), readX_ok (hr f.xc (by simp)), h0,
    if_true, X.pure_apply]

theorem exec_tld_zero (h0 : f.uvalue = 0) (hr : ready s [f.xa, f.xb, f.xc]) : exec (.tld f) s = did s (extSize f.ext) id := by
  refine finish_unchanged (atomically_ok (a := ()) ?_)
  simp only [X.bind_apply, lineArgs_zero h0 hr, X.pure_apply]

theorem exec_tst_zero (h0 : f.uvalue = 0) (hr : ready s [f.xa, f.xb, f.xc]) : exec (.tst f) s = did s (extSize f.ext) id := by
  refine finish_unchanged (atomically_ok (a := ()) ?_)
  simp only [X.bind_apply, lineArgs_zero h0 hr, X.pure_apply]

/-- The lines that a TLD names stand in the L1 data cache, and v gives their bytes as elements of the tensor. -/
def linesCached (s : State) (f : TT) (d : Desc) (first : Nat) (v : Nat → Nat) : Prop := ∀ j < f.uvalue,
  ∃ l, s.self.l1Line (d.key (s.ctxOf s.cur) (bits (s.self.rd f.xa) 48 16) (first + j)) = some l ∧
    cleaned d d.tileBytes (lineRead l.data 0 d.tileBytes) (v j)

/-- The bytes of line j as TLD reads them (R269, R270). -/
def lineBytes (a : LineArgs) (j : Nat) : X Nat := do
  lineInside a 0 j
  let (v, bad) ← tensorRead a.c a.d a.tid (a.n + j) 0 a.bytes 0 none
  require (!bad) causeMemUE (memUE false 7 0 (a.n + j))
  return a.d.cleanLine a.bytes v

/-- A line is read from the cache of the core, whatever else of the core has changed. -/
theorem lineBytes_cached {g : Core → Core} (hn : namesLines s f d first) (hl : linesCached s f d first v)
    (hg : (g s.self).cache = s.self.cache) {j : Nat} (hj : j < f.uvalue) :
    lineBytes (tstArgs s f d first) j (s.modSelf g) = .ok (v j) (s.modSelf g) := by
  obtain ⟨-, -, htiles, -⟩ := hn
  obtain ⟨l, hline, hclean⟩ := hl j hj
  have hin : first + j < d.tiles := by omega
  have hthere : ((s.modSelf g).core (s.ctxOf s.cur).core).l1Line (d.key (s.ctxOf s.cur) (bits (s.self.rd f.xa) 48 16) (first + j)) =
      some l := by
    rw [show (s.modSelf g).core (s.ctxOf s.cur).core = g s.self from State.modSelf_self s g, ← hline, Core.l1Line, Core.l1Line, hg]
  simp only [lineBytes, tstArgs, lineInside, X.bind_apply, hin, decide_true, X.require_true, tensorRead_l1 hthere, Bool.not_false,
    X.pure_apply, cleanLine_of_cleaned (lineRead_lt _ _ _) hclean]

theorem checkStates_full {t : Nat} (h : s.self.vec.state t = .full) :
    checkStates { word := 0, ew := none, et := 0, srcs := [], dsts := [t] } s = .ok () s := by
  simp [checkStates, h]

/-- TLD of a register (R270). -/
theorem exec_tld_register (hn : namesLines s f d first) (h0 : s.self.vstart = 0) (hl : linesCached s f d first v)
    (hmode : f.mode.getLsbD 0 = false) (hew : s.self.ew ≤ 4) (hw : ewWidth s.self.ew = d.w)
    (hfull : s.self.vec.state f.t.toNat = .full) (hfit : f.uvalue * d.tileSize ≤ s.self.capacity f.t.toNat d.w) :
    exec (.tld f) s = did s (extSize f.ext) fun k => (fillLines f.t.toNat d.w d.tileSize v k f.uvalue).setCsr 0x003 0 := by
  let σ := fun j => s.modSelf fun k => fillLines f.t.toNat d.w d.tileSize v k j
  have hσ : σ 0 = s := State.modSelf_of_eq s rfl
  have hline : ∀ j < f.uvalue, (do
      let v ← lineBytes (tstArgs s f d first) j
      modSelf fun c => c.vwrite (.vec f.t.toNat d.w (j * d.tileSize))
        ((List.range d.tileSize).map fun p => (p, fld v (d.w * p) d.w)) none : X Unit) (σ j) = .ok () (σ (j + 1)) := by
    intro j hj
    have hcache : (fillLines f.t.toNat d.w d.tileSize v s.self j).cache = s.self.cache := by rw [fillLines_eq]
    simp only [X.bind_apply, σ, lineBytes_cached (g := fun k => fillLines f.t.toNat d.w d.tileSize v k j) hn hl hcache hj,
      X.modSelf_apply, State.modSelf_modSelf, fillLines_succ]
  have hform := lineForm_chain d.tileSize (fun _ k => k) (hσ ▸ h0) hline
  rw [hσ] at hform
  refine finish_did (atomically_ok (a := ()) ?_)
  have hreg : lineRegister f (tstArgs s f d first) s = .ok () s := lineRegister_ok hew hw hfit
  simp only [X.bind_apply, lineArgs_named hn, hmode, Bool.false_eq_true, if_false]
  rw [show lineRegister f ⟨s.ctxOf s.cur, d, bits (s.self.rd f.xa) 48 16, first, f.uvalue, d.tileSize, d.tileBytes⟩ s = .ok () s from hreg]
  simp only [checkStates_full hfull]
  refine Eq.trans hform ?_
  simp only [σ, State.modSelf_modSelf]

/-- What TLD sets of its tile beside the state (R270). -/
def filledTile (d : Desc) (e : Tile) : Tile :=
  { e with pk := false, p := 0, conf := false, pot := false, et := BitVec.ofNat 5 (bits (d.at_ 0) 55 5) }

/-- The core whose tile t holds the first n lines of a TLD and is being filled. -/
def fillingTile (d : Desc) (t : Nat) (v : Nat → Nat) (k : Core) (n : Nat) : Core :=
  storeRecords (k.setTile t { filledTile d (k.tile t) with st := .filling, susp := false }) (k.tile t).start d.tileBytes v n

theorem fillingTile_eq (t n : Nat) (k : Core) : fillingTile d t v k n =
    { k with tiles := (fillingTile d t v k n).tiles, scratch := (fillingTile d t v k n).scratch
             scratchPoison := (fillingTile d t v k n).scratchPoison } := by
  induction n with
  | zero => rfl
  | succ n ih =>
    rw [fillingTile, storeRecords_succ, ← fillingTile, Core.scratchWrite, ih]

theorem fillingTile_tiles (t n : Nat) (k : Core) : (fillingTile d t v k n).tiles =
    (k.setTile t { filledTile d (k.tile t) with st := .filling, susp := false }).tiles :=
  storeRecords_beside (·.tiles) (fun _ _ _ _ => rfl) _ _ _ _ _

/-- TLD of a tile (R90, R270). -/
theorem exec_tld_tile (hn : namesLines s f d first) (h0 : s.self.vstart = 0) (hl : linesCached s f d first v)
    (hmode : f.mode.getLsbD 0 = true) (hv : (s.self.tile f.t.toNat).v = true)
    (ht : (s.self.tile f.t.toNat).tenant = s.self.tk.tenant) (hfit : f.uvalue * d.tileBytes ≤ (s.self.tile f.t.toNat).bytes)
    (hst : (s.self.tile f.t.toNat).st = .empty ∨
      ((s.self.tile f.t.toNat).st = .ready ∨ (s.self.tile f.t.toNat).st = .poisoned) ∧ (s.self.tile f.t.toNat).readers = 0) :
    exec (.tld f) s = did s (extSize f.ext) fun k =>
      ((fillingTile d f.t.toNat v k f.uvalue).setCsr 0x003 0).modTile f.t.toNat fun e => { e with st := .ready } := by
  let σ := fun j => s.modSelf fun k => fillingTile d f.t.toNat v k j
  have hstart : (σ 0).self.vstart = 0 := by
    rw [State.modSelf_self, Core.vstart, Core.csrAt, fillingTile_eq]
    exact h0
  have hline : ∀ j < f.uvalue, (do
      let v ← lineBytes (tstArgs s f d first) j
      modSelf fun c => c.scratchWrite ((s.self.tile f.t.toNat).start + j * d.tileBytes) d.tileBytes v : X Unit) (σ j) =
        .ok () (σ (j + 1)) := by
    intro j hj
    have hcache : (fillingTile d f.t.toNat v s.self j).cache = s.self.cache := by rw [fillingTile_eq]
    simp only [X.bind_apply, σ, lineBytes_cached (g := fun k => fillingTile d f.t.toNat v k j) hn hl hcache hj, X.modSelf_apply,
      State.modSelf_modSelf]
    refine congrArg _ (State.modSelf_congr s ?_)
    rw [fillingTile, fillingTile, storeRecords_succ]
  have hform := lineForm_chain d.tileSize (fun stop k => k.modTile f.t.toNat fun e => match stop with
          | none => { e with st := .ready }
          | some (.trap c _) => if c = causeMemUE then { e with st := .poisoned } else { e with susp := true }
          | some _ => e) hstart hline
  refine finish_did (atomically_ok (a := ()) ?_)
  have hself : (s.self.vstart = 0) = True := eq_true h0
  simp only [X.bind_apply, lineArgs_named hn, hmode, if_true, namedTile_mine hv ht, hfit, decide_true, X.require_true, X.self_apply,
    X.ite_apply, hself, fillStart_ok hst]
  refine Eq.trans (show _ = _ from hform) ?_
  simp only [σ, State.modSelf_modSelf]

end tld

end Sys2Proof.Proofs
end

section
/-! Bytes of a line written (R99), and what TST leaves at the home of a line (O32). -/

namespace Sys2Proof.Proofs
open Sys2Proof.Machine Sys2Proof.Claim

/-! ### Bytes of a line (R99) -/

/-- A byte of a number with n bytes from off replaced. -/
theorem fld_putFld_byte (x off n v i : Nat) : fld (putFld x (8 * off) (8 * n) v) (8 * i) 8 =
    if off ≤ i ∧ i < off + n then fld v (8 * (i - off)) 8 else fld x (8 * i) 8 := by
  split
  next h =>
    have hsame := fld_fld (v := putFld x (8 * off) (8 * n) v) (lo := 8 * off) (len := 8 * n) (a := 8 * (i - off)) (n := 8) (by omega)
    rw [fld_putFld_same, show 8 * off + 8 * (i - off) = 8 * i by omega] at hsame
    rw [← hsame, show 8 * n = n * 8 by omega]
    exact fld_mod (by omega)
  next h =>
    by_cases hi : i < off
    · exact fld_putFld_below (by omega)
    · exact fld_putFld_above (by omega)

/-- A byte of a line written. -/
theorem lineRead_lineWrite (d : BitVec 2048) (off n v : Nat) {i : Nat} (hi : i < 256) : lineRead (lineWrite d off n v) i 1 =
    if off ≤ i ∧ i < off + n then fld v (8 * (i - off)) 8 else lineRead d i 1 := by
  have hbyte := fld_mod (v := putFld d.toNat (8 * off) (8 * n) v) (w := 8) hi
  rw [lineRead, lineWrite, BitVec.toNat_ofNat, lineRead, Nat.mul_one]
  exact hbyte.trans (fld_putFld_byte _ _ _ _ _)

/-- The mask of n bytes at an offset. -/
theorem getLsbD_lineMask (off n : Nat) {i : Nat} (hi : i < 256) : (lineMask off n).getLsbD i = decide (off ≤ i ∧ i < off + n) := by
  rw [lineMask, fullMask, BitVec.getLsbD_ofNat, Nat.mul_comm, Nat.testBit_two_pow_mul, Nat.testBit_two_pow_sub_one]
  by_cases h : off ≤ i
  · simp [h, hi, show i - off < n ↔ i < off + n by omega]
  · simp [h, hi]

/-- Without gated clusters no bank is one of theirs. -/
theorem isGated_none {ms : MemSys} (h : ms.gated = []) (bank : Nat × Nat) : ms.isGated bank = false := by
  rw [MemSys.isGated, h, List.any_nil, Bool.and_false]

/-- A tile takes at most a line. -/
theorem tileBytes_le {d : Desc} {tid win : Nat} (h : d.ok tid win = true) : d.tileBytes ≤ 256 := by
  simp only [Desc.ok, Bool.and_eq_true, decide_eq_true_eq] at h
  have hsize : d.tileSize * d.w ≤ 2048 := by tauto
  rw [Desc.tileBytes]
  omega

/-! ### A line at its home after TST (R271) -/

/-- The home of a line after some of its runs are written from v: the bytes of those runs, dirty, and the others as in h. -/
structure RunsWritten (key : LineKey) (h : HomeLine) (v : Nat) (rs : List (Nat × Nat × Nat)) (ms : MemSys) (g : HomeLine) : Prop where
  home : ms.home key = some g
  alone : alone ms key
  gated : ms.gated = []
  runs : g.runs = h.runs
  byte : ∀ i < 256, lineRead g.data i 1 = if rs.any (fun r => r.1 ≤ i && i < r.1 + r.2.1) then fld v (8 * i) 8 else lineRead h.data i 1
  dirty : ∀ i < 256, g.dirty.getLsbD i = (rs.any (fun r => r.1 ≤ i && i < r.1 + r.2.1) || h.dirty.getLsbD i)

/-- The line as a store of n bytes at an offset leaves it. -/
def HomeLine.stored (g : HomeLine) (off n v : Nat) : HomeLine :=
  { g with data := lineWrite g.data off n v, dirty := g.dirty ||| lineMask off n
           poison := g.poison &&& ~~~(List.range 4).foldl (fun (m : BitVec 256) j =>
    if off ≤ 64 * j && 64 * j + 64 ≤ off + n then m ||| lineMask (64 * j) 64 else m) 0 }

theorem storeBytes_eq (ms : MemSys) (g : HomeLine) (off n v : Nat) : ms.storeBytes g off n v = ms.putHome (HomeLine.stored g off n v) := rfl

theorem forM_cons_ok {α : Type} {f : α → X Unit} {a : α} {l : List α} {s t u : State} (ha : f a s = .ok () t)
    (hl : l.forM f t = .ok () u) : (a :: l).forM f s = .ok () u := by
  change (f a >>= fun _ => l.forM f) s = _
  simp only [X.bind_apply, ha, hl]

section runs
variable {key : LineKey} {h g : HomeLine} {v : Nat} {rs : List (Nat × Nat × Nat)} {c : Ctx} {d : Desc} {tid n : Nat} {u : State}

/-- One more run written (R99, R105). -/
theorem RunsWritten.write (hr : RunsWritten (d.key c tid n) h v rs u.ms g) {r : Nat × Nat × Nat} (hmem : r ∈ h.runs) :
    ∃ w g', tensorWrite c d tid n r.1 r.2.1 (fld v (8 * r.1) (8 * r.2.1)) 1 none u = .ok () w ∧
      RunsWritten (d.key c tid n) h v (rs ++ [r]) w.ms g' := by
  obtain ⟨hhome, halone, hgated, hruns, hbyte, hdirty⟩ := hr
  have hput : SamePlaces u.ms (u.ms.putHome g) := SamePlaces.putHome hhome rfl rfl rfl
  have hthere := home_putHome hhome
  obtain ⟨g', hg', hp⟩ := hput.alone halone
  obtain rfl : g' = g := Option.some.inj (hg'.symm.trans hthere)
  have hfill := tensorFill_resident (c := c) (d := d) (tid := tid) (n := n) hhome 1 none false none
  by_cases hin : g'.inRun r.1 = true
  · let ms := ((u.ms.putHome g').storeBytes g' r.1 r.2.1 (fld v (8 * r.1) (8 * r.2.1))).dropReplica (clusterOf c.core) (d.key c tid n)
    have hplaces : SamePlaces u.ms ms := (hput.trans (SamePlaces.storeBytes hthere _ _ _)).trans (SamePlaces.dropReplica _ _ _)
    refine ⟨({ u with ms := ms }.modCluster (clusterOf c.core) fun k => k.l1DropReplica (d.key c tid n)).modCore c.core
      fun k => k.l1Store (d.key c tid n) r.1 r.2.1 (fld v (8 * r.1) (8 * r.2.1)),
      HomeLine.stored g' r.1 r.2.1 (fld v (8 * r.1) (8 * r.2.1)), ?_, ?_, hplaces.alone halone, hplaces.gated.trans hgated, hruns, ?_, ?_⟩
    · have hopen : ms.gated = [] := hplaces.gated.trans hgated
      simp only [tensorWrite, X.bind_apply, hfill, hin, Bool.not_true, Bool.false_eq_true, if_false]
      rw [settleEntry_alone (by exact hp)]
      simp only [X.modify_apply, X.get_apply, X.ite_apply]
      exact if_neg (Bool.eq_false_iff.mp (isGated_none hopen _))
    · exact List.find?_cons_of_pos (by simp [home_key hhome])
    · intro i hi
      rw [HomeLine.stored, lineRead_lineWrite _ _ _ _ hi, hbyte i hi, List.any_append]
      by_cases hrun : r.1 ≤ i ∧ i < r.1 + r.2.1
      · rw [if_pos hrun, fld_fld (by omega), show 8 * r.1 + 8 * (i - r.1) = 8 * i by omega]
        simp [hrun.1, hrun.2]
      · have hnot : (decide (r.1 ≤ i) && decide (i < r.1 + r.2.1)) = false := by simpa using fun h => not_lt.mp fun h' => hrun ⟨h, h'⟩
        rw [if_neg hrun, List.any_cons, hnot, List.any_nil, Bool.or_false, Bool.or_false]
    · intro i hi
      rw [HomeLine.stored, BitVec.getLsbD_or, getLsbD_lineMask _ _ hi, hdirty i hi, List.any_append, List.any_cons, List.any_nil,
        Bool.or_false, Bool.or_right_comm, Bool.decide_and]
  · have hempty : ∀ i, (decide (r.1 ≤ i) && decide (i < r.1 + r.2.1)) = false := by
      intro i
      rw [Bool.eq_false_iff]
      intro hi
      simp only [Bool.and_eq_true, decide_eq_true_eq] at hi
      refine hin ?_
      rw [HomeLine.inRun, List.any_eq_true]
      exact ⟨r, hruns ▸ hmem, by simp; omega⟩
    refine ⟨{ u with ms := u.ms.putHome g' }, g', ?_, hthere, hput.alone halone, hgated, hruns, fun i hi => ?_, fun i hi => ?_⟩
    · simp only [tensorWrite, X.bind_apply, hfill, hin, Bool.not_false, if_true, X.pure_apply]
    · rw [hbyte i hi, List.any_append, List.any_cons, hempty, List.any_nil, Bool.or_false, Bool.or_false]
    · rw [hdirty i hi, List.any_append, List.any_cons, hempty, List.any_nil, Bool.or_false, Bool.or_false]

/-- Every run written, each store meeting the loads run ahead (R143). -/
theorem RunsWritten.writeAll {x : Ctx} (hx : x = c) (l : List (Nat × Nat × Nat)) (hl : ∀ r ∈ l, r ∈ h.runs)
    (hr : RunsWritten (d.key c tid n) h v rs u.ms g) (who : CoreId) (hwho : c.who = .thread who) :
    ∃ w g', (l.forM fun r => do
        squashAhead x (.line (d.key x tid n), r.1) r.2.1
        tensorWrite x d tid n r.1 r.2.1 (fld v (8 * r.1) (8 * r.2.1)) 1 none : X Unit) u = .ok () w ∧
      RunsWritten (d.key c tid n) h v (rs ++ l) w.ms g' := by
  subst hx
  induction l generalizing rs u g with
  | nil => exact ⟨u, g, rfl, by rwa [List.append_nil]⟩
  | cons r l ih =>
    have hsquash : squashAhead x (.line (d.key x tid n), r.1) r.2.1 u =
        .ok () (u.modCore who fun k => k.squash (.line (d.key x tid n), r.1) r.2.1) := by
      rw [squashAhead, hwho]
      rfl
    obtain ⟨w, g', hw, hr'⟩ := RunsWritten.write (u := u.modCore who fun k => k.squash (.line (d.key x tid n), r.1) r.2.1) hr
      (hl r List.mem_cons_self)
    obtain ⟨z, g'', hz, hr''⟩ := ih (fun q hq => hl q (List.mem_cons_of_mem r hq)) hr'
    refine ⟨z, g'', forM_cons_ok ?_ hz, by rwa [List.append_assoc] at hr''⟩
    simp only [X.bind_apply, hsquash, hw]

end runs

end Sys2Proof.Proofs
end

section
/-! TLD and TST together (O32). -/

namespace Sys2Proof.Proofs
open Sys2Proof.Machine Sys2Proof.Claim

/-- A line is stored alike wherever its bytes come from (R271). -/
theorem lineStore_get {a : LineArgs} {k x : Nat} {get : X Nat} {u w : State} (h : lineStore a k (pure x) u = .ok () w)
    (hget : ∀ z, CachesOnly u z → get z = .ok x z) : lineStore a k get u = .ok () w := by
  have hfill := tensorFill_caching a.c a.d a.tid (a.n + k) 1 none false none u
  obtain ⟨hin, h⟩ := require_bind_ok.mp h
  obtain ⟨hro, h⟩ := require_bind_ok.mp h
  obtain ⟨g, z, hz, h⟩ := bind_ok_iff.mp h
  rw [hz] at hfill
  refine require_bind_ok.mpr ⟨hin, require_bind_ok.mpr ⟨hro, bind_ok_iff.mpr ⟨g, z, hz, ?_⟩⟩⟩
  obtain ⟨y, z', hy, h⟩ := bind_ok_iff.mp h
  cases hy
  exact bind_ok_iff.mpr ⟨x, z, hget z hfill, h⟩

section tst
variable {s : State} {f : TT} {d : Desc} {first : Nat} {v : Nat → Nat} {σ : Nat → State}

/-- A chain of states in which each line of a TST is stored from v, the operands standing (R270). -/
def storesLines (s : State) (f : TT) (d : Desc) (first : Nat) (v : Nat → Nat) (σ : Nat → State) : Prop :=
  σ 0 = s ∧ ∀ j < f.uvalue, lineStore (tstArgs s f d first) j (pure (v j)) (σ j) = .ok () (σ (j + 1)) ∧
    (σ (j + 1)).self.vec = s.self.vec ∧ (σ (j + 1)).self.tiles = s.self.tiles ∧ (σ (j + 1)).self.scratch = s.self.scratch ∧
    (σ (j + 1)).self.scratchPoison = []

/-- The operands of a TST at each of its lines. -/
theorem storesLines_operands (h : storesLines s f d first v σ) (hclean : s.self.scratchPoison = []) {j : Nat} (hj : j < f.uvalue) :
    (σ j).self.vec = s.self.vec ∧ (σ j).self.tiles = s.self.tiles ∧ (σ j).self.scratch = s.self.scratch ∧
      (σ j).self.scratchPoison = [] := by
  obtain ⟨h0, hstep⟩ := h
  cases j with
  | zero => rw [h0]; exact ⟨rfl, rfl, rfl, hclean⟩
  | succ j => exact (hstep j (by omega)).2

/-- TST of a register whose lines v gives (R271). -/
theorem exec_tst_register_chain (hn : namesLines s f d first) (h0 : s.self.vstart = 0) (hp : s.self.vec.poison = [])
    (hclean : s.self.scratchPoison = []) (hσ : storesLines s f d first v σ) (hmode : f.mode.getLsbD 0 = false) (hew : s.self.ew ≤ 4)
    (hw : ewWidth s.self.ew = d.w) (hfull : s.self.vec.state f.t.toNat = .full)
    (hfit : f.uvalue * d.tileSize ≤ s.self.capacity f.t.toNat d.w)
    (hv : ∀ j < f.uvalue, v j = fld (s.self.vec.bitsOf f.t.toNat) (d.w * (j * d.tileSize)) (d.w * d.tileSize)) :
    exec (.tst f) s = .next ((σ f.uvalue).modSelf fun k => (k.setCsr 0x003 0).retire (extSize f.ext)) := by
  obtain ⟨hstart, hstep⟩ := id hσ
  have hline : ∀ j < f.uvalue, (do
      let me ← self
      lineStore (tstArgs s f d first) j (do
        match (List.range d.tileSize).flatMap fun p => me.badSources [(f.t.toNat, f.t.toNat, d.w, id)] (j * d.tileSize + p) with
        | c :: _ => trap causeMemUE (regUE c.1 c.2)
        | [] => return fld (me.vec.bitsOf f.t.toNat) (d.w * (j * d.tileSize)) (d.w * d.tileSize)) : X Unit) (σ j) =
        .ok () (σ (j + 1)) := by
    intro j hj
    obtain ⟨hvec, -⟩ := storesLines_operands hσ hclean hj
    have hgood : (σ j).self.vec.poison = [] := by rw [hvec, hp]
    rw [X.bind_apply, X.self_apply]
    refine lineStore_get (hstep j hj).1 fun z _ => ?_
    simp only [Core.badSources_none hgood, List.flatMap_eq_nil_iff.mpr fun _ _ => rfl, hvec, hv j hj]
    rfl
  have hform := lineForm_chain d.tileSize (fun _ k => k) (hstart ▸ h0) hline
  rw [hstart] at hform
  refine finish_caches (atomically_ok (a := ()) ?_)
  have hreg : lineRegister f (tstArgs s f d first) s = .ok () s := lineRegister_ok hew hw hfit
  have hstates : checkStates { word := 0, ew := none, et := 0, srcs := [(f.t.toNat, f.t.toNat, true)], dsts := [] } s = .ok () s := by
    simp [checkStates, hfull, show (RegState.full == RegState.empty) = false from rfl]
  simp only [X.bind_apply, lineArgs_named hn, hmode, Bool.false_eq_true, if_false]
  rw [show lineRegister f ⟨s.ctxOf s.cur, d, bits (s.self.rd f.xa) 48 16, first, f.uvalue, d.tileSize, d.tileBytes⟩ s = .ok () s from hreg]
  simp only [hstates]
  exact hform

/-- TST of a tile whose lines v gives (R271). -/
theorem exec_tst_tile_chain (hn : namesLines s f d first) (h0 : s.self.vstart = 0) (hclean : s.self.scratchPoison = [])
    (hσ : storesLines s f d first v σ) (hmode : f.mode.getLsbD 0 = true) (hvalid : (s.self.tile f.t.toNat).v = true)
    (ht : (s.self.tile f.t.toNat).tenant = s.self.tk.tenant) (hfit : f.uvalue * d.tileBytes ≤ (s.self.tile f.t.toNat).bytes)
    (hst : (s.self.tile f.t.toNat).st = .ready) (hr : (s.self.tile f.t.toNat).readers.toNat < 255)
    (hv : ∀ j < f.uvalue, v j = s.self.scratch.read ((s.self.tile f.t.toNat).start + j * d.tileBytes) d.tileBytes) :
    exec (.tst f) s = .next ((σ f.uvalue).modSelf fun k => (k.setCsr 0x003 0).retire (extSize f.ext)) := by
  obtain ⟨hstart, hstep⟩ := id hσ
  have hline : ∀ j < f.uvalue,
      lineStore (tstArgs s f d first) j (namedBytes f.t.toNat (j * d.tileBytes) d.tileBytes) (σ j) = .ok () (σ (j + 1)) := by
    intro j hj
    obtain ⟨-, htiles, hscratch, hgood⟩ := storesLines_operands hσ hclean hj
    refine lineStore_get (hstep j hj).1 fun z hz => ?_
    have hself := hz.self
    have htile : z.self.tile f.t.toNat = s.self.tile f.t.toNat := by rw [hself, Core.tile, Core.tile, ← htiles]
    have hbad : ∀ o n, z.self.scratchBad o n = false := fun o n => by
      rw [Core.scratchBad, show z.self.scratchPoison = [] by rw [hself]; exact hgood, List.any_nil]
    have hread : ∀ o n, z.self.scratchRead o n = s.self.scratch.read o n := fun o n => by
      rw [Core.scratchRead, hself, ← hscratch]
    simp only [namedBytes, X.bind_apply, X.self_apply, X.ite_apply, hbad, Bool.false_eq_true, if_false, X.pure_apply, htile, hread,
      hv j hj]
  have hform := lineForm_chain d.tileSize (fun _ k => k) (hstart ▸ h0) hline
  rw [hstart] at hform
  refine finish_caches (atomically_ok (a := ()) ?_)
  have hread : namedRead f.t.toNat (s.self.tile f.t.toNat) s = .ok () s := by
    simp only [namedRead, tileLocal, hst, Bool.false_and, Bool.false_eq_true, if_false, X.pure_apply]
  simp only [X.bind_apply, lineArgs_named hn, hmode, if_true, namedTile_mine hvalid ht, hfit, decide_true, X.require_true, hread, hr,
    X.awaiting_true]
  exact hform

/-- What a line of TST leaves at its home (R99, R271). -/
theorem lineStore_home {x y j : Nat} {h : HomeLine} (hn : namesLines s f d first) (hj : j < f.uvalue) (hro : d.ro = false)
    (hg : s.ms.gated = []) (hh : s.ms.home (d.key (s.ctxOf s.cur) (bits (s.self.rd f.xa) 48 16) (first + j)) = some h)
    (hp : s.ms.paired h = false) (hruns : h.runs = d.runs (d.tileCoords (first + j))) (hclean : cleaned d d.tileBytes x y) :
    ∃ u g, lineStore (tstArgs s f d first) j (pure x) s = .ok () u ∧
      u.ms.home (d.key (s.ctxOf s.cur) (bits (s.self.rd f.xa) 48 16) (first + j)) = some g ∧ ∀ i < d.tileBytes,
      if h.runs.any fun r => r.1 ≤ i && i < r.1 + r.2.1 then
        lineRead g.data i 1 = fld y (8 * i) 8 ∧ g.dirty.getLsbD i = true
      else lineRead g.data i 1 = lineRead h.data i 1 ∧ g.dirty.getLsbD i = h.dirty.getLsbD i := by
  obtain ⟨-, ⟨⟨-, hok, -⟩, -⟩, htiles, -⟩ := id hn
  have hin : first + j < d.tiles := by omega
  have hfilled : RunsWritten (d.key (s.ctxOf s.cur) (bits (s.self.rd f.xa) 48 16) (first + j)) h (d.cleanLine d.tileBytes x) []
      (s.ms.putHome h) h :=
    ⟨home_putHome hh, (SamePlaces.putHome hh rfl rfl rfl).alone ⟨h, hh, hp⟩, hg, rfl, fun _ _ => rfl, fun _ _ => rfl⟩
  obtain ⟨w, g, hw, hr⟩ := RunsWritten.writeAll (u := { s with ms := s.ms.putHome h }) rfl (d.runs (d.tileCoords (first + j)))
    (fun r hr => hruns ▸ hr) hfilled s.cur rfl
  refine ⟨w, g, ?_, hr.home, fun i hi => ?_⟩
  · simp only [lineStore, lineInside, tstArgs, X.bind_apply, hin, decide_true, X.require_true, hro, Bool.not_false,
      tensorFill_resident hh, X.pure_apply]
    exact hw
  · have hline := hi.trans_le (tileBytes_le hok)
    have hbyte := hr.byte i hline
    have hdirty := hr.dirty i hline
    rw [List.nil_append, ← hruns] at hbyte hdirty
    split
    next hrun =>
      rw [if_pos hrun, fld_cleanLine_of_cleaned hclean hi] at hbyte
      rw [hrun, Bool.true_or] at hdirty
      exact ⟨hbyte, hdirty⟩
    next hrun =>
      rw [if_neg hrun] at hbyte
      rw [Bool.eq_false_iff.mpr hrun, Bool.false_or] at hdirty
      exact ⟨hbyte, hdirty⟩

end tst

section tld
variable {s : State} {f : TT} {d : Desc} {first : Nat} {v : Nat → Nat}

/-- A change of VSTART, completed, is one of VSTART alone. -/
theorem onlyCsrs_vstart {k l : Core} (h : l.csr = k.csr) (n : Nat) : onlyCsrs k ((l.setCsr 0x003 0).retire n) [0x003] :=
  onlyCsrs_retire (fun m hm _ => (Core.setCsr_csrAt_other l _ (fun h => hm (by simp [← h]))).trans
    (by rw [Core.csrAt, Core.csrAt, h])) n

theorem vstart_cleared (k : Core) (n : Nat) : ((k.setCsr 0x003 0).retire n).csrAt 0x003 = 0 :=
  (retire_vstart _ _).trans (Core.setCsr_csrAt_same _ _ (by decide))

/-- The register after TLD. -/
theorem tld_register (hn : namesLines s f d first) (h0 : s.self.vstart = 0) (hl : linesCached s f d first v)
    (hmode : f.mode.getLsbD 0 = false) (ht : f.t.toNat < 42) (hew : s.self.ew ≤ 4) (hw : ewWidth s.self.ew = d.w)
    (hfit : f.uvalue * d.tileSize ≤ s.self.capacity f.t.toNat d.w) (hfull : s.self.vec.state f.t.toNat = .full) :
    ∃ u, exec (.tld f) s = .next u ∧ onlyVector s u ∧ onlyCsrs s.self u.self [0x003] ∧ onlyRegister s.self u.self f.t.toNat ∧
      u.self.csrAt 0x003 = 0 ∧ u.self.pc = (s.self.retire (extSize f.ext)).pc ∧
      ∀ i, d.w * i + d.w ≤ (if f.t.toNat < 32 then 262144 else 65536) → elem u.self f.t.toNat d.w i =
        if i < f.uvalue * d.tileSize then fld (v (i / d.tileSize)) (d.w * (i % d.tileSize)) d.w else elem s.self f.t.toNat d.w i := by
  have heq := fillLines_eq (t := f.t.toNat) (w := d.w) (p := d.tileSize) (v := v) (k := s.self) f.uvalue
  have honly := fillLines_onlyReg (t := f.t.toNat) (w := d.w) (p := d.tileSize) (v := v) (k := s.self) f.uvalue
  have hsame : SameThread s.self (fillLines f.t.toNat d.w d.tileSize v s.self f.uvalue) := by
    rw [heq]
    exact (SameThread.refl _).withVec _
  obtain ⟨vec, csr, hfields⟩ : ∃ vec csr, (fillLines f.t.toNat d.w d.tileSize v s.self f.uvalue).setCsr 0x003 0 =
      { s.self with vec := vec, csr := csr } := ⟨_, _, (congrArg (Core.setCsr · 0x003 0) heq).trans rfl⟩
  refine ⟨_, exec_tld_register hn h0 hl hmode hew hw hfull hfit, onlyVector_retire_size _ hfields, ?_⟩
  simp only [State.modSelf_self]
  refine ⟨onlyCsrs_vstart (by rw [heq]) _, ?_, vstart_cleared _ _, (hsame.setCsr 0 (by decide)).retire_pc _, fun i hi => ?_⟩
  · rw [onlyRegister, Core.retire_vec, Core.setCsr_vec]
    exact honly
  · rw [elem, Core.retire_vec, Core.setCsr_vec]
    exact fillLines_elem ht f.uvalue hi

theorem modTile_tile_same (k : Core) {t : Nat} (ht : t < 256) (g : Tile → Tile) : (k.modTile t g).tile t = g (k.tile t) :=
  setTile_tile_same k ht _

/-- The tile after TLD. -/
theorem tld_tile (hn : namesLines s f d first) (h0 : s.self.vstart = 0) (hl : linesCached s f d first v)
    (hmode : f.mode.getLsbD 0 = true) (hv : (s.self.tile f.t.toNat).v = true)
    (ht : (s.self.tile f.t.toNat).tenant = s.self.tk.tenant) (hfit : f.uvalue * d.tileBytes ≤ (s.self.tile f.t.toNat).bytes)
    (hst : (s.self.tile f.t.toNat).st = .empty ∨
      ((s.self.tile f.t.toNat).st = .ready ∨ (s.self.tile f.t.toNat).st = .poisoned) ∧ (s.self.tile f.t.toNat).readers = 0) :
    ∃ u, exec (.tld f) s = .next (s.modSelf fun _ => u) ∧ u.csrAt 0x003 = 0 ∧ u.vec = s.self.vec ∧ u.x = s.self.x ∧
      u.pc = (s.self.retire (extSize f.ext)).pc ∧
      u.tile f.t.toNat = { s.self.tile f.t.toNat with st := .ready, susp := false, pk := false, p := 0, conf := false, pot := false
                                                      et := BitVec.ofNat 5 (bits (d.at_ 0) 55 5) } ∧
      (∀ j < f.uvalue, u.scratch.read ((s.self.tile f.t.toNat).start + j * d.tileBytes) d.tileBytes = v j % 2 ^ (8 * d.tileBytes)) ∧
      ∀ a, a < (s.self.tile f.t.toNat).start ∨ (s.self.tile f.t.toNat).start + f.uvalue * d.tileBytes ≤ a →
        u.scratch.get a = s.self.scratch.get a := by
  have heq := fillingTile_eq (d := d) (v := v) f.t.toNat f.uvalue s.self
  have hlt : f.t.toNat < 256 := f.t.isLt
  have hfilling : (fillingTile d f.t.toNat v s.self f.uvalue).tile f.t.toNat =
      { filledTile d (s.self.tile f.t.toNat) with st := .filling, susp := false } := by
    rw [Core.tile, fillingTile_tiles]
    exact setTile_tile_same _ hlt _
  have hsame : SameThread s.self (fillingTile d f.t.toNat v s.self f.uvalue) := by
    rw [heq]
    exact ⟨rfl, rfl, rfl, fun _ _ => rfl⟩
  have hready : SameThread s.self (((fillingTile d f.t.toNat v s.self f.uvalue).setCsr 0x003 0).modTile f.t.toNat
      fun e => { e with st := .ready }) := (hsame.setCsr 0 (by decide)).trans ⟨rfl, rfl, rfl, fun _ _ => rfl⟩
  refine ⟨_, (exec_tld_tile hn h0 hl hmode hv ht hfit hst).trans (congrArg Host.Outcome.next (State.modSelf_congr s rfl)), ?_, ?_, ?_,
    hready.retire_pc _, ?_, fun j hj => ?_, fun a ha => ?_⟩
  · rw [retire_vstart]
    exact Core.setCsr_csrAt_same _ _ (by decide)
  · rw [Core.retire_vec]
    exact (congrArg Core.vec heq).trans rfl
  · rw [Core.retire_x]
    exact hready.x
  · rw [Core.tile, Core.retire_tiles]
    exact (modTile_tile_same _ hlt _).trans (congrArg (fun e : Tile => { e with st := .ready }) hfilling)
  · rw [Core.retire_scratch, Nat.pow_mul]
    exact storeRecords_read _ _ _ _ hj
  · rw [Core.retire_scratch]
    exact storeRecords_get_other _ _ _ _ ha

end tld

/-- Settles O32: TLD and TST go line by line through a chain of states; a line of TLD changes the register or tile alone, one of
TST writes its runs at the home of the line. -/
theorem tileTransfers : Obligations.TileTransfers := by
  intro f s d first v σ k t e w p b n tid args inRegister inTile
  refine ⟨fun hzero hready => ⟨exec_tld_zero hzero hready, exec_tst_zero hzero hready⟩, fun hn h0 hl => ⟨?_, ?_⟩,
    fun hn h0 hp hclean hstart hstep => ⟨?_, ?_⟩, fun j x y h hn hj hro hg hh hpaired hruns hcleaned =>
    lineStore_home hn hj hro hg hh hpaired hruns hcleaned⟩
  · rintro ⟨hmode, ht, hew, hw, hfit, -, hfull⟩
    exact tld_register hn h0 hl hmode ht hew hw hfit hfull
  · rintro ⟨hmode, hv, ht, hfit⟩ hst
    exact tld_tile hn h0 hl hmode hv ht hfit hst
  · rintro ⟨hmode, -, hew, hw, hfit, -, hfull⟩ hv
    exact exec_tst_register_chain hn h0 hp hclean ⟨hstart, hstep⟩ hmode hew hw hfull hfit hv
  · rintro ⟨hmode, hvalid, ht, hfit⟩ hst hr hv
    exact exec_tst_tile_chain hn h0 hclean ⟨hstart, hstep⟩ hmode hvalid ht hfit hst hr hv

end Sys2Proof.Proofs
end

section
/-! The loop of the vector memory forms (R35, R260, R262), and what follows it: the acquire and the retirement. -/

namespace Sys2Proof.Proofs
open Sys2Proof.Machine Sys2Proof.Claim

/-! ### The loop over elements (R260) -/

/-- The results of a loop once element i is done. -/
def loopAdd (active : Nat → Bool) (zero : Bool) (out : Nat → MemOut) (l : MLoop) (i : Nat) : MLoop :=
  if active i then
    match out i with
    | .value v f => { l with res := (i, v) :: l.res, flags := l.flags ||| f, vfx0 := vfx0Record l.vfx0 f i
                             vfx1 := vfx1Record l.vfx1 f i }
    | .done => l
    | .faulted => { l with faults := i :: l.faults }
  else if zero then { l with res := (i, 0) :: l.res } else l

/-- The results of a loop over n elements from VSTART. -/
def loopDone (m : MForm) (n : Nat) (active : Nat → Bool) (out : Nat → MemOut) (k : Core) : MLoop :=
  (List.range' k.vstart (n - k.vstart)).foldl (loopAdd active m.zero out)
    (if m.record && k.vstart == 0 then ⟨[], 0, vfx0Empty, vfx1Empty, []⟩ else ⟨[], 0, k.vfx0, k.vfx1, []⟩)

/-- What the core becomes when no element stops the loop. -/
def loopCommitted (m : MForm) (n : Nat) (l : MLoop) (vs : Nat) (k : Core) : Core :=
  (memCommit m.dst m.record m.peer vs n (some n) l k).setCsr 0x003 0

section loop
variable {active : Nat → Bool} {zero : Bool} {body : Nat → X MemOut} {out : Nat → MemOut} {Inv : Nat → State → Prop}

/-- A loop whose active elements each come to an outcome, an invariant from element to element. -/
theorem memLoop_chain (fuel i : Nat) (l : MLoop) (s : State) (h0 : Inv i s)
    (hstep : ∀ j u, i ≤ j → j < i + fuel → active j = true → Inv j u → ∃ w, body j u = .ok (out j) w ∧ Inv (j + 1) w)
    (hskip : ∀ j u, active j = false → Inv j u → Inv (j + 1) u) :
    ∃ t, memLoop active zero body fuel i l s = ((List.range' i fuel).foldl (loopAdd active zero out) l, none, t) ∧
      Inv (i + fuel) t := by
  induction fuel generalizing i l s with
  | zero => exact ⟨s, rfl, h0⟩
  | succ fuel ih =>
    have hrest : ∀ u, Inv (i + 1) u → ∃ t, memLoop active zero body fuel (i + 1) (loopAdd active zero out l i) u =
        ((List.range' (i + 1) fuel).foldl (loopAdd active zero out) (loopAdd active zero out l i), none, t) ∧
          Inv (i + (fuel + 1)) t := by
      intro u hu
      obtain ⟨t, ht, hinv⟩ := ih (i + 1) (loopAdd active zero out l i) u hu
        fun j u h1 h2 => hstep j u (by omega) (by omega)
      exact ⟨t, ht, by rwa [show i + (fuel + 1) = i + 1 + fuel by omega]⟩
    rw [memLoop, List.range'_succ, List.foldl_cons]
    by_cases ha : active i = true
    · obtain ⟨w, hw, hinv⟩ := hstep i s le_rfl (by omega) ha h0
      obtain ⟨t, ht, hinv'⟩ := hrest w hinv
      refine ⟨t, ?_, hinv'⟩
      rw [← ht, if_pos ha, hw, loopAdd, if_pos ha]
      cases out i <;> rfl
    · obtain ⟨t, ht, hinv'⟩ := hrest s (hskip i s (Bool.eq_false_iff.mpr ha) h0)
      refine ⟨t, ?_, hinv'⟩
      rw [← ht, if_neg ha, loopAdd, if_neg ha]

/-- A vector memory form no element of which stops it. -/
theorem memElements_chain {m : MForm} {n : Nat} {page : State → Nat → Word → Option Nat} {s : State} (h0 : Inv s.self.vstart s)
    (hstep : ∀ j u, s.self.vstart ≤ j → j < n → active j = true → Inv j u → ∃ w, body j u = .ok (out j) w ∧ Inv (j + 1) w)
    (hskip : ∀ j u, active j = false → Inv j u → Inv (j + 1) u) :
    ∃ t, memElements m n active page body s =
        .ok () (t.modSelf fun k => (loopCommitted m n (loopDone m n active out s.self) s.self.vstart k).repage none) ∧
      Inv (s.self.vstart + (n - s.self.vstart)) t := by
  obtain ⟨t, ht, hinv⟩ := memLoop_chain (zero := m.zero) (n - s.self.vstart) s.self.vstart
    (if m.record && s.self.vstart == 0 then ⟨[], 0, vfx0Empty, vfx1Empty, []⟩ else ⟨[], 0, s.self.vfx0, s.self.vfx1, []⟩) s h0
    (fun j u h1 h2 => hstep j u h1 (by omega)) hskip
  refine ⟨t, ?_, hinv⟩
  simp only [memElements, ht]
  rfl

end loop

/-! ### The results of a loop -/

/-- The entry of element j in the results. -/
def memEntry (active : Nat → Bool) (zero : Bool) (out : Nat → MemOut) (j : Nat) : Option (Nat × Nat) :=
  if active j then
    match out j with
    | .value v _ => some (j, v)
    | _ => none
  else if zero then some (j, 0) else none

section results
variable (active : Nat → Bool) (zero : Bool) (out : Nat → MemOut)

theorem loopAdd_res (js : List Nat) (l : MLoop) : (js.foldl (loopAdd active zero out) l).res =
    (js.filterMap (memEntry active zero out)).reverse ++ l.res := by
  induction js generalizing l with
  | nil => rfl
  | cons j js ih =>
    rw [List.foldl_cons, ih, List.filterMap_cons, loopAdd, memEntry]
    cases active j
    · cases zero <;> simp
    · cases out j <;> simp

/-- The elements that fault are listed. -/
theorem mem_loopAdd_faults (js : List Nat) (l : MLoop) (i : Nat) : i ∈ (js.foldl (loopAdd active zero out) l).faults ↔
    i ∈ l.faults ∨ i ∈ js ∧ active i = true ∧ out i = .faulted := by
  induction js generalizing l with
  | nil => simp
  | cons j js ih =>
    have hadd : i ∈ (loopAdd active zero out l j).faults ↔ i ∈ l.faults ∨ i = j ∧ active i = true ∧ out i = .faulted := by
      unfold loopAdd
      by_cases hi : i = j
      · subst hi
        cases active i
        · cases zero <;> simp
        · cases out i <;> simp
      · cases active j
        · cases zero <;> simp [hi]
        · cases out j <;> simp [hi]
    rw [List.foldl_cons, ih, hadd, List.mem_cons]
    tauto

/-- Without values no flag is raised. -/
theorem loopAdd_flags (hout : ∀ j, active j = true → ∀ v f, out j = .value v f → f = 0) (js : List Nat) (l : MLoop) :
    (js.foldl (loopAdd active zero out) l).flags = l.flags := by
  induction js generalizing l with
  | nil => rfl
  | cons j js ih =>
    rw [List.foldl_cons, ih, loopAdd]
    cases ha : active j
    · cases zero <;> rfl
    · cases ho : out j with
      | value v f => simp [hout j ha v f ho]
      | _ => rfl

end results

/-- Every element a value: the results are those of an element-wise form. -/
theorem loopAdd_values (active : Nat → Bool) (zero : Bool) (val : Nat → Nat × Flags) (js : List Nat) (l : MLoop) :
    js.foldl (loopAdd active zero fun j => .value (val j).1 (val j).2) l =
      ⟨(js.filterMap (elemEntry active zero val)).reverse ++ l.res, elemFlags active val js l.flags, elemVfx0 active val js l.vfx0,
        elemVfx1 active val js l.vfx1, l.faults⟩ := by
  induction js generalizing l with
  | nil => rfl
  | cons j js ih =>
    rw [List.foldl_cons, ih, List.filterMap_cons, elemEntry, loopAdd]
    cases ha : active j
    · cases zero <;> simp [elemFlags, elemVfx0, elemVfx1, ha]
    · simp [elemFlags, elemVfx0, elemVfx1, ha]

/-- The entries name elements below the bound. -/
theorem filter_entries {active : Nat → Bool} {zero : Bool} {val : Nat → Nat × Flags} (vs n : Nat) :
    (((List.range' vs (n - vs)).filterMap (elemEntry active zero val)).reverse).filter (fun r => decide (r.1 < n)) =
      ((List.range' vs (n - vs)).filterMap (elemEntry active zero val)).reverse := by
  refine List.filter_eq_self.mpr fun r hr => ?_
  obtain ⟨j, hj, hr⟩ := List.mem_filterMap.mp (List.mem_reverse.mp hr)
  have hindex : r.1 = j := by
    unfold elemEntry at hr
    split at hr
    · cases hr; rfl
    · split at hr <;> cases hr
      rfl
  have hlt := List.mem_range'_1.mp hj
  rw [hindex, decide_eq_true_eq]
  omega

/-- A CSR written with what it holds. -/
theorem setCsr_self (k : Core) (n : Nat) : k.setCsr n (k.csrAt n) = k := by
  have hcsr : k.csr.setIfInBounds n (k.csrAt n) = k.csr := by
    refine Vector.ext fun i hi => ?_
    rw [Vector.getElem_setIfInBounds]
    split
    next h =>
      subst h
      rw [Core.csrAt, Vector.getElem?_eq_getElem hi, Option.getD_some]
    next => rfl
  rw [Core.setCsr, hcsr]

/-- No flags raised. -/
theorem orFlags_zero (k : Core) : k.orFlags 0 = k := by
  have := setCsr_self k 0x008
  rw [Core.orFlags, Core.fflags]
  simpa using this

/-- A loop of values leaves its core as an element-wise form does. -/
theorem loopCommitted_values {m : MForm} {d : Dst} {n : Nat} {active : Nat → Bool} {val : Nat → Nat × Flags} {k : Core}
    (hd : m.dst = some d) (hp : m.peer = false) :
    loopCommitted m n (loopDone m n active (fun j => .value (val j).1 (val j).2) k) k.vstart k =
      k.elementsDone m.record n active m.zero d true val := by
  have h10 : ∀ f, (k.orFlags f).setCsr 0x00A k.vfx0 = k.orFlags f := fun f => by
    have := setCsr_self (k.orFlags f) 0x00A
    rwa [show (k.orFlags f).csrAt 0x00A = k.vfx0 from Core.setCsr_csrAt_other k _ (by decide)] at this
  have h11 : ∀ f, (k.orFlags f).setCsr 0x00B k.vfx1 = k.orFlags f := fun f => by
    have := setCsr_self (k.orFlags f) 0x00B
    rwa [show (k.orFlags f).csrAt 0x00B = k.vfx1 from Core.setCsr_csrAt_other k _ (by decide)] at this
  have htail : ∀ (f : Flags) (a b : Word), (((k.orFlags f).setCsr 0x00A a).setCsr 0x00B b).tailz = k.tailz := fun f a b => by
    simp [Core.tailz, Core.vcfg, Core.orFlags]
  have htail' : ∀ f : Flags, (k.orFlags f).tailz = k.tailz := fun f => by simp [Core.tailz, Core.vcfg, Core.orFlags]
  cases hr : m.record
  · simp only [loopCommitted, loopDone, memCommit, hd, hp, hr, loopAdd_values, Bool.false_and, Bool.false_eq_true, if_false,
      List.append_nil, filter_entries, Core.elementsDone, h10, h11, htail', Bool.true_and]
  · simp only [loopCommitted, loopDone, memCommit, hd, hp, hr, loopAdd_values, Bool.false_eq_true, if_false, if_true, Bool.true_and,
      Core.elementsDone, htail]
    split <;> simp only [List.append_nil, filter_entries]

end Sys2Proof.Proofs
end

section
/-! What an acquire leaves (R114, R147), the bytes that memory holds after it, and the end of a vector memory form. -/

namespace Sys2Proof.Proofs
open Sys2Proof.Machine Sys2Proof.Claim

/-! ### Acquires (R114, R115, R147) -/

/-- A memory system with other replicas and epochs of replicas. -/
def withReplicas (r : Vector Nat 64) (p : List Replica) (ms : MemSys) : MemSys := { ms with repoch := r, replicas := p }

theorem acquire_cachesOnly (s : State) (c : CoreId) (scope : Nat) : CachesOnly s (s.acquire c scope) := by
  unfold State.acquire
  dsimp only
  split
  · exact CachesOnly.refl s
  · split
    · exact CachesOnly.modCore _ _ fun _ => rfl
    · split
      · exact ((CachesOnly.modCore _ _ fun _ => rfl).trans (CachesOnly.withMs _ _)).trans (CachesOnly.modCore _ _ fun _ => rfl)
      · exact ((CachesOnly.modCore _ _ fun _ => rfl).trans (CachesOnly.withMs _ _)).trans (CachesOnly.modCluster _ _ fun _ => rfl)

theorem acquire_ms (s : State) (c : CoreId) (scope : Nat) : ∃ r p, (s.acquire c scope).ms = withReplicas r p s.ms := by
  unfold State.acquire
  dsimp only
  split
  · exact ⟨s.ms.repoch, s.ms.replicas, rfl⟩
  · split
    · exact ⟨s.ms.repoch, s.ms.replicas, rfl⟩
    · split
      · exact ⟨_, s.ms.replicas, rfl⟩
      · exact ⟨_, _, rfl⟩

theorem orderAfter_cachesOnly (s : State) (ord scope : Nat) : CachesOnly s (s.orderAfter ord scope) := by
  unfold State.orderAfter
  split
  · exact acquire_cachesOnly s _ scope
  · exact CachesOnly.refl s

theorem orderAfter_ms (s : State) (ord scope : Nat) : ∃ r p, (s.orderAfter ord scope).ms = withReplicas r p s.ms := by
  unfold State.orderAfter
  split
  · exact acquire_ms s _ scope
  · exact ⟨s.ms.repoch, s.ms.replicas, rfl⟩

/-- A plain form, or one that releases with nothing under way and nothing of its thread to wait for, begins at once (R156). -/
theorem ordBefore_ok {s : State} {ord : Nat} (hc : 2 ≤ ord → s.ms.chains = []) (hr : released s ord) : ordBefore ord s = .ok () s := by
  by_cases h : 2 ≤ ord
  · have hsends : waitSends s = .ok () s := by
      simp only [waitSends, X.bind_apply, X.get_apply, hr h, Bool.not_false, X.awaiting_true]
    simp only [ordBefore, if_pos h, X.bind_apply, hsends, X.modify_apply, State.orderBefore, release_of_chains (hc h)]
  · simp only [ordBefore, if_neg h, X.modify_apply, State.orderBefore]

theorem ordAround_ok {m : X Unit} {s t : State} (h : m s = .ok () t) (ord scope : Nat) :
    ordAround ord scope m s = .ok () (t.orderAfter ord scope) := by
  rw [ordAround, h]

/-! ### The bytes of memory (R156) -/

/-- The byte that a memory system holds at an address. -/
def msByte (ms : MemSys) (b : Nat) : Nat := (ms.homeRead b 1).2.1

theorem byteAt_eq (s : State) (b : Nat) : byteAt s b = msByte s.ms b := rfl

theorem homeAt_none_noLine {ms : MemSys} {b : Nat} (h : ms.homeAt b none = none) : noLine ms b 1 := by
  intro g hg t l hk
  have hno := List.find?_eq_none.mp h g hg
  simp only [hk, Option.isNone_none, Bool.or_true, Bool.true_or, Bool.and_true, beq_iff_eq] at hno
  rw [Nat.add_sub_cancel]
  omega

/-- With no line of them at a home a recall of bytes only lets the addends pass (R126). -/
theorem recall_noLine {ms : MemSys} {a n : Nat} (hl : noLine ms a n) : ms.recall a n = ms.settle a n := by
  unfold MemSys.recall
  dsimp only
  rw [(List.filter_eq_nil_iff (l := ms.homes)).mpr]
  · rfl
  · intro h hh
    cases hk : h.key with
    | addr t l =>
      have := hl h hh t l hk
      simp only [Bool.and_eq_true, decide_eq_true_eq]
      omega
    | tensor => exact Bool.false_ne_true

theorem msByte_home {ms : MemSys} {b : Nat} {h : HomeLine} (hh : ms.homeAt b none = some h) :
    msByte ms b = lineRead h.data (b % 256) 1 := by
  simp only [msByte, MemSys.homeRead, hh]

theorem msByte_none {ms : MemSys} {b : Nat} (hh : ms.homeAt b none = none) : msByte ms b = (ms.settle b 1).rd b 1 := by
  simp only [msByte, MemSys.homeRead, hh, recall_noLine (homeAt_none_noLine hh)]

section replicas
variable (r : Vector Nat 64) (p : List Replica) (ms : MemSys)

theorem addendDone_withReplicas (d : Addend) : (withReplicas r p ms).addendDone d = withReplicas r p (ms.addendDone d) := by
  have hwr : ∀ (m : MemSys) a n k v, (withReplicas r p m).wr a n k v = withReplicas r p (m.wr a n k v) := by
    intro m a n k v
    unfold MemSys.wr
    rw [apply_ite (withReplicas r p), apply_ite (withReplicas r p)]
    rfl
  have hsnoop : ∀ (m : MemSys) a n, (withReplicas r p m).snoopOut a n = withReplicas r p (m.snoopOut a n) := by
    intro m a n
    unfold MemSys.snoopOut
    dsimp only
    rw [apply_ite (withReplicas r p)]
    rfl
  have hfire : ∀ (m : MemSys) a n, (withReplicas r p m).fire a n = withReplicas r p (m.fire a n) := fun _ _ _ => rfl
  unfold MemSys.addendDone
  dsimp only
  rw [hwr, hfire, hsnoop, apply_ite (withReplicas r p)]
  rfl

theorem settle_withReplicas (a n : Nat) : (withReplicas r p ms).settle a n = withReplicas r p (ms.settle a n) := by
  have haddends : ∀ (l : List Addend) (m : MemSys),
      l.foldl MemSys.addendDone (withReplicas r p m) = withReplicas r p (l.foldl MemSys.addendDone m) := by
    intro l
    induction l with
    | nil => exact fun _ => rfl
    | cons d l ih => exact fun m => by rw [List.foldl_cons, addendDone_withReplicas, ih, List.foldl_cons]
  have hchains : ∀ (l : List Chain) (m : MemSys), l.foldl (fun m c => c.addends.foldl MemSys.addendDone m) (withReplicas r p m) =
      withReplicas r p (l.foldl (fun m c => c.addends.foldl MemSys.addendDone m) m) := by
    intro l
    induction l with
    | nil => exact fun _ => rfl
    | cons c l ih => exact fun m => by rw [List.foldl_cons, haddends, ih, List.foldl_cons]
  exact hchains (ms.chains.filter fun c => a / 8 ≤ c.word && c.word ≤ (a + n - 1) / 8)
    { ms with chains := ms.chains.filter fun c => !(a / 8 ≤ c.word && c.word ≤ (a + n - 1) / 8) }

/-- Replicas are no home of a byte (R113). -/
theorem msByte_withReplicas (b : Nat) : msByte (withReplicas r p ms) b = msByte ms b := by
  cases h : ms.homeAt b none with
  | some l => rw [msByte_home h, msByte_home (ms := withReplicas r p ms) h]
  | none =>
    rw [msByte_none h, msByte_none (ms := withReplicas r p ms) h, settle_withReplicas]
    rfl

end replicas

/-! ### The end of a vector memory form -/

/-- A change of the own core that does not look at its caches, beside changes of caches and memory. -/
theorem CachesOnly.mapSelf {s t : State} (h : CachesOnly s t) {g : Core → Core} (hg : ∀ k c, g (withCache c k) = withCache c (g k)) :
    CachesOnly (s.modSelf g) (t.modSelf g) where
  state := congrArg (fun u : State => { u with cores := (t.modSelf g).cores, ms := t.ms }) h.state
  core c := by
    by_cases hc : c = s.cur
    · subst hc
      have hself : t.self = withCache t.self.cache s.self := h.self
      have ht : (t.modSelf g).core s.cur = g t.self := h.cur ▸ State.modSelf_self t g
      have hs : (s.modSelf g).core s.cur = g s.self := State.modSelf_self s g
      rw [ht, hs, hself, hg]
      rfl
    · rw [State.modSelf_core_other t g (h.cur ▸ hc), State.modSelf_core_other s g hc]
      exact h.core c

/-- The results of a loop are written whatever the caches hold. -/
theorem loopCommitted_withCache (m : MForm) (n : Nat) (l : MLoop) (vs : Nat) (c : CoreCache) (k : Core) :
    loopCommitted m n l vs (withCache c k) = withCache c (loopCommitted m n l vs k) := by
  obtain ⟨dst, zero, record, peer, restart, group⟩ := m
  rcases dst with - | d
  · cases record <;> cases peer <;> rfl
  · cases d <;> cases record <;> cases peer <;> rfl

end Sys2Proof.Proofs
end

section
/-! Vector memory forms up to their loop: what they read, their displacements and their issue (R230, R257 to R259). -/

namespace Sys2Proof.Proofs
open Sys2Proof.Machine Sys2Proof.Claim

/-! ### Displacements (R259) -/

/-- How a shape makes displacements, its operands read. -/
def formOf (k : Core) (f : VM) : Shape → VForm
  | .unit => .unit
  | .strided => .strided (k.rd (scalarOf f.idx)).toInt
  | .indexed => .indexed (k.opnd f.idx) (if f.et = .wac then 32 else ETwidth f.et)

/-- The reading of a shape's operands. -/
def readForm (f : VM) : Shape → X VForm
  | .unit => unitForm
  | .strided => stridedForm f
  | .indexed => indexedForm f

/-- The index operand of a shape as a source. -/
def formIdx (f : VM) : Shape → List (Nat × Nat × Bool)
  | .indexed => idxSrc f
  | _ => []

theorem disp_eq (k : Core) (f : VM) (how : Shape) (step j : Nat) (half : Bool) :
    (formOf k f how).disp f.value.toInt step k.vcols j half = offset k f how step half j := by
  cases how with
  | unit => rfl
  | strided => rfl
  | indexed =>
    exact congrArg (fun pos : Nat => if half = true then (f.value.toInt + 0 + ((pos / 2 : Nat) : Int), pos % 2)
      else (f.value.toInt + 0 + ((pos * step : Nat) : Int), 0)) (opnd_elem k f.idx _ j)

/-! ### Issue (R230, R257) -/

section accesses
variable {s : State} {f : VM} {how : Shape}

theorem registers_group {t : ET} {c : BitVec 7} (h : t = .wac) : registers t c = group c := if_pos h
theorem registers_one {t : ET} {c : BitVec 7} (h : t ≠ .wac) : registers t c = [c] := if_neg h

/-- The registers of the elements are among the operands. -/
theorem named_vmDsts {codes : List (BitVec 7)} (hwac : f.et = .wac → f.vd.toNat ≤ 29) (h : ∀ c ∈ registers f.et f.vd, c ∈ codes) :
    ∀ r ∈ vmDsts f, named codes r := by
  unfold vmDsts
  split
  next ht => exact named_dstOf96 (hwac ht) fun c hc => h c (registers_group ht ▸ hc)
  next ht => exact named_dstOf (h _ (registers_one ht ▸ List.mem_singleton_self _))

theorem named_vmSrcs {codes : List (BitVec 7)} (hwac : f.et = .wac → f.vd.toNat ≤ 29) (h : ∀ c ∈ registers f.et f.vd, c ∈ codes) :
    ∀ r ∈ vmSrcs f, r.1 ≤ r.2.1 ∧ named codes r.2.1 := by
  unfold vmSrcs
  split
  next ht => exact named_srcOf96 (.inl (hwac ht)) fun c hc => h c (registers_group ht ▸ hc)
  next ht => exact named_srcOf (h _ (registers_one ht ▸ List.mem_singleton_self _))

/-- The operand codes of an access. -/
def accessCodes (f : VM) (how : Shape) : List (BitVec 7) := registers f.et f.vd ++ if how = .unit then [] else [f.idx]

theorem named_formIdx : ∀ r ∈ formIdx f how, r.1 ≤ r.2.1 ∧ named (accessCodes f how) r.2.1 := by
  cases how with
  | indexed => exact named_srcOf (List.mem_append_right _ (List.mem_singleton_self _))
  | unit => exact fun r hr => absurd hr List.not_mem_nil
  | strided => exact fun r hr => absurd hr List.not_mem_nil

/-- What the statements say of the operands, taken apart. -/
structure Accesses (s : State) (f : VM) (how : Shape) : Prop where
  admits : admits s (ETew f.et) (accessCodes f how)
  clean : s.self.vec.poison = []
  vector : f.vd.getLsbD 6 = false
  wac : f.et = .wac → f.vd.toNat ≤ 29
  stride : how = .strided → f.idx.getLsbD 6 = true
  base : s.self.empty f.xa = false
  shape : s.self.vrows * s.self.vcols ≠ 0
  chains : 2 ≤ f.ord.toNat → s.ms.chains = []
  released : released s f.ord.toNat

theorem accesses_iff : accesses s f how ↔ Accesses s f how := by
  constructor
  · rintro ⟨⟨h1, h2⟩, h3, h4, h5, h6, h7, h8, h9⟩
    exact ⟨h1, h2, h3, h4, h5, h6, h7, h8, h9⟩
  · rintro ⟨h1, h2, h3, h4, h5, h6, h7, h8, h9⟩
    exact ⟨⟨h1, h2⟩, h3, h4, h5, h6, h7, h8, h9⟩

theorem Accesses.form (h : Accesses s f how) : readForm f how s = .ok (formOf s.self f how) s := by
  cases how with
  | unit => rfl
  | strided =>
    have hscalar : s.self.empty (scalarOf f.idx) = false :=
      h.admits.2.2.2.2.1 f.idx (List.mem_append_right _ (List.mem_singleton_self _)) (h.stride rfl)
    simp only [readForm, stridedForm, X.bind_apply, readX_ok hscalar, X.pure_apply, formOf]
  | indexed =>
    have hread := admits_readOpnd h.admits (c := f.idx) (List.mem_append_right _ (List.mem_singleton_self _))
    simp only [readForm, indexedForm, X.bind_apply, hread, X.pure_apply, formOf]

theorem Accesses.issue (h : Accesses s f how) (word : Word) {srcs : List (Nat × Nat × Bool)} {dsts : List Nat}
    (hsrcs : ∀ r ∈ srcs, r ∈ vmSrcs f ∨ r ∈ formIdx f how) (hdsts : ∀ d ∈ dsts, d ∈ vmDsts f) :
    vIssue (vmIssue word f srcs dsts) (fun _ => pure ()) s = .ok (s.self.vrows * s.self.vcols) s := by
  have hmem : ∀ c ∈ registers f.et f.vd, c ∈ accessCodes f how := fun c hc => List.mem_append_left _ hc
  refine vIssue_ok (issues_of_admits h.admits (ETew_le_five _) (.inr rfl) (fun r hr => ?_) fun d hd => ?_)
  · exact (hsrcs r hr).elim (named_vmSrcs h.wac hmem r) (named_formIdx r)
  · exact named_vmDsts h.wac hmem d (hdsts d hd)

theorem Accesses.before (h : Accesses s f how) : ordBefore f.ord.toNat s = .ok () s := ordBefore_ok h.chains h.released

end accesses

/-! ### Sources without poison (R95) -/

theorem cleanSources_ok {s : State} (h : s.self.vec.poison = []) (srcs : List (Nat × Nat × Nat × (Nat → Nat))) (i : Nat) :
    cleanSources srcs i s = .ok () s := by
  simp only [cleanSources, X.bind_apply, X.self_apply, Core.badSources_none h, X.pure_apply]

/-! ### The loads up to their loop -/

theorem fmtSize_eq (fmt : Nat) : fmtSize fmt = if fmt = 7 ∨ fmt = 8 then 2 else 1 := by
  by_cases h7 : fmt = 7
  · subst h7
    rfl
  · by_cases h8 : fmt = 8
    · subst h8
      rfl
    · rw [if_neg (by tauto)]
      unfold fmtSize
      split
      · exact absurd rfl h7
      · exact absurd rfl h8
      · rfl

/-- How the elements of a load lie, as the statements write it. -/
theorem ofLoad_eq (s : State) (f : VM) (fmt : Nat) : VMem.ofLoad f s.self.space fmt (s.self.rd f.xa) = loadMem s f fmt := by
  have hsize : (if fmt != 0 then fmtSize fmt else etBytes f.et) =
      if fmt = 0 then Claim.bytesOf f.et else if fmt = 7 ∨ fmt = 8 then 2 else 1 := by
    by_cases h : fmt = 0
    · simp only [h, bne_self_eq_false, Bool.false_eq_true, if_false, if_true]
      rfl
    · rw [if_neg h, if_pos (by simpa using h), fmtSize_eq]
  have hhalf : (if fmt != 0 then fmt == 3 else ETwidth f.et == 4) = if fmt = 0 then ETwidth f.et == 4 else fmt == 3 := by
    by_cases h : fmt = 0
    · simp [h]
    · simp [h]
  unfold VMem.ofLoad loadMem
  rw [hsize, hhalf]

theorem loadAt_eq (s : State) (f : VM) (fmt : Nat) (how : Shape) (j : Nat) :
    (loadMem s f fmt).loadAt f (formOf s.self f how) s.self.vcols (loadPer fmt) j = loadAt s f fmt how j := by
  have hindex : j / loadPer fmt = if fmt = 7 then j / 8 else j := by
    unfold loadPer
    split
    · rfl
    · rw [Nat.div_one]
  rw [VMem.loadAt, hindex, disp_eq, loadAt]

/-- Element i of a load (R74, R258, R262). -/
def loadElem (k : Core) (c : Ctx) (f : VM) (v : VForm) (fmt : Nat) (peer : Bool) (i : Nat) : X MemOut := do
  let m := VMem.ofLoad f k.space fmt (k.rd f.xa)
  cleanSources ((v.sources.map fun q => (q.1, q.2.1, q.2.2.1, (· / loadPer fmt))) ++ maskSource f.msk) i
  let d := m.loadAt f v k.vcols (loadPer fmt) i
  let body : X MemOut := do
    let p ← m.place c d.1 d.2 (k.repin i)
    let raw ← p.read c m.half 0
    if fmt != 0 then
      match p.parts with
      | [(.plain h, _)] =>
        let x ← scaledVal c h fmt raw (i % 8) p.nib 0 p.addr
        match ETfmt f.et with
        | some F =>
          let r := F.convert k.rm k.satf x
          require (!k.trapping r.2) causeFpTrap (fpTrapValue r.2 i true)
          return .value r.1 r.2
        | none => return .done
      | _ => return .done
    else return .value (elemBits f.et raw) 0
  if peer then
    tryCatch body fun e => match e with
      | .trap 0x11 _ => return .faulted
      | e => throw e
  else body

/-- What a load asks of its loop. -/
def loadForm (f : VM) (fmt : Nat) (peer : Bool) : MForm :=
  { dst := some (vmDst f), zero := f.mz == 1, record := fmt != 0, peer := peer, restart := true, group := loadPer fmt }

section vload
variable {s : State} {f : VM} {how : Shape} {fmt : Nat} {Inv : Nat → State → Prop} {out : Nat → MemOut}

/-- A load no element of which stops it: its loop, the acquire, and what ran ahead at its address done (R143). -/
theorem vload_chain (word : Word) (gather : Bool) (h : Accesses s f how)
    (hfmt : loadFmt (s.ctxOf s.cur) f s.self.space (s.self.rd f.xa + f.value) s = .ok fmt s) (h0 : Inv s.self.vstart s)
    (hstep : ∀ j u, live s.self f.msk j → Inv j u → ∃ w,
      loadElem s.self (s.ctxOf s.cur) f (formOf s.self f how) fmt (gather && s.self.space == 2) j u = .ok (out j) w ∧ Inv (j + 1) w)
    (hskip : ∀ j u, Inv j u → Inv (j + 1) u) :
    ∃ t i, Inv i t ∧ vload word f (readForm f how) (formIdx f how) gather s = .ok ()
      (((t.modSelf fun k => (loopCommitted (loadForm f fmt (gather && s.self.space == 2)) (s.self.vrows * s.self.vcols)
        (loopDone (loadForm f fmt (gather && s.self.space == 2)) (s.self.vrows * s.self.vcols) (s.self.activeBit f.msk) out s.self)
        s.self.vstart k).repage none).orderAfter f.ord.toNat s.self.scope).modSelf Core.aheadDone) := by
  have hissue := h.issue word (srcs := formIdx f how) (dsts := vmDsts f) (fun _ hr => .inr hr) fun _ hd => hd
  obtain ⟨t, ht, hinv⟩ := memElements_chain (m := loadForm f fmt (gather && s.self.space == 2)) (n := s.self.vrows * s.self.vcols)
    (active := s.self.activeBit f.msk)
    (page := fun s' i => (VMem.ofLoad f s.self.space fmt (s.self.rd f.xa)).page
      ((VMem.ofLoad f s.self.space fmt (s.self.rd f.xa)).loadAt f (formOf s.self f how) s.self.vcols (loadPer fmt) i).1 s')
    h0 (fun j u h1 h2 h3 hu => hstep j u ⟨h1, h2, h3⟩ hu) fun j u _ hu => hskip j u hu
  refine ⟨t, _, hinv, ?_⟩
  simp only [vload, X.bind_apply, readX_ok h.base, h.form, hissue, if_neg h.shape, selfCtx, X.get_apply, X.pure_apply, X.self_apply, hfmt,
    h.before]
  exact (X.bind_apply _ _ _).symm.trans (bind_of_ok (f := fun _ => modSelf Core.aheadDone) (ordAround_ok ht f.ord.toNat s.self.scope))

end vload

end Sys2Proof.Proofs
end

section
/-! The registers of a vector load read back (R80), and a load that completes (R258). -/

namespace Sys2Proof.Proofs
open Sys2Proof.Machine Sys2Proof.Claim

/-! ### Destinations read back through another view -/

section destination
variable {α β : Type} {d : Dst} {n : Nat} {tail : Bool} {get : VecUnit → Nat → α} {dec : Nat → α} {zero : α}
  {kept : VecUnit → VecUnit → Prop}

theorem Destination.map (D : Destination d n tail get dec zero kept) (φ : α → β) :
    Destination d n tail (fun u j => φ (get u j)) (fun v => φ (dec v)) (φ zero) kept where
  dec_zero := congrArg φ D.dec_zero
  refl := D.refl
  beside := D.beside
  read := fun l res tl j hj htl => by
    rw [D.read l res tl j hj htl]
    cases res.reverse.find? (·.1 == j) <;> rfl

theorem Destination.mono {kept' : VecUnit → VecUnit → Prop} (D : Destination d n tail get dec zero kept)
    (h : ∀ u v, kept u v → kept' u v) : Destination d n tail get dec zero kept' where
  dec_zero := D.dec_zero
  refl := fun u => h u u (D.refl u)
  beside := fun l res tl => h _ _ (D.beside l res tl)
  read := D.read

end destination

/-! ### The elements of a memory form (R78, R258) -/

/-- Element j of a register, or of a group, of a vector unit. -/
def heldIn (t : ET) (code : BitVec 7) (u : VecUnit) (j : Nat) : Nat :=
  if t = .wac then
    regElem code.toNat 32 u j + 2 ^ 32 * regElem (code.toNat + 1) 32 u j + 2 ^ 64 * regElem (code.toNat + 2) 32 u j
  else elemBits t (regElem code.toNat (ETwidth t) u j)

theorem held_eq (k : Core) (t : ET) (code : BitVec 7) (j : Nat) : held k t code j = heldIn t code k.vec j := rfl

/-- No register but those of the elements differs, and no mask. -/
def onlyHeld (t : ET) (code : BitVec 7) (u v : VecUnit) : Prop :=
  (∀ c : BitVec 7, c.toNat < 42 → c ∉ registers t code → v.bitsOf c.toNat = u.bitsOf c.toNat) ∧ v.m = u.m

theorem elemBits_mod (t : ET) (v : Nat) : elemBits t (v % 2 ^ ETwidth t) = elemBits t v := by
  unfold elemBits
  split
  next h =>
    have hw : ETwidth t = 8 := by
      simp only [Bool.or_eq_true, decide_eq_true_eq] at h
      rcases h with rfl | rfl <;> rfl
    rw [hw]
    omega
  next => rw [Nat.mod_mod]

theorem elemBits_zero (t : ET) : elemBits t 0 = 0 := by
  unfold elemBits
  split <;> exact Nat.zero_mod _

theorem elemBits_elemBits (t : ET) (v : Nat) : elemBits t (elemBits t v) = elemBits t v := by
  unfold elemBits
  split <;> rw [Nat.mod_mod]

/-- The number that a WAC96 element holds, and its bits. -/
theorem wrap_signed_96 (v : Nat) : wrap 96 (signed 96 v) = v % 2 ^ 96 := by
  unfold wrap signed
  dsimp only
  split <;> omega

/-- The registers of an element beside a group. -/
theorem outside_group {code c : BitVec 7} (hv : code.getLsbD 6 = false) (hcode : code.toNat ≤ 29) (hc : c ∉ group code) :
    c.toNat < code.toNat ∨ code.toNat + 2 < c.toNat := by
  rw [group, hv, if_neg Bool.false_ne_true] at hc
  simp only [List.mem_cons, List.not_mem_nil, or_false, not_or] at hc
  obtain ⟨h0, h1, h2⟩ := hc
  have hne0 : c.toNat ≠ code.toNat := fun h => h0 (BitVec.eq_of_toNat_eq h)
  have hne1 : c.toNat ≠ code.toNat + 1 := fun h => h1 (BitVec.eq_of_toNat_eq (by rw [BitVec.toNat_add, h]; simp; omega))
  have hne2 : c.toNat ≠ code.toNat + 2 := fun h => h2 (BitVec.eq_of_toNat_eq (by rw [BitVec.toNat_add, h]; simp; omega))
  omega

/-- The destination of a vector memory form, read as the statements do. -/
theorem destination_held {s : State} {f : VM} {how : Shape} (h : Accesses s f how) :
    Destination (vmDst f) (s.self.vrows * s.self.vcols) true (heldIn f.et f.vd) (elemBits f.et) 0 (onlyHeld f.et f.vd) := by
  by_cases ht : f.et = .wac
  · have hfit : 32 * (s.self.vrows * s.self.vcols) ≤ 262144 := by
      have hshape := admits_shape h.admits
      rw [ht, Nat.mul_comm] at hshape
      exact hshape
    have D := ((destination_group (tail := true) (h.wac ht) hfit).map (wrap 96)).mono (kept' := onlyHeld f.et f.vd) fun u v hk =>
      ⟨fun c hlt hc => hk.2 c.toNat hlt (outside_group h.vector (h.wac ht) (registers_group ht ▸ hc)), hk.1⟩
    have hget : (fun u j => wrap 96 (groupElem f.vd.toNat u j)) = heldIn f.et f.vd := by
      funext u j
      have hlimb : ∀ c, regElem c 32 u j < 2 ^ 32 := fun c => fld_lt _ _ _
      have h0 := hlimb f.vd.toNat
      have h1 := hlimb (f.vd.toNat + 1)
      have h2 := hlimb (f.vd.toNat + 2)
      rw [groupElem, wrap_signed_96, heldIn, if_pos ht]
      omega
    have hdec : (fun v => wrap 96 (signed 96 v)) = elemBits f.et := by
      funext v
      rw [wrap_signed_96, elemBits, ht]
      rfl
    rw [hget, hdec] at D
    rw [vmDst, if_pos ht]
    exact D
  · have hn : named (accessCodes f how) f.vd.toNat :=
      ⟨_, List.mem_append_left _ (registers_one ht ▸ List.mem_singleton_self _), h.vector, rfl⟩
    have D := ((destination_vec (off := 0) (tail := true) (admits_named h.admits hn).2.1 (fun j hj => by
      rw [Nat.zero_add]
      exact admits_fits h.admits hn (by rw [shapeWidth_ETew ht]) (ETwidth_le ht) j hj) fun _ => rfl).map (elemBits f.et)).mono
      (kept' := onlyHeld f.et f.vd) fun u v hk => ⟨fun c hlt hc => hk.1 c.toNat
        (fun he => hc (registers_one ht ▸ List.mem_singleton.mpr (BitVec.eq_of_toNat_eq he))) hlt, hk.2⟩
    have hget : (fun u j => elemBits f.et (regElem f.vd.toNat (ETwidth f.et) u (0 + j))) = heldIn f.et f.vd := by
      funext u j
      rw [Nat.zero_add, heldIn, if_neg ht]
    rw [hget, funext (elemBits_mod f.et), elemBits_zero] at D
    rw [vmDst, if_neg ht]
    exact D

/-! ### A load that completes (R258, R260) -/

section loads
variable {s : State} {f : VM} {how : Shape}

/-- The loop of a form that changes the own core by g, the caches and the memory system, with the acquire that follows it. -/
theorem formEnd {t : State} {g : Core → Core} (h : CachesOnly s t) (hg : ∀ k c, g (withCache c k) = withCache c (g k)) (ord scope : Nat) :
    CachesOnly (s.modSelf g) ((t.modSelf fun k => (g k).repage none).orderAfter ord scope) ∧
      ∃ r p, ((t.modSelf fun k => (g k).repage none).orderAfter ord scope).ms = withReplicas r p t.ms := by
  have hpage : CachesOnly (t.modSelf g) (t.modSelf fun k => (g k).repage none) := by
    have hmod := CachesOnly.modSelf (t.modSelf g) (f := fun k => k.repage none) fun _ => rfl
    rwa [State.modSelf_modSelf] at hmod
  refine ⟨((h.mapSelf hg).trans hpage).trans (orderAfter_cachesOnly _ _ _), ?_⟩
  exact orderAfter_ms _ _ _

/-- The same once the form has completed. -/
theorem formDone {t : State} {g : Core → Core} (h : CachesOnly s t) (hg : ∀ k c, g (withCache c k) = withCache c (g k)) (ord scope n : Nat) :
    CachesOnly (s.modSelf fun k => (g k).retire n)
        ((((t.modSelf fun k => (g k).repage none).orderAfter ord scope).modSelf Core.aheadDone).modSelf fun k => k.retire n) ∧
      ∃ r p, ((((t.modSelf fun k => (g k).repage none).orderAfter ord scope).modSelf Core.aheadDone).modSelf fun k => k.retire n).ms =
        withReplicas r p t.ms := by
  obtain ⟨hend, hms⟩ := formEnd h hg ord scope
  have hdone := hend.trans (CachesOnly.modSelf _ (f := Core.aheadDone) fun _ => rfl)
  have hretired := hdone.mapSelf (g := fun k => k.retire n) fun k c => retire_withCache c k _
  rw [State.modSelf_modSelf] at hretired
  exact ⟨hretired, hms⟩

/-- A change of the own core is what it makes of that core. -/
theorem CachesOnly.congrSelf {g g' : Core → Core} {z : State} (h : CachesOnly (s.modSelf g) z) (hg : g s.self = g' s.self) :
    CachesOnly (s.modSelf g') z := State.modSelf_congr s hg ▸ h

/-- Another vector unit and other CSRs. -/
def VectorCsr (k l : Core) : Prop := ∃ v c, l = { k with vec := v, csr := c }

/-- A form that has changed the vector unit and CSRs of its core and completed, beside caches and the memory system. -/
theorem onlyVectorAndCaches_of_done {g : Core → Core} {n : Nat} {z : State} (h : VectorCsr s.self (g s.self))
    (hz : CachesOnly (s.modSelf fun k => (g k).retire n) z) : onlyVectorAndCaches s z ∧ z.self.vec = (g s.self).vec ∧
      z.self.pc = ((g s.self).retire n).pc ∧ ∀ m, z.self.csrAt m = ((g s.self).retire n).csrAt m := by
  obtain ⟨cc, hself⟩ : ∃ cc, z.self = withCache cc ((g s.self).retire n) := by
    have := hz.self
    rw [State.modSelf_self] at this
    exact ⟨_, this⟩
  have hcores : ∀ c, c ≠ s.cur → z.core c = { s.core c with cache := (z.core c).cache } := fun c hc => by
    have := hz.core c
    rwa [State.modSelf_core_other s _ hc] at this
  obtain ⟨v, c, hg⟩ := h
  rw [hg] at hself ⊢
  rw [retire_eq] at hself
  unfold onlyVectorAndCaches
  generalize z.self = l at hself ⊢
  subst hself
  exact ⟨⟨hz.state, rfl, hcores⟩, rfl, rfl, fun _ => rfl⟩

/-- What the core of a load becomes, each live element a value with its flags. -/
@[irreducible] def loadedBy (f : VM) (fmt : Nat) (val : Nat → Nat × Flags) (k : Core) : Core :=
  k.elementsDone (fmt != 0) (k.vrows * k.vcols) (k.activeBit f.msk) (f.mz == 1) (vmDst f) true val

theorem loadedBy_vectorCsr {fmt : Nat} {val : Nat → Nat × Flags} (k : Core) : VectorCsr k (loadedBy f fmt val k) := by
  rw [loadedBy]
  exact ⟨_, _, elementsDone_eq ..⟩

section done
variable {fmt : Nat} {val : Nat → Nat × Flags} (k : Core)

theorem loadedBy_vstart : (loadedBy f fmt val k).csrAt 0x003 = 0 := by
  rw [loadedBy]
  exact Core.elementsDone_vstart

theorem loadedBy_sameThread : SameThread k (loadedBy f fmt val k) := by
  rw [loadedBy]
  exact elementsDone_sameThread ..

theorem loadedBy_flag (b : Nat) : (loadedBy f fmt val k).fflags.getLsbD b = true ↔
    k.fflags.getLsbD b = true ∨ ∃ j, live k f.msk j ∧ (val j).2.getLsbD b = true := by
  rw [loadedBy]
  refine (elementsDone_flag ..).trans (or_congr_right (exists_congr fun j => ?_))
  rw [live, and_assoc, and_assoc]
  rfl

theorem Accesses.loadedBy_kept (h : Accesses s f how) : onlyHeld f.et f.vd s.self.vec (loadedBy f fmt val s.self).vec := by
  rw [loadedBy]
  exact (destination_held h).kept_done

/-- The elements of a load: the values of the live ones, and zeros under mz. -/
theorem Accesses.loadedBy_held (h : Accesses s f how) {j : Nat} (hj : j < s.self.vrows * s.self.vcols) :
    (live s.self f.msk j → heldIn f.et f.vd (loadedBy f fmt val s.self).vec j = elemBits f.et (val j).1) ∧
      (¬live s.self f.msk j → heldIn f.et f.vd (loadedBy f fmt val s.self).vec j =
        if f.mz = 1 ∧ s.self.vstart ≤ j then 0 else held s.self f.et f.vd j) := by
  rw [loadedBy, (destination_held h).get_done hj (.inr ⟨rfl, rfl⟩)]
  refine ⟨fun hl => ?_, fun hl => ?_⟩
  · rw [if_pos ⟨hl.1, hj⟩]
    exact if_pos hl.2.2
  · by_cases hfrom : s.self.vstart ≤ j
    · rw [if_pos ⟨hfrom, hj⟩]
      refine (if_neg fun ha => hl ⟨hfrom, hj, ha⟩).trans ?_
      simp only [beq_iff_eq, hfrom, and_true]
      rfl
    · rw [if_neg fun hc => hfrom hc.1, if_neg fun hc => hfrom hc.2]
      rfl

end done

/-- A load whose elements come to values completes: beside its own effect only caches and the memory system differ. -/
theorem vload_values {i : Instr} {word : Word} {gather : Bool} {fmt : Nat} {Inv : State → Prop} {val : Nat → Nat × Flags}
    (hi : exec i s = finish (extSize f.ext) (vload word f (readForm f how) (formIdx f how) gather) s) (h : Accesses s f how)
    (hpeer : (gather && s.self.space == 2) = false)
    (hfmt : loadFmt (s.ctxOf s.cur) f s.self.space (s.self.rd f.xa + f.value) s = .ok fmt s) (h0 : Inv s)
    (hcaches : ∀ u, Inv u → CachesOnly s u)
    (hstep : ∀ j u, live s.self f.msk j → Inv u → ∃ w, loadElem s.self (s.ctxOf s.cur) f (formOf s.self f how) fmt false j u =
      .ok (.value (val j).1 (val j).2) w ∧ Inv w) :
    ∃ z t, exec i s = .next z ∧ Inv t ∧ (∃ r p, z.ms = withReplicas r p t.ms) ∧
      CachesOnly (s.modSelf fun k => (loadedBy f fmt val k).retire (extSize f.ext)) z := by
  obtain ⟨t, -, hinv, hrun⟩ := vload_chain (Inv := fun _ => Inv) (out := fun j => .value (val j).1 (val j).2) word gather h hfmt h0
    (fun j u hl hu => by rw [hpeer]; exact hstep j u hl hu) fun _ _ hu => hu
  rw [hpeer] at hrun
  obtain ⟨hretired, r, p, hms⟩ := formDone (hcaches t hinv) (fun k c => loopCommitted_withCache (loadForm f fmt false)
    (s.self.vrows * s.self.vcols) (loopDone (loadForm f fmt false) (s.self.vrows * s.self.vcols) (s.self.activeBit f.msk)
    (fun j => .value (val j).1 (val j).2) s.self) s.self.vstart c k) f.ord.toNat s.self.scope (extSize f.ext)
  refine ⟨_, t, hi.trans (finish_ok hrun), hinv, ⟨r, p, hms⟩, ?_⟩
  refine hretired.congrSelf (?_ : (loopCommitted (loadForm f fmt false) (s.self.vrows * s.self.vcols)
      (loopDone (loadForm f fmt false) (s.self.vrows * s.self.vcols) (s.self.activeBit f.msk) (fun j => .value (val j).1 (val j).2) s.self)
      s.self.vstart s.self).retire (extSize f.ext) = (loadedBy f fmt val s.self).retire (extSize f.ext))
  rw [loopCommitted_values rfl rfl, loadedBy]
  rfl

/-- What the statements say of a load that completes. -/
theorem loads_of_values {i : Instr} {fmt : Nat} {val : Nat → Nat × Flags} {csrs : List Nat} {z : State} (hexec : exec i s = .next z)
    (h : Accesses s f how) (hz : CachesOnly (s.modSelf fun k => (loadedBy f fmt val k).retire (extSize f.ext)) z)
    (hbytes : ∀ b < 2 ^ 42, byteAt z b = byteAt s b)
    (hcsrs : onlyCsrs s.self (loadedBy f fmt val s.self) (0x003 :: csrs)) :
    loads s i f csrs val fun t => t.self.vec.m = s.self.vec.m := by
  obtain ⟨hcaches, hvec, hpc, hcsr⟩ := onlyVectorAndCaches_of_done (loadedBy_vectorCsr s.self) hz
  obtain ⟨hregs, hmasks⟩ := h.loadedBy_kept (fmt := fmt) (val := val)
  refine ⟨z, hexec, hcaches, fun m hm hout => ?_, ?_, fun b => ?_, ?_, ?_, fun c hlt hc => ?_, hbytes, fun j hj => ?_⟩
  · rw [hcsr]
    exact onlyCsrs_retire hcsrs _ m hm hout
  · rw [hcsr, retire_vstart]
    exact loadedBy_vstart _
  · rw [Core.fflags, hcsr, retire_csrAt_low (by decide)]
    exact loadedBy_flag _ b
  · exact hpc.trans ((loadedBy_sameThread s.self).retire_pc _)
  · exact (congrArg VecUnit.m hvec).trans hmasks
  · rw [hvec]
    exact hregs c hlt hc
  · rw [held_eq, hvec]
    exact h.loadedBy_held hj

/-- Without flags a load that records none leaves every CSR but VSTART. -/
theorem loadedBy_csrs {val : Nat → Nat × Flags} (hval : ∀ j, (val j).2 = 0) (k : Core) : onlyCsrs k (loadedBy f 0 val k) [0x003] := by
  have hflags : ∀ js, elemFlags (k.activeBit f.msk) val js 0 = 0 := by
    intro js
    induction js with
    | nil => rfl
    | cons j js ih =>
      rw [elemFlags, List.foldl_cons, hval, ← elemFlags]
      split
      · exact ih
      · exact ih
  intro m hm _
  have h3 : 0x003 ≠ m := fun h => hm (by simp [← h])
  rw [loadedBy, Core.elementsDone, hflags, orFlags_zero]
  simp only [bne_self_eq_false, Bool.false_and, Bool.false_eq_true, if_false]
  rw [Core.setCsr_csrAt_other _ _ h3, Core.vwrite_csrAt, Core.vfx0, setCsr_self, Core.vfx1, setCsr_self]

/-- One that records flags leaves every other CSR. -/
theorem loadedBy_csrs_flags (fmt : Nat) (val : Nat → Nat × Flags) (k : Core) :
    onlyCsrs k (loadedBy f fmt val k) [0x003, 0x008, 0x00A, 0x00B] := by
  intro m hm _
  simp only [List.mem_cons, List.not_mem_nil, or_false, not_or] at hm
  rw [loadedBy]
  exact Core.elementsDone_csrAt hm

end loads

end Sys2Proof.Proofs
end

section
/-! Vector loads of unformatted pages, by the reads of their elements (R258). -/

namespace Sys2Proof.Proofs
open Sys2Proof.Machine Sys2Proof.Claim

section plain
variable {s : State} {f : VM} {how : Shape}

/-- The load whose displacements are of this shape. -/
def loadOf (f : VM) : Shape → Instr
  | .unit => .vldUnit f
  | .strided => .vldStrided f
  | .indexed => .vldx f

theorem exec_loadOf (s : State) (f : VM) (how : Shape) : exec (loadOf f how) s = finish (extSize f.ext)
    (vload (Instr.word (loadOf f how)) f (readForm f how) (formIdx f how) (how == .indexed)) s := by
  cases how <;> rfl

/-- An unformatted element takes what its access reads. -/
theorem loadElem_plain {j v : Nat} {u w : State} (hclean : u.self.vec.poison = []) (hread : elementRead s f how j u = .ok v w) :
    loadElem s.self (s.ctxOf s.cur) f (formOf s.self f how) 0 false j u = .ok (.value (elemBits f.et v) 0) w := by
  obtain ⟨p, t, hp, hr⟩ := bind_ok_iff.mp hread
  simp only [loadElem, ofLoad_eq, loadAt_eq, X.bind_apply, cleanSources_ok hclean, hp, hr, bne_self_eq_false, Bool.false_eq_true, if_false,
    X.pure_apply]

/-- The elements of a register as they are written and as their values are. -/
theorem loads_elemBits {i : Instr} {csrs : List Nat} {val : Nat → Nat} {masks : State → Prop}
    (h : loads s i f csrs (fun j => (elemBits f.et (val j), 0)) masks) : loads s i f csrs (fun j => (val j, 0)) masks := by
  obtain ⟨t, hexec, hcaches, hcsrs, hvstart, hflags, hpc, hmasks, hregs, hbytes, helems⟩ := h
  refine ⟨t, hexec, hcaches, hcsrs, hvstart, hflags, hpc, hmasks, hregs, hbytes, fun j hj => ⟨fun hl => ?_, (helems j hj).2⟩⟩
  rw [(helems j hj).1 hl]
  exact elemBits_elemBits f.et (val j)

/-- A load of pages without format completes with what its elements read, whatever their reads leave of caches and homes. -/
theorem loads_plain {Inv : State → Prop} {v : Nat → Nat} (hacc : accesses s f how) (hpeer : how = .indexed → s.self.space ≠ 2)
    (hfmt : loadFmt (s.ctxOf s.cur) f s.self.space (s.self.rd f.xa + f.value) s = .ok 0 s) (h0 : Inv s)
    (hcaches : ∀ u, Inv u → CachesOnly s u) (hbytes : ∀ u, Inv u → ∀ b < 2 ^ 42, msByte u.ms b = msByte s.ms b)
    (hread : ∀ j u, live s.self f.msk j → Inv u → ∃ w, elementRead s f how j u = .ok (v j) w ∧ Inv w) :
    loads s (loadOf f how) f [] (fun j => (v j, 0)) fun t => t.self.vec.m = s.self.vec.m := by
  have h := accesses_iff.mp hacc
  have hgather : ((how == .indexed) && s.self.space == 2) = false := by
    cases how with
    | indexed => simp [hpeer rfl]
    | unit => rfl
    | strided => rfl
  obtain ⟨z, t, hexec, hinv, ⟨r, p, hms⟩, hz⟩ := vload_values (exec_loadOf s f how) h hgather hfmt h0 hcaches
    (val := fun j => (elemBits f.et (v j), 0)) fun j u hl hu => by
      obtain ⟨w, hw, hinv⟩ := hread j u hl hu
      refine ⟨w, loadElem_plain ?_ hw, hinv⟩
      rw [(hcaches u hu).self]
      exact h.clean
  refine loads_elemBits (loads_of_values hexec h hz (fun b hb => ?_) (loadedBy_csrs (fun _ => rfl) s.self))
  rw [byteAt_eq, byteAt_eq, hms, msByte_withReplicas, hbytes t hinv b hb]

/-- The pages of a load have no format that it decodes. -/
theorem loadFmt_zero (h : ETflt f.et = true → s.self.space = 0 →
    anchorFmt (s.ctxOf s.cur) (s.self.rd f.xa + f.value) s = .ok (some 0) s) :
    loadFmt (s.ctxOf s.cur) f s.self.space (s.self.rd f.xa + f.value) s = .ok 0 s := by
  unfold loadFmt
  by_cases hc : (ETflt f.et && s.self.space == 0) = true
  · obtain ⟨hflt, hspace⟩ := Bool.and_eq_true_iff.mp hc
    rw [if_pos hc, X.bind_apply, h hflt (beq_iff_eq.mp hspace)]
    rfl
  · rw [if_neg hc]
    rfl

/-- Loads in every space: each live element takes what its own access reads (R258). -/
theorem loads_raw {v : Nat → Nat} (hacc : accesses s f how) (hpeer : how = .indexed → s.self.space ≠ 2)
    (hfmt : ETflt f.et = true → s.self.space = 0 → anchorFmt (s.ctxOf s.cur) (s.self.rd f.xa + f.value) s = .ok (some 0) s)
    (hread : ∀ j, live s.self f.msk j → readsAt s f 0 how j (v j)) :
    loads s (loadOf f how) f [] (fun j => (v j, 0)) fun t => t.self.vec.m = s.self.vec.m := by
  refine loads_plain (Inv := (· = s)) hacc hpeer (loadFmt_zero hfmt) rfl ?_ ?_ ?_
  · rintro u rfl
    exact CachesOnly.refl u
  · rintro u rfl b _
    rfl
  · rintro j u hl rfl
    exact ⟨u, hread j hl, rfl⟩

end plain

end Sys2Proof.Proofs
end

section
/-! Vector loads of the scratchpad (R258, R260). -/

namespace Sys2Proof.Proofs
open Sys2Proof.Machine Sys2Proof.Claim

/-! ### Elements of types (R49, R260) -/

/-- The 4-bit types take half a byte; the elements of accumulators 12 bytes. -/
theorem half_iff (t : ET) : (ETwidth t == 4) = true → Claim.bytesOf t = 1 := by
  cases t <;> decide

/-- How the elements of a type lie is aligned as the type is. -/
theorem align_eq {m : VMem} {t : ET} (hwidth : m.w = ETwidth t) (hsize : m.size = Claim.bytesOf t) (hhalf : m.half = (ETwidth t == 4)) :
    m.align = alignOf t := by
  have hwac : t = .wac ↔ ETwidth t = 96 := by cases t <;> decide
  rw [VMem.align, alignOf, hhalf, hsize, hwidth, Nat.min_comm]
  by_cases ht : t = .wac
  · rw [if_pos ht, hwac.mp ht]
    rfl
  · rw [if_neg ht, if_neg (show ¬ETwidth t = 96 from fun h => ht (hwac.mpr h))]
    by_cases hh : (ETwidth t == 4) = true
    · rw [if_pos hh, half_iff t hh]
      rfl
    · rw [if_neg hh]

/-- A place in the scratchpad. -/
theorem place_scratch {m : VMem} {c : Ctx} {d : Int} {nib : Nat} {rewalk : Option Nat} {a : Word} {p : Spot} {u : State} (hspace : m.space = 1)
    (ha : BitVec.ofInt 64 (m.base.toNat + d) = a) (halign : a.toNat % m.align = 0) (hres : resolveS c a.toNat m.size m.kind u = .ok p u) :
    m.place c d nib rewalk u = .ok ⟨[(p, m.size)], nib, bits a 0 56⟩ u := by
  unfold VMem.place
  rw [hspace, if_neg (by decide)]
  simp only [ha, halign, beq_self_eq_true, X.bind_apply, X.require_true, hres, X.pure_apply]

/-- What an element takes of the bytes at its place: its nibble where it has four bits. -/
def takenOf (s : State) (f : VM) (how : Shape) (bytes j : Nat) : Nat :=
  if ETwidth f.et = 4 then fld bytes (4 * (loadAt s f 0 how j).2) 4 else bytes

/-- The bytes of an element, as many as its place has. -/
theorem width_eq (t : ET) : (if ETwidth t = 4 then 1 else Claim.bytesOf t) = Claim.bytesOf t := by
  split
  next h => exact (half_iff t (beq_iff_eq.mpr h)).symm
  next => rfl

section scratch
variable {s u : State} {f : VM} {how : Shape}

/-- A place of one part, read. -/
theorem placeRead_one {c : Ctx} {p : Spot} {n nib addr kind v : Nat} {w : State} (half : Bool)
    (hread : spotRead c p n kind addr u = .ok v w) :
    Place.read ⟨[(p, n)], nib, addr⟩ c half kind u = .ok (if half then fld v (4 * nib) 4 else v) w := by
  simp only [Place.read, List.foldlM_cons, List.foldlM_nil, X.bind_apply, hread, X.pure_apply, pow_zero, Nat.mul_one, Nat.zero_add]

/-- R18, R88, R91: a scratchpad access inside a READY tile. -/
theorem resolveS_ready {c : Ctx} {a n i : Nat} (hlt : a + n ≤ 2 ^ 23) (htile : (u.core c.core).tileAt c.tenant a n = some i)
    (hready : ((u.core c.core).tile i).st = .ready) : resolveS c a n 0 u = .ok (.scratch c.core a i) u := by
  simp only [resolveS, X.bind_apply, decide_eq_true hlt, X.require_true, X.get_apply, htile, tileLocal, hready]
  rfl

/-- An element of the scratchpad whose bytes lie in a READY tile, none of them poisoned. -/
theorem readsAt_scratch (hspace : s.self.space = 1) (hpoison : s.self.scratchPoison = []) {j : Nat}
    (h : scratchHeld s (loadAddr s f how j).toNat (Claim.bytesOf f.et) (alignOf f.et)) :
    readsAt s f 0 how j (takenOf s f how (s.self.scratch.read (loadAddr s f how j).toNat (Claim.bytesOf f.et)) j) := by
  obtain ⟨halign, hlt, i, htile, hready⟩ := h
  have hplace := place_scratch (m := loadMem s f 0) (nib := (loadAt s f 0 how j).2) (rewalk := s.self.repin j) hspace rfl
    ((align_eq (m := loadMem s f 0) (t := f.et) rfl rfl rfl).symm ▸ halign) (resolveS_ready (u := s) (c := s.ctxOf s.cur) hlt htile hready)
  have hread : spotRead (s.ctxOf s.cur) (.scratch s.cur (loadAddr s f how j).toNat i) (Claim.bytesOf f.et) 0
      (bits (loadAddr s f how j) 0 56) s = .ok (s.self.scratch.read (loadAddr s f how j).toNat (Claim.bytesOf f.et)) s := by
    have hclean : (s.core s.cur).scratchBad (loadAddr s f how j).toNat (Claim.bytesOf f.et) = false := by
      rw [Core.scratchBad, show (s.core s.cur).scratchPoison = [] from hpoison, List.any_nil]
    simp only [spotRead, X.bind_apply, X.get_apply, hclean, Bool.false_eq_true, if_false, X.pure_apply]
    rfl
  have hread' := placeRead_one (nib := (loadAt s f 0 how j).2) (loadMem s f 0).half hread
  have := bind_of_ok (f := fun p => Place.read p (s.ctxOf s.cur) (loadMem s f 0).half 0) hplace
  refine (this.trans hread').trans ?_
  rw [takenOf, show (loadMem s f 0).half = (ETwidth f.et == 4) from rfl]
  simp only [beq_iff_eq]

end scratch

end Sys2Proof.Proofs
end

section
/-! Vector loads of GLOBAL pages without format, from lines that the L1 data cache holds (R115, R258). -/

namespace Sys2Proof.Proofs
open Sys2Proof.Machine Sys2Proof.Claim

section global
variable {s u : State} {f : VM} {how : Shape} {j : Nat} {e : TlbEntry}

theorem bytesOf_pos (t : ET) : 0 < Claim.bytesOf t := by cases t <;> decide

theorem bytesOf_le_eight {t : ET} (h : t ≠ .wac) : Claim.bytesOf t ≤ 8 := by
  cases t with
  | wac => exact absurd rfl h
  | _ => decide

/-- Elements lie aligned to their bytes (R260). -/
theorem alignOf_eq {t : ET} (h : t ≠ .wac) : alignOf t = Claim.bytesOf t := by
  rw [alignOf, if_neg h, Nat.min_eq_right (bytesOf_le_eight h)]

theorem repin_none {k : Core} (h : k.cache.pin = none) (i : Nat) : k.repin i = none := by
  rw [Core.repin, h]

/-- A place of one part in GLOBAL, where its address translates. -/
theorem place_plain {m : VMem} {c : Ctx} {d : Int} {nib : Nat} {a : Word} {h : Hit} {u : State} (hspace : m.space = 0) (hw : m.w ≠ 96)
    (hsize : 0 < m.size) (ha : BitVec.ofInt 64 (m.base.toNat + d) = a) (halign : a.toNat % m.align = 0)
    (hres : resolveG c a { kind := m.kind, n := m.size, msu := m.msu, noHost := m.noHost, noMmio := m.noMmio } m.fmtOk u =
      .ok (.plain h) u) : m.place c d nib none u = .ok ⟨[(.plain h, m.size)], nib, bits a 0 56⟩ u := by
  have hzero : a + toWord (m.size * 0) = a := by
    rw [Nat.mul_zero]
    exact BitVec.add_zero a
  have hwalk : ((none : Option Nat) == some (bits a 12 44)) = false := rfl
  unfold VMem.place
  rw [hspace, if_neg (by decide)]
  simp only [ha, halign, beq_self_eq_true, X.bind_apply, X.require_true, if_neg hw, Nat.div_self hsize]
  rw [show List.range 1 = [0] from rfl]
  simp only [List.mapM_cons, List.mapM_nil, X.bind_apply, hzero, hwalk, hres, X.pure_apply]

theorem width_ne {t : ET} (h : t ≠ .wac) : ETwidth t ≠ 96 := by
  cases t with
  | wac => exact absurd rfl h
  | _ => decide

/-- The page of an element has no format that refuses it. -/
theorem fmtOk_plain (h : pteFmt e.pte = 0) (pa : Nat) : (loadMem s f 0).fmtOk e.pte pa = true := by
  show (if ETflt f.et then pteFmt e.pte == 0 && rawReadOk _ e.pte pa else rawLoadOk f.et _ e.pte pa) = true
  split
  · simp [rawReadOk, h]
  · simp [rawLoadOk, rawReadOk, h]

/-- An address that the L1 TLB serves, as a place. -/
theorem resolveG_served {c : Ctx} {a : Word} {q : Ask} {ok : Word → Nat → Bool} (hm : mappedFor u c a q e)
    (hok : ok e.pte (u.leafAddr e.pte e.level a) = true) : resolveG c a q ok u = .ok (.plain (e.hit u a)) u := by
  obtain ⟨hcanon, hfind, hwin, hperm, hfmt, hhost, htb, -, -, hwalk⟩ := hm
  exact resolveG_plain (resolveGlobal_tlb hcanon hwalk hfind hwin hperm hhost hfmt hok) htb

/-- The read of an element in GLOBAL is the read of its place. -/
theorem elementRead_global {h : Hit} {bytes : Nat} {w : State} (hspace : s.self.space = 0) (ht : f.et ≠ .wac)
    (hpin : s.self.cache.pin = none) (halign : (loadAddr s f how j).toNat % Claim.bytesOf f.et = 0)
    (hres : resolveG (s.ctxOf s.cur) (loadAddr s f how j) { kind := 0, n := Claim.bytesOf f.et } (loadMem s f 0).fmtOk u = .ok (.plain h) u)
    (hread : spotRead (s.ctxOf s.cur) (.plain h) (Claim.bytesOf f.et) 0 (bits (loadAddr s f how j) 0 56) u = .ok bytes w) :
    elementRead s f how j u = .ok (takenOf s f how bytes j) w := by
  have hplace := place_plain (m := loadMem s f 0) (nib := (loadAt s f 0 how j).2) hspace (width_ne ht) (bytesOf_pos f.et) rfl
    (((align_eq (m := loadMem s f 0) (t := f.et) rfl rfl rfl).trans (alignOf_eq ht)).symm ▸ halign) hres
  rw [← repin_none hpin j] at hplace
  refine (bind_of_ok (f := fun p => Place.read p (s.ctxOf s.cur) (loadMem s f 0).half 0) hplace).trans ((placeRead_one _ hread).trans ?_)
  rw [takenOf, show (loadMem s f 0).half = (ETwidth f.et == 4) from rfl]
  simp only [beq_iff_eq]

/-- The anchor's page where its address translates. -/
theorem anchorFmt_mapped {a : Word} (hm : mapped s a { kind := 0, n := 1 } e) :
    anchorFmt (s.ctxOf s.cur) a s = .ok (some (pteFmt e.pte)) s := by
  obtain ⟨hcanon, hfind, hwin, hperm, hfmt, hhost, -, -, -, hwalk⟩ := hm
  unfold anchorFmt atomically
  rw [resolveGlobal_tlb hcanon hwalk hfind hwin hperm hhost hfmt rfl]
  rfl

/-- An element whose line the L1 data cache holds. -/
theorem readsAt_l1 {l : L1Line} (hspace : s.self.space = 0) (ht : f.et ≠ .wac) (hpin : s.self.cache.pin = none)
    (halign : (loadAddr s f how j).toNat % Claim.bytesOf f.et = 0) (hm : mapped s (loadAddr s f how j) { kind := 0, n := Claim.bytesOf f.et } e)
    (hf : pteFmt e.pte = 0) (hc : uncached s e (s.leafAddr e.pte e.level (loadAddr s f how j)) = false)
    (hl : s.self.l1Line (lineKey s e (s.leafAddr e.pte e.level (loadAddr s f how j))) = some l) :
    readsAt s f 0 how j (takenOf s f how
      (lineRead l.data (s.leafAddr e.pte e.level (loadAddr s f how j) % 256) (Claim.bytesOf f.et)) j) := by
  obtain ⟨hnc, hgated⟩ := Bool.or_eq_false_iff.mp hc
  have hres := resolveG_served hm (fmtOk_plain (s := s) (f := f) hf _)
  obtain ⟨-, -, -, -, -, -, -, hmmio, hdev, -⟩ := hm
  exact elementRead_global hspace ht hpin halign hres
    (spotRead_l1 (h := e.hit s (loadAddr s f how j)) hmmio (fun _ h => nomatch h) hdev hnc hgated hl)

end global

end Sys2Proof.Proofs
end

section
/-! The bytes of memory at rest and of lines at their homes (R99, R156), and reads of them by a thread (R115, R118). -/

namespace Sys2Proof.Proofs
open Sys2Proof.Machine Sys2Proof.Claim

/-! ### Numbers of bytes -/

/-- The number that bytes at an address make up is the one whose bytes stand there. -/
theorem bytesAt_of_bytes {s : State} {a n v : Nat} (hv : v < 2 ^ (8 * n)) (h : ∀ j < n, byteAt s (a + j) = fld v (8 * j) 8) :
    bytesAt s a n = v := by
  induction n generalizing a v with
  | zero => exact (Nat.lt_one_iff.mp hv).symm
  | succ n ih =>
    have hsucc : bytesAt s a (n + 1) = byteAt s a + 256 * bytesAt s (a + 1) n := by
      simp only [bytesAt, List.range_succ_eq_map, List.foldr_cons, List.foldr_map, Nat.add_zero, Nat.succ_eq_add_one,
        Nat.add_right_comm _ 1, Nat.add_assoc]
    have hhigh : v / 256 < 2 ^ (8 * n) := by
      rw [Nat.div_lt_iff_lt_mul (by decide), show (256 : Nat) = 2 ^ 8 from rfl, ← Nat.pow_add]
      exact hv
    have hlow : byteAt s a = v % 256 := by
      have := h 0 (Nat.succ_pos n)
      rwa [Nat.add_zero, Nat.mul_zero, fld, Nat.pow_zero, Nat.div_one] at this
    rw [hsucc, hlow, ih hhigh fun j hj => ?_, Nat.mod_add_div]
    rw [Nat.add_assoc, Nat.add_comm 1, h (j + 1) (by omega), fld, fld, Nat.mul_succ, Nat.add_comm (8 * j), Nat.pow_add,
      ← Nat.div_div_eq_div_mul]

/-! ### Bytes at home (R99, R156) -/

section bytes
variable {ms : MemSys} {a n : Nat}

theorem msByte_noLine (hc : ms.chains = []) (hl : noLine ms a 1) (ha : a < 2 ^ 42) : msByte ms a = (ms.mem.get a).toNat := by
  rw [msByte_none (homeAt_none hl Nat.one_pos none), settle_of_chains hc, rd_device ha, read_byte]

/-- A home line that holds a byte, no line of another key holding it, is found by the byte's address. -/
theorem homeAt_of_home {t : Option (BitVec 6)} {h : HomeLine} (hh : ms.home (.addr t (lineOf a)) = some h)
    (honly : ∀ g ∈ ms.homes, ∀ u, g.key = .addr u (lineOf a) → u = t) : ms.homeAt a none = some h := by
  rw [← hh, MemSys.homeAt, MemSys.home]
  refine List.find?_congr fun g hg => ?_
  cases hk : g.key with
  | tensor => simp
  | addr u l =>
    rw [Bool.eq_iff_iff]
    simp only [Option.isNone_none, Bool.or_true, Bool.true_or, Bool.and_true, beq_iff_eq, LineKey.addr.injEq]
    exact ⟨fun hl => ⟨honly g hg u (by rw [hk, hl]), hl⟩, fun hl => hl.2⟩

/-- A home line replaced or added holds its bytes, and memory or the other lines the others. -/
theorem msByte_putHome {t : Option (BitVec 6)} {l : Nat} {h : HomeLine} (hc : ms.chains = []) (hkey : h.key = .addr t l)
    (honly : ∀ g ∈ ms.homes, ∀ u, g.key = .addr u l → u = t) (b : Nat) :
    msByte (ms.putHome h) b = if lineOf b = l then lineRead h.data (b % 256) 1 else msByte ms b := by
  split
  next hb =>
    subst hb
    have hfirst : (ms.putHome h).homeAt b none = some h := by
      refine homeAt_of_home (t := t) (List.find?_cons_of_pos (by simp [hkey])) fun g hg u hu => ?_
      rcases List.mem_cons.mp hg with rfl | hg
      · exact (LineKey.addr.inj (hkey.symm.trans hu)).1.symm
      · exact honly g (List.mem_filter.mp hg).1 u hu
    rw [msByte_home hfirst]
  next hb =>
    have hother : (ms.putHome h).homeAt b none = ms.homeAt b none := by
      unfold MemSys.homeAt MemSys.putHome
      rw [List.find?_cons_of_neg (by simp only [hkey, beq_iff_eq, Option.isNone_none, Bool.or_true, Bool.true_or, Bool.and_true]; omega),
        List.find?_filter]
      congr 1
      funext g
      by_cases hg : g.key = h.key
      · simp [hg, hkey, Ne.symm hb]
      · simp [hg]
    have hchains : (ms.putHome h).chains = [] := hc
    cases hat : ms.homeAt b none with
    | some g => rw [msByte_home hat, msByte_home (hother.trans hat)]
    | none =>
      rw [msByte_none hat, msByte_none (hother.trans hat), settle_of_chains hc, settle_of_chains hchains]
      rfl

/-- A line used again holds the same bytes, and memory the others. -/
theorem msByte_putHome_found {t : Option (BitVec 6)} {l : Nat} {h : HomeLine} (hc : ms.chains = []) (hh : ms.home (.addr t l) = some h)
    (honly : ∀ g ∈ ms.homes, ∀ u, g.key = .addr u l → u = t) (b : Nat) : msByte (ms.putHome h) b = msByte ms b := by
  rw [msByte_putHome hc (home_key hh) honly]
  split
  next hb =>
    subst hb
    rw [msByte_home (homeAt_of_home hh honly)]
  next => rfl

end bytes

/-! ### Reads of a thread -/

section reads
variable {s : State} {c : Ctx} {h : Hit} {n : Nat}

/-- R99, R115: a read that fills the L1 data cache from a line resident at its home takes its bytes from there. -/
theorem spotRead_fills {g : HomeLine} {x : CoreId} (hw : c.who = .thread x) (hm : mmioOf h.pa = none) (hr : h.ga < 2 ^ 42)
    (hb : s.ms.bypass h = false) (hl : (s.core c.core).l1Line (h.key c) = none) (hh : s.ms.home (h.key c) = some g)
    (hp : g.poison = 0) (kind addr : Nat) : spotRead c (.plain h) n kind addr s = .ok (lineRead g.data (h.ga % 256) n)
      (({ s with ms := s.ms.putHome g } : State).modCore c.core fun k => k.l1Fill ⟨h.key c, g.data, none⟩) := by
  have hnothost : ¬hostBase ≤ h.ga := by unfold hostBase; omega
  have hclean : (fld (0 : BitVec 256).toNat (h.ga % 256) n != 0) = false := by simp [fld]
  simp only [spotRead, plainRead, X.bind_apply, X.get_apply, hm, notRemote hr, hb, hw, hl, fillLine, hh, X.modify_apply, X.pure_apply,
    Bool.false_eq_true, if_false, hnothost, hp, if_true, hclean, Bool.not_false, X.require_true]

end reads

end Sys2Proof.Proofs
end

section
/-! Vector loads of GLOBAL pages without format, from memory and from the lines at their homes (R99, R115, R258). -/

namespace Sys2Proof.Proofs
open Sys2Proof.Machine Sys2Proof.Claim

/-! ### Bytes that memory holds (R156) -/

section bytesAt
variable {s : State} {a n : Nat}

/-- Bytes of device memory at rest. -/
theorem bytesAt_atRest (hr : atRest s a n none) (ha : a + n ≤ 2 ^ 42) : bytesAt s a n = s.ms.mem.read a n := by
  refine bytesAt_of_bytes (read_lt _ _ _) fun j hj => ?_
  have hl : noLine s.ms (a + j) 1 := by
    intro g hg t l hk
    have hline := atRest_noLine hr g hg t l hk
    unfold lineOf at hline ⊢
    omega
  rw [byteAt_eq, msByte_noLine hr.1 hl (by omega), ← read_byte]
  exact read_part s.ms.mem (show j + 1 ≤ n from hj)

/-- Bytes of one line that is resident, no other home line of them. -/
theorem bytesAt_home {t : Option (BitVec 6)} {h : HomeLine} (hr : atRest s a n (some (.addr t (lineOf a))))
    (hh : s.ms.home (.addr t (lineOf a)) = some h) (hfit : a % 256 + n ≤ 256) : bytesAt s a n = lineRead h.data (a % 256) n := by
  refine bytesAt_of_bytes (fld_lt _ _ _) fun j hj => ?_
  have hline : lineOf (a + j) = lineOf a := by unfold lineOf; omega
  have hend : lineOf a ≤ lineOf (a + n - 1) := Nat.div_le_div_right (by omega)
  have hat : s.ms.homeAt (a + j) none = some h := by
    refine homeAt_of_home (t := t) (by rw [hline]; exact hh) fun g hg u hu => ?_
    rw [hline] at hu
    have := hr.2.2 g hg u _ hu le_rfl hend
    rw [hu, Option.some.injEq, LineKey.addr.injEq] at this
    exact this.1
  rw [byteAt_eq, msByte_home hat, lineRead, lineRead, fld_fld (by omega), ← Nat.mul_add]
  congr 2
  omega

end bytesAt

/-! ### A state whose reads have filled the L1 data cache from lines at their homes -/

/-- A core with these lines in its L1 data cache. -/
def withLines (l : List L1Line) (k : Core) : Core := { k with cache := { k.cache with l1d := l } }

/-- The state with these lines in the own L1 data cache and these at the homes. -/
def filled (s : State) (l : List L1Line) (hs : List HomeLine) : State := { withL1 s l with ms := { s.ms with homes := hs } }

/-- An L1 line that serves its key (R114). -/
def servesL1 (k : Core) (l : L1Line) : Bool :=
  match l.rep with
  | none => true
  | some (epoch, level) => (k.cache.floors[level]?).getD 0 ≤ epoch

theorem l1Line_eq (k : Core) (key : LineKey) : k.l1Line key = k.cache.l1d.find? fun l => l.key == key && servesL1 k l := rfl

/-- The homes reordered, and each line of the L1 data cache that it did not serve before the copy of its home line. -/
structure Filling (s : State) (l : List L1Line) (hs : List HomeLine) : Prop where
  sub : ∀ h ∈ hs, h ∈ s.ms.homes
  home : ∀ key, ({ s.ms with homes := hs } : MemSys).home key = s.ms.home key
  bytes : ∀ b, msByte { s.ms with homes := hs } b = msByte s.ms b
  lines : ∀ g ∈ l, ∀ h, s.self.l1Line g.key = none → servesL1 s.self g = true → s.ms.home g.key = some h → g.data = h.data

section filled
variable {s : State} {l : List L1Line} {hs : List HomeLine}

theorem filled_self : (filled s l hs).self = withLines l s.self := withL1_self s l

theorem filled_cachesOnly : CachesOnly s (filled s l hs) := (withL1_cachesOnly s l).trans (CachesOnly.withMs _ _)

theorem filled_same : filled s s.self.cache.l1d s.ms.homes = s := by
  rw [filled, withL1_same]

theorem Filling.refl (s : State) : Filling s s.self.cache.l1d s.ms.homes where
  sub _ hh := hh
  home _ := rfl
  bytes _ := rfl
  lines g hg h hnone hserves := by
    rw [l1Line_eq] at hnone
    exact absurd (List.find?_eq_none.mp hnone g hg) (by simp [hserves])

/-- Lines of the L1 data cache changed. -/
theorem filled_mod {g : Core → Core} (hg : g (withLines l s.self) = withLines (g (withLines l s.self)).cache.l1d s.self) :
    (filled s l hs).modCore s.cur g = filled s (g (withLines l s.self)).cache.l1d hs := by
  have hown : (withL1 s l).modSelf g = withL1 s (g (withLines l s.self)).cache.l1d := (State.modSelf_modSelf s _ g).trans
    (State.modSelf_congr s (f := fun k => g (withLines l k)) (g := fun k => withLines (g (withLines l s.self)).cache.l1d k) hg)
  exact congrArg (fun t : State => ({ t with ms := { s.ms with homes := hs } } : State)) hown

/-- The L1 lines of addresses dropped. -/
theorem Filling.drop (F : Filling s l hs) (a n : Nat) : Filling s ((withLines l s.self).l1DropAddr a n).cache.l1d hs :=
  ⟨F.sub, F.home, F.bytes, fun g hg => F.lines g (List.mem_of_mem_filter hg)⟩

/-- The lines that remain where one is brought in: copies of the others. -/
theorem mem_l1Fill {k : Core} {g m : L1Line} (h : g ∈ (k.l1Fill m).cache.l1d) : g = m ∨ g ∈ k.cache.l1d := by
  rcases List.mem_append.mp h with h | h
  · rcases List.mem_cons.mp (List.mem_of_mem_take h) with h | h
    · exact .inl h
    · exact .inr (List.mem_of_mem_filter (List.mem_of_mem_filter h))
  · exact .inr (List.mem_of_mem_filter (List.mem_of_mem_filter h))

/-- A home line used again and copied to the L1 data cache. -/
theorem Filling.fill (F : Filling s l hs) {t : Option (BitVec 6)} {i : Nat} {h : HomeLine} (hc : s.ms.chains = [])
    (hh : s.ms.home (.addr t i) = some h) (honly : ∀ g ∈ s.ms.homes, ∀ u, g.key = .addr u i → u = t) :
    Filling s ((withLines l s.self).l1Fill ⟨.addr t i, h.data, none⟩).cache.l1d (h :: hs.filter fun g => g.key != h.key) := by
  have hfound : ({ s.ms with homes := hs } : MemSys).home (.addr t i) = some h := (F.home _).trans hh
  refine ⟨fun g hg => ?_, fun key => (home_putHome_found hfound key).trans (F.home key), fun b => ?_, fun g hg h' hnone hserves hh' => ?_⟩
  · rcases List.mem_cons.mp hg with rfl | hg
    · exact List.mem_of_find?_eq_some hh
    · exact F.sub g (List.mem_of_mem_filter hg)
  · exact (msByte_putHome_found (ms := { s.ms with homes := hs }) hc hfound (fun g hg => honly g (F.sub g hg)) b).trans (F.bytes b)
  · rcases mem_l1Fill hg with rfl | hg
    · rw [Option.some.inj (hh'.symm.trans hh)]
    · exact F.lines g hg h' hnone hserves hh'

/-- An access that the L1 TLB serves is served as before. -/
theorem mapped_filled {a : Word} {q : Ask} {e : TlbEntry} (hm : mapped s a q e) : mappedFor (filled s l hs) (s.ctxOf s.cur) a q e := by
  have hcore : (filled s l hs).core (s.ctxOf s.cur).core = withLines l s.self := filled_self
  unfold mapped mappedFor at hm
  unfold mappedFor
  rw [hcore]
  exact hm

/-- An element's bytes, read in memory, in a line at its home, or in its copy. -/
theorem Filling.read (F : Filling s l hs) {a : Word} {n pa : Nat} {e : TlbEntry} (hpa : s.leafAddr e.pte e.level a = pa)
    (hmmio : mmioOf pa = none) (hdev : pa < 2 ^ 42) (hhomed : homed s e pa n)
    (hn : 0 < n) (hnone : uncached s e pa = false → s.self.l1Line (lineKey s e pa) = none) (hfit : pa % 256 + n ≤ 256) (hp : s.ms.poison = [])
    (kind addr : Nat) : ∃ l' hs', spotRead (s.ctxOf s.cur) (.plain (e.hit s a)) n kind addr (filled s l hs) =
      .ok (bytesAt s pa n) (filled s l' hs') ∧ Filling s l' hs' := by
  obtain ⟨hplaced, hclean⟩ := hhomed
  have hga : (e.hit s a).ga = pa := hpa
  have hpa' : (e.hit s a).pa = pa := hpa
  have hbypass : (filled s l hs).ms.bypass (e.hit s a) = uncached s e pa := by
    rw [uncached, ← hpa]
    rfl
  have hkey : (e.hit s a).key (s.ctxOf s.cur) = lineKey s e pa := by
    rw [← hpa]
    rfl
  by_cases hun : uncached s e pa = true
  · rw [placedFor, if_pos hun] at hplaced
    have hl : noLine (filled s l hs).ms pa n := fun g hg => atRest_noLine hplaced g (F.sub g hg)
    have hread := spotRead_uncached (c := s.ctxOf s.cur) (h := e.hit s a) (s := filled s l hs) (n := n) hplaced.1 (hga ▸ hl) hp
      (hpa' ▸ hmmio) (hga ▸ hdev) (hbypass.trans hun) kind addr
    refine ⟨_, hs, ?_, F.drop pa n⟩
    rw [hread, hga, bytesAt_atRest hplaced (by omega)]
    exact congrArg (EStateM.Result.ok _) (filled_mod (g := fun k => k.l1DropAddr pa n) rfl)
  · rw [placedFor, if_neg hun] at hplaced
    obtain ⟨hrest, h, hh, -⟩ := hplaced
    have hcached := Bool.eq_false_iff.mpr hun
    have hbytes : bytesAt s pa n = lineRead h.data (pa % 256) n := bytesAt_home hrest hh hfit
    have hself : (filled s l hs).core (s.ctxOf s.cur).core = withLines l s.self := filled_self
    cases hl1 : (withLines l s.self).l1Line (lineKey s e pa) with
    | some g =>
      have hfind : l.find? (fun g => g.key == lineKey s e pa && servesL1 s.self g) = some g := hl1
      have hmem := List.mem_of_find?_eq_some hfind
      have hg := List.find?_some hfind
      obtain ⟨hgkey, hserves⟩ := Bool.and_eq_true_iff.mp (show (g.key == lineKey s e pa && servesL1 s.self g) = true from hg)
      have hkeyg := eq_of_beq hgkey
      have hdata := F.lines g hmem h (hkeyg ▸ hnone hcached) hserves (hkeyg ▸ hh)
      obtain ⟨hnc, hgated⟩ := Bool.or_eq_false_iff.mp (hbypass.trans hcached)
      refine ⟨l, hs, ?_, F⟩
      rw [spotRead_l1 (c := s.ctxOf s.cur) (hpa' ▸ hmmio) (fun _ h => nomatch h) (hga ▸ hdev) hnc hgated (by rw [hself, hkey, hl1]), hga, hbytes, hdata]
    | none =>
      have hread := spotRead_fills (c := s.ctxOf s.cur) (h := e.hit s a) (s := filled s l hs) (n := n) (g := h) rfl (hpa' ▸ hmmio)
        (hga ▸ hdev) (hbypass.trans hcached) (by rw [hself, hkey, hl1]) (by rw [hkey]; exact (F.home _).trans hh) (hclean h hh) kind addr
      have hend : lineOf pa ≤ lineOf (pa + n - 1) := Nat.div_le_div_right (by omega)
      refine ⟨_, _, ?_, F.fill hrest.1 hh fun g hg u hu => ?_⟩
      · rw [hread, hga, hbytes, hkey]
        exact congrArg (EStateM.Result.ok _) (filled_mod (l := l) (g := fun k => k.l1Fill ⟨lineKey s e pa, h.data, none⟩)
          (hs := h :: hs.filter fun g => g.key != h.key) rfl)
      · have := hrest.2.2 g hg u _ hu le_rfl hend
        rw [hu, Option.some.injEq] at this
        exact (LineKey.addr.inj this).1

end filled

end Sys2Proof.Proofs
end

section
/-! Vector loads of GLOBAL pages, unformatted from memory and formatted (R74, R258). -/

namespace Sys2Proof.Proofs
open Sys2Proof.Machine Sys2Proof.Claim

section loads
variable {s : State} {f : VM} {how : Shape}

theorem bytesOf_dvd {t : ET} (h : t ≠ .wac) : Claim.bytesOf t ∣ 256 := by
  cases t with
  | wac => exact absurd rfl h
  | _ => decide

/-- Aligned bytes lie in one line. -/
theorem fits_line {a : Word} {n : Nat} (hd : n ∣ 256) (h : a.toNat % n = 0) (e : TlbEntry) :
    s.leafAddr e.pte e.level a % 256 + n ≤ 256 := by
  have hpage := leafAddr_page s e.pte e.level a
  obtain ⟨q, hq⟩ := hd
  obtain ⟨r, hr⟩ : n ∣ s.leafAddr e.pte e.level a % 256 := by
    have hmod : s.leafAddr e.pte e.level a % 256 = a.toNat % 256 := by omega
    rw [hmod]
    exact (Nat.dvd_mod_iff ⟨q, hq⟩).mpr (Nat.dvd_of_mod_eq_zero h)
  have hlt : n * r < n * q := by
    rw [← hr, ← hq]
    exact Nat.mod_lt _ (by decide)
  have hle : n * (r + 1) ≤ n * q := Nat.mul_le_mul_left n (Nat.lt_of_mul_lt_mul_left hlt)
  rw [Nat.mul_succ] at hle
  omega

/-- Loads of unformatted pages from memory and from the lines at their homes (R258). -/
theorem loads_memory {e : Nat → TlbEntry} {e0 : TlbEntry} (hacc : accesses s f how) (hspace : s.self.space = 0) (ht : f.et ≠ .wac)
    (hpin : s.self.cache.pin = none) (hp : s.ms.poison = [])
    (hanchor : ETflt f.et = true → mapped s (s.self.rd f.xa + f.value) { kind := 0, n := 1 } e0 ∧ pteFmt e0.pte = 0)
    (hmap : ∀ j, live s.self f.msk j → (loadAddr s f how j).toNat % Claim.bytesOf f.et = 0 ∧
      mapped s (loadAddr s f how j) { kind := 0, n := Claim.bytesOf f.et } (e j) ∧ pteFmt (e j).pte = 0)
    (hhome : ∀ j, live s.self f.msk j → homed s (e j) (s.leafAddr (e j).pte (e j).level (loadAddr s f how j)) (Claim.bytesOf f.et) ∧
      (uncached s (e j) (s.leafAddr (e j).pte (e j).level (loadAddr s f how j)) = false →
        s.self.l1Line (lineKey s (e j) (s.leafAddr (e j).pte (e j).level (loadAddr s f how j))) = none)) :
    loads s (loadOf f how) f [] (fun j => (takenOf s f how
      (bytesAt s (s.leafAddr (e j).pte (e j).level (loadAddr s f how j)) (Claim.bytesOf f.et)) j, 0)) fun t => t.self.vec.m = s.self.vec.m := by
  have hfmt := loadFmt_zero (s := s) (f := f) fun hflt _ => by
    obtain ⟨hm, hz⟩ := hanchor hflt
    rw [anchorFmt_mapped hm, hz]
  refine loads_plain (Inv := fun u => ∃ l hs, u = filled s l hs ∧ Filling s l hs) hacc (fun _ h2 => by omega) hfmt
    ⟨_, _, filled_same.symm, Filling.refl s⟩ ?_ ?_ ?_
  · rintro u ⟨l, hs, rfl, -⟩
    exact filled_cachesOnly
  · rintro u ⟨l, hs, rfl, F⟩ b _
    exact F.bytes b
  · rintro j u hl ⟨l, hs, rfl, F⟩
    obtain ⟨halign, hm, hz⟩ := hmap j hl
    obtain ⟨hhomed, hnone⟩ := hhome j hl
    have hfit := fits_line (s := s) (bytesOf_dvd ht) halign (e j)
    have hres := resolveG_served (mapped_filled (l := l) (hs := hs) hm) (fmtOk_plain (s := s) (f := f) hz _)
    obtain ⟨-, -, -, -, -, -, -, hmmio, hdev, -⟩ := hm
    obtain ⟨l', hs', hread, F'⟩ := F.read rfl hmmio hdev hhomed (bytesOf_pos f.et) hnone hfit hp 0 (bits (loadAddr s f how j) 0 56)
    exact ⟨_, elementRead_global hspace ht hpin halign hres hread, l', hs', rfl, F'⟩

/-- A decoded element: its value with its scale, converted under VCFG.RM (R74). -/
theorem loadElem_decoded {q j v n nib addr : Nat} {F : FpFmt} {x : FVal} {h : Hit} (hq : q ≠ 0) (hclean : s.self.vec.poison = [])
    (het : ETfmt f.et = some F) (hplace : (loadMem s f q).place (s.ctxOf s.cur) (loadAt s f q .unit j).1 (loadAt s f q .unit j).2
      (s.self.repin j) s = .ok ⟨[(.plain h, n)], nib, addr⟩ s) (hread : readsAt s f q .unit j v)
    (hscaled : scaledVal (s.ctxOf s.cur) h q v (j % 8) nib 0 addr s = .ok x s)
    (htrap : s.self.trapping (F.convert s.self.rm s.self.satf x).2 = false) :
    loadElem s.self (s.ctxOf s.cur) f (formOf s.self f .unit) q false j s =
      .ok (.value (F.convert s.self.rm s.self.satf x).1 (F.convert s.self.rm s.self.satf x).2) s := by
  obtain ⟨p, t, hp, hr⟩ := bind_ok_iff.mp hread
  obtain ⟨rfl, rfl⟩ : p = ⟨[(.plain h, n)], nib, addr⟩ ∧ t = s := by
    have := hp.symm.trans hplace
    exact ⟨(EStateM.Result.ok.inj this).1, (EStateM.Result.ok.inj this).2⟩
  simp only [loadElem, ofLoad_eq, loadAt_eq, X.bind_apply, cleanSources_ok hclean, hp, hr, bne_iff_ne, ne_eq, hq, not_false_eq_true, if_true,
    hscaled, het, htrap, Bool.not_false, X.require_true, Bool.false_eq_true, if_false, X.pure_apply]

/-- Unit loads of pages of a format (R74, R258). -/
theorem loads_decoded {q : Nat} {F : FpFmt} {x : Nat → FVal} {v : Nat → Nat} (h1 : 1 ≤ q) (h8 : q ≤ 8) (hspace : s.self.space = 0)
    (het : ETfmt f.et = some F) (hflt : ETflt f.et = true) (hacc : accesses s f .unit)
    (hanchor : anchorFmt (s.ctxOf s.cur) (s.self.rd f.xa + f.value) s = .ok (some q) s)
    (hread : ∀ j, live s.self f.msk j → let m := loadMem s f q; let d := loadAt s f q .unit j
      ∃ h n nib addr, m.place (s.ctxOf s.cur) d.1 d.2 (s.self.repin j) s = .ok ⟨[(.plain h, n)], nib, addr⟩ s ∧
        readsAt s f q .unit j (v j) ∧ scaledVal (s.ctxOf s.cur) h q (v j) (j % 8) nib 0 addr s = .ok (x j) s)
    (htrap : ∀ j, live s.self f.msk j → s.self.trapping (F.convert s.self.rm s.self.satf (x j)).2 = false) :
    loads s (.vldUnit f) f [0x008, 0x00A, 0x00B] (fun j => F.convert s.self.rm s.self.satf (x j)) fun t => t.self.vec.m = s.self.vec.m := by
  have h := accesses_iff.mp hacc
  have hfmt : loadFmt (s.ctxOf s.cur) f s.self.space (s.self.rd f.xa + f.value) s = .ok q s := by
    simp only [loadFmt, hflt, hspace, beq_self_eq_true, Bool.and_self, if_true, X.bind_apply, hanchor, decide_eq_true h1, decide_eq_true h8,
      X.pure_apply]
  obtain ⟨z, t, hexec, hinv, ⟨r, p, hms⟩, hz⟩ := vload_values (Inv := (· = s)) (exec_loadOf s f .unit) h (by rfl) hfmt rfl
    (fun u hu => hu ▸ CachesOnly.refl s) (val := fun j => F.convert s.self.rm s.self.satf (x j)) fun j u hl hu => by
      obtain ⟨g, n, nib, addr, hplace, hreads, hscaled⟩ := hread j hl
      subst hu
      exact ⟨u, loadElem_decoded (by omega) h.clean het hplace hreads hscaled (htrap j hl), rfl⟩
  refine loads_of_values hexec h hz (fun b _ => ?_) (loadedBy_csrs_flags q _ s.self)
  rw [byteAt_eq, byteAt_eq, hms, msByte_withReplicas, hinv]

/-- Unit, strided and indexed loads, in every space. -/
theorem vectorLoads : VectorLoads := by
  intro f s v k w raw n taken width direct
  have hraw : ∀ how, raw (loadOf f how) how := fun how => loads_raw
  have hwidth : width = Claim.bytesOf f.et := width_eq f.et
  have hdirect : ∀ how, direct (loadOf f how) how := by
    intro how hacc
    refine ⟨fun hspace hpoison hheld => ?_, fun e e0 hspace ht hpin hp hanchor hmap => ?_⟩
    · rw [hwidth]
      exact loads_raw hacc (fun _ h => absurd (hspace.symm.trans h) (by decide)) (fun _ h => absurd (hspace.symm.trans h) (by decide))
        fun j hj => readsAt_scratch hspace hpoison (hheld j hj)
    intro pa
    refine ⟨fun hhome => ?_, fun l _ hl => ?_⟩
    · rw [hwidth]
      exact loads_memory hacc hspace ht hpin hp hanchor hmap hhome
    · rw [hwidth]
      refine loads_raw hacc (fun _ h => absurd (hspace.symm.trans h) (by decide)) (fun hflt _ => ?_) fun j hj => ?_
      · obtain ⟨hm, hz⟩ := hanchor hflt
        rw [anchorFmt_mapped hm, hz]
      · obtain ⟨halign, hm, hz⟩ := hmap j hj
        obtain ⟨hcached, hl1⟩ := hl j hj
        exact readsAt_l1 hspace ht hpin halign hm hz hcached hl1
  exact ⟨hraw .unit, hraw .strided, hraw .indexed, hdirect .unit, hdirect .strided, hdirect .indexed,
    fun q F x h1 h8 hspace het hflt hacc hanchor hread htrap => loads_decoded h1 h8 hspace het hflt hacc hanchor hread htrap⟩

end loads

end Sys2Proof.Proofs
end

section
/-! Gathers from the scratchpads of other cores (R262), and O28. -/

namespace Sys2Proof.Proofs
open Sys2Proof.Machine Sys2Proof.Claim

/-! ### The results of a loop, by element -/

/-- The entry of an element among the results. -/
theorem find_memEntry (active : Nat → Bool) (zero : Bool) (out : Nat → MemOut) (js : List Nat) (j : Nat) :
    (js.filterMap (memEntry active zero out)).find? (·.1 == j) = if j ∈ js then memEntry active zero out j else none := by
  have hname : ∀ i r, memEntry active zero out i = some r → r.1 = i := by
    intro i r h
    unfold memEntry at h
    split at h
    · split at h <;> cases h
      rfl
    · split at h <;> cases h
      rfl
  induction js with
  | nil => rfl
  | cons i js ih =>
    rw [List.filterMap_cons]
    cases he : memEntry active zero out i with
    | none =>
      simp only
      rw [ih]
      by_cases hij : j = i
      · subst hij
        simp [he]
      · simp [hij]
    | some r =>
      simp only [List.find?_cons]
      rw [hname i r he, ih]
      by_cases hij : i = j
      · subst hij
        simp [he]
      · rw [beq_eq_false_iff_ne.mpr hij]
        simp [Ne.symm hij]

/-- The results of a loop below its bound. -/
theorem find_results (active : Nat → Bool) (zero : Bool) (out : Nat → MemOut) {vs n j : Nat} (hj : j < n) :
    ((((List.range' vs (n - vs)).filterMap (memEntry active zero out)).reverse.filter fun r => decide (r.1 < n)).reverse.find? (·.1 == j)) =
      if vs ≤ j then memEntry active zero out j else none := by
  have hbound : ((List.range' vs (n - vs)).filterMap (memEntry active zero out)).find? (fun r => decide (r.1 < n) && r.1 == j) =
      ((List.range' vs (n - vs)).filterMap (memEntry active zero out)).find? (·.1 == j) := by
    congr 1
    funext r
    by_cases hr : r.1 = j
    · simp [hr, hj]
    · simp [hr]
  rw [← List.filter_reverse, List.reverse_reverse, List.find?_filter]
  refine (Eq.trans ?_ hbound).trans ((find_memEntry active zero out _ j).trans ?_)
  · congr 1
    funext r
    simp [Bool.beq_eq_decide_eq]
  · have hmem : j ∈ List.range' vs (n - vs) ↔ vs ≤ j := by
      rw [List.mem_range'_1]
      omega
    simp only [hmem]

section vectorCsr
variable {k l : Core}

theorem VectorCsr.setCsr (h : VectorCsr k l) (n : Nat) (v : Word) : VectorCsr k (l.setCsr n v) := by
  obtain ⟨u, c, rfl⟩ := h
  exact ⟨_, _, rfl⟩

theorem VectorCsr.vwrite (h : VectorCsr k l) (d : Dst) (res : List (Nat × Nat)) (tl : Option Nat) : VectorCsr k (l.vwrite d res tl) := by
  obtain ⟨u, c, rfl⟩ := h
  rw [Core.vwrite_eq]
  exact ⟨_, _, rfl⟩

theorem VectorCsr.vwriteIf (h : VectorCsr k l) (b : Bool) (d : Dst) (res : List (Nat × Nat)) (tl : Option Nat) :
    VectorCsr k (if b = true then l.vwrite d res tl else l) := by
  split
  · exact h.vwrite d res tl
  · exact h

end vectorCsr

theorem loopCommitted_vectorCsr (m : MForm) (n : Nat) (l : MLoop) (vs : Nat) (k : Core) : VectorCsr k (loopCommitted m n l vs k) := by
  have hflags : VectorCsr k (k.orFlags l.flags) := ⟨_, _, rfl⟩
  have hrecord : VectorCsr k (if m.record then ((k.orFlags l.flags).setCsr 0x00A l.vfx0).setCsr 0x00B l.vfx1 else k.orFlags l.flags) := by
    split
    · exact (hflags.setCsr _ _).setCsr _ _
    · exact hflags
  unfold loopCommitted memCommit
  refine VectorCsr.setCsr ?_ _ _
  cases m.dst with
  | none => exact hrecord.vwriteIf _ _ _ _
  | some d => exact (hrecord.vwrite d _ _).vwriteIf _ _ _ _

/-- A loop that names its destination and its fault mask writes them one after the other (R262). -/
theorem loopCommitted_peer {m : MForm} {d : Dst} (hd : m.dst = some d) (hr : m.record = false) (hp : m.peer = true) (n : Nat) (l : MLoop)
    (vs : Nat) (k : Core) : ∃ (k0 : Core) (tl : Option Nat), k0.vec = k.vec ∧ (tl = none ∨ tl = some n) ∧
      (loopCommitted m n l vs k).vec = ((k0.vwrite d (l.res.filter fun r => r.1 < n) tl).vwrite (.mask 7)
        ((List.range (n - vs)).map fun j => (vs + j, if l.faults.contains (vs + j) then 1 else 0)) tl).vec := by
  refine ⟨k.orFlags l.flags, if (k.orFlags l.flags).tailz then some n else none, Core.orFlags_vec .., ?_, ?_⟩
  · split
    · exact .inr rfl
    · exact .inl rfl
  · simp only [loopCommitted, memCommit, hd, hr, hp, Bool.false_eq_true, if_false, if_true, Core.setCsr_vec]

/-! ### PEER gathers (R262) -/

section gather
variable {s : State} {f : VM} {v : Nat → Option Nat}

/-- What element j of a gather comes to. -/
def gathered (f : VM) (v : Nat → Option Nat) (j : Nat) : MemOut :=
  match v j with
  | some x => .value (elemBits f.et x) 0
  | none => .faulted

/-- A PEER fault caught. -/
theorem tryCatch_peer {α : Type} {m : X α} {f : Stop → X α} {s : State} {e : Stop} (h : m s = .error e s) : tryCatch m f s = f e s := by
  change EStateM.tryCatch m f s = _
  simp only [EStateM.tryCatch, h]
  rfl

/-- The access of element j of a gather, and what becomes of its fault. -/
def gatherBody (s : State) (f : VM) (j : Nat) : X MemOut := do
  let p ← (loadMem s f 0).place (s.ctxOf s.cur) (loadAt s f 0 .indexed j).1 (loadAt s f 0 .indexed j).2 (s.self.repin j)
  let raw ← p.read (s.ctxOf s.cur) (loadMem s f 0).half 0
  return .value (elemBits f.et raw) 0

def gatherCaught (e : Stop) : X MemOut :=
  match e with
  | .trap 0x11 _ => return .faulted
  | e => throw e

/-- An element of a gather performs, or its fault is recorded. -/
theorem loadElem_gathered {j : Nat} (hclean : s.self.vec.poison = [])
    (h : match v j with
      | some x => elementRead s f .indexed j s = .ok x s
      | none => ∃ tv, elementRead s f .indexed j s = .error (.trap 0x11 tv) s) :
    loadElem s.self (s.ctxOf s.cur) f (formOf s.self f .indexed) 0 true j s = .ok (gathered f v j) s := by
  have hcatch : loadElem s.self (s.ctxOf s.cur) f (formOf s.self f .indexed) 0 true j s =
      tryCatch (gatherBody s f j) gatherCaught s := by
    simp only [loadElem, ofLoad_eq, loadAt_eq, X.bind_apply, cleanSources_ok hclean, if_true, bne_self_eq_false, Bool.false_eq_true, if_false]
    rfl
  rw [hcatch]
  cases hv : v j with
  | some x =>
    rw [hv] at h
    obtain ⟨p, t, hp, hr⟩ := bind_ok_iff.mp h
    refine tryCatch_ok ?_
    simp only [gatherBody, X.bind_apply, hp, hr, X.pure_apply, gathered, hv]
  | none =>
    rw [hv] at h
    obtain ⟨tv, h⟩ := h
    rw [elementRead, X.bind_apply] at h
    refine (tryCatch_peer (e := .trap 0x11 tv) ?_).trans ?_
    · cases hp : (loadMem s f 0).place (s.ctxOf s.cur) (loadAt s f 0 .indexed j).1 (loadAt s f 0 .indexed j).2 (s.self.repin j) s with
      | ok p t =>
        rw [hp] at h
        exact (bind_of_ok hp).trans (bind_of_error h)
      | error e t =>
        rw [hp] at h
        cases (show EStateM.Result.error (α := Nat) e t = _ from h)
        exact bind_of_error hp
    · rw [gathered, hv]
      rfl

/-- The elements of memory forms lie in the registers below 42. -/
theorem heldIn_congr {u w : VecUnit} {t : ET} {code : BitVec 7} (hcode : code.toNat < 42) (hwac : t = .wac → code.toNat ≤ 29)
    (h : ∀ c < 42, w.bitsOf c = u.bitsOf c) (j : Nat) : heldIn t code w j = heldIn t code u j := by
  have hreg : ∀ c < 42, ∀ b, regElem c b w j = regElem c b u j := fun c hc b => by rw [regElem, regElem, h c hc]
  unfold heldIn
  split
  next ht =>
    have := hwac ht
    rw [hreg _ (by omega), hreg _ (by omega), hreg _ (by omega)]
  next => rw [hreg _ hcode]

/-- A shape has no more elements than a mask has bits. -/
theorem Accesses.size_le {how : Shape} (h : Accesses s f how) : s.self.vrows * s.self.vcols ≤ 65536 := by
  have hshape := admits_shape h.admits
  have hwidth : 4 ≤ shapeWidth (ETew f.et) := by
    cases f.et <;> decide
  have := Nat.mul_le_mul_left (s.self.vrows * s.self.vcols) hwidth
  omega

theorem Accesses.code_lt {how : Shape} (h : Accesses s f how) : f.vd.toNat < 42 := by
  by_cases ht : f.et = .wac
  · have := h.wac ht
    omega
  · exact (admits_named h.admits
      ⟨_, List.mem_append_left _ (registers_one ht ▸ List.mem_singleton_self _), h.vector, rfl⟩).2.1

/-- The core once a gather has completed. -/
def gatherDone (f : VM) (v : Nat → Option Nat) (k : Core) : Core :=
  loopCommitted (loadForm f 0 true) (k.vrows * k.vcols)
    (loopDone (loadForm f 0 true) (k.vrows * k.vcols) (k.activeBit f.msk) (gathered f v) k) k.vstart k

/-- The elements of a gather, and their bits in the fault mask. -/
theorem gather_elements (h : Accesses s f .indexed) {j : Nat} (hl : live s.self f.msk j) :
    heldIn f.et f.vd (gatherDone f v s.self).vec j = (v j).elim (held s.self f.et f.vd j) (elemBits f.et) ∧
      (gatherDone f v s.self).vec.maskBit 7 j = (v j).isNone := by
  obtain ⟨hfrom, hn, hlive⟩ := hl
  have hactive : s.self.activeBit f.msk j = true := hlive
  obtain ⟨k0, tl, hk0, htl, hu⟩ := loopCommitted_peer (m := loadForm f 0 true) rfl rfl rfl (s.self.vrows * s.self.vcols)
    (loopDone (loadForm f 0 true) (s.self.vrows * s.self.vcols) (s.self.activeBit f.msk) (gathered f v) s.self) s.self.vstart s.self
  have D := destination_held h
  have M := destination_mask (m := 7) (n := s.self.vrows * s.self.vcols) (tail := true) (by decide) (by decide) h.size_le
  have htl' : tl = none ∨ true = true ∧ tl = some (s.self.vrows * s.self.vcols) := htl.imp id fun h => ⟨rfl, h⟩
  have hout : gathered f v j = .faulted ↔ v j = none := by
    unfold gathered
    cases v j <;> simp
  rw [gatherDone, hu]
  constructor
  · rw [heldIn_congr h.code_lt h.wac (M.beside _ _ _).1, D.read _ _ _ _ hn htl', hk0]
    have hres : (loopDone (loadForm f 0 true) (s.self.vrows * s.self.vcols) (s.self.activeBit f.msk) (gathered f v) s.self).res =
        ((List.range' s.self.vstart (s.self.vrows * s.self.vcols - s.self.vstart)).filterMap
          (memEntry (s.self.activeBit f.msk) (f.mz == 1) (gathered f v))).reverse :=
      (loopAdd_res _ _ _ _ _).trans (List.append_nil _)
    rw [hres, find_results _ _ _ hn, if_pos hfrom, memEntry, if_pos hactive, gathered]
    cases v j with
    | none => rfl
    | some x => exact elemBits_elemBits f.et x
  · have hfault : (loopDone (loadForm f 0 true) (s.self.vrows * s.self.vcols) (s.self.activeBit f.msk) (gathered f v) s.self).faults.contains
        j = (v j).isNone := by
      rw [Bool.eq_iff_iff, List.contains_iff_mem, Option.isNone_iff_eq_none, ← hout]
      refine (mem_loopAdd_faults _ _ _ _ _ j).trans ⟨fun hm => ?_, fun ho => .inr ⟨?_, hactive, ho⟩⟩
      · rcases hm with hm | hm
        · exact absurd hm List.not_mem_nil
        · exact hm.2.2
      · rw [List.mem_range'_1]
        omega
    have hrun := find_run (fun b => if (loopDone (loadForm f 0 true) (s.self.vrows * s.self.vcols) (s.self.activeBit f.msk) (gathered f v)
      s.self).faults.contains (s.self.vstart + b) then 1 else 0) s.self.vstart (s.self.vrows * s.self.vcols - s.self.vstart) j
    rw [List.map_map, if_pos ⟨hfrom, by omega⟩, Nat.add_sub_cancel' hfrom, hfault] at hrun
    rw [M.read _ _ _ _ hn htl']
    refine (congrArg (fun r : Option (Nat × Nat) => r.elim _ fun r => bitOf r.2) ((congrArg
      (fun l : List (Nat × Nat) => l.reverse.find? (·.1 == j)) (List.map_congr_left fun b _ => ?_)).trans hrun)).trans ?_
    · simp only [Function.comp_apply, Nat.add_comm]
    · cases v j <;> rfl

/-- A gather records each element that faults in m7 and performs the others. -/
theorem peerGather : PeerGather := by
  intro f s v k m hspace hacc hreads
  have h := accesses_iff.mp hacc
  have hpeer : (true && s.self.space == 2) = true := by
    rw [show s.self.space = 2 from hspace]
    rfl
  have hzero := loadFmt_zero (s := s) (f := f) fun _ h0 => absurd (h0.symm.trans hspace) (by decide)
  obtain ⟨t, -, rfl, hrun⟩ := vload_chain (Inv := fun _ => (· = s)) (out := gathered f v) (Instr.word (.vldx f)) true h hzero rfl
    (fun j u hl hu => by
      subst hu
      rw [hpeer]
      exact ⟨u, loadElem_gathered h.clean (hreads j hl), rfl⟩) fun _ _ hu => hu
  rw [hpeer] at hrun
  obtain ⟨hz, -⟩ := formDone (CachesOnly.refl t) (fun k c => loopCommitted_withCache (loadForm f 0 true) (t.self.vrows * t.self.vcols)
    (loopDone (loadForm f 0 true) (t.self.vrows * t.self.vcols) (t.self.activeBit f.msk) (gathered f v) t.self) t.self.vstart c k)
    f.ord.toNat t.self.scope (extSize f.ext)
  have hdone := hz.congrSelf (g' := fun k => (gatherDone f v k).retire (extSize f.ext)) rfl
  obtain ⟨hcaches, hvec, -, hcsr⟩ := onlyVectorAndCaches_of_done (g := gatherDone f v) (loopCommitted_vectorCsr ..) hdone
  refine ⟨_, (exec_loadOf t f .indexed).trans (finish_ok hrun), hcaches, ?_, fun j hj => ⟨fun hl x hx => ?_, fun hl hx => ?_⟩⟩
  · rw [hcsr, retire_vstart]
    exact Core.setCsr_csrAt_same _ _ (by decide)
  · obtain ⟨helem, hmask⟩ := gather_elements (v := v) h hl
    rw [hx] at helem hmask
    rw [held_eq, hvec]
    exact ⟨helem, hmask⟩
  · obtain ⟨helem, hmask⟩ := gather_elements (v := v) h hl
    rw [hx] at helem hmask
    rw [held_eq, hvec]
    exact ⟨helem, hmask⟩

/-- Settles O28: vector loads of every shape and space, and gathers from other cores. -/
theorem vectorLoadsAndGathers : Obligations.VectorLoadsAndGathers := ⟨vectorLoads, peerGather⟩

end gather

end Sys2Proof.Proofs
end

section
/-! Half bytes of a store (R49, R142). -/

namespace Sys2Proof.Proofs
open Sys2Proof.Machine Sys2Proof.Claim

/-! ### The bits of a store's element -/

/-- The mask of a store of n bytes, or of a nibble, and the bits under it. -/
def storeMask (half : Bool) (n nib : Nat) : Nat := if half then 15 * 16 ^ nib else allBits n
def storeBits (half : Bool) (n nib v : Nat) : Nat := if half then v % 16 * 16 ^ nib else fld v 0 (8 * n)

/-- n bytes of which a mask selects the bits that are replaced. -/
def merged (n bm v old : Nat) : Nat := (old &&& ((2 ^ (8 * n) - 1) ^^^ bm)) ||| (v &&& bm)

theorem testBit_merged (n bm v old i : Nat) (hi : i < 8 * n) :
    (merged n bm v old).testBit i = if bm.testBit i then v.testBit i else old.testBit i := by
  simp only [merged, Nat.testBit_or, Nat.testBit_and, Nat.testBit_xor, Nat.testBit_two_pow_sub_one, hi, decide_true]
  cases bm.testBit i <;> simp

theorem merged_lt {n bm v old : Nat} (hold : old < 2 ^ (8 * n)) (hbm : bm < 2 ^ (8 * n)) : merged n bm v old < 2 ^ (8 * n) :=
  Nat.or_lt_two_pow (Nat.lt_of_le_of_lt Nat.and_le_left hold) (Nat.lt_of_le_of_lt Nat.and_le_right hbm)

/-- The nibbles of a store's bytes: those of the element, or what was there beside its nibble. -/
theorem fld_merged {half : Bool} {n nib v old r : Nat} (hhalf : half = true → n = 1) (hnib : nib < 2) (hwhole : half = false → nib = 0)
    (hr : r < 2 * n) : fld (merged n (storeMask half n nib) (storeBits half n nib v) old) (4 * r) 4 =
      if nib ≤ r ∧ r < nib + (if half then 1 else 2 * n) then fld v (4 * (r - nib)) 4 else fld old (4 * r) 4 := by
  refine Nat.eq_of_testBit_eq fun i => ?_
  by_cases hi : i < 4
  · rw [testBit_fld _ _ _ _ hi, testBit_merged _ _ _ _ _ (by omega), apply_ite (fun x : Nat => x.testBit i), testBit_fld _ _ _ _ hi,
      testBit_fld _ _ _ _ hi]
    cases half with
    | false =>
      obtain rfl := hwhole rfl
      have hmask : (storeMask false n 0).testBit (4 * r + i) = true := by
        simp only [storeMask, allBits, Bool.false_eq_true, if_false, Nat.testBit_two_pow_sub_one, decide_eq_true_eq]
        omega
      rw [if_pos hmask, if_pos (by simp; omega), storeBits, if_neg Bool.false_ne_true, testBit_fld _ _ _ _ (by omega), Nat.zero_add,
        Nat.sub_zero]
    | true =>
      obtain rfl := hhalf rfl
      have hpow : (16 : Nat) ^ nib = 2 ^ (4 * nib) := by rw [Nat.pow_mul]
      have hmask : (storeMask true 1 nib).testBit (4 * r + i) = decide (r = nib) := by
        rw [storeMask, if_pos rfl, hpow, show (15 : Nat) = 2 ^ 4 - 1 from rfl, Nat.testBit_mul_two_pow, Nat.testBit_two_pow_sub_one,
          Bool.eq_iff_iff]
        simp only [Bool.and_eq_true, decide_eq_true_eq]
        omega
      rw [hmask]
      by_cases hrn : r = nib
      · subst hrn
        rw [decide_eq_true rfl, if_pos rfl, if_pos (by simp), storeBits, if_pos rfl, hpow, Nat.testBit_mul_two_pow,
          show (16 : Nat) = 2 ^ 4 from rfl, Nat.testBit_mod_two_pow]
        simp [hi]
      · rw [decide_eq_false hrn, if_neg Bool.false_ne_true, if_neg (by simp; omega)]
  · have hlt : ∀ x lo, (fld x lo 4).testBit i = false := fun x lo =>
      Nat.testBit_lt_two_pow ((fld_lt x lo 4).trans_le (Nat.pow_le_pow_right (by decide) (by omega)))
    rw [apply_ite (fun x : Nat => x.testBit i), hlt, hlt, hlt, ite_self]

/-- Bytes replaced by an element's: the half bytes that it covers are its own, the others stay. -/
theorem nibbles_stored {B B' : Nat → Nat} {half : Bool} {a n nib v old : Nat} (hhalf : half = true → n = 1) (hnib : nib < 2)
    (hwhole : half = false → nib = 0) (hold : ∀ j < n, fld old (8 * j) 8 = B (a + j))
    (hin : ∀ j < n, B' (a + j) = fld (merged n (storeMask half n nib) (storeBits half n nib v) old) (8 * j) 8)
    (hout : ∀ b, b < a ∨ a + n ≤ b → B' b = B b) (q : Nat) : fld (B' (q / 2)) (4 * (q % 2)) 4 =
      if 2 * a + nib ≤ q ∧ q < 2 * a + nib + (if half then 1 else 2 * n) then fld v (4 * (q - (2 * a + nib))) 4
      else fld (B (q / 2)) (4 * (q % 2)) 4 := by
  by_cases hq : a ≤ q / 2 ∧ q / 2 < a + n
  · obtain ⟨j, hj⟩ := Nat.exists_eq_add_of_le hq.1
    have hjn : j < n := by omega
    have hpos : ∀ x, fld (fld x (8 * j) 8) (4 * (q % 2)) 4 = fld x (4 * (q - 2 * a)) 4 := fun x => by
      rw [fld_fld (by omega)]
      congr 1
      omega
    rw [hj, hin j hjn, ← hold j hjn, hpos, hpos, fld_merged hhalf hnib hwhole (by omega)]
    refine if_congr (by omega) ?_ rfl
    congr 1
    omega
  · rw [hout _ (by omega), if_neg]
    cases half with
    | false =>
      obtain rfl := hwhole rfl
      rw [if_neg Bool.false_ne_true]
      omega
    | true =>
      have := hhalf rfl
      rw [if_pos rfl]
      omega

/-! ### The last write (R142) -/

section lastWrites
variable {by_ : Nat → Prop} {start : Nat → Nat} {len : Nat} {val old new : Nat → Nat}

theorem lastWrites_none (h : ∀ j, ¬by_ j) (q : ∀ x, new x = old x) : lastWrites by_ start len val old new :=
  fun x => ⟨fun j hj => absurd hj (h j), fun _ => q x⟩

/-- One more write, after all the others. -/
theorem lastWrites_step {new' : Nat → Nat} {i : Nat} (h : lastWrites by_ start len val old new) (hlt : ∀ j, by_ j → j < i)
    (hnew : ∀ q, new' q = if start i ≤ q ∧ q < start i + len then fld (val i) (4 * (q - start i)) 4 else new q) :
    lastWrites (fun j => by_ j ∨ j = i) start len val old new' := by
  intro q
  refine ⟨fun j hj h1 h2 hlast => ?_, fun hnone => ?_⟩
  · rw [hnew]
    rcases hj with hj | rfl
    · have := hlast i (.inr rfl) (hlt j hj)
      rw [if_neg (by omega)]
      exact (h q).1 j hj h1 h2 fun m hm => hlast m (.inl hm)
    · rw [if_pos ⟨h1, h2⟩]
  · have := hnone i (.inr rfl)
    rw [hnew, if_neg (by omega)]
    exact (h q).2 fun j hj => hnone j (.inl hj)

/-- Writes that a later one at the same place covers need not be made. -/
theorem lastWrites_skipped {skip : Nat → Prop} (h : lastWrites (fun j => by_ j ∧ ¬skip j) start len val old new)
    (hskip : ∀ j, by_ j → skip j → ∃ m, by_ m ∧ j < m ∧ start m = start j) : lastWrites by_ start len val old new := by
  intro q
  refine ⟨fun j hj h1 h2 hlast => ?_, fun hnone => (h q).2 fun j hj => hnone j hj.1⟩
  refine (h q).1 j ⟨hj, fun hs => ?_⟩ h1 h2 fun m hm => hlast m hm.1
  obtain ⟨m, hm, hjm, hstart⟩ := hskip j hj hs
  have := hlast m hm hjm
  omega

theorem lastWrites_congr {by' : Nat → Prop} (h : ∀ j, by_ j ↔ by' j) (hw : lastWrites by_ start len val old new) :
    lastWrites by' start len val old new := by
  rwa [show by' = by_ from funext fun j => propext (h j).symm]

end lastWrites

end Sys2Proof.Proofs
end

section
/-! Vector stores up to their loop (R258 to R262). -/

namespace Sys2Proof.Proofs
open Sys2Proof.Machine Sys2Proof.Claim

section vstore
variable {s : State} {f : VM} {how : Shape}

/-! ### The elements of a store -/

/-- The displacement and nibble of element j of a store in SCRATCH or GLOBAL (R259). -/
def storeAt (k : Core) (f : VM) (how : Shape) (j : Nat) : Int × Nat :=
  offset k f how (Claim.bytesOf f.et) (ETwidth f.et == 4) j

/-- A later live element of a scatter has the same place (R142). -/
def skips (k : Core) (f : VM) (how : Shape) (i : Nat) : Bool :=
  (how == .indexed) && overwritten (k.vrows * k.vcols) (k.activeBit f.msk)
    (fun j => ((wrap 64 (storeAt k f how j).1 : Int), (storeAt k f how j).2)) i

/-- How the elements of a store, or of another access without format, lie (R258). -/
def plainMem (s : State) (f : VM) (kind : Nat) : VMem :=
  { space := s.self.space, w := ETwidth f.et, size := Claim.bytesOf f.et, half := ETwidth f.et == 4, kind := kind, base := s.self.rd f.xa
    msu := false, noHost := false, fmtOk := anyFormat }

/-- Element i of a store. -/
def storeElem (s : State) (f : VM) (how : Shape) (i : Nat) : X MemOut := do
  cleanSources ((formOf s.self f how).sources ++ maskSource f.msk) i
  let p ← (plainMem s f 1).place (s.ctxOf s.cur) (storeAt s.self f how i).1 (storeAt s.self f how i).2 (s.self.repin i)
  cleanSources (vmSources f) i
  if !skips s.self f how i then p.write (s.ctxOf s.cur) (ETwidth f.et == 4) (held s.self f.et f.vd i)
  return .done

theorem vmElem_eq (k : Core) (f : VM) (i : Nat) : vmElem f k.vec i = held k f.et f.vd i := by
  unfold vmElem held
  by_cases ht : f.et = .wac
  · rw [if_pos ht, if_pos ht]
    simp only [List.range_succ, List.range_zero, List.nil_append, List.cons_append, List.foldr_cons, List.foldr_nil,
      elem, Nat.add_zero]
    omega
  · rw [if_neg ht, if_neg ht]
    rfl

/-! ### The store -/

/-- What a store asks of its loop. -/
def storeForm : MForm := { dst := none, zero := false, record := false, peer := false, restart := false, group := 1 }

/-- A loop that writes no register and raises no flag: VSTART is cleared. -/
theorem loopCommitted_none {m : MForm} (hd : m.dst = none) (hr : m.record = false) (hp : m.peer = false) (n vs : Nat)
    (active : Nat → Bool) (k l : Core) : loopCommitted m n (loopDone m n active (fun _ => .done) l) vs k = k.setCsr 0x003 0 := by
  have hflags : (loopDone m n active (fun _ => .done) l).flags = 0 := by
    refine (loopAdd_flags _ _ _ (fun _ _ _ _ h => MemOut.noConfusion h) _ _).trans ?_
    split <;> rfl
  simp only [loopCommitted, memCommit, hd, hr, hp, hflags, orFlags_zero, Bool.false_eq_true, if_false]

/-- A store whose elements all complete: its loop and the acquire. -/
theorem vstore_chain {Inv : Nat → State → Prop} (word : Word) (h : Accesses s f how) (hspace : s.self.space ≤ 1) (h0 : Inv s.self.vstart s)
    (hstep : ∀ j u, live s.self f.msk j → Inv j u → ∃ w, storeElem s f how j u = .ok .done w ∧ Inv (j + 1) w)
    (hskip : ∀ j u, s.self.activeBit f.msk j = false → Inv j u → Inv (j + 1) u) :
    ∃ t, Inv (s.self.vstart + (s.self.vrows * s.self.vcols - s.self.vstart)) t ∧
      vstore word f (readForm f how) (formIdx f how) (how == .indexed) s = .ok ()
        ((t.modSelf fun k => (k.setCsr 0x003 0).repage none).orderAfter f.ord.toNat s.self.scope) := by
  have hissue := h.issue word (srcs := vmSrcs f ++ formIdx f how) (dsts := []) (fun _ hr => List.mem_append.mp hr)
    fun d hd => absurd hd List.not_mem_nil
  have h3 : s.self.space ≠ 3 := by omega
  have h2 : (s.self.space == 2) = false := by
    rw [beq_eq_false_iff_ne]
    omega
  obtain ⟨t, ht, hinv⟩ := memElements_chain (m := storeForm) (n := s.self.vrows * s.self.vcols) (active := s.self.activeBit f.msk)
    (out := fun _ => .done) (body := storeElem s f how) (page := fun s' i => (plainMem s f 1).page (storeAt s.self f how i).1 s')
    h0 (fun j u h1 h2 h3 hu => hstep j u ⟨h1, h2, h3⟩ hu) hskip
  simp only [loopCommitted_none (m := storeForm) rfl rfl rfl] at ht
  refine ⟨t, hinv, ?_⟩
  have hat : ∀ i, (formOf s.self f how).disp f.value.toInt (Claim.bytesOf f.et) s.self.vcols i (ETwidth f.et == 4) = storeAt s.self f how i :=
    fun i => disp_eq s.self f how _ i _
  have h3' : (s.self.space != 3) = true := bne_iff_ne.mpr h3
  have hbytes : etBytes f.et = Claim.bytesOf f.et := rfl
  simp only [vstore, X.bind_apply, readX_ok h.base, h.form, hissue, if_neg h.shape, selfCtx, X.get_apply, X.pure_apply, X.self_apply, h.before,
    if_neg h3, h3', Bool.and_true, hbytes, hat, h2, Bool.and_false, Bool.false_eq_true, if_false, vmElem_eq]
  exact ordAround_ok ht f.ord.toNat s.self.scope

end vstore

end Sys2Proof.Proofs
end

section
/-! What the elements of a store leave of their state, and what follows its loop (R142, R144, R147). -/

namespace Sys2Proof.Proofs
open Sys2Proof.Machine Sys2Proof.Claim

/-! ### The state of a store under way -/

/-- What the elements of a store change: scratchpad, CSRs (DRPL), lines of the L1 data cache, loads run ahead, memory. -/
structure Storing where
  scratch : Mem
  scratchPoison : List Nat
  csr : Vector Word 518
  l1d : List L1Line
  ahead : List Ahead
  ms : MemSys

def Storing.begin (s : State) : Storing :=
  { scratch := s.self.scratch, scratchPoison := s.self.scratchPoison, csr := s.self.csr, l1d := s.self.cache.l1d
    ahead := s.self.cache.ahead, ms := s.ms }

def Storing.core (x : Storing) (k : Core) : Core :=
  { k with scratch := x.scratch, scratchPoison := x.scratchPoison, csr := x.csr
           cache := { k.cache with l1d := x.l1d, ahead := x.ahead } }

def Storing.state (x : Storing) (s : State) : State := { s.modSelf x.core with ms := x.ms }

section storing
variable {s : State} {x : Storing}

theorem Storing.state_self : (x.state s).self = x.core s.self := State.modSelf_self s _

theorem Storing.begin_state (s : State) : (Storing.begin s).state s = s := by
  have hself : s.modSelf (Storing.begin s).core = s := State.modSelf_of_eq s rfl
  rw [Storing.state, hself]
  rfl

/-- A change of the own core. -/
theorem Storing.state_mod {y : Storing} {g : Core → Core} (hg : g (x.core s.self) = y.core s.self) (hms : y.ms = x.ms) :
    (x.state s).modCore s.cur g = y.state s := by
  have hown : (s.modSelf x.core).modSelf g = s.modSelf y.core :=
    (State.modSelf_modSelf s _ g).trans (State.modSelf_congr s (f := fun k => g (x.core k)) (g := y.core) hg)
  have := congrArg (fun t : State => ({ t with ms := x.ms } : State)) hown
  unfold Storing.state
  rw [hms]
  exact this

/-- DRPL alone of the CSRs has changed, and nothing where no load has run ahead (R144). -/
structure Storing.Quiet (x : Storing) (k : Core) : Prop where
  csrs : ∀ n, n ≠ 0x041 → (x.core k).csrAt n = k.csrAt n
  none : k.cache.ahead = [] → x.csr = k.csr ∧ x.ahead = []

theorem Storing.quiet_begin (s : State) : (Storing.begin s).Quiet s.self := ⟨fun _ _ => rfl, fun h => ⟨rfl, h⟩⟩

/-- The loads that bytes written squash. -/
def Storing.squash (x : Storing) (k : Core) (w : Store × Nat) (n : Nat) : Storing :=
  { x with csr := ((x.core k).squash w n).csr, ahead := ((x.core k).squash w n).cache.ahead }

theorem Storing.squash_core (k : Core) (w : Store × Nat) (n : Nat) : (x.core k).squash w n = (x.squash k w n).core k := by
  unfold Storing.squash Core.squash
  dsimp only
  split <;> rfl

theorem Storing.Quiet.squash {k : Core} (h : x.Quiet k) (w : Store × Nat) (n : Nat) : (x.squash k w n).Quiet k where
  csrs m hm := by
    rw [← Storing.squash_core, ← h.csrs m hm]
    unfold Core.squash
    dsimp only
    split
    · rfl
    · exact Core.setCsr_csrAt_other _ _ (Ne.symm hm)
  none hk := by
    obtain ⟨hcsr, hahead⟩ := h.none hk
    have hnone : (x.core k).squash w n = x.core k := by
      have hempty : (x.core k).cache.ahead = [] := hahead
      unfold Core.squash
      simp only [hempty, List.filter_nil, List.length_nil, if_true]
    exact ⟨(congrArg Core.csr hnone).trans hcsr, (congrArg (fun k => k.cache.ahead) hnone).trans hahead⟩

theorem squashAhead_storing (w : Store × Nat) (n : Nat) :
    squashAhead (s.ctxOf s.cur) w n (x.state s) = .ok () ((x.squash s.self w n).state s) :=
  congrArg (EStateM.Result.ok ()) (Storing.state_mod (Storing.squash_core s.self w n) rfl)

end storing

/-! ### After the loop -/

section after
variable {s : State} {x : Storing}

/-- A form once it has completed, its loop done: what it writes to its core, the acquire, and the next instruction. -/
def formLeaves (u : State) (g : Core → Core) (ord scope n : Nat) : State :=
  ((u.modSelf fun k => (g k).repage none).orderAfter ord scope).modSelf fun k => k.retire n

/-- The core and the memory system of a form that has completed. -/
theorem formLeaves_self {g : Core → Core} (hg : ∀ k c, g (withCache c k) = withCache c (g k)) (ord scope n : Nat) :
    (∃ c, (formLeaves (x.state s) g ord scope n).self = withCache c ((g (x.core s.self)).retire n)) ∧
      ∃ r p, (formLeaves (x.state s) g ord scope n).ms = withReplicas r p x.ms := by
  obtain ⟨hend, hms⟩ := formEnd (s := x.state s) (CachesOnly.refl _) hg ord scope
  have hretired := hend.mapSelf (g := fun k => k.retire n) fun k c => retire_withCache c k _
  rw [State.modSelf_modSelf] at hretired
  have hown : ((x.state s).modSelf fun k => (g k).retire n).self = (g (x.core s.self)).retire n := by
    rw [State.modSelf_self, Storing.state_self]
  exact ⟨⟨(formLeaves (x.state s) g ord scope n).self.cache, hretired.self.trans (congrArg (withCache _) hown)⟩, hms⟩

/-- The store once it has completed, its elements done. -/
def storeEnd (u : State) (ord scope n : Nat) : State := formLeaves u (fun k => k.setCsr 0x003 0) ord scope n

/-- The CSRs that a store may change (R35, R144). -/
def squashable (k : Core) : List Nat := if k.cache.ahead = [] then [0x003] else [0x003, 0x041]

/-- What a store leaves of its core once it has completed. -/
structure StoreLeaves (k l : Core) (n : Nat) : Prop where
  vstart : l.csrAt 0x003 = 0
  csrs : onlyCsrs k l (squashable k)
  vec : l.vec = k.vec
  x : l.x = k.x
  tiles : l.tiles = k.tiles
  pc : l.pc = (k.retire n).pc

theorem Storing.Quiet.core_csrs {k : Core} (h : x.Quiet k) : onlyCsrs k ((x.core k).setCsr 0x003 0) (squashable k) := by
  intro m hm _
  have h3 : 0x003 ≠ m := fun he => hm (by unfold squashable; split <;> simp [he])
  rw [Core.setCsr_csrAt_other _ _ h3]
  by_cases h41 : m = 0x041
  · subst h41
    have hahead : k.cache.ahead = [] := by
      by_contra hne
      exact hm (by simp [squashable, hne])
    rw [Core.csrAt, Core.csrAt, Storing.core, (h.none hahead).1]
  · exact h.csrs m h41

theorem Storing.Quiet.sameThread {k : Core} (h : x.Quiet k) : SameThread k (x.core k) := ⟨rfl, rfl, rfl, fun n hn => h.csrs n hn.2⟩

theorem storeEnd_leaves (hq : x.Quiet s.self) (ord scope n : Nat) :
    StoreLeaves s.self (storeEnd (x.state s) ord scope n).self n ∧ (storeEnd (x.state s) ord scope n).self.scratch = x.scratch ∧
      ∃ r p, (storeEnd (x.state s) ord scope n).ms = withReplicas r p x.ms := by
  obtain ⟨⟨c, hself⟩, hms⟩ := formLeaves_self (x := x) (s := s) (g := fun k => k.setCsr 0x003 0) (fun _ _ => rfl) ord scope n
  rw [← storeEnd] at hself hms
  have hvstart : ((x.core s.self).setCsr 0x003 0).csrAt 0x003 = 0 := Core.setCsr_csrAt_same _ _ (by decide)
  have hcsrs := onlyCsrs_retire hq.core_csrs n
  have hpc : (((x.core s.self).setCsr 0x003 0).retire n).pc = (s.self.retire n).pc := (hq.sameThread.setCsr 0 (by decide)).retire_pc n
  have hvec : ((x.core s.self).setCsr 0x003 0).vec = s.self.vec := Core.setCsr_vec ..
  have hx : ((x.core s.self).setCsr 0x003 0).x = s.self.x := Core.setCsr_x ..
  have htiles : ((x.core s.self).setCsr 0x003 0).tiles = s.self.tiles := Core.setCsr_tiles ..
  have hscratch : ((x.core s.self).setCsr 0x003 0).scratch = x.scratch := Core.setCsr_scratch ..
  generalize (x.core s.self).setCsr 0x003 0 = l at hself hvstart hcsrs hpc hvec hx htiles hscratch
  refine ⟨?_, ?_, hms⟩
  · rw [hself]
    exact ⟨(retire_vstart l n).trans hvstart, hcsrs, (Core.retire_vec l n).trans hvec, (Core.retire_x l n).trans hx,
      (Core.retire_tiles l n).trans htiles, hpc⟩
  · rw [hself]
    exact (Core.retire_scratch l n).trans hscratch

end after

end Sys2Proof.Proofs
end

section
/-! The loop of a store, element by element (R142, R260, R262). -/

namespace Sys2Proof.Proofs
open Sys2Proof.Machine Sys2Proof.Claim

section stores
variable {s : State} {f : VM} {how : Shape}

/-- The store whose displacements are of this shape. -/
def storeOf (f : VM) : Shape → Instr
  | .unit => .vstUnit f
  | .strided => .vstStrided f
  | .indexed => .vstx f

theorem exec_storeOf (s : State) (f : VM) (how : Shape) : exec (storeOf f how) s = finish (extSize f.ext)
    (vstore (Instr.word (storeOf f how)) f (readForm f how) (formIdx f how) (how == .indexed)) s := by
  cases how <;> rfl

/-- Half bytes of an element. -/
def halfBytes (t : ET) : Nat := if t = .wac then 24 else ETwidth t / 4

theorem halfBytes_eq (t : ET) : halfBytes t = if (ETwidth t == 4) = true then 1 else 2 * Claim.bytesOf t := by
  cases t <;> decide

theorem storeAddr_eq (s : State) (f : VM) (how : Shape) (j : Nat) :
    storeAddr s f how j = BitVec.ofInt 64 ((s.self.rd f.xa).toNat + (storeAt s.self f how j).1) := rfl

/-- A scatter skips an element where a later live one has its place. -/
theorem later_of_skips {i : Nat} (hi : live s.self f.msk i) (h : skips s.self f how i = true) : ∃ j, live s.self f.msk j ∧ i < j ∧
    storeAddr s f how j = storeAddr s f how i ∧ (storeAt s.self f how j).2 = (storeAt s.self f how i).2 := by
  obtain ⟨-, hover⟩ := Bool.and_eq_true_iff.mp h
  obtain ⟨j, hj, hplace⟩ := List.any_eq_true.mp hover
  simp only [Bool.and_eq_true, decide_eq_true_eq, beq_iff_eq, Prod.mk.injEq] at hplace
  obtain ⟨⟨hij, hactive⟩, haddr, hnib⟩ := hplace
  refine ⟨j, ⟨hi.1.trans hij.le, List.mem_range.mp hj, hactive⟩, hij, ?_, hnib⟩
  rw [storeAddr_eq, storeAddr_eq]
  refine BitVec.eq_of_toNat_eq ?_
  rw [BitVec.toNat_ofInt, BitVec.toNat_ofInt]
  unfold wrap at haddr
  omega

/-- A place of one part, written. -/
theorem placeWrite_one {c : Ctx} {p : Spot} {n nib addr v : Nat} {u w : State} {half : Bool}
    (h : spotWrite c p n (storeMask half n nib) (storeBits half n nib v) u = .ok () w) :
    Place.write ⟨[(p, n)], nib, addr⟩ c half v u = .ok () w := by
  cases half with
  | false =>
    rw [storeMask, storeBits, if_neg Bool.false_ne_true, if_neg Bool.false_ne_true] at h
    simp only [Place.write, List.foldlM_cons, List.foldlM_nil, X.bind_apply, Bool.false_eq_true, if_false, h, X.pure_apply]
  | true =>
    rw [storeMask, storeBits, if_pos rfl, if_pos rfl] at h
    simp only [Place.write, List.foldlM_cons, List.foldlM_nil, X.bind_apply, if_true, h, X.pure_apply]

/-- What the elements of a store do to the half bytes of the space that they are in. -/
structure StoreWrites (s : State) (f : VM) (how : Shape) (Good : Storing → Prop) (nibbles : Storing → Nat → Nat) (start : Nat → Nat) : Prop where
  begin : Good (Storing.begin s)
  place : ∀ i j, live s.self f.msk i → live s.self f.msk j → storeAddr s f how j = storeAddr s f how i →
    (storeAt s.self f how j).2 = (storeAt s.self f how i).2 → start j = start i
  write : ∀ j x, live s.self f.msk j → Good x → ∃ p y, (plainMem s f 1).place (s.ctxOf s.cur) (storeAt s.self f how j).1
      (storeAt s.self f how j).2 (s.self.repin j) (x.state s) = .ok p (x.state s) ∧
    p.write (s.ctxOf s.cur) (ETwidth f.et == 4) (held s.self f.et f.vd j) (x.state s) = .ok () (y.state s) ∧ Good y ∧
    (x.Quiet s.self → y.Quiet s.self) ∧ ∀ q, nibbles y q = if start j ≤ q ∧ q < start j + halfBytes f.et then
      fld (held s.self f.et f.vd j) (4 * (q - start j)) 4 else nibbles x q

/-- Where a store stands before element i. -/
structure StoringTo (s : State) (f : VM) (how : Shape) (Good : Storing → Prop) (nibbles : Storing → Nat → Nat) (start : Nat → Nat)
    (i : Nat) (x : Storing) : Prop where
  good : Good x
  quiet : x.Quiet s.self
  writes : lastWrites (fun j => (live s.self f.msk j ∧ j < i) ∧ ¬skips s.self f how j = true) start (halfBytes f.et)
    (held s.self f.et f.vd) (nibbles (Storing.begin s)) (nibbles x)

variable {Good : Storing → Prop} {nibbles : Storing → Nat → Nat} {start : Nat → Nat} {i : Nat} {x : Storing}

/-- An element that is not written. -/
theorem StoringTo.pass (h : StoringTo s f how Good nibbles start i x) (hi : ¬live s.self f.msk i ∨ skips s.self f how i = true) :
    StoringTo s f how Good nibbles start (i + 1) x where
  good := h.good
  quiet := h.quiet
  writes := lastWrites_congr (fun j => by
    refine ⟨fun ⟨⟨hl, hj⟩, hs⟩ => ⟨⟨hl, by omega⟩, hs⟩, fun ⟨⟨hl, hj⟩, hs⟩ => ⟨⟨hl, ?_⟩, hs⟩⟩
    rcases Nat.lt_or_eq_of_le (Nat.le_of_lt_succ hj) with hlt | rfl
    · exact hlt
    · exact absurd hi (by tauto)) h.writes

/-- Element i of a store completes. -/
theorem StoringTo.elem (hclean : s.self.vec.poison = []) (W : StoreWrites s f how Good nibbles start)
    (h : StoringTo s f how Good nibbles start i x) (hl : live s.self f.msk i) :
    ∃ y, storeElem s f how i (x.state s) = .ok .done (y.state s) ∧ StoringTo s f how Good nibbles start (i + 1) y := by
  obtain ⟨p, y, hplace, hwrite, hgood, hquiet, hnibbles⟩ := W.write i x hl h.good
  have hclean' : (x.state s).self.vec.poison = [] := by
    rw [Storing.state_self]
    exact hclean
  by_cases hs : skips s.self f how i = true
  · refine ⟨x, ?_, h.pass (.inr hs)⟩
    simp only [storeElem, X.bind_apply, cleanSources_ok hclean', hplace, hs, Bool.not_true, Bool.false_eq_true, if_false, X.pure_apply]
  · refine ⟨y, ?_, hgood, hquiet h.quiet, lastWrites_congr (fun j => ?_) (lastWrites_step h.writes (fun j hj => hj.1.2) hnibbles)⟩
    · simp only [storeElem, X.bind_apply, cleanSources_ok hclean', hplace, Bool.eq_false_iff.mpr hs, Bool.not_false, if_true, hwrite,
        X.pure_apply]
    · constructor
      · rintro (⟨⟨hj, hlt⟩, hn⟩ | rfl)
        · exact ⟨⟨hj, by omega⟩, hn⟩
        · exact ⟨⟨hl, by omega⟩, hs⟩
      · rintro ⟨⟨hj, hlt⟩, hn⟩
        rcases Nat.lt_or_eq_of_le (Nat.le_of_lt_succ hlt) with hlt | rfl
        · exact .inl ⟨⟨hj, hlt⟩, hn⟩
        · exact .inr rfl

/-- A store all of whose elements have their places completes, and the last writes remain. -/
theorem StoreWrites.completes (W : StoreWrites s f how Good nibbles start) (h : Accesses s f how) (hspace : s.self.space ≤ 1) :
    ∃ x : Storing, exec (storeOf f how) s = .next (storeEnd (x.state s) f.ord.toNat s.self.scope (extSize f.ext)) ∧ x.Quiet s.self ∧ Good x ∧
      lastWrites (live s.self f.msk) start (halfBytes f.et) (held s.self f.et f.vd) (nibbles (Storing.begin s)) (nibbles x) := by
  obtain ⟨t, ⟨x, rfl, hx⟩, hrun⟩ := vstore_chain (Inv := fun i u => ∃ x : Storing, u = x.state s ∧ StoringTo s f how Good nibbles start i x)
    (Instr.word (storeOf f how)) h hspace
    ⟨_, (Storing.begin_state s).symm, W.begin, Storing.quiet_begin s,
      lastWrites_none (fun j hj => absurd hj.1.2 (Nat.not_lt.mpr hj.1.1.1)) fun _ => rfl⟩
    (fun j u hl ⟨x, hu, hx⟩ => by
      subst hu
      obtain ⟨y, hy, hy'⟩ := hx.elem h.clean W hl
      exact ⟨_, hy, y, rfl, hy'⟩)
    (fun j u ha ⟨x, hu, hx⟩ => ⟨x, hu, hx.pass (.inl fun hl => by
      have : s.self.activeBit f.msk j = true := hl.2.2
      rw [ha] at this
      exact Bool.false_ne_true this)⟩)
  refine ⟨x, (exec_storeOf s f how).trans (finish_ok hrun), hx.quiet, hx.good, ?_⟩
  refine lastWrites_skipped (skip := fun j => skips s.self f how j = true) (lastWrites_congr (fun j => ?_) hx.writes) fun j hj hs => ?_
  · refine ⟨fun ⟨⟨hl, _⟩, hs⟩ => ⟨hl, hs⟩, fun ⟨hl, hs⟩ => ⟨⟨hl, ?_⟩, hs⟩⟩
    have := hl.1
    have := hl.2.1
    omega
  · obtain ⟨m, hm, hjm, haddr, hnib⟩ := later_of_skips hj hs
    exact ⟨m, hm, hjm, W.place j m hj hm haddr hnib⟩

end stores

end Sys2Proof.Proofs
end

section
/-! Vector stores in the scratchpad (R258, R260). -/

namespace Sys2Proof.Proofs
open Sys2Proof.Machine Sys2Proof.Claim

section scratch
variable {s : State} {f : VM} {how : Shape} {x : Storing}

/-- R18, R88, R91: an access to the scratchpad inside a READY tile that no reader holds. -/
theorem resolveS_open {u : State} {c : Ctx} {a n i kind : Nat} (hlt : a + n ≤ 2 ^ 23) (htile : (u.core c.core).tileAt c.tenant a n = some i)
    (hready : ((u.core c.core).tile i).st = .ready) (hreaders : ((u.core c.core).tile i).readers = 0) :
    resolveS c a n kind u = .ok (.scratch c.core a i) u := by
  simp only [resolveS, X.bind_apply, decide_eq_true hlt, X.require_true, X.get_apply, htile, tileLocal, hready, hreaders,
    bne_self_eq_false, Bool.and_false, Bool.false_eq_true, if_false]
  rfl

/-- Bytes of the scratchpad stored under a mask, the loads of them that ran ahead squashed (R142, R143). -/
def Storing.scratchWrite (x : Storing) (s : State) (a n bm v : Nat) : Storing :=
  { x.squash s.self (.scratch s.cur, a) n with
    scratch := x.scratch.write a n (merged n bm v (x.scratch.read a n))
    scratchPoison := x.scratchPoison.filter fun g => !(a ≤ g * 8 && g * 8 + 8 ≤ a + n) }

theorem spotWrite_scratch (a n t bm v : Nat) : spotWrite (s.ctxOf s.cur) (.scratch s.cur a t) n bm v (x.state s) =
    .ok () ((x.scratchWrite s a n bm v).state s) := by
  have hsquash : squashAhead (s.ctxOf s.cur) ((Spot.scratch s.cur a t).held (s.ctxOf s.cur)) n (x.state s) =
      .ok () ((x.squash s.self (.scratch s.cur, a) n).state s) := squashAhead_storing _ n
  simp only [spotWrite, X.bind_apply, hsquash, X.modify_apply]
  exact congrArg (EStateM.Result.ok ()) (Storing.state_mod rfl rfl)

/-- The half bytes of a scratchpad. -/
def scratchHalf (m : Mem) (q : Nat) : Nat := fld (m.read (q / 2) 1) (4 * (q % 2)) 4

theorem write_byte {m : Mem} {a n v j : Nat} (hv : v < 2 ^ (8 * n)) (hj : j < n) : (m.write a n v).read (a + j) 1 = fld v (8 * j) 8 := by
  rw [read_part _ (show j + 1 ≤ n from hj), Mem.write_read, show (256 : Nat) = 2 ^ 8 from rfl, ← Nat.pow_mul, Nat.mod_eq_of_lt hv]

/-- A nibble of an element, or its whole bytes. -/
theorem storeAt_nib (k : Core) (f : VM) (how : Shape) (j : Nat) :
    (storeAt k f how j).2 < 2 ∧ ((ETwidth f.et == 4) = false → (storeAt k f how j).2 = 0) := by
  unfold storeAt offset
  dsimp only
  split
  next h => exact ⟨Nat.mod_lt _ (by decide), fun h' => absurd (h.symm.trans h') (by decide)⟩
  next => exact ⟨Nat.two_pos, fun _ => rfl⟩

theorem storeMask_lt {half : Bool} {n nib : Nat} (hhalf : half = true → n = 1) (hnib : nib < 2) : storeMask half n nib < 2 ^ (8 * n) := by
  cases half with
  | false =>
    rw [storeMask, if_neg Bool.false_ne_true, allBits]
    exact Nat.sub_lt (Nat.two_pow_pos _) Nat.one_pos
  | true =>
    obtain rfl := hhalf rfl
    rw [storeMask, if_pos rfl]
    interval_cases nib <;> decide

/-- The half bytes of the scratchpad after an element is stored. -/
theorem scratchHalf_write (k : Core) (m : Mem) (j a v q : Nat) :
    scratchHalf (m.write a (Claim.bytesOf f.et) (merged (Claim.bytesOf f.et) (storeMask (ETwidth f.et == 4) (Claim.bytesOf f.et)
      (storeAt k f how j).2) (storeBits (ETwidth f.et == 4) (Claim.bytesOf f.et) (storeAt k f how j).2 v) (m.read a (Claim.bytesOf f.et)))) q =
    if 2 * a + (storeAt k f how j).2 ≤ q ∧ q < 2 * a + (storeAt k f how j).2 + halfBytes f.et then
      fld v (4 * (q - (2 * a + (storeAt k f how j).2))) 4 else scratchHalf m q := by
  obtain ⟨hnib, hwhole⟩ := storeAt_nib k f how j
  have hlt := merged_lt (v := storeBits (ETwidth f.et == 4) (Claim.bytesOf f.et) (storeAt k f how j).2 v)
    (read_lt m a (Claim.bytesOf f.et)) (storeMask_lt (half_iff f.et) hnib)
  have := nibbles_stored (B := fun b => m.read b 1) (v := v) (a := a) (half_iff f.et) hnib hwhole
    (fun j hj => (read_part m (show j + 1 ≤ _ from hj)).symm) (fun j hj => write_byte hlt hj)
    (fun b hb => Mem.write_read_other m a _ _ b 1 (by omega)) q
  rw [halfBytes_eq]
  exact this

/-- Stores in the scratchpad: each live element's bits stand at its place. -/
theorem scratch_writes (hspace : s.self.space = 1)
    (hopen : ∀ j, live s.self f.msk j → scratchOpen s (storeAddr s f how j).toNat (Claim.bytesOf f.et) (alignOf f.et)) :
    StoreWrites s f how (fun x => x.ms = s.ms) (fun x => scratchHalf x.scratch)
      (fun j => 2 * (storeAddr s f how j).toNat + (storeAt s.self f how j).2) where
  begin := rfl
  place i j _ _ haddr hnib := by
    rw [haddr, hnib]
  write j x hl hms := by
    obtain ⟨halign, hlt, i, htile, hready, hreaders⟩ := hopen j hl
    have hself : (x.state s).core s.cur = x.core s.self := Storing.state_self
    have hres : resolveS (s.ctxOf s.cur) (storeAddr s f how j).toNat (Claim.bytesOf f.et) 1 (x.state s) =
        .ok (.scratch s.cur (storeAddr s f how j).toNat i) (x.state s) :=
      resolveS_open (u := x.state s) (c := s.ctxOf s.cur) hlt (hself ▸ htile) (hself ▸ hready) (hself ▸ hreaders)
    refine ⟨_, _, place_scratch (m := plainMem s f 1) hspace rfl ((align_eq (m := plainMem s f 1) (t := f.et) rfl rfl rfl).symm ▸ halign) hres,
      placeWrite_one (spotWrite_scratch _ _ _ _ _), hms, fun hq => ?_, scratchHalf_write s.self x.scratch j _ _⟩
    obtain ⟨hcsrs, hnone⟩ := hq.squash (.scratch s.cur, (storeAddr s f how j).toNat) (Claim.bytesOf f.et)
    exact ⟨hcsrs, hnone⟩

end scratch

end Sys2Proof.Proofs
end

section
/-! Bytes stored by a thread in GLOBAL, at memory or at the lines of their homes (R99, R115, R142). -/

namespace Sys2Proof.Proofs
open Sys2Proof.Machine Sys2Proof.Claim

/-! ### Memory without lines that the host caches (R400) -/

/-- The host caches no line of the bytes. -/
def hdmFree (ms : MemSys) (a n : Nat) : Prop := ∀ l ∈ ms.hdm, l < lineOf a ∨ lineOf (a + n - 1) < l

section free
variable {ms : MemSys} {a n : Nat}

theorem snoopOut_free (h : hdmFree ms a n) : ms.snoopOut a n = ms := by
  have hout : (ms.hdm.filter fun l => lineOf a ≤ l && l ≤ lineOf (a + n - 1)) = [] := by
    refine List.filter_eq_nil_iff.mpr fun l hl => ?_
    have := h l hl
    simp only [Bool.and_eq_true, decide_eq_true_eq]
    omega
  unfold MemSys.snoopOut
  simp only [hout, List.isEmpty_nil, if_true]

theorem portWrite_free (hc : ms.chains = []) (ha : a < 2 ^ 42) (h : hdmFree ms a n) (v : Nat) :
    ms.portWrite a n v = { (ms.cleanse a n).fire a n with mem := ms.mem.write a n v } := by
  rw [portWrite_device n v hc ha]
  exact snoopOut_free h

theorem storeLine_free {h : HomeLine} (hf : hdmFree ms a n) (off v : Nat) :
    ms.storeLine h off n v a = (ms.putHome (HomeLine.stored h off n v)).fire a n :=
  snoopOut_free (ms := (ms.putHome (HomeLine.stored h off n v)).fire a n) hf

/-- What a byte of memory reads as depends on the home lines and, where none holds it, on memory itself. -/
theorem msByte_congr {m : MemSys} {b : Nat} (hc : ms.chains = []) (hc' : m.chains = []) (hh : m.homes = ms.homes)
    (hrd : ms.homeAt b none = none → m.rd b 1 = ms.rd b 1) : msByte m b = msByte ms b := by
  have hat : m.homeAt b none = ms.homeAt b none := by rw [MemSys.homeAt, MemSys.homeAt, hh]
  cases h : ms.homeAt b none with
  | some g => rw [msByte_home h, msByte_home (hat.trans h)]
  | none => rw [msByte_none h, msByte_none (hat.trans h), settle_of_chains hc, settle_of_chains hc', hrd h]

/-- Bytes written at the port, none of them in a home line. -/
theorem msByte_portWrite (hc : ms.chains = []) (hl : noLine ms a n) (hf : hdmFree ms a n) (ha : a + n ≤ 2 ^ 42) {v : Nat}
    (hv : v < 2 ^ (8 * n)) (hn : 0 < n) : (∀ j < n, msByte (ms.portWrite a n v) (a + j) = fld v (8 * j) 8) ∧
      ∀ b, b < a ∨ a + n ≤ b → msByte (ms.portWrite a n v) b = msByte ms b := by
  rw [portWrite_free hc (by omega) hf v]
  constructor
  · intro j hj
    have hl' : noLine ({ (ms.cleanse a n).fire a n with mem := ms.mem.write a n v } : MemSys) (a + j) 1 := by
      intro g hg t l hk
      have := hl g hg t l hk
      unfold lineOf at this ⊢
      omega
    refine (msByte_noLine (ms := { (ms.cleanse a n).fire a n with mem := ms.mem.write a n v }) hc hl' (by omega)).trans ?_
    rw [← read_byte]
    exact write_byte hv hj
  · intro b hb
    refine msByte_congr (m := { (ms.cleanse a n).fire a n with mem := ms.mem.write a n v }) hc hc rfl fun _ => ?_
    unfold MemSys.rd
    split
    · rfl
    · split
      · exact Mem.write_read_other _ _ _ _ _ _ (by omega)
      · rfl

/-- The bytes of a line at its home, no other home line holding them. -/
theorem msByte_line {t : Option (BitVec 6)} {g : HomeLine} (hh : ms.home (.addr t (lineOf a)) = some g)
    (honly : ∀ f ∈ ms.homes, ∀ u, f.key = .addr u (lineOf a) → u = t) {b : Nat} (hb : lineOf b = lineOf a) :
    msByte ms b = lineRead g.data (b % 256) 1 := by
  rw [← hb] at hh honly
  exact msByte_home (homeAt_of_home hh honly)

/-- Bytes written in a line at its home. -/
theorem msByte_stored {t : Option (BitVec 6)} {g : HomeLine} (hc : ms.chains = []) (hh : ms.home (.addr t (lineOf a)) = some g)
    (honly : ∀ f ∈ ms.homes, ∀ u, f.key = .addr u (lineOf a) → u = t) (hfit : a % 256 + n ≤ 256) (w b : Nat) :
    msByte (((ms.putHome g).putHome (HomeLine.stored g (a % 256) n w)).fire a n) b =
      if a ≤ b ∧ b < a + n then fld w (8 * (b - a)) 8 else msByte ms b := by
  have honly' : ∀ f ∈ (ms.putHome g).homes, ∀ u, f.key = .addr u (lineOf a) → u = t := by
    intro f hf u hu
    rcases List.mem_cons.mp hf with rfl | hf
    · exact honly f (List.mem_of_find?_eq_some hh) u hu
    · exact honly f (List.mem_of_mem_filter hf) u hu
  have hkey : (HomeLine.stored g (a % 256) n w).key = .addr t (lineOf a) := show g.key = _ from home_key hh
  refine (msByte_congr (ms := (ms.putHome g).putHome (HomeLine.stored g (a % 256) n w))
    (m := ((ms.putHome g).putHome (HomeLine.stored g (a % 256) n w)).fire a n) hc hc rfl fun _ => rfl).trans
    ((msByte_putHome (ms := ms.putHome g) hc hkey honly' b).trans ?_)
  by_cases hb : lineOf b = lineOf a
  · rw [if_pos hb, msByte_line hh honly hb]
    refine (lineRead_lineWrite _ _ _ _ (Nat.mod_lt _ (by decide))).trans ?_
    have hoff : a % 256 ≤ b % 256 ∧ b % 256 < a % 256 + n ↔ a ≤ b ∧ b < a + n := by
      unfold lineOf at hb
      omega
    by_cases hin : a ≤ b ∧ b < a + n
    · rw [if_pos (hoff.mpr hin), if_pos hin]
      congr 1
      unfold lineOf at hb
      omega
    · rw [if_neg (fun h => hin (hoff.mp h)), if_neg hin]
  · rw [if_neg hb, msByte_putHome_found hc hh honly, if_neg]
    unfold lineOf at hb
    omega

end free

/-! ### Stores of a thread (R99, R118) -/

section plainWrite
variable {s : State} {c : Ctx} {h : Hit} {n bm v : Nat}

/-- A store that is not cached: at the port, and the core's older copies go. -/
theorem plainWrite_uncached (hm : mmioOf h.pa = none) (hr : h.ga < 2 ^ 42) (hf : hdmFree s.ms h.ga n) (hb : s.ms.bypass h = true)
    (hc : s.ms.chains = []) (hl : noLine s.ms h.ga n) : plainWrite c h n bm v s =
      .ok () (({ s with ms := s.ms.portWrite h.ga n (merged n bm v (s.ms.mem.read h.ga n)) } : State).modCore c.core
        fun k => k.l1DropAddr h.ga n) := by
  simp only [plainWrite, X.bind_apply, X.get_apply, hm, notRemote hr, Bool.false_eq_true, if_false, bisnpCheck_atRest hf, hb, if_true,
    recall_atRest hc hl, rd_device hr, X.set_apply]
  rfl

/-- A store to a line resident at its home and alone in its data entry. -/
theorem plainWrite_line {g : HomeLine} (hm : mmioOf h.pa = none) (hr : h.ga < 2 ^ 42) (hf : hdmFree s.ms h.ga n) (hb : s.ms.bypass h = false)
    (hh : s.ms.home (h.key c) = some g) (hp : (s.ms.putHome g).paired g = false) : plainWrite c h n bm v s =
      .ok () (({ s with ms := (s.ms.putHome g).storeLine g (h.ga % 256) n (merged n bm v (lineRead g.data (h.ga % 256) n)) h.ga } :
        State).modCore c.core fun k => (k.l1DropAlias (h.key c)).l1Store (h.key c) (h.ga % 256) n
          (merged n bm v (lineRead g.data (h.ga % 256) n))) := by
  have hnothost : ¬hostBase ≤ h.ga := by unfold hostBase; omega
  simp only [plainWrite, X.bind_apply, X.get_apply, hm, notRemote hr, Bool.false_eq_true, if_false, bisnpCheck_atRest hf, hb, fillLine, hh,
    X.modify_apply, X.pure_apply]
  rw [settleEntry_alone (by exact hp)]
  simp only [hnothost, if_false]
  rfl

end plainWrite

/-! ### A store in GLOBAL under way -/

/-- Addends, lines that the host caches, homes and the scratchpad are as before the store began; every home line keeps its place. -/
structure StoredGlobal (s : State) (x : Storing) : Prop where
  scratch : x.scratch = s.self.scratch
  chains : x.ms.chains = s.ms.chains
  hdm : x.ms.hdm = s.ms.hdm
  keys : ∀ g ∈ x.ms.homes, ∃ h ∈ s.ms.homes, h.key = g.key
  places : SamePlaces s.ms x.ms

section global
variable {s : State} {x : Storing} {a : Word} {n pa : Nat} {e : TlbEntry}

theorem StoredGlobal.begin (s : State) : StoredGlobal s (Storing.begin s) :=
  ⟨rfl, rfl, rfl, fun g hg => ⟨g, hg, rfl⟩, SamePlaces.refl _⟩

theorem StoredGlobal.squash (G : StoredGlobal s x) (w : Store × Nat) (n : Nat) : StoredGlobal s (x.squash s.self w n) :=
  ⟨G.scratch, G.chains, G.hdm, G.keys, G.places⟩

theorem StoredGlobal.atRest (G : StoredGlobal s x) {al : Option LineKey} (h : atRest s pa n al) :
    x.ms.chains = [] ∧ hdmFree x.ms pa n ∧
      ∀ g ∈ x.ms.homes, ∀ t l, g.key = .addr t l → lineOf pa ≤ l → l ≤ lineOf (pa + n - 1) → some g.key = al := by
  obtain ⟨hc, hhdm, hhomes⟩ := h
  refine ⟨G.chains.trans hc, fun l hl => hhdm l (G.hdm ▸ hl), fun g hg t l hk h1 h2 => ?_⟩
  obtain ⟨h, hh, hkey⟩ := G.keys g hg
  rw [← hkey]
  exact hhomes h hh t l (hkey.trans hk) h1 h2

/-- Bytes written at the port. -/
theorem StoredGlobal.port (G : StoredGlobal s x) (hc : x.ms.chains = []) (ha : pa < 2 ^ 42) (hf : hdmFree x.ms pa n) (v : Nat)
    (l : List L1Line) : StoredGlobal s { x with l1d := l, ms := x.ms.portWrite pa n v } := by
  rw [portWrite_free hc ha hf v]
  exact ⟨G.scratch, G.chains, G.hdm, G.keys, G.places.trans ⟨rfl, fun h => ⟨_, h, rfl, rfl⟩, fun _ _ _ => le_refl _⟩⟩

/-- Bytes of a home line written. -/
theorem StoredGlobal.line (G : StoredGlobal s x) {key : LineKey} {h g : HomeLine} (hh : x.ms.home key = some h) (hk : g.key = h.key)
    (hb : g.bank = h.bank) (hs : g.slot = h.slot) (l : List L1Line) (n : Nat) :
    StoredGlobal s { x with l1d := l, ms := ((x.ms.putHome h).putHome g).fire pa n } where
  scratch := G.scratch
  chains := G.chains
  hdm := G.hdm
  keys g' hg' := by
    rcases List.mem_cons.mp hg' with rfl | hg'
    · obtain ⟨f, hf, hkey⟩ := G.keys h (List.mem_of_find?_eq_some hh)
      exact ⟨f, hf, hkey.trans hk.symm⟩
    · rcases List.mem_cons.mp (List.mem_of_mem_filter hg') with rfl | hg'
      · exact G.keys g' (List.mem_of_find?_eq_some hh)
      · exact G.keys g' (List.mem_of_mem_filter hg')
  places := G.places.trans (((SamePlaces.putHome hh rfl rfl rfl).trans (SamePlaces.putHome (home_putHome hh) hk hb hs)).trans ⟨rfl, fun h => ⟨_, h, rfl, rfl⟩, fun _ _ _ => le_refl _⟩)

/-- An access that the L1 TLB serves is served as before. -/
theorem mapped_storing {q : Ask} (hm : mapped s a q e) : mappedFor (x.state s) (s.ctxOf s.cur) a q e := by
  have hcore : (x.state s).core (s.ctxOf s.cur).core = x.core s.self := Storing.state_self
  unfold mapped mappedFor at hm
  unfold mappedFor
  rw [hcore]
  exact hm

/-- Bytes of a home line written, and those of its copy in the L1 data cache. -/
def Storing.lineStored (y : Storing) (s : State) (key : LineKey) (g : HomeLine) (a n w : Nat) : Storing :=
  { y with l1d := (((y.core s.self).l1DropAlias key).l1Store key (a % 256) n w).cache.l1d
           ms := ((y.ms.putHome g).putHome (HomeLine.stored g (a % 256) n w)).fire a n }

theorem lineStored_state {key : LineKey} {g : HomeLine} {a n w : Nat} (hf : hdmFree x.ms a n) :
    (({ x.state s with ms := (x.ms.putHome g).storeLine g (a % 256) n w a } : State).modCore s.cur
      fun k => (k.l1DropAlias key).l1Store key (a % 256) n w) = (x.lineStored s key g a n w).state s := by
  have hfree : hdmFree (x.ms.putHome g) a n := hf
  rw [storeLine_free hfree]
  exact Storing.state_mod (x := { x with ms := ((x.ms.putHome g).putHome (HomeLine.stored g (a % 256) n w)).fire a n })
    (y := x.lineStored s key g a n w) rfl rfl

/-- A store in GLOBAL of bytes at rest: those under the mask are replaced, wherever their home is; every other byte stays. -/
theorem StoredGlobal.write (G : StoredGlobal s x) (hpa : s.leafAddr e.pte e.level a = pa) (hmmio : mmioOf pa = none) (hdev : pa < 2 ^ 42)
    (hplaced : placedFor s s.self.tk.tenant e pa n) (hfit : pa % 256 + n ≤ 256) (hn : 0 < n) {bm : Nat} (hbm : bm < 2 ^ (8 * n)) (v : Nat) :
    ∃ y old, spotWrite (s.ctxOf s.cur) (.plain (e.hit s a)) n bm v (x.state s) = .ok () (y.state s) ∧ StoredGlobal s y ∧
      (x.Quiet s.self → y.Quiet s.self) ∧ (∀ j < n, fld old (8 * j) 8 = msByte x.ms (pa + j)) ∧
      (∀ j < n, msByte y.ms (pa + j) = fld (merged n bm v old) (8 * j) 8) ∧ ∀ b, b < pa ∨ pa + n ≤ b → msByte y.ms b = msByte x.ms b := by
  have hga : (e.hit s a).ga = pa := hpa
  have hpa' : (e.hit s a).pa = pa := hpa
  have hsquash : squashAhead (s.ctxOf s.cur) ((Spot.plain (e.hit s a)).held (s.ctxOf s.cur)) n (x.state s) =
      .ok () ((x.squash s.self (.mem, (e.hit s a).ga) n).state s) := squashAhead_storing _ n
  have hquiet : x.Quiet s.self → (x.squash s.self (.mem, (e.hit s a).ga) n).Quiet s.self := fun h => h.squash _ _
  have G' := G.squash (.mem, (e.hit s a).ga) n
  have hms : (x.squash s.self (.mem, (e.hit s a).ga) n).ms = x.ms := rfl
  generalize x.squash s.self (.mem, (e.hit s a).ga) n = y at hsquash hquiet G' hms
  have hgated : y.ms.gated = s.ms.gated := G'.places.gated
  have hbypass : (y.state s).ms.bypass (e.hit s a) = uncached s e pa := by
    have hbank : y.ms.isGated (e.hit s a).bank = s.ms.isGated (e.hit s a).bank := by rw [MemSys.isGated, MemSys.isGated, hgated]
    rw [uncached, ← hpa]
    exact congrArg (pteNc e.pte || ·) hbank
  rw [← hms]
  have hspot : ∀ z, plainWrite (s.ctxOf s.cur) (e.hit s a) n bm v (y.state s) = .ok () z →
      spotWrite (s.ctxOf s.cur) (.plain (e.hit s a)) n bm v (x.state s) = .ok () z := fun z hz => by
    simp only [spotWrite, X.bind_apply, hsquash, hz]
  by_cases hun : uncached s e pa = true
  · rw [placedFor, if_pos hun] at hplaced
    obtain ⟨hc, hf, hhomes⟩ := G'.atRest hplaced
    have hl : noLine y.ms pa n := fun g hg t l hk => by
      by_contra hnot
      exact absurd (hhomes g hg t l hk (by omega) (by omega)) (Option.some_ne_none _)
    have hold := merged_lt (v := v) (read_lt y.ms.mem pa n) hbm
    obtain ⟨hin, hout⟩ := msByte_portWrite hc hl hf (by omega) hold hn
    refine ⟨{ y with l1d := ((y.core s.self).l1DropAddr pa n).cache.l1d
                     ms := y.ms.portWrite pa n (merged n bm v (y.ms.mem.read pa n)) }, y.ms.mem.read pa n, hspot _ ?_,
      G'.port hc hdev hf _ _, fun h => ⟨(hquiet h).csrs, (hquiet h).none⟩, fun j hj => ?_, hin, hout⟩
    · rw [plainWrite_uncached (hpa' ▸ hmmio) (hga ▸ hdev) (hga ▸ hf) (hbypass.trans hun) hc (hga ▸ hl), hga]
      exact congrArg (EStateM.Result.ok ()) (Storing.state_mod
        (x := { y with ms := y.ms.portWrite pa n (merged n bm v (y.ms.mem.read pa n)) }) rfl rfl)
    · have hl' : noLine y.ms (pa + j) 1 := by
        intro g hg t l hk
        have := hl g hg t l hk
        unfold lineOf at this ⊢
        omega
      rw [msByte_noLine hc hl' (by omega), ← read_byte]
      exact (read_part y.ms.mem (show j + 1 ≤ n from hj)).symm
  · rw [placedFor, if_neg hun] at hplaced
    obtain ⟨hrest, halone⟩ := hplaced
    obtain ⟨hc, hf, hhomes⟩ := G'.atRest hrest
    obtain ⟨g, hg, hp⟩ := G'.places.alone halone
    have hkey : (e.hit s a).key (s.ctxOf s.cur) = keyFor s.self.tk.tenant e pa := by
      rw [← hpa]
      rfl
    obtain ⟨tag, htag⟩ : ∃ tag, keyFor s.self.tk.tenant e pa = .addr tag (lineOf pa) := ⟨_, rfl⟩
    rw [htag] at hg hhomes hkey
    have honly : ∀ f ∈ y.ms.homes, ∀ u, f.key = .addr u (lineOf pa) → u = tag := fun f hf u hu => by
      have := hhomes f hf u _ hu le_rfl (Nat.div_le_div_right (by omega))
      rw [hu, Option.some.injEq] at this
      exact (LineKey.addr.inj this).1
    have hthere := home_putHome hg
    obtain ⟨g', hg', hp'⟩ := (SamePlaces.putHome hg (g := g) rfl rfl rfl).alone ⟨g, hg, hp⟩
    obtain rfl : g' = g := Option.some.inj (hg'.symm.trans hthere)
    have hbytes := msByte_stored hc hg honly hfit (merged n bm v (lineRead g'.data (pa % 256) n))
    refine ⟨y.lineStored s (.addr tag (lineOf pa)) g' pa n (merged n bm v (lineRead g'.data (pa % 256) n)), lineRead g'.data (pa % 256) n,
      hspot _ ?_, G'.line hg (g := HomeLine.stored g' (pa % 256) n _) rfl rfl rfl _ n, fun h => ⟨(hquiet h).csrs, (hquiet h).none⟩,
      fun j hj => ?_, fun j hj => ?_, fun b hb => ?_⟩
    · rw [plainWrite_line (hpa' ▸ hmmio) (hga ▸ hdev) (hga ▸ hf) (hbypass.trans (Bool.eq_false_iff.mpr hun)) (hkey ▸ hg) hp', hga, hkey]
      exact congrArg (EStateM.Result.ok ()) (lineStored_state (show hdmFree y.ms pa n from hf))
    · rw [msByte_line hg honly (by unfold lineOf; omega), lineRead, fld_fld (by omega), lineRead]
      congr 1
      omega
    · exact (hbytes _).trans (by rw [if_pos (by omega), Nat.add_sub_cancel_left])
    · exact (hbytes b).trans (if_neg (by omega))

end global

end Sys2Proof.Proofs
end

section
/-! Vector stores (R258 to R260, R142). -/

namespace Sys2Proof.Proofs
open Sys2Proof.Machine Sys2Proof.Claim

section global
variable {s : State} {f : VM} {how : Shape}

/-- The half bytes of memory. -/
def memoryHalf (ms : MemSys) (q : Nat) : Nat := fld (msByte ms (q / 2)) (4 * (q % 2)) 4

/-- One address is served by one entry. -/
theorem mapped_unique {a : Word} {q : Ask} {e e' : TlbEntry} (h : mapped s a q e) (h' : mapped s a q e') : e = e' := by
  obtain ⟨-, hfind, -⟩ := h
  obtain ⟨-, hfind', -⟩ := h'
  exact Option.some.inj (hfind.symm.trans hfind')

/-- The address of the bytes of element j of a store in GLOBAL. -/
def storePa (s : State) (f : VM) (how : Shape) (e : Nat → TlbEntry) (j : Nat) : Nat :=
  s.leafAddr (e j).pte (e j).level (storeAddr s f how j)

/-- Stores in GLOBAL: each live element's bits stand at its place. -/
theorem global_writes {e : Nat → TlbEntry} (hspace : s.self.space = 0) (ht : f.et ≠ .wac) (hpin : s.self.cache.pin = none)
    (hmap : ∀ j, live s.self f.msk j → (storeAddr s f how j).toNat % Claim.bytesOf f.et = 0 ∧
      mapped s (storeAddr s f how j) { kind := 1, n := Claim.bytesOf f.et } (e j) ∧
      homed s (e j) (storePa s f how e j) (Claim.bytesOf f.et)) :
    StoreWrites s f how (StoredGlobal s) (fun x => memoryHalf x.ms) (fun j => 2 * storePa s f how e j + (storeAt s.self f how j).2) where
  begin := StoredGlobal.begin s
  place i j hi hj haddr hnib := by
    obtain ⟨-, hmi, -⟩ := hmap i hi
    obtain ⟨-, hmj, -⟩ := hmap j hj
    rw [haddr] at hmj
    rw [storePa, storePa, haddr, mapped_unique hmj hmi, hnib]
  write j x hl G := by
    obtain ⟨halign, hm, hplaced, -⟩ := hmap j hl
    obtain ⟨hnib, hwhole⟩ := storeAt_nib s.self f how j
    have hplace := place_plain (m := plainMem s f 1) (nib := (storeAt s.self f how j).2) hspace (width_ne ht) (bytesOf_pos f.et) rfl
      (((align_eq (m := plainMem s f 1) (t := f.et) rfl rfl rfl).trans (alignOf_eq ht)).symm ▸ halign)
      (resolveG_served (mapped_storing (x := x) hm) rfl)
    rw [← repin_none hpin j] at hplace
    obtain ⟨-, -, -, -, -, -, -, hmmio, hdev, -⟩ := hm
    obtain ⟨y, old, hwrite, hgood, hquiet, hold, hin, hout⟩ := G.write rfl hmmio hdev hplaced (fits_line (bytesOf_dvd ht) halign (e j))
      (bytesOf_pos f.et) (storeMask_lt (half_iff f.et) hnib)
      (storeBits (ETwidth f.et == 4) (Claim.bytesOf f.et) (storeAt s.self f how j).2 (held s.self f.et f.vd j))
    refine ⟨_, y, hplace, placeWrite_one hwrite, hgood, hquiet, fun q => ?_⟩
    rw [halfBytes_eq]
    exact nibbles_stored (B := msByte x.ms) (B' := msByte y.ms) (half_iff f.et) hnib hwhole hold hin hout q

end global

/-- Unit, strided and indexed stores in SCRATCH and in GLOBAL. -/
theorem vectorStores : VectorStores := by
  intro f s e k n len nib addr pa val squashes stored
  have hstored : ∀ how, stored (storeOf f how) how := by
    intro how hacc
    have h := accesses_iff.mp hacc
    refine ⟨fun hspace hopen => ?_, fun hspace ht hpin hmap => ?_⟩
    · obtain ⟨x, hexec, hq, hms, hwrites⟩ := (scratch_writes hspace hopen).completes h (hspace.trans_le le_rfl)
      obtain ⟨L, hscratch, r, p, hend⟩ := storeEnd_leaves hq f.ord.toNat s.self.scope (extSize f.ext)
      refine ⟨_, hexec, L.vstart, L.csrs, L.vec, L.x, L.tiles, L.pc, fun _ => ?_, ?_⟩
      · rw [hend, hms]
        rfl
      · have hnew : scratchNibble (storeEnd (x.state s) f.ord.toNat s.self.scope (extSize f.ext)).self = scratchHalf x.scratch :=
          funext fun q => by rw [scratchNibble, hscratch, scratchHalf]
        rw [hnew]
        exact hwrites
    · obtain ⟨x, hexec, hq, hgood, hwrites⟩ := (global_writes hspace ht hpin hmap).completes h (hspace.trans_le (Nat.zero_le 1))
      obtain ⟨L, hscratch, r, p, hend⟩ := storeEnd_leaves hq f.ord.toNat s.self.scope (extSize f.ext)
      refine ⟨_, hexec, L.vstart, L.csrs, L.vec, L.x, L.tiles, hscratch.trans hgood.scratch, L.pc, ?_⟩
      have hnew : memoryNibble (storeEnd (x.state s) f.ord.toNat s.self.scope (extSize f.ext)) = memoryHalf x.ms :=
        funext fun q => by rw [memoryNibble, byteAt_eq, hend, msByte_withReplicas, memoryHalf]
      rw [hnew]
      exact hwrites
  exact ⟨hstored .unit, hstored .strided, hstored .indexed⟩

end Sys2Proof.Proofs
end

section
/-! Results of sums fit their types (R51, R53, R129). -/

namespace Sys2Proof.Proofs
open Sys2Proof.Machine Sys2Proof.Claim

/-! ### Roundings are encodings (R51, R53) -/

/-- A number rounded to b + 1 bits: at most one more than they hold. -/
theorem roundShift_le (rm : BitVec 2) (neg : Bool) {m b : Nat} {s : Int} (hs : (Nat.log2 m : Int) - b ≤ s) :
    (roundShift rm neg m s).1 ≤ 2 ^ (b + 1) := by
  have hlt : m < 2 ^ (Nat.log2 m + 1) := Nat.lt_log2_self
  by_cases h0 : s ≤ 0
  · rw [roundShift, if_pos h0]
    have hle : Nat.log2 m + 1 + (-s).toNat ≤ b + 1 := by omega
    calc m * 2 ^ (-s).toNat ≤ 2 ^ (Nat.log2 m + 1) * 2 ^ (-s).toNat := Nat.mul_le_mul_right _ hlt.le
      _ = 2 ^ (Nat.log2 m + 1 + (-s).toNat) := (Nat.pow_add ..).symm
      _ ≤ 2 ^ (b + 1) := Nat.pow_le_pow_right (by decide) hle
  · obtain ⟨n, rfl⟩ : ∃ n : Nat, s = n := ⟨s.toNat, by omega⟩
    have hquot : m / 2 ^ n < 2 ^ (b + 1) := by
      rw [Nat.div_lt_iff_lt_mul (Nat.two_pow_pos n), ← Nat.pow_add]
      exact hlt.trans_le (Nat.pow_le_pow_right (by decide) (by omega))
    rw [roundShift_eq (by omega)]
    dsimp only
    split <;> omega

/-- An encoding from its fields has the format's bits. -/
theorem pack_lt {F : FpFmt} {neg : Bool} {E G : Nat} (hE : E < 2 ^ F.ebits) (hG : G < 2 ^ F.fbits) : F.pack neg E G < 2 ^ F.width := by
  have hfields : E * 2 ^ F.fbits + G < 2 ^ (F.ebits + F.fbits) := by
    have := Nat.mul_le_mul_right (2 ^ F.fbits) (show E + 1 ≤ 2 ^ F.ebits from hE)
    rw [Nat.succ_mul] at this
    rw [Nat.pow_add]
    omega
  have hwidth : 2 ^ F.width = 2 * 2 ^ (F.ebits + F.fbits) := by
    rw [FpFmt.width, Nat.add_assoc, Nat.pow_add, Nat.pow_one]
  rw [FpFmt.pack, hwidth]
  split <;> omega

theorem inf_lt {F : FpFmt} (neg : Bool) : F.inf neg < 2 ^ F.width := pack_lt (Nat.sub_lt (Nat.two_pow_pos _) Nat.one_pos) (Nat.two_pow_pos _)

/-- An IEEE format as the spec lays its exponents out (R51). -/
structure IeeeFormat (F : FpFmt) : Prop where
  kind : F.kind = .ieee
  top : 2 ^ F.ebits = 2 * F.bias + 2
  frac : 1 ≤ F.fbits

namespace IeeeFormat
variable {F : FpFmt} (I : IeeeFormat F)
include I

theorem emaxField_eq : F.emaxField = 2 * F.bias := by
  rw [FpFmt.emaxField, if_pos I.kind, I.top]
  rfl

theorem max_lt (neg : Bool) : F.max neg < 2 ^ F.width := by
  have hsig : F.maxSig = 2 ^ (F.fbits + 1) - 1 := by rw [FpFmt.maxSig, if_neg (by rw [I.kind]; decide)]
  have htop := I.top
  refine pack_lt (by rw [I.emaxField_eq]; omega) ?_
  rw [hsig, Nat.pow_succ]
  have := Nat.two_pow_pos F.fbits
  omega

theorem nan_lt : F.nan < 2 ^ F.width := by
  have hfrac := I.frac
  rw [FpFmt.nan, I.kind]
  exact pack_lt (Nat.sub_lt (Nat.two_pow_pos _) Nat.one_pos) (Nat.pow_lt_pow_right (by decide) (by omega))

theorem overflow_lt (rm : BitVec 2) (satf neg : Bool) : F.overflow rm satf neg < 2 ^ F.width := by
  unfold FpFmt.overflow
  split
  · exact I.max_lt neg
  · split
    · exact inf_lt neg
    · split
      · exact I.max_lt neg
      · rw [I.kind]
        exact inf_lt neg

theorem round_lt (rm : BitVec 2) (satf neg : Bool) (m : Nat) (e : Int) : (F.round rm satf neg m e).1 < 2 ^ F.width := by
  unfold FpFmt.round
  by_cases hm : m = 0
  · rw [if_pos hm]
    exact pack_lt (Nat.two_pow_pos _) (Nat.two_pow_pos _)
  rw [if_neg hm]
  dsimp only
  have hsig := roundShift_le rm neg (m := m) (b := F.fbits) (s := (if (Nat.log2 m : Int) + e < 1 - F.bias then 1 - (F.bias : Int)
    else (Nat.log2 m : Int) + e) - F.fbits - e) (by split <;> omega)
  generalize hqe : ((if (Nat.log2 m : Int) + e < 1 - F.bias then 1 - (F.bias : Int) else (Nat.log2 m : Int) + e) - F.fbits) = qe at hsig ⊢
  generalize roundShift rm neg m (qe - e) = r at hsig ⊢
  have hsucc : 2 ^ (F.fbits + 1) = 2 * 2 ^ F.fbits := by rw [Nat.pow_succ, Nat.mul_comm]
  have hpos := Nat.two_pow_pos F.fbits
  have hsig' : (if r.1 = 2 ^ (F.fbits + 1) then 2 ^ F.fbits else r.1) < 2 * 2 ^ F.fbits := by
    split <;> omega
  generalize (if r.1 = 2 ^ (F.fbits + 1) then 2 ^ F.fbits else r.1) = sig at hsig' ⊢
  generalize (if r.1 = 2 ^ (F.fbits + 1) then qe + 1 else qe) = q
  have htop := I.top
  split
  · exact I.overflow_lt rm satf neg
  next hover =>
    have hq : q ≤ F.maxQuantum := by
      by_contra h
      exact hover (by simp [show F.maxQuantum < q by omega])
    rw [FpFmt.maxQuantum, I.emaxField_eq] at hq
    split
    next hsmall => exact pack_lt (Nat.two_pow_pos _) hsmall
    next => exact pack_lt (by omega) (by omega)

/-- A sum in a format is one of its encodings. -/
theorem add_lt (rm : BitVec 2) (a b : Nat) : (F.add rm a b).1 < 2 ^ F.width := by
  unfold FpFmt.add FpFmt.deliver
  split
  · exact I.nan_lt
  · exact inf_lt _
  · exact I.round_lt ..

end IeeeFormat

theorem ieeeFormat_of {t : ET} {F : FpFmt} (ht : 16 ≤ ETwidth t) (hF : ETfmt t = some F) : IeeeFormat F ∧ F.width = ETwidth t := by
  cases t with
  | f16 => cases hF; exact ⟨⟨rfl, by decide, by decide⟩, rfl⟩
  | bf16 => cases hF; exact ⟨⟨rfl, by decide, by decide⟩, rfl⟩
  | f32 => cases hF; exact ⟨⟨rfl, by decide, by decide⟩, rfl⟩
  | f64 => cases hF; exact ⟨⟨rfl, by decide, by decide⟩, rfl⟩
  | e4m3 => exact absurd ht (by decide)
  | e5m2 => exact absurd ht (by decide)
  | e3m2 => exact absurd ht (by decide)
  | e2m3 => exact absurd ht (by decide)
  | e2m1 => exact absurd ht (by decide)
  | _ => exact absurd hF (by simp [ETfmt])

/-- A sum of R129 has the width of its type. -/
theorem sum_lt {t : ET} (ht : 16 ≤ ETwidth t) (rm : BitVec 2) (a b : Nat) : Claim.sum t rm a b < 2 ^ ETwidth t := by
  unfold Claim.sum
  cases hF : ETfmt t with
  | none => exact Nat.mod_lt _ (Nat.two_pow_pos _)
  | some F =>
    obtain ⟨I, hw⟩ := ieeeFormat_of ht hF
    rw [← hw]
    exact I.add_lt rm a b

end Sys2Proof.Proofs
end

section
/-! VSADD and VAMO up to their loop (R263, R264). -/

namespace Sys2Proof.Proofs
open Sys2Proof.Machine Sys2Proof.Claim

section vatomic
variable {s : State} {f : VM}

/-- How the elements of VSADD and VAMO lie (R263, R264). -/
def atomMem (s : State) (f : VM) (noHost : Bool) : VMem :=
  { space := s.self.space, w := ETwidth f.et, size := Claim.bytesOf f.et, half := false, kind := 3, base := s.self.rd f.xa, msu := true
    noHost := noHost, fmtOk := anyFormat }

/-- The displacement of element j. -/
def atomAt (k : Core) (f : VM) (disp : Int) (j : Nat) : Int × Nat :=
  (formOf k f .indexed).disp disp (Claim.bytesOf f.et) k.vcols j false

/-- Element i of VSADD or VAMO. -/
def atomElem (s : State) (f : VM) (disp : Int) (noHost : Bool) (perform : Ctx → Core → Place → Nat → X MemOut) (i : Nat) : X MemOut := do
  cleanSources ((formOf s.self f .indexed).sources ++ maskSource f.msk) i
  let p ← (atomMem s f noHost).place (s.ctxOf s.cur) (atomAt s.self f disp i).1 (atomAt s.self f disp i).2 (s.self.repin i)
  cleanSources (vmSources f) i
  perform (s.ctxOf s.cur) s.self p (held s.self f.et f.vd i)

/-- What VSADD and VAMO ask of their loop. -/
def atomForm (dst : Option Dst) (zero : Bool) : MForm :=
  { dst := dst, zero := zero, record := false, peer := false, restart := false, group := 1 }

/-- What the core of VSADD or VAMO becomes. -/
def atomDone (s : State) (f : VM) (dst : Option Dst) (zero : Bool) (out : Nat → MemOut) (k : Core) : Core :=
  loopCommitted (atomForm dst zero) (s.self.vrows * s.self.vcols)
    (loopDone (atomForm dst zero) (s.self.vrows * s.self.vcols) (s.self.activeBit f.msk) out s.self) s.self.vstart k

theorem atomElem_ok {disp : Int} {noHost : Bool} {perform : Ctx → Core → Place → Nat → X MemOut} {i : Nat} {u w : State} {p : Place}
    {r : MemOut} (hclean : u.self.vec.poison = []) (hplace : (atomMem s f noHost).place (s.ctxOf s.cur) (atomAt s.self f disp i).1
      (atomAt s.self f disp i).2 (s.self.repin i) u = .ok p u)
    (hperform : perform (s.ctxOf s.cur) s.self p (held s.self f.et f.vd i) u = .ok r w) :
    atomElem s f disp noHost perform i u = .ok r w := by
  simp only [atomElem, X.bind_apply, cleanSources_ok hclean, hplace, hperform]

theorem formOf_indexed (h : f.et ≠ .wac) (k : Core) : formOf k f .indexed = .indexed (k.opnd f.idx) (ETwidth f.et) := by
  rw [formOf, if_neg h]

/-- VSADD or VAMO all of whose elements complete: the loop and the acquire. -/
theorem vatomic_chain {Inv : Nat → State → Prop} {out : Nat → MemOut} (word : Word) (disp : Int) (dst : Option Dst) (zero noHost : Bool)
    (perform : Ctx → Core → Place → Nat → X MemOut) (h : Accesses s f .indexed) (ht : f.et ≠ .wac) (hspace : s.self.space ≤ 1)
    (h0 : Inv s.self.vstart s)
    (hstep : ∀ j u, live s.self f.msk j → Inv j u → ∃ w, atomElem s f disp noHost perform j u = .ok (out j) w ∧ Inv (j + 1) w)
    (hskip : ∀ j u, s.self.activeBit f.msk j = false → Inv j u → Inv (j + 1) u) :
    ∃ t, Inv (s.self.vstart + (s.self.vrows * s.self.vcols - s.self.vstart)) t ∧
      vatomic word f disp dst zero noHost perform s = .ok ()
        ((t.modSelf fun k => (atomDone s f dst zero out k).repage none).orderAfter f.ord.toNat s.self.scope) := by
  have hissue : ∀ dsts, (∀ d ∈ dsts, d ∈ vmDsts f) → vIssue (vmIssue word f (vmSrcs f ++ idxSrc f) dsts) (fun _ => pure ()) s =
      .ok (s.self.vrows * s.self.vcols) s := fun dsts hd => h.issue word (fun _ hr => List.mem_append.mp hr) hd
  obtain ⟨t, ht', hinv⟩ := memElements_chain (m := atomForm dst zero) (n := s.self.vrows * s.self.vcols)
    (active := s.self.activeBit f.msk) (out := out) (body := atomElem s f disp noHost perform)
    (page := fun s' i => (atomMem s f noHost).page (atomAt s.self f disp i).1 s') h0 (fun j u h1 h2 h3 hu => hstep j u ⟨h1, h2, h3⟩ hu) hskip
  refine ⟨t, hinv, ?_⟩
  have hread := admits_readOpnd h.admits (c := f.idx) (List.mem_append_right _ (List.mem_singleton_self _))
  have hbytes : etBytes f.et = Claim.bytesOf f.et := rfl
  simp only [vatomic, X.bind_apply, readX_ok h.base, hread, X.self_apply, decide_eq_true hspace, X.require_true]
  rw [hissue]
  · simp only [if_neg h.shape, selfCtx, X.get_apply, X.pure_apply, X.bind_apply, X.self_apply, h.before, hbytes, vmElem_eq]
    rw [← formOf_indexed ht s.self]
    exact ordAround_ok ht' f.ord.toNat s.self.scope
  · intro d hd
    cases dst with
    | some _ => exact hd
    | none => exact absurd hd List.not_mem_nil

end vatomic

end Sys2Proof.Proofs
end

section
/-! The loops of VSADD and VAMO, element by element (R263, R264). -/

namespace Sys2Proof.Proofs
open Sys2Proof.Machine Sys2Proof.Claim

/-! ### Places updated one by one -/

/-- Those of the live elements' places that are done hold their new values, and all other bytes what they held. -/
structure Updated (k : Core) (msk : BitVec 3) (addr : Nat → Nat) (n : Nat) (new : Nat → Nat) (m m' : Mem) (done : Nat → Prop) : Prop where
  news : ∀ j, live k msk j → done j → m'.read (addr j) n = new j
  olds : ∀ j, live k msk j → ¬done j → m'.read (addr j) n = m.read (addr j) n
  beside : ∀ b, (∀ j, live k msk j → b < addr j ∨ addr j + n ≤ b) → m'.get b = m.get b

section updated
variable {k : Core} {msk : BitVec 3} {addr : Nat → Nat} {n : Nat} {new : Nat → Nat} {m m' m'' : Mem} {done : Nat → Prop} {i : Nat}

theorem Updated.none (h : ∀ j, live k msk j → ¬done j) : Updated k msk addr n new m m done :=
  ⟨fun j hj hd => absurd hd (h j hj), fun _ _ _ => rfl, fun _ _ => rfl⟩

/-- One more place. -/
theorem Updated.step (U : Updated k msk addr n new m m' done) (hapart : apart k msk addr n) (hi : live k msk i)
    (hread : m''.read (addr i) n = new i) (hget : ∀ b, b < addr i ∨ addr i + n ≤ b → m''.get b = m'.get b) :
    Updated k msk addr n new m m'' fun j => done j ∨ j = i := by
  have hother : ∀ j, live k msk j → j ≠ i → m''.read (addr j) n = m'.read (addr j) n := fun j hj hne =>
    Mem.read_congr fun b h1 h2 => hget b (by
      have := hapart j i hj hi hne
      omega)
  refine ⟨fun j hj hd => ?_, fun j hj hd => ?_, fun b hb => (hget b (hb i hi)).trans (U.beside b hb)⟩
  · by_cases hji : j = i
    · rw [hji, hread]
    · exact (hother j hj hji).trans (U.news j hj (hd.resolve_right hji))
  · exact (hother j hj fun h => hd (.inr h)).trans (U.olds j hj fun h => hd (.inl h))

theorem Updated.congr {done' : Nat → Prop} (U : Updated k msk addr n new m m' done) (h : ∀ j, live k msk j → (done' j ↔ done j)) :
    Updated k msk addr n new m m' done' :=
  ⟨fun j hj hd => U.news j hj ((h j hj).mp hd), fun j hj hd => U.olds j hj fun hd' => hd ((h j hj).mpr hd'), U.beside⟩

end updated

section atoms
variable {s : State} {f : VM} {x : Storing}

/-! ### The loop and what follows it -/

/-- VSADD or VAMO all of whose elements complete. -/
theorem vatomic_completes {Inv : Nat → Storing → Prop} {out : Nat → MemOut} (word : Word) (disp : Int) (dst : Option Dst) (zero noHost : Bool)
    (perform : Ctx → Core → Place → Nat → X MemOut) (h : Accesses s f .indexed) (ht : f.et ≠ .wac) (hspace : s.self.space ≤ 1)
    (h0 : Inv s.self.vstart (Storing.begin s))
    (hstep : ∀ j x, live s.self f.msk j → Inv j x → ∃ p y, (atomMem s f noHost).place (s.ctxOf s.cur) (atomAt s.self f disp j).1
        (atomAt s.self f disp j).2 (s.self.repin j) (x.state s) = .ok p (x.state s) ∧
      perform (s.ctxOf s.cur) s.self p (held s.self f.et f.vd j) (x.state s) = .ok (out j) (y.state s) ∧ Inv (j + 1) y)
    (hskip : ∀ j x, ¬live s.self f.msk j → Inv j x → Inv (j + 1) x) (size : Nat) :
    ∃ x, Inv (s.self.vstart + (s.self.vrows * s.self.vcols - s.self.vstart)) x ∧
      finish size (vatomic word f disp dst zero noHost perform) s =
        .next (formLeaves (x.state s) (atomDone s f dst zero out) f.ord.toNat s.self.scope size) := by
  obtain ⟨t, ⟨x, rfl, hx⟩, hrun⟩ := vatomic_chain (Inv := fun i u => ∃ x : Storing, u = x.state s ∧ Inv i x) (out := out) word disp dst zero
    noHost perform h ht hspace ⟨_, (Storing.begin_state s).symm, h0⟩
    (fun j u hl ⟨x, hu, hx⟩ => by
      subst hu
      obtain ⟨p, y, hplace, hperform, hy⟩ := hstep j x hl hx
      have hclean : (x.state s).self.vec.poison = [] := by
        rw [Storing.state_self]
        exact h.clean
      exact ⟨_, atomElem_ok hclean hplace hperform, y, rfl, hy⟩)
    (fun j u ha ⟨x, hu, hx⟩ => ⟨x, hu, hskip j x (fun hl => by
      have : s.self.activeBit f.msk j = true := hl.2.2
      rw [ha] at this
      exact Bool.false_ne_true this) hx⟩)
  exact ⟨x, hx, finish_ok hrun⟩

/-- The elements before the end of the loop are the live ones. -/
theorem live_lt {k : Core} {msk : BitVec 3} {j : Nat} (h : live k msk j) : j < k.vstart + (k.vrows * k.vcols - k.vstart) := by
  have := h.1
  have := h.2.1
  omega

/-- The updates before element i + 1. -/
theorem Updated.next {msk : BitVec 3} {addr : Nat → Nat} {n i : Nat} {new : Nat → Nat} {m m' m'' : Mem} {k : Core}
    (U : Updated k msk addr n new m m' (· < i)) (hapart : apart k msk addr n) (hi : live k msk i) (hread : m''.read (addr i) n = new i)
    (hget : ∀ b, b < addr i ∨ addr i + n ≤ b → m''.get b = m'.get b) : Updated k msk addr n new m m'' (· < i + 1) :=
  (U.step hapart hi hread hget).congr fun j _ => by omega

theorem Updated.pass {msk : BitVec 3} {addr : Nat → Nat} {n i : Nat} {new : Nat → Nat} {m m' : Mem} {k : Core}
    (U : Updated k msk addr n new m m' (· < i)) (hi : ¬live k msk i) : Updated k msk addr n new m m' (· < i + 1) :=
  U.congr fun j hj => by
    have : j ≠ i := fun h => hi (h ▸ hj)
    omega

/-! ### Elements in the scratchpad -/

theorem spotRead_scratch (hp : x.scratchPoison = []) (a n t kind addr : Nat) :
    spotRead (s.ctxOf s.cur) (.scratch s.cur a t) n kind addr (x.state s) = .ok (x.scratch.read a n) (x.state s) := by
  have hcore : (x.state s).core s.cur = x.core s.self := Storing.state_self
  have hclean : (x.core s.self).scratchBad a n = false := by
    rw [Core.scratchBad, show (x.core s.self).scratchPoison = [] from hp, List.any_nil]
  simp only [spotRead, X.bind_apply, X.get_apply, hcore, hclean, Bool.false_eq_true, if_false, X.pure_apply]
  rfl

/-- All bits replaced. -/
theorem merged_all {n v : Nat} (hv : v < 2 ^ (8 * n)) (old : Nat) : merged n (allBits n) v old = v := by
  rw [merged, allBits, Nat.xor_self, Nat.and_zero, Nat.zero_or, Nat.and_two_pow_sub_one_eq_mod, Nat.mod_eq_of_lt hv]

/-- A number written to bytes of the scratchpad. -/
theorem placeWrite_scratch {a n t nib addr v : Nat} (hv : v < 2 ^ (8 * n)) :
    Place.write ⟨[(.scratch s.cur a t, n)], nib, addr⟩ (s.ctxOf s.cur) false v (x.state s) =
      .ok () ((x.scratchWrite s a n (allBits n) v).state s) := by
  have h := placeWrite_one (half := false) (nib := nib) (addr := addr) (v := v)
    (spotWrite_scratch (s := s) (x := x) a n t (storeMask false n nib) (storeBits false n nib v))
  rwa [storeMask, storeBits, if_neg Bool.false_ne_true, if_neg Bool.false_ne_true, fld_whole hv] at h

theorem scratchWrite_read {a n v : Nat} (hv : v < 2 ^ (8 * n)) : (x.scratchWrite s a n (allBits n) v).scratch.read a n = v := by
  show (x.scratch.write a n (merged n (allBits n) v _)).read a n = v
  rw [merged_all hv, Mem.write_read, show (256 : Nat) = 2 ^ 8 from rfl, ← Nat.pow_mul, Nat.mod_eq_of_lt hv]

theorem scratchWrite_get {a n v b : Nat} (hb : b < a ∨ a + n ≤ b) :
    (x.scratchWrite s a n (allBits n) v).scratch.get b = x.scratch.get b := Mem.write_get_other _ _ _ _ hb

/-- What stands of a form in the scratchpad before element i. -/
structure ScratchTo (s : State) (msk : BitVec 3) (addr : Nat → Nat) (n : Nat) (new : Nat → Nat) (i : Nat) (x : Storing) : Prop where
  quiet : x.Quiet s.self
  ms : x.ms = s.ms
  clean : x.scratchPoison = []
  updated : Updated s.self msk addr n new s.self.scratch x.scratch (· < i)

theorem ScratchTo.write {msk : BitVec 3} {addr : Nat → Nat} {n i : Nat} {new : Nat → Nat} (S : ScratchTo s msk addr n new i x)
    (hapart : apart s.self msk addr n) (hi : live s.self msk i) (hv : new i < 2 ^ (8 * n)) :
    ScratchTo s msk addr n new (i + 1) (x.scratchWrite s (addr i) n (allBits n) (new i)) where
  quiet := by
    obtain ⟨hcsrs, hnone⟩ := S.quiet.squash (.scratch s.cur, addr i) n
    exact ⟨hcsrs, hnone⟩
  ms := S.ms
  clean := by
    show x.scratchPoison.filter _ = []
    rw [S.clean, List.filter_nil]
  updated := S.updated.next hapart hi (scratchWrite_read hv) fun _ hb => scratchWrite_get hb

/-- The place of an element in the scratchpad. -/
theorem place_atom_scratch {noHost : Bool} {d : Int × Nat} {rewalk : Option Nat} {a : Word} (hspace : s.self.space = 1) (ht : f.et ≠ .wac)
    (hw : 16 ≤ ETwidth f.et) (ha : BitVec.ofInt 64 ((s.self.rd f.xa).toNat + d.1) = a)
    (hopen : scratchOpen s a.toNat (Claim.bytesOf f.et) (Claim.bytesOf f.et)) : ∃ t, (atomMem s f noHost).place (s.ctxOf s.cur) d.1 d.2 rewalk
      (x.state s) = .ok ⟨[(.scratch s.cur a.toNat t, Claim.bytesOf f.et)], d.2, bits a 0 56⟩ (x.state s) := by
  obtain ⟨halign, hlt, t, htile, hready, hreaders⟩ := hopen
  have hself : (x.state s).core s.cur = x.core s.self := Storing.state_self
  have hhalf : (atomMem s f noHost).half = (ETwidth f.et == 4) := by
    rw [show (atomMem s f noHost).half = false from rfl, eq_comm, beq_eq_false_iff_ne]
    omega
  have halign' := (align_eq (m := atomMem s f noHost) (t := f.et) rfl rfl hhalf).trans (alignOf_eq ht)
  exact ⟨t, place_scratch (m := atomMem s f noHost) hspace ha (halign'.symm ▸ halign)
    (resolveS_open (u := x.state s) (c := s.ctxOf s.cur) hlt (hself ▸ htile) (hself ▸ hready) (hself ▸ hreaders))⟩

end atoms

end Sys2Proof.Proofs
end

section
/-! VSADD and VAMO in the scratchpad, and what VAMO returns (R263, R264). -/

namespace Sys2Proof.Proofs
open Sys2Proof.Machine Sys2Proof.Claim

section atoms
variable {s : State} {f : VM} {x : Storing}

/-! ### The two forms -/

/-- VSADD on an element's place. -/
def addPerform (f : VM) (c : Ctx) (k : Core) (p : Place) (v : Nat) : X MemOut :=
  match p.parts with
  | [(.plain h, _)] => do
    sendAddend c h f.et k.rm v
    return .done
  | _ => do
    let old ← p.read c false 3
    p.write c false (sumOf f.et k.rm old v)
    return .done

/-- VAMO on an element's place. -/
def amoPerform (f : VM) (c : Ctx) (_ : Core) (p : Place) (v : Nat) : X MemOut :=
  match p.parts with
  | [(.plain h, n)] => do
    let old ← msuOp c h n fun m => amoNew f.disp.toNat (ETwidth f.et) m v
    return .value old 0
  | _ => do
    let old ← p.read c false 3
    match amoNew f.disp.toNat (ETwidth f.et) old v with
    | some x => p.write c false x
    | none => pure ()
    return .value old 0

theorem exec_vsadd_eq (f : VM) (s : State) : exec (.vsadd f) s =
    finish (extSize f.ext) (vatomic (Instr.word (.vsadd f)) f f.value.toInt none false true (addPerform f)) s := rfl

theorem exec_vamo_eq (f : VM) (s : State) : exec (.vamo f) s =
    finish 8 (vatomic (Instr.word (.vamo f)) f 0 (some (vmDst f)) (f.mz == 1) false (amoPerform f)) s := rfl

/-- VAMO's address form: its displacement field names the operation (R264). -/
def amoForm (f : VM) : VM := { f with disp := 0, ext := none }

theorem atomAt_value (hw : 16 ≤ ETwidth f.et) (k : Core) (j : Nat) : atomAt k f f.value.toInt j = storeAt k f .indexed j := by
  have hhalf : (ETwidth f.et == 4) = false := beq_eq_false_iff_ne.mpr (by omega)
  rw [atomAt, disp_eq, storeAt, hhalf]

theorem atomAt_zero (hw : 16 ≤ ETwidth f.et) (k : Core) (j : Nat) : atomAt k f 0 j = storeAt k (amoForm f) .indexed j :=
  atomAt_value (f := amoForm f) hw k j

/-! ### Widths -/

theorem width_bytes {t : ET} (ht : t ≠ .wac) (hw : 16 ≤ ETwidth t) : ETwidth t = 8 * Claim.bytesOf t := by
  cases t with
  | wac => exact absurd rfl ht
  | i8 | u8 | e4m3 | e5m2 | e3m2 | e2m3 | e8m0 | e2m1 | i4 => exact absurd hw (by decide)
  | _ => rfl

theorem held_lt {t : ET} (ht : t ≠ .wac) (hw : 16 ≤ ETwidth t) (k : Core) (code : BitVec 7) (j : Nat) : held k t code j < 2 ^ ETwidth t := by
  rw [held, if_neg ht, elemBits]
  split
  · exact (Nat.mod_lt _ (by decide)).trans_le (show 2 ^ 6 ≤ _ from Nat.pow_le_pow_right (by decide) (by omega))
  · exact Nat.mod_lt _ (Nat.two_pow_pos _)

/-- The operations of VAMO as the model performs them (R255, R264). -/
theorem amoNew_eq {op w m v : Nat} (hm : m < 2 ^ w) (hv : v < 2 ^ w) : amoNew op w m v = amoValue op w m v := by
  have hsigned : signed w m = signed w v → m = v := fun h => by
    unfold signed at h
    simp only [Nat.mod_eq_of_lt hm, Nat.mod_eq_of_lt hv] at h
    have hpow : ((2 ^ w : Nat) : Int) = (2 : Int) ^ w := by push_cast; rfl
    generalize 2 ^ w = p at hm hv hpow h
    split at h <;> split at h <;> omega
  unfold amoNew amoValue
  split
  · rfl
  · rfl
  · rfl
  · rfl
  · by_cases h : signed w m = signed w v
    · simp [hsigned h]
    · simp only [le_iff_lt_or_eq, h, or_false]
  · by_cases h : signed w m = signed w v
    · simp [hsigned h]
    · simp only [le_iff_lt_or_eq, h, or_false]
  · rfl
  · rfl
  · rfl
  · rfl

theorem amoValue_lt {op w m v r : Nat} (hm : m < 2 ^ w) (hv : v < 2 ^ w) (h : amoValue op w m v = some r) : r < 2 ^ w := by
  unfold amoValue at h
  split at h
  · cases h
    exact Nat.mod_lt _ (Nat.two_pow_pos w)
  · cases h
    exact Nat.and_lt_two_pow _ hv
  · cases h
    exact Nat.or_lt_two_pow hm hv
  · cases h
    exact Nat.xor_lt_two_pow hm hv
  · cases h
    split <;> assumption
  · cases h
    split <;> assumption
  · cases h
    omega
  · cases h
    omega
  · cases h
    exact hv
  · split at h
    · cases h
      omega
    · cases h

end atoms

end Sys2Proof.Proofs
end

section
/-! VSADD and VAMO refused, and VSADD in the scratchpad (R128, R263). -/

namespace Sys2Proof.Proofs
open Sys2Proof.Machine Sys2Proof.Claim

section atoms
variable {s : State} {f : VM} {x : Storing}

/-! ### SPACE 2 and 3 (R263) -/

/-- Scatter-adds and atomics have no meaning in the spaces above GLOBAL and SCRATCH. -/
theorem finish_vatomic_space {word : Word} {disp : Int} {dst : Option Dst} {zero noHost : Bool} {perform : Ctx → Core → Place → Nat → X MemOut}
    (h : Accesses s f .indexed) (hspace : 2 ≤ s.self.space) (htf : s.self.tf = false) (size : Nat) :
    finish size (vatomic word f disp dst zero noHost perform) s = trapped s 2 word s.self.pc := by
  have hread := admits_readOpnd h.admits (c := f.idx) (List.mem_append_right _ (List.mem_singleton_self _))
  have hspace' : decide (s.self.space ≤ 1) = false := decide_eq_false (by omega)
  refine finish_trapped ?_ htf rfl
  simp only [vatomic, X.bind_apply, readX_ok h.base, hread, X.self_apply, hspace', X.require_false]
  rfl

/-! ### VSADD -/

/-- VSADD writes no register. -/
theorem atomDone_none (k : Core) : atomDone s f none false (fun _ => .done) k = k.setCsr 0x003 0 := loopCommitted_none rfl rfl rfl _ _ _ _ _

/-- VSADD all of whose elements complete. -/
theorem vsadd_completes {Inv : Nat → Storing → Prop} (h : Accesses s f .indexed) (ht : f.et ≠ .wac) (hspace : s.self.space ≤ 1)
    (h0 : Inv s.self.vstart (Storing.begin s))
    (hstep : ∀ j x, live s.self f.msk j → Inv j x → ∃ p y, (atomMem s f true).place (s.ctxOf s.cur) (atomAt s.self f f.value.toInt j).1
        (atomAt s.self f f.value.toInt j).2 (s.self.repin j) (x.state s) = .ok p (x.state s) ∧
      addPerform f (s.ctxOf s.cur) s.self p (held s.self f.et f.vd j) (x.state s) = .ok .done (y.state s) ∧ Inv (j + 1) y)
    (hskip : ∀ j x, ¬live s.self f.msk j → Inv j x → Inv (j + 1) x) :
    ∃ x, Inv (s.self.vstart + (s.self.vrows * s.self.vcols - s.self.vstart)) x ∧
      exec (.vsadd f) s = .next (storeEnd (x.state s) f.ord.toNat s.self.scope (extSize f.ext)) := by
  obtain ⟨x, hx, hexec⟩ := vatomic_completes (out := fun _ => .done) (Instr.word (.vsadd f)) f.value.toInt none false true (addPerform f) h ht
    hspace h0 hstep hskip (extSize f.ext)
  rw [funext (atomDone_none (s := s) (f := f))] at hexec
  exact ⟨x, hx, (exec_vsadd_eq f s).trans hexec⟩

theorem pow_width {t : ET} (ht : t ≠ .wac) (hw : 16 ≤ ETwidth t) : 2 ^ ETwidth t = 2 ^ (8 * Claim.bytesOf t) := by
  rw [width_bytes ht hw]

/-- An addition to an element in the scratchpad. -/
theorem addPerform_scratch {a t nib addr v : Nat} (ht : f.et ≠ .wac) (hw : 16 ≤ ETwidth f.et) (hp : x.scratchPoison = []) :
    addPerform f (s.ctxOf s.cur) s.self ⟨[(.scratch s.cur a t, Claim.bytesOf f.et)], nib, addr⟩ v (x.state s) =
      .ok .done ((x.scratchWrite s a (Claim.bytesOf f.et) (allBits (Claim.bytesOf f.et))
        (Claim.sum f.et s.self.rm (x.scratch.read a (Claim.bytesOf f.et)) v)).state s) := by
  have hread := placeRead_one (nib := nib) false (spotRead_scratch (s := s) (x := x) hp a (Claim.bytesOf f.et) t 3 addr)
  have hwrite := placeWrite_scratch (s := s) (x := x) (a := a) (n := Claim.bytesOf f.et) (t := t) (nib := nib) (addr := addr)
    (pow_width ht hw ▸ sum_lt hw s.self.rm (x.scratch.read a (Claim.bytesOf f.et)) v)
  rw [if_neg Bool.false_ne_true] at hread
  have hsum : ∀ a b, sumOf f.et s.self.rm a b = Claim.sum f.et s.self.rm a b := fun _ _ => rfl
  simp only [addPerform, X.bind_apply, hread, hsum, hwrite, X.pure_apply]

/-- The address of element j of VSADD or VAMO. -/
def atomAddr (s : State) (f : VM) (j : Nat) : Nat := (storeAddr s f .indexed j).toNat

/-- The sum at element j (R129). -/
def sumAt (s : State) (f : VM) (old : Nat) (j : Nat) : Nat := Claim.sum f.et s.self.rm old (held s.self f.et f.vd j)

/-- VSADD adds each live element at its place in the scratchpad. -/
theorem vsadd_scratch (h : Accesses s f .indexed) (ht : f.et ≠ .wac) (hw : 16 ≤ ETwidth f.et) (hclean : s.self.scratchPoison = [])
    (hspace : s.self.space = 1)
    (hopen : ∀ j, live s.self f.msk j → scratchOpen s (atomAddr s f j) (Claim.bytesOf f.et) (Claim.bytesOf f.et))
    (hapart : apart s.self f.msk (atomAddr s f) (Claim.bytesOf f.et)) :
    ∃ x, exec (.vsadd f) s = .next (storeEnd (x.state s) f.ord.toNat s.self.scope (extSize f.ext)) ∧
      ScratchTo s f.msk (atomAddr s f) (Claim.bytesOf f.et) (fun j => sumAt s f (s.self.scratch.read (atomAddr s f j) (Claim.bytesOf f.et)) j)
        (s.self.vstart + (s.self.vrows * s.self.vcols - s.self.vstart)) x := by
  obtain ⟨x, hx, hexec⟩ := vsadd_completes h ht (hspace.trans_le le_rfl)
    (Inv := fun i x => ScratchTo s f.msk (atomAddr s f) (Claim.bytesOf f.et)
      (fun j => sumAt s f (s.self.scratch.read (atomAddr s f j) (Claim.bytesOf f.et)) j) i x)
    ⟨Storing.quiet_begin s, rfl, hclean, Updated.none fun j hj => Nat.not_lt.mpr hj.1⟩
    (fun j x hl S => by
      have haddr : BitVec.ofInt 64 ((s.self.rd f.xa).toNat + (atomAt s.self f f.value.toInt j).1) = storeAddr s f .indexed j := by
        rw [atomAt_value hw, ← storeAddr_eq]
      obtain ⟨t, hplace⟩ := place_atom_scratch (x := x) (noHost := true) (rewalk := s.self.repin j) hspace ht hw haddr (hopen j hl)
      refine ⟨_, _, hplace, addPerform_scratch ht hw S.clean, ?_⟩
      rw [← atomAddr, S.updated.olds j hl (Nat.lt_irrefl j)]
      exact S.write hapart hl (pow_width ht hw ▸ sum_lt hw _ _ _))
    fun j x hl S => ⟨S.quiet, S.ms, S.clean, S.updated.pass hl⟩
  exact ⟨x, hexec, hx⟩

end atoms

end Sys2Proof.Proofs
end

section
/-! VAMO: the register of the old values, and the scratchpad (R264). -/

namespace Sys2Proof.Proofs
open Sys2Proof.Machine Sys2Proof.Claim

/-- A loop that names its destination alone writes it (R80). -/
theorem loopCommitted_dst {m : MForm} {d : Dst} (hd : m.dst = some d) (hr : m.record = false) (hp : m.peer = false) (n : Nat) (l : MLoop)
    (vs : Nat) (k : Core) : ∃ (k0 : Core) (tl : Option Nat), k0.vec = k.vec ∧ (tl = none ∨ tl = some n) ∧
      (loopCommitted m n l vs k).vec = (k0.vwrite d (l.res.filter fun r => r.1 < n) tl).vec := by
  refine ⟨k.orFlags l.flags, if (k.orFlags l.flags).tailz then some n else none, Core.orFlags_vec .., ?_, ?_⟩
  · split
    · exact .inr rfl
    · exact .inl rfl
  · simp only [loopCommitted, memCommit, hd, hr, hp, Bool.false_eq_true, if_false, Core.setCsr_vec]

section atoms
variable {s : State} {f : VM} {x : Storing}

/-! ### The register of the old values -/

/-- What VAMO makes of its core. -/
def amoDone (s : State) (f : VM) (old : Nat → Nat) : Core → Core := atomDone s f (some (vmDst f)) (f.mz == 1) fun j => .value (old j) 0

/-- The register of VAMO. -/
theorem amoDone_vec (h : Accesses s f .indexed) (ht : f.et ≠ .wac) {old : Nat → Nat}
    (hold : ∀ j, live s.self f.msk j → old j < 2 ^ ETwidth f.et) {k : Core} (hk : k.vec = s.self.vec) :
    onlyReg f.vd.toNat s.self.vec (amoDone s f old k).vec ∧
      ∀ j, live s.self f.msk j → regElem f.vd.toNat (ETwidth f.et) (amoDone s f old k).vec j = old j := by
  have hn : named (accessCodes f .indexed) f.vd.toNat :=
    ⟨_, List.mem_append_left _ (registers_one ht ▸ List.mem_singleton_self _), h.vector, rfl⟩
  have D := destination_vec (off := 0) (n := s.self.vrows * s.self.vcols) (tail := true) (admits_named h.admits hn).2.1 (fun j hj => by
    rw [Nat.zero_add]
    exact admits_fits h.admits hn (by rw [shapeWidth_ETew ht]) (ETwidth_le ht) j hj) fun _ => rfl
  simp only [Nat.zero_add] at D
  have hdst : vmDst f = .vec f.vd.toNat (ETwidth f.et) 0 := if_neg ht
  rw [amoDone, atomDone, hdst]
  obtain ⟨k0, tl, hk0, htl, hvec⟩ := loopCommitted_dst (m := atomForm (some (.vec f.vd.toNat (ETwidth f.et) 0)) (f.mz == 1)) rfl rfl rfl
    (s.self.vrows * s.self.vcols) (loopDone (atomForm (some (.vec f.vd.toNat (ETwidth f.et) 0)) (f.mz == 1))
      (s.self.vrows * s.self.vcols) (s.self.activeBit f.msk) (fun j => .value (old j) 0) s.self) s.self.vstart k
  have hres : (loopDone (atomForm (some (.vec f.vd.toNat (ETwidth f.et) 0)) (f.mz == 1)) (s.self.vrows * s.self.vcols)
      (s.self.activeBit f.msk) (fun j => .value (old j) 0) s.self).res =
        ((List.range' s.self.vstart (s.self.vrows * s.self.vcols - s.self.vstart)).filterMap
          (memEntry (s.self.activeBit f.msk) (f.mz == 1) fun j => .value (old j) 0)).reverse :=
    (loopAdd_res _ _ _ _ _).trans (List.append_nil _)
  rw [hvec, hres]
  refine ⟨(hk0.trans hk) ▸ D.beside k0 _ tl, fun j hl => ?_⟩
  rw [D.read k0 _ tl j hl.2.1 (htl.imp id fun h => ⟨rfl, h⟩), find_results _ _ _ hl.2.1, if_pos hl.1, memEntry,
    if_pos (show s.self.activeBit f.msk j = true from hl.2.2)]
  exact Nat.mod_eq_of_lt (hold j hl)

/-- What VAMO leaves of its core once it has completed. -/
structure AmoLeaves (s : State) (f : VM) (old : Nat → Nat) (x : Storing) (t : State) : Prop where
  vstart : t.self.csrAt 0x003 = 0
  register : onlyRegister s.self t.self f.vd.toNat
  olds : ∀ j, live s.self f.msk j → elem t.self f.vd.toNat (ETwidth f.et) j = old j
  scratch : t.self.scratch = x.scratch
  mem : t.ms.mem = x.ms.mem

/-- VAMO all of whose elements complete. -/
theorem vamo_completes {Inv : Nat → Storing → Prop} {old : Nat → Nat} (h : Accesses s f .indexed) (ht : f.et ≠ .wac)
    (hspace : s.self.space ≤ 1) (hold : ∀ j, live s.self f.msk j → old j < 2 ^ ETwidth f.et) (h0 : Inv s.self.vstart (Storing.begin s))
    (hstep : ∀ j x, live s.self f.msk j → Inv j x → ∃ p y, (atomMem s f false).place (s.ctxOf s.cur) (atomAt s.self f 0 j).1
        (atomAt s.self f 0 j).2 (s.self.repin j) (x.state s) = .ok p (x.state s) ∧
      amoPerform f (s.ctxOf s.cur) s.self p (held s.self f.et f.vd j) (x.state s) = .ok (.value (old j) 0) (y.state s) ∧ Inv (j + 1) y)
    (hskip : ∀ j x, ¬live s.self f.msk j → Inv j x → Inv (j + 1) x) :
    ∃ x t, Inv (s.self.vstart + (s.self.vrows * s.self.vcols - s.self.vstart)) x ∧ exec (.vamo f) s = .next t ∧ AmoLeaves s f old x t := by
  obtain ⟨x, hx, hexec⟩ := vatomic_completes (out := fun j => .value (old j) 0) (Instr.word (.vamo f)) 0 (some (vmDst f)) (f.mz == 1) false
    (amoPerform f) h ht hspace h0 hstep hskip 8
  obtain ⟨⟨c, hself⟩, r, p, hms⟩ := formLeaves_self (x := x) (s := s) (g := amoDone s f old)
    (fun k c => loopCommitted_withCache _ _ _ _ c k) f.ord.toNat s.self.scope 8
  obtain ⟨hreg, helem⟩ := amoDone_vec h ht hold (k := x.core s.self) rfl
  obtain ⟨v, c', hdone⟩ : VectorCsr (x.core s.self) (amoDone s f old (x.core s.self)) := loopCommitted_vectorCsr ..
  have hvstart : (amoDone s f old (x.core s.self)).csrAt 0x003 = 0 := Core.setCsr_csrAt_same _ _ (by decide)
  have hscratch : (amoDone s f old (x.core s.self)).scratch = x.scratch := congrArg Core.scratch hdone
  generalize amoDone s f old (x.core s.self) = l at hself hreg helem hvstart hscratch
  have hvec : (withCache c (l.retire 8)).vec = l.vec := Core.retire_vec l 8
  refine ⟨x, _, hx, (exec_vamo_eq f s).trans hexec, ?_, ?_, fun j hj => ?_, ?_, ?_⟩
  · exact (congrArg (Core.csrAt · 0x003) hself).trans ((retire_vstart l 8).trans hvstart)
  · rw [onlyRegister_iff]
    exact ((congrArg Core.vec hself).trans hvec).symm ▸ hreg
  · exact (congrArg (regElem f.vd.toNat (ETwidth f.et) · j) ((congrArg Core.vec hself).trans hvec)).trans (helem j hj)
  · exact (congrArg Core.scratch hself).trans ((Core.retire_scratch l 8).trans hscratch)
  · have hmem := congrArg MemSys.mem hms
    exact hmem

/-! ### The scratchpad -/

/-- The new value of element j (R255, R264). -/
def amoAt (s : State) (f : VM) (old : Nat) (j : Nat) : Nat :=
  (amoValue f.disp.toNat (ETwidth f.et) old (held s.self f.et f.vd j)).getD old

theorem amoAt_lt (ht : f.et ≠ .wac) (hw : 16 ≤ ETwidth f.et) {old : Nat} (hold : old < 2 ^ ETwidth f.et) (j : Nat) :
    amoAt s f old j < 2 ^ ETwidth f.et := by
  rw [amoAt]
  cases h : amoValue f.disp.toNat (ETwidth f.et) old (held s.self f.et f.vd j) with
  | none => exact hold
  | some v => exact amoValue_lt hold (held_lt ht hw s.self f.vd j) h

/-- Nothing written, as the element is. -/
theorem ScratchTo.keep {msk : BitVec 3} {addr : Nat → Nat} {n i : Nat} {new : Nat → Nat} (S : ScratchTo s msk addr n new i x)
    (hapart : apart s.self msk addr n) (hi : live s.self msk i) (hv : x.scratch.read (addr i) n = new i) : ScratchTo s msk addr n new (i + 1) x :=
  ⟨S.quiet, S.ms, S.clean, S.updated.next hapart hi hv fun _ _ => rfl⟩

/-- The operation on an element in the scratchpad. -/
theorem amoPerform_scratch {a t nib addr j old : Nat} (ht : f.et ≠ .wac) (hw : 16 ≤ ETwidth f.et) (hp : x.scratchPoison = [])
    (hold : x.scratch.read a (Claim.bytesOf f.et) = old) :
    ∃ y, amoPerform f (s.ctxOf s.cur) s.self ⟨[(.scratch s.cur a t, Claim.bytesOf f.et)], nib, addr⟩ (held s.self f.et f.vd j) (x.state s) =
        .ok (.value old 0) (y.state s) ∧
      (y = x ∧ old = amoAt s f old j ∨ y = x.scratchWrite s a (Claim.bytesOf f.et) (allBits (Claim.bytesOf f.et)) (amoAt s f old j)) := by
  have hlt : old < 2 ^ ETwidth f.et := pow_width ht hw ▸ hold ▸ read_lt _ _ _
  have hread := placeRead_one (nib := nib) false (spotRead_scratch (s := s) (x := x) hp a (Claim.bytesOf f.et) t 3 addr)
  rw [if_neg Bool.false_ne_true, hold] at hread
  have hnew := amoNew_eq (op := f.disp.toNat) hlt (held_lt ht hw s.self f.vd j)
  have hbound := pow_width ht hw ▸ amoAt_lt (s := s) ht hw hlt j
  cases hv : amoValue f.disp.toNat (ETwidth f.et) old (held s.self f.et f.vd j) with
  | none =>
    refine ⟨x, ?_, .inl ⟨rfl, by rw [amoAt, hv, Option.getD_none]⟩⟩
    simp only [amoPerform, X.bind_apply, hread, hnew, hv, X.pure_apply]
  | some v =>
    have hat : amoAt s f old j = v := by rw [amoAt, hv, Option.getD_some]
    have hwrite := placeWrite_scratch (s := s) (x := x) (a := a) (t := t) (nib := nib) (addr := addr) hbound
    refine ⟨_, ?_, .inr rfl⟩
    rw [hat] at hwrite ⊢
    simp only [amoPerform, X.bind_apply, hread, hnew, hv, hwrite, X.pure_apply]

/-- VAMO performs its operation at each place in the scratchpad. -/
theorem vamo_scratch (h : Accesses s f .indexed) (ht : f.et ≠ .wac) (hw : 16 ≤ ETwidth f.et) (hclean : s.self.scratchPoison = [])
    (hspace : s.self.space = 1)
    (hopen : ∀ j, live s.self f.msk j → scratchOpen s (atomAddr s (amoForm f) j) (Claim.bytesOf f.et) (Claim.bytesOf f.et))
    (hapart : apart s.self f.msk (atomAddr s (amoForm f)) (Claim.bytesOf f.et)) :
    ∃ x t, exec (.vamo f) s = .next t ∧
      AmoLeaves s f (fun j => s.self.scratch.read (atomAddr s (amoForm f) j) (Claim.bytesOf f.et)) x t ∧
      ScratchTo s f.msk (atomAddr s (amoForm f)) (Claim.bytesOf f.et)
        (fun j => amoAt s f (s.self.scratch.read (atomAddr s (amoForm f) j) (Claim.bytesOf f.et)) j)
        (s.self.vstart + (s.self.vrows * s.self.vcols - s.self.vstart)) x := by
  have hlt : ∀ j, s.self.scratch.read (atomAddr s (amoForm f) j) (Claim.bytesOf f.et) < 2 ^ ETwidth f.et := fun j =>
    pow_width ht hw ▸ read_lt _ _ _
  obtain ⟨x, t, hx, hexec, hleaves⟩ := vamo_completes h ht (hspace.trans_le le_rfl)
    (old := fun j => s.self.scratch.read (atomAddr s (amoForm f) j) (Claim.bytesOf f.et))
    (Inv := fun i x => ScratchTo s f.msk (atomAddr s (amoForm f)) (Claim.bytesOf f.et)
      (fun j => amoAt s f (s.self.scratch.read (atomAddr s (amoForm f) j) (Claim.bytesOf f.et)) j) i x)
    (fun j _ => hlt j) ⟨Storing.quiet_begin s, rfl, hclean, Updated.none fun j hj => Nat.not_lt.mpr hj.1⟩
    (fun j x hl S => by
      have haddr : BitVec.ofInt 64 ((s.self.rd f.xa).toNat + (atomAt s.self f 0 j).1) = storeAddr s (amoForm f) .indexed j := by
        rw [atomAt_zero hw]
        rfl
      obtain ⟨t, hplace⟩ := place_atom_scratch (x := x) (noHost := false) (rewalk := s.self.repin j) hspace ht hw haddr (hopen j hl)
      have hold := S.updated.olds j hl (Nat.lt_irrefl j)
      obtain ⟨y, hperform, hy⟩ := amoPerform_scratch (s := s) (t := t) (nib := (atomAt s.self f 0 j).2)
        (addr := bits (storeAddr s (amoForm f) .indexed j) 0 56) (j := j) ht hw S.clean hold
      refine ⟨_, y, hplace, hperform, ?_⟩
      rcases hy with ⟨rfl, hsame⟩ | rfl
      · exact S.keep hapart hl (hold.trans hsame)
      · exact S.write hapart hl (pow_width ht hw ▸ amoAt_lt ht hw (hlt j) j))
    fun j x hl S => ⟨S.quiet, S.ms, S.clean, S.updated.pass hl⟩
  exact ⟨x, t, hexec, hleaves, hx⟩

end atoms

end Sys2Proof.Proofs
end

section
/-! VAMO in GLOBAL (R124 to R127, R264). -/

namespace Sys2Proof.Proofs
open Sys2Proof.Machine Sys2Proof.Claim

section atoms
variable {s : State} {f : VM} {x : Storing}

/-! ### Operations at the MSU of memory at rest (R124) -/

/-- What an operation at the MSU does: the loads ahead, the copies in the L1 data cache, the bytes or the monitors alone. -/
def Storing.msu (x : Storing) (s : State) (pa n : Nat) (new : Option Nat) : Storing :=
  { x.squash s.self (.mem, pa) n with
    l1d := (((x.squash s.self (.mem, pa) n).core s.self).l1DropAddr pa n).cache.l1d
    ms := new.elim (x.ms.fire pa n) (x.ms.portWrite pa n) }

theorem msuOp_free {h : Hit} {n : Nat} {g : Nat → Option Nat} (hr : h.ga < 2 ^ 42) (hc : x.ms.chains = []) (hl : noLine x.ms h.ga n)
    (hp : x.ms.poison = []) (hf : hdmFree x.ms h.ga n) : msuOp (s.ctxOf s.cur) h n g true (x.state s) =
      .ok (x.ms.mem.read h.ga n) ((x.msu s h.ga n (g (x.ms.mem.read h.ga n))).state s) := by
  have hnothost : (decide (hostBase ≤ h.ga) && !(x.squash s.self (.mem, h.ga) n).ms.bypass h) = false :=
    Bool.and_eq_false_imp.mpr fun hh => absurd (of_decide_eq_true hh) (by unfold hostBase; omega)
  have hsquash := squashAhead_storing (s := s) (x := x) (.mem, h.ga) n
  have hms : (x.squash s.self (.mem, h.ga) n).ms = x.ms := rfl
  unfold Storing.msu
  generalize x.squash s.self (.mem, h.ga) n = y at hsquash hnothost hms ⊢
  have hstate : (y.state s).ms = x.ms := hms
  have hdrop : (y.state s).modCore s.cur (fun k => k.l1DropAddr h.ga n) =
      ({ y with l1d := ((y.core s.self).l1DropAddr h.ga n).cache.l1d } : Storing).state s := Storing.state_mod rfl rfl
  have hset : ({ y.state s with ms := x.ms } : State) = y.state s := by rw [← hstate]
  have hfree : bisnpCheck h.ga n (y.state s) = .ok () (y.state s) := bisnpCheck_atRest (hstate ▸ hf)
  rw [hms] at hnothost
  simp only [msuOp, if_true, X.bind_apply, hsquash, notRemote hr, Bool.false_eq_true, if_false, hfree, X.get_apply, hstate, hnothost,
    msuRead_atRest hc hl hp hr, X.set_apply, hset, Bool.not_false, X.require_true]
  rw [show (s.ctxOf s.cur).core = s.cur from rfl, hdrop]
  cases g (x.ms.mem.read h.ga n) with
  | none =>
    simp only [X.bind_apply, X.modify_apply, X.pure_apply, Option.elim_none]
    exact congrArg (EStateM.Result.ok _) (by rw [← hms]; rfl)
  | some v =>
    simp only [X.bind_apply, X.modify_apply, X.pure_apply, Option.elim_some]
    exact congrArg (EStateM.Result.ok _) (by rw [← hms]; rfl)

/-! ### Memory updated place by place -/

/-- Homes, lines that the host caches and poison are those of s; memory differs at the places that are done. -/
structure MemoryTo (s : State) (msk : BitVec 3) (pa : Nat → Nat) (n : Nat) (new : Nat → Nat) (done : Nat → Prop) (ms : MemSys) : Prop where
  homes : ms.homes = s.ms.homes
  hdm : ms.hdm = s.ms.hdm
  clean : ms.poison = []
  updated : Updated s.self msk pa n new s.ms.mem ms.mem done

section memory
variable {msk : BitVec 3} {pa : Nat → Nat} {n i : Nat} {new : Nat → Nat} {done : Nat → Prop} {ms : MemSys}

theorem MemoryTo.noLine (M : MemoryTo s msk pa n new done ms) {a : Nat} (h : atRest s a n none) : noLine ms a n := by
  intro g hg
  exact atRest_noLine h g (M.homes ▸ hg)

theorem MemoryTo.hdmFree (M : MemoryTo s msk pa n new done ms) {a : Nat} (h : atRest s a n none) : hdmFree ms a n := by
  obtain ⟨-, hhdm, -⟩ := h
  exact fun l hl => hhdm l (M.hdm ▸ hl)

/-- The bytes of a live element written in memory. -/
theorem MemoryTo.write (M : MemoryTo s msk pa n new done ms) (hapart : apart s.self msk pa n) (hi : live s.self msk i)
    (hv : new i < 2 ^ (8 * n)) {m : MemSys} (hhomes : m.homes = ms.homes) (hhdm : m.hdm = ms.hdm) (hclean : m.poison = [])
    (hmem : m.mem = ms.mem.write (pa i) n (new i)) : MemoryTo s msk pa n new (fun j => done j ∨ j = i) m where
  homes := hhomes.trans M.homes
  hdm := hhdm.trans M.hdm
  clean := hclean
  updated := M.updated.step hapart hi
    (by rw [hmem, Mem.write_read, show (256 : Nat) = 2 ^ 8 from rfl, ← Nat.pow_mul, Nat.mod_eq_of_lt hv])
    fun b hb => by rw [hmem, Mem.write_get_other _ _ _ _ hb]

theorem MemoryTo.congr {done' : Nat → Prop} (M : MemoryTo s msk pa n new done ms) (h : ∀ j, live s.self msk j → (done' j ↔ done j)) :
    MemoryTo s msk pa n new done' ms :=
  ⟨M.homes, M.hdm, M.clean, M.updated.congr h⟩

end memory

/-! ### VAMO -/

/-- What stands of VAMO in GLOBAL before element i. -/
structure AmoTo (s : State) (msk : BitVec 3) (pa : Nat → Nat) (n : Nat) (new : Nat → Nat) (i : Nat) (x : Storing) : Prop where
  chains : x.ms.chains = []
  memory : MemoryTo s msk pa n new (· < i) x.ms

section amo
variable {msk : BitVec 3} {pa : Nat → Nat} {n i : Nat} {new : Nat → Nat}

theorem AmoTo.pass (A : AmoTo s msk pa n new i x) (hi : ¬live s.self msk i) : AmoTo s msk pa n new (i + 1) x :=
  ⟨A.chains, A.memory.congr fun j hj => by
    have : j ≠ i := fun h => hi (h ▸ hj)
    omega⟩

/-- The operation of element i done at its MSU. -/
theorem AmoTo.msu (A : AmoTo s msk pa n new i x) (hapart : apart s.self msk pa n) (hi : live s.self msk i) (hv : new i < 2 ^ (8 * n))
    (hdev : pa i < 2 ^ 42) (hrest : atRest s (pa i) n none) {r : Option Nat} (hr : r.getD (x.ms.mem.read (pa i) n) = new i) :
    AmoTo s msk pa n new (i + 1) (x.msu s (pa i) n r) := by
  have hdone : ∀ j, live s.self msk j → (j < i + 1 ↔ j < i ∨ j = i) := fun j _ => by omega
  cases r with
  | none =>
    exact ⟨A.chains, A.memory.homes, A.memory.hdm, A.memory.clean, A.memory.updated.next hapart hi hr fun _ _ => rfl⟩
  | some v =>
    obtain rfl : v = new i := hr
    have hport := portWrite_free A.chains hdev (A.memory.hdmFree hrest) (new i)
    refine ⟨?_, (A.memory.write hapart hi hv (m := x.ms.portWrite (pa i) n (new i)) ?_ ?_ ?_ ?_).congr hdone⟩
    · exact (congrArg MemSys.chains hport).trans A.chains
    · exact (congrArg MemSys.homes hport).trans rfl
    · exact (congrArg MemSys.hdm hport).trans rfl
    · refine (congrArg MemSys.poison hport).trans (?_ : x.ms.poison.filter _ = [])
      rw [A.memory.clean, List.filter_nil]
    · exact congrArg MemSys.mem hport

end amo

/-- The address of the bytes of element j of VSADD or VAMO in GLOBAL. -/
def atomPa (s : State) (f : VM) (e : Nat → TlbEntry) (j : Nat) : Nat := s.leafAddr (e j).pte (e j).level (storeAddr s f .indexed j)

/-- The place of an element in GLOBAL. -/
theorem place_atom_plain {noHost : Bool} {d : Int × Nat} {a : Word} {j : Nat} {e : TlbEntry} (hspace : s.self.space = 0) (ht : f.et ≠ .wac)
    (hw : 16 ≤ ETwidth f.et) (hpin : s.self.cache.pin = none) (ha : BitVec.ofInt 64 ((s.self.rd f.xa).toNat + d.1) = a)
    (halign : a.toNat % Claim.bytesOf f.et = 0)
    (hm : mapped s a { kind := 3, n := Claim.bytesOf f.et, msu := true, noHost := noHost } e) :
    (atomMem s f noHost).place (s.ctxOf s.cur) d.1 d.2 (s.self.repin j) (x.state s) =
      .ok ⟨[(.plain (e.hit s a), Claim.bytesOf f.et)], d.2, bits a 0 56⟩ (x.state s) := by
  have hhalf : (atomMem s f noHost).half = (ETwidth f.et == 4) := by
    rw [show (atomMem s f noHost).half = false from rfl, eq_comm, beq_eq_false_iff_ne]
    omega
  have hal := (align_eq (m := atomMem s f noHost) (t := f.et) rfl rfl hhalf).trans (alignOf_eq ht)
  rw [repin_none hpin j]
  exact place_plain (m := atomMem s f noHost) hspace (width_ne ht) (bytesOf_pos f.et) ha (hal.symm ▸ halign)
    (resolveG_served (mapped_storing (x := x) hm) rfl)

/-- VAMO performs its operation at each place in GLOBAL. -/
theorem vamo_global {e : Nat → TlbEntry} (h : Accesses s f .indexed) (ht : f.et ≠ .wac) (hw : 16 ≤ ETwidth f.et) (hc : s.ms.chains = [])
    (hp : s.ms.poison = []) (hpin : s.self.cache.pin = none) (hspace : s.self.space = 0)
    (hmap : ∀ j, live s.self f.msk j → (storeAddr s (amoForm f) .indexed j).toNat % Claim.bytesOf f.et = 0 ∧
      mapped s (storeAddr s (amoForm f) .indexed j) { kind := 3, n := Claim.bytesOf f.et, msu := true } (e j) ∧
      atRest s (atomPa s (amoForm f) e j) (Claim.bytesOf f.et) none)
    (hapart : apart s.self f.msk (atomPa s (amoForm f) e) (Claim.bytesOf f.et)) :
    ∃ x t, exec (.vamo f) s = .next t ∧ AmoLeaves s f (fun j => s.ms.mem.read (atomPa s (amoForm f) e j) (Claim.bytesOf f.et)) x t ∧
      AmoTo s f.msk (atomPa s (amoForm f) e) (Claim.bytesOf f.et)
        (fun j => amoAt s f (s.ms.mem.read (atomPa s (amoForm f) e j) (Claim.bytesOf f.et)) j)
        (s.self.vstart + (s.self.vrows * s.self.vcols - s.self.vstart)) x := by
  have hlt : ∀ j, s.ms.mem.read (atomPa s (amoForm f) e j) (Claim.bytesOf f.et) < 2 ^ ETwidth f.et := fun j =>
    pow_width ht hw ▸ read_lt _ _ _
  obtain ⟨x, t, hx, hexec, hleaves⟩ := vamo_completes h ht (hspace.trans_le (Nat.zero_le 1))
    (old := fun j => s.ms.mem.read (atomPa s (amoForm f) e j) (Claim.bytesOf f.et))
    (Inv := fun i x => AmoTo s f.msk (atomPa s (amoForm f) e) (Claim.bytesOf f.et)
      (fun j => amoAt s f (s.ms.mem.read (atomPa s (amoForm f) e j) (Claim.bytesOf f.et)) j) i x)
    (fun j _ => hlt j) ⟨hc, rfl, rfl, hp, Updated.none fun j hj => Nat.not_lt.mpr hj.1⟩
    (fun j x hl A => by
      obtain ⟨halign, hm, hrest⟩ := hmap j hl
      have haddr : BitVec.ofInt 64 ((s.self.rd f.xa).toNat + (atomAt s.self f 0 j).1) = storeAddr s (amoForm f) .indexed j := by
        rw [atomAt_zero hw]
        rfl
      have hplace := place_atom_plain (x := x) (j := j) hspace ht hw hpin haddr halign hm
      have hold := A.memory.updated.olds j hl (Nat.lt_irrefl j)
      obtain ⟨-, -, -, -, -, -, -, -, hdev, -⟩ := hm
      have hop := msuOp_free (s := s) (h := (e j).hit s (storeAddr s (amoForm f) .indexed j)) (n := Claim.bytesOf f.et)
        (g := fun m => amoNew f.disp.toNat (ETwidth f.et) m (held s.self f.et f.vd j)) hdev A.chains (A.memory.noLine hrest) A.memory.clean
        (A.memory.hdmFree hrest)
      have hga : ((e j).hit s (storeAddr s (amoForm f) .indexed j)).ga = atomPa s (amoForm f) e j := rfl
      rw [hga, hold, amoNew_eq (hlt j) (held_lt ht hw s.self f.vd j)] at hop
      refine ⟨_, _, hplace, ?_, A.msu hapart hl (pow_width ht hw ▸ amoAt_lt ht hw (hlt j) j) hdev hrest
        (r := amoValue f.disp.toNat (ETwidth f.et) (s.ms.mem.read (atomPa s (amoForm f) e j) (Claim.bytesOf f.et)) (held s.self f.et f.vd j))
        (by rw [hold]; rfl)⟩
      simp only [amoPerform, X.bind_apply, hop, X.pure_apply])
    fun j x hl A => A.pass hl
  exact ⟨x, t, hexec, hleaves, hx⟩

end atoms

end Sys2Proof.Proofs
end

section
/-! VSADD in GLOBAL: addends under way, and their pass (R128, R263). -/

namespace Sys2Proof.Proofs
open Sys2Proof.Machine Sys2Proof.Claim

section sums
variable {s : State} {f : VM} {x : Storing} {e : Nat → TlbEntry}

/-! ### Addends and their chains (R128) -/

/-- The addend of element j, and the chain that it begins. -/
def addendOf (s : State) (f : VM) (e : Nat → TlbEntry) (j : Nat) : Addend :=
  { pa := atomPa s f e j, et := f.et, rm := s.self.rm, value := held s.self f.et f.vd j, tenant := s.self.tk.tenant }

def chainOf (s : State) (f : VM) (e : Nat → TlbEntry) (j : Nat) : Chain := ⟨atomPa s f e j / 8, [addendOf s f e j]⟩

/-- The sums in GLOBAL. -/
def sumGlobal (s : State) (f : VM) (e : Nat → TlbEntry) (j : Nat) : Nat :=
  sumAt s f (s.ms.mem.read (atomPa s f e j) (Claim.bytesOf f.et)) j

/-- What VSADD in GLOBAL asks of the places of its elements. -/
structure SumPlaces (s : State) (f : VM) (e : Nat → TlbEntry) : Prop where
  elems : f.et ≠ .wac
  wide : 16 ≤ ETwidth f.et
  align : ∀ j, live s.self f.msk j → (storeAddr s f .indexed j).toNat % Claim.bytesOf f.et = 0
  mapped : ∀ j, live s.self f.msk j →
    mapped s (storeAddr s f .indexed j) { kind := 3, n := Claim.bytesOf f.et, msu := true, noHost := true } (e j)
  rest : ∀ j, live s.self f.msk j → atRest s (atomPa s f e j) (Claim.bytesOf f.et) none
  words : apart s.self f.msk (fun j => atomPa s f e j / 8 * 8) 8

/-- Memory with these elements' sums in place. -/
def SumsIn (s : State) (f : VM) (e : Nat → TlbEntry) : (Nat → Prop) → MemSys → Prop :=
  MemoryTo s f.msk (atomPa s f e) (Claim.bytesOf f.et) (sumGlobal s f e)

theorem SumPlaces.device (P : SumPlaces s f e) {j : Nat} (hl : live s.self f.msk j) : atomPa s f e j < 2 ^ 42 := by
  obtain ⟨-, -, -, -, -, -, -, -, hdev, -⟩ := P.mapped j hl
  exact hdev

/-- An aligned element lies in one word. -/
theorem bytes_in_word {t : ET} (ht : t ≠ .wac) {a : Nat} (h : a % Claim.bytesOf t = 0) : a / 8 * 8 ≤ a ∧ a + Claim.bytesOf t ≤ a / 8 * 8 + 8 := by
  have hsize : Claim.bytesOf t = 1 ∨ Claim.bytesOf t = 2 ∨ Claim.bytesOf t = 4 ∨ Claim.bytesOf t = 8 := by
    cases t with
    | wac => exact absurd rfl ht
    | _ => decide
  rcases hsize with hn | hn | hn | hn <;> rw [hn] at h ⊢ <;> omega

theorem SumPlaces.aligned (P : SumPlaces s f e) {j : Nat} (hl : live s.self f.msk j) : atomPa s f e j % Claim.bytesOf f.et = 0 := by
  have hpage := leafAddr_page s (e j).pte (e j).level (storeAddr s f .indexed j)
  have hdvd : Claim.bytesOf f.et ∣ 4096 := (bytesOf_dvd P.elems).trans (by decide)
  rw [← Nat.mod_mod_of_dvd _ hdvd, atomPa, hpage, Nat.mod_mod_of_dvd _ hdvd]
  exact P.align j hl

theorem SumPlaces.apart (P : SumPlaces s f e) : apart s.self f.msk (atomPa s f e) (Claim.bytesOf f.et) := by
  intro i j hi hj hne
  obtain ⟨hi1, hi2⟩ := bytes_in_word P.elems (P.aligned hi)
  obtain ⟨hj1, hj2⟩ := bytes_in_word P.elems (P.aligned hj)
  have hwords := P.words i j hi hj hne
  dsimp only at hwords
  omega

theorem SumPlaces.word_ne (P : SumPlaces s f e) {i j : Nat} (hi : live s.self f.msk i) (hj : live s.self f.msk j) (hne : i ≠ j) :
    atomPa s f e i / 8 ≠ atomPa s f e j / 8 := by
  have hwords := P.words i j hi hj hne
  dsimp only at hwords
  omega

/-- One addend applied. -/
theorem addendDone_eq {ms : MemSys} {j : Nat} (ht : f.et ≠ .wac) (hw : 16 ≤ ETwidth f.et) (hp : ms.poison = [])
    (hdev : atomPa s f e j < 2 ^ 42) (hf : hdmFree ms (atomPa s f e j) (Claim.bytesOf f.et)) : ms.addendDone (addendOf s f e j) =
      { ms.fire (atomPa s f e j) (Claim.bytesOf f.et) with
        mem := ms.mem.write (atomPa s f e j) (Claim.bytesOf f.et)
          (sumAt s f (ms.mem.read (atomPa s f e j) (Claim.bytesOf f.et)) j) } := by
  have hbytes : ETwidth f.et / 8 = Claim.bytesOf f.et := by
    have := width_bytes ht hw
    omega
  have hnothost : ¬hostBase ≤ atomPa s f e j := by unfold hostBase; omega
  unfold MemSys.addendDone
  simp only [addendOf, hbytes, poisoned_clean hp, Bool.false_eq_true, if_false, rd_device hdev]
  unfold sumAt Claim.sum
  rw [MemSys.wr, if_neg hnothost, if_pos hdev, fullMask, Mem.writeMasked_full, width_bytes ht hw]
  cases ETfmt f.et with
  | none => exact snoopOut_free (ms := ({ ms with mem := _ } : MemSys).fire (atomPa s f e j) (Claim.bytesOf f.et)) hf
  | some F => exact snoopOut_free (ms := ({ ms with mem := _ } : MemSys).fire (atomPa s f e j) (Claim.bytesOf f.et)) hf

/-- Some addends applied. -/
def addendsDone (s : State) (f : VM) (e : Nat → TlbEntry) (js : List Nat) (ms : MemSys) : MemSys :=
  js.foldl (fun m j => m.addendDone (addendOf s f e j)) ms

theorem chains_pass (js : List Nat) (ms : MemSys) :
    (js.map (chainOf s f e)).foldl (fun m c => c.addends.foldl MemSys.addendDone m) ms = addendsDone s f e js ms := by
  rw [addendsDone, List.foldl_map]
  rfl

theorem addendsDone_sums (P : SumPlaces s f e) {js : List Nat} (hnodup : js.Nodup) {done : Nat → Prop} {ms : MemSys}
    (hjs : ∀ j ∈ js, live s.self f.msk j ∧ ¬done j) (M : SumsIn s f e done ms) :
    SumsIn s f e (fun j => done j ∨ j ∈ js) (addendsDone s f e js ms) ∧ (addendsDone s f e js ms).chains = ms.chains := by
  induction js generalizing ms done with
  | nil => exact ⟨M.congr fun j _ => by simp, rfl⟩
  | cons i js ih =>
    obtain ⟨hi, hnew⟩ := hjs i List.mem_cons_self
    obtain ⟨hnot, hnodup'⟩ := List.nodup_cons.mp hnodup
    have hone := addendDone_eq (s := s) (f := f) P.elems P.wide M.clean (P.device hi) (M.hdmFree (P.rest i hi))
    rw [M.updated.olds i hi hnew] at hone
    have M' := M.write P.apart hi (pow_width P.elems P.wide ▸ sum_lt P.wide _ _ _) (m := ms.addendDone (addendOf s f e i))
      (by rw [hone]; rfl) (by rw [hone]; rfl) (by rw [hone]; exact M.clean) (by rw [hone]; rfl)
    obtain ⟨hsums, hchains⟩ := ih hnodup' (fun j hj => ⟨(hjs j (List.mem_cons_of_mem _ hj)).1, fun h => h.elim
      (hjs j (List.mem_cons_of_mem _ hj)).2 fun h => hnot (h ▸ hj)⟩) M'
    refine ⟨hsums.congr fun j _ => by simp only [List.mem_cons, or_assoc], hchains.trans ?_⟩
    rw [hone]
    rfl

/-! ### The addends that wait -/

/-- Before element i the addends of js wait, each in a chain of its own; the others have been applied. -/
structure SumTo (s : State) (f : VM) (e : Nat → TlbEntry) (i : Nat) (js : List Nat) (ms : MemSys) : Prop where
  chains : ms.chains = js.map (chainOf s f e)
  nodup : js.Nodup
  waits : ∀ j ∈ js, live s.self f.msk j ∧ j < i
  sums : SumsIn s f e (fun j => j < i ∧ j ∉ js) ms

theorem SumTo.filter (S : SumTo s f e i js ms) (due : Chain → Bool) :
    ms.chains.filter due = (js.filter fun j => due (chainOf s f e j)).map (chainOf s f e) := by
  rw [S.chains, List.filter_map]
  rfl

/-- The chains that are due pass. -/
theorem SumTo.pass (S : SumTo s f e i js ms) (P : SumPlaces s f e) (due : Chain → Bool) :
    SumTo s f e i (js.filter fun j => !due (chainOf s f e j))
      ((ms.chains.filter due).foldl (fun m c => c.addends.foldl MemSys.addendDone m)
        { ms with chains := ms.chains.filter fun c => !due c }) := by
  have hpass : (ms.chains.filter due).foldl (fun m c => c.addends.foldl MemSys.addendDone m)
      { ms with chains := ms.chains.filter fun c => !due c } =
        addendsDone s f e (js.filter fun j => due (chainOf s f e j)) { ms with chains := ms.chains.filter fun c => !due c } := by
    rw [S.filter due, chains_pass]
  have M : SumsIn s f e (fun j => j < i ∧ j ∉ js) { ms with chains := ms.chains.filter fun c => !due c } :=
    ⟨S.sums.homes, S.sums.hdm, S.sums.clean, S.sums.updated⟩
  obtain ⟨hsums, hchains⟩ := addendsDone_sums P (S.nodup.filter fun j => due (chainOf s f e j))
    (fun j hj => ⟨(S.waits j (List.mem_of_mem_filter hj)).1, fun h => h.2 (List.mem_of_mem_filter hj)⟩) M
  rw [hpass]
  refine ⟨hchains.trans ?_, S.nodup.filter _, fun j hj => S.waits j (List.mem_of_mem_filter hj), hsums.congr fun j _ => ?_⟩
  · exact S.filter fun c => !due c
  · have hlt : j ∈ js → j < i := fun h => (S.waits j h).2
    simp only [List.mem_filter]
    cases due (chainOf s f e j) with
    | false => simp
    | true =>
      simp only [Bool.not_true, Bool.false_eq_true, and_false, not_false_eq_true, and_true]
      tauto

/-- An addend joins. -/
theorem SumTo.join (S : SumTo s f e i js ms) (hi : live s.self f.msk i) :
    SumTo s f e (i + 1) (js ++ [i]) { ms with chains := ms.chains ++ [chainOf s f e i] } where
  chains := by
    rw [S.chains, List.map_append]
    rfl
  nodup := List.nodup_append.mpr ⟨S.nodup, List.nodup_singleton _, fun j hj k hk h => by
    have := (S.waits j hj).2
    rw [List.mem_singleton] at hk
    omega⟩
  waits j hj := by
    rcases List.mem_append.mp hj with hj | hj
    · exact ⟨(S.waits j hj).1, Nat.lt_succ_of_lt (S.waits j hj).2⟩
    · obtain rfl := List.mem_singleton.mp hj
      exact ⟨hi, Nat.lt_succ_self j⟩
  sums := MemoryTo.congr (ms := { ms with chains := ms.chains ++ [chainOf s f e i] })
    ⟨S.sums.homes, S.sums.hdm, S.sums.clean, S.sums.updated⟩ fun j _ => by
      have hlt : j < i + 1 ∧ j ≠ i ↔ j < i := by omega
      rw [List.mem_append, List.mem_singleton, not_or, ← hlt]
      tauto

/-- The addend of a live element joins a chain of its own, a full table having passed one first. -/
theorem SumTo.scatter (S : SumTo s f e i js ms) (P : SumPlaces s f e) (hi : live s.self f.msk i) :
    ∃ js', SumTo s f e (i + 1) js' (ms.scatterAdd (addendOf s f e i)) := by
  have hnew : ms.chains.find? (fun c => c.word == (addendOf s f e i).pa / 8) = none := by
    rw [List.find?_eq_none, S.chains]
    intro c hc
    obtain ⟨j, hj, rfl⟩ := List.mem_map.mp hc
    obtain ⟨hl, hlt⟩ := S.waits j hj
    rw [Bool.not_eq_true, beq_eq_false_iff_ne]
    exact P.word_ne hl hi (by omega)
  unfold MemSys.scatterAdd
  simp only [hnew]
  split
  · split
    · exact ⟨_, S.join hi⟩
    · exact ⟨_, (S.pass P _).join hi⟩
  · exact ⟨_, S.join hi⟩

/-- An element that is not live sends nothing. -/
theorem SumTo.skip (S : SumTo s f e i js ms) (hi : ¬live s.self f.msk i) : SumTo s f e (i + 1) js ms :=
  ⟨S.chains, S.nodup, fun j hj => ⟨(S.waits j hj).1, Nat.lt_succ_of_lt (S.waits j hj).2⟩, S.sums.congr fun j hj => by
    have : j ≠ i := fun h => hi (h ▸ hj)
    constructor <;> rintro ⟨h1, h2⟩ <;> exact ⟨by omega, h2⟩⟩

/-- Once every chain has passed no addend waits. -/
theorem SumTo.settled (S : SumTo s f e i js ms) (P : SumPlaces s f e) : SumsIn s f e (· < i) ms.settleAll := by
  have hall := S.pass P fun _ => true
  have hnone : (ms.chains.filter fun _ => !true) = [] := List.filter_false _
  rw [List.filter_true, hnone] at hall
  exact hall.sums.congr fun j _ => by simp

end sums

end Sys2Proof.Proofs
end

section
/-! VSADD in GLOBAL, and O29 (R128, R263). -/

namespace Sys2Proof.Proofs
open Sys2Proof.Machine Sys2Proof.Claim

section atoms
variable {s : State} {f : VM} {x : Storing} {e : Nat → TlbEntry}

/-! ### Addends sent (R128) -/

theorem heldAt_noLine {ms : MemSys} {a n : Nat} (hl : noLine ms a n) (hn : 0 < n) : ms.heldAt a = none := by
  have hle : lineOf a ≤ lineOf (a + n - 1) := Nat.div_le_div_right (by omega)
  unfold MemSys.heldAt
  rw [List.find?_eq_none]
  intro h hh
  cases hk : h.key with
  | addr u l =>
    have := hl h hh u l hk
    simp only [beq_iff_eq]
    omega
  | tensor => simp

/-- What the sending of an addend does: the loads ahead, the copies in the L1 data cache, the chains. -/
def Storing.send (x : Storing) (s : State) (pa n : Nat) (d : Addend) : Storing :=
  { x.squash s.self (.mem, pa) n with
    l1d := (((x.squash s.self (.mem, pa) n).core s.self).l1DropAddr pa n).cache.l1d
    ms := x.ms.scatterAdd d }

theorem sendAddend_free {j : Nat} (ht : f.et ≠ .wac) (hw : 16 ≤ ETwidth f.et) (hdev : atomPa s f e j < 2 ^ 42)
    (hl : noLine x.ms (atomPa s f e j) (Claim.bytesOf f.et)) (hp : x.ms.poison = [])
    (hf : hdmFree x.ms (atomPa s f e j) (Claim.bytesOf f.et)) :
    sendAddend (s.ctxOf s.cur) ((e j).hit s (storeAddr s f .indexed j)) f.et s.self.rm (held s.self f.et f.vd j) (x.state s) =
      .ok () ((x.send s (atomPa s f e j) (Claim.bytesOf f.et) (addendOf s f e j)).state s) := by
  have hbytes : ETwidth f.et / 8 = Claim.bytesOf f.et := by
    have := width_bytes ht hw
    omega
  have hga : ((e j).hit s (storeAddr s f .indexed j)).ga = atomPa s f e j := rfl
  have hsquash := squashAhead_storing (s := s) (x := x) (.mem, atomPa s f e j) (Claim.bytesOf f.et)
  have hfree : bisnpCheck (atomPa s f e j) (Claim.bytesOf f.et) (x.state s) = .ok () (x.state s) := bisnpCheck_atRest hf
  have hms : (x.squash s.self (.mem, atomPa s f e j) (Claim.bytesOf f.et)).ms = x.ms := rfl
  unfold Storing.send
  generalize x.squash s.self (.mem, atomPa s f e j) (Claim.bytesOf f.et) = y at hsquash hms ⊢
  have hstate : (y.state s).ms = x.ms := hms
  have hset : ({ y.state s with ms := x.ms } : State) = y.state s := by rw [← hstate]
  have haddend : ({ pa := atomPa s f e j, et := f.et, rm := s.self.rm, value := held s.self f.et f.vd j
                    tenant := (s.ctxOf s.cur).tenant } : Addend) = addendOf s f e j := rfl
  simp only [sendAddend, hga, hbytes, if_neg (Nat.not_le.mpr hdev), X.bind_apply, hfree, hsquash, X.modify_apply, hstate,
    heldAt_noLine hl (bytesOf_pos f.et), Option.isSome_none, Bool.false_eq_true, if_false, poisoned_clean hp, haddend]
  exact congrArg (EStateM.Result.ok ()) (Storing.state_mod (x := { y with ms := x.ms.scatterAdd (addendOf s f e j) }) rfl rfl)

/-! ### VSADD in GLOBAL -/

/-- VSADD adds each live element at its place in GLOBAL, at the latest when the addends under way have passed. -/
theorem vsadd_global (h : Accesses s f .indexed) (P : SumPlaces s f e) (hc : s.ms.chains = []) (hp : s.ms.poison = [])
    (hpin : s.self.cache.pin = none) (hspace : s.self.space = 0) :
    ∃ (x : Storing) (js : List Nat), exec (.vsadd f) s = .next (storeEnd (x.state s) f.ord.toNat s.self.scope (extSize f.ext)) ∧ x.Quiet s.self ∧
      SumTo s f e (s.self.vstart + (s.self.vrows * s.self.vcols - s.self.vstart)) js x.ms := by
  obtain ⟨x, ⟨hq, js, S⟩, hexec⟩ := vsadd_completes h P.elems (hspace.trans_le (Nat.zero_le 1))
    (Inv := fun i x => x.Quiet s.self ∧ ∃ js, SumTo s f e i js x.ms)
    ⟨Storing.quiet_begin s, [], hc, List.nodup_nil, fun j hj => absurd hj List.not_mem_nil, rfl, rfl, hp,
      Updated.none fun j hj hd => Nat.not_lt.mpr hj.1 hd.1⟩
    (fun j x hl ⟨hq, js, S⟩ => by
      have haddr : BitVec.ofInt 64 ((s.self.rd f.xa).toNat + (atomAt s.self f f.value.toInt j).1) = storeAddr s f .indexed j := by
        rw [atomAt_value P.wide, ← storeAddr_eq]
      have hplace := place_atom_plain (x := x) (j := j) hspace P.elems P.wide hpin haddr (P.align j hl) (P.mapped j hl)
      have hsend := sendAddend_free (x := x) P.elems P.wide (P.device hl) (S.sums.noLine (P.rest j hl)) S.sums.clean
        (S.sums.hdmFree (P.rest j hl))
      obtain ⟨hcsrs, hnone⟩ := hq.squash (.mem, atomPa s f e j) (Claim.bytesOf f.et)
      refine ⟨_, x.send s (atomPa s f e j) (Claim.bytesOf f.et) (addendOf s f e j), hplace, ?_, ⟨hcsrs, hnone⟩, S.scatter P hl⟩
      simp only [addPerform, X.bind_apply, hsend, X.pure_apply])
    fun j x hl ⟨hq, js, S⟩ => ⟨hq, js, S.skip hl⟩
  exact ⟨x, js, hexec, hq, S⟩

/-- A release applies the addends that wait, whatever replicas an acquire has dropped. -/
theorem SumTo.released {i : Nat} {js : List Nat} {ms : MemSys} {t : State} {r : Vector Nat 64} {p : List Replica} (S : SumTo s f e i js ms)
    (P : SumPlaces s f e) (ht : t.ms = withReplicas r p ms) : SumsIn s f e (· < i) t.release.ms := by
  have hsame : SumTo s f e i js t.ms := by
    rw [ht]
    exact ⟨S.chains, S.nodup, S.waits, S.sums.homes, S.sums.hdm, S.sums.clean, S.sums.updated⟩
  exact hsame.settled P

end atoms

/-! ### O29 -/

/-- Scatter-adds and atomics in every space. -/
theorem vectorAtomics : VectorAtomics := by
  intro f s e k n w g addr pa val old amo hacc ht hw hc hp hclean hpin
  have h := accesses_iff.mp hacc
  refine ⟨fun hspace htf => ⟨finish_vatomic_space h hspace htf _, finish_vatomic_space h hspace htf _⟩, fun hspace hopen hapart => ?_,
    fun hspace hmap hwords => ?_, fun hspace hopen hapart => ?_, fun hspace hmap hapart => ?_⟩
  · obtain ⟨x, hexec, S⟩ := vsadd_scratch h ht hw hclean hspace hopen hapart
    obtain ⟨L, hscratch, r, p, hend⟩ := storeEnd_leaves S.quiet f.ord.toNat s.self.scope (extSize f.ext)
    refine ⟨_, hexec, L.vec, L.vstart, fun _ => ?_, fun j hj => ?_, fun b hb => ?_⟩
    · rw [hend, S.ms]
      rfl
    · rw [hscratch]
      refine (S.updated.news j hj (live_lt hj)).trans ?_
      simp only [sumAt, old, if_pos hspace]
      rfl
    · rw [hscratch]
      exact S.updated.beside b hb
  · have P : SumPlaces s f e := ⟨ht, hw, fun j hj => (hmap j hj).1, fun j hj => (hmap j hj).2.1, fun j hj => (hmap j hj).2.2, hwords⟩
    obtain ⟨x, js, hexec, hq, S⟩ := vsadd_global h P hc hp hpin hspace
    obtain ⟨L, -, r, p, hend⟩ := storeEnd_leaves hq f.ord.toNat s.self.scope (extSize f.ext)
    have M := S.released P hend
    have hne : ¬k.space = 1 := by omega
    refine ⟨_, hexec, L.vec, L.vstart, fun j hj => ?_, fun b hb => M.updated.beside b hb⟩
    refine (M.updated.news j hj (live_lt hj)).trans ?_
    simp only [sumGlobal, sumAt, old, if_neg hne]
    rfl
  · obtain ⟨x, t, hexec, L, S⟩ := vamo_scratch h ht hw hclean hspace hopen hapart
    have hold : ∀ j, old g j = s.self.scratch.read (atomAddr s (amoForm f) j) (Claim.bytesOf f.et) := fun j => if_pos hspace
    refine ⟨t, hexec, L.vstart, L.register, fun j hj => ⟨(L.olds j hj).trans (hold j).symm, ?_⟩, fun b hb => ?_⟩
    · rw [L.scratch]
      refine (S.updated.news j hj (live_lt hj)).trans ?_
      simp only [amoAt, ← hold]
      rfl
    · rw [L.scratch]
      exact S.updated.beside b hb
  · obtain ⟨x, t, hexec, L, A⟩ := vamo_global h ht hw hc hp hpin hspace hmap hapart
    have hne : ¬k.space = 1 := by omega
    have hold : ∀ j, old g j = s.ms.mem.read (atomPa s (amoForm f) e j) (Claim.bytesOf f.et) := fun j => if_neg hne
    refine ⟨t, hexec, L.vstart, L.register, fun j hj => ⟨(L.olds j hj).trans (hold j).symm, ?_⟩, fun b hb => ?_⟩
    · rw [L.mem]
      refine (A.memory.updated.news j hj (live_lt hj)).trans ?_
      simp only [amoAt, ← hold]
      rfl
    · rw [L.mem]
      exact A.memory.updated.beside b hb

/-- Settles O29: stores by the last write of each half byte, scatter-adds and atomics by the places updated so far. -/
theorem vectorStoresAndAtomics : Obligations.VectorStoresAndAtomics := ⟨vectorStores, vectorAtomics⟩

end Sys2Proof.Proofs
end
